-- ==== Sys2Proof/Word.lean ====
section
/-! DEFINITION. The word types, little-endian byte lists and the sparse maps that hold memories (00_scope.md R5, R7). -/

namespace Sys2Proof

/-- A byte of memory. -/
abbrev Byte := BitVec 8

/-- A general register (R7, R114). -/
abbrev Word := BitVec 64

/-- A vector register of 16 lanes of 32 bits (R165). -/
abbrev Vec := BitVec 512

/-- A predicate register (R165, R177). -/
abbrev Pred := BitVec 16

/-- Puts an element before the first one it is not above. -/
def insertBy {α : Type} (le : α → α → Bool) (x : α) : List α → List α
  | [] => [x]
  | y :: ys => if le x y then x :: y :: ys else y :: insertBy le x ys

/-- A stable sort. -/
def sortBy {α : Type} (le : α → α → Bool) (l : List α) : List α := l.foldr (insertBy le) []

/-- A list of (key, value) pairs with strictly rising keys. -/
abbrev KMap (α : Type) := List (Nat × α)

namespace KMap

variable {α : Type}

/-- The value at a key, if it is listed. -/
def find? : KMap α → Nat → Option α
  | [], _ => none
  | (k, v) :: m, i => if i = k then some v else if i < k then none else find? m i

/-- The value at a key, or what an unlisted key reads as. -/
def getD (m : KMap α) (i : Nat) (d : α) : α := (m.find? i).getD d

/-- Lists a value at a key, in rising order. -/
def insert : KMap α → Nat → α → KMap α
  | [], i, x => [(i, x)]
  | (k, v) :: m, i, x => if i = k then (i, x) :: m else if i < k then (i, x) :: (k, v) :: m else (k, v) :: insert m i x

/-- Removes a key. -/
def erase : KMap α → Nat → KMap α
  | [], _ => []
  | (k, v) :: m, i => if i = k then m else if i < k then (k, v) :: m else (k, v) :: erase m i

/-- Writes a value in canonical form: what equals an unlisted key's value is not listed. -/
def put [DecidableEq α] (d : α) (m : KMap α) (i : Nat) (x : α) : KMap α :=
  if x = d then m.erase i else m.insert i x

/-- Every key is at least `lo`, the keys rise strictly and no value is the one an unlisted key reads as. -/
def wfFrom [DecidableEq α] (d : α) : Nat → KMap α → Bool
  | _, [] => true
  | lo, (k, v) :: m => decide (lo ≤ k) && decide (v ≠ d) && wfFrom d (k + 1) m

end KMap

/-- A memory: the bytes that are not zero, by address (02_language.md R31, 14 R226, 21 R408). -/
abbrev Memory := KMap Byte

namespace Memory

/-- The byte at an address; an unlisted byte reads as zero. -/
def get (m : Memory) (a : Nat) : Byte := KMap.getD m a 0#8

/-- Stores a byte. -/
def put (m : Memory) (a : Nat) (b : Byte) : Memory := KMap.put 0#8 m a b

/-- The canonical form: addresses strictly rising and no listed byte is zero. -/
def wf (m : Memory) : Bool := KMap.wfFrom 0#8 0 m

/-- Stores a list of bytes upward from an address. -/
def putBytes (m : Memory) (a : Nat) : List Byte → Memory
  | [] => m
  | b :: bs => putBytes (m.put a b) (a + 1) bs

/-- The `n` bytes upward from an address. -/
def getBytes (m : Memory) (a : Nat) : Nat → List Byte
  | 0 => []
  | n + 1 => m.get a :: getBytes m (a + 1) n

end Memory

end Sys2Proof
end

