-- ==== Sys2Proof/Machine/Flags.lean ====
section
/-! DEFINITION. Number formats, rounding, encoding and the sticky flags: 04_numbers.md R53 to R73. Every value is decoded
exactly, every operation is exact, and one `encode` rounds at the end. -/

namespace Sys2Proof.Machine

open Sys2Proof

/-! ## Flags (Table 4.3) -/

def NV : Nat := 1
def DZ : Nat := 2
def OF : Nat := 4
def UF : Nat := 8
def NX : Nat := 16
def SATF : Nat := 32
def QLOSS : Nat := 64
def IOVF : Nat := 128

/-- Two sets of flags together. -/
def orFlags (a b : Nat) : Nat := Nat.lor a b

/-! ## Exact values -/

/-- A dyadic rational m × 2^e. -/
structure Dy where
  m : Int
  e : Int
  deriving DecidableEq, Repr

namespace Dy

def zero : Dy := ⟨0, 0⟩
def neg (a : Dy) : Dy := ⟨-a.m, a.e⟩
def abs (a : Dy) : Dy := ⟨a.m.natAbs, a.e⟩
/-- The mantissa of `a` at an exponent not above its own. -/
def at' (a : Dy) (e : Int) : Int := a.m * (2 ^ (a.e - e).toNat : Nat)
def add (a b : Dy) : Dy := let e := min a.e b.e; ⟨a.at' e + b.at' e, e⟩
def sub (a b : Dy) : Dy := a.add b.neg
def mul (a b : Dy) : Dy := ⟨a.m * b.m, a.e + b.e⟩
def isZero (a : Dy) : Bool := a.m == 0
def lt (a b : Dy) : Bool := decide ((a.sub b).m < 0)
def le (a b : Dy) : Bool := decide ((a.sub b).m ≤ 0)
def ofInt (i : Int) : Dy := ⟨i, 0⟩

end Dy

/-- A decoded number: a NaN, an infinity, or a signed finite value (a zero keeps its sign). -/
inductive FV where
  | nan
  | inf (neg : Bool)
  | fin (neg : Bool) (mant : Nat) (exp : Int)
  deriving DecidableEq, Repr

/-- A binary floating-point format of Table 4.1. -/
structure Fmt where
  bits : Nat
  mbits : Nat
  bias : Int
  hasInf : Bool
  maxBits : Nat
  infBits : Nat
  nanBits : Nat
  deriving DecidableEq, Repr

def fp32 : Fmt := ⟨32, 23, 127, true, 0x7F7FFFFF, 0x7F800000, 0x7FC00000⟩
def fp16 : Fmt := ⟨16, 10, 15, true, 0x7BFF, 0x7C00, 0x7E00⟩
def bf16 : Fmt := ⟨16, 7, 127, true, 0x7F7F, 0x7F80, 0x7FC0⟩
def e4m3 : Fmt := ⟨8, 3, 7, false, 0x7E, 0x7F, 0x7F⟩
def e5m2 : Fmt := ⟨8, 2, 15, true, 0x7B, 0x7C, 0x7E⟩

/-- The exponent of a format's subnormal spacing. -/
def Fmt.qmin (f : Fmt) : Int := 1 - f.bias - f.mbits

/-- Exact decoding of a pattern (Table 4.1, R54). -/
def decodeF (f : Fmt) (x : Nat) : FV :=
  let neg := decide (2 ^ (f.bits - 1) ≤ x % 2 ^ f.bits)
  let mag := x % 2 ^ (f.bits - 1)
  if f.hasInf && mag == f.infBits then .inf neg
  else if f.maxBits < mag then .nan
  else
    let e := mag / 2 ^ f.mbits
    let m := mag % 2 ^ f.mbits
    if e = 0 then .fin neg m f.qmin else .fin neg (m + 2 ^ f.mbits) (f.qmin + (e - 1 : Nat))

/-- The number of bits of a magnitude. -/
def bitLen (n : Nat) : Nat := if n = 0 then 0 else Nat.log2 n + 1

/-- Rounds the quotient `n` with remainder `r` of `d` (and a sticky bit beyond) under a mode: 0 RNE, 1 RTZ, 2 RUP, 3 RDN (R55). -/
def roundUp (mode : Nat) (neg : Bool) (n r d : Nat) (sticky : Bool) : Nat :=
  let inexact := r != 0 || sticky
  let up := match mode with
    | 0 => decide (d < 2 * r) || (decide (d = 2 * r) && (sticky || n % 2 == 1))
    | 1 => false
    | 2 => inexact && !neg
    | _ => inexact && neg
  if up then n + 1 else n

/-- R56 for a nonzero magnitude m × 2^e, with nonzero bits below when `sticky`: pattern and flags. -/
def encodeMag (f : Fmt) (mode : Nat) (sat neg : Bool) (m : Nat) (e : Int) (sticky : Bool) : Nat × Nat :=
  let sign := if neg then 2 ^ (f.bits - 1) else 0
  let top : Int := e + bitLen m - 1
  let q : Int := max f.qmin (top - f.mbits)
  let sh := (q - e).toNat
  let m' := m * 2 ^ (e - q).toNat
  let n := m' / 2 ^ sh
  let r := m' % 2 ^ sh
  let inexact := r != 0 || sticky
  let y := roundUp mode neg n r (2 ^ sh) sticky
  let mag := (q - f.qmin).toNat * 2 ^ f.mbits + y
  let nx := if inexact then NX else 0
  let uf := if inexact && decide (mag < 2 ^ f.mbits) then UF else 0
  if f.maxBits < mag then
    if sat then (sign + f.maxBits, OF + NX + SATF)
    else if mode = 0 || (mode = 2 && !neg) || (mode = 3 && neg) then
      (if f.hasInf then sign + f.infBits else f.nanBits, OF + NX)
    else (sign + f.maxBits, OF + NX)
  else (sign + mag, nx + uf)

/-- R56: encodes a value into a format under a mode; the pattern and the flags. -/
def encodeF (f : Fmt) (mode : Nat) (sat : Bool) (x : FV) : Nat × Nat :=
  match x with
  | .nan => (f.nanBits, 0)
  | .inf neg =>
    let sign := if neg then 2 ^ (f.bits - 1) else 0
    if f.hasInf then (sign + f.infBits, 0) else if sat then (sign + f.maxBits, SATF) else (f.nanBits, NV)
  | .fin neg m e =>
    if m = 0 then (if neg then 2 ^ (f.bits - 1) else 0, 0) else encodeMag f mode sat neg m e false

/-- The signed dyadic of a finite value; zero for the others. -/
def FV.dy : FV → Dy
  | .fin neg m e => ⟨if neg then -(m : Int) else m, e⟩
  | _ => .zero

def FV.isNan : FV → Bool
  | .nan => true
  | _ => false

def FV.isInf : FV → Bool
  | .inf _ => true
  | _ => false

def FV.neg : FV → Bool
  | .nan => false
  | .inf n => n
  | .fin n _ _ => n

def FV.isZero : FV → Bool
  | .fin _ m _ => m == 0
  | _ => false

/-- The value with its sign flipped. -/
def FV.flip : FV → FV
  | .nan => .nan
  | .inf n => .inf (!n)
  | .fin n m e => .fin (!n) m e

/-- A dyadic as a value; `z` is the sign that an exact zero takes. -/
def FV.ofDy (z : Bool) (a : Dy) : FV := if a.m = 0 then .fin z 0 0 else .fin (decide (a.m < 0)) a.m.natAbs a.e

/-- Exact sum, with the sign of an exact zero under the mode (R70); the flags are NV for +Inf and −Inf. -/
def addFV (mode : Nat) (a b : FV) : FV × Nat :=
  match a, b with
  | .nan, _ => (.nan, 0)
  | _, .nan => (.nan, 0)
  | .inf x, .inf y => if x = y then (.inf x, 0) else (.nan, NV)
  | .inf x, _ => (.inf x, 0)
  | _, .inf y => (.inf y, 0)
  | .fin x m _, .fin y n _ =>
    if m = 0 ∧ n = 0 then (.fin (if x = y then x else decide (mode = 3)) 0 0, 0)
    else (FV.ofDy (decide (mode = 3)) (a.dy.add b.dy), 0)

/-- Exact product; NV for 0 × Inf. -/
def mulFV (a b : FV) : FV × Nat :=
  match a, b with
  | .nan, _ => (.nan, 0)
  | _, .nan => (.nan, 0)
  | .inf x, y => if y.isZero then (.nan, NV) else (.inf (x != y.neg), 0)
  | x, .inf y => if x.isZero then (.nan, NV) else (.inf (x.neg != y), 0)
  | .fin x m e, .fin y n f => (.fin (x != y) (m * n) (e + f), 0)

/-- The fused a × b + c, rounded once (R70). DESIGN CHOICE (log 59): 0 × Inf sets NV with a NaN for c too. -/
def fmaF (f : Fmt) (mode : Nat) (a b c : FV) : Nat × Nat :=
  let p := mulFV a b
  if p.2 ≠ 0 then (f.nanBits, p.2)
  else
    let s := addFV mode p.1 c
    let r := encodeF f mode false s.1
    (r.1, orFlags s.2 r.2)

/-- Sum rounded once. -/
def addF (f : Fmt) (mode : Nat) (a b : FV) : Nat × Nat :=
  let s := addFV mode a b
  let r := encodeF f mode false s.1
  (r.1, orFlags s.2 r.2)

/-- Product rounded once. -/
def mulF (f : Fmt) (mode : Nat) (a b : FV) : Nat × Nat :=
  let s := mulFV a b
  let r := encodeF f mode false s.1
  (r.1, orFlags s.2 r.2)

/-- Order of two numbers that are not NaNs, with −0 below +0 (R70). -/
def ltFV (a b : FV) : Bool :=
  match a, b with
  | .inf x, .inf y => x && !y
  | .inf x, _ => x
  | _, .inf y => !y
  | _, _ => if a.isZero && b.isZero then a.neg && !b.neg else a.dy.lt b.dy

/-- `VMIN`, `VMAX` on patterns: a NaN operand gives the canonical NaN, no flag (R70). -/
def minmaxF (f : Fmt) (wantMax : Bool) (a b : Nat) : Nat :=
  let x := decodeF f a
  let y := decodeF f b
  if x.isNan || y.isNan then f.nanBits
  else if wantMax then (if ltFV x y then b else a) else (if ltFV y x then b else a)

/-- Equality as `VCMP` sees it: −0 equals +0. -/
def eqFV (a b : FV) : Bool :=
  match a, b with
  | .inf x, .inf y => x == y
  | .fin _ _ _, .fin _ _ _ => (a.dy.sub b.dy).isZero
  | _, _ => false

/-! ## Functions rounded correctly from integer arithmetic (R70) -/

/-- The correctly rounded p / q × 2^e for positive p and q. -/
def divMag (f : Fmt) (mode : Nat) (neg : Bool) (p q : Nat) (e : Int) : Nat × Nat :=
  let sh := 2 * f.bits + bitLen q
  let n := p * 2 ^ sh / q
  encodeMag f mode false neg (2 * n + 1) (e - sh - 1) (p * 2 ^ sh % q != 0) |> fun r =>
    if p * 2 ^ sh % q = 0 then encodeMag f mode false neg n (e - sh) false else r

/-- 1 / x with DZ for a zero. -/
def rcpF (mode : Nat) (x : FV) : Nat × Nat :=
  match x with
  | .nan => (fp32.nanBits, 0)
  | .inf n => (if n then 2 ^ 31 else 0, 0)
  | .fin n m e => if m = 0 then ((if n then 2 ^ 31 else 0) + fp32.infBits, DZ) else divMag fp32 mode n 1 m (-e)

/-- 1 / √x; −0 gives −Inf with DZ, a negative value NaN with NV. -/
def rsqF (mode : Nat) (x : FV) : Nat × Nat :=
  match x with
  | .nan => (fp32.nanBits, 0)
  | .inf n => if n then (fp32.nanBits, NV) else (0, 0)
  | .fin n m e =>
    if m = 0 then ((if n then 2 ^ 31 else 0) + fp32.infBits, DZ)
    else if n then (fp32.nanBits, NV)
    else
      -- 1/√(m 2^e) with e made even: √(2^(2s) / m') × 2^(-e'/2 - s)
      let m' := if e % 2 = 0 then m else 2 * m
      let e' := if e % 2 = 0 then e else e - 1
      let s : Nat := 96
      let v := 2 ^ (2 * s) / m'
      let r := Nat.sqrt v
      let exact := r * r * m' == 2 ^ (2 * s)
      if exact then encodeMag fp32 mode false false r (-(e' / 2) - s) false
      else encodeMag fp32 mode false false (2 * r + 1) (-(e' / 2) - s - 1) true

/-- Working precision of `VEXP2` and `VLOG2` in bits. -/
def workBits : Nat := 400

/-- The product of 2^(2^-i) over the set bits of a fraction, at `workBits`: `root` is 2^(2^-i) at this bit. -/
def exp2Loop : Nat → Nat → Nat → Nat → Nat
  | 0, _, _, acc => acc
  | i + 1, fr, root, acc =>
    let acc' := if fr.testBit i then acc * root / 2 ^ workBits else acc
    exp2Loop i fr (Nat.sqrt (root * 2 ^ workBits)) acc'

/-- The correctly rounded 2^x. -/
def exp2F (mode : Nat) (x : FV) : Nat × Nat :=
  match x with
  | .nan => (fp32.nanBits, 0)
  | .inf n => (if n then 0 else fp32.infBits, 0)
  | .fin n m e =>
    if m = 0 then (0x3F800000, 0)
    else if 0 ≤ e || (m % 2 ^ (-e).toNat = 0) then
      let i : Nat := if 0 ≤ e then m * 2 ^ e.toNat else m / 2 ^ (-e).toNat
      let i := min i 100000
      encodeMag fp32 mode false false 1 (if n then -(i : Int) else i) false
    else
      let w := (-e).toNat
      -- floor of x and the fraction in [0, 1) at w bits
      let ip : Nat := m / 2 ^ w
      let fp : Nat := m % 2 ^ w
      let i : Int := if n then -(ip : Int) - 1 else ip
      let fr : Nat := if n then 2 ^ w - fp else fp
      let r := exp2Loop w fr (Nat.sqrt (2 * 2 ^ (2 * workBits))) (2 ^ workBits)
      let i := max (-100000) (min i 100000)
      encodeMag fp32 mode false false (2 * r + 1) (i - workBits - 1) true

/-- The first `n` bits of log2 of y / 2^p for y / 2^p in [1, 2), by repeated squaring. -/
def log2Loop : Nat → Nat → Nat → Nat → Nat
  | 0, _, _, acc => acc
  | n + 1, p, y, acc =>
    let z := y * y / 2 ^ p
    if 2 ^ (p + 1) ≤ z then log2Loop n p (z / 2) (2 * acc + 1) else log2Loop n p z (2 * acc)

/-- The correctly rounded log2 x. -/
def log2F (mode : Nat) (x : FV) : Nat × Nat :=
  match x with
  | .nan => (fp32.nanBits, 0)
  | .inf n => if n then (fp32.nanBits, NV) else (fp32.infBits, 0)
  | .fin n m e =>
    if m = 0 then (2 ^ 31 + fp32.infBits, DZ)
    else if n then (fp32.nanBits, NV)
    else
      let t := bitLen m - 1
      let i : Int := e + t
      if m = 2 ^ t then encodeF fp32 mode false (FV.ofDy false ⟨i, 0⟩)
      else
        let p := 2 * workBits
        let fr := log2Loop (workBits / 2) p (m * 2 ^ (p - t)) 0
        let v : Int := i * 2 ^ (workBits / 2) + fr
        -- the value lies strictly between v and v + 1, in units of 2^-(workBits/2)
        if 0 ≤ v then encodeMag fp32 mode false false (2 * v.toNat + 1) (-(workBits / 2 : Nat) - 1) true
        else encodeMag fp32 mode false true (2 * v.natAbs - 1) (-(workBits / 2 : Nat) - 1) true

/-- The correctly rounded square root, for the cosine norm (R295). -/
def sqrtF (x : FV) : Nat :=
  match x with
  | .nan => fp32.nanBits
  | .inf _ => fp32.infBits
  | .fin _ m e =>
    if m = 0 then 0
    else
      let m' := (if e % 2 = 0 then m else 2 * m) * 2 ^ 128
      let e' := if e % 2 = 0 then e else e - 1
      let r := Nat.sqrt m'
      if r * r = m' then (encodeMag fp32 0 false false r (e' / 2 - 64) false).1
      else (encodeMag fp32 0 false false (2 * r + 1) (e' / 2 - 65) true).1

/-! ## Integers (R57) -/

/-- The integer that a finite value rounds to, and whether it was exact. -/
def roundInt (mode : Nat) (neg : Bool) (m : Nat) (e : Int) : Int × Bool :=
  let sh := (-e).toNat
  let m' : Nat := m * 2 ^ e.toNat
  let n := m' / 2 ^ sh
  let r := m' % 2 ^ sh
  let y := roundUp mode neg n r (2 ^ sh) false
  (if neg then -(y : Int) else y, r == 0)

/-- R57 for a range, which is that of the value and not of its rounded integer; `frame` is n8, whose clamp sets SATF. -/
def encodeInt (mode : Nat) (lo hi : Int) (frame : Bool) (x : FV) : Int × Nat :=
  let clampFlag := if frame then SATF else NV
  match x with
  | .nan => (0, NV)
  | .inf n => (if n then lo else hi, clampFlag)
  | .fin n m e =>
    let x : Int := (if n then -1 else 1) * (m * 2 ^ e.toNat : Nat)
    let d : Int := (2 ^ (-e).toNat : Nat)
    let r := roundInt mode n m e
    if x < lo * d then (lo, clampFlag) else if hi * d < x then (hi, clampFlag) else (r.1, if r.2 then 0 else NX)

/-! ## MQ4 (R60 to R65) -/

/-- The FP16 patterns of Table 4.4. -/
def mq4Levels : List Nat :=
  [0xBC00, 0xB9A9, 0xB856, 0xB6AB, 0xB4F9, 0xB2E9, 0xB013, 0x0000,
   0x2964, 0x3013, 0x32E9, 0x34F9, 0x36AB, 0x3856, 0x39A9, 0x3C00]

/-- The exact level of a code. -/
def mq4Level (c : Nat) : Dy := (decodeF fp16 (mq4Levels.getD c 0)).dy

/-- A dyadic divided by a natural, rounded to FP32 under RNE, keeping the sign of a zero. -/
def divRound (neg : Bool) (m : Nat) (e : Int) (q : Nat) : Nat × Nat :=
  if m = 0 then (if neg then 2 ^ 31 else 0, 0) else divMag fp32 0 neg m q e

/-- R62: the scale of code b ≤ 253 under a finite S: Round_fp32(S × b / 253). -/
def blockScale (s : Nat) (b : Nat) : Nat :=
  match decodeF fp32 s with
  | .fin neg m e => (divRound neg (m * b) e 253).1
  | _ => fp32.nanBits

/-- R64 for a finite block: Round_fp32(level × s). -/
def mq4Decode (c : Nat) (s : Nat) : Nat :=
  (mulF fp32 0 (decodeF fp16 (mq4Levels.getD c 0)) (decodeF fp32 s)).1

/-- A decoded element by the kind of its block: 1 finite, 2 infinite, 3 NaN (R64). DESIGN CHOICE (log 80): a finite block whose scale
is a NaN or ±Inf is a NaN block also where `VDQ` is given the scale in a lane, which no table entry holds (R184). -/
def mq4Element (kind : Nat) (s : Nat) (c : Nat) : Nat :=
  match kind with
  | 2 => if c = 0 then 0xFF800000 else if c = 15 then 0x7F800000 else 0
  | 1 => if (decodeF fp32 s).isNan || (decodeF fp32 s).isInf then 0x7FC00000 else mq4Decode c s
  | _ => 0x7FC00000

/-- |x − level(c) × s|: the distance of Nearest, times |s| (R63). -/
def mq4Dist (x s : Dy) (c : Nat) : Dy := (x.sub ((mq4Level c).mul s)).abs

/-- Nearest(x / s) of R63, for a nonzero s; a tie goes to the even code. -/
def nearest (x s : Dy) : Nat :=
  (List.range 16).foldl (fun best c =>
    let d := mq4Dist x s c
    let b := mq4Dist x s best
    if d.lt b then c else if b.lt d then best else if best % 2 = 0 then best else c) 0

/-- RoundHalfEven(253 × m / S), both positive (R63). -/
def scaleCode (m s : Dy) : Nat :=
  let e := min m.e s.e
  let p := 253 * (m.at' e).natAbs
  let q := (s.at' e).natAbs
  if q = 0 then 0 else roundUp 0 false (p / q) (p % q) q false

/-- The per-block step of R63 with a given S that is finite and not negative: b, s, the codes and the flags. DEDUCED (log 62): with
S = 0 too, a block that holds a NaN or an infinity takes R63's b for it, not R183's. -/
def quantBlock (S : Nat) (blk : List Nat) : Nat × Nat × List Nat × Nat :=
  let vs := blk.map (decodeF fp32)
  let sv := (decodeF fp32 S).dy
  let finNz (v : FV) : Bool := match v with
    | .fin _ m _ => m != 0
    | _ => false
  if vs.any FV.isNan then (255, 0, blk.map fun _ => 7, 0)
  else if vs.any FV.isInf then
    (254, 0, vs.map (fun v => match v with | .inf n => if n then 0 else 15 | _ => 7), if vs.any finNz then QLOSS else 0)
  else
    let m := vs.foldl (fun a v => if a.lt v.dy.abs then v.dy.abs else a) Dy.zero
    if m.isZero then (0, 0, blk.map fun _ => 7, 0)
    else
      let b := if sv.isZero then 253 else min 253 (max 1 (scaleCode m sv))
      let s := if sv.isZero then 0 else blockScale S b
      let sd := (decodeF fp32 s).dy
      if sd.isZero then (b, s, blk.map fun _ => 7, QLOSS + UF + NX)
      else
        let codes := vs.map fun v => nearest v.dy sd
        let exact := (vs.zip codes).all fun p => (mq4Dist p.1.dy sd p.2).isZero
        (b, s, codes, if exact then 0 else NX)

/-- R63 with a supplied S: an S that is a NaN, infinite or negative makes a NaN block and sets NV. -/
def quantBlockS (S : Nat) (blk : List Nat) : Nat × Nat × List Nat × Nat :=
  let sv := decodeF fp32 S
  if sv.isNan || sv.isInf || (sv.neg && !sv.isZero) then (255, 0, blk.map fun _ => 7, NV) else quantBlock S blk

/-- The S of R63: the largest finite magnitude of a superblock, as FP32. -/
def superScale (xs : List Nat) : Nat :=
  xs.foldl (fun best x =>
    match decodeF fp32 x with
    | .fin _ _ _ => if (decodeF fp32 best).dy.abs.lt (decodeF fp32 x).dy.abs then x % 2 ^ 31 else best
    | _ => best) 0

/-- R67: the code and the flags that a store writes for one lane into a block of a scale-table entry. DESIGN CHOICE (log 79): an
infinite lane into a finite block of scale ±0 is written as 7, like every lane of it, and sets OF, like every infinite lane. -/
def mq4StoreLane (kind s : Nat) (x : Nat) : Nat × Nat :=
  let v := decodeF fp32 x
  let nz := match v with
    | .fin _ m _ => m != 0
    | _ => false
  let sv := decodeF fp32 s
  match kind with
  | 2 => match v with
    | .inf n => (if n then 0 else 15, 0)
    | _ => (7, if nz then QLOSS else 0)
  | 1 =>
    if sv.isNan || sv.isInf then (7, 0)
    else match v with
      | .nan => (7, NV)
      | .inf n => if sv.isZero then (7, OF) else (if n != sv.neg then 0 else 15, OF)
      | _ =>
        if sv.isZero then (7, if nz then QLOSS + UF + NX else 0)
        else
          let c := nearest v.dy sv.dy
          (c, if (mq4Dist v.dy sv.dy c).isZero then 0 else NX)
  | _ => (7, 0)

/-! ## Shelf formats (Table 4.6, R67, R178) -/

/-- Element size in half bytes by format code: raw, fp32, fp16, bf16, e4m3, e5m2, int8, mq4, frame. -/
def fmtNibbles (f : Nat) : Nat :=
  match f with
  | 0 | 1 => 8
  | 2 | 3 => 4
  | 4 | 5 | 6 | 8 => 2
  | _ => 1

/-- The floating-point format of a format code, for the codes that are one. -/
def fmtOf (f : Nat) : Option Fmt :=
  match f with
  | 1 => some fp32
  | 2 => some fp16
  | 3 => some bf16
  | 4 => some e4m3
  | 5 => some e5m2
  | _ => none

/-- The FP32 pattern of an element of a byte-sized or wider format (R67). -/
def decodeElem (f : Nat) (x : Nat) : Nat :=
  match fmtOf f with
  | some g => if f = 1 then x else (encodeF fp32 0 false (decodeF g x)).1
  | none =>
    match f with
    | 6 => (encodeF fp32 0 false (FV.ofDy false ⟨(BitVec.ofNat 8 x).toInt, 0⟩)).1
    | 8 => (encodeF fp32 0 false (.fin false (x % 256) 0)).1
    | _ => x

/-- The element and flags that an FP32 pattern is encoded to (R56, R57). -/
def encodeElem (f : Nat) (mode : Nat) (sat : Bool) (x : Nat) : Nat × Nat :=
  match fmtOf f with
  | some g => if f = 1 then (x, 0) else encodeF g mode sat (decodeF fp32 x)
  | none =>
    match f with
    | 6 => let r := encodeInt mode (-128) 127 false (decodeF fp32 x); ((BitVec.ofInt 8 r.1).toNat, r.2)
    | 8 => let r := encodeInt mode 0 255 true (decodeF fp32 x); (r.1.toNat, r.2)
    | _ => (x, 0)

end Sys2Proof.Machine
end

