-- ==== Sys2Proof/Config.lean ====
section
/-! DEFINITION. What an implementation fixes and what the manual leaves open. A constant without a body is a free value:
nothing can be proved about which value it is. -/

namespace Sys2Proof.Config

/-- FREE VALUE (log 2). Time that passes in the n-th step beyond what the rules demand, in 1/306 ns. -/
opaque elapsed : Nat → Nat

/-- FREE VALUE (log 2). The cycles after which the interlocked result of the n-th step is written, where no rule fixes them (R42). -/
opaque latency : Nat → Nat

/-- FREE VALUE (log 5). The root firmware's keys, by die and slot and generation: an AES key of 16 bytes (R226, R378). -/
opaque key : Nat → Nat → Nat → BitVec 128

/-- FREE VALUE (log 5). The Ed25519 signature of a message under the device identity key (R379, R381). -/
opaque ed25519 : List (BitVec 8) → BitVec 512

/-- FREE VALUE (log 5). The ML-DSA-65 signature, 3,309 bytes, of a message under the device identity key (R379). -/
opaque mldsa65 : List (BitVec 8) → Nat → BitVec 8

/-- FREE VALUE (log 5). The device identity certificate, and the firmware images, of which the first is the root firmware: the bytes, the
version and, for Ed25519 and ML-DSA-65, the key and the signature that come with each; whether the scheme rejects them; and what is
fused: the keys whose digests it holds, and the rollback counter (R381). -/
opaque identityCertificate : List (BitVec 8)
opaque firmwareImage : Nat → List (BitVec 8)
opaque imageVersion : Nat → Nat
opaque imageKey : Nat → Nat → List (BitVec 8)
opaque imageSignature : Nat → Nat → List (BitVec 8)
opaque signatureRejected : Nat → List (BitVec 8) → List (BitVec 8) → List (BitVec 8) → Bool
opaque fusedKey : Nat → List (BitVec 8)
opaque rollbackCounter : Nat

/-- FREE VALUE (log 6). The n-th byte of a Den's body, whose layout the manual does not give (R357, R362). -/
opaque denByte : Nat → Nat → BitVec 8

/-- FREE VALUE (log 6). The length in bytes of a Den's body (Table 22.10). -/
opaque denLength : Nat → Nat

/-- FREE VALUE (log 68). Whether an asynchronous trap takes a thread out of its page park at once: R109 has it wait for the walker's
wake, R135 and Table 8.6 have it abandon the park. -/
opaque abandonsPage : Nat → Bool

/-- FREE VALUE (log 57). Whether an engine reads the n-th aligned word as it was before the issuer's unfenced stores (R86). -/
opaque engineReadsOld : Nat → Nat → Bool

/-- FREE VALUE (log 71). How far beyond the least version that it must see an admission in current mode sees a Catalogue's log (R86,
R91, R318). -/
opaque tailSeen : Nat → Nat

/-- FREE VALUE (log 81). Whether an undo restores the word that the log holds at some place of an undo area, or that which software
has put there (R200). -/
opaque undoKeeps : Nat → Nat → Bool

/-- FREE VALUE (log 8). The core of the destination sett that a migration's hash of the address selects (R161). -/
opaque migrationHash : BitVec 64 → Nat

/-- FREE VALUE (log 9). Bytes of object pool that a Catalogue of given parameters takes for each entry (R307). -/
opaque poolPerEntry : Nat → Nat → Nat → Nat

/-- FREE VALUE (log 9). Bytes of object pool that an object's log and result rings take (R278). -/
opaque poolFixed : Nat

/-- FREE VALUE (log 11). The bytes that the device writes for the n-th deque entry in an overflow area (R158). -/
opaque overflowByte : Nat → Nat → BitVec 8

/-- FREE VALUE (log 34). How many firmware images there are, and the bytes whose SHA3-256 measures the context tree (R382). -/
opaque firmwareImages : Nat
opaque treeBytes : List (List Nat) → List (BitVec 8)

/-- FREE VALUE (log 33). The flits that a rank of a collective sends onto die boundaries and ports, in the n-th step (R331). -/
opaque collectiveFlits : Nat → Nat → Nat

/-- FREE VALUE (log 33). The fabric port through which another package is reached: the driver's table (R375). -/
opaque fabricRoute : Nat → Nat

/-- FREE VALUE (log 33). The object pool that the staging of a reduction takes for a rank's contribution of n elements (R376). -/
opaque staging : Nat → Nat → Nat

/-- FREE VALUE (log 7). What the n-th start leaves at an Archive address that was written before it: old ciphertext under a new key
(R226). -/
opaque oldArchive : Nat → Nat → BitVec 8

/-- FREE VALUE (log 35). The stack position that an OZN-3 lacks: it varies from part to part (R3). -/
opaque missingStack : Fin 4

/-- FREE VALUE (log 30). The root's number of the i-th sett that the root firmware chooses for a partition, if it chooses one (R321). -/
opaque rootSett : Nat → Nat → Option Nat

/-- FREE VALUE (log 35). The part's fuse map: which setts, and how many channels of a die, are disabled in it for good (R401). -/
opaque fusedSett : Nat → Bool
opaque fusedChannels : Nat → Nat

/-- FREE VALUE (log 35). What the n-th start finds: whether the CXL link fails to train, which stacks and Archive banks fail, how many
channels of a die fail in training, which ports fail, whether the restored calibration fails its check, and whether an Archive error
had been flagged (R401, R402). -/
opaque linkFails : Nat → Bool
opaque stackFails : Nat → Nat → Bool
opaque bankFails : Nat → Nat → Bool
opaque channelsLost : Nat → Nat → Nat
opaque portFails : Nat → Nat → Bool
opaque calibrationFails : Nat → Bool
opaque archiveFlagged : Nat → Bool

/-- FREE VALUE (log 86). How many budget periods more than one a revocation gives the walkers of what it stops, to translate for the
signal objects that still take bit 63. -/
opaque answerTime : Nat → Nat

/-- FREE VALUE (log 87). The n-th place of the placement at the address that a switch slot names, at some time: the manual does not
give its layout (Table 22.6). -/
opaque placement : Nat → Nat → Nat → Nat

/-- Where the supplied library lies in every context's virtual space, its length, and the first words of its mover and its walker
(R342; log 29). -/
def libraryVA : Nat := 2 ^ 57 - 2 ^ 20
def libraryLen : Nat := 2 ^ 18
def moverEntry : Nat := 0
def walkerEntry : Nat := 231

/-- Clock period of an operating point in 1/306 ns: 1.80, 1.50, 1.20 and 0.85 GHz (Table 23.1). -/
def period : Nat → Nat
  | 0 => 170
  | 1 => 204
  | 2 => 255
  | _ => 360

/-- The factor that each cycle adds to NCYC, in 16.16 (Table 23.1). -/
def ncycFactor : Nat → Nat
  | 0 => 0x10000
  | 1 => 0x13333
  | 2 => 0x18000
  | _ => 0x21E1E

/-- Units of the model's time in one tick of GTS. -/
def tick : Nat := 306

/-- Device-physical bases above 2^39 of the units whose places the manual leaves to the root firmware (R408, log 10). -/
def archiveBase : Nat := 2 ^ 40
def hostBase : Nat := 2 ^ 41
def fabricBase : Nat := 2 ^ 42
def spadBase : Nat := 2 ^ 43
def settMemBase : Nat := 2 ^ 44
def mmioBase : Nat := 2 ^ 45

end Sys2Proof.Config
end

