-- ==== Sys2Proof/Syntax.lean ====
section
/-! DEFINITION. The instructions and steps of spec/opcode_table.json, one constructor for each row.

A row with an encoding carries every field the table gives it, the reserved ones too, so that the 32-bit word can be
recovered (R50: EVAL of ILLEGAL_INSTR holds the word). A row without an encoding is a step of an engine, of the
dispatcher or of the outside world; its constructor carries what that agent chooses or supplies. `c` is a logical core,
`t` a thread context, `n` a place in the list of operations in flight. -/

namespace Sys2Proof

inductive Instr where
  /-- ADD (R114): Writes gA + gB to gD, wrapping modulo 2^64. -/
  | add (s : BitVec 3) (d a b : BitVec 5)
  /-- SUB (R114): Writes gA - gB to gD. -/
  | sub (s : BitVec 3) (d a b : BitVec 5)
  /-- AND (R114): Writes the bitwise AND of gA and gB to gD. -/
  | and (s : BitVec 3) (d a b : BitVec 5)
  /-- OR (R114): Writes the bitwise OR of gA and gB to gD. -/
  | or (s : BitVec 3) (d a b : BitVec 5)
  /-- XOR (R114): Writes the bitwise XOR of gA and gB to gD. -/
  | xor (s : BitVec 3) (d a b : BitVec 5)
  /-- SHL (R114): Shifts gA left by gB[5:0]. -/
  | shl (s : BitVec 3) (d a b : BitVec 5)
  /-- SHR (R114): Shifts gA right logically by gB[5:0]. -/
  | shr (s : BitVec 3) (d a b : BitVec 5)
  /-- SAR (R114): Shifts gA right arithmetically by gB[5:0]. -/
  | sar (s : BitVec 3) (d a b : BitVec 5)
  /-- MIN (R114): Writes the lesser of gA and gB as s64. -/
  | min (s : BitVec 3) (d a b : BitVec 5)
  /-- MIN_N (R114): Writes the lesser of gA and gB as n64. -/
  | minN (s : BitVec 3) (d a b : BitVec 5)
  /-- MAX (R114): Writes the greater of gA and gB as s64. -/
  | max (s : BitVec 3) (d a b : BitVec 5)
  /-- MAX_N (R114): Writes the greater of gA and gB as n64. -/
  | maxN (s : BitVec 3) (d a b : BitVec 5)
  /-- LEA_B (R114): Writes gA + gB. -/
  | leaB (s : BitVec 3) (d a b : BitVec 5)
  /-- LEA_H (R114): Writes gA + (gB << 1). -/
  | leaH (s : BitVec 3) (d a b : BitVec 5)
  /-- LEA_W (R114): Writes gA + (gB << 2). -/
  | leaW (s : BitVec 3) (d a b : BitVec 5)
  /-- LEA_D (R114): Writes gA + (gB << 3). -/
  | leaD (s : BitVec 3) (d a b : BitVec 5)
  /-- POPC (R114): Writes the number of one bits of gA. -/
  | popc (s : BitVec 3) (d a b : BitVec 5)
  /-- CLZ (R114): Writes the count of leading zero bits of gA. -/
  | clz (s : BitVec 3) (d a b : BitVec 5)
  /-- CTZ (R114): Writes the count of trailing zero bits of gA. -/
  | ctz (s : BitVec 3) (d a b : BitVec 5)
  /-- BREV (R114): Writes gA with its bit order reversed. -/
  | brev (s : BitVec 3) (d a b : BitVec 5)
  /-- BEXT (R115): Extracts a bit field of gA described by gB. -/
  | bext (s : BitVec 3) (d a b : BitVec 5)
  /-- BINS (R115): Inserts a field of gA into gD at the position and width in gB. -/
  | bins (s : BitVec 3) (d a b : BitVec 5)
  /-- SEL (R114): Writes gA to gD if gD is nonzero, else gB. -/
  | sel (s : BitVec 3) (d a b : BitVec 5)
  /-- CMP_EQ (R116): Sets all bits of kD if gA equals gB, else clears them. -/
  | cmpEq (s : BitVec 3) (x : BitVec 2) (k : BitVec 3) (a b : BitVec 5)
  /-- CMP_NE (R116): Sets kD if gA differs from gB. -/
  | cmpNe (s : BitVec 3) (x : BitVec 2) (k : BitVec 3) (a b : BitVec 5)
  /-- CMP_LT (R116): Sets kD if gA < gB as s64. -/
  | cmpLt (s : BitVec 3) (x : BitVec 2) (k : BitVec 3) (a b : BitVec 5)
  /-- CMP_LE (R116): Sets kD if gA <= gB as s64. -/
  | cmpLe (s : BitVec 3) (x : BitVec 2) (k : BitVec 3) (a b : BitVec 5)
  /-- CMP_LTN (R116): Sets kD if gA < gB as n64. -/
  | cmpLtn (s : BitVec 3) (x : BitVec 2) (k : BitVec 3) (a b : BitVec 5)
  /-- CMP_LEN (R116): Sets kD if gA <= gB as n64. -/
  | cmpLen (s : BitVec 3) (x : BitVec 2) (k : BitVec 3) (a b : BitVec 5)
  /-- MUL (R118): Writes the low 64 bits of gA × gB. -/
  | mul (s : BitVec 3) (d a b : BitVec 5)
  /-- MULH (R118): Writes the high 64 bits of the signed product. -/
  | mulh (s : BitVec 3) (d a b : BitVec 5)
  /-- MULH_N (R118): Writes the high 64 bits of the unsigned product. -/
  | mulhN (s : BitVec 3) (d a b : BitVec 5)
  /-- DIV (R118): Starts a signed division of gA by gB, written later under interlock. -/
  | div (s : BitVec 3) (d a b : BitVec 5)
  /-- DIV_N (R118): Starts an unsigned division of gA by gB. -/
  | divN (s : BitVec 3) (d a b : BitVec 5)
  /-- REM (R118): Starts a signed remainder of gA by gB. -/
  | rem (s : BitVec 3) (d a b : BitVec 5)
  /-- REM_N (R118): Starts an unsigned remainder of gA by gB. -/
  | remN (s : BitVec 3) (d a b : BitVec 5)
  /-- ADDI (R117): Writes gA plus the immediate. -/
  | addi (s : BitVec 3) (d a : BitVec 5) (i : BitVec 12)
  /-- ANDI (R117): Writes gA AND the immediate. -/
  | andi (s : BitVec 3) (d a : BitVec 5) (i : BitVec 12)
  /-- ORI (R117): Writes gA OR the immediate. -/
  | ori (s : BitVec 3) (d a : BitVec 5) (i : BitVec 12)
  /-- XORI (R117): Writes gA XOR the immediate. -/
  | xori (s : BitVec 3) (d a : BitVec 5) (i : BitVec 12)
  /-- SHLI (R117): Shifts gA left by imm[5:0]. -/
  | shli (s : BitVec 3) (d a : BitVec 5) (i : BitVec 12)
  /-- SHRI (R117): Shifts gA right logically by imm[5:0]. -/
  | shri (s : BitVec 3) (d a : BitVec 5) (i : BitVec 12)
  /-- SARI (R117): Shifts gA right arithmetically by imm[5:0]. -/
  | sari (s : BitVec 3) (d a : BitVec 5) (i : BitVec 12)
  /-- CMPI_EQ (R116): Sets kD if gA equals the immediate. -/
  | cmpiEq (s k : BitVec 3) (a : BitVec 5) (i : BitVec 12)
  /-- CMPI_NE (R116): Sets kD if gA differs from the immediate. -/
  | cmpiNe (s k : BitVec 3) (a : BitVec 5) (i : BitVec 12)
  /-- CMPI_LT (R116): Sets kD if gA < immediate as s64. -/
  | cmpiLt (s k : BitVec 3) (a : BitVec 5) (i : BitVec 12)
  /-- CMPI_LTN (R116): Sets kD if gA < immediate as n64. -/
  | cmpiLtn (s k : BitVec 3) (a : BitVec 5) (i : BitVec 12)
  /-- BR (R120): Branches by off18 words when kK[0] XOR neg is 1. -/
  | br (s k : BitVec 3) (n : BitVec 1) (o : BitVec 18)
  /-- JMP (R121): Jumps by off22 words. -/
  | jmp (s : BitVec 3) (o : BitVec 22)
  /-- CALL (R121): Writes the link to g1 and jumps by off22 words. -/
  | call (s : BitVec 3) (o : BitVec 22)
  /-- JMPR (R122): Jumps to gA with bits [1:0] cleared. -/
  | jmpr (s : BitVec 3) (d a b : BitVec 5)
  /-- CALLR (R122): Jumps to gA and writes the link to g1. -/
  | callr (s : BitVec 3) (d a b : BitVec 5)
  /-- ERET (R127): Returns from the handler to EPC and clears TCTL.INH. -/
  | eret (s : BitVec 3) (d a b : BitVec 5)
  /-- IDLE (R128): Puts the thread idle until a selected wake condition holds, or ends T0's part of the launch. -/
  | idle (s : BitVec 3) (d a b : BitVec 5)
  /-- BRK (R126): Causes a debug stop or raises BREAKPOINT with tag e. -/
  | brk (s : BitVec 3) (e : BitVec 15)
  /-- MARK (R129): Emits a marker record when marker tracing is enabled. -/
  | mark (s : BitVec 3) (d a b : BitVec 5)
  /-- CSRR (R130): Reads a named control register into gD. -/
  | csrr (s : BitVec 3) (d a : BitVec 5) (i : BitVec 12)
  /-- CSRW (R130): Writes gA to a control register, returning the old value. -/
  | csrw (s : BitVec 3) (d a : BitVec 5) (i : BitVec 12)
  /-- CSRSET (R130): ORs gA into a control register, returning the old value. -/
  | csrset (s : BitVec 3) (d a : BitVec 5) (i : BitVec 12)
  /-- CSRCLR (R130): Clears the bits of gA in a control register, returning the old value. -/
  | csrclr (s : BitVec 3) (d a : BitVec 5) (i : BitVec 12)
  /-- SYS (R124): Completes and raises SYSCALL, always reflected to the parent. -/
  | sys (s : BitVec 3) (d a : BitVec 5) (i : BitVec 12)
  /-- TRAP (R125): Completes and raises SOFT_TRAP with the immediate. -/
  | trap (s : BitVec 3) (d a : BitVec 5) (i : BitVec 12)
  /-- LD (R136): Loads a zero-extended value of 1 to 8 bytes. -/
  | ld (s : BitVec 3) (t a : BitVec 5) (z : BitVec 2) (o : BitVec 10)
  /-- ST (R136): Stores 1 to 8 bytes of gT. -/
  | st (s : BitVec 3) (t a : BitVec 5) (z : BitVec 2) (o : BitVec 10)
  /-- LD_S (R136): Loads a sign-extended value of 1 to 8 bytes. -/
  | ldS (s : BitVec 3) (t a : BitVec 5) (z : BitVec 2) (o : BitVec 10)
  /-- PFT (R139): Hints that a line be brought closer; never faults. -/
  | pft (s : BitVec 3) (t a : BitVec 5) (z : BitVec 2) (o : BitVec 10)
  /-- LDO (R137): Performs an aligned load with its own order, scope and cache fields. -/
  | ldo (s : BitVec 3) (t a : BitVec 5) (z : BitVec 3) (r : BitVec 2) (c : BitVec 3) (u : BitVec 4)
  /-- STO (R137): Performs an aligned store with its own order, scope and cache fields. -/
  | sto (s : BitVec 3) (t a : BitVec 5) (z : BitVec 3) (r : BitVec 2) (c : BitVec 3) (u : BitVec 4)
  /-- ENTER (R106): Allocates a stack frame of n bytes or raises STACK_LIMIT. -/
  | enter (s : BitVec 3) (d a : BitVec 5) (i : BitVec 12)
  /-- LEAVE (R106): Releases a stack frame of n bytes. -/
  | leave (s : BitVec 3) (d a : BitVec 5) (i : BitVec 12)
  /-- AMO_ADD (R143): Atomically adds gT to memory and returns the old value. -/
  | amoAdd (s : BitVec 3) (t a : BitVec 5) (z : BitVec 3) (r : BitVec 2) (c : BitVec 3)
  /-- AMO_AND (R143): Atomically ANDs gT into memory. -/
  | amoAnd (s : BitVec 3) (t a : BitVec 5) (z : BitVec 3) (r : BitVec 2) (c : BitVec 3)
  /-- AMO_OR (R143): Atomically ORs gT into memory. -/
  | amoOr (s : BitVec 3) (t a : BitVec 5) (z : BitVec 3) (r : BitVec 2) (c : BitVec 3)
  /-- AMO_XOR (R143): Atomically XORs gT into memory. -/
  | amoXor (s : BitVec 3) (t a : BitVec 5) (z : BitVec 3) (r : BitVec 2) (c : BitVec 3)
  /-- AMO_MIN (R143): Atomically keeps the signed minimum. -/
  | amoMin (s : BitVec 3) (t a : BitVec 5) (z : BitVec 3) (r : BitVec 2) (c : BitVec 3)
  /-- AMO_MAX (R143): Atomically keeps the signed maximum. -/
  | amoMax (s : BitVec 3) (t a : BitVec 5) (z : BitVec 3) (r : BitVec 2) (c : BitVec 3)
  /-- AMO_MINN (R143): Atomically keeps the unsigned minimum. -/
  | amoMinn (s : BitVec 3) (t a : BitVec 5) (z : BitVec 3) (r : BitVec 2) (c : BitVec 3)
  /-- AMO_MAXN (R143): Atomically keeps the unsigned maximum. -/
  | amoMaxn (s : BitVec 3) (t a : BitVec 5) (z : BitVec 3) (r : BitVec 2) (c : BitVec 3)
  /-- AMO_SWAP (R143): Atomically swaps gT with memory. -/
  | amoSwap (s : BitVec 3) (t a : BitVec 5) (z : BitVec 3) (r : BitVec 2) (c : BitVec 3)
  /-- AMO_FADD (R143): Atomically adds gT to an FP32 word under RNE. -/
  | amoFadd (s : BitVec 3) (t a : BitVec 5) (z : BitVec 3) (r : BitVec 2) (c : BitVec 3)
  /-- CAS (R144): Compares memory with gT and, if equal, writes g(T+1). -/
  | cas (s : BitVec 3) (t a : BitVec 5) (z : BitVec 3) (r : BitVec 2) (c : BitVec 3)
  /-- FENCE_LDLD (R146): Orders earlier loads before later loads at a scope. -/
  | fenceLdld (s : BitVec 3) (t a : BitVec 5) (r : BitVec 2) (c : BitVec 3)
  /-- FENCE_LDST (R146): Orders earlier loads before later stores. -/
  | fenceLdst (s : BitVec 3) (t a : BitVec 5) (r : BitVec 2) (c : BitVec 3)
  /-- FENCE_STLD (R146): Orders earlier stores before later loads, as an SC event. -/
  | fenceStld (s : BitVec 3) (t a : BitVec 5) (r : BitVec 2) (c : BitVec 3)
  /-- FENCE_STST (R146): Orders earlier stores before later stores. -/
  | fenceStst (s : BitVec 3) (t a : BitVec 5) (r : BitVec 2) (c : BitVec 3)
  /-- FENCE_ALL (R146): Orders every earlier access before every later one, as an SC event. -/
  | fenceAll (s : BitVec 3) (t a : BitVec 5) (r : BitVec 2) (c : BitVec 3)
  /-- BARI (R151): Initialises a named barrier's count on its home core. -/
  | bari (s : BitVec 3) (d a b : BitVec 5)
  /-- BARA (R151): Sends an arrival to a named barrier and parks for the reply. -/
  | bara (s : BitVec 3) (d a b : BitVec 5)
  /-- BARW (R151): Parks while the barrier's PHASE equals gB. -/
  | barw (s : BitVec 3) (d a b : BitVec 5)
  /-- WAITA (R147): Reads a location and parks until it differs from gT. -/
  | waita (s : BitVec 3) (t a : BitVec 5) (z : BitVec 3) (r : BitVec 2) (c : BitVec 3)
  /-- SIGDEC (R150): Decrements a signal object by gB. -/
  | sigdec (s : BitVec 3) (d a b : BitVec 5)
  /-- SIGWAIT (R150): Parks until a signal object is zero or has its error bit. -/
  | sigwait (s : BitVec 3) (d a b : BitVec 5)
  /-- MSEND (R152): Sends a 64-byte message and parks until every destination answers. -/
  | msend (s : BitVec 3) (d a b : BitVec 5)
  /-- MRECV (R154): Parks until a message of the thread's class waits, then pops it. -/
  | mrecv (s : BitVec 3) (d a b : BitVec 5)
  /-- MPOLL (R154): Returns the number of messages of the thread's class waiting. -/
  | mpoll (s : BitVec 3) (d a b : BitVec 5)
  /-- PJACK (R156): Frees a refused journal entry and returns its target. -/
  | pjack (s : BitVec 3) (d a b : BitVec 5)
  /-- PSTO (R155): Takes a journal entry and sends a posted store without waiting. -/
  | psto (s : BitVec 3) (t a : BitVec 5) (z : BitVec 3) (r : BitVec 2) (c : BitVec 3)
  /-- SPAWN (R107): Starts a dormant work thread at a task record. -/
  | spawn (s : BitVec 3) (d a b : BitVec 5)
  /-- REAP (R107): Parks T0 until a work thread is idle, then makes it dormant. -/
  | reap (s : BitVec 3) (d a b : BitVec 5)
  /-- YIELD (R157): Makes the thread ineligible until other ready threads have issued. -/
  | yield (s : BitVec 3) (d a b : BitVec 5)
  /-- YPT (R111): Declares a yield point with its live-state masks. -/
  | ypt (s : BitVec 3) (d a b : BitVec 5)
  /-- FORK (R159): Increments a join counter and pushes a task onto the deque. -/
  | fork (s : BitVec 3) (d a b : BitVec 5)
  /-- JOIN (R159): Parks until a join counter reads 0. -/
  | join (s : BitVec 3) (d a b : BitVec 5)
  /-- TEND (R159): Ends the current task, decrements its counter and looks for work. -/
  | tend (s : BitVec 3) (d a b : BitVec 5)
  /-- TSPAWN (R197): Spawns an ordered task with a timestamp. -/
  | tspawn (s : BitVec 3) (d a b : BitVec 5)
  /-- TSTAMP (R198): Reads the task's timestamp, sequence or the domain horizon. -/
  | tstamp (s : BitVec 3) (d a b : BitVec 5)
  /-- MIGR (R160): Enters migratory mode with a live-vector mask. -/
  | migr (s : BitVec 3) (d a b : BitVec 5)
  /-- HOMEC (R160): Leaves migratory mode and returns the thread home. -/
  | homec (s : BitVec 3) (d a b : BitVec 5)
  /-- MBPUT (R162): Writes gA into an empty mailbox register, parking while it is full. -/
  | mbput (s : BitVec 3) (d a b : BitVec 5)
  /-- MBPUT_REL (R162): As MBPUT, as a release at core scope. -/
  | mbputRel (s : BitVec 3) (d a b : BitVec 5)
  /-- MBGET (R162): Takes the value of a full mailbox register, parking while it is empty. -/
  | mbget (s : BitVec 3) (d a b : BitVec 5)
  /-- WKDONE (R141): Answers a translation miss: install, reissue or fault. -/
  | wkdone (s : BitVec 3) (d a b : BitVec 5)
  /-- SCLD (R163): Decodes block scale codes into scale-table entries. -/
  | scld (s : BitVec 3) (d a b : BitVec 5)
  /-- VADD (R168): Adds vector lanes. -/
  | vadd (s : BitVec 3) (d a b : BitVec 5) (k : BitVec 3) (h j : BitVec 1) (u : BitVec 2)
  /-- VSUB (R168): Subtracts vector lanes. -/
  | vsub (s : BitVec 3) (d a b : BitVec 5) (k : BitVec 3) (h j : BitVec 1) (u : BitVec 2)
  /-- VMUL (R168): Multiplies vector lanes. -/
  | vmul (s : BitVec 3) (d a b : BitVec 5) (k : BitVec 3) (h j : BitVec 1) (u : BitVec 2)
  /-- VFMA (R168): Fused multiply-add into vD. -/
  | vfma (s : BitVec 3) (d a b : BitVec 5) (k : BitVec 3) (h j : BitVec 1) (u : BitVec 2)
  /-- VFMAB (R169): Fused multiply-add with lane l of vA broadcast. -/
  | vfmab (s : BitVec 3) (d a b : BitVec 5) (l : BitVec 3) (h j : BitVec 1) (u : BitVec 2)
  /-- VMIN (R168): Lane-wise minimum. -/
  | vmin (s : BitVec 3) (d a b : BitVec 5) (k : BitVec 3) (h j : BitVec 1) (u : BitVec 2)
  /-- VMAX (R168): Lane-wise maximum. -/
  | vmax (s : BitVec 3) (d a b : BitVec 5) (k : BitVec 3) (h j : BitVec 1) (u : BitVec 2)
  /-- VAND (R168): Lane-wise bitwise AND. -/
  | vand (s : BitVec 3) (d a b : BitVec 5) (k : BitVec 3) (h j : BitVec 1) (u : BitVec 2)
  /-- VOR (R168): Lane-wise bitwise OR. -/
  | vor (s : BitVec 3) (d a b : BitVec 5) (k : BitVec 3) (h j : BitVec 1) (u : BitVec 2)
  /-- VXOR (R168): Lane-wise bitwise XOR. -/
  | vxor (s : BitVec 3) (d a b : BitVec 5) (k : BitVec 3) (h j : BitVec 1) (u : BitVec 2)
  /-- VSHL (R168): Lane-wise shift left. -/
  | vshl (s : BitVec 3) (d a b : BitVec 5) (k : BitVec 3) (h j : BitVec 1) (u : BitVec 2)
  /-- VSHR (R168): Lane-wise shift right, arithmetic or logical. -/
  | vshr (s : BitVec 3) (d a b : BitVec 5) (k : BitVec 3) (h j : BitVec 1) (u : BitVec 2)
  /-- VCMP_EQ (R170): Sets predicate bits where lanes are equal. -/
  | vcmpEq (s k : BitVec 3) (a b : BitVec 5) (p : BitVec 3) (h j : BitVec 1) (u : BitVec 2)
  /-- VCMP_NE (R170): Sets predicate bits where lanes differ. -/
  | vcmpNe (s k : BitVec 3) (a b : BitVec 5) (p : BitVec 3) (h j : BitVec 1) (u : BitVec 2)
  /-- VCMP_LT (R170): Sets predicate bits where vA < vB. -/
  | vcmpLt (s k : BitVec 3) (a b : BitVec 5) (p : BitVec 3) (h j : BitVec 1) (u : BitVec 2)
  /-- VCMP_LE (R170): Sets predicate bits where vA <= vB. -/
  | vcmpLe (s k : BitVec 3) (a b : BitVec 5) (p : BitVec 3) (h j : BitVec 1) (u : BitVec 2)
  /-- VSEL (R171): Selects each lane from vA or vB by kK. -/
  | vsel (s : BitVec 3) (d a b : BitVec 5) (k : BitVec 3) (h j : BitVec 1) (u : BitVec 2)
  /-- VABS (R172): Lane-wise absolute value. -/
  | vabs (s : BitVec 3) (d a : BitVec 5) (k : BitVec 3) (h j : BitVec 1) (u : BitVec 2)
  /-- VNEG (R172): Lane-wise negation. -/
  | vneg (s : BitVec 3) (d a : BitVec 5) (k : BitVec 3) (h j : BitVec 1) (u : BitVec 2)
  /-- VRCP (R172): Correctly rounded reciprocal per lane. -/
  | vrcp (s : BitVec 3) (d a : BitVec 5) (k : BitVec 3) (h j : BitVec 1) (u : BitVec 2)
  /-- VRSQ (R172): Correctly rounded reciprocal square root per lane. -/
  | vrsq (s : BitVec 3) (d a : BitVec 5) (k : BitVec 3) (h j : BitVec 1) (u : BitVec 2)
  /-- VEXP2 (R172): Correctly rounded 2^x per lane. -/
  | vexp2 (s : BitVec 3) (d a : BitVec 5) (k : BitVec 3) (h j : BitVec 1) (u : BitVec 2)
  /-- VLOG2 (R172): Correctly rounded log2 per lane. -/
  | vlog2 (s : BitVec 3) (d a : BitVec 5) (k : BitVec 3) (h j : BitVec 1) (u : BitVec 2)
  /-- VCVT_F2S (R173): Converts FP32 lanes to s32. -/
  | vcvtF2s (s : BitVec 3) (d a : BitVec 5) (k : BitVec 3) (h j : BitVec 1) (u : BitVec 2)
  /-- VCVT_F2N (R173): Converts FP32 lanes to n32. -/
  | vcvtF2n (s : BitVec 3) (d a : BitVec 5) (k : BitVec 3) (h j : BitVec 1) (u : BitVec 2)
  /-- VCVT_S2F (R173): Converts s32 lanes to FP32. -/
  | vcvtS2f (s : BitVec 3) (d a : BitVec 5) (k : BitVec 3) (h j : BitVec 1) (u : BitVec 2)
  /-- VCVT_N2F (R173): Converts n32 lanes to FP32. -/
  | vcvtN2f (s : BitVec 3) (d a : BitVec 5) (k : BitVec 3) (h j : BitVec 1) (u : BitVec 2)
  /-- VCVT_F2B (R173): Encodes FP32 lanes into the low or high BF16 half of vD. -/
  | vcvtF2b (s : BitVec 3) (d a : BitVec 5) (w : BitVec 1) (k : BitVec 3) (h j : BitVec 1) (u : BitVec 2)
  /-- VCVT_F2H (R173): Encodes FP32 lanes into the low or high FP16 half of vD. -/
  | vcvtF2h (s : BitVec 3) (d a : BitVec 5) (w : BitVec 1) (k : BitVec 3) (h j : BitVec 1) (u : BitVec 2)
  /-- VCVT_B2F (R173): Decodes a BF16 half of vA to FP32. -/
  | vcvtB2f (s : BitVec 3) (d a : BitVec 5) (w : BitVec 1) (k : BitVec 3) (h j : BitVec 1) (u : BitVec 2)
  /-- VCVT_H2F (R173): Decodes an FP16 half of vA to FP32. -/
  | vcvtH2f (s : BitVec 3) (d a : BitVec 5) (w : BitVec 1) (k : BitVec 3) (h j : BitVec 1) (u : BitVec 2)
  /-- VCVT_F2E4 (R173): Encodes FP32 lanes into an E4M3 byte of vD. -/
  | vcvtF2e4 (s : BitVec 3) (d a : BitVec 5) (y : BitVec 2) (k : BitVec 3) (h j : BitVec 1) (u : BitVec 2)
  /-- VCVT_F2E5 (R173): Encodes FP32 lanes into an E5M2 byte of vD. -/
  | vcvtF2e5 (s : BitVec 3) (d a : BitVec 5) (y : BitVec 2) (k : BitVec 3) (h j : BitVec 1) (u : BitVec 2)
  /-- VCVT_E4F (R173): Decodes an E4M3 byte of vA to FP32. -/
  | vcvtE4f (s : BitVec 3) (d a : BitVec 5) (y : BitVec 2) (k : BitVec 3) (h j : BitVec 1) (u : BitVec 2)
  /-- VCVT_E5F (R173): Decodes an E5M2 byte of vA to FP32. -/
  | vcvtE5f (s : BitVec 3) (d a : BitVec 5) (y : BitVec 2) (k : BitVec 3) (h j : BitVec 1) (u : BitVec 2)
  /-- VRED_SUM (R174): Reduces lanes by a pairwise-tree sum into all lanes. -/
  | vredSum (s : BitVec 3) (d a : BitVec 5) (x : BitVec 1) (k : BitVec 3) (h j : BitVec 1) (u : BitVec 2)
  /-- VRED_MIN (R174): Reduces lanes by minimum. -/
  | vredMin (s : BitVec 3) (d a : BitVec 5) (x : BitVec 1) (k : BitVec 3) (h j : BitVec 1) (u : BitVec 2)
  /-- VRED_MAX (R174): Reduces lanes by maximum. -/
  | vredMax (s : BitVec 3) (d a : BitVec 5) (x : BitVec 1) (k : BitVec 3) (h j : BitVec 1) (u : BitVec 2)
  /-- VRED_AND (R174): Reduces lanes by AND. -/
  | vredAnd (s : BitVec 3) (d a : BitVec 5) (x : BitVec 1) (k : BitVec 3) (h j : BitVec 1) (u : BitVec 2)
  /-- VRED_OR (R174): Reduces lanes by OR. -/
  | vredOr (s : BitVec 3) (d a : BitVec 5) (x : BitVec 1) (k : BitVec 3) (h j : BitVec 1) (u : BitVec 2)
  /-- VRED_XOR (R174): Reduces lanes by XOR. -/
  | vredXor (s : BitVec 3) (d a : BitVec 5) (x : BitVec 1) (k : BitVec 3) (h j : BitVec 1) (u : BitVec 2)
  /-- VSCAN_SUM (R174): Inclusive prefix sum over lanes. -/
  | vscanSum (s : BitVec 3) (d a : BitVec 5) (x : BitVec 1) (k : BitVec 3) (h j : BitVec 1) (u : BitVec 2)
  /-- VSCAN_MIN (R174): Inclusive prefix minimum over lanes. -/
  | vscanMin (s : BitVec 3) (d a : BitVec 5) (x : BitVec 1) (k : BitVec 3) (h j : BitVec 1) (u : BitVec 2)
  /-- VSCAN_MAX (R174): Inclusive prefix maximum over lanes. -/
  | vscanMax (s : BitVec 3) (d a : BitVec 5) (x : BitVec 1) (k : BitVec 3) (h j : BitVec 1) (u : BitVec 2)
  /-- VSCAN_AND (R174): Inclusive prefix AND over lanes. -/
  | vscanAnd (s : BitVec 3) (d a : BitVec 5) (x : BitVec 1) (k : BitVec 3) (h j : BitVec 1) (u : BitVec 2)
  /-- VSCAN_OR (R174): Inclusive prefix OR over lanes. -/
  | vscanOr (s : BitVec 3) (d a : BitVec 5) (x : BitVec 1) (k : BitVec 3) (h j : BitVec 1) (u : BitVec 2)
  /-- VSCAN_XOR (R174): Inclusive prefix XOR over lanes. -/
  | vscanXor (s : BitVec 3) (d a : BitVec 5) (x : BitVec 1) (k : BitVec 3) (h j : BitVec 1) (u : BitVec 2)
  /-- KAND (R177): ANDs two predicates. -/
  | kand (s : BitVec 3) (d a b : BitVec 5)
  /-- KOR (R177): ORs two predicates. -/
  | kor (s : BitVec 3) (d a b : BitVec 5)
  /-- KXOR (R177): XORs two predicates. -/
  | kxor (s : BitVec 3) (d a b : BitVec 5)
  /-- KNOT (R177): Complements a predicate. -/
  | knot (s : BitVec 3) (d a b : BitVec 5)
  /-- KMOV_K (R177): Copies one predicate to another. -/
  | kmovK (s : BitVec 3) (d a : BitVec 5) (x : BitVec 3)
  /-- KMOV_FROM_G (R177): Loads a predicate from gA[15:0]. -/
  | kmovFromG (s : BitVec 3) (d a : BitVec 5) (x : BitVec 3)
  /-- KMOV_TO_G (R177): Writes a predicate zero-extended to gD. -/
  | kmovToG (s : BitVec 3) (d a : BitVec 5) (x : BitVec 3)
  /-- KPACK (R177): Packs k0 to k7 into lanes of a vector. -/
  | kpack (s : BitVec 3) (d a b : BitVec 5)
  /-- KUNPK (R177): Restores k1 to k7 from lanes of a vector. -/
  | kunpk (s : BitVec 3) (d a b : BitVec 5)
  /-- KPOPC (R177): Counts the one bits of a predicate. -/
  | kpopc (s : BitVec 3) (d a b : BitVec 5)
  /-- VPERM (R175): Permutes lanes of vA by indices in vB. -/
  | vperm (s : BitVec 3) (d a b : BitVec 5) (k : BitVec 3) (h j : BitVec 1) (u : BitVec 2)
  /-- VROT (R175): Rotates lanes of vA by n. -/
  | vrot (s : BitVec 3) (d a : BitVec 5) (x : BitVec 1) (n : BitVec 4) (k : BitVec 3) (h j : BitVec 1) (u : BitVec 2)
  /-- VQNT (R183): Quantises a 64-element block into MQ4 codes and scale. -/
  | vqnt (s : BitVec 3) (d a b : BitVec 5) (k : BitVec 3) (h j : BitVec 1)
  /-- VDQ (R184): Decodes an MQ4 block into four vector registers. -/
  | vdq (s : BitVec 3) (d a b : BitVec 5) (k : BitVec 3) (h j : BitVec 1)
  /-- VLANE (R176): Copies lane l of vA to gD. -/
  | vlane (s : BitVec 3) (d a : BitVec 5) (x : BitVec 1) (l : BitVec 4) (k : BitVec 3) (h j : BitVec 1)
  /-- VINS (R176): Inserts gA[31:0] into lane l of vD. -/
  | vins (s : BitVec 3) (d a : BitVec 5) (x : BitVec 1) (l : BitVec 4) (k : BitVec 3) (h j : BitVec 1)
  /-- VLD (R179): Loads 16 consecutive elements with shelf conversion. -/
  | vld (s : BitVec 3) (d a b : BitVec 5) (k : BitVec 3) (h j : BitVec 1)
  /-- VST (R179): Stores 16 consecutive elements with shelf conversion. -/
  | vst (s : BitVec 3) (d a b : BitVec 5) (k : BitVec 3) (h j : BitVec 1)
  /-- VLDS (R180): Loads elements at a signed byte stride. -/
  | vlds (s : BitVec 3) (d a b : BitVec 5) (k : BitVec 3) (h j : BitVec 1)
  /-- VSTS (R180): Stores elements at a signed byte stride. -/
  | vsts (s : BitVec 3) (d a b : BitVec 5) (k : BitVec 3) (h j : BitVec 1)
  /-- VGTH (R181): Gathers elements at offsets in vB. -/
  | vgth (s : BitVec 3) (d a b : BitVec 5) (k : BitVec 3) (h j : BitVec 1)
  /-- VSCT (R181): Scatters elements to offsets in vB in ascending lane order. -/
  | vsct (s : BitVec 3) (d a b : BitVec 5) (k : BitVec 3) (h j : BitVec 1)
  /-- VBCST (R176): Broadcasts gA[31:0] into active lanes. -/
  | vbcst (s : BitVec 3) (d a b : BitVec 5) (k : BitVec 3) (h j : BitVec 1)
  /-- QPUSH (R262): Pushes a tile command described by a register pair. -/
  | qpush (s : BitVec 3) (d : BitVec 5) (q : BitVec 3) (e : BitVec 14)
  /-- QPOP (R262): Pops the oldest completion word, parking while empty. -/
  | qpop (s : BitVec 3) (d : BitVec 5) (q : BitVec 3) (e : BitVec 14)
  /-- TLDA (R256): Pushes a command arming the queue's A stream as rows. -/
  | tlda (s : BitVec 3) (d : BitVec 5) (q : BitVec 3) (b : BitVec 6) (h n : BitVec 1) (r : BitVec 2)
  /-- TLDB (R256): Pushes a command arming the queue's B stream. -/
  | tldb (s : BitVec 3) (d : BitVec 5) (q : BitVec 3) (b : BitVec 6) (h n : BitVec 1) (r : BitVec 2)
  /-- TGTHA (R256): Pushes a command arming the A stream as gathered rows. -/
  | tgtha (s : BitVec 3) (d : BitVec 5) (q : BitVec 3) (b : BitVec 6) (h n : BitVec 1) (r : BitVec 2)
  /-- TMMA (R257): Pushes a multiply of the A and B streams over K into a bank half. -/
  | tmma (s : BitVec 3) (d : BitVec 5) (q : BitVec 3) (b : BitVec 6) (h n : BitVec 1) (r : BitVec 2)
  /-- TSPM (R258): Checks a sparse A tile header and pushes a sparse multiply. -/
  | tspm (s : BitVec 3) (d : BitVec 5) (q : BitVec 3) (b : BitVec 6) (h n : BitVec 1) (r : BitVec 2)
  /-- TZERO (R259): Pushes a command writing the semiring identity to a half. -/
  | tzero (s : BitVec 3) (d : BitVec 5) (q : BitVec 3) (b : BitVec 6) (h n : BitVec 1) (r : BitVec 2)
  /-- TLDC (R260): Pushes a command loading a C tile into a half. -/
  | tldc (s : BitVec 3) (d : BitVec 5) (q : BitVec 3) (b : BitVec 6) (h n : BitVec 1) (r : BitVec 2)
  /-- TSTC (R260): Pushes a command storing a half to memory. -/
  | tstc (s : BitVec 3) (d : BitVec 5) (q : BitVec 3) (b : BitVec 6) (h n : BitVec 1) (r : BitVec 2)
  /-- ABAL (R261): Pushes an allocation of n consecutive accumulator banks and parks until done. -/
  | abal (s : BitVec 3) (d : BitVec 5) (q : BitVec 3) (f c : BitVec 6)
  /-- ABFR (R261): Pushes the freeing of owned banks and parks until done. -/
  | abfr (s : BitVec 3) (d : BitVec 5) (q : BitVec 3) (f c : BitVec 6)
  /-- LSET (R263): Writes a tile loop register. -/
  | lset (s : BitVec 3) (d : BitVec 5) (q : BitVec 3) (e : BitVec 14)
  /-- TGEO_ORG (R264): Computes this core's tile window origin from GGEO. -/
  | tgeoOrg (s : BitVec 3) (d : BitVec 5) (q : BitVec 3) (e : BitVec 13)
  /-- TGEO_MASK (R264): Computes this core's edge masks from GGEO. -/
  | tgeoMask (s : BitVec 3) (d : BitVec 5) (q : BitVec 3) (e : BitVec 13)
  /-- TTASK (R266): Hands a tile-task record to the holt tile scheduler. -/
  | ttask (s : BitVec 3) (d : BitVec 5) (q : BitVec 3) (e : BitVec 14)
  /-- TGRP (R266): Hands a grouped tile-task record to the scheduler. -/
  | tgrp (s : BitVec 3) (d : BitVec 5) (q : BitVec 3) (e : BitVec 14)
  /-- CPY (R216): Checks a copy command block and enqueues the copy, parking on a full queue. -/
  | cpy (s : BitVec 3) (d a b : BitVec 5)
  /-- CPY_NB (R216): As CPY, but returns busy on a full queue. -/
  | cpyNb (s : BitVec 3) (d a b : BitVec 5)
  /-- CPYC (R216): Enqueues a conditional copy under a version word. -/
  | cpyc (s : BitVec 3) (d a b : BitVec 5)
  /-- CPYC_NB (R216): As CPYC, but returns busy on a full queue. -/
  | cpycNb (s : BitVec 3) (d a b : BitVec 5)
  /-- CPYST (R224): Returns the outcome, reason and flags of a copy ticket. -/
  | cpyst (s : BitVec 3) (d a b : BitVec 5)
  /-- HWAIT (R222): Parks until a handle reaches a state or its ERR is set. -/
  | hwait (s : BitVec 3) (d a : BitVec 5) (x : BitVec 3) (m : BitVec 2)
  /-- HACQ (R222): Takes a handle from full to draining. -/
  | hacq (s : BitVec 3) (d a b : BitVec 5)
  /-- HREL (R222): Takes a handle from draining to free. -/
  | hrel (s : BitVec 3) (d a b : BitVec 5)
  /-- HSTAT (R222): Returns a handle's status word. -/
  | hstat (s : BitVec 3) (d a b : BitVec 5)
  /-- AOP_ADD (R227): Bank-unit atomic add on an Archive word. -/
  | aopAdd (s : BitVec 3) (t a : BitVec 5) (z : BitVec 3) (r : BitVec 2) (c : BitVec 3)
  /-- AOP_AND (R227): Bank-unit atomic AND. -/
  | aopAnd (s : BitVec 3) (t a : BitVec 5) (z : BitVec 3) (r : BitVec 2) (c : BitVec 3)
  /-- AOP_OR (R227): Bank-unit atomic OR. -/
  | aopOr (s : BitVec 3) (t a : BitVec 5) (z : BitVec 3) (r : BitVec 2) (c : BitVec 3)
  /-- AOP_XOR (R227): Bank-unit atomic XOR. -/
  | aopXor (s : BitVec 3) (t a : BitVec 5) (z : BitVec 3) (r : BitVec 2) (c : BitVec 3)
  /-- AOP_MIN (R227): Bank-unit atomic signed minimum. -/
  | aopMin (s : BitVec 3) (t a : BitVec 5) (z : BitVec 3) (r : BitVec 2) (c : BitVec 3)
  /-- AOP_MAX (R227): Bank-unit atomic signed maximum. -/
  | aopMax (s : BitVec 3) (t a : BitVec 5) (z : BitVec 3) (r : BitVec 2) (c : BitVec 3)
  /-- AOP_MINN (R227): Bank-unit atomic unsigned minimum. -/
  | aopMinn (s : BitVec 3) (t a : BitVec 5) (z : BitVec 3) (r : BitVec 2) (c : BitVec 3)
  /-- AOP_MAXN (R227): Bank-unit atomic unsigned maximum. -/
  | aopMaxn (s : BitVec 3) (t a : BitVec 5) (z : BitVec 3) (r : BitVec 2) (c : BitVec 3)
  /-- AOP_SWAP (R227): Bank-unit atomic swap. -/
  | aopSwap (s : BitVec 3) (t a : BitVec 5) (z : BitVec 3) (r : BitVec 2) (c : BitVec 3)
  /-- AOP_FADD (R227): Bank-unit atomic FP32 add. -/
  | aopFadd (s : BitVec 3) (t a : BitVec 5) (z : BitVec 3) (r : BitVec 2) (c : BitVec 3)
  /-- AOP_FADD_BF16 (R227): Bank-unit atomic BF16 add of one or two elements. -/
  | aopFaddBf16 (s : BitVec 3) (t a : BitVec 5) (z : BitVec 3) (r : BitVec 2) (c : BitVec 3)
  /-- ARED (R228): Issues a bank reduction of a source line into an Archive line. -/
  | ared (s : BitVec 3) (d a b : BitVec 5)
  /-- AXPY (R228): Issues a bank a × x + y over Archive lines. -/
  | axpy (s : BitVec 3) (d a b : BitVec 5)
  /-- AFILL (R228): Issues a bank fill of Archive lines with a pattern. -/
  | afill (s : BitVec 3) (d a b : BitVec 5)
  /-- COLL_AR (R376): Contributes to an all-reduce collective. -/
  | collAr (s : BitVec 3) (d a b : BitVec 5)
  /-- COLL_AG (R376): Contributes to an all-gather collective. -/
  | collAg (s : BitVec 3) (d a b : BitVec 5)
  /-- COLL_RS (R376): Contributes to a reduce-scatter collective. -/
  | collRs (s : BitVec 3) (d a b : BitVec 5)
  /-- CNEAR (R310): Searches a Catalogue in current mode for the K nearest entries. -/
  | cnear (s : BitVec 3) (d a b : BitVec 5)
  /-- CNEAR_LOCAL (R310): Searches a Catalogue at the local applied version. -/
  | cnearLocal (s : BitVec 3) (d a b : BitVec 5)
  /-- CSTV (R308): Encodes a vector and appends a store-vector call. -/
  | cstv (s : BitVec 3) (d a b : BitVec 5)
  /-- CDEL (R309): Appends a delete call for a key. -/
  | cdel (s : BitVec 3) (d a b : BitVec 5)
  /-- CVER (R311): Reads a Catalogue's tail, applied version, oldest snapshot or remaining capacity. -/
  | cver (s : BitVec 3) (d a b : BitVec 5)
  /-- CATNEW (R307): Creates an empty Catalogue on every die. -/
  | catnew (s : BitVec 3) (d a b : BitVec 5)
  /-- CATDEL (R307): Deletes a Catalogue after running searches end. -/
  | catdel (s : BitVec 3) (d a b : BitVec 5)
  /-- RCALL (R280): Appends an update call to an object's log, parking on a full log. -/
  | rcall (s : BitVec 3) (d a b : BitVec 5)
  /-- RCALL_NB (R280): As RCALL, but returns busy on a full log. -/
  | rcallNb (s : BitVec 3) (d a b : BitVec 5)
  /-- RREAD (R282): Runs a read-only method on the local copy at a version at least the tail. -/
  | rread (s : BitVec 3) (d a b : BitVec 5)
  /-- RREAD_LOCAL (R282): Runs a read-only method at the local applied version. -/
  | rreadLocal (s : BitVec 3) (d a b : BitVec 5)
  /-- RWAIT (R281): Waits for a version to be applied locally and returns its result. -/
  | rwait (s : BitVec 3) (d a b : BitVec 5)
  /-- OBJNEW (R278): Creates a replayed object on every die. -/
  | objnew (s : BitVec 3) (d a b : BitVec 5)
  /-- OBJDEL (R279): Deletes an object once every die has applied its tail. -/
  | objdel (s : BitVec 3) (d a b : BitVec 5)
  /-- HIMM (R45): Supplies immediate bits to the next I-format instruction of the chain. -/
  | himm (p : BitVec 25)
  /-- HSCH (R47): Makes the thread ineligible for n cycles. -/
  | hsch (x : BitVec 16) (n : BitVec 8)
  /-- HSCH_IDLE (R47): Makes the thread ineligible until a named unit is idle. -/
  | hschIdle (x : BitVec 20) (u : BitVec 4)
  /-- HMOD (R46): Supplies predicate and qualifier overrides to the chain's instruction. -/
  | hmod (p r : BitVec 3) (t c : BitVec 2) (o : BitVec 3) (s : BitVec 4) (x : BitVec 8)
  /-- EGRS (R378): Opens a clip if needed and hands a frame tile to the egress marker. -/
  | egrs (s : BitVec 3) (d a b : BitVec 5)
  /-- EGFIN (R379): Closes a clip and requests its signed record. -/
  | egfin (s : BitVec 3) (d a b : BitVec 5)
  /-- CTXNEW (R336): Creates a live child context with no resources. -/
  | ctxnew (s : BitVec 3) (d a b : BitVec 5)
  /-- CTXGRANT (R337): Grants setts, a range, Archive, budget, a permit or an object pool to a child. -/
  | ctxgrant (s : BitVec 3) (d a b : BitVec 5)
  /-- CTXREVOKE (R338): Tears down, revokes resources from, or flushes translations of a subtree context. -/
  | ctxrevoke (s : BitVec 3) (d a b : BitVec 5)
  /-- CTXSTAT (R340): Returns a selected status value of a context. -/
  | ctxstat (s : BitVec 3) (d a b : BitVec 5)
  /-- RESUME (R341): Releases a thread held after a reflection, or reflects it upward. -/
  | resume (s : BitVec 3) (d a b : BitVec 5)
  /-- LNCH (R342): Binds virtual cores and starts a launch. -/
  | lnch (s : BitVec 3) (d a b : BitVec 5)
  /-- HNOP (R48): Takes an issue slot and discards pending hints. -/
  | hnop (x : BitVec 25)
  /-- RESERVED_HINT (R48): A word of MAJ 0x74 to 0x7E executes as HNOP. -/
  | reservedHint (maj : BitVec 7) (p : BitVec 25)
  /-- ILLEGAL_INSTR (R50): An unallocated or role-reserved word raises ILLEGAL_INSTR precisely. -/
  | illegalInstr (w : BitVec 32)
  /-- ASYNCHRONOUS_TRAP (R109): A pending asynchronous trap is taken at a chain boundary when INH is 0. -/
  | asynchronousTrap (c t : Nat)
  /-- REFLECTION_MESSAGE (R351): The dispatcher delivers a waiting reflection message to the handler thread's inbox. -/
  | reflectionMessage (n : Nat)
  /-- STALL_EXPIRY (R38): A thread's stall count runs out and it becomes ready. -/
  | stallExpiry (c t : Nat)
  /-- HSCH_WAIT_EXPIRY (R47): The n cycles of an HSCH wait run out. -/
  | hschWaitExpiry (c t : Nat)
  /-- INTERLOCKED_VALUE_WRITE (R42): An interlocked producer's result (load, atomic, divide, engine value) is written to its register. -/
  | interlockedValueWrite (c t : Nat)
  /-- LINE_WAKE (R147): A write to a watched 64-byte line wakes threads parked in WAITA, SIGWAIT or JOIN to re-read. -/
  | lineWake (c t : Nat)
  /-- CACHE_LINE_INVALIDATION (R373): A host write arrives as a CXL.cache invalidation of a line the device holds. -/
  | cacheLineInvalidation (addr : Nat) (data : List (BitVec 8))
  /-- IDLE_TIME_WAKE (R128): GTS reaches an IDLE thread's TIME deadline and it wakes. -/
  | idleTimeWake (c t : Nat)
  /-- BARRIER_ARRIVAL (R151): An arrival reaches a named barrier's home, counts and may advance PHASE, waking BARW. -/
  | barrierArrival (n : Nat)
  /-- BARRIER_REPLY (R151): The home's reply to BARA reaches the thread and writes the phase. -/
  | barrierReply (n : Nat)
  /-- MESSAGE_ARRIVAL (R152): A message copy reaches an inbox, is accepted or refused, and answers the sender. -/
  | messageArrival (n : Nat)
  /-- SCALE_MESSAGE (R153): A scale message writes scale-table entries at each destination core. -/
  | scaleMessage (n : Nat)
  /-- POSTED_STORE_APPLY (R155): A posted store reaches its target and is applied or refused. -/
  | postedStoreApply (n : Nat)
  /-- MIGRATION_ARRIVAL (R161): A migration packet arrives and starts on a free work context, waiting if none is free. -/
  | migrationArrival (n : Nat)
  /-- MIGRATION_RETURN (R161): A migrated thread returns home and its packet registers replace the home copies. -/
  | migrationReturn (c t : Nat)
  /-- RECOMPUTE (R203): Every 256 cycles the unit commits finished tasks, updates H and F and protects the oldest. -/
  | recompute (ctx vh : Nat)
  /-- COPY_CHUNK (R218): The copy engine picks and moves one chunk of up to 2 KiB by deficit arbitration. -/
  | copyChunk (v : Nat)
  /-- CPYC_VERSION_CHECK (R223): After staging, a conditional copy compares and advances the version word. -/
  | cpycVersionCheck (v : Nat)
  /-- COPY_COMPLETION (R220): A copy completes: handle full, flag written, signal decremented. -/
  | copyCompletion (v : Nat)
  /-- BANK_LINE_UPDATE (R229): A bank unit updates one Archive line of an ARED, AXPY or AFILL command. -/
  | bankLineUpdate (n line : Nat)
  /-- TILE_COMMAND_BEGIN (R237): The tile engine takes the next command from its queue rotation once it may begin. -/
  | tileCommandBegin (c : Nat)
  /-- TILE_CHUNK (R257): The tile engine latches and accumulates one K-chunk of one output tile. -/
  | tileChunk (c n : Nat)
  /-- COMPLETION_WORD_POST (R265): A notifying command posts its completion word, waiting for room. -/
  | completionWordPost (c q : Nat)
  /-- TASK_DISPATCH (R244): The holt scheduler dispatches a ready tile task or group, moving its handles. -/
  | taskDispatch (ctx vh c bank : Nat)
  /-- TASK_COMPLETION (R245): A tile task ends: C writes, STATUS, handles, signal decrement. -/
  | taskCompletion (c n : Nat)
  /-- LOG_APPEND (R280): At the home die an update call is appended and assigned the next version. -/
  | logAppend (n : Nat)
  /-- ENTRY_APPLY (R283): A die's Scribe applies the next log entry's method to its state copy. -/
  | entryApply (cat : Bool) (id die : Nat)
  /-- RREAD_RUN (R282): Once the local applied version reaches the target, the read-only method runs and returns. -/
  | rreadRun (c t : Nat)
  /-- SEARCH_ADMISSION (R297): The search unit admits a CNEAR and pins its snapshot. -/
  | searchAdmission (c t : Nat)
  /-- SEARCH_STEP (R299): One beam-search step expands a member and, at the end, writes the results. -/
  | searchStep (c t : Nat)
  /-- BUDGET_REFILL (R332): At each 8,192-tick period every bucket is refilled and debt repaid. -/
  | budgetRefill
  /-- SWITCH_SLOT_ARM (R354): The root writes a switch slot arming a gang switch. -/
  | switchSlotArm (image : List (BitVec 8))
  /-- SWITCH_TICK (R355): GTS reaches T and the outgoing partition enters its grace window. -/
  | switchTick (out : Nat)
  /-- STOP_INSTANT (R355): At S every remaining thread and engine of the partition stops and the Den save begins. -/
  | stopInstant (out : Nat)
  /-- PARK_BUFFER_FLUSH (R356): At S + 2,000 messages still in routers go to park buffers. -/
  | parkBufferFlush (out : Nat)
  /-- DEN_SAVE_REPORT (R358): A die reports its part of the Den written; the last report commits the switch. -/
  | denSaveReport (out die : Nat)
  /-- SWITCH_ABORT (R358): At S + D without every report the switch aborts and the partition resumes. -/
  | switchAbort (out : Nat)
  /-- DEN_RESTORE (R362): The dispatcher restores a Den on request, whole or not at all. -/
  | denRestore (n : Nat) (places : List Nat)
  /-- STEP_REQUEST (R366): A request to change a die's operating point stops its core clock and starts a relock. -/
  | stepRequest (die point : Nat)
  /-- RELOCK_END (R366): After 2,000 ticks the PLL relock ends and the clock restarts or steps again. -/
  | relockEnd (die : Nat)
  /-- THERMAL_GOVERNOR (R405): The governor's 10 ms evaluation caps or raises a die's operating point. -/
  | thermalGovernor (die dramTemp junctionTemp power : Nat)
  /-- REFRESH_DOUBLING (R405): DRAM temperature crossing 85 or 83 degrees doubles or restores refresh. -/
  | refreshDoubling (die temp : Nat)
  /-- THERMAL_TRIP (R405): A junction above 115 degrees resets the package at once. -/
  | thermalTrip (die temp : Nat)
  /-- PLIM_WRITE (R405): The host driver writes the power limit through the root mailbox. -/
  | plimWrite (watts : Nat)
  /-- LINK_RETRAIN (R373): The CXL link retrains; on return every held host line is treated as written. -/
  | linkRetrain
  /-- FABRIC_PORT_DOWN (R375): A fabric port exhausts its retries and goes down. -/
  | fabricPortDown (port : Nat)
  /-- HOST_MEMORY_ACCESS (R371): The host reaches host-visible device DRAM through CXL.mem. -/
  | hostMemoryAccess (addr : Nat) (data : List (BitVec 8))
  /-- ATTESTATION_REQUEST (R382): An attestation request on the DOE mailbox returns a signed report. -/
  | attestationRequest (nonce : List (BitVec 8))
  /-- COLLECTIVE_COMPLETION (R376): All contributions arrive; each rank's DST is written, handle full, signal decremented. -/
  | collectiveCompletion (part group : Nat) (seq : BitVec 64)
  /-- COLLECTIVE_TIMEOUT (R377): A rank's TIMEOUT passes before all contributions arrive and the collective fails. -/
  | collectiveTimeout (part group rank : Nat) (seq : BitVec 64)
  /-- EGRESS_TILE_MARK (R378): The egress marker marks a tile, folds it into the clip digest and writes it to the host. -/
  | egressTileMark
  /-- CLIP_RECORD (R379): After all tiles are folded, the signed clip record is written. -/
  | clipRecord
  /-- SAMPLING_PULSE (R393): At each multiple of SAMPLEN every core latches thread PCs and states and writes sample records. -/
  | samplingPulse (ctx : Nat)
  /-- BREAKPOINT_MATCH (R395): A thread about to issue a matching chain halts instead. -/
  | breakpointMatch (c t : Nat)
  /-- RUN (R396): A debugger command returns halted threads to rotation. -/
  | debugRun (ctx : Nat)
  /-- STEP (R396): A debugger command lets one halted thread issue one chain. -/
  | debugStep (c t : Nat)
  /-- HALT (R397): A debugger command halts a whole context. -/
  | debugHalt (ctx : Nat)
  /-- SPOOR_CONTROL_WRITE (R387): The root writes a context's Spoor control block or breakpoints. -/
  | spoorControlWrite (ctx index : Nat) (image : List (BitVec 8))
  /-- COLD_START (R401): A start performs every start step and enters the root firmware. -/
  | coldStart
  /-- WARM_START (R401): A start restores saved calibration and skips the steps it may. -/
  | warmStart
  /-- SC_WINDOW_CLOSE (R81): The notification window of SC events closes at a GTS multiple of 16, and the pending .sc accesses and st-ld or all fences of that window complete. -/
  | scWindowClose
  /-- TIME_MASTER_ALIGNMENT (R364): A package's GTS is slewed, adding or omitting one tick in 1,024, to stay within 8 ticks of the fabric's time master. -/
  | timeMasterAlignment (add : Bool)
  /-- CORE_SOFT_ERROR (R348): An uncorrectable soft error found in a thread's registers or core state becomes a pending asynchronous trap. -/
  | coreSoftError (c t : Nat) (file : BitVec 2) (reg : BitVec 5)
  /-- DEBUG_REGISTER_ACCESS (R396): The debugger reads or writes a halted thread's registers through the root service. -/
  | debugRegisterAccess (c t : Nat) (file : BitVec 2) (reg : BitVec 5) (value : Option (BitVec 512))
  /-- EGRESS_SETTING_WRITE (R378): The root writes a partition's egress setting: ENABLE, mark strength and provenance key. -/
  | egressSettingWrite (ctx strength : Nat) (enable : Bool)
  /-- COLLECTIVE_GROUP_DEFINE (R376): The root defines a collective group of a partition, with its ranks. -/
  | collectiveGroupDefine (ctx group : Nat) (ranks : List (Nat × Nat × Nat))
  /-- MSIX_WINDOW_WRITE (R374): The root gives a partition its window, base and count, of the MSI-X table. -/
  | msixWindowWrite (ctx base count : Nat)
  /-- HOST_RESET (R406): A host reset puts the package in reset and abandons any start in progress. -/
  | hostReset
  deriving DecidableEq, Repr

end Sys2Proof
end

