-- ==== Sys2Proof/Machine/State.lean ====
section
/-! DEFINITION. The state of the package as plain data (INVENTORY.md, State): threads, virtual cores, setts, virtual holts,
contexts, launches, objects, Catalogues, dies, the package, and the operations in flight between them. -/

namespace Sys2Proof.Machine

open Sys2Proof

/-! ## Threads (06_core_model.md R94 to R109, Table 6.4) -/

/-- A register file that instructions read and write (R7). -/
inductive RegFile where
  | g | v | k
  deriving DecidableEq, Repr

/-- The unit that produces a result: what `hsch.idle` names (R47), and the interlocked producers (R42). -/
inductive Producer where
  | alu | mul | vec | interlocked
  deriving DecidableEq, Repr

/-- A result that is not in its register yet (R39, R40, R42): the masked bits, and the static distance at which it is in time. -/
structure PendWrite where
  file : RegFile
  idx : Nat
  mask : Vec
  val : Vec
  due : Nat
  unit : Producer
  /-- The cycle of the die in which the unit writes it, once its instruction has issued (R38, R47). -/
  written : Nat
  deriving DecidableEq, Repr

/-- The producers whose owed results traps, returns and stops wait for: `DIV` and `REM` (R119), and vector loads, gathers, `VQNT`
and `VDQ` (R186). -/
inductive Slow where
  | no | divide | vector
  deriving DecidableEq, Repr

/-- An interlocked result to come: its register and the cycle of the die in which it is written (R42). -/
structure Owed where
  file : RegFile
  idx : Nat
  due : Nat
  slow : Slow
  deriving DecidableEq, Repr

/-- A core in the model's numbering (sett identity × 8 + position) and one of its thread contexts. -/
structure Tid where
  core : Nat
  thr : Nat
  deriving DecidableEq, Repr

/-- What a parked thread waits for. The two last forms are requests that have left the thread (R109, R135). -/
inductive Wait where
  /-- A wait that has sent nothing: the chain issues again (R135). -/
  | reissue
  /-- The same, on a mailbox register, to put or to get (R162), and on messages of a class (R154): the earliest is served first. -/
  | mail (put : Bool) (reg : Nat)
  | recv (cls : Nat)
  /-- A page fault's park; the identifier of the miss record (R140). -/
  | page (miss : Nat)
  /-- An ordered task that waits until it is oldest and protected (R203 to R206). -/
  | protect
  /-- An SC event announced in a window and not completed, and the hint words of its chain (R81). -/
  | window (w hints : Nat)
  /-- A Scribe read, or a Catalogue search, that runs in steps (R282, R297). -/
  | scribeRead
  | search
  /-- An `AOP` that waits for tokens, at the bank units of a die (R331). -/
  | bank (die : Nat)
  /-- `RWAIT`: a version of an object on the local die (R281). -/
  | version (obj : Nat)
  /-- `OBJDEL` or `CATDEL`, until the object or Catalogue is free (R279, R307). -/
  | deleting (cat : Bool) (id : Nat)
  /-- A reply that will be written to a g register; the next chain's address (R109). -/
  | reply (d : Nat) (next : Word)
  /-- A migration packet that has left, at the home thread (R161). -/
  | away
  /-- `hsch.idle tile`: until the tile engine holds no command of the thread (R47). -/
  | tileIdle
  deriving DecidableEq, Repr

/-- The states of Table 6.2, and halted (R396). Stalled and interlocked are `ready` with a later `readyAt`; displaced is a property of the core. -/
inductive Run where
  | dormant
  | ready
  | parkedPage (w : Wait)
  | parkedEngine (w : Wait) (since : Nat)
  | parkedSync (w : Wait) (since : Nat)
  /-- A work thread without a task (false), or a thread in `IDLE` (true), with the GTS at which its TIME condition holds. -/
  | idle (byInstr : Bool) (deadline : Option Nat)
  /-- A thread in `IDLE` with no condition selected: only a trap, a gang switch or revocation ends it (R128). -/
  | idleAlways
  | held
  deriving DecidableEq, Repr

/-- The pending hint chain (R44): its first word, the distance there, its HMOD and its HIMMs, the latest first. -/
structure Chain where
  start : Word
  dist : Nat
  hmod : Option (BitVec 25)
  himm : List (BitVec 25)
  deriving DecidableEq, Repr

/-- A pending asynchronous trap (R109, R347). -/
structure AsyncTrap where
  gts : Nat
  source : Nat
  code : Nat
  eval : Word
  deriving DecidableEq, Repr

/-- What a work thread runs (R158, R195). -/
inductive Running where
  | none
  /-- A task of the deque and its join counter's address, 0 for none. -/
  | task (counter : Word)
  /-- An ordered task: its key. -/
  | ordered (ts seq : Nat)
  deriving DecidableEq, Repr

/-- A search snapshot that the thread keeps (R297). -/
structure KeptSnap where
  chain : Word
  cat : Nat
  snap : Nat
  deriving DecidableEq, Repr

/-- A Scribe read: its kept target, its arguments as read at issue, and once its method has run the version, the outcome, the
cause and the result (R282). -/
structure KeptRead where
  chain : Word
  obj : Nat
  method : Nat
  target : Nat
  args : List Byte
  done : Option (Nat × Nat × Nat × List Byte)
  deriving DecidableEq, Repr

/-- A member of a search's W: its slot, its distance and whether it is expanded (R299). -/
structure Member where
  slot : Nat
  d : BitVec 32
  expanded : Bool
  deriving DecidableEq, Repr

/-- A search in progress (R297, R299). -/
structure Search where
  cat : Nat
  least : Nat
  localMode : Bool
  /-- The snapshot, once the search is admitted. -/
  snap : Option Nat
  k : Nat
  beam : Nat
  exh : Bool
  query : List Nat
  started : Bool
  w : List Member
  visited : List Nat
  drift : Bool
  done : Bool
  deriving DecidableEq, Repr

/-- One of the sixteen thread contexts of a virtual core (R100). -/
structure Thread where
  run : Run
  /-- Halted by the Spoor: breakpoint 0 to 7, 8 for `BRK`, 9 after a STEP, 10 by a HALT (R396). -/
  halted : Option Nat
  /-- One chain may issue without matching a breakpoint; then halt again when `stepOne` (R396). -/
  passBreak : Bool
  stepOne : Bool
  /-- The halt that ended was at a `BRK`: the thread goes on after it (R396). -/
  passBrk : Bool
  /-- A reply that came while the thread was halted, and which it takes when it runs again (R397). -/
  owedReply : Option Word
  /-- A trap of the chain at which the thread was parked, to be taken in its next slot: the cause and EVAL (R108). -/
  owedTrap : Option (Nat × Word)
  pc : Word
  g : Vector Word 32
  v : Vector Vec 32
  k : Vector Pred 8
  latchD : Option Vec
  latchA : Option Vec
  latchB : Option Vec
  pend : List PendWrite
  /-- Interlocked results to come (R42). -/
  owed : List Owed
  dist : Nat
  /-- The cycle of the die in which the thread may issue, and the one at which its S count or `HSCH` wait runs out: between the
  two it is interlocked (Table 6.2). -/
  readyAt : Nat
  stallEnd : Nat
  /-- After `YIELD`: the contexts that were ready and have not issued since, and the cycle at which it goes on anyway (R157). -/
  yieldFor : List Nat
  yieldEnd : Nat
  /-- T14: the bytes of the aligned words that its latest plain stores wrote, as they were, while nothing has ordered the stores: a
  copy that it starts may read either value (R86). -/
  recent : List (Nat × Byte)
  chain : Option Chain
  segBase : Vector Word 8
  segLimit : Vector Word 8
  tctl : Word
  cause : Word
  epc : Word
  eval : Word
  tvec : Word
  escr : Word
  fflags : Word
  asyncq : List AsyncTrap
  lostMark : Bool
  task : Running
  vmask : BitVec 32
  /-- Where the thread executes while away, at its home context (R161). -/
  awayAt : Option Tid
  /-- The home of the thread that this context executes (R161). -/
  homeOf : Option Tid
  /-- The operand that the next access of a chain needs: an announced SC event may go (R81). -/
  scGo : Bool
  /-- A wait that has been woken keeps its place in the queue until its chain completes (R154, R162). -/
  turn : Option (Wait × Nat)
  snap0 : Option KeptSnap
  snap1 : Option KeptSnap
  search : Option Search
  /-- The kept targets at TCTL.INH 0 and 1 (R282). -/
  kept0 : Option KeptRead
  kept1 : Option KeptRead
  /-- Answers still to come to an `MSEND`, and the refusals so far (R152). -/
  answers : Nat
  refusals : Word
  /-- Stopped at a yield point since the last switch tick: the masks of `YPT` (R111, R355). -/
  yielded : Option (Word × Word)
  /-- Stopped by a gang switch (R355). -/
  stopped : Bool
  /-- While held: the context whose handler is to answer, and the GTS of the trap (R341, R349). -/
  heldFor : Option (Nat × Nat)
  deriving DecidableEq, Repr

/-! ## Virtual cores -/

/-- A message in an inbox: its 64 bytes, its header and whether it is marked for T13 (R152, R154). -/
structure Msg where
  body : List Byte
  header : Word
  t13 : Bool
  deriving DecidableEq, Repr

/-- Who waits for a miss: the thread that the record names, a copy of a sett's queue by ticket and launch (R219), or a signal object's
update by an engine (R149). -/
inductive MissFor where
  | thread
  | copy (ticket epoch sett : Nat)
  | signal (id : Nat)
  /-- The collective engine, for a rank's contribution (R376), and the egress marker, for a thread's DST (R378). -/
  | collective (part group : Nat) (seq : BitVec 64) (rank : Nat)
  | marker (src : Tid) (dst : Nat)
  deriving DecidableEq, Repr

/-- A miss record (Table 8.2); `copy` is the copy's ticket and sett for an engine's miss (R219). -/
structure MissRec where
  id : Nat
  thr : Nat
  ctx : Nat
  kind : Nat
  size : Nat
  cva : Nat
  addr : Word
  gts : Nat
  whom : MissFor
  deriving DecidableEq, Repr

/-- An entry of the posted-store journal (R155, R156). -/
structure JEntry where
  busy : Bool
  refused : Bool
  thr : Nat
  target : Word
  deriving DecidableEq, Repr

/-- A named barrier (R151). -/
structure Bar where
  count : Nat
  arrived : Nat
  phase : Nat
  deriving DecidableEq, Repr

/-- A task record and its join counter (R158). -/
structure TaskRec where
  pc : Word
  a0 : Word
  a1 : Word
  a2 : Word
  counter : Word
  deriving DecidableEq, Repr

/-- The kind of an operand stream (R254). -/
inductive StreamKind where
  | unarmed | rows | gathered | sparse
  deriving DecidableEq, Repr

/-- An A or B stream of a command queue (R254). -/
structure Stream where
  kind : StreamKind
  addr : Nat
  ld : Nat
  mask : Nat
  lanes : List (BitVec 32)
  deriving DecidableEq, Repr

/-- The commands of a direct-door queue (Table 16.1). -/
inductive TileOp where
  | tlda | tldb | tgtha | tmma | tspm | tzero | tldc | tstc | abal | abfr
  deriving DecidableEq, Repr

/-- A pushed command: what the push read (R253). `seq` is its number in its queue, `order` its place among all pushes. -/
structure TileCmd where
  op : TileOp
  x : Nat
  bank : Nat
  half : Nat
  nt : Bool
  val : Word
  lanes : List (BitVec 32)
  /-- `ABAL`, `ABFR`: the number of banks. -/
  n : Nat
  thr : Nat
  sat : Bool
  seq : Nat
  order : Nat
  deriving DecidableEq, Repr

/-- A `TMMA` that has begun: its depth, its next chunk, its streams, the format pairs of chunk 0, of each row of A with B (none before
it), and its flags (R257, Table 15.1). -/
structure TileRun where
  queue : Nat
  cmd : TileCmd
  k : Nat
  chunk : Nat
  a : Stream
  b : Stream
  pairs : List (Nat × Nat)
  flags : Nat
  deriving DecidableEq, Repr

/-- A command that has ended and is not yet covered by a completion word (R265). -/
structure TileEnd where
  seq : Nat
  order : Nat
  thr : Nat
  nt : Bool
  flags : Nat
  cause : Nat
  banks : List Nat
  deriving DecidableEq, Repr

/-- A latched row or column: its number, its format, the scale entry of its mq4 block, and its elements by K position; an
absent element is none. -/
structure Line where
  ix : Nat
  fmt : Nat
  entry : BitVec 40
  xs : List (Option Nat)
  deriving DecidableEq, Repr

/-- The A latch and the B latch with the chunk they hold (Table 15.1): the command or the task it is of, its format pairs, the rows
and the columns, and in the gather unit the addresses of the rows it fetched. -/
structure Latch where
  order : Nat
  task : Option (Nat × Nat)
  pairs : List (Nat × Nat)
  rows : List Line
  cols : List Line
  gather : List (BitVec 32)
  deriving DecidableEq, Repr

/-- One command queue with its streams, its ended commands in push order, and its completion queue (R254, R265). -/
structure TileQueue where
  cmds : List TileCmd
  seq : Nat
  a : Stream
  b : Stream
  ended : List TileEnd
  done : List Word
  deriving DecidableEq, Repr

/-- The tile engine of a core (Table 15.1). `owner` 16 means free, 17 held by an unpinned task. -/
structure Tile where
  queues : Vector TileQueue 4
  loops : Vector (BitVec 32) 8
  /-- The accumulators, by bank × 512 + half × 256 + element; unlisted is 0. -/
  acc : KMap (BitVec 32)
  owner : Vector Nat 64
  running : List TileRun
  lastQueue : Nat
  pushes : Nat
  /-- `ABAL` commands that have begun and wait for their run of banks, the earliest first, with their queues (R261). -/
  waiting : List (Nat × TileCmd)
  latch : Option Latch
  deriving DecidableEq, Repr

/-- A virtual core bound or bindable to a launch (Table 6.4, right column). -/
structure VCore where
  threads : Vector Thread 16
  last : Nat
  freeAt : Nat
  launch : Option Nat
  resLaunch : Option Nat
  resActive : Bool
  /-- The resident launch's own GGEO, VCID and STDOM, which T13 reads (R240, R342). -/
  resGgeo : BitVec 128
  resVcid : Word
  resStdom : Word
  t0Ended : Bool
  spad : Memory
  shfmt : Vector Word 16
  scale : KMap (BitVec 40)
  ggeo : BitVec 128
  vcid : Word
  stdom : Word
  cycBase : Nat
  ncycBase : Nat
  mb : Vector (Option Word) 8
  inbox : List Msg
  journal : Vector JEntry 32
  bars : KMap Bar
  deque : List TaskRec
  ovfl : Nat
  ovflBase : Nat
  undoBase : Nat
  undoSlots : Nat
  undoUsed : List Nat
  missbox : List MissRec
  misses : List MissRec
  nextMiss : Nat
  /-- The records that T15 has received and not answered, the latest first: MISSID and context (R110). -/
  walks : List (Nat × Nat)
  tile : Tile
  folded : Bool
  /-- Second of a folded pair (R360). -/
  foldHigh : Bool
  /-- On a folded core: the cycle in which each context of this half last issued (Table 22.9). -/
  servedAt : KMap Nat
  deriving DecidableEq, Repr

/-! ## Setts and virtual holts -/

/-- A composed translation entry of a range or page TLB (Table 21.4), with the context it serves. -/
structure TlbEntry where
  ctx : Nat
  vbase : Nat
  vlen : Nat
  dpa : Nat
  rights : Nat
  atom : Nat
  cache : Nat
  key : Nat
  pin : Bool
  deriving DecidableEq, Repr

/-- The place of a copy in its course: chunks still to move, for `CPYC` the version still to check, or what is left is its
completion (R220, R223). -/
inductive CopyPhase where
  | moving | check
  /-- A `CPYC` whose payload is written and whose version is still odd (R223). -/
  | closing
  | ending
  deriving DecidableEq, Repr

/-- A copy in a sett's queue (R214 to R223). -/
structure Copy where
  ticket : Nat
  /-- The launch of its sett to which its ticket belongs (R221). -/
  epoch : Nat
  ctx : Nat
  issuer : Tid
  blk : List Byte
  cond : Bool
  srcFmt : Nat
  dstFmt : Nat
  /-- The issuer's segments at issue, by which SRC, DST and the scale area are reached. -/
  segBase : Vector Word 8
  segLimit : Vector Word 8
  sat : Bool
  phase : CopyPhase
  pos : Nat
  /-- Effective slack, and the chunks of other copies of its pair sent since it last sent one (R218). -/
  slack : Nat
  others : Nat
  /-- `CPYC`: the version that matched. -/
  ver : Option Nat
  /-- `CPYC`: the source bytes read; an mq4 destination: the codes and block scale codes of its superblock. -/
  staged : List Byte
  discarded : Bool
  flags : Nat
  /-- Waits for the walker (R219). -/
  missing : Bool
  failed : Option Nat
  /-- The bytes of the issuer's stores that no fence ordered before the issue, as they were (R86). -/
  stale : List (Nat × Byte)
  deriving DecidableEq, Repr

/-- The record of a ticket (R224). -/
structure CopyRec where
  ticket : Nat
  outcome : Nat
  reason : Nat
  flags : Nat
  deriving DecidableEq, Repr

/-- A sett: its permission table (Table 21.3), its memory, handles, copy engine and translation ports. -/
structure Sett where
  /-- The physical sett, die × 144 + holt × 6 + sett; none while its partition is switched out. -/
  place : Option Nat
  part : Nat
  holder : Nat
  vsett : Nat
  res : Option Nat
  resVsett : Nat
  shelves : Vector Nat 32
  permits : List Nat
  mem : Memory
  /-- Handles 0 to 255 of the holder's virtual sett, and 256 to 511 of the resident context's (R221). -/
  handles : KMap Word
  /-- Launches of the sett so far: copies of an ended one are told apart by it. -/
  epoch : Nat
  ticket : Nat
  queue : List Copy
  recs : List CopyRec
  deficits : KMap Nat
  turn : Nat
  rangeTlb : List TlbEntry
  pageTlb : List TlbEntry
  deriving DecidableEq, Repr

/-- The states of Table 12.1 that an uncommitted ordered task may be in. -/
inductive OState where
  | queued | running | waiting | finished
  deriving DecidableEq, Repr

/-- An uncommitted ordered task (R195 to R202). -/
structure OTask where
  ts : Nat
  seq : Nat
  rec_ : TaskRec
  parent : Option (Nat × Nat)
  st : OState
  prot : Bool
  core : Nat
  slot : Nat
  thr : Nat
  reads : List Nat
  writes : List Nat
  /-- The log: a word's place and its old value, the latest first (Table 12.3). -/
  log : List (Nat × Word)
  deriving DecidableEq, Repr

/-- A domain of the ordered-task unit (R194, R203). -/
structure Domain where
  counter : Nat
  horizon : Nat
  floor : Nat
  /-- The timestamp of the highest-key committed task. -/
  committed : Nat
  tasks : List OTask
  nextRecompute : Nat
  deriving DecidableEq, Repr

/-- A tile task or grouped task in a scheduler, or running (R242 to R251, R267). -/
structure TileTask where
  id : Nat
  rec_ : List Byte
  group : Bool
  counts : List Nat
  issuer : Tid
  /-- The place of the record, whose bytes 60 to 63 hold STATUS. -/
  recPlace : Nat
  segBase : Vector Word 8
  segLimit : Vector Word 8
  /-- The present group (R249). -/
  g : Nat
  /-- The handle conditions have been met (R249). -/
  admitted : Bool
  running : Bool
  /-- The core whose engine runs it or ran it last; before that the pinned one, else the issuer's. -/
  core : Nat
  bank : Nat
  tile : Nat
  chunk : Nat
  pair : Option (Nat × Nat)
  flags : Nat
  cause : Nat
  deriving DecidableEq, Repr

/-- What the units of a virtual holt of a context hold (R194, R244). -/
structure HoltUnit where
  domain : Domain
  tasks : List TileTask
  nextTask : Nat
  deriving DecidableEq, Repr

/-! ## Contexts and launches -/

/-- The states of Table 21.1; a dead context is not listed. -/
inductive CtxState where
  | live | stopping
  deriving DecidableEq, Repr

/-- A flattened stage-2 range (R324): the context whose key slot it uses, which grant made it, the parent's address it came from,
and the child it is lent to without SHARE. Pieces of one grant's range that come together again are that range. -/
structure FRange where
  cpa : Nat
  len : Nat
  dpa : Nat
  rights : Nat
  atom : Nat
  cache : Nat
  key : Nat
  id : Nat
  src : Nat
  shared : Bool
  lentTo : Option Nat
  deriving DecidableEq, Repr

/-- An extent of an Archive allotment: place in the package's Archive, length, and the owner's offset it came from. -/
structure Extent where
  base : Nat
  len : Nat
  /-- The child that has it by a grant; its place in the allotment stays (R337, R339). -/
  lent : Option Nat
  deriving DecidableEq, Repr

/-- Budget state of one (die, class) of a context (R331 to R333). -/
structure Budget where
  rate : Nat
  bucket : Nat
  debt : Nat
  spent : Nat
  spentLast : Nat
  deriving DecidableEq, Repr

/-- A breakpoint entry (Table 25.5). -/
structure Breakpoint where
  pc : Word
  first : Nat
  count : Nat
  thrMask : BitVec 16
  cond : BitVec 8
  reg : Nat
  counter : Nat
  value : Word
  deriving DecidableEq, Repr

/-- A trace ring of a context on a die (R388). -/
structure Ring where
  base : Nat
  len : Nat
  deriving DecidableEq, Repr

/-- An open clip of the egress marker (R378). The digest state is the list of bytes folded so far. -/
structure Clip where
  clip : Nat
  fw : Nat
  fh : Nat
  last : Nat
  tiles : Nat
  first : Nat
  bytes : List Byte
  failed : Bool
  deriving DecidableEq, Repr

/-- The data of a program image that the loader places at each launch (R30, R31): `.shelf` formats by shelf, and `.spad`,
`.settmem` and `.archive` bytes from an offset on. It comes from outside the machine (log 70). -/
structure Image where
  formats : List (Nat × Word)
  spad : List (Nat × List Byte)
  settmem : List (Nat × List Byte)
  archive : List (Nat × List Byte)
  deriving DecidableEq, Repr

/-- A context (R319 to R324). -/
structure Context where
  st : CtxState
  parent : Nat
  depth : Nat
  ownKey : Bool
  isRes : Bool
  reflect : BitVec 6
  hvc : Nat
  hthr : Nat
  codeBase : Nat
  codeLen : Nat
  quant : Vector Nat 4
  vaSize : Nat
  s1root : Word
  bootVA : Nat
  bootPA : Nat
  bootLen : Nat
  bootRights : Nat
  /-- Virtual setts held: (virtual sett, sett identity), ascending. -/
  setts : List (Nat × Nat)
  /-- Virtual setts lent to a child: (virtual sett, sett identity, child), the latest grant first. -/
  lent : List (Nat × Nat × Nat)
  /-- T13 slots of a RES context: (its virtual sett, sett identity). -/
  resSetts : List (Nat × Nat)
  ranges : List FRange
  archive : List Extent
  budgets : Vector Budget 20
  pool : Nat
  poolUsed : Nat
  keyGen : Nat
  spoor : Word
  bps : Vector Breakpoint 8
  rings : Vector Ring 4
  /-- The tick of the next sampling pulse, while SAMPLE is set (R393). -/
  pulseAt : Nat
  overruns : Nat
  aborts : Nat
  /-- Egress: enabled, mark strength, key generation (R378). -/
  egEnable : Bool
  egStrength : Nat
  clips : List Clip
  msixBase : Nat
  msixCount : Nat
  lostNotes : Nat
  haltedAll : Bool
  image : Image
  deriving DecidableEq, Repr

/-- A running launch (R342). -/
structure Launch where
  ctx : Nat
  vc0 : Nat
  nvc : Nat
  /-- Cores whose T0 has not ended. -/
  alive : List Nat
  signal : Word
  issuer : Tid
  segBase : Vector Word 8
  segLimit : Vector Word 8
  res : Bool
  /-- Memory as it stood at the bind, from which the code image is fetched (R138): DRAM, the Archive, memory outside, and the
  scratchpads and sett memories. -/
  code : Memory
  codeArch : Memory
  codeOut : Memory
  codeSpads : KMap Memory
  codeSetts : KMap Memory
  codeLo : Nat
  codeHi : Nat
  deriving DecidableEq, Repr

/-! ## Replayed objects and Catalogues (18, 19) -/

/-- A call log entry (Table 18.1); a Catalogue's entry carries its key and encoded vector (R294). -/
structure LogEntry where
  version : Nat
  method : Nat
  st : Nat
  callerVc : Nat
  callerThr : Nat
  callerCtx : Nat
  cause : Nat
  args : List Byte
  key : Word
  codes : List Nat
  scale : BitVec 32
  deriving DecidableEq, Repr

/-- A method of an object (Table 18.2). -/
structure Method where
  entry : Word
  budget : Nat
  upd : Bool
  defined : Bool
  deriving DecidableEq, Repr

/-- A result of the ring of a die (R273). -/
structure Result where
  version : Nat
  outcome : Nat
  cause : Nat
  bytes : List Byte
  deriving DecidableEq, Repr

/-- One die's copy of an object. -/
structure ObjCopy where
  applied : Nat
  state : Memory
  ring : List Result
  deriving DecidableEq, Repr

/-- A replayed object (R273). -/
structure Obj where
  ctx : Nat
  home : Nat
  size : Nat
  /-- PLACE: the state copies lie in the dies' Archive, else in their DRAM (R273, R276). -/
  inArchive : Bool
  code : Word
  codeLen : Nat
  codeBytes : Memory
  methods : List Method
  tail : Nat
  log : List LogEntry
  copies : Vector ObjCopy 4
  closing : Bool
  poolUse : Nat
  /-- The last append: its cycle of the home die's core clock and its source number (R291). -/
  last : Option (Nat × Nat)
  deriving DecidableEq, Repr

/-- An entry of a Catalogue (R294): its slot is its position; lists as (stamp, slots), the newer first. -/
structure CatEntry where
  key : Word
  codes : List Nat
  scale : BitVec 32
  commit : Nat
  delete : Option Nat
  lists : List (Nat × List Nat)
  deriving DecidableEq, Repr

/-- One die's copy of a Catalogue. -/
structure CatCopy where
  applied : Nat
  entries : List CatEntry
  deriving DecidableEq, Repr

/-- A Catalogue (R293, R294). -/
structure Cat where
  ctx : Nat
  home : Nat
  dim : Nat
  fmt : Nat
  metric : Nat
  degree : Nat
  beam : Nat
  alpha : BitVec 32
  cap : Nat
  stored : Nat
  tail : Nat
  log : List LogEntry
  /-- The least snapshot of every search in current mode, and of each thread the version that it has had returned and that no release
  of it has passed on (R91). -/
  known : Nat
  told : List (Tid × Nat)
  copies : Vector CatCopy 4
  closing : Bool
  poolUse : Nat
  last : Option (Nat × Nat)
  deriving DecidableEq, Repr

/-! ## Operations in flight (R13, R14) -/

/-- An operation that has left its issuer. The events of the table name one by its place in the list. -/
inductive Flight where
  /-- `BARA` on its way to the home core, or its reply (R151). -/
  | barArrive (src : Tid) (core idx : Nat)
  | barReply (src : Tid) (fault : Bool) (ident : Word) (phase : Nat)
  /-- A copy of a message (R152), or of a scale message (R153); `told`: its sender has the answer, after a park buffer (R356). -/
  | msg (src : Tid) (core : Nat) (m : Msg) (told : Bool)
  | scale (src : Tid) (core : Nat) (body : List Byte) (told : Bool)
  /-- A posted store: issuer, journal entry, thread address, size and value, the place to write and its translation (R155), and the
  protected task that sent it (R202). -/
  | psto (src : Tid) (entry : Nat) (ctx : Nat) (place : Nat) (sett : Nat) (size : Nat) (val : Word) (kind6 : Bool) (dpa : Nat) (task : Option (Nat × Nat))
  /-- A migration packet bound for a core (R161). -/
  | migr (home : Tid) (core : Nat) (bytes : List Byte)
  /-- A reflection message waiting in the dispatcher (R349 to R351): the handler context. -/
  | reflection (handler : Nat) (held : Tid) (code : Nat) (async inh fwd : Bool) (epc eval : Word) (gts : Nat) (gs : List Word) (ctx vc : Nat)
  /-- A bank command: what is left of its lines (R228, R229). -/
  | bank (src : Tid) (ctx : Nat) (fn : Nat) (op ty : Nat) (lines : List (Nat × Nat)) (srcLine : List Byte) (a : BitVec 32) (pat : Word)
      (sv : Bool) (signal : Word) (segBase segLimit : Vector Word 8)
  /-- An append to a log, with the EVAL of a trap (R280, R308, R309). -/
  | append (src : Tid) (cat : Bool) (id : Nat) (e : LogEntry) (eval : Word)
  /-- An accepted tile of a clip (R378), with its planes as read. -/
  | egress (src : Tid) (ctx : Nat) (blk : List Byte) (luma cb cr : List Byte) (dst : Nat) (signal : Word) (segBase segLimit : Vector Word 8)
  /-- An `EGRS` whose planes are still to be read, at these places (R378). -/
  | planes (src : Tid) (ctx : Nat) (blk : List Byte) (luma cb cr : List Nat) (dst : Nat) (signal : Word) (segBase segLimit : Vector Word 8)
  /-- An `EGFIN` (R379), with the GTS at its issue. -/
  | egfin (src : Tid) (ctx : Nat) (clip : Nat) (dst : Nat) (signal : Word) (segBase segLimit : Vector Word 8) (gts : Nat)
  deriving DecidableEq, Repr

/-- A contribution to a collective (R376). -/
structure Contrib where
  part : Nat
  group : Nat
  seq : BitVec 64
  rank : Nat
  form : Nat
  ty : Nat
  op : Nat
  count : Nat
  hv : Bool
  sv : Bool
  handle : Nat
  deadline : Option Nat
  src : Word
  dst : Word
  signal : Word
  issuer : Tid
  segBase : Vector Word 8
  segLimit : Vector Word 8
  /-- The GTS at which a halt suspended the count of TIMEOUT (R398). -/
  pausedAt : Option Nat
  /-- The die on which it was issued, whose engine holds it. -/
  die : Nat
  deriving DecidableEq, Repr

/-- The trap that tells a thread of a signal object which an engine cannot reach: EVAL[63:32] takes the cause, or its reason of
Table 14.6. -/
structure SigTrap where
  thread : Tid
  source : Nat
  code : Nat
  eval : Nat
  reason : Bool
  deriving DecidableEq, Repr

/-- An engine's update of a signal object whose translation is not resident: the walker is asked as for a copy (R18, R219, R220). -/
structure SigOp where
  id : Nat
  ctx : Nat
  core : Nat
  segBase : Vector Word 8
  segLimit : Vector Word 8
  addr : Word
  err : Bool
  n : Nat
  fail : Option SigTrap
  /-- Its miss record has been sent. -/
  missing : Bool
  deriving DecidableEq, Repr

/-- A revocation that has reached the dispatcher and waits for what must end first (R135, R186, R252, R338, R339): its target, where
the target's Den goes, the thread whose `CTXREVOKE` it is, unless that thread has ended, the setts that leave the target (kind 2; none
where the target's subtree is torn down), and, once the threads have stopped and their engines have been aborted, the tick until which
a T15 may still answer (log 86). -/
structure Teardown where
  root : Nat
  den : Option Nat
  thread : Option Tid
  setts : Option (List Nat)
  aborted : Option Nat
  deriving DecidableEq, Repr

/-- A collective that has failed, and the ranks that have yet to learn it (R377). -/
structure CollFail where
  part : Nat
  group : Nat
  seq : BitVec 64
  reason : Nat
  left : List Nat
  deriving DecidableEq, Repr

/-- A collective group of a partition (R376): ranks as (package, die, context). -/
structure Group where
  part : Nat
  group : Nat
  ranks : List (Nat × Nat × Nat)
  deriving DecidableEq, Repr

/-! ## The package -/

/-- A step request, a relock and the counters of one die's core clock (R365 to R367, R405). -/
structure Die where
  enabled : Bool
  /-- Enabled DRAM channels (Table 26.3). -/
  chan : Nat
  point : Nat
  /-- The point requested by the root firmware, and the governor's cap. -/
  asked : Nat
  cap : Nat
  /-- The counters at the last change of the clock; while it stops, at the stop. -/
  at_ : Nat
  cycles : Nat
  ncyc : Nat
  /-- The end of a relock in progress and its target. -/
  relock : Option (Nat × Nat)
  /-- A request kept while a relock runs (R366). -/
  kept : Option Nat
  refx2 : Bool
  /-- The tick of the governor's last change of the cap, and the die's power at its last evaluation, in watts (R405). -/
  capAt : Option Nat
  power : Nat
  coolSince : Option Nat
  keysUsed : Nat
  deriving DecidableEq, Repr

/-- A gang switch in progress (R354 to R358), or an armed slot. -/
structure Switch where
  tick : Nat
  out : Nat
  inn : Nat
  fold : Bool
  grace : Nat
  deadline : Nat
  shadow : Nat
  place : Nat
  /-- 0 armed, 1 in grace, 2 stopped and saving. -/
  phase : Nat
  stop : Nat
  reported : List Nat
  flushed : Bool
  /-- Messages in the park buffers (R356). -/
  parked : List Flight
  /-- The cores that are saved compactly, as they stood at the stop instant (R357). -/
  compact : List Nat
  deriving DecidableEq, Repr

/-- A Den (R357). Of a partition that is switched out the units stay where they are, on setts without a place; a Den that a
teardown saved (R339) holds its contexts, launches, cores, units and setts. `fold`: a slot allows IN to be folded (R360). -/
structure Den where
  root : Nat
  bySwitch : Bool
  shadow : Nat
  /-- Its bytes as they were written at `shadow` (Table 22.10). -/
  image : List Byte
  dies : Nat
  fold : Bool
  parked : List Flight
  contexts : KMap Context
  launches : KMap Launch
  cores : KMap VCore
  units : KMap HoltUnit
  setts : KMap Sett
  deriving DecidableEq, Repr

/-- A method in the Scribe's method mode (R284 to R287). Buffer 0 code, 1 state, 2 arguments, 3 result, 7 stack. -/
structure Meth where
  upd : Bool
  codeLo : Nat
  codeLen : Nat
  code : Memory
  stateLen : Nat
  state : Memory
  args : Memory
  result : Memory
  stack : Memory
  journal : List (Nat × Word)
  trapped : Option Nat
  ended : Bool
  thread : Thread
  deriving DecidableEq, Repr

/-- Which agent moves next: a thread's next word, or an event of the table. -/
inductive Move where
  | thread (id : Tid)
  | event (i : Instr)
  deriving DecidableEq, Repr

/-- Whether the package runs, and how a start failed (R401, R402). -/
inductive Power where
  | running | inReset | failed (step reason : Nat)
  deriving DecidableEq, Repr

/-- The package. -/
structure State where
  power : Power
  /-- Time since the start of the package in 1/306 ns; GTS is this divided by 306 (R364). -/
  now : Nat
  /-- Ticks that slewing has added or omitted (R364). -/
  slewPlus : Nat
  slewMinus : Nat
  lastSlew : Option Nat
  dies : Vector Die 4
  /-- Device DRAM by device-physical address, the Archive by place, host and fabric memory by device-physical address. -/
  dram : Memory
  archive : Memory
  outside : Memory
  cores : KMap VCore
  setts : KMap Sett
  units : KMap HoltUnit
  contexts : KMap Context
  /-- Dead contexts whose numbers have not been taken again, with their parents (Table 21.1). -/
  dead : KMap Nat
  launches : KMap Launch
  nextLaunch : Nat
  objects : KMap Obj
  cats : KMap Cat
  flights : List Flight
  contribs : List Contrib
  collFails : List CollFail
  /-- Places whose data holds an uncorrectable soft error, and places outside the package whose accesses complete with an error status
(R345). The outside puts them here. -/
  softErrors : List Nat
  pathErrors : List Nat
  /-- Signal objects that engines are still to update. -/
  signals : List SigOp
  teardowns : List Teardown
  groups : List Group
  refillAt : Nat
  switches : List Switch
  dens : List Den
  msix : List (Nat × Nat)
  portsUp : BitVec 12
  /-- The fabric ports that trained at the last start (Table 26.3). -/
  portsTrained : BitVec 12
  linkUp : Bool
  /-- Writes of the host to its memory that reach the device when the link is up again (R373), and the device-physical extents that
  the root has marked host-visible (R371). -/
  hostWrites : List (Nat × List Byte)
  hostVisible : List (Nat × Nat)
  plim : Nat
  form : Nat
  /-- Places of setts that the start found disabled (R401, R404). -/
  lostSetts : List Nat
  /-- Archive banks that the last self-test found disabled, by die × 512 + bank (R401). -/
  lostBanks : List Nat
  coldNext : Bool
  startKind : Nat
  archTest : Bool
  /-- The saved DRAM calibration: the channels of each die that its training lost (R401, R402). -/
  calibration : Option (List Nat)
  /-- The root firmware mailbox on BAR0: cause, EPC, EVAL, virtual core and thread of a firmware fault (R353). -/
  mailbox : List Word
  reports : List (List Byte)
  cur : Tid
  agenda : List Move
  /-- The model's own counter that free values are applied to (log 2). -/
  freeCount : Nat
  parkCount : Nat
  /-- The model's own counter of the moves that nothing outside has chosen (log 3). -/
  turns : Nat
  /-- A method that the Scribe is running; none between steps. -/
  meth : Option Meth
  deriving DecidableEq, Repr

/-! ## Faults and refusals -/

/-- Why a step stops where the manual gives no effect. -/
inductive Fault where
  /-- An access reaches a device-physical address at which the manual says no memory exists (R408). Raised by memory
  accesses. Safe: the model stops where the device's behaviour is not given. -/
  | noMemory (dpa : Nat)
  /-- An access reaches device MMIO, whose behaviour the manual does not give (R372, R408). Safe, as above. -/
  | mmio (dpa : Nat)
  deriving DecidableEq, Repr

/-- Why the model gives an instruction no meaning. -/
inductive Refusal where
  /-- The instruction of the opcode table has no meaning in the model yet. Raised by `exec` only. Safe. -/
  | notModelled (mnemonic : String)
  deriving DecidableEq, Repr

/-! ## Reset -/

def Stream.unset : Stream := ⟨.unarmed, 0, 0, 0, []⟩

/-- A dormant thread with the reset values of R104, Table 4.3 and R346; DESIGN CHOICE (log 1): the registers that a launch
or a `SPAWN` has not written hold zero, k0 is all ones. -/
def Thread.reset : Thread where
  run := .dormant
  halted := none
  passBreak := false
  stepOne := false
  passBrk := false
  owedReply := none
  owedTrap := none
  pc := 0
  g := Vector.replicate 32 0
  v := Vector.replicate 32 0
  k := (Vector.replicate 8 0).set 0 0xFFFF
  latchD := none
  latchA := none
  latchB := none
  pend := []
  owed := []
  dist := 0
  readyAt := 0
  stallEnd := 0
  yieldFor := []
  yieldEnd := 0
  recent := []
  chain := none
  segBase := Vector.replicate 8 0
  segLimit := Vector.replicate 8 0
  tctl := 0
  cause := 0
  epc := 0
  eval := 0
  tvec := 0
  escr := 0
  fflags := 0
  asyncq := []
  lostMark := false
  task := .none
  vmask := 0
  awayAt := none
  homeOf := none
  scGo := false
  turn := none
  snap0 := none
  snap1 := none
  search := none
  kept0 := none
  kept1 := none
  answers := 0
  refusals := 0
  yielded := none
  stopped := false
  heldFor := none

def TileQueue.reset : TileQueue := ⟨[], 0, .unset, .unset, [], []⟩

/-- Table 15.1: queues empty, banks free and zero, loop registers 0. -/
def Tile.reset : Tile := ⟨Vector.replicate 4 .reset, Vector.replicate 8 0, [], Vector.replicate 64 16, [], 3, 0, [], none⟩

/-- A virtual core before its first launch: scratchpad zero (R31), everything empty (R104, R151, R154, R162). -/
def VCore.reset : VCore where
  threads := Vector.replicate 16 .reset
  last := 15
  freeAt := 0
  launch := none
  resLaunch := none
  resActive := false
  resGgeo := 0
  resVcid := 0
  resStdom := 0
  t0Ended := false
  spad := []
  shfmt := Vector.replicate 16 0
  scale := []
  ggeo := 0
  vcid := 0
  stdom := 0
  cycBase := 0
  ncycBase := 0
  mb := Vector.replicate 8 none
  inbox := []
  journal := Vector.replicate 32 ⟨false, false, 0, 0⟩
  bars := []
  deque := []
  ovfl := 0
  ovflBase := 0
  undoBase := 0
  undoSlots := 0
  undoUsed := []
  missbox := []
  misses := []
  nextMiss := 0
  walks := []
  tile := .reset
  folded := false
  foldHigh := false
  servedAt := []

/-- The sett of identity `i` as the start leaves it: held by the root firmware (log 4), memory zero, handles free. -/
def Sett.reset (i : Nat) : Sett where
  place := some i
  part := 0
  holder := 0
  vsett := i
  res := none
  resVsett := 0
  shelves := Vector.replicate 32 0
  permits := []
  mem := []
  handles := []
  epoch := 0
  ticket := 0
  queue := []
  recs := []
  deficits := []
  turn := 0
  rangeTlb := []
  pageTlb := []

def Budget.zero : Budget := ⟨0, 0, 0, 0, 0⟩
def Breakpoint.zero : Breakpoint := ⟨0, 0, 0, 0, 0, 0, 0, 0⟩
def Domain.reset : Domain := ⟨0, 2 ^ 64 - 1, 0, 0, [], 0⟩
def HoltUnit.reset : HoltUnit := ⟨.reset, [], 0⟩

/-- A context with no resources. -/
def Context.bare : Context where
  st := .live
  parent := 0
  depth := 0
  ownKey := false
  isRes := false
  reflect := 0
  hvc := 0
  hthr := 0
  codeBase := 0
  codeLen := 0
  quant := Vector.replicate 4 0
  vaSize := 0
  s1root := 0
  bootVA := 0
  bootPA := 0
  bootLen := 0
  bootRights := 0
  setts := []
  lent := []
  resSetts := []
  ranges := []
  archive := []
  budgets := Vector.replicate 20 .zero
  pool := 0
  poolUsed := 0
  keyGen := 0
  spoor := 0
  bps := Vector.replicate 8 .zero
  rings := Vector.replicate 4 ⟨0, 0⟩
  pulseAt := 0
  overruns := 0
  aborts := 0
  egEnable := false
  egStrength := 1
  clips := []
  msixBase := 0
  msixCount := 0
  lostNotes := 0
  haltedAll := false
  image := ⟨[], [], [], []⟩

/-- Context 0, the root firmware, at depth 0 (R319). DESIGN CHOICE (log 4): it holds every sett, the whole device-physical
space as one range, the whole Archive, and every budget at the largest rate. -/
def Context.root : Context :=
  { Context.bare with
    codeLen := 4
    vaSize := 2 ^ 52
    setts := (List.range 576).map fun i => (i, i)
    ranges := [⟨0, 2 ^ 52, 0, 15, 7, 0, 0, 0, 0, true, none⟩]
    archive := [⟨0, 2 ^ 33, none⟩]
    budgets := Vector.replicate 20 ⟨2 ^ 32 - 1, 2 ^ 32 - 1, 0, 0, 0⟩
    pool := 2 ^ 33 }

/-- A die of an OZN-4 as a cold start leaves it, at 1.80 GHz (DESIGN CHOICE, log 1), all 64 channels enabled. -/
def Die.reset : Die where
  enabled := true
  chan := 64
  point := 0
  asked := 0
  cap := 0
  at_ := 0
  cycles := 0
  ncyc := 0
  relock := none
  kept := none
  refx2 := false
  capAt := none
  power := 0
  coolSince := none
  keysUsed := 0

/-- The package right after a successful cold start (R364, R401 to R403): GTS 0, only context 0, nothing launched. -/
def State.reset : State where
  power := .running
  now := 0
  slewPlus := 0
  slewMinus := 0
  lastSlew := none
  dies := Vector.replicate 4 .reset
  dram := []
  archive := []
  outside := []
  cores := []
  setts := []
  units := []
  contexts := [(0, Context.root)]
  dead := []
  launches := []
  nextLaunch := 0
  objects := []
  cats := []
  flights := []
  contribs := []
  collFails := []
  softErrors := []
  pathErrors := []
  signals := []
  teardowns := []
  groups := []
  refillAt := 8192
  switches := []
  dens := []
  msix := []
  portsUp := 0xFFF
  portsTrained := 0xFFF
  linkUp := true
  hostWrites := []
  hostVisible := [(0, 2 ^ 39)]
  plim := 2800
  form := 4
  lostSetts := []
  lostBanks := []
  coldNext := false
  startKind := 0
  archTest := true
  calibration := some [0, 0, 0, 0]
  mailbox := []
  reports := []
  cur := ⟨0, 0⟩
  agenda := []
  freeCount := 0
  parkCount := 0
  turns := 0
  meth := none

end Sys2Proof.Machine
end

