-- ==== Sys2Proof/Machine/Ops.lean ====
section
/-! DEFINITION. The operations over the state that the meanings share: time, cores and threads, registers, segments and
translation, memory, the undo of ordered tasks, budgets, signal objects, and traps (06 R94 to R110, 08 R136 to R149,
12 R201 to R206, 21 R323 to R333, 22 R346 to R353, 23 R364 to R368). -/

namespace Sys2Proof.Machine

open Sys2Proof

/-! ## Why an instruction does not complete -/

/-- How a meaning ends when it does not complete. -/
inductive Stop where
  /-- A precise trap: cause code and EVAL (Table 22.4). -/
  | trap (code : Nat) (eval : Word)
  /-- A translation miss: address as issued, first missing byte, access kind of Table 8.2, extent (R140). -/
  | miss (addr : Word) (cva kind size : Nat)
  /-- A park that has sent nothing; `sync` tells parked, sync from parked, engine (R95). -/
  | park (sync : Bool) (w : Wait)
  /-- A migratory access to another holt (R161): the destination core. -/
  | migrate (core : Nat) (addr : Word)
  /-- The thread is away and the chain runs at its home (R161). -/
  | goHome
  /-- A register that the instruction reads is not written before a cycle: the thread is ineligible until then (R42). -/
  | wait (due : Nat)
  | fault (f : Fault)
  deriving DecidableEq, Repr

/-! ## Cause codes (Table 22.4) -/

def cILLEGAL : Nat := 0x01
def cSTALL_SHORT : Nat := 0x02
def cSYSCALL : Nat := 0x03
def cSOFT_TRAP : Nat := 0x04
def cBREAKPOINT : Nat := 0x05
def cOPERAND_RANGE : Nat := 0x06
def cSCALE_MISSING : Nat := 0x07
def cFORMAT_ACCESS : Nat := 0x08
def cDOUBLE_TRAP : Nat := 0x09
def cSEG_LIMIT : Nat := 0x10
def cSEG_RIGHTS : Nat := 0x11
def cSTACK_LIMIT : Nat := 0x12
def cPAGE_FAULT : Nat := 0x13
def cXLATE_RIGHTS : Nat := 0x14
def cATOMIC_PATH : Nat := 0x15
def cMISALIGN : Nat := 0x16
def cPSTO_REFUSED : Nat := 0x17
def cHOST_ABORT : Nat := 0x19
def cHANDLE_STATE : Nat := 0x20
def cCOPY_MALFORMED : Nat := 0x21
def cCOPY_FAULT : Nat := 0x22
def cEGRESS_DENIED : Nat := 0x23
def cSPARSE_LEN : Nat := 0x24
def cACC_OWNER : Nat := 0x25
def cTILE_MALFORMED : Nat := 0x26
def cTILE_FAULT : Nat := 0x27
def cCOLL_MALFORMED : Nat := 0x28
def cCOLL_FAULT : Nat := 0x29
def cEGRESS_STATE : Nat := 0x2A
def cTHREAD_BUSY : Nat := 0x30
def cACC_HELD : Nat := 0x31
def cMSG_DENIED : Nat := 0x32
def cBAR_STATE : Nat := 0x33
def cTASK_OVERFLOW : Nat := 0x34
def cMIG_VECTOR : Nat := 0x35
def cOTASK_STATE : Nat := 0x36
def cOBJ_MALFORMED : Nat := 0x40
def cOBJ_ABSENT : Nat := 0x41
def cMETHOD_ESCAPE : Nat := 0x42
def cMETHOD_BUDGET : Nat := 0x43
def cMETHOD_JOURNAL : Nat := 0x44
def cVERSION_RANGE : Nat := 0x45
def cCAT_MALFORMED : Nat := 0x46
def cCAT_ABSENT : Nat := 0x47
def cCAT_FULL : Nat := 0x48
def cVECTOR_VALUE : Nat := 0x49
def cCTX_MALFORMED : Nat := 0x50
def cCTX_DENIED : Nat := 0x51
def cCTX_LIMIT : Nat := 0x52
def cCORE_BUSY : Nat := 0x53
def cCTX_DEAD : Nat := 0x54
def cINSTR_SOFT_ERROR : Nat := 0x0A
def cDATA_SOFT_ERROR : Nat := 0x18
def cCORE_SOFT_ERROR : Nat := 0x56

/-! ## Time (R364 to R368) -/

/-- GTS (Table 23.4). -/
def gts (s : State) : Nat := s.now / Config.tick + s.slewPlus - s.slewMinus

/-- Cycles of a die's core clock at the present; none run during a relock, after the last cycle before the stop (R366). -/
def Die.cyclesAt (d : Die) (now : Nat) : Nat :=
  match d.relock with
  | some _ => if now < d.at_ then d.cycles - 1 else d.cycles
  | none => d.cycles + (now - d.at_) / Config.period d.point

/-- Whether a die's clock runs: a relock stops it at a cycle boundary (R366). -/
def Die.runs (d : Die) (now : Nat) : Bool := d.relock.isNone || decide (now < d.at_)

/-- The die's running sum of NCYC factors, 64.16 fixed point (R367). -/
def Die.ncycAt (d : Die) (now : Nat) : Nat :=
  d.ncyc + (d.cyclesAt now - d.cycles) * Config.ncycFactor d.point - (d.cycles - d.cyclesAt now) * Config.ncycFactor d.point

/-- The counters brought up to the present, at a cycle boundary. -/
def Die.sync (d : Die) (now : Nat) : Die :=
  match d.relock with
  | some _ => d
  | none =>
    let c := d.cyclesAt now
    { d with at_ := d.at_ + (c - d.cycles) * Config.period d.point, cycles := c, ncyc := d.ncycAt now }

def State.die (s : State) (d : Nat) : Die := s.dies.toList.getD d Die.reset

def State.setDie (s : State) (d : Nat) (x : Die) : State := { s with dies := s.dies.setIfInBounds d x }

/-- The core-clock cycle of a die. -/
def dieCycle (s : State) (d : Nat) : Nat := (s.die d).cyclesAt s.now

/-- The point at which a die should run: the slower of the request and the cap (R405). -/
def Die.effective (d : Die) : Nat := max d.asked d.cap

/-- Ends a relock: the clock restarts at the target, or a kept request starts a new step at once (R366). -/
def endRelock (s : State) (d : Nat) : State :=
  let x := s.die d
  match x.relock with
  | none => s
  | some (e, p) =>
    let now := max s.now e
    let next : Option Nat := match x.kept with
      | some k => if k = p then none else some k
      | none => none
    let x := { x with point := p, relock := next.map fun k => (e + 2000 * Config.tick, k), kept := none, at_ := e }
    ({ s with now := now }).setDie d x

/-- A step request for a die (R366): nothing at the present point; kept while a relock runs; else the clock stops and the PLL
relocks for 2,000 ticks. -/
def stepTo (s : State) (d p : Nat) : State :=
  let x := s.die d
  match x.relock with
  | some (e, _) =>
    -- the clock has not stopped yet: the request replaces the target
    if s.now + 2000 * Config.tick < e then s.setDie d { x with relock := some (e, p) } else s.setDie d { x with kept := some p }
  | none =>
    if p = x.point then s
    else
      let x := x.sync s.now
      let stop := x.at_ + Config.period x.point
      let x := { x with at_ := stop, cycles := x.cycles + 1, ncyc := x.ncyc + Config.ncycFactor x.point }
      s.setDie d { x with relock := some (stop + 2000 * Config.tick, p) }

/-- Waits, if need be, until a die's clock runs. -/
def settleClock (s : State) (d : Nat) : State := endRelock (endRelock s d) d

/-- Time moves on to a cycle of a die, if that is still to come. -/
def advanceTo (s : State) (d c : Nat) : State :=
  let x := s.die d
  if x.runs s.now && decide (c ≤ x.cyclesAt s.now) then s
  else
    let s := settleClock s d
    let x := s.die d
    if c ≤ x.cyclesAt s.now then s else { s with now := max s.now (x.at_ + (c - x.cycles) * Config.period x.point) }

/-- Time moves on to a tick of GTS, if that is still to come. -/
def advanceGts (s : State) (g : Nat) : State :=
  if g ≤ gts s then s else { s with now := (g + s.slewMinus - s.slewPlus) * Config.tick }

/-! ## Cores, setts, contexts -/

def State.core (s : State) (c : Nat) : VCore := s.cores.getD c .reset
def State.setCore (s : State) (c : Nat) (x : VCore) : State := { s with cores := s.cores.insert c x }
def State.sett (s : State) (i : Nat) : Sett := s.setts.getD i (.reset i)
def State.setSett (s : State) (i : Nat) (x : Sett) : State := { s with setts := s.setts.insert i x }
def State.ctx (s : State) (x : Nat) : Context := s.contexts.getD x .bare
def State.setCtx (s : State) (x : Nat) (c : Context) : State := { s with contexts := s.contexts.insert x c }

def VCore.thread (c : VCore) (t : Nat) : Thread := c.threads.toList.getD t .reset
def VCore.setThread (c : VCore) (t : Nat) (x : Thread) : VCore := { c with threads := c.threads.setIfInBounds t x }

def State.thread (s : State) (t : Tid) : Thread :=
  match s.meth with
  | some m => m.thread
  | none => (s.core t.core).thread t.thr

def State.setThread (s : State) (t : Tid) (x : Thread) : State :=
  match s.meth with
  | some m => { s with meth := some { m with thread := x } }
  | none => s.setCore t.core ((s.core t.core).setThread t.thr x)

/-- The sett that holds a core. -/
def settOf (core : Nat) : Nat := core / 8

/-- The die of a sett's physical place; 0 while it has none. -/
def Sett.die (x : Sett) : Nat := x.place.getD 0 / 144

def dieOf (s : State) (core : Nat) : Nat := (s.sett (settOf core)).die

/-- A die's core clock runs: while it stops, no unit of the die changes state (R366), and what is sent to it waits (R369). -/
def dieRuns (s : State) (d : Nat) : Bool := (s.die d).runs s.now

/-- A sett works: its partition is in place and its die's clock runs. -/
def settClock (s : State) (i : Nat) : Bool := (s.sett i).place.isSome && dieRuns s (s.sett i).die

/-- The physical holt of a core, across the package. -/
def holtOf (s : State) (core : Nat) : Nat := (s.sett (settOf core)).place.getD 0 / 6

/-- The context of a core's threads: of T13 while a resident launch holds it, else of the launch, else the holder. -/
def ctxOf (s : State) (t : Tid) : Nat :=
  let c := s.core t.core
  let base := match c.launch with
    | some l => match s.launches.find? l with
      | some x => x.ctx
      | none => (s.sett (settOf t.core)).holder
    | none => (s.sett (settOf t.core)).holder
  if t.thr = 13 then
    match c.resLaunch with
    | some l => match s.launches.find? l with
      | some x => x.ctx
      | none => base
    | none => base
  else base

/-- The virtual core number of a core in its context's numbering (R11). -/
def vcOf (s : State) (core : Nat) : Nat := (s.sett (settOf core)).vsett * 8 + core % 8

/-- The core of a context's virtual core, if the context holds it. -/
def coreOfVc (s : State) (x vc : Nat) : Option Nat :=
  match (s.ctx x).setts.find? (fun p => p.1 == vc / 8) with
  | some p => some (p.2 * 8 + vc % 8)
  | none =>
    match (s.ctx x).resSetts.find? (fun p => p.1 == vc / 8) with
    | some p => some (p.2 * 8 + vc % 8)
    | none => none

/-- The virtual core number by which context `x` knows a core. -/
def vcIn (s : State) (x core : Nat) : Nat :=
  match (s.ctx x).resSetts.find? (fun p => p.2 == settOf core) with
  | some p => p.1 * 8 + core % 8
  | none => vcOf s core

/-- The launch of a thread: of its home while it is away, and the resident launch for T13 (R94, R161). -/
def launchOf (s : State) (t : Tid) : Option Launch :=
  let h := ((s.thread t).homeOf).getD t
  let c := s.core h.core
  match if h.thr = 13 then c.resLaunch else c.launch with
  | some l => s.launches.find? l
  | none => none

/-- Whether a virtual core belongs to a launch. -/
def Launch.has (l : Launch) (vc : Nat) : Bool := decide (l.vc0 ≤ vc) && decide (vc < l.vc0 + l.nvc)

/-- Whether `a` is `x` or an ancestor of `x` (fuel: the depth is at most 8, R319). -/
def isAncestor (s : State) : Nat → Nat → Nat → Bool
  | 0, a, x => a == x
  | n + 1, a, x => a == x || (x != 0 && isAncestor s n a (s.ctx x).parent)

/-- Whether context `x` lies in the subtree of `a`. -/
def inSubtree (s : State) (a x : Nat) : Bool := (s.contexts.find? x).isSome && isAncestor s 9 a x

/-- The partition of a context: its ancestor at depth 1, or 0. -/
def partOf (s : State) : Nat → Nat → Nat
  | 0, x => x
  | n + 1, x => if (s.ctx x).depth ≤ 1 then x else partOf s n (s.ctx x).parent

/-- The contexts of a subtree, ascending. -/
def subtree (s : State) (a : Nat) : List Nat := (s.contexts.map (·.1)).filter (inSubtree s a)

/-- The thread whose instructions a context executes: its home while it is away (R161, R390). -/
def homeTid (s : State) (t : Tid) : Tid := ((s.thread t).homeOf).getD t

/-- A launch of a context that has a core on one of some setts. -/
def Launch.meets (s : State) (l : Launch) (x : Nat) (is : List Nat) : Bool :=
  l.ctx == x && (List.range l.nvc).any fun j => (coreOfVc s x (l.vc0 + j)).any fun k => is.contains (settOf k)

/-- Whether a revocation stops a launch: one of the subtree, or one of the target that uses a sett which leaves it (R338). -/
def Teardown.ends (s : State) (w : Teardown) (l : Launch) : Bool :=
  match w.setts with
  | none => inSubtree s w.root l.ctx
  | some is => l.meets s w.root is

/-- Whether a revocation stops a thread. -/
def Teardown.takes (s : State) (w : Teardown) (t : Tid) : Bool := (launchOf s t).any (w.ends s)

/-- A revocation has stopped a thread but for its chain; a T15 still answers the misses of the engines' last signals (log 86). -/
def revoked (s : State) (t : Tid) : Bool :=
  s.teardowns.any fun w => w.takes s t && !(t.thr == 15 && w.aborted.isSome && s.signals.any fun q => q.core == t.core)

/-! ## Which threads may issue (R95, R96, R110), and when time passes -/

/-- T13 is in rotation: ready, and neither halted nor stopped between chains (R110, R396, R400). -/
def residentOn (c : VCore) : Bool :=
  let th := c.thread 13
  th.run == .ready && (th.chain.isSome || th.halted.isNone && !th.stopped)

/-- While T13 is in rotation the resident slot displaces T0 to T12 and T14, and T15 between the words of a walk that it has begun for
another context (R110). -/
def displaced (c : VCore) (thr : Nat) : Bool :=
  residentOn c && thr != 13 &&
    !(thr == 15 && ((c.thread 15).chain.isSome || match c.walks with | w :: _ => w.2 == 13 | [] => true))

/-- A thread that the rotation may pick: ready, not halted between chains, not stopped, not displaced, of a bound core that is not
switched out, and not revoked (R339). An SC event whose window has closed completes whatever has happened to its thread meanwhile (R81). -/
def mayIssue (s : State) (t : Tid) : Bool :=
  let th := s.thread t
  let c := s.core t.core
  th.run == .ready && (th.halted.isNone || th.chain.isSome || th.scGo) && (!th.stopped || th.chain.isSome) && t.thr < 16
    && (launchOf s t).isSome
    && (s.sett (settOf t.core)).place.isSome
    && (!displaced c t.thr || th.scGo)
    && (th.chain.isSome || !revoked s t)

/-- No thread of the package may issue. -/
def allWait (s : State) : Bool := !s.cores.any fun e => (List.range 16).any fun i => mayIssue s ⟨e.1, i⟩

/-- While threads issue, time is what their rotations make it; else a step takes a free time (log 2). -/
def lapse (s : State) : State :=
  { s with
    now := if allWait s then s.now + Config.elapsed s.freeCount else s.now
    freeCount := s.freeCount + 1 }

/-- The contexts of a core in the order of R96: from the one after the last that issued. -/
def rotation (last : Nat) : List Nat := (List.range 16).map fun i => (last + 1 + i) % 16

/-- When a thread may issue: after `YIELD` not before the others that were ready have issued or ceased to be ready (R157). -/
def eligibleAt (s : State) (t : Tid) : Nat :=
  let th := s.thread t
  if th.yieldFor.any fun u => mayIssue s ⟨t.core, u⟩ then max th.readyAt th.yieldEnd else th.readyAt

/-- The context after which the rotation of a core continues: T13 when the resident slot has ended (R110). -/
def VCore.after (c : VCore) : Nat := if c.resActive && !residentOn c then 13 else c.last

/-- The virtual core that shares a folded core with `k` (Table 22.9). -/
def mateOf (k : Nat) : Nat := if k % 2 = 0 then k + 1 else k - 1

/-- The cycle from which a core issues again; a folded pair has the issue slot of one core. -/
def coreFree (s : State) (k : Nat) : Nat :=
  let c := s.core k
  if c.folded then max c.freeAt (s.core (mateOf k)).freeAt else c.freeAt

/-- The physical context of a thread: T1 to T6 of the second half of a folded pair are T7 to T12 (Table 22.9). -/
def VCore.slotOf (c : VCore) (thr : Nat) : Nat := if c.foldHigh && decide (1 ≤ thr) && decide (thr ≤ 6) then thr + 6 else thr

/-- The threads that a visit of the rotation to a physical context may serve, the next first (Table 22.9). -/
def slotThreads (s : State) (k n : Nat) : List Tid :=
  let hi := mateOf k
  if !(s.core k).folded then [⟨k, n⟩]
  else if 1 ≤ n ∧ n ≤ 6 then [⟨k, n⟩]
  else if 7 ≤ n ∧ n ≤ 12 then [⟨hi, n - 6⟩]
  else
    let at_ (c : Nat) : Nat := (s.core c).servedAt.getD n 0
    if at_ k ≤ at_ hi then [⟨k, n⟩, ⟨hi, n⟩] else [⟨hi, n⟩, ⟨k, n⟩]

/-- The physical context after which the rotation of a core, or of a folded pair, continues. -/
def lastSlot (s : State) (k : Nat) : Nat :=
  let c := s.core k
  let m := s.core (mateOf k)
  if c.folded && c.freeAt < m.freeAt then m.slotOf m.after else c.slotOf c.after

/-- The thread that a core picks next, and the cycle: in the first cycle in which one is ready, the first of the rotation (R96). The
first half of a folded pair picks for both. -/
def pickThread (s : State) (core : Nat) : Option (Nat × Tid) :=
  if (s.core core).foldHigh then none
  else
    let ts := (((rotation (lastSlot s core)).flatMap (slotThreads s core)).filter (mayIssue s)).map fun t => (eligibleAt s t, t)
    let first := ts.foldl (fun n e => min n e.1) (match ts with | e :: _ => e.1 | [] => 0)
    let cyc := max first (max (coreFree s core) (dieCycle s (dieOf s core)))
    (ts.find? fun e => decide (e.1 ≤ cyc)).map fun e => (cyc, e.2)

/-- R98: all hold latches become invalid. -/
def Thread.dropLatches (t : Thread) : Thread := { t with latchD := none, latchA := none, latchB := none }

/-- T13 holds the resident slot while it is in rotation: T0 to T12 and T14 are displaced. The slot becomes active when the bank cycles
in progress end, and what the displaced threads have in flight does not delay it (R361, log 72); that drops the latches (R98), and
where it ends the rotation continues from T13 (R110). -/
def residentSlot (s : State) (core : Nat) : State :=
  let c := s.core core
  let on := residentOn c
  if on = c.resActive then s
  else if on then s.setCore core { c with resActive := true, threads := c.threads.map Thread.dropLatches }
  else s.setCore core { c with resActive := false, last := 13 }

/-- Source number of a core thread (Table 1.5): its virtual core in its own context. -/
def sourceOf (s : State) (t : Tid) : Nat := vcIn s (ctxOf s t) t.core * 16 + t.thr

/-! ## Control fields -/

def bit (w : Word) (i : Nat) : Bool := w.getLsbD i
def setBit (w : Word) (i : Nat) (b : Bool) : Word :=
  if b then w ||| (1#64 <<< i) else w &&& ~~~(1#64 <<< i)
/-- The field [hi:lo] of a word as a number. -/
def field (w : Word) (hi lo : Nat) : Nat := (w.extractLsb' lo (hi - lo + 1)).toNat

def Thread.chk (t : Thread) : Bool := bit t.tctl 0
def Thread.rm (t : Thread) : Nat := field t.tctl 2 1
def Thread.inh (t : Thread) : Bool := bit t.tctl 4
def Thread.mig (t : Thread) : Bool := bit t.tctl 6

/-! ## Registers under the stall contract (R38 to R43) -/

/-- A register's bits as 512, whatever its file. -/
def Thread.file (t : Thread) (f : RegFile) (i : Nat) : Vec :=
  match f with
  | .g => (t.g.toList.getD i 0).setWidth 512
  | .v => t.v.toList.getD i 0
  | .k => (t.k.toList.getD i 0).setWidth 512

/-- One pending result laid over a register's bits. -/
def PendWrite.over (p : PendWrite) (x : Vec) : Vec := (x &&& ~~~p.mask) ||| (p.val &&& p.mask)

/-- The results of `ps` for one register that are in time at distance `d`, laid over `x` in program order (R40). -/
def foldPend (f : RegFile) (i d : Nat) : List PendWrite → Vec → Vec
  | [], x => x
  | p :: ps, x => foldPend f i d ps (if p.file = f ∧ p.idx = i ∧ p.due ≤ d then p.over x else x)

/-- What a read returns at the thread's present distance (R39, R40). -/
def Thread.read (t : Thread) (f : RegFile) (i : Nat) : Vec := foldPend f i t.dist t.pend (t.file f i)

/-- g0 reads zero (R20). -/
def Thread.readG (t : Thread) (i : Nat) : Word := if i = 0 then 0 else (t.read .g i).setWidth 64
def Thread.readV (t : Thread) (i : Nat) : Vec := t.read .v i
/-- k0 is all ones (R177). -/
def Thread.readK (t : Thread) (i : Nat) : Pred := if i = 0 then 0xFFFF else (t.read .k i).setWidth 16

/-- The value a register ends with once every pending result is written (R40): the last producer in program order. -/
def finalPend (f : RegFile) (i : Nat) : List PendWrite → Vec → Vec
  | [], x => x
  | p :: ps, x => finalPend f i ps (if p.file = f ∧ p.idx = i then p.over x else x)

def Thread.finalG (t : Thread) (i : Nat) : Word := if i = 0 then 0 else (finalPend .g i t.pend (t.file .g i)).setWidth 64
def Thread.finalV (t : Thread) (i : Nat) : Vec := finalPend .v i t.pend (t.file .v i)
def Thread.finalK (t : Thread) (i : Nat) : Pred := if i = 0 then 0xFFFF else (finalPend .k i t.pend (t.file .k i)).setWidth 16

/-- A result of latency `lat`; writes to g0 and k0 are discarded (R20, R177). -/
def Thread.produce (t : Thread) (f : RegFile) (i : Nat) (mask val : Vec) (lat : Nat) (u : Producer) : Thread :=
  if i = 0 ∧ f ≠ .v then t else { t with pend := t.pend ++ [⟨f, i, mask, val, t.dist + lat, u, 0⟩] }

def maskG : Vec := 0xFFFFFFFFFFFFFFFF
def maskK : Vec := 0xFFFF
def maskV : Vec := BitVec.allOnes 512

/-- A g result of the integer ALU: latency 2 (Table 3.2). -/
def Thread.aluG (t : Thread) (d : Nat) (x : Word) : Thread := t.produce .g d maskG (x.setWidth 512) 2 .alu
def Thread.putK (t : Thread) (d : Nat) (x : Pred) (lat : Nat) (u : Producer) : Thread := t.produce .k d maskK (x.setWidth 512) lat u
/-- An interlocked g result (R42). -/
def Thread.putG (t : Thread) (d : Nat) (x : Word) : Thread := t.produce .g d maskG (x.setWidth 512) 0 .interlocked

/-- Writes one result into its register. -/
def Thread.retire (t : Thread) (p : PendWrite) : Thread :=
  match p.file with
  | .g => { t with g := t.g.setIfInBounds p.idx ((p.over (t.file .g p.idx)).setWidth 64) }
  | .v => { t with v := t.v.setIfInBounds p.idx (p.over (t.file .v p.idx)) }
  | .k => { t with k := t.k.setIfInBounds p.idx ((p.over (t.file .k p.idx)).setWidth 16) }

/-- Writes the leading results that are in time into their registers, in program order. -/
def commitList : List PendWrite → Thread → Thread
  | [], t => { t with pend := [] }
  | p :: ps, t => if p.due ≤ t.dist then commitList ps (t.retire p) else { t with pend := p :: ps }

def Thread.commit (t : Thread) : Thread := commitList t.pend t

/-- R41: every pending result counts as written. -/
def Thread.complete (t : Thread) : Thread := { t.pend.foldl Thread.retire t with pend := [] }

/-- `hsch.idle`: the results of a unit count as in time (R47). -/
def Thread.completeUnit (t : Thread) (sel : Producer → Bool) : Thread :=
  { t with pend := t.pend.map fun p => if sel p.unit then { p with due := min p.due t.dist } else p }

/-- The cycle from which a unit holds no result of the thread (R47). -/
def Thread.unitEnd (t : Thread) (sel : Producer → Bool) : Nat := (t.pend.filter fun p => sel p.unit).foldl (fun n p => max n p.written) 0

/-- The cycle in which the last interlocked vector result of the thread is written (R47). -/
def Thread.vectorEnd (t : Thread) : Nat := (t.owed.filter fun e => e.slow == .vector).foldl (fun n e => max n e.due) 0

/-- The latest producer of a register that is not in time: its distance still to go (R43). -/
def shortfall (f : RegFile) (i d : Nat) (ps : List PendWrite) : Option Nat :=
  match (ps.filter fun p => p.file = f ∧ p.idx = i).getLast? with
  | some p => if p.due ≤ d then none else some (p.due - d)
  | none => none

/-- EVAL of STALL_SHORT (R43). -/
def stallEval (f : RegFile) (i n : Nat) : Word :=
  BitVec.ofNat 64 (i + 32 * (match f with | .g => 0 | .v => 1 | .k => 2) + 256 * (n % 256))

/-- The first register of a list whose read is not in time. -/
def firstShort (t : Thread) : List (RegFile × Nat) → Option Word
  | [] => none
  | (f, i) :: rs =>
    match (if i = 0 ∧ f ≠ .v then none else shortfall f i t.dist t.pend) with
    | some n => some (stallEval f i n)
    | none => firstShort t rs

/-- The owed results that an instruction or an event waits for beside the registers it reads: those of `DIV` and `REM` (R127),
those and vector results too (R119, R186), or all (R59, R135). -/
inductive Await where
  | none | divide | slow | all
  deriving DecidableEq, Repr

def Await.covers (w : Await) (e : Owed) : Bool :=
  match w with
  | .none => false
  | .divide => e.slow == .divide
  | .slow => e.slow != .no
  | .all => true

/-- The cycle, after `cyc`, in which the last of the owed results is written that are awaited or whose register is listed (R42). One
who awaits all awaits the fixed-latency results too (R59). -/
def lateRead (t : Thread) (cyc : Nat) (w : Await) (rs : List (RegFile × Nat)) : Option Nat :=
  let fixed := if w = .all then (t.pend.filter fun p => decide (cyc < p.written)).foldl (fun b p => some (max (b.getD 0) p.written)) none else none
  (t.owed.filter fun e => decide (cyc < e.due) && (w.covers e || rs.contains (e.file, e.idx))).foldl (fun b e => some (max (b.getD 0) e.due)) fixed

/-- The interlocked results that the running instruction has produced are written `n` cycles after its issue in cycle `cyc`;
those that have been written are forgotten. -/
def Thread.owe (t : Thread) (now : Thread) (cyc n : Nat) (k : Slow) : Thread :=
  let new := (now.pend.filter fun p => p.unit == .interlocked && p.due == now.dist).map fun p => (⟨p.file, p.idx, cyc + n, k⟩ : Owed)
  { t with owed := new ++ t.owed.filter fun e => decide (cyc < e.due) }

/-- The fixed-latency results of the instruction that issues in cycle `cyc` get the cycle in which they are written (R38). -/
def Thread.timed (t : Thread) (cyc : Nat) : Thread :=
  { t with pend := t.pend.map fun p => if p.written = 0 then { p with written := cyc + (p.due - t.dist) } else p }

/-- The thread may issue at a cycle at which its stall ends. -/
def Thread.readyFrom (t : Thread) (cyc : Nat) : Thread := { t with readyAt := cyc, stallEnd := cyc }

def addFlags (t : Thread) (f : Nat) : Thread := { t with fflags := t.fflags ||| BitVec.ofNat 64 (f % 256) }

/-! ## Places: one number for each byte of memory -/

/-- A byte's place: the memory in the multiples of 2^64, the byte below. -/
def spadKey (core off : Nat) : Nat := core * 2 ^ 18 + off
def settKey (i off : Nat) : Nat := 2 ^ 64 + i * 2 ^ 21 + off
def archKey (a : Nat) : Nat := 2 * 2 ^ 64 + a
def dramKey (a : Nat) : Nat := 3 * 2 ^ 64 + a
def outKey (a : Nat) : Nat := 4 * 2 ^ 64 + a
def methKey (buf off : Nat) : Nat := 5 * 2 ^ 64 + buf * 2 ^ 40 + off

/-- A buffer of the Scribe's method mode (Table 18.6). -/
def Meth.buf (m : Meth) : Nat → Memory
  | 0 => m.code
  | 1 => m.state
  | 2 => m.args
  | 3 => m.result
  | _ => m.stack

def Meth.setBuf (m : Meth) (b : Nat) (x : Memory) : Meth :=
  match b with
  | 1 => { m with state := x }
  | 3 => { m with result := x }
  | 7 => { m with stack := x }
  | _ => m

/-- The byte at a place. -/
def readPlace (s : State) (k : Nat) : Byte :=
  let a := k % 2 ^ 64
  match k / 2 ^ 64 with
  | 0 => (s.core (a / 2 ^ 18)).spad.get (a % 2 ^ 18)
  | 1 => (s.sett (a / 2 ^ 21)).mem.get (a % 2 ^ 21)
  | 2 => s.archive.get a
  | 3 => s.dram.get a
  | 4 => s.outside.get a
  | _ => match s.meth with
    | some m => (m.buf (a / 2 ^ 40)).get (a % 2 ^ 40)
    | none => 0

/-- Stores a byte at a place. -/
def writePlace (s : State) (k : Nat) (b : Byte) : State :=
  let a := k % 2 ^ 64
  match k / 2 ^ 64 with
  | 0 => let c := s.core (a / 2 ^ 18); s.setCore (a / 2 ^ 18) { c with spad := c.spad.put (a % 2 ^ 18) b }
  | 1 => let x := s.sett (a / 2 ^ 21); s.setSett (a / 2 ^ 21) { x with mem := x.mem.put (a % 2 ^ 21) b }
  | 2 => { s with archive := s.archive.put a b }
  | 3 => { s with dram := s.dram.put a b }
  | 4 => { s with outside := s.outside.put a b }
  | _ => match s.meth with
    | some m => { s with meth := some (m.setBuf (a / 2 ^ 40) ((m.buf (a / 2 ^ 40)).put (a % 2 ^ 40) b)) }
    | none => s

def readPlaces (s : State) (ks : List Nat) : List Byte := ks.map (readPlace s)

def writePlaces (s : State) : List Nat → List Byte → State
  | k :: ks, b :: bs => writePlaces (writePlace s k b) ks bs
  | _, _ => s

/-- Little-endian bytes as a number (R5). -/
def leNat : List Byte → Nat
  | [] => 0
  | b :: bs => b.toNat + 256 * leNat bs

/-- The `n` little-endian bytes of a number. -/
def leBytes (x : Nat) : Nat → List Byte
  | 0 => []
  | n + 1 => BitVec.ofNat 8 x :: leBytes (x / 256) n

/-- The n bytes of a block from an offset, as a number. -/
def blkNat (b : List Byte) (off n : Nat) : Nat := leNat ((b.drop off).take n)

def wordOf (b : List Byte) : Word := BitVec.ofNat 64 (leNat b)

/-! ## The segment check (R101, R102) -/

/-- By whose segments an agent reaches memory: a thread's, or those an engine sampled at issue. -/
structure View where
  ctx : Nat
  core : Nat
  segBase : Vector Word 8
  segLimit : Vector Word 8
  deriving DecidableEq, Repr

/-- Rights by bit: 1 RD, 2 WR, 4 EX, 8 AT. Of a segment base word (Table 6.5). -/
def segRights (b : Word) : Nat := (if bit b 56 then 1 else 0) + (if bit b 57 then 2 else 0) + (if bit b 59 then 4 else 0) + (if bit b 58 then 8 else 0)

def rRD : Nat := 1
def rWR : Nat := 2
def rEX : Nat := 4
def rAT : Nat := 8
def rAMO : Nat := 11

/-- Every right of `need` is in `have_`. -/
def hasRights (have_ need : Nat) : Bool := Nat.land have_ need == need

/-- GGEO, VCID and STDOM as a thread of a core has them: T13's are those of the resident launch (R240, R342). -/
def VCore.ggeoOf (c : VCore) (thr : Nat) : BitVec 128 := if thr = 13 then c.resGgeo else c.ggeo
def VCore.vcidOf (c : VCore) (thr : Nat) : Word := if thr = 13 then c.resVcid else c.vcid
def VCore.stdomOf (c : VCore) (thr : Nat) : Word := if thr = 13 then c.resStdom else c.stdom
def VCore.putGgeo (c : VCore) (thr : Nat) (g : BitVec 128) : VCore := if thr = 13 then { c with resGgeo := g } else { c with ggeo := g }

/-- The bound of a core's scratchpad: 256 KiB, or 128 KiB in a foldable launch (R360). -/
def spadBound (c : VCore) : Nat := if bit c.stdom 3 then 131072 else 262144

/-- The core of a position of the virtual holt of `core`, if the context holds it. -/
def holtPosition (s : State) (x core p : Nat) : Option Nat := coreOfVc s x (vcIn s x core / 48 * 48 + p)

/-- One byte of a holt window: its place, if the position is held and the offset below its bound (R102). -/
def holtByte (s : State) (x core a : Nat) : Option Nat :=
  if 12582912 ≤ a then none
  else match holtPosition s x core (a / 262144) with
    | none => none
    | some c => if spadBound (s.core c) ≤ a % 262144 then none else some (spadKey c (a % 262144))

/-- What a context holds of an extent of its allotment: nothing while it is lent. -/
def Extent.held (e : Extent) : Nat := if e.lent.isNone then e.len else 0

/-- The place of an offset of an Archive allotment. -/
def extentPlace : List Extent → Nat → Option Nat
  | [], _ => none
  | e :: es, a => if a < e.held then some (archKey (e.base + a)) else extentPlace es (a - e.held)

def allotLen (es : List Extent) : Nat := es.foldl (fun n e => n + e.held) 0

/-- The bytes a, a+1, … of an access. -/
def span (a n : Nat) : List Nat := (List.range n).map (a + ·)

/-- How an access reaches its places: the kind of its segment and, where it is translated, its first context-virtual address. -/
structure Via where
  kind : Nat
  cva : Option Nat
  deriving DecidableEq, Repr

/-- What a checked segment access reaches: places, or context-virtual addresses still to be translated. -/
inductive Reach where
  | places (kind : Nat) (ks : List Nat)
  | virt (kind : Nat) (cva : Nat)
  deriving DecidableEq, Repr

def Reach.via : Reach → Via
  | .places k _ => ⟨k, none⟩
  | .virt k a => ⟨k, some a⟩

def segBaseOf (v : View) (addr : Word) : Word := v.segBase.toList.getD (field addr 63 61) 0
def segKind (v : View) (addr : Word) : Nat := field (segBaseOf v addr) 63 60

/-- Method mode resolves segments itself (R284, Table 18.6). -/
def methCheck (m : Meth) (addr : Word) (size need : Nat) : Except Stop Reach :=
  let sel := field addr 63 61
  let off := field addr 60 0
  let (buf, lo, len, rights) : Nat × Nat × Nat × Nat := match sel with
    | 0 => (0, m.codeLo, m.codeLo + m.codeLen, 5)
    | 1 => (1, 0, m.stateLen, if m.upd then 11 else 9)
    | 2 => (2, 0, 96, 1)
    | 3 => (3, 0, 32, 3)
    | 7 => (7, 0, 4096, 3)
    | _ => (0, 0, 0, 0)
  if off < lo ∨ len < off + size then .error (.trap cSEG_LIMIT addr)
  else if hasRights rights need then .ok (.places 2 (span (methKey buf (off - lo)) size))
  else .error (.trap cSEG_RIGHTS addr)

/-- R101 with R102 and R323: SEG_LIMIT before SEG_RIGHTS. -/
def segCheck (s : State) (v : View) (addr : Word) (size need : Nat) : Except Stop Reach :=
  match s.meth with
  | some m => methCheck m addr size need
  | none =>
    let b := segBaseOf v addr
    let off := field addr 60 0
    let kind := field b 63 60
    let unit := if kind = 1 ∨ kind = 6 then 512 else 1
    let limit := field (v.segLimit.toList.getD (field addr 63 61) 0) 47 0
    let loc := field b 47 0 * unit + off
    if kind = 0 ∨ 8 ≤ kind ∨ limit * unit < off + size then .error (.trap cSEG_LIMIT addr)
    else
      let reach : Option Reach := match kind with
        | 2 | 7 => if spadBound (s.core v.core) < loc + size then none else some (.places kind (span (spadKey v.core loc) size))
        | 3 => if 12582912 < loc + size then none else ((span loc size).mapM (holtByte s v.ctx v.core)).map (.places kind)
        | 4 => if 2097152 < loc + size then none else some (.places kind (span (settKey (settOf v.core) loc) size))
        | 5 => if allotLen (s.ctx v.ctx).archive < loc + size then none else ((span loc size).mapM (extentPlace (s.ctx v.ctx).archive)).map (.places kind)
        | _ => if 2 ^ 57 < loc + size then none else some (.virt kind loc)
      match reach with
      | none => .error (.trap cSEG_LIMIT addr)
      | some r =>
        if !hasRights (segRights b) need then .error (.trap cSEG_RIGHTS addr)
        else if kind = 4 ∧ (span (loc / 65536) ((loc + size - 1) / 65536 + 1 - loc / 65536)).any
            (fun i => (s.sett (settOf v.core)).shelves.toList.getD i 0 != v.ctx) then .error (.trap cSEG_RIGHTS addr)
        else .ok r

/-! ## Translation (R140, R324 to R326, R408) -/

/-- The composed entry of a port that serves a context-virtual address: the one of smallest extent (R326). -/
def tlbFind (es : List TlbEntry) (x a : Nat) : Option TlbEntry :=
  (es.filter fun e => e.ctx == x && e.vbase ≤ a && a < e.vbase + e.vlen).foldl
    (fun best e => match best with
      | none => some e
      | some b => if e.vlen < b.vlen then some e else some b) none

/-- Usable DRAM of a die in bytes: 1.125 GiB for each enabled channel (R408). -/
def dieDram (d : Die) : Nat := if d.enabled then d.chan * 1207959552 else 0

/-- The sett at a physical place. -/
def settAt (s : State) (p : Nat) : Nat :=
  match List.find? (fun e : Nat × Sett => e.2.place == some p) s.setts with
  | some e => e.1
  | none => p

/-- A die's Archive, and a sett's scratchpads and memory, are there where the start has left them enabled (R3, R404). -/
def archiveThere (s : State) (o : Nat) : Bool := (s.die (o / 2 ^ 31)).enabled && !s.lostBanks.contains (o / 2 ^ 22)
def placeThere (s : State) (p : Nat) : Bool := (s.die (p / 144)).enabled && !s.lostSetts.contains p

/-- What a device-physical address reaches (R408; the places above 2^39 by log 10). -/
def dpaPlace (s : State) (a : Nat) : Except Stop Nat :=
  if a < 2 ^ 39 then
    if a % 2 ^ 37 < dieDram (s.die (a / 2 ^ 37)) then .ok (dramKey a) else .error (.fault (.noMemory a))
  else if Config.archiveBase ≤ a ∧ a < Config.archiveBase + 2 ^ 33 then
    if archiveThere s (a - Config.archiveBase) then .ok (archKey (a - Config.archiveBase)) else .error (.fault (.noMemory a))
  else if Config.hostBase ≤ a ∧ a < Config.fabricBase then .ok (outKey a)
  else if Config.fabricBase ≤ a ∧ a < Config.fabricBase + 12 * 2 ^ 37 then
    if s.portsUp.getLsbD ((a - Config.fabricBase) / 2 ^ 37) then .ok (outKey a) else .error (.trap cHOST_ABORT 0)
  else if Config.spadBase ≤ a ∧ a < Config.spadBase + 4608 * 2 ^ 18 then
    let o := a - Config.spadBase
    let p := o / 2 ^ 18
    if placeThere s (p / 8) then .ok (spadKey (settAt s (p / 8) * 8 + p % 8) (o % 2 ^ 18)) else .error (.fault (.noMemory a))
  else if Config.settMemBase ≤ a ∧ a < Config.settMemBase + 576 * 2 ^ 21 then
    let o := a - Config.settMemBase
    if placeThere s (o / 2 ^ 21) then .ok (settKey (settAt s (o / 2 ^ 21)) (o % 2 ^ 21)) else .error (.fault (.noMemory a))
  else if Config.mmioBase ≤ a ∧ a < 2 * Config.mmioBase then .error (.fault (.mmio a))
  else .error (.fault (.noMemory a))

/-- The device-physical address of a place (Table 12.3). -/
def dpaOfPlace (s : State) (k : Nat) : Nat :=
  let a := k % 2 ^ 64
  match k / 2 ^ 64 with
  | 0 => Config.spadBase + ((s.sett (a / 2 ^ 21)).place.getD 0 * 8 + a / 2 ^ 18 % 8) * 2 ^ 18 + a % 2 ^ 18
  | 1 => Config.settMemBase + (s.sett (a / 2 ^ 21)).place.getD 0 * 2 ^ 21 + a % 2 ^ 21
  | 2 => Config.archiveBase + a
  | _ => a

/-- R323: whether a delivery from context `x` into a sett is accepted; `off` is the sett-memory offset it writes. -/
def settAccepts (s : State) (i x : Nat) (off : Option Nat) : Bool :=
  let t := s.sett i
  let near (y : Nat) : Bool := isAncestor s 9 x y
  let ok := partOf s 9 x == t.part && (near t.holder || (match t.res with | some r => near r | none => false) || t.permits.contains x)
  match off with
  | none => ok
  | some o => ok && near (t.shelves.toList.getD (o / 65536) 0)

/-- Whether a write from context `x` to a place is accepted by the sett it lies in, if it lies in one. -/
def placeAccepts (s : State) (x k : Nat) : Bool :=
  let a := k % 2 ^ 64
  match k / 2 ^ 64 with
  | 0 => settAccepts s (a / 2 ^ 21) x none
  | 1 => settAccepts s (a / 2 ^ 21) x (some (a % 2 ^ 21))
  | _ => true

/-- Table 8.2 KIND from the rights an access needs: read, write, execute, atomic. -/
def missKind (need : Nat) : Nat := need

/-- R145: the path carries atomics of a scope. -/
def atomicPath (e : TlbEntry) (scope : Nat) (wait : Bool) : Bool := scope + 1 ≤ e.atom && (!wait || e.cache != 2)

/-- The translation of a byte: the entry and the device-physical address; a miss names the first missing byte (R140). -/
def xlateByte (s : State) (v : View) (addr : Word) (need size a : Nat) : Except Stop (TlbEntry × Nat) :=
  let t := s.sett (settOf v.core)
  match tlbFind (t.rangeTlb ++ t.pageTlb) v.ctx a with
  | none => .error (.miss addr a (missKind need) size)
  | some e => .ok (e, e.dpa + (a - e.vbase))

/-- What a device-physical address reaches; a HOST_ABORT names the address as issued. -/
def dpaReach (s : State) (addr : Word) (d : Nat) : Except Stop Nat :=
  match dpaPlace s d with
  | .error (.trap c _) => .error (.trap c addr)
  | r => r

/-- The entries of the bytes of an access, every one of which grants the rights: a miss before XLATE_RIGHTS (R407). -/
def xlateEntries (s : State) (v : View) (addr : Word) (size need a : Nat) : Except Stop (List (TlbEntry × Nat)) := do
  let es ← (span a size).mapM (xlateByte s v addr need size)
  if es.all fun e => hasRights e.1.rights need then return es else throw (.trap cXLATE_RIGHTS addr)

/-- Whether the translation of every byte is resident; the first that is not misses (R140). -/
def resident (s : State) (v : View) (addr : Word) (size need : Nat) (r : Reach) : Except Stop Unit :=
  match r with
  | .places _ _ => .ok ()
  | .virt _ a => (span a size).forM fun b => (xlateByte s v addr need size b).map fun _ => ()

/-- The places of an access that has passed the segment check, for a fetch or a posted store. -/
def reachPlaces (s : State) (v : View) (addr : Word) (size need : Nat) (r : Reach) : Except Stop (List Nat) :=
  match r with
  | .places _ ks => .ok ks
  | .virt _ a => do
    let es ← xlateEntries s v addr size need a
    es.mapM fun e => dpaReach s addr e.2

/-- The setts in which the bytes of a write lie accept it (R323). -/
def acceptsAll (s : State) (x : Nat) (es : List (TlbEntry × Nat)) : Bool :=
  es.all fun e => match dpaPlace s e.2 with
    | .ok k => placeAccepts s x k
    | .error _ => true

/-- What the data and the path of an access report: HOST_ABORT, and for a read DATA_SOFT_ERROR (R345). -/
def soundPlaces (s : State) (addr : Word) (need : Nat) (ks : List Nat) : Except Stop (List Nat) :=
  if s.pathErrors.any ks.contains then .error (.trap cHOST_ABORT addr)
  else if hasRights need rRD && s.softErrors.any ks.contains then .error (.trap cDATA_SOFT_ERROR addr)
  else .ok ks

/-- The places of an access that has passed the segment check: XLATE_RIGHTS, also where the target sett does not accept a write
(R323), before ATOMIC_PATH (R407). `atom`: the scope that R145 checks, and whether it is a wait. -/
def xlate (s : State) (v : View) (addr : Word) (size need : Nat) (atom : Option (Nat × Bool)) (r : Reach) : Except Stop (List Nat) :=
  match r with
  | .places _ ks => soundPlaces s addr need ks
  | .virt kind a => do
    let es ← xlateEntries s v addr size need a
    if hasRights need rWR && !acceptsAll s v.ctx es then throw (.trap cXLATE_RIGHTS addr)
    match atom with
    | some (sc, w) => if kind = 6 ∧ !es.all (fun e => atomicPath e.1 sc w) then throw (.trap cATOMIC_PATH addr)
    | none => pure ()
    let ks ← es.mapM fun e => dpaReach s addr e.2
    soundPlaces s addr need ks

/-- R326: the entries that translated an access of a context at a sett become the most recently used. The entries of a TLB stand in
the order of their last use. -/
def useEntries (s : State) (i x a n : Nat) : State :=
  let t := s.sett i
  let used := (span a n).foldl (fun (l : List TlbEntry) b => match tlbFind (t.rangeTlb ++ t.pageTlb) x b with
    | some e => if l.contains e then l else l ++ [e]
    | none => l) []
  let late (es : List TlbEntry) : List TlbEntry := used.foldl (fun l e => if l.contains e then l.erase e ++ [e] else l) es
  if used.isEmpty then s else s.setSett i { t with
    rangeTlb := late t.rangeTlb
    pageTlb := late t.pageTlb }

/-- The use of the entries of an access of `n` bytes (R326). -/
def useVia (s : State) (t : Tid) (w : Via) (n : Nat) : State :=
  match w.cva with
  | some a => useEntries s (settOf t.core) (ctxOf s t) a n
  | none => s

/-- The use of the entries of an access through sampled segments (R326). -/
def useAt (s : State) (v : View) (addr : Word) (n : Nat) : State :=
  match segCheck s v addr n 0 with
  | .ok (.virt _ a) => useEntries s (settOf v.core) v.ctx a n
  | _ => s

/-- The view of a thread: its own segments, or its home thread's while it is away (R161). -/
def viewOf (s : State) (t : Tid) : View :=
  let th := s.thread t
  let h := match th.homeOf with
    | some h => s.thread h
    | none => th
  ⟨ctxOf s t, t.core, h.segBase, h.segLimit⟩

/-! ## Ordered tasks: conflicts and undo (R201, R202) -/

def State.unit (s : State) (k : Nat) : HoltUnit := s.units.getD k .reset
def State.setUnit (s : State) (k : Nat) (u : HoltUnit) : State := { s with units := s.units.insert k u }

/-- The physical holt in which a context's virtual holt lies, while it has a place. -/
def unitHolt (s : State) (u : Nat) : Option Nat :=
  (List.range 6).findSome? fun p => match coreOfVc s (u / 2 ^ 16) (u % 2 ^ 16 * 48 + p * 8) with
    | some k => (s.sett (settOf k)).place.map (· / 6)
    | none => none

/-- The unit of a thread: its context and virtual holt, its home's while it is away (R161, R194). -/
def unitOf (s : State) (t : Tid) : Nat := ctxOf s t * 2 ^ 16 + vcIn s (ctxOf s t) (homeTid s t).core / 48

def keyLt (a b : Nat × Nat) : Bool := a.1 < b.1 || (a.1 == b.1 && a.2 < b.2)
def OTask.key (t : OTask) : Nat × Nat := (t.ts, t.seq)

def lineOf (k : Nat) : Nat := k / 64
def meets (a b : List Nat) : Bool := a.any b.contains

/-- The victims of an abort: those given, their descendants, and every later task whose sets meet a victim's writes (R202). -/
def victims : Nat → List OTask → List (Nat × Nat) → List (Nat × Nat)
  | 0, _, vs => vs
  | n + 1, ts, vs =>
    let more := ts.filter fun y =>
      !y.prot && !vs.contains y.key &&
      ((match y.parent with | some p => vs.contains p | none => false) ||
       ts.any fun v => vs.contains v.key && keyLt v.key y.key && (meets v.writes y.reads || meets v.writes y.writes))
    if more.isEmpty then vs else victims n ts (vs ++ more.map OTask.key)

/-- The place in its core's scratchpad of the n-th log entry of a task (R200). -/
def undoPlace (s : State) (y : OTask) (n : Nat) : Nat := (s.core y.core).undoBase + 4096 * y.slot + 16 * n

/-- The old value that an undo takes from the n-th entry of a task's log: the one logged, or, where software has written over it, a
free choice of the two (R200, log 81). -/
def undoWord (s : State) (y : OTask) (n : Nat) (w : Word) : Word :=
  let a := undoPlace s y n + 8
  let found := wordOf ((s.core y.core).spad.getBytes a 8)
  if Config.undoKeeps s.freeCount (4096 * y.core + a) then w else found

/-- Restores the words of a task's log, the latest first. -/
def undoLog (s : State) (y : OTask) : List (Nat × Word) → State
  | [] => s
  | (k, w) :: es => undoLog (writePlaces s (span (8 * k) 8) (leBytes (undoWord s y es.length w).toNat 8)) y es

def releaseSlot (s : State) (core slot : Nat) : State :=
  let c := s.core core
  s.setCore core { c with undoUsed := c.undoUsed.filter (· != slot) }

/-- A thread leaves a page park without the walker's answer: its miss is no longer outstanding (R164, R210). -/
def forgetMiss (s : State) (t : Tid) : State :=
  match (s.thread t).run with
  | .parkedPage (.page n) =>
    let c := s.core t.core
    s.setCore t.core { c with misses := c.misses.filter fun r => r.id != n }
  | _ => s

/-- A thread that leaves its task looks for work as at `TEND`: it becomes idle, ready to look (R202); what it waited for or kept is
no more. -/
def leaveTask (s : State) (t : Tid) : State :=
  let s := forgetMiss s t
  let th := s.thread t
  s.setThread t { th with
    run := .idle false none
    task := .none
    chain := none
    search := none
    owedTrap := none
    snap0 := none
    kept0 := none }

/-- Aborts the tasks of some keys, in descending key order (R202). -/
def abortTasks (s : State) (u : Nat) (roots : List (Nat × Nat)) : State :=
  let d := (s.unit u).domain
  let vs := victims d.tasks.length d.tasks roots
  let vict := sortBy (fun (a b : OTask) => keyLt b.key a.key) (d.tasks.filter fun y => vs.contains y.key && !y.prot)
  let s := vict.foldl (fun (s : State) (v : OTask) =>
    let s := if v.st = .running ∨ v.st = .waiting then leaveTask s ⟨v.core, v.thr⟩ else s
    let s := undoLog s v v.log
    if v.st = .queued then s else releaseSlot s v.core v.slot) s
  let gone (y : OTask) : Bool := vs.contains y.key && !y.prot
  let descends (y : OTask) : Bool := match y.parent with | some p => vs.contains p | none => false
  let tasks := (d.tasks.filter fun y => !(gone y && descends y)).map fun y =>
    if gone y then { y with st := .queued, reads := [], writes := [], log := [] } else y
  let x := s.unit u
  s.setUnit u { x with domain := { x.domain with tasks := tasks } }

/-- The ordered task that a thread runs. -/
def taskOf (s : State) (t : Tid) : Option OTask :=
  match (s.thread t).task with
  | .ordered ts seq => (s.unit (unitOf s t)).domain.tasks.find? fun y => y.key == (ts, seq)
  | _ => none

/-- A thread runs an ordered task that is not protected (R206). -/
def speculative (s : State) (t : Tid) : Bool :=
  s.meth.isNone && match taskOf s t with
  | some y => !y.prot
  | none => false

def addNew (xs ys : List Nat) : List Nat := ys.foldl (fun acc y => if acc.contains y then acc else acc ++ [y]) xs

/-- Appends the log entries of a task's first writes to its words, in the undo area too (R200, Table 12.3). -/
def logWords (s : State) (t : Tid) (y : OTask) : List Nat → State × List (Nat × Word)
  | [] => (s, y.log)
  | w :: ws =>
    let r := logWords s t y ws
    if r.2.any (fun e => e.1 == w) then r
    else
      let old := wordOf (readPlaces s (span (8 * w) 8))
      let c := r.1.core y.core
      (r.1.setCore y.core { c with spad := c.spad.putBytes (undoPlace r.1 y r.2.length) (leBytes (dpaOfPlace s (8 * w)) 8 ++ leBytes old.toNat 8) }, (w, old) :: r.2)

/-- The later tasks with which an access by a task conflicts (R202). -/
def conflicts (s : State) (u : Nat) (y : OTask) (ls : List Nat) (wr : Bool) : List (Nat × Nat) :=
  ((s.unit u).domain.tasks.filter fun z => keyLt y.key z.key && !z.prot && (meets ls z.writes || (wr && meets ls z.reads))).map OTask.key

/-- A victim's thread that may issue stands inside a hint chain: it leaves its task at the chain's end (R202). -/
def insideChain (s : State) (u : Nat) (roots : List (Nat × Nat)) : Bool :=
  let d := (s.unit u).domain
  let vs := victims d.tasks.length d.tasks roots
  d.tasks.any fun y => vs.contains y.key && y.st == .running && !y.prot
    && (s.thread ⟨y.core, y.thr⟩).chain.isSome && mayIssue s ⟨y.core, y.thr⟩

/-- R201, R202 for an access by an ordered task, through kinds 2 to 6: aborts the later tasks it conflicts with, for whose threads it
waits until they are at a chain boundary, then tracks and logs. `does`: it writes; a compare that fails joins the write set alone. -/
def trackTask (s : State) (t : Tid) (kind : Nat) (ks : List Nat) (rd wr : Bool) (does : Bool := wr) : Except Stop State :=
  if s.meth.isSome ∨ kind = 7 ∨ kind = 1 then .ok s
  else match taskOf s t with
  | none => .ok s
  | some y =>
    let u := unitOf s t
    let ls := addNew [] (ks.map lineOf)
    let hit := conflicts s u y ls does
    if !hit.isEmpty && insideChain s u hit then .error (.wait (dieCycle s (dieOf s t.core) + 1))
    else
    let s := if hit.isEmpty then s else abortTasks s u hit
    if y.prot then .ok s
    else
      let reads := if rd then addNew y.reads ls else y.reads
      let writes := if wr then addNew y.writes ls else y.writes
      let words := if does then addNew [] (ks.map (· / 8)) else []
      let r := logWords s t y words
      if 1024 < reads.length + writes.length ∨ 256 < r.2.length then .error (.park false .protect)
      else
        let x := r.1.unit u
        let tasks := x.domain.tasks.map fun z => if z.key == y.key then { z with reads := reads, writes := writes, log := r.2 } else z
        .ok (r.1.setUnit u { x with domain := { x.domain with tasks := tasks } })

/-! ## Asynchronous traps becoming pending (R109, R347) -/

/-- Order of two pending traps (R16). -/
def asyncLe (a b : AsyncTrap) : Bool := a.gts < b.gts || (a.gts == b.gts && a.source ≤ b.source)

def pendTrap (s : State) (t : Tid) (source code : Nat) (eval : Word) : State :=
  let t := homeTid s t
  let th := s.thread t
  if 8 ≤ th.asyncq.length then s.setThread t { th with lostMark := true }
  else s.setThread t { th with asyncq := sortBy asyncLe (th.asyncq ++ [(⟨gts s, source, code, eval⟩ : AsyncTrap)]) }

/-! ## Posted stores (R90, R155) -/

/-- The reason for which a target refuses a posted store; none if it takes it. -/
def postedRefusal (s : State) (x place : Nat) (kind6 : Bool) (dpa : Nat) : Option Nat :=
  let here := if placeAccepts s x place then none else some 1
  if kind6 then
    match (s.ctx x).ranges.find? (fun f => f.lentTo.isNone && f.dpa ≤ dpa && dpa < f.dpa + f.len) with
    | none => some 2
    | some f => if hasRights f.rights rWR then here else some 3
  else
    let i := place % 2 ^ 64 / 2 ^ 21
    if (s.ctx x).setts.any (fun p => p.2 == i) || (s.ctx x).resSetts.any (fun p => p.2 == i) then here else some 4

def setJournal (s : State) (core i : Nat) (e : JEntry) : State :=
  let c := s.core core
  s.setCore core { c with journal := c.journal.setIfInBounds i e }

/-- The later tasks with which the posted store of a protected task conflicts as it is made (R202). -/
def postedHits (s : State) (src : Tid) (place size : Nat) (task : Option (Nat × Nat)) : List (Nat × Nat) :=
  match (s.unit (unitOf s src)).domain.tasks.find? fun y => some y.key == task with
  | some y => conflicts s (unitOf s src) y (addNew [] ((span place size).map lineOf)) true
  | none => []

/-- A posted store reaches its target: written and its entry freed, or refused. -/
def applyPosted (s : State) (src : Tid) (entry x place size : Nat) (val : Word) (kind6 : Bool) (dpa : Nat) (task : Option (Nat × Nat)) : State :=
  match postedRefusal s x place kind6 dpa with
  | none =>
    let hit := postedHits s src place size task
    let s := if hit.isEmpty then s else abortTasks s (unitOf s src) hit
    setJournal (writePlaces s (span place size) (leBytes val.toNat size)) src.core entry ⟨false, false, 0, 0⟩
  | some r =>
    let e := (s.core src.core).journal.toList.getD entry ⟨false, false, 0, 0⟩
    pendTrap (setJournal s src.core entry { e with refused := true }) src (sourceOf s src) cPSTO_REFUSED (BitVec.ofNat 64 (entry + 256 * r))

/-- An acquire, a load, an atomic, a fence or a reply of the thread may order its earlier stores, or show it what a copy that it
starts then must see too: none of them is read as not yet made (R78, R82, R86). -/
def orderStores (s : State) (t : Tid) : State :=
  if (s.thread t).recent.isEmpty then s else s.setThread t { s.thread t with recent := [] }

/-- A thread has had a version of a Catalogue returned (R91). -/
def Cat.tell (c : Cat) (t : Tid) (v : Nat) : Cat :=
  { c with told := (c.told.filter fun e => e.1 != t) ++ [(t, ((c.told.find? fun e => e.1 == t).map (·.2)).elim v (max v))] }

/-- What a thread had returned is hb-before what follows its release: every search in current mode sees it (R91). -/
def Cat.passOn (c : Cat) (t : Tid) : Cat :=
  match c.told.find? fun e => e.1 == t with
  | some e => { c with
    known := max c.known e.2
    told := c.told.filter fun e => e.1 != t }
  | none => c

/-- The least version that a search of a thread in current mode sees. -/
def Cat.least (c : Cat) (t : Tid) : Nat := ((c.told.find? fun e => e.1 == t).map (·.2)).elim c.known (max c.known)

def passOn (s : State) (t : Tid) : State :=
  let h := homeTid s t
  if s.cats.any fun e => e.2.told.any fun x => x.1 == h then { s with cats := s.cats.map fun e => (e.1, e.2.passOn h) } else s

/-- Performs what precedes a release, a fence of stores or an event of R78's rule 7 in ppo: the posted stores of the thread that
are still in flight are applied, no engine reads its earlier stores as not yet made, and the versions returned to it are passed on. -/
def drainPosted (s : State) (t : Tid) : State :=
  let src := homeTid s t
  let s := s.flights.foldl (fun s f => match f with
    | .psto a entry x place _ size val k6 dpa task =>
      if a = src then { applyPosted s a entry x place size val k6 dpa task with flights := s.flights.erase f } else s
    | _ => s) s
  orderStores (passOn s t) t

/-! ## Program order of one location (R82), and what an engine may still see (R86) -/

/-- A posted store of the thread that is still in flight writes one of the places. -/
def ownPosted (s : State) (t : Tid) (ks : List Nat) : Bool :=
  s.flights.any fun f => match f with
    | .psto a _ _ place _ size _ _ _ _ => a == homeTid s t && ks.any fun k => decide (place ≤ k) && decide (k < place + size)
    | _ => false

/-- R82: an access comes after the thread's earlier posted stores to the same bytes. -/
def settlePosted (s : State) (t : Tid) (ks : List Nat) : State := if s.meth.isNone && ownPosted s t ks then drainPosted s t else s

/-- What comes before an access of a thread to some places: R326, R82, and for an ordered task R201 and R202. -/
def track (s : State) (t : Tid) (via : Via) (ks : List Nat) (rd wr : Bool) (does : Bool := wr) : Except Stop State :=
  let s := settlePosted (useVia s t via ks.length) t ks
  trackTask (if rd then orderStores s t else s) t via.kind ks rd wr does

/-- The bytes of T14's last stores that a copy may yet read as they were: those of 64 words at most (log 57). -/
def recentMax : Nat := 256

/-- A plain store of T14 to some places, about to be made (R86): each aligned word that it writes counts whole. -/
def noteStore (s : State) (t : Tid) (ks : List Nat) : State :=
  if t.thr = 14 ∧ s.meth = none then
    let th := s.thread t
    let ws := (addNew [] (ks.map (· / 4))).filter fun w => !th.recent.any fun e => e.1 == 4 * w
    let new := ws.flatMap fun w => (span (4 * w) 4).map fun k => (k, readPlace s k)
    s.setThread t { th with recent := (new ++ th.recent).take recentMax }
  else s

/-! ## Accesses of threads -/

/-- Whether a target lies in a scratchpad or sett memory, and the core a migration would go to (R161). -/
def migrTarget (addr : Word) (k : Nat) : Option Nat :=
  let a := k % 2 ^ 64
  match k / 2 ^ 64 with
  | 0 => some (a / 2 ^ 18)
  | 1 => some (a / 2 ^ 21 * 8 + Config.migrationHash addr % 8)
  | _ => none

/-- A migratory access leaves the thread's holt when the core it would go to is one of the same context; the access is made remotely
otherwise (R161, log 73). -/
def migrates (s : State) (t : Tid) (kind : Nat) (addr : Word) (ks : List Nat) : Option Nat :=
  if kind = 6 ∧ (s.thread t).mig ∧ s.meth.isNone then
    match ks.head? with
    | none => none
    | some k => match migrTarget addr k with
      | some c => if holtOf s c ≠ holtOf s t.core ∧ (s.ctx (ctxOf s t)).setts.any (fun p => p.2 == settOf c)
          then some c else none
      | none => none
  else none

/-- The checks of a scalar access where the thread stands: segment, the home return of an away thread, alignment if asked,
translation. -/
def accessHere (s : State) (t : Tid) (addr : Word) (size need : Nat) (align : Bool) (atom : Option (Nat × Bool)) : Except Stop (Via × List Nat) := do
  let v := viewOf s t
  let kind := segKind v addr
  if (s.thread t).homeOf.isSome ∧ (kind = 2 ∨ kind = 3 ∨ kind = 4 ∨ kind = 7) then throw .goHome
  let r ← segCheck s v addr size need
  if align && addr.toNat % size != 0 then throw (.trap cMISALIGN addr)
  let ks ← xlate s v addr size need atom r
  return (r.via, ks)

/-- The same for an instruction that needs nothing of the thread's own core, which goes where the target lies (R161). -/
def access (s : State) (t : Tid) (addr : Word) (size need : Nat) (align : Bool) (atom : Option (Nat × Bool)) : Except Stop (Via × List Nat) := do
  let k ← accessHere s t addr size need align atom
  match migrates s t k.1.kind addr k.2 with
  | some c => throw (.migrate c addr)
  | none => return k

/-- R89: while a thread is away, its events of scope core, sett or holt take die scope. -/
def awayScope (s : State) (t : Tid) (scope : Nat) : Nat :=
  if (s.thread t).homeOf.isSome ∧ 1 ≤ scope ∧ scope ≤ 3 then 4 else scope

/-- Reads the bytes of an access that has been checked, with R201. -/
def loadAt (s : State) (t : Tid) (via : Via) (ks : List Nat) : Except Stop (State × List Byte) := do
  let s ← track s t via ks true false
  return (s, readPlaces s ks)

/-- R287: the first write of an update method to each word of its state is journalled; a 257th entry traps. -/
def methJournal (s : State) (ks : List Nat) : Except Stop State :=
  match s.meth with
  | none => .ok s
  | some m =>
    let words := addNew [] ((ks.filter fun k => k / 2 ^ 64 == 5 && k % 2 ^ 64 / 2 ^ 40 == 1).map (· / 8))
    let fresh := words.filter fun w => !m.journal.any (fun e => e.1 == w)
    if 256 < m.journal.length + fresh.length then .error (.trap cMETHOD_JOURNAL 0)
    else .ok { s with meth := some { m with journal := (fresh.map fun w => (w, wordOf (readPlaces s (span (8 * w) 8)))) ++ m.journal } }

/-- Stores bytes at checked places, with R201 and R287. -/
def storeAt (s : State) (t : Tid) (via : Via) (ks : List Nat) (bs : List Byte) : Except Stop State := do
  let s ← track s t via ks false true
  let s ← methJournal s ks
  return writePlaces (noteStore s t ks) ks bs

/-- A load of up to 8 bytes as a number. -/
def load (s : State) (t : Tid) (addr : Word) (size : Nat) (align : Bool) : Except Stop (State × Nat) := do
  let a ← access s t addr size rRD align none
  let r ← loadAt s t a.1 a.2
  return (r.1, leNat r.2)

/-- A store of up to 8 bytes. -/
def store (s : State) (t : Tid) (addr : Word) (size : Nat) (align : Bool) (x : Nat) : Except Stop State := do
  let a ← access s t addr size rWR align none
  storeAt s t a.1 a.2 (leBytes x size)

/-- The read-modify-write of a word that has been reached: the old value and the new state. `f` gives the value to write, or none
where nothing is written (a compare that fails, R144). -/
def rmwAt (s : State) (t : Tid) (k : Via × List Nat) (size : Nat) (f : Nat → Option Nat) : Except Stop (State × Nat) := do
  let s ← track s t k.1 k.2 true false
  let old := leNat (readPlaces s k.2)
  match f old with
  | none =>
    let s ← track s t k.1 k.2 true true false
    return (s, old)
  | some x =>
    let s ← track s t k.1 k.2 true true
    let s ← methJournal s k.2
    return (writePlaces s k.2 (leBytes x size), old)

/-- A read-modify-write of an aligned word with RD, WR and AT, checked by R145 at a scope. -/
def rmw (s : State) (t : Tid) (addr : Word) (size scope : Nat) (f : Nat → Option Nat) : Except Stop (State × Nat) := do
  let k ← access s t addr size rAMO true (some (awayScope s t scope, false))
  rmwAt s t k size f

/-- A block in the own scratchpad through kind 2 or 7, aligned: R101, the kind, then MISALIGN (R152, R335, R407). `kindFirst`: the
kind and MISALIGN come before R101, as in R216's list. -/
def ownBlock (s : State) (t : Tid) (addr : Word) (size align need : Nat) (kindFirst : Bool := false) : Except Stop (Via × List Nat) := do
  let v := viewOf s t
  if (s.thread t).homeOf.isSome then throw .goHome
  let kind := segKind v addr
  if kindFirst && kind != 2 && kind != 7 then throw (.trap cSEG_RIGHTS addr)
  if kindFirst && addr.toNat % align != 0 then throw (.trap cMISALIGN addr)
  let r ← segCheck s v addr size need
  if kind ≠ 2 ∧ kind ≠ 7 then throw (.trap cSEG_RIGHTS addr)
  if addr.toNat % align ≠ 0 then throw (.trap cMISALIGN addr)
  let ks ← xlate s v addr size need none r
  return (r.via, ks)

/-- A block read through the thread's segments with RD right, aligned (R278, R306, R335). -/
def anyBlock (s : State) (t : Tid) (addr : Word) (size align : Nat) : Except Stop (List Byte) := do
  let v := viewOf s t
  let kind := segKind v addr
  if (s.thread t).homeOf.isSome ∧ (kind = 2 ∨ kind = 3 ∨ kind = 4 ∨ kind = 7) then throw .goHome
  let r ← segCheck s v addr size rRD
  if addr.toNat % align ≠ 0 then throw (.trap cMISALIGN addr)
  let ks ← xlate s v addr size rRD none r
  return readPlaces (settlePosted s t ks) ks

/-- The use of the translations of blocks that an instruction has read (R326). -/
def useBlocks (s : State) (t : Tid) (bs : List (Word × Nat)) : State := bs.foldl (fun s b => useAt s (viewOf s t) b.1 b.2) s

/-! ## Engine accesses through sampled segments -/

/-- The places of an engine's access; a failure is given as its cause code. -/
def engineReach (s : State) (v : View) (addr : Word) (size need : Nat) (atom : Option (Nat × Bool)) : Except Stop (List Nat) := do
  let r ← segCheck s v addr size need
  xlate s v addr size need atom r

/-! ## Signal objects and MSI-X (R148, R149, R374) -/

/-- R149: the value after a decrement by n. -/
def decrement (old n : Nat) : Nat :=
  if 2 ^ 63 ≤ old % 2 ^ 64 then old else if old < n then 2 ^ 63 else old - n

/-- ATTR.SCOPE, with 7 as .system (Table 8.3). -/
def attrScope (attr : Nat) : Nat := if attr % 8 = 7 then 6 else attr % 8

/-- Sends the MSI-X message of a partition's vector, or counts it as lost (R374). -/
def sendMsix (s : State) (x vector : Nat) : State :=
  let p := partOf s 9 x
  let c := s.ctx p
  if vector < c.msixCount then { s with msix := s.msix ++ [(p, c.msixBase + vector)] } else s.setCtx p { c with lostNotes := c.lostNotes + 1 }

/-- R149's notification when a value crosses to zero or gains bit 63. -/
def notify (s : State) (x attr old new : Nat) : State :=
  if attr.testBit 3 ∧ new ≠ old ∧ (new = 0 ∨ 2 ^ 63 ≤ new) then sendMsix s x (attr / 256 % 4096) else s

/-- An engine's update of the signal object at an address, through sampled segments: decrement by n, or OR of bit 63. -/
def trySignal (s : State) (v : View) (addr : Word) (err : Bool) (n : Nat) : Except Stop State := do
  let ks ← engineReach s v addr 16 rAMO none
  let attr := leNat (readPlaces s (ks.drop 8))
  let ks ← engineReach s v addr 16 rAMO (some (attrScope attr, false))
  let s := useAt s v addr 16
  let old := leNat (readPlaces s (ks.take 8))
  let new := if err then Nat.lor old (2 ^ 63) else decrement old n
  return notify (writePlaces s (ks.take 8) (leBytes new 8)) v.ctx attr old new

/-- The reason of Table 14.6 for a signal object that cannot be reached. -/
def signalReason (code : Nat) : Nat :=
  if code = cATOMIC_PATH then 3 else if code = cPAGE_FAULT ∨ code = cHOST_ABORT then 1 else if code = cXLATE_RIGHTS then 2 else 4

/-- A signal object that cannot be reached, for a cause, stays unchanged; the trap that tells of it becomes pending. -/
def failSignal (s : State) (f : Option SigTrap) (cause : Nat) : State :=
  match f with
  | none => s
  | some f => pendTrap s f.thread f.source f.code (BitVec.ofNat 64 (f.eval + (if f.reason then signalReason cause else cause) * 2 ^ 32))

/-- The update; one that misses translation waits for the walker among the `signals`. -/
def engineSignal (s : State) (v : View) (addr : Word) (err : Bool) (n : Nat) (fail : Option SigTrap) : State :=
  match trySignal s v addr err n with
  | .ok z => z
  | .error (.trap c _) => failSignal s fail c
  | .error _ =>
    let id := s.signals.foldl (fun m q => max m (q.id + 1)) 0
    { s with signals := s.signals ++ [⟨id, v.ctx, v.core, v.segBase, v.segLimit, addr, err, n, fail, false⟩] }

/-- OR of bit 63 into a nonzero signal object. -/
def signalError (s : State) (v : View) (addr : Word) : State := if addr = 0 then s else engineSignal s v addr true 0 none

/-! ## Suspended collective timeouts (R398) -/

/-- A halted context with HOLDTO holds a rank of the group. -/
def collHeld (s : State) (part group : Nat) : Bool :=
  s.groups.any fun g => g.part == part && g.group == group && g.ranks.any fun r =>
    r.1 == 0 && (s.ctx r.2.2).haltedAll && bit (s.ctx r.2.2).spoor 7

/-- Suspends or continues the count of each TIMEOUT after a change of a halt or of HOLDTO. -/
def settleHolds (s : State) : State :=
  { s with contribs := s.contribs.map fun c => match c.pausedAt, collHeld s c.part c.group with
    | none, true => { c with pausedAt := some (gts s) }
    | some g, false => { c with
      pausedAt := none
      deadline := c.deadline.map (· + (gts s - g)) }
    | _, _ => c }

/-! ## Budgets (R331 to R333) -/

def budgetIx (die cls : Nat) : Nat := die * 5 + cls
def Context.budget (c : Context) (i : Nat) : Budget := c.budgets.toList.getD i .zero
def Context.setBudget (c : Context) (i : Nat) (b : Budget) : Context := { c with budgets := c.budgets.setIfInBounds i b }

def children (s : State) (x : Nat) : List Nat := (s.contexts.filter fun e => e.1 != 0 && e.2.parent == x).map (·.1)

/-- The retained share: RATE less the children's RATEs (R332). -/
def share (s : State) (x i : Nat) : Nat :=
  ((s.ctx x).budget i).rate - (children s x).foldl (fun n c => n + ((s.ctx c).budget i).rate) 0

/-- Adds tokens spent to a context and its ancestors (R333, `CTXSTAT` selector 3). -/
def noteSpent : Nat → State → Nat → Nat → Nat → State
  | 0, s, _, _, _ => s
  | n + 1, s, x, i, cost =>
    let c := s.ctx x
    let b := c.budget i
    let s := s.setCtx x (c.setBudget i { b with spent := b.spent + cost })
    if x = 0 then s else noteSpent n s c.parent i cost

/-- Takes up to `need` tokens from lenders in turn, each keeping a quarter of its share (R332). -/
def takeFrom (s : State) (i : Nat) : List Nat → Nat → State × Nat
  | [], need => (s, need)
  | l :: ls, need =>
    let c := s.ctx l
    let b := c.budget i
    let n := min need (b.bucket - share s l i / 4)
    takeFrom (s.setCtx l (c.setBudget i { b with bucket := b.bucket - n })) i ls (need - n)

/-- Serves a request of a context for tokens of a class on a die; none while it must wait. `waits` names the contexts with a
request of that class waiting there, which are not idle and lend nothing. -/
def spend (s : State) (x die cls cost : Nat) (waits : List Nat) : Option State :=
  let i := budgetIx die cls
  let c := s.ctx x
  let b := c.budget i
  let sh := share s x i
  if cost ≤ b.bucket then some (noteSpent 10 (s.setCtx x (c.setBudget i { b with bucket := b.bucket - cost })) x i cost)
  else
    let lack := cost - b.bucket
    if x = 0 ∨ sh = 0 ∨ 2 * sh < b.debt + lack then none
    else
      let lenders := sortBy (fun a b => decide (a ≤ b)) ((children s c.parent ++ [c.parent]).filter fun y => y != x && !waits.contains y)
      let avail := lenders.foldl (fun n l => n + (((s.ctx l).budget i).bucket - share s l i / 4)) 0
      if avail < lack then none
      else
        let r := takeFrom (s.setCtx x (c.setBudget i { b with bucket := 0, debt := b.debt + lack })) i lenders lack
        some (noteSpent 10 r.1 x i cost)

/-- A charge that is made even when no tokens cover it (R333). -/
def chargeAlways (s : State) (x die cls cost : Nat) : State :=
  let i := budgetIx die cls
  let c := s.ctx x
  let b := c.budget i
  let n := min cost b.bucket
  noteSpent 10 (s.setCtx x (c.setBudget i { b with bucket := b.bucket - n, debt := b.debt + (cost - n) })) x i cost

/-! ## Trace rings (R387 to R389) -/

/-- The place of each byte of a ring, which lies at device-physical addresses. -/
def ringByte (s : State) (r : Ring) (o : Nat) : Option Nat :=
  match dpaPlace s (r.base + o) with
  | .ok k => some k
  | .error _ => none

def ringNat (s : State) (r : Ring) (o : Nat) : Nat := leNat ((span o 8).map fun i => match ringByte s r i with | some k => readPlace s k | none => 0)

def ringPut (s : State) (r : Ring) : Nat → List Byte → State
  | _, [] => s
  | o, b :: bs => ringPut (match ringByte s r o with | some k => writePlace s k b | none => s) r (o + 1) bs

/-- A device-physical extent lies inside the ranges of a table that the context holds itself (R388; fuel: the ranges). -/
def covers (fs : List FRange) : Nat → Nat → Nat → Bool
  | 0, lo, hi => decide (hi ≤ lo)
  | n + 1, lo, hi => decide (hi ≤ lo) || match fs.find? fun f => f.lentTo.isNone && decide (f.dpa ≤ lo) && decide (lo < f.dpa + f.len) with
    | some f => covers fs n (f.dpa + f.len) hi
    | none => false

/-- Writes one record to a context's ring on a die, or counts it in DROPS (R388). -/
def writeRecord (s : State) (x die ty source g : Nat) (body : List Byte) : State :=
  let r := (s.ctx x).rings.toList.getD die ⟨0, 0⟩
  if r.len = 0 ∨ !covers (s.ctx x).ranges (s.ctx x).ranges.length r.base (r.base + r.len) then s
  else
    let rec_ := leBytes ty 2 ++ leBytes (16 + body.length) 2 ++ leBytes source 4 ++ leBytes g 8 ++ body
    let n := rec_.length
    let w := max 64 (ringNat s r 0)
    let rd := max 64 (ringNat s r 16)
    -- a record never straddles the wrap, and WRITE never catches up with READ
    let w' := if r.len < w + n then 64 else w
    let next := if w' + n = r.len then 64 else w' + n
    let fits : Bool := decide (w' + n ≤ r.len) && next != rd && (if rd ≤ w then w' == w || 64 + n ≤ rd else w' == w && w + n ≤ rd)
    if fits then ringPut (ringPut s r w' rec_) r 0 (leBytes next 8)
    else ringPut s r 8 (leBytes (ringNat s r 8 + 1) 8)

/-! ## Traps (R108, R349 to R353) -/

/-- CAUSE as an entry or a reflection leaves it (Table 22.1). -/
def causeWord (th : Thread) (code : Nat) (async : Bool) : Word :=
  setBit (setBit (BitVec.ofNat 64 (code % 256)) 14 async) 15 (bit th.cause 15 || (async && th.lostMark))

/-- The package stops and resets after a firmware fault or a thermal trip: every core in reset, the key slots empty, the next
start cold (R353, R402, R405). DRAM keeps its bytes; the root firmware's mailbox is written by the caller. -/
def packageReset (s : State) (cold : Bool) : State :=
  { State.reset with
    power := .inReset
    dram := s.dram, archive := s.archive, outside := s.outside
    dies := s.dies.map fun d => { d with keysUsed := 0 }
    linkUp := s.linkUp, hostWrites := s.hostWrites, hostVisible := s.hostVisible, lostBanks := s.lostBanks, portsUp := s.portsUp, portsTrained := s.portsTrained, form := s.form, plim := s.plim, lostSetts := s.lostSetts
    coldNext := s.coldNext || cold, calibration := s.calibration, startKind := s.startKind, archTest := s.archTest
    mailbox := s.mailbox, reports := s.reports, msix := s.msix
    freeCount := s.freeCount, parkCount := s.parkCount, turns := s.turns, agenda := s.agenda }

/-- R353: an unhandled trap of the root firmware. -/
def firmwareFault (s : State) (t : Tid) (code : Nat) (epc eval : Word) : State :=
  packageReset { s with mailbox := [BitVec.ofNat 64 code, epc, eval, BitVec.ofNat 64 (vcOf s t.core), BitVec.ofNat 64 t.thr] } true

/-- The thread after CAUSE, EPC and EVAL are written and its pending results are complete (R108, R349). -/
def trapRegs (th : Thread) (code : Nat) (eval epc : Word) (async : Bool) : Thread :=
  let th := th.complete.dropLatches
  { th with
    cause := causeWord th code async
    epc := epc &&& ~~~3#64
    eval := eval
    lostMark := if async then false else th.lostMark
    turn := none
    scGo := false
    owedTrap := none
    yieldFor := []
    chain := none
    search := none
    kept0 := th.kept0.map fun k => { k with done := none }
    kept1 := th.kept1.map fun k => { k with done := none } }

/-- R349: the thread is held and a message waits in the dispatcher for the parent's handler. -/
def reflect (s : State) (t : Tid) (code : Nat) (eval epc : Word) (async : Bool) : State :=
  let s := drainPosted s t
  let x := ctxOf s t
  let th := s.thread t
  let th' := trapRegs th code eval epc async
  let gs := [4, 5, 6, 7].map th'.finalG
  let s := s.setThread t { th' with
    run := .held
    heldFor := some ((s.ctx x).parent, gts s) }
  { s with flights := s.flights ++ [.reflection (s.ctx x).parent t code async th.inh false (epc &&& ~~~3#64) eval (gts s) gs x (vcIn s x t.core)] }

/-- R108: the thread enters its own handler. -/
def enterHandler (s : State) (t : Tid) (code : Nat) (eval epc : Word) (async : Bool) : State :=
  let s := drainPosted s t
  let th := s.thread t
  let th' := trapRegs th code eval epc async
  let d := dieOf s t.core
  s.setThread t { th' with
    tctl := setBit th'.tctl 4 true
    pc := th'.tvec &&& ~~~3#64
    run := .ready
    readyAt := dieCycle s d + 3
    stallEnd := dieCycle s d + 3 }

/-- A trap of a thread, taken: the one place where every trap goes (R108, R349, R353; R286 in method mode). -/
def takeTrap (s : State) (t : Tid) (code : Nat) (eval epc : Word) (async : Bool) : State :=
  match s.meth with
  | some m => { s with meth := some { m with trapped := some (if code = cSEG_LIMIT ∨ code = cSEG_RIGHTS then cMETHOD_ESCAPE else code) } }
  | none =>
    let th := s.thread t
    let x := ctxOf s t
    let code' := if th.inh then cDOUBLE_TRAP else code
    let eval' := if th.inh then BitVec.ofNat 64 (code + if async then 256 else 0) else eval
    if x = 0 then
      if th.tvec >>> 2 ≠ 0 ∧ !th.inh then enterHandler s t code' eval' epc async else firmwareFault s t code' epc eval'
    else if code' = cSYSCALL ∨ code' = cDOUBLE_TRAP ∨ (s.ctx x).reflect.getLsbD (code' / 16) ∨ th.tvec >>> 2 = 0 then
      reflect s t code' eval' epc async
    else enterHandler s t code' eval' epc async

/-- R108, R127: the return from a handler. -/
def eret (s : State) (t : Tid) : State :=
  let s := drainPosted s t
  let th := (s.thread t).complete.dropLatches
  let d := dieOf s t.core
  s.setThread t { th with tctl := setBit th.tctl 4 false, pc := th.epc &&& ~~~3#64, chain := none, readyAt := dieCycle s d + 3, stallEnd := dieCycle s d + 3 }

/-! ## Parking and rewinding (R44, R135, R140) -/

/-- The first word of the chain that the thread is at. -/
def Thread.chainStart (t : Thread) : Word :=
  match t.chain with
  | some c => c.start
  | none => t.pc

/-- The thread back at the first word of its chain, with the same distances (R41, R44). -/
def Thread.rewind (t : Thread) : Thread :=
  match t.chain with
  | some c => { t with pc := c.start, dist := c.dist, chain := none }
  | none => t

/-- R196: the ordered task of a thread enters waiting, or runs again. -/
def setTaskState (s : State) (t : Tid) (x : OState) : State :=
  match taskOf s t with
  | none => s
  | some y =>
    let u := s.unit (unitOf s t)
    s.setUnit (unitOf s t) { u with domain := { u.domain with tasks := u.domain.tasks.map fun z => if z.key == y.key then { z with st := x } else z } }

/-- The stamp of a thread that waits for `w`: parked, or woken and not yet served. -/
def Thread.stamp (th : Thread) (w : Wait) : Option Nat :=
  match th.run with
  | .parkedEngine x n | .parkedSync x n => if x = w then some n else none
  | _ => match th.turn with
    | some (x, n) => if x = w then some n else none
    | none => none

/-- No other thread of the core has waited longer for `w` (R154, R162). -/
def isFirst (s : State) (t : Tid) (w : Wait) : Bool :=
  let mine := (s.thread t).stamp w
  (List.range 16).all fun i => i == t.thr || match (s.thread ⟨t.core, i⟩).stamp w, mine with
    | none, _ => true
    | some n, some m => decide (m < n)
    | some _, none => false

def park (s : State) (t : Tid) (sync : Bool) (w : Wait) : State :=
  let th := s.thread t
  let n := (th.stamp w).getD s.parkCount
  let s := if w = .protect then setTaskState s t .waiting else s
  { s.setThread t { th.rewind with run := if sync then .parkedSync w n else .parkedEngine w n, scGo := false, turn := none } with
    parkCount := s.parkCount + 1 }

/-- A miss identifier that no outstanding miss of the core has, from `n` on (Table 8.2). -/
def freshMiss (used : List Nat) : Nat → Nat → Nat
  | 0, n => n
  | f + 1, n => if used.contains n then freshMiss used f ((n + 1) % 65536) else n

/-- Posts a miss record to a core's miss mailbox (R140, R219). -/
def postMiss (s : State) (core thr x kind size cva : Nat) (addr : Word) (whom : MissFor) : State × Nat :=
  let c := s.core core
  let id := freshMiss (c.misses.map (·.id)) (c.misses.length + 1) c.nextMiss
  let r : MissRec := ⟨id, thr, x, kind, size, cva, addr, gts s, whom⟩
  (s.setCore core { c with missbox := c.missbox ++ [r], misses := c.misses ++ [r], nextMiss := (id + 1) % 65536 }, id)

/-- A waiting signal update is tried again, or its miss is sent to the core's mailbox. -/
def signalStep (q : SigOp) (s : State) : State :=
  if q.missing then s
  else
    let gone := { s with signals := s.signals.erase q }
    match trySignal gone ⟨q.ctx, q.core, q.segBase, q.segLimit⟩ q.addr q.err q.n with
    | .ok z => z
    | .error (.miss addr cva kind size) =>
      if 16 ≤ (s.core q.core).missbox.length || (s.sett (settOf q.core)).place.isNone then s
      else
        let p := postMiss gone q.core 0xFF q.ctx kind size cva addr (.signal q.id)
        { p.1 with signals := gone.signals ++ [{ q with missing := true }] }
    | .error (.trap c _) => failSignal gone q.fail c
    | .error _ => gone

/-- R140: the thread parks and a miss record goes to the core's mailbox; T15's own miss is a PAGE_FAULT. -/
def missPark (s : State) (t : Tid) (addr : Word) (cva kind size : Nat) : State :=
  if t.thr = 15 ∨ s.meth.isSome then takeTrap s t cPAGE_FAULT addr (s.thread t).chainStart false
  else
    let c := s.core t.core
    -- an announced SC event that misses has not completed: it is announced again (R81)
    let th := { (s.thread t).rewind with scGo := false }
    if 16 ≤ c.missbox.length then s.setThread t { th with run := .parkedPage .reissue }
    else
      let p := postMiss s t.core t.thr (ctxOf s t) kind size cva addr .thread
      p.1.setThread t { th with run := .parkedPage (.page p.2) }

/-- Whether a wait has sent nothing and only tests a condition, so that its chain may issue again at any time (R109, R135). -/
def Wait.isPoll : Wait → Bool
  | .reissue | .mail _ _ | .recv _ | .scribeRead | .search | .bank _ | .version _ => true
  | _ => false

/-- `OBJDEL` and `CATDEL` have had an effect already, so no trap abandons their wait (R109, R279). -/
def Wait.isDelete : Wait → Bool
  | .deleting _ _ => true
  | _ => false

/-- Makes a thread ready after a park that has sent nothing, or after `IDLE`; its chain issues again. -/
def wake (s : State) (t : Tid) : State :=
  let th := s.thread t
  match th.run with
  | .parkedEngine w n | .parkedSync w n =>
    if w.isPoll || w.isDelete then s.setThread t { th with run := .ready, turn := some (w, n) } else s
  | .idle true _ | .parkedPage .reissue => s.setThread t { th with run := .ready }
  | _ => s

/-- What a thread waits for, parked or woken and not yet served. -/
def Thread.waitsFor (th : Thread) (w : Wait) : Bool := (th.stamp w).isSome

/-! ## Migration home (R161) -/

/-- The packet's registers as a home thread takes them: g2 to g11, k1 to k3 and FFLAGS. -/
def carryHome (home away : Thread) : Thread :=
  let a := away.complete
  let h := home.complete
  { h with
    g := (List.range 10).foldl (fun g i => g.setIfInBounds (i + 2) (a.g.toList.getD (i + 2) 0)) h.g
    k := (List.range 3).foldl (fun k i => k.setIfInBounds (i + 1) (a.k.toList.getD (i + 1) 0)) h.k
    fflags := a.fflags
    tctl := setBit (setBit a.tctl 5 false) 4 (bit h.tctl 4)
    vmask := a.vmask }

/-- An away thread returns to its home context, ready at its chain. -/
def returnHome (s : State) (t : Tid) : State :=
  let a := (s.thread t).rewind
  match a.homeOf with
  | none => s
  | some h =>
    let home := s.thread h
    let s := s.setThread t (Thread.reset.readyFrom a.readyAt)
    s.setThread h { carryHome home a with run := .ready, awayAt := none, pc := a.pc, dist := 0, chain := none, task := a.task, readyAt := home.readyAt }

end Sys2Proof.Machine
end

