-- ==== Sys2Proof/WellFormed.lean ====
section
/-! DEFINITION. Which instructions are allocated words: the checks of 03_words.md R37, R46, R47 and R50 and the field limits
that the instruction chapters turn into ILLEGAL_INSTR (07 R114 to 08 R155, 09 R168 to R184, 14 R227, 16 R253 to R262).
A step without an encoding is well formed by R50's silence about it. -/

namespace Sys2Proof

/-- MO-format size and scope are allocated (Table 3.1). -/
def moFields (z c : BitVec 3) : Bool := z.toNat < 4 && c.toNat < 7

/-- An atomic's size is .w or .d (R143, R144). -/
def atomicSize (z : BitVec 3) : Bool := z.toNat == 2 || z.toNat == 3

/-- Lane types .s32 and .n32 only (R168, shifts). -/
def intLane (u : BitVec 2) : Bool := u.toNat == 1 || u.toNat == 2

/-- Every lane type but .bf16 (R170, R174). -/
def notBf16 (u : BitVec 2) : Bool := u.toNat != 3

/-- A command queue q0 to q3 (R253). -/
def cmdQueue (q : BitVec 3) : Bool := q.toNat < 4

/-- HMOD payload fields that are allocated (Table 3.4). -/
def hmodFields (r : BitVec 3) (t : BitVec 2) (o : BitVec 3) (s : BitVec 4) : Bool :=
  r.toNat ≤ 4 && t.toNat ≤ 2 && o.toNat ≤ 4 && s.toNat ≤ 7

/-- The word-level conditions of R50, instruction by instruction. -/
def Instr.wellFormed : Instr → Bool
  | .ldo _ _ _ z r c u => moFields z c && r.toNat != 2 && u.toNat < 3
  | .sto _ _ _ z r c u => moFields z c && r.toNat != 1 && u.toNat < 3
  | .amoAdd _ _ _ z _ c | .amoAnd _ _ _ z _ c | .amoOr _ _ _ z _ c | .amoXor _ _ _ z _ c | .amoMin _ _ _ z _ c
  | .amoMax _ _ _ z _ c | .amoMinn _ _ _ z _ c | .amoMaxn _ _ _ z _ c | .amoSwap _ _ _ z _ c
  | .aopAdd _ _ _ z _ c | .aopAnd _ _ _ z _ c | .aopOr _ _ _ z _ c | .aopXor _ _ _ z _ c | .aopMin _ _ _ z _ c
  | .aopMax _ _ _ z _ c | .aopMinn _ _ _ z _ c | .aopMaxn _ _ _ z _ c | .aopSwap _ _ _ z _ c => moFields z c && atomicSize z
  | .amoFadd _ _ _ z _ c | .aopFadd _ _ _ z _ c => moFields z c && z.toNat == 2
  | .aopFaddBf16 _ _ _ z _ c => moFields z c && (z.toNat == 1 || z.toNat == 2)
  | .cas _ t _ z _ c => moFields z c && atomicSize z && t.toNat != 31
  | .waita _ _ _ z r c => moFields z c && r.toNat != 2
  | .psto _ _ _ z r c => moFields z c && atomicSize z && (r.toNat == 0 || r.toNat == 2)
  | .fenceLdld _ _ _ _ c | .fenceLdst _ _ _ _ c | .fenceStld _ _ _ _ c | .fenceStst _ _ _ _ c | .fenceAll _ _ _ _ c => c.toNat < 7
  | .vshl _ _ _ _ _ _ _ u | .vshr _ _ _ _ _ _ _ u => intLane u
  | .vcmpEq _ _ _ _ _ _ _ u | .vcmpNe _ _ _ _ _ _ _ u | .vcmpLt _ _ _ _ _ _ _ u | .vcmpLe _ _ _ _ _ _ _ u => notBf16 u
  | .vabs _ _ _ _ _ _ u | .vneg _ _ _ _ _ _ u => u.toNat != 2
  | .vrcp _ _ _ _ _ _ u | .vrsq _ _ _ _ _ _ u | .vexp2 _ _ _ _ _ _ u | .vlog2 _ _ _ _ _ _ u => u.toNat == 0
  | .vredSum _ _ _ _ _ _ _ u | .vredMin _ _ _ _ _ _ _ u | .vredMax _ _ _ _ _ _ _ u | .vredAnd _ _ _ _ _ _ _ u
  | .vredOr _ _ _ _ _ _ _ u | .vredXor _ _ _ _ _ _ _ u | .vscanSum _ _ _ _ _ _ _ u | .vscanMin _ _ _ _ _ _ _ u
  | .vscanMax _ _ _ _ _ _ _ u | .vscanAnd _ _ _ _ _ _ _ u | .vscanOr _ _ _ _ _ _ _ u | .vscanXor _ _ _ _ _ _ _ u => notBf16 u
  | .vqnt _ _ a _ _ _ _ => a.toNat % 4 == 0
  | .vdq _ d _ _ _ _ _ => d.toNat % 4 == 0
  | .qpush _ d q _ => d.toNat % 2 == 0 && cmdQueue q
  | .qpop _ _ q _ => !cmdQueue q
  | .tlda _ _ q _ _ _ _ | .tldb _ _ q _ _ _ _ | .tgtha _ _ q _ _ _ _ | .tmma _ _ q _ _ _ _ | .tspm _ _ q _ _ _ _
  | .tzero _ _ q _ _ _ _ | .tldc _ _ q _ _ _ _ | .tstc _ _ q _ _ _ _ => cmdQueue q
  | .abal _ _ q _ _ => cmdQueue q
  | .abfr _ _ q f c => cmdQueue q && f.toNat + c.toNat + 1 ≤ 64
  | .hschIdle _ u => u.toNat < 4
  | .hmod _ r t _ o s _ => hmodFields r t o s
  | .reservedHint maj _ => 0x74 ≤ maj.toNat && maj.toNat ≤ 0x7E
  | _ => true

end Sys2Proof
end

