-- ==== Sys2Proof/Machine/Operands.lean ====
section
/-! DEFINITION. The operand forms of instructions and the frame in which every instruction issues: hint chains, immediates,
guards, hold latches, the checks of 03_words.md R50 and R407, R205's classes, and what follows an instruction (03 R38 to R48,
06 R96 to R98, 07 R112, 08 R133, R161, 12 R205, R206). -/

namespace Sys2Proof.Machine

open Sys2Proof

/-- The outcome of a step of the model. -/
abbrev Out := Host.Outcome State Fault Refusal

/-! ## Hints attached to a chain (R44 to R46) -/

def Thread.hmod (t : Thread) : BitVec 25 :=
  match t.chain with
  | some c => c.hmod.getD 0
  | none => 0

def Thread.himm (t : Thread) : List (BitVec 25) :=
  match t.chain with
  | some c => c.himm.take 2
  | none => []

def hmodField (h : BitVec 25) (hi lo : Nat) : Nat := (h.extractLsb' lo (hi - lo + 1)).toNat
/-- The predicate index of HMOD PRED. -/
def Thread.predIx (t : Thread) : Nat := hmodField t.hmod 24 22
/-- The rounding mode of Table 4.2: HMOD RND if nonzero, else TCTL.RM (R46, R55). -/
def Thread.roundMode (t : Thread) : Nat :=
  let r := hmodField t.hmod 21 19
  if r = 0 then t.rm else r - 1
def Thread.satMod (t : Thread) : Bool := hmodField t.hmod 18 17 == 2
/-- HMOD ORD and SCOPE as the order and scope of an M-format access: plain and thread without them (R46, R76). -/
def Thread.ordMod (t : Thread) : Nat := hmodField t.hmod 14 12 - 1
def Thread.scopeMod (t : Thread) : Nat := hmodField t.hmod 11 8 - 1

/-- R45: the immediate of an I-format instruction. -/
def Thread.imm (t : Thread) (i : BitVec 12) : Word :=
  match t.himm with
  | [] => i.signExtend 64
  | [p] => (p ++ i).signExtend 64
  | p2 :: p1 :: _ => (p1 ++ p2 ++ i).signExtend 64

/-! ## The class and role of an instruction -/

/-- Table 12.4. -/
inductive OClass where
  | spec | irrev | forbid
  deriving DecidableEq, Repr

/-- Table 1.2. -/
inductive Role where
  | any | t0 | work | t14 | t15
  deriving DecidableEq, Repr

def Role.admits (r : Role) (t : Nat) : Bool :=
  match r with
  | .any => true
  | .t0 => t == 0
  | .work => 1 ≤ t && t ≤ 12
  | .t14 => t == 14
  | .t15 => t == 15

/-- An instruction as it issues: its word, its stall count, whether the word and what its chain shows are allocated (R50), the
registers it reads, and how it is guarded. -/
structure Op where
  word : BitVec 32
  stall : Nat
  legal : Bool := true
  role : Role := .any
  reads : List (RegFile × Nat) := []
  /-- Guarded by HMOD PRED (R112, R133, R177, R253); V and B formats carry their own k field. -/
  guarded : Bool := true
  cls : OClass := .spec
  /-- Uses per-core state, so an away thread returns home first (R161). -/
  home : Bool := false
  /-- Leaves the thread's kept snapshots and read targets alone: the searches and reads themselves (R297, R282). -/
  keeps : Bool := false
  /-- Register-bank reads beyond one for each bank (R97). -/
  conflict : Nat := 0
  /-- The cycles from issue to the write of an interlocked result, given the free latency (R42). -/
  delay : Nat → Nat := id
  /-- Whether traps, returns and stops wait for its interlocked results (R119, R186). -/
  slow : Slow := .no
  /-- The owed results for which it waits beside those it reads (R59, R127). -/
  awaits : Await := .none

/-- What follows an instruction that completes. -/
inductive Next where
  | seq
  | jump (pc : Word)
  /-- The instruction completes and then raises a trap at the next chain (R124, R125). -/
  | after (code : Nat) (eval : Word)
  /-- A request has left; the thread parks until its reply is written to g register `d` (R109). -/
  | sent (sync : Bool) (d : Nat)
  /-- The meaning has placed the thread itself. -/
  | placed
  deriving DecidableEq, Repr

abbrev Body := State → Tid → Except Stop (State × Next)

/-! ## After an instruction -/

/-- The thread past its instruction: the pc, the distance (R39), the stall (R38), the chain gone. -/
def Thread.advance (t : Thread) (pc : Word) (stall cyc : Nat) : Thread :=
  { t with
    pc := pc, dist := t.dist + 1 + stall, readyAt := cyc + 1 + stall, stallEnd := cyc + 1 + stall, yieldFor := [], chain := none
    scGo := false, turn := none }.commit

/-- The core has issued from thread `t` at cycle `cyc`, and issues again in the next cycle at the earliest (R96). -/
def noteIssue (s : State) (t : Tid) (cyc : Nat) : State :=
  match s.meth with
  | some _ => s
  | none =>
    let c := s.core t.core
    s.setCore t.core { c with
      last := t.thr
      servedAt := if c.folded then c.servedAt.insert t.thr cyc else c.servedAt
      freeAt := max c.freeAt (cyc + 1) }

/-- The cycle at which the current thread issues. -/
def issueCycle (s : State) (t : Tid) : Nat := match s.meth with | some _ => 0 | none => dieCycle s (dieOf s t.core)

/-- Completes an instruction: what follows it, then free time (log 2). -/
def finish (op : Op) (s : State) (t : Tid) (n : Next) : State :=
  let cyc := issueCycle s t + op.conflict
  let s := noteIssue s t cyc
  let th := (s.thread t).timed cyc
  match n with
  | .seq =>
    let x := th.advance (th.pc + 4) op.stall cyc
    match s.meth with
    | some _ => s.setThread t x
    | none =>
      -- R182: the core's bank cycles come on top
      s.setThread t (x.owe th cyc (op.delay (Config.latency s.freeCount) + ((s.core t.core).freeAt - (cyc + 1))) op.slow)
  | .jump pc =>
    -- R123: ineligible for max(S, 2) cycles; the distance still counts S
    let x := th.advance (pc &&& ~~~3#64) op.stall cyc
    s.setThread t (x.readyFrom (cyc + 1 + max op.stall 2))
  | .after code eval =>
    let s := s.setThread t (th.advance (th.pc + 4) op.stall cyc)
    let pc := (s.thread t).pc
    match th.homeOf with
    | some h => takeTrap (returnHome s t) h code eval pc false
    | none => takeTrap s t code eval pc false
  | .sent sync d =>
    let x := th.advance (th.pc + 4) op.stall cyc
    let w := Wait.reply d x.pc
    { s.setThread t { x with pc := th.chainStart, run := if sync then .parkedSync w s.parkCount else .parkedEngine w s.parkCount } with
      parkCount := s.parkCount + 1 }
  | .placed => s

/-- The reply to a request: the result is written and the thread is ready at the next chain (R109); a halted thread does not see it
until it runs again (R397). -/
def reply (s : State) (t : Tid) (x : Word) : State :=
  let s := orderStores s t
  let th := s.thread t
  if th.halted.isSome then s.setThread t { th with owedReply := some x }
  else match th.run with
  | .parkedSync (.reply d n) _ | .parkedEngine (.reply d n) _ => s.setThread t { (th.produce .g d maskG (x.setWidth 512) 0 .alu) with run := .ready, pc := n }
  | _ => s

/-- A thread takes its core's next issue slot, in which no instruction issues: the entry of a trap (R108), once the results for
which it waits are written (R119, R186). -/
def takeSlot (s : State) (t : Tid) : State :=
  match s.meth with
  | some _ => s
  | none =>
    let d := dieOf s t.core
    let cyc := max (coreFree s t.core) (dieCycle s d)
    let cyc := (lateRead (s.thread t) cyc .slow []).getD cyc
    noteIssue (advanceTo s d cyc) t cyc

/-- A halted thread is no more; what came for it meanwhile is taken (R396, R397). -/
def unhalt (s : State) (t : Tid) : State :=
  let th := s.thread t
  let s := s.setThread t { th with halted := none, owedReply := none }
  match th.owedReply with
  | some x => reply s t x
  | none => s

/-- A request refused where it was sent: the trap is precise at the chain, which had no effect, and is taken in the thread's next slot
(R108). -/
def replyTrap (s : State) (t : Tid) (code : Nat) (eval : Word) : State :=
  s.setThread t { s.thread t with run := .ready, owedTrap := some (code, eval) }

/-- A precise trap of the current chain (R206 in an unprotected ordered task; R161 while away). -/
def preciseTrap (s : State) (t : Tid) (code : Nat) (eval : Word) : State :=
  let th := s.thread t
  match th.homeOf with
  | some h => takeTrap (returnHome s t) h code eval th.chainStart false
  | none => if speculative s t then park s t false .protect else takeTrap s t code eval th.chainStart false

/-- The packet of a migrating thread (Table 8.4). -/
def packet (th : Thread) (homeVc homeThr : Nat) : List Byte :=
  let h := th.complete
  leBytes h.pc.toNat 8 ++ ((List.range 10).map fun i => leBytes (h.finalG (i + 2)).toNat 8).flatten
    ++ ((List.range 3).map fun i => leBytes (h.finalK (i + 1)).toNat 2).flatten
    ++ leBytes (h.rm + (if h.chk then 4 else 0) + (if h.mig then 8 else 0) + (if h.inh then 16 else 0)) 2
    ++ leBytes h.vmask.toNat 4 ++ leBytes homeVc 2 ++ leBytes homeThr 1 ++ leBytes (h.fflags.toNat % 256) 1 ++ leBytes 0 24

/-- R161: the packet departs, or MIG_VECTOR is raised. -/
def depart (s : State) (t : Tid) (core : Nat) (addr : Word) : State :=
  let th := s.thread t
  if th.vmask ≠ 0 then preciseTrap s t cMIG_VECTOR addr
  else
    let s := drainPosted s t
    let th := s.thread t
    let r := th.rewind
    let home := th.homeOf.getD t
    let f := Flight.migr home core (packet r (vcOf s home.core) home.thr)
    let s := { s with flights := s.flights ++ [f] }
    let s := match th.homeOf with
      | some _ => s.setThread t (Thread.reset.readyFrom th.readyAt)
      | none => s
    let h := s.thread home
    let h := { h.complete.dropLatches with run := .parkedEngine .away s.parkCount, awayAt := none, chain := none }
    s.setThread home (if th.homeOf.isSome then h else { h with pc := r.pc })

/-- A stop that ends in a trap or in a packet's departure comes after the thread's owed slow results (R119, R186). -/
def Stop.leaves : Stop → Bool
  | .trap _ _ | .migrate _ _ | .goHome => true
  | _ => false

/-- The owed results that a stop of an instruction still waits for; T15's own miss is a trap (R140). -/
def stopWaits (s : State) (t : Tid) (e : Stop) : Option Nat :=
  let traps := match e with | .miss _ _ _ _ => t.thr == 15 | _ => e.leaves
  if traps && s.meth.isNone then lateRead (s.thread t) (issueCycle s t) .slow [] else none

/-- R297, R282: a thread that issues a chain drops what it kept for another chain at its handler level, also where the chain stops. -/
def letGo (s : State) (t : Tid) : State :=
  let th := s.thread t
  let snap (k : Option KeptSnap) : Option KeptSnap := k.filter fun k => k.chain == th.chainStart
  let read (k : Option KeptRead) : Option KeptRead := k.filter fun k => k.chain == th.chainStart
  s.setThread t (if th.inh then { th with snap1 := snap th.snap1, kept1 := read th.kept1 } else { th with snap0 := snap th.snap0, kept0 := read th.kept0 })

/-- What becomes of an instruction that stopped; it took its issue slot (R96), unless it waits to be tried again. -/
def stopped (s : State) (t : Tid) (e : Stop) : Out :=
  let z := letGo (noteIssue s t (issueCycle s t)) t
  match (match stopWaits s t e with | some due => Stop.wait due | none => e) with
  | .trap c e => .next (lapse (preciseTrap z t c e))
  | .miss addr cva kind size => .next (lapse (missPark z t addr cva kind size))
  | .park sync w => .next (lapse (park z t sync w))
  | .migrate core addr => .next (lapse (depart z t core addr))
  | .goHome => .next (lapse (returnHome z t))
  | .wait due => .next (s.setThread t { s.thread t with readyAt := max (s.thread t).readyAt due })
  | .fault f => .fault f

/-! ## The frame of an instruction -/

/-- R297, R282: a chain that is not the kept search or read drops what the thread kept at its handler level. -/
def dropKept (th : Thread) : Thread :=
  if th.inh then { th with snap1 := none, kept1 := none } else { th with snap0 := none, kept0 := none }


def Op.allReads (op : Op) (th : Thread) : List (RegFile × Nat) :=
  if op.guarded then (.k, th.predIx) :: op.reads else op.reads

/-- A posted store of the thread's protected task would abort a task whose thread stands inside a hint chain, so that it cannot be
made yet (R202). -/
def postedWaits (s : State) (t : Tid) : Bool :=
  s.flights.any fun f => match f with
    | .psto a _ _ place _ size _ _ _ task => a == homeTid s t && task.isSome && insideChain s (unitOf s a) (postedHits s a place size task)
    | _ => false

/-- Until when the thread is ineligible, because a register that the instruction reads is still to be written (R42). An
instruction that is illegal where it stands reads none, and one whose guard is false waits for nothing else (R112). -/
def ineligible (op : Op) (s : State) (t : Tid) : Option Nat :=
  match s.meth with
  | some _ => none
  | none =>
    let th := s.thread t
    let awaits := if op.guarded && !(th.readK th.predIx).getLsbD 0 then .none else op.awaits
    if postedWaits s t then some (issueCycle s t + 1)
    else if op.legal && op.role.admits t.thr then lateRead th (issueCycle s t) awaits (op.allReads th) else none

/-- R407's order: ILLEGAL_INSTR, STALL_SHORT, the guard, R205's class, the home return, then the instruction's own checks. DESIGN
CHOICE (log 64): the EVAL of an instruction that an HMOD makes illegal is the instruction's word. -/
def issueBody (op : Op) (s : State) (t : Tid) (body : Body) : Except Stop (State × Next) :=
  let th := s.thread t
  if !op.legal || !(op.role.admits t.thr || s.meth.isSome) then .error (.trap cILLEGAL (op.word.setWidth 64))
  else
    match (if th.chk then firstShort th (op.allReads th) else none) with
    | some e => .error (.trap cSTALL_SHORT e)
    | none =>
      if op.guarded && !(th.readK th.predIx).getLsbD 0 then .ok (s.setThread t (dropKept th), .seq)
      else
        let s := if op.keeps then s else s.setThread t (dropKept th)
        -- an engine's operation comes after the acquires of its issuer (R78, R80)
        let s := if op.cls == .irrev then passOn s t else s
        match op.cls, taskOf s t, s.meth with
        | .forbid, some _, none => .error (.trap cOTASK_STATE 2)
        | .irrev, some y, none => if y.prot then body s t else .error (.park false .protect)
        | _, _, _ => if op.home && th.homeOf.isSome then .error .goHome else body s t

/-- The state at the cycle in which the current thread issues: not before it is ready and its core is free (R38, R96). -/
def atIssue (s : State) : State :=
  match s.meth with
  | some _ => s
  | none => advanceTo s (dieOf s s.cur.core) (max (s.thread s.cur).readyAt (coreFree s s.cur.core))

/-- The state in which an instruction with `n` register-bank conflicts issues: the core issues nothing meanwhile (R97). -/
def conflictEnd (n : Nat) (s : State) (t : Tid) : State :=
  if n = 0 ∨ s.meth.isSome then s else advanceTo s (dieOf s t.core) (issueCycle s t + n)

/-- Issues an instruction of the current thread: at its cycle or later (R38, R96), in the frame above. -/
def issue (op : Op) (s : State) (body : Body) : Out :=
  let t := s.cur
  let s := atIssue s
  match ineligible op s t with
  | some due => stopped s t (.wait due)
  | none =>
    match issueBody op s t body with
    | .ok (s', n) => .next (lapse (finish op s' t n))
    | .error e => stopped (conflictEnd op.conflict s t) t e

/-- The delay of an access: 6 cycles in the own scratchpad, which is fixed; elsewhere free (R17, R182). -/
def ownDelay (s : State) (addrs : List Word) : Nat → Nat :=
  let own := addrs.map fun a => let k := segKind (viewOf s s.cur) a; k == 2 || k == 7
  if own.all id then fun _ => 6 else if own.any id then max 6 else id

/-! ## Register-only bodies -/

/-- A body that changes the current thread only. -/
def regBody (f : Thread → Thread) : Body := fun s t => .ok (s.setThread t (f (s.thread t)), .seq)

/-! ## Hints (R44 to R48) -/

/-- A hint: one issue slot, one unit of distance (R39), no stall. `wait` is an `HSCH` wait, which counts in the distance, and `upto`
the cycle until which an `HSCH.IDLE` waits, which does not (R47). -/
def issueHint (s : State) (wait : Nat) (f : Thread → Thread) (upto : Thread → Nat := fun _ => 0) : Out :=
  let t := s.cur
  let s := atIssue s
  let cyc := issueCycle s t
  let s := noteIssue s t cyc
  let th := f (s.thread t)
  let ready := max (cyc + 1 + wait) (upto (s.thread t))
  .next (lapse (s.setThread t { th with
    pc := th.pc + 4, dist := th.dist + 1 + wait, readyAt := ready, stallEnd := ready, yieldFor := [] }.commit))

/-- The chain with one more hint. -/
def Thread.addHint (t : Thread) (f : Chain → Chain) : Thread :=
  { t with chain := some (f (t.chain.getD ⟨t.pc, t.dist, none, []⟩)) }

/-! ## Vector operand positions (R97, R98) -/

/-- The lane i of a vector register. -/
def lane (v : Vec) (i : Nat) : BitVec 32 := v.extractLsb' (32 * i) 32
/-- A vector register from its lanes. -/
def ofLanes (ls : List (BitVec 32)) : Vec := ls.foldr (fun x acc => (acc <<< 32) ||| x.setWidth 512) 0
/-- The bits of the lanes whose predicate bit is set. -/
def laneMask (p : Pred) : Vec :=
  (List.range 16).foldr (fun i acc => (acc <<< 32) ||| (if p.getLsbD i then (0xFFFFFFFF : Vec) else 0)) 0

/-- The operand positions of a V-format instruction that read the vector file (Table 9.3), and the hold bits. -/
structure VPos where
  d : Option Nat := none
  a : Option Nat := none
  b : Option Nat := none
  /-- Further registers of position a (`VQNT`). -/
  more : List Nat := []
  ha : Bool := false
  hb : Bool := false
  deriving DecidableEq, Repr

/-- The value of a position, from a valid latch when it is held (R98). -/
def posVal (t : Thread) (held : Bool) (latch : Option Vec) (r : Nat) : Vec :=
  match held, latch with
  | true, some x => x
  | _, _ => t.readV r

def VPos.valD (p : VPos) (t : Thread) : Vec := match p.d with | some r => t.readV r | none => 0
def VPos.valA (p : VPos) (t : Thread) : Vec := match p.a with | some r => posVal t p.ha t.latchA r | none => 0
def VPos.valB (p : VPos) (t : Thread) : Vec := match p.b with | some r => posVal t p.hb t.latchB r | none => 0

/-- The registers that are read from the file, which count in e. -/
def VPos.fileReads (p : VPos) (t : Thread) : List Nat :=
  p.d.toList ++ (if p.ha && t.latchA.isSome then [] else p.a.toList) ++ p.more ++ (if p.hb && t.latchB.isSome then [] else p.b.toList)

/-- R97: the conflict count e. -/
def bankConflicts (rs : List Nat) : Nat :=
  (List.range 6).foldl (fun n b => n + ((rs.filter fun r => r % 6 == b).length - 1)) 0

/-- R98: each position read loads its latch. -/
def VPos.load (p : VPos) (t : Thread) : Thread :=
  { t with
    latchD := match p.d with | some _ => some (p.valD t) | none => t.latchD
    latchA := match p.a with | some _ => some (p.valA t) | none => t.latchA
    latchB := match p.b with | some _ => some (p.valB t) | none => t.latchB }

/-- A V-format instruction: its operands, the predicate that it reads, other registers, and its effect on the thread. -/
def vop (word : BitVec 32) (stall : BitVec 3) (p : VPos) (extra : List (RegFile × Nat)) (legal : Bool) (t : Thread) : Op :=
  { word := word, stall := stall.toNat, legal := legal, guarded := false
    reads := ((p.fileReads t).map fun r => (RegFile.v, r)) ++ extra
    conflict := bankConflicts (p.fileReads t) }

/-- Issues a V-format instruction that works on registers: the latches load, whatever the predicate (R98, R165). -/
def issueV (word : BitVec 32) (stall : BitVec 3) (p : VPos) (extra : List (RegFile × Nat)) (legal : Bool) (s : State)
    (f : Thread → Vec → Vec → Vec → Thread) : Out :=
  let th := s.thread s.cur
  issue (vop word stall p extra legal th) s (regBody fun t => f (p.load t) (p.valD t) (p.valA t) (p.valB t))

end Sys2Proof.Machine
end

