-- ==== Sys2Proof/Machine/Integer.lean ====
section
/-! DEFINITION. Integer, address and predicate instructions, branches and jumps: 07_core_scalar.md R112 to R123, 09 R177,
and the hints of 03 R44 to R48. -/

namespace Sys2Proof.Machine

open Sys2Proof

/-- A register-register operation of MAJ 0x01: latency 2 (R114, Table 3.2). -/
def alu2 (w : BitVec 32) (s : BitVec 3) (d a b : BitVec 5) (st : State) (f : Word → Word → Word) : Out :=
  issue { word := w, stall := s.toNat, reads := [(.g, a.toNat), (.g, b.toNat)] } st
    (regBody fun t => t.aluG d.toNat (f (t.readG a.toNat) (t.readG b.toNat)))

/-- A unary operation; its b field is reserved (R114). -/
def alu1 (w : BitVec 32) (s : BitVec 3) (d a : BitVec 5) (st : State) (f : Word → Word) : Out :=
  issue { word := w, stall := s.toNat, reads := [(.g, a.toNat)] } st (regBody fun t => t.aluG d.toNat (f (t.readG a.toNat)))

/-- An operation that also reads its destination (R115, `SEL`). -/
def alu3 (w : BitVec 32) (s : BitVec 3) (d a b : BitVec 5) (st : State) (f : Word → Word → Word → Word) : Out :=
  issue { word := w, stall := s.toNat, reads := [(.g, d.toNat), (.g, a.toNat), (.g, b.toNat)] } st
    (regBody fun t => t.aluG d.toNat (f (t.readG d.toNat) (t.readG a.toNat) (t.readG b.toNat)))

/-- An immediate operation (R45, R117). -/
def aluI (w : BitVec 32) (s : BitVec 3) (d a : BitVec 5) (i : BitVec 12) (st : State) (f : Word → Word → Word) : Out :=
  issue { word := w, stall := s.toNat, reads := [(.g, a.toNat)] } st
    (regBody fun t => t.aluG d.toNat (f (t.readG a.toNat) (t.imm i)))

/-- A multiplication: latency 4 (Table 7.4). -/
def mulOp (w : BitVec 32) (s : BitVec 3) (d a b : BitVec 5) (st : State) (f : Word → Word → Word) : Out :=
  issue { word := w, stall := s.toNat, reads := [(.g, a.toNat), (.g, b.toNat)] } st
    (regBody fun t => t.produce .g d.toNat maskG ((f (t.readG a.toNat) (t.readG b.toNat)).setWidth 512) 4 .mul)

/-- A division or remainder: interlocked, and a zero divisor sets DZ (R118). -/
def divOp (w : BitVec 32) (s : BitVec 3) (d a b : BitVec 5) (st : State) (f : Word → Word → Word) : Out :=
  issue { word := w, stall := s.toNat, reads := [(.g, a.toNat), (.g, b.toNat)], delay := fun n => min n 72, slow := .divide } st
    (regBody fun t =>
      let x := t.readG a.toNat
      let y := t.readG b.toNat
      (if y = 0 then addFlags t DZ else t).putG d.toNat (f x y))

/-- A compare: all 16 bits of kD take the outcome (R116). -/
def cmpOp (w : BitVec 32) (s : BitVec 3) (k : BitVec 3) (reads : List (RegFile × Nat)) (st : State) (f : Thread → Bool) : Out :=
  issue { word := w, stall := s.toNat, reads := reads } st
    (regBody fun t => t.putK k.toNat (if f t then 0xFFFF else 0) 2 .alu)

def cmpRR (w : BitVec 32) (s k : BitVec 3) (a b : BitVec 5) (st : State) (f : Word → Word → Bool) : Out :=
  cmpOp w s k [(.g, a.toNat), (.g, b.toNat)] st fun t => f (t.readG a.toNat) (t.readG b.toNat)

def cmpRI (w : BitVec 32) (s k : BitVec 3) (a : BitVec 5) (i : BitVec 12) (st : State) (f : Word → Word → Bool) : Out :=
  cmpOp w s k [(.g, a.toNat)] st fun t => f (t.readG a.toNat) (t.imm i)

def shlW (x y : Word) : Word := x <<< (y.toNat % 64)
def shrW (x y : Word) : Word := x >>> (y.toNat % 64)
def sarW (x y : Word) : Word := x.sshiftRight (y.toNat % 64)
def popcount (x : Word) : Nat := (List.range 64).foldl (fun n i => n + (x.getLsbD i).toNat) 0
def clz64 (x : Word) : Nat := 64 - bitLen x.toNat
def ctz64 (x : Word) : Nat := ((List.range 64).find? fun i => x.getLsbD i).getD 64

/-- The position and width of a field descriptor (R115). -/
def fieldPos (b : Word) : Nat := field b 5 0
def fieldWidth (b : Word) : Nat := min (field b 14 8) 64
def onesW (w : Nat) : Word := BitVec.ofNat 64 (2 ^ w - 1)
def bextW (a b : Word) : Word := (a >>> fieldPos b) &&& onesW (fieldWidth b)
def binsW (d a b : Word) : Word :=
  let m := onesW (fieldWidth b) <<< fieldPos b
  (d &&& ~~~m) ||| ((a <<< fieldPos b) &&& m)

/-- The high half of a 128-bit product (Table 7.4). -/
def mulhS (a b : Word) : Word := (a.signExtend 128 * b.signExtend 128).extractLsb' 64 64
def mulhN (a b : Word) : Word := (a.setWidth 128 * b.setWidth 128).extractLsb' 64 64

/-- R118: division truncates towards zero; a zero divisor gives all ones. -/
def divS (a b : Word) : Word := if b = 0 then BitVec.allOnes 64 else a.sdiv b
def divN (a b : Word) : Word := if b = 0 then BitVec.allOnes 64 else a / b
def remS (a b : Word) : Word := if b = 0 then a else a.srem b
def remN (a b : Word) : Word := if b = 0 then a else a % b

/-- The target of an off18 or off22 branch (R36). -/
def branchTo (pc : Word) (off : Word) : Word := pc + off * 4

/-- An operation between predicates, or with a predicate operand: latency 2 (R177). -/
def kOp (w : BitVec 32) (s : BitVec 3) (reads : List (RegFile × Nat)) (legal : Bool) (st : State) (f : Thread → Thread) : Out :=
  issue { word := w, stall := s.toNat, legal := legal, reads := reads } st (regBody f)

/-- The predicate that a 5-bit field names (R35). -/
def kix (x : BitVec 5) : Nat := x.toNat % 8

/-- The producers that a unit of `hsch.idle` names: vec, mul, fixed; tile names none (R47). -/
def unitSel (u : Nat) (p : Producer) : Bool :=
  match u with
  | 0 => p == .vec
  | 1 => p == .mul
  | 2 => p != .interlocked
  | _ => false

/-- Whether a command that a thread pushed is queued in or running on a tile engine (R47). -/
def tileHolds (x : Tile) (t : Nat) : Bool :=
  x.queues.toList.any (fun q => q.cmds.any fun c => c.thr == t) || (x.running.any fun r => r.cmd.thr == t)
    || (x.waiting.any fun e => e.2.thr == t)
    || x.queues.toList.any fun q => q.ended.any fun e => e.thr == t && e.nt

/-- A thread that waits where its pc stands. -/
def parkThere (s : State) (t : Tid) (w : Wait) : State :=
  { s.setThread t { s.thread t with run := .parkedEngine w s.parkCount } with parkCount := s.parkCount + 1 }

/-- ADD (R114): Writes gA + gB to gD, wrapping modulo 2^64 -/
def execAdd (s : BitVec 3) (d a b : BitVec 5) (st : State) : Out :=
  alu2 (1#7 ++ s ++ d ++ a ++ b ++ 0#7) s d a b st fun x y => x + y

/-- SUB (R114): Writes gA - gB to gD -/
def execSub (s : BitVec 3) (d a b : BitVec 5) (st : State) : Out :=
  alu2 (1#7 ++ s ++ d ++ a ++ b ++ 1#7) s d a b st fun x y => x - y

/-- AND (R114): Writes the bitwise AND of gA and gB to gD -/
def execAnd (s : BitVec 3) (d a b : BitVec 5) (st : State) : Out :=
  alu2 (1#7 ++ s ++ d ++ a ++ b ++ 2#7) s d a b st fun x y => x &&& y

/-- OR (R114): Writes the bitwise OR of gA and gB to gD -/
def execOr (s : BitVec 3) (d a b : BitVec 5) (st : State) : Out :=
  alu2 (1#7 ++ s ++ d ++ a ++ b ++ 3#7) s d a b st fun x y => x ||| y

/-- XOR (R114): Writes the bitwise XOR of gA and gB to gD -/
def execXor (s : BitVec 3) (d a b : BitVec 5) (st : State) : Out :=
  alu2 (1#7 ++ s ++ d ++ a ++ b ++ 4#7) s d a b st fun x y => x ^^^ y

/-- MIN (R114): Writes the lesser of gA and gB as s64 -/
def execMin (s : BitVec 3) (d a b : BitVec 5) (st : State) : Out :=
  alu2 (1#7 ++ s ++ d ++ a ++ b ++ 8#7) s d a b st fun x y => if x.slt y then x else y

/-- MIN_N (R114): Writes the lesser of gA and gB as n64 -/
def execMinN (s : BitVec 3) (d a b : BitVec 5) (st : State) : Out :=
  alu2 (1#7 ++ s ++ d ++ a ++ b ++ 9#7) s d a b st fun x y => if x.ult y then x else y

/-- MAX (R114): Writes the greater of gA and gB as s64 -/
def execMax (s : BitVec 3) (d a b : BitVec 5) (st : State) : Out :=
  alu2 (1#7 ++ s ++ d ++ a ++ b ++ 10#7) s d a b st fun x y => if x.slt y then y else x

/-- MAX_N (R114): Writes the greater of gA and gB as n64 -/
def execMaxN (s : BitVec 3) (d a b : BitVec 5) (st : State) : Out :=
  alu2 (1#7 ++ s ++ d ++ a ++ b ++ 11#7) s d a b st fun x y => if x.ult y then y else x

/-- LEA_B (R114): Writes gA + gB -/
def execLeaB (s : BitVec 3) (d a b : BitVec 5) (st : State) : Out :=
  alu2 (1#7 ++ s ++ d ++ a ++ b ++ 12#7) s d a b st fun x y => x + y

/-- LEA_H (R114): Writes gA + (gB << 1) -/
def execLeaH (s : BitVec 3) (d a b : BitVec 5) (st : State) : Out :=
  alu2 (1#7 ++ s ++ d ++ a ++ b ++ 13#7) s d a b st fun x y => x + (y <<< 1)

/-- LEA_W (R114): Writes gA + (gB << 2) -/
def execLeaW (s : BitVec 3) (d a b : BitVec 5) (st : State) : Out :=
  alu2 (1#7 ++ s ++ d ++ a ++ b ++ 14#7) s d a b st fun x y => x + (y <<< 2)

/-- LEA_D (R114): Writes gA + (gB << 3) -/
def execLeaD (s : BitVec 3) (d a b : BitVec 5) (st : State) : Out :=
  alu2 (1#7 ++ s ++ d ++ a ++ b ++ 15#7) s d a b st fun x y => x + (y <<< 3)

/-- SHL (R114): Shifts gA left by gB[5:0] -/
def execShl (s : BitVec 3) (d a b : BitVec 5) (st : State) : Out :=
  alu2 (1#7 ++ s ++ d ++ a ++ b ++ 5#7) s d a b st shlW

/-- SHR (R114): Shifts gA right logically by gB[5:0] -/
def execShr (s : BitVec 3) (d a b : BitVec 5) (st : State) : Out :=
  alu2 (1#7 ++ s ++ d ++ a ++ b ++ 6#7) s d a b st shrW

/-- SAR (R114): Shifts gA right arithmetically by gB[5:0] -/
def execSar (s : BitVec 3) (d a b : BitVec 5) (st : State) : Out :=
  alu2 (1#7 ++ s ++ d ++ a ++ b ++ 7#7) s d a b st sarW

/-- BEXT (R115): Extracts a bit field of gA described by gB -/
def execBext (s : BitVec 3) (d a b : BitVec 5) (st : State) : Out :=
  alu2 (1#7 ++ s ++ d ++ a ++ b ++ 20#7) s d a b st bextW

/-- POPC (R114): Writes the number of one bits of gA -/
def execPopc (s : BitVec 3) (d a b : BitVec 5) (st : State) : Out :=
  alu1 (1#7 ++ s ++ d ++ a ++ b ++ 16#7) s d a st fun x => BitVec.ofNat 64 (popcount x)

/-- CLZ (R114): Writes the count of leading zero bits of gA -/
def execClz (s : BitVec 3) (d a b : BitVec 5) (st : State) : Out :=
  alu1 (1#7 ++ s ++ d ++ a ++ b ++ 17#7) s d a st fun x => BitVec.ofNat 64 (clz64 x)

/-- CTZ (R114): Writes the count of trailing zero bits of gA -/
def execCtz (s : BitVec 3) (d a b : BitVec 5) (st : State) : Out :=
  alu1 (1#7 ++ s ++ d ++ a ++ b ++ 18#7) s d a st fun x => BitVec.ofNat 64 (ctz64 x)

/-- BREV (R114): Writes gA with its bit order reversed -/
def execBrev (s : BitVec 3) (d a b : BitVec 5) (st : State) : Out :=
  alu1 (1#7 ++ s ++ d ++ a ++ b ++ 19#7) s d a st fun x => x.reverse

/-- BINS (R115): Inserts a field of gA into gD at the position and width in gB -/
def execBins (s : BitVec 3) (d a b : BitVec 5) (st : State) : Out :=
  alu3 (1#7 ++ s ++ d ++ a ++ b ++ 21#7) s d a b st binsW

/-- SEL (R114): Writes gA to gD if gD is nonzero, else gB -/
def execSel (s : BitVec 3) (d a b : BitVec 5) (st : State) : Out :=
  alu3 (1#7 ++ s ++ d ++ a ++ b ++ 22#7) s d a b st fun z x y => if z ≠ 0 then x else y

/-- CMP_EQ (R116): Sets all bits of kD if gA equals gB, else clears them -/
def execCmpEq (s : BitVec 3) (x : BitVec 2) (k : BitVec 3) (a b : BitVec 5) (st : State) : Out :=
  cmpRR (1#7 ++ s ++ x ++ k ++ a ++ b ++ 24#7) s k a b st fun x y => x == y

/-- CMP_NE (R116): Sets kD if gA differs from gB -/
def execCmpNe (s : BitVec 3) (x : BitVec 2) (k : BitVec 3) (a b : BitVec 5) (st : State) : Out :=
  cmpRR (1#7 ++ s ++ x ++ k ++ a ++ b ++ 25#7) s k a b st fun x y => x != y

/-- CMP_LT (R116): Sets kD if gA < gB as s64 -/
def execCmpLt (s : BitVec 3) (x : BitVec 2) (k : BitVec 3) (a b : BitVec 5) (st : State) : Out :=
  cmpRR (1#7 ++ s ++ x ++ k ++ a ++ b ++ 26#7) s k a b st fun x y => x.slt y

/-- CMP_LE (R116): Sets kD if gA <= gB as s64 -/
def execCmpLe (s : BitVec 3) (x : BitVec 2) (k : BitVec 3) (a b : BitVec 5) (st : State) : Out :=
  cmpRR (1#7 ++ s ++ x ++ k ++ a ++ b ++ 27#7) s k a b st fun x y => x.sle y

/-- CMP_LTN (R116): Sets kD if gA < gB as n64 -/
def execCmpLtn (s : BitVec 3) (x : BitVec 2) (k : BitVec 3) (a b : BitVec 5) (st : State) : Out :=
  cmpRR (1#7 ++ s ++ x ++ k ++ a ++ b ++ 28#7) s k a b st fun x y => x.ult y

/-- CMP_LEN (R116): Sets kD if gA <= gB as n64 -/
def execCmpLen (s : BitVec 3) (x : BitVec 2) (k : BitVec 3) (a b : BitVec 5) (st : State) : Out :=
  cmpRR (1#7 ++ s ++ x ++ k ++ a ++ b ++ 29#7) s k a b st fun x y => x.ule y

/-- CMPI_EQ (R116): Sets kD if gA equals the immediate -/
def execCmpiEq (s k : BitVec 3) (a : BitVec 5) (i : BitVec 12) (st : State) : Out :=
  cmpRI (10#7 ++ s ++ 0#2 ++ k ++ a ++ i) s k a i st fun x y => x == y

/-- CMPI_NE (R116): Sets kD if gA differs from the immediate -/
def execCmpiNe (s k : BitVec 3) (a : BitVec 5) (i : BitVec 12) (st : State) : Out :=
  cmpRI (10#7 ++ s ++ 1#2 ++ k ++ a ++ i) s k a i st fun x y => x != y

/-- CMPI_LT (R116): Sets kD if gA < immediate as s64 -/
def execCmpiLt (s k : BitVec 3) (a : BitVec 5) (i : BitVec 12) (st : State) : Out :=
  cmpRI (10#7 ++ s ++ 2#2 ++ k ++ a ++ i) s k a i st fun x y => x.slt y

/-- CMPI_LTN (R116): Sets kD if gA < immediate as n64 -/
def execCmpiLtn (s k : BitVec 3) (a : BitVec 5) (i : BitVec 12) (st : State) : Out :=
  cmpRI (10#7 ++ s ++ 3#2 ++ k ++ a ++ i) s k a i st fun x y => x.ult y

/-- ADDI (R117): Writes gA plus the immediate -/
def execAddi (s : BitVec 3) (d a : BitVec 5) (i : BitVec 12) (st : State) : Out :=
  aluI (3#7 ++ s ++ d ++ a ++ i) s d a i st fun x y => x + y

/-- ANDI (R117): Writes gA AND the immediate -/
def execAndi (s : BitVec 3) (d a : BitVec 5) (i : BitVec 12) (st : State) : Out :=
  aluI (4#7 ++ s ++ d ++ a ++ i) s d a i st fun x y => x &&& y

/-- ORI (R117): Writes gA OR the immediate -/
def execOri (s : BitVec 3) (d a : BitVec 5) (i : BitVec 12) (st : State) : Out :=
  aluI (5#7 ++ s ++ d ++ a ++ i) s d a i st fun x y => x ||| y

/-- XORI (R117): Writes gA XOR the immediate -/
def execXori (s : BitVec 3) (d a : BitVec 5) (i : BitVec 12) (st : State) : Out :=
  aluI (6#7 ++ s ++ d ++ a ++ i) s d a i st fun x y => x ^^^ y

/-- SHLI (R117): Shifts gA left by imm[5:0] -/
def execShli (s : BitVec 3) (d a : BitVec 5) (i : BitVec 12) (st : State) : Out :=
  aluI (7#7 ++ s ++ d ++ a ++ i) s d a i st shlW

/-- SHRI (R117): Shifts gA right logically by imm[5:0] -/
def execShri (s : BitVec 3) (d a : BitVec 5) (i : BitVec 12) (st : State) : Out :=
  aluI (8#7 ++ s ++ d ++ a ++ i) s d a i st shrW

/-- SARI (R117): Shifts gA right arithmetically by imm[5:0] -/
def execSari (s : BitVec 3) (d a : BitVec 5) (i : BitVec 12) (st : State) : Out :=
  aluI (9#7 ++ s ++ d ++ a ++ i) s d a i st sarW

/-- MUL (R118): Writes the low 64 bits of gA × gB -/
def execMul (s : BitVec 3) (d a b : BitVec 5) (st : State) : Out :=
  mulOp (2#7 ++ s ++ d ++ a ++ b ++ 0#7) s d a b st (· * ·)

/-- MULH (R118): Writes the high 64 bits of the signed product -/
def execMulh (s : BitVec 3) (d a b : BitVec 5) (st : State) : Out :=
  mulOp (2#7 ++ s ++ d ++ a ++ b ++ 1#7) s d a b st mulhS

/-- MULH_N (R118): Writes the high 64 bits of the unsigned product -/
def execMulhN (s : BitVec 3) (d a b : BitVec 5) (st : State) : Out :=
  mulOp (2#7 ++ s ++ d ++ a ++ b ++ 2#7) s d a b st mulhN

/-- DIV (R118): Starts a signed division of gA by gB, written later under interlock -/
def execDiv (s : BitVec 3) (d a b : BitVec 5) (st : State) : Out :=
  divOp (2#7 ++ s ++ d ++ a ++ b ++ 4#7) s d a b st divS

/-- DIV_N (R118): Starts an unsigned division of gA by gB -/
def execDivN (s : BitVec 3) (d a b : BitVec 5) (st : State) : Out :=
  divOp (2#7 ++ s ++ d ++ a ++ b ++ 5#7) s d a b st divN

/-- REM (R118): Starts a signed remainder of gA by gB -/
def execRem (s : BitVec 3) (d a b : BitVec 5) (st : State) : Out :=
  divOp (2#7 ++ s ++ d ++ a ++ b ++ 6#7) s d a b st remS

/-- REM_N (R118): Starts an unsigned remainder of gA by gB -/
def execRemN (s : BitVec 3) (d a b : BitVec 5) (st : State) : Out :=
  divOp (2#7 ++ s ++ d ++ a ++ b ++ 7#7) s d a b st remN

/-- BR (R120): Branches by off18 words when kK[0] XOR neg is 1 -/
def execBr (s k : BitVec 3) (n : BitVec 1) (o : BitVec 18) (st : State) : Out :=
  issue { word := (16#7 ++ s ++ k ++ n ++ o), stall := s.toNat, guarded := false, reads := [(.k, k.toNat)] } st fun z t =>
    let th := z.thread t
    if (th.readK k.toNat).getLsbD 0 != (n == 1) then .ok (z, .jump (branchTo th.pc (o.signExtend 64))) else .ok (z, .seq)

/-- JMP (R121): Jumps by off22 words -/
def execJmp (s : BitVec 3) (o : BitVec 22) (st : State) : Out :=
  issue { word := (17#7 ++ s ++ o), stall := s.toNat } st fun z t =>
    .ok (z, .jump (branchTo (z.thread t).pc (o.signExtend 64)))

/-- CALL (R121): Writes the link to g1 and jumps by off22 words -/
def execCall (s : BitVec 3) (o : BitVec 22) (st : State) : Out :=
  issue { word := (18#7 ++ s ++ o), stall := s.toNat } st fun z t =>
    let th := z.thread t
    .ok (z.setThread t (th.aluG 1 (th.pc + 4)), .jump (branchTo th.pc (o.signExtend 64)))

/-- JMPR (R122): Jumps to gA with bits [1:0] cleared -/
def execJmpr (s : BitVec 3) (d a b : BitVec 5) (st : State) : Out :=
  issue { word := (19#7 ++ s ++ d ++ a ++ b ++ 0#7), stall := s.toNat, reads := [(.g, a.toNat)] } st fun z t =>
    .ok (z, .jump ((z.thread t).readG a.toNat))

/-- CALLR (R122): Jumps to gA and writes the link to g1 -/
def execCallr (s : BitVec 3) (d a b : BitVec 5) (st : State) : Out :=
  issue { word := (19#7 ++ s ++ d ++ a ++ b ++ 1#7), stall := s.toNat, reads := [(.g, a.toNat)] } st fun z t =>
    let th := z.thread t
    .ok (z.setThread t (th.aluG 1 (th.pc + 4)), .jump (th.readG a.toNat))

/-- KAND (R177): ANDs two predicates -/
def execKand (s : BitVec 3) (d a b : BitVec 5) (st : State) : Out :=
  kOp (81#7 ++ s ++ d ++ a ++ b ++ 0#7) s [(.k, kix a), (.k, kix b)] true st fun t => t.putK (kix d) (t.readK (kix a) &&& t.readK (kix b)) 2 .alu

/-- KOR (R177): ORs two predicates -/
def execKor (s : BitVec 3) (d a b : BitVec 5) (st : State) : Out :=
  kOp (81#7 ++ s ++ d ++ a ++ b ++ 1#7) s [(.k, kix a), (.k, kix b)] true st fun t => t.putK (kix d) (t.readK (kix a) ||| t.readK (kix b)) 2 .alu

/-- KXOR (R177): XORs two predicates -/
def execKxor (s : BitVec 3) (d a b : BitVec 5) (st : State) : Out :=
  kOp (81#7 ++ s ++ d ++ a ++ b ++ 2#7) s [(.k, kix a), (.k, kix b)] true st fun t => t.putK (kix d) (t.readK (kix a) ^^^ t.readK (kix b)) 2 .alu

/-- KNOT (R177): Complements a predicate -/
def execKnot (s : BitVec 3) (d a b : BitVec 5) (st : State) : Out :=
  kOp (81#7 ++ s ++ d ++ a ++ b ++ 3#7) s [(.k, kix a)] true st fun t => t.putK (kix d) (t.readK (kix a) ^^^ 0xFFFF) 2 .alu

/-- KMOV_K (R177): Copies one predicate to another -/
def execKmovK (s : BitVec 3) (d a : BitVec 5) (x : BitVec 3) (st : State) : Out :=
  kOp (81#7 ++ s ++ d ++ a ++ x ++ 4#9) s [(.k, kix a)] true st fun t => t.putK (kix d) (t.readK (kix a)) 2 .alu

/-- KMOV_FROM_G (R177): Loads a predicate from gA[15:0] -/
def execKmovFromG (s : BitVec 3) (d a : BitVec 5) (x : BitVec 3) (st : State) : Out :=
  kOp (81#7 ++ s ++ d ++ a ++ x ++ 132#9) s [(.g, a.toNat)] true st fun t => t.putK (kix d) ((t.readG a.toNat).setWidth 16) 2 .alu

/-- KMOV_TO_G (R177): Writes a predicate zero-extended to gD -/
def execKmovToG (s : BitVec 3) (d a : BitVec 5) (x : BitVec 3) (st : State) : Out :=
  kOp (81#7 ++ s ++ d ++ a ++ x ++ 260#9) s [(.k, kix a)] true st fun t => t.aluG d.toNat ((t.readK (kix a)).setWidth 64)

/-- KPACK (R177): Packs k0 to k7 into lanes of a vector -/
def execKpack (s : BitVec 3) (d a b : BitVec 5) (st : State) : Out :=
  kOp (81#7 ++ s ++ d ++ a ++ b ++ 5#7) s ((List.range 8).map fun i => (RegFile.k, i)) true st fun t =>
    t.produce .v d.toNat maskV (ofLanes ((List.range 8).map fun i => (t.readK i).setWidth 32)) 2 .alu

/-- KUNPK (R177): Restores k1 to k7 from lanes of a vector -/
def execKunpk (s : BitVec 3) (d a b : BitVec 5) (st : State) : Out :=
  kOp (81#7 ++ s ++ d ++ a ++ b ++ 6#7) s [(.v, a.toNat)] true st fun t =>
    (List.range 7).foldl (fun x i => x.putK (i + 1) ((lane (t.readV a.toNat) (i + 1)).setWidth 16) 2 .alu) t

/-- KPOPC (R177): Counts the one bits of a predicate -/
def execKpopc (s : BitVec 3) (d a b : BitVec 5) (st : State) : Out :=
  kOp (81#7 ++ s ++ d ++ a ++ b ++ 7#7) s [(.k, kix a)] true st fun t => t.aluG d.toNat (BitVec.ofNat 64 (popcount ((t.readK (kix a)).setWidth 64)))

/-- HIMM (R45): Supplies immediate bits to the next I-format instruction of the chain -/
def execHimm (p : BitVec 25) (st : State) : Out :=
  issueHint st 0 fun t => t.addHint fun c => { c with himm := p :: c.himm }

/-- HMOD (R46): Supplies predicate and qualifier overrides to the chain's instruction -/
def execHmod (p r : BitVec 3) (t c : BitVec 2) (o : BitVec 3) (s : BitVec 4) (x : BitVec 8) (st : State) : Out :=
  if hmodFields r t o s then issueHint st 0 fun th => th.addHint fun y => { y with hmod := some (p ++ r ++ t ++ c ++ o ++ s ++ x) }
  else issue { word := (114#7 ++ p ++ r ++ t ++ c ++ o ++ s ++ x), stall := 0, legal := false, guarded := false } st (regBody id)

/-- HSCH (R47): Makes the thread ineligible for n cycles -/
def execHsch (_x : BitVec 16) (n : BitVec 8) (st : State) : Out :=
  issueHint st n.toNat fun t => { t with chain := none }

/-- HSCH_IDLE (R47): Makes the thread ineligible until a named unit is idle -/
def execHschIdle (x : BitVec 20) (u : BitVec 4) (st : State) : Out :=
  if u.toNat < 4 then
    let out := issueHint st 0 (fun th => { th.completeUnit (unitSel u.toNat) with chain := none }) fun th =>
      max (th.unitEnd (unitSel u.toNat)) (if u.toNat = 0 then th.vectorEnd else 0)
    if u.toNat = 3 ∧ tileHolds (st.core st.cur.core).tile st.cur.thr then
      match out with
      | .next z => .next (parkThere z z.cur .tileIdle)
      | o => o
    else out
  else issue { word := (113#7 ++ 1#1 ++ x ++ u), stall := 0, legal := false, guarded := false } st (regBody id)

/-- HNOP (R48): Takes an issue slot and discards pending hints -/
def execHnop (_x : BitVec 25) (st : State) : Out :=
  issueHint st 0 fun t => { t with chain := none }

/-- RESERVED_HINT (R48): A word of MAJ 0x74 to 0x7E executes as HNOP -/
def execReservedHint (_maj : BitVec 7) (_p : BitVec 25) (st : State) : Out :=
  issueHint st 0 fun t => { t with chain := none }

end Sys2Proof.Machine
end

