-- ==== Sys2Proof/Machine/Spoor.lean ====
section
/-! DEFINITION. The Spoor: records, breakpoints, stops, halts and the sampling pulse (25_spoor.md R387 to R400), and soft
errors of a core (22 R348). -/

namespace Sys2Proof.Machine

open Sys2Proof

/-! ## Records -/

/-- The die of a context's lowest virtual sett, to whose ring records of the whole context go (log 20). -/
def homeDie (s : State) (x : Nat) : Nat :=
  match (s.ctx x).setts with
  | p :: _ => (s.sett p.2).die
  | [] => match (s.ctx x).resSetts with
    | p :: _ => (s.sett p.2).die
    | [] => 0

def srcThread (s : State) (t : Tid) : Nat := sourceOf s (homeTid s t)

/-- Source kinds 1 to 7 (Table 1.5). -/
def srcKind (kind index : Nat) : Nat := kind * 131072 + index

/-- R391. -/
def markRecord (s : State) (t : Tid) (a b : Word) : State :=
  let x := ctxOf s t
  if bit (s.ctx x).spoor 1 then
    writeRecord s x (dieOf s t.core) 1 (srcThread s t) (gts s)
      (leBytes (s.thread t).chainStart.toNat 8 ++ leBytes a.toNat 8 ++ leBytes (b.toNat % 65536) 2 ++ leBytes 0 14)
  else s

/-- The banks that hold two or more of the words, and the degree: the most words in one bank (R182, R392). -/
def bankDegree (words : List Nat) : Nat :=
  let ws := addNew [] words
  (List.range 32).foldl (fun q b => max q (ws.filter fun w => w % 32 == b).length) 0
def bankMask (words : List Nat) : Nat :=
  let ws := addNew [] words
  (List.range 32).foldl (fun m b => if 2 ≤ (ws.filter fun w => w % 32 == b).length then m + 2 ^ b else m) 0

/-- R392: the bank-conflict record of an access to scratchpad words. -/
def bankRecord (s : State) (t : Tid) (peer : Bool) (words : List Nat) (cyc : Nat) : State :=
  let x := ctxOf s t
  let q := bankDegree words
  if bit (s.ctx x).spoor 2 && 2 ≤ q then
    writeRecord s x (dieOf s t.core) 2 (srcThread s t) (gts (advanceTo s (dieOf s t.core) cyc))
      (leBytes (s.thread t).chainStart.toNat 8 ++ leBytes (bankMask words) 4 ++ leBytes q 1 ++ leBytes (if peer then 1 else 0) 1 ++ leBytes 0 2)
  else s

/-- R396: the stop record of a thread. -/
def stopRecord (s : State) (t : Tid) (n : Nat) : State :=
  writeRecord s (ctxOf s t) (dieOf s t.core) 4 (srcThread s t) (gts s) (leBytes (s.thread t).chainStart.toNat 8 ++ leBytes n 1 ++ leBytes 0 7)

/-- R396: the record of a halt or run of a context. -/
def runRecord (s : State) (x n : Nat) : State :=
  writeRecord s x (homeDie s x) 6 (srcKind 7 0) (gts s) (leBytes n 1 ++ leBytes 0 15)

/-- R390: the physical place of a virtual core. DESIGN CHOICE (log 67): a die numbers the cores of its enabled setts, 0 to 1,151, and
the spare setts of R10 have no number; a folded pair runs on the first of its two (R360). -/
def placeWord (s : State) (core : Nat) : Nat :=
  let p := (s.sett (settOf core)).place.getD 0
  let i := core % 8
  p % 144 * 8 + (if (s.core core).folded then i / 2 * 2 else i) + 2048 * (p / 144) + if (s.core core).foldHigh then 8192 else 0

/-- R390: a placement record of the virtual cores vc0 to vc0 + n − 1 of a context. -/
def placementRecord (s : State) (x vc0 n : Nat) : State :=
  if bit (s.ctx x).spoor 4 && 0 < n then
    let body := leBytes vc0 2 ++ leBytes n 2 ++ leBytes 0 4 ++
      ((List.range n).map fun j => leBytes (match coreOfVc s x (vc0 + j) with | some c => placeWord s c | none => 0) 4).flatten
    writeRecord s x (homeDie s x) 5 (srcKind 7 0) (gts s) (body ++ List.replicate ((16 - body.length % 16) % 16) 0)
  else s

/-- Placement records of every launch of a context, after its placement has changed. -/
def placementRecords (s : State) (x : Nat) : State :=
  s.launches.foldl (fun s l => if l.2.ctx == x then placementRecord s x l.2.vc0 l.2.nvc else s) s

/-! ## Halts -/

/-- The threads of a context: those of its cores, and T13 where it is the resident context. -/
def threadsOf (s : State) (x : Nat) : List Tid :=
  (s.cores.map fun e => (List.range 16).filterMap fun i =>
    if ctxOf s ⟨e.1, i⟩ == x && (e.2.launch.isSome || (i == 13 && e.2.resLaunch.isSome)) then some ⟨e.1, i⟩ else none).flatten

/-- R397: every thread of a context halts; a chain in progress is finished first. -/
def haltContext (s : State) (x : Nat) : State :=
  let s := (threadsOf s x).foldl (fun s t =>
    let th := s.thread t
    if th.run = .dormant ∨ th.halted.isSome then s else s.setThread t { th with halted := some 10 }) s
  runRecord (settleHolds (s.setCtx x { s.ctx x with haltedAll := true })) x 0

/-- R396: a thread stops at its chain. -/
def haltAt (s : State) (t : Tid) (n : Nat) : State :=
  let s := stopRecord s t n
  let s := s.setThread t { (s.thread t).rewind with halted := some n, passBreak := false, passBrk := false, stepOne := false, scGo := false }
  if n ≠ 9 ∧ bit (s.ctx (ctxOf s t)).spoor 6 then haltContext s (ctxOf s t) else s

/-! ## Breakpoints (R395) -/

/-- Whether an entry names a thread at a chain, its COND and COUNT apart. -/
def Breakpoint.names (b : Breakpoint) (vc thr : Nat) (pc : Word) : Bool :=
  b.cond.getLsbD 7 && b.pc == pc && decide (b.first ≤ vc) && decide (vc < b.first + b.count) && b.thrMask.getLsbD thr

/-- The entries after a chain has been met, and the first entry that matches: n is the entry's number. -/
def matchEntries (vc thr : Nat) (th : Thread) : Nat → List Breakpoint → List Breakpoint × Option Nat
  | _, [] => ([], none)
  | n, b :: bs =>
    let r := matchEntries vc thr th (n + 1) bs
    if b.names vc thr th.pc then
      match b.cond.toNat % 4 with
      | 0 => (b :: r.1, some n)
      | 1 => if b.counter = 1 then (b :: r.1, some n) else ({ b with counter := (b.counter + 2 ^ 32 - 1) % 2 ^ 32 } :: r.1, r.2)
      | 2 => if th.readG b.reg = b.value then (b :: r.1, some n) else (b :: r.1, r.2)
      | _ => (b :: r.1, r.2)
    else (b :: r.1, r.2)

/-- What the breakpoints do with the chain that a thread is about to issue. -/
def breakCheck (s : State) (t : Tid) : State × Option Nat :=
  let x := ctxOf s t
  let c := s.ctx x
  let h := homeTid s t
  let th := s.thread t
  if bit c.spoor 5 && th.chain.isNone && !th.passBreak && s.meth.isNone then
    let r := matchEntries (vcIn s x h.core) h.thr th 0 c.bps.toList
    (s.setCtx x { c with bps := r.1.foldl (fun (v : Vector Breakpoint 8 × Nat) b => (v.1.setIfInBounds v.2 b, v.2 + 1)) (c.bps, 0) |>.1 }, r.2)
  else (s, none)

/-- What a thread does whose chain has matched entry n: it stops, or waits to be protected (R396). -/
def breakStop (s : State) (t : Tid) (n : Nat) : State :=
  if speculative s t then park s t false .protect else haltAt s t n

/-! ## Sampling (R393, R394) -/

/-- Table 25.3 for a thread of a context. -/
def sampleState (s : State) (t : Tid) : Nat :=
  let th := s.thread t
  let c := s.core t.core
  if th.halted.isSome then 7
  else match th.run with
  | .dormant | .idle _ _ | .idleAlways => 6
  | .ready =>
    let cyc := dieCycle s (dieOf s t.core)
    if displaced c t.thr && t.thr != 15 then 6
    else if cyc < th.stallEnd then 1
    else if cyc < th.readyAt then 2
    else if cyc < eligibleAt s t then 1 else 0
  | .parkedPage _ => 3
  -- an `HSCH` wait is a stall (Table 6.2)
  | .parkedEngine .tileIdle _ => 1
  | .parkedEngine _ _ | .held => 4
  | .parkedSync _ _ => 5

/-- A thread's PC in a sample; none for a dormant context or one of another context. A migrated thread is latched at its home. -/
def samplePc (s : State) (x : Nat) (t : Tid) : Option Word :=
  let th := s.thread t
  if ctxOf s t ≠ x ∨ th.run = .dormant ∨ th.homeOf.isSome then none
  else match th.awayAt with
    | some a => some (s.thread a).chainStart
    | none => some th.chainStart

def sampleCode (s : State) (x : Nat) (t : Tid) : Nat :=
  let th := s.thread t
  if ctxOf s t ≠ x ∨ th.homeOf.isSome then 6
  else match th.awayAt with
    | some a => sampleState s a
    | none => sampleState s t

/-- Table 25.4: the sample record of a pulse at tick g: a context's cores (virtual core, core) on a die. -/
def sampleRecord (s : State) (x die g : Nat) (cs : List (Nat × Nat)) : State :=
  match cs with
  | [] => s
  | (lo, _) :: _ =>
    let pcs : List Word := cs.foldl (fun acc c => (List.range 16).foldl (fun (acc : List Word) i =>
      match samplePc s x ⟨c.2, i⟩ with
      | some p => if acc.contains p then acc else acc ++ [p]
      | none => acc) acc) []
    let wide := 255 < pcs.length
    let n := if wide then 2 else 1
    let core (c : Nat × Nat) : List Byte :=
      leBytes c.1 2 ++ leBytes ((List.range 16).foldl (fun m i => m + 8 ^ i * sampleCode s x ⟨c.2, i⟩) 0) 6 ++
      ((List.range 16).map fun i => leBytes (match samplePc s x ⟨c.2, i⟩ with | some p => pcs.idxOf p | none => 65535) n).flatten
    let body := leBytes cs.length 2 ++ leBytes pcs.length 2 ++
      leBytes ((if wide then 1 else 0) + if (s.die die).runs s.now then 0 else 2) 1 ++ leBytes die 1 ++ leBytes 0 2 ++
      (pcs.map fun p => leBytes p.toNat 8).flatten ++ (cs.map core).flatten
    writeRecord s x die 3 (lo * 16) g (body ++ List.replicate ((16 - body.length % 16) % 16) 0)

/-- The cores of a context on a die, in ascending virtual core number; of a resident context those whose T13 it has. -/
def coresOnDie (s : State) (x die : Nat) : List (Nat × Nat) :=
  (((((s.ctx x).setts ++ (s.ctx x).resSetts).filter fun p => (s.sett p.2).place.isSome && (s.sett p.2).die == die).map fun p =>
    (List.range 8).map fun i => (p.1 * 8 + i, p.2 * 8 + i)).flatten)

/-! ## Registers of a halted thread (R396) -/

/-- Control registers by the numbers of the model's debug access (log 21): the pc, the seven of Table 3.9, the segments. -/
def debugControl (th : Thread) (r : Nat) : Word :=
  match r with
  | 0 => th.chainStart
  | 1 => th.tctl
  | 2 => th.cause
  | 3 => th.epc
  | 4 => th.eval
  | 5 => th.tvec
  | 6 => th.escr
  | 7 => th.fflags
  | _ => if r % 2 = 0 then th.segBase.toList.getD ((r - 8) / 2) 0 else th.segLimit.toList.getD ((r - 8) / 2) 0

def setDebugControl (th : Thread) (r : Nat) (x : Word) : Thread :=
  match r with
  | 0 => { th with pc := x &&& ~~~3#64, chain := none }
  | 1 => { th with tctl := x &&& 0x77 }
  | 2 => { th with cause := x &&& 0xC0FF }
  | 3 => { th with epc := x &&& ~~~3#64 }
  | 4 => { th with eval := x }
  | 5 => { th with tvec := x &&& ~~~3#64 }
  | 6 => { th with escr := x }
  | 7 => { th with fflags := x &&& 0xFF }
  | _ =>
    if 24 ≤ r then th
    else if r % 2 = 0 then { th with segBase := th.segBase.setIfInBounds ((r - 8) / 2) (x &&& 0xFF00FFFFFFFFFFFF) }
    else { th with segLimit := th.segLimit.setIfInBounds ((r - 8) / 2) (x &&& 0xFFFFFFFFFFFF) }

def debugRead (th : Thread) (f r : Nat) : Vec :=
  match f with
  | 0 => (th.finalG r).setWidth 512
  | 1 => th.finalV r
  | 2 => (th.finalK (r % 8)).setWidth 512
  | _ => (debugControl th r).setWidth 512

def debugWrite (th : Thread) (f r : Nat) (x : Vec) : Thread :=
  let th := th.complete
  match f with
  | 0 => if r = 0 then th else { th with g := th.g.setIfInBounds r (x.setWidth 64) }
  | 1 => { th with v := th.v.setIfInBounds r x }
  | 2 => if r % 8 = 0 then th else { th with k := th.k.setIfInBounds (r % 8) (x.setWidth 16) }
  | _ => setDebugControl th r (x.setWidth 64)

/-- A breakpoint entry from its 32 bytes (Table 25.5). -/
def breakpointOf (b : List Byte) : Breakpoint :=
  ⟨BitVec.ofNat 64 (blkNat b 0 8) &&& ~~~3#64, blkNat b 8 2 % 8192, blkNat b 10 2, BitVec.ofNat 16 (blkNat b 12 2),
   BitVec.ofNat 8 (blkNat b 14 1) &&& 0x83, blkNat b 15 1 % 32, blkNat b 16 4, BitVec.ofNat 64 (blkNat b 24 8)⟩

/-- A live context exists under a number. -/
def isContext (s : State) (x : Nat) : Bool := (s.contexts.find? x).isSome

/-- SAMPLE is set, with an interval that Table 25.1 allows. -/
def pulses (c : Context) : Bool := bit c.spoor 3 && 1024 ≤ field c.spoor 63 32 && field c.spoor 63 32 % 1024 == 0

/-- SAMPLING_PULSE (R393): At each multiple of SAMPLEN every core latches thread PCs and states and writes sample records -/
def execSamplingPulse (ctx : Nat) (st : State) : Out :=
  let n := field (st.ctx ctx).spoor 63 32
  if isContext st ctx && pulses (st.ctx ctx) then
    let g := (st.ctx ctx).pulseAt
    let z := advanceGts st g
    let z := (List.range 4).foldl (fun z d => sampleRecord z ctx d g (coresOnDie z ctx d)) z
    .next (lapse (z.setCtx ctx { z.ctx ctx with pulseAt := g + n }))
  else .next st

/-- BREAKPOINT_MATCH (R395): A thread about to issue a matching chain halts instead -/
def execBreakpointMatch (c t : Nat) (st : State) : Out :=
  let id : Tid := ⟨c, t⟩
  match breakCheck st id with
  | (z, some n) => if (z.thread id).run = .ready ∧ (z.thread id).halted.isNone then .next (lapse (breakStop z id n)) else .next st
  | _ => .next st

/-- RUN (R396): A debugger command returns halted threads to rotation -/
def execDebugRun (ctx : Nat) (st : State) : Out :=
  if isContext st ctx then
    let z := (threadsOf st ctx).foldl (fun z t =>
      let th := z.thread t
      match th.halted with
      | some n => unhalt (z.setThread t { th with passBreak := decide (n ≤ 8), passBrk := n == 8, stepOne := false }) t
      | none => z) st
    .next (lapse (runRecord (settleHolds (z.setCtx ctx { z.ctx ctx with haltedAll := false })) ctx 1))
  else .next st

/-- STEP (R396): A debugger command lets one halted thread issue one chain -/
def execDebugStep (c t : Nat) (st : State) : Out :=
  let th := st.thread ⟨c, t⟩
  if th.halted.isSome then .next (lapse (unhalt (st.setThread ⟨c, t⟩ { th with passBreak := true, passBrk := th.halted == some 8, stepOne := true }) ⟨c, t⟩)) else .next st

/-- HALT (R397): A debugger command halts a whole context -/
def execDebugHalt (ctx : Nat) (st : State) : Out :=
  if isContext st ctx then .next (lapse (haltContext st ctx)) else .next st

/-- SPOOR_CONTROL_WRITE (R387): The root writes a context's Spoor control block or breakpoints -/
def execSpoorControlWrite (ctx index : Nat) (image : List (BitVec 8)) (st : State) : Out :=
  if isContext st ctx then
    let x := st.ctx ctx
    let z :=
      if index < 8 then st.setCtx ctx { x with bps := x.bps.setIfInBounds index (breakpointOf image) }
      else if index = 8 then
        let w := BitVec.ofNat 64 (blkNat image 0 8) &&& 0xFFFFFFFF000000FE
        let n := field w 63 32
        settleHolds (st.setCtx ctx { x with
          spoor := w
          pulseAt := if n = field x.spoor 63 32 ∧ bit x.spoor 3 then x.pulseAt else (gts st / n + 1) * n })
      else if index < 13 then
        -- R388: a multiple of 4 KiB from 4 KiB to 1 GiB, inside the flattened ranges; the header is then as software leaves it
        let r : Ring := ⟨blkNat image 0 8, blkNat image 8 8⟩
        if r.len % 4096 = 0 ∧ r.len ≤ 2 ^ 30 then st.setCtx ctx { x with rings := x.rings.setIfInBounds (index - 9) r } else st
      else st
    .next (lapse z)
  else .next st

/-- DEBUG_REGISTER_ACCESS (R396): The debugger reads or writes a halted thread's registers through the root service -/
def execDebugRegisterAccess (c t : Nat) (file : BitVec 2) (reg : BitVec 5) (value : Option (BitVec 512)) (st : State) : Out :=
  let th := st.thread ⟨c, t⟩
  if th.halted.isNone then .next st
  else match value with
    | some x => .next (lapse (st.setThread ⟨c, t⟩ (debugWrite th file.toNat reg.toNat x)))
    | none => .next (lapse { st with reports := st.reports ++ [leBytes (debugRead th file.toNat reg.toNat).toNat 64] })

/-- CORE_SOFT_ERROR (R348): An uncorrectable soft error found in a thread's registers or core state becomes a pending asynchronous trap -/
def execCoreSoftError (c t : Nat) (file : BitVec 2) (reg : BitVec 5) (st : State) : Out :=
  if (st.thread ⟨c, t⟩).run = .dormant then .next st
  else .next (lapse (pendTrap st ⟨c, t⟩ (srcThread st ⟨c, t⟩) cCORE_SOFT_ERROR (BitVec.ofNat 64 (reg.toNat + 32 * file.toNat))))

end Sys2Proof.Machine
end

