-- ==== Sys2Proof/Machine/Memory.lean ====
section
/-! DEFINITION. Loads, stores, atomics, fences, waits on memory, signal objects, posted stores, migration, mailbox registers and
the scale table (08_core_memory.md R136 to R150, R155, R156, R160 to R163; 05 R77 to R90). -/

namespace Sys2Proof.Machine

open Sys2Proof

/-- Order codes (Table 3.1): 0 plain, 1 acquire, 2 release, 3 SC. -/
def isRelease (ord : Nat) : Bool := ord == 2 || ord == 3

/-- R81: an SC event is announced, and completes when its window has closed. -/
def scGate (s : State) (t : Tid) (ord : Nat) : Except Stop Unit :=
  let th := s.thread t
  if ord == 3 && s.meth.isNone && !th.scGo then .error (.park true (.window (gts s / 16) ((th.pc - th.chainStart).toNat / 4))) else .ok ()

/-- What a release is ordered after has been performed (R78). -/
def releasePoint (s : State) (t : Tid) (ord : Nat) : State := if isRelease ord then drainPosted s t else s

/-- R136, R137: a load into a g register. -/
def loadBody (d : Nat) (addr : Thread → Word) (size ord : Nat) (align signed : Bool) : Body := fun s t => do
  let a := addr (s.thread t)
  let k ← access s t a size rRD align none
  scGate s t ord
  let r ← loadAt s t k.1 k.2
  let n := leNat r.2
  let x := if signed ∧ 2 ^ (8 * size - 1) ≤ n then BitVec.ofInt 64 ((n : Int) - (2 : Int) ^ (8 * size)) else BitVec.ofNat 64 n
  return (r.1.setThread t ((r.1.thread t).putG d x), .seq)

/-- R136, R137: a store of a g register. -/
def storeBody (r : Nat) (addr : Thread → Word) (size ord : Nat) (align : Bool) : Body := fun s t => do
  let th := s.thread t
  let a := addr th
  let k ← access s t a size rWR align none
  scGate s t ord
  let s := releasePoint s t ord
  let s ← storeAt s t k.1 k.2 (leBytes (th.readG r).toNat size)
  return (s, .seq)

/-- The address of an M-format access (R36, R136). -/
def mAddr (a : BitVec 5) (z : BitVec 2) (o : BitVec 10) (t : Thread) : Word := t.readG a.toNat + (o.signExtend 64 <<< z.toNat)

def ldM (w : BitVec 32) (s : BitVec 3) (d a : BitVec 5) (z : BitVec 2) (o : BitVec 10) (signed : Bool) (st : State) : Out :=
  let th := st.thread st.cur
  issue { word := w, stall := s.toNat, legal := decide (th.ordMod ≠ 2), reads := [(.g, a.toNat)], delay := ownDelay st [mAddr a z o th] } st
    (loadBody d.toNat (mAddr a z o) (2 ^ z.toNat) th.ordMod false signed)

/-! ## Atomics (R143, R144) -/

/-- A number of `size` bytes as signed. -/
def asInt (size n : Nat) : Int := if 2 ^ (8 * size - 1) ≤ n then (n : Int) - (2 : Int) ^ (8 * size) else n

/-- The operations that `AMO` and `AOP` share, by their sub code (Table 3.5). -/
def amoOp (op size old x : Nat) : Nat :=
  let m := 2 ^ (8 * size)
  match op with
  | 0 => (old + x) % m
  | 1 => Nat.land old x
  | 2 => Nat.lor old x
  | 3 => Nat.xor old x
  | 4 => if asInt size x < asInt size old then x else old
  | 5 => if asInt size old < asInt size x then x else old
  | 6 => if x < old then x else old
  | 7 => if old < x then x else old
  | 8 => x
  | _ => (addF fp32 0 (decodeF fp32 old) (decodeF fp32 x)).1

/-- The effect of an atomic on the word at gA: f is given the old value. -/
def amoBody (d a size ord scope : Nat) (f : Thread → Nat → Option Nat) : Body := fun s t => do
  let th := s.thread t
  let addr := th.readG a
  let _ ← access s t addr size rAMO true (some (awayScope s t scope, false))
  scGate s t ord
  let s := releasePoint s t ord
  let r ← rmw s t addr size scope (f th)
  return (r.1.setThread t ((r.1.thread t).putG d (BitVec.ofNat 64 r.2)), .seq)

def amo (w : BitVec 32) (op : Nat) (legal : Bool) (s : BitVec 3) (t a : BitVec 5) (z : BitVec 3) (r : BitVec 2) (c : BitVec 3) (st : State) : Out :=
  let size := 2 ^ z.toNat
  issue { word := w, stall := s.toNat, legal := legal, reads := [(.g, t.toNat), (.g, a.toNat)], delay := ownDelay st [(st.thread st.cur).readG a.toNat] } st
    (amoBody t.toNat a.toNat size r.toNat c.toNat fun th old => some (amoOp op size old ((th.readG t.toNat).toNat % 2 ^ (8 * size))))

/-! ## Fences (R146) -/

/-- Kinds ld-ld 0 to all 4: one that orders stores first performs the posted stores, each ends what a copy may see as not yet made,
and st-ld and all are SC events. -/
def fence (w : BitVec 32) (kind : Nat) (s : BitVec 3) (c : BitVec 3) (st : State) : Out :=
  issue { word := w, stall := s.toNat, legal := decide (c.toNat < 7) } st fun z t => do
    scGate z t (if kind = 2 ∨ kind = 4 then 3 else 0)
    return (if 2 ≤ kind then drainPosted z t else orderStores z t, .seq)

/-! ## The stack (R106) -/

/-- Bytes of the stack that segment 7 holds, if it is a stack; 4 KiB in method mode (Table 18.6). -/
def stackLimit (s : State) (v : View) : Option Nat :=
  match s.meth with
  | some _ => some 4096
  | none => if field (v.segBase.toList.getD 7 0) 63 60 = 7 then some (field (v.segLimit.toList.getD 7 0) 47 0) else none

/-- An offset that no frame may reach: there is no stack, or it ends before (R106). -/
def beyondStack (s : State) (v : View) (off : Nat) : Bool :=
  match stackLimit s v with
  | some n => decide (n < off)
  | none => true

/-! ## The scale table (R65, R163) -/

/-- Writes scale-table entry e mod 256. -/
def VCore.setScale (c : VCore) (e : Nat) (x : BitVec 40) : VCore := { c with scale := KMap.put 0 c.scale (e % 256) x }
def VCore.scaleAt (c : VCore) (e : Nat) : BitVec 40 := KMap.getD c.scale (e % 256) 0

/-- The entry of block code b under S (R62, R163). -/
def scaleEntry (S : BitVec 32) (b : Nat) : BitVec 40 :=
  let v := decodeF fp32 S.toNat
  if 255 ≤ b ∨ (b ≤ 253 ∧ (v.isNan || v.isInf)) then 0x300000000
  else if b = 254 then 0x200000000
  else 0x100000000 ||| BitVec.ofNat 40 (blockScale S.toNat b)

/-- LD (R136): Loads a zero-extended value of 1 to 8 bytes -/
def execLd (s : BitVec 3) (t a : BitVec 5) (z : BitVec 2) (o : BitVec 10) (st : State) : Out :=
  ldM (32#7 ++ s ++ t ++ a ++ z ++ o) s t a z o false st

/-- LD_S (R136): Loads a sign-extended value of 1 to 8 bytes -/
def execLdS (s : BitVec 3) (t a : BitVec 5) (z : BitVec 2) (o : BitVec 10) (st : State) : Out :=
  ldM (41#7 ++ s ++ t ++ a ++ z ++ o) s t a z o true st

/-- ST (R136): Stores 1 to 8 bytes of gT -/
def execSt (s : BitVec 3) (t a : BitVec 5) (z : BitVec 2) (o : BitVec 10) (st : State) : Out :=
  let th := st.thread st.cur
  issue { word := (33#7 ++ s ++ t ++ a ++ z ++ o), stall := s.toNat, legal := decide (th.ordMod ≠ 1), reads := [(.g, t.toNat), (.g, a.toNat)] } st
    (storeBody t.toNat (mAddr a z o) (2 ^ z.toNat) th.ordMod false)

/-- PFT (R139): Hints that a line be brought closer; never faults -/
def execPft (s : BitVec 3) (t a : BitVec 5) (z : BitVec 2) (o : BitVec 10) (st : State) : Out :=
  issue { word := (36#7 ++ s ++ t ++ a ++ z ++ o), stall := s.toNat, reads := [(.g, a.toNat)] } st (regBody id)

/-- LDO (R137): Performs an aligned load with its own order, scope and cache fields -/
def execLdo (s : BitVec 3) (t a : BitVec 5) (z : BitVec 3) (r : BitVec 2) (c : BitVec 3) (u : BitVec 4) (st : State) : Out :=
  issue { word := (34#7 ++ s ++ t ++ a ++ z ++ r ++ c ++ u), stall := s.toNat, legal := moFields z c && r.toNat != 2 && decide (u.toNat < 3), reads := [(.g, a.toNat)], delay := ownDelay st [(st.thread st.cur).readG a.toNat] } st
    (loadBody t.toNat (fun th => th.readG a.toNat) (2 ^ z.toNat) r.toNat true false)

/-- STO (R137): Performs an aligned store with its own order, scope and cache fields -/
def execSto (s : BitVec 3) (t a : BitVec 5) (z : BitVec 3) (r : BitVec 2) (c : BitVec 3) (u : BitVec 4) (st : State) : Out :=
  issue { word := (35#7 ++ s ++ t ++ a ++ z ++ r ++ c ++ u), stall := s.toNat, legal := moFields z c && r.toNat != 1 && decide (u.toNat < 3), reads := [(.g, t.toNat), (.g, a.toNat)] } st
    (storeBody t.toNat (fun th => th.readG a.toNat) (2 ^ z.toNat) r.toNat true)

/-- ENTER (R106): Allocates a stack frame of n bytes or raises STACK_LIMIT -/
def execEnter (s : BitVec 3) (d a : BitVec 5) (i : BitVec 12) (st : State) : Out :=
  issue { word := (37#7 ++ s ++ d ++ a ++ i), stall := s.toNat, reads := [(.g, 2)] } st fun z t =>
    let th := z.thread t
    let v := viewOf z t
    let n := if th.himm.isEmpty then BitVec.ofNat 64 i.toNat else th.imm i
    let g2 := th.readG 2
    let off := field g2 60 0
    if n.toInt < 0 then .error (.trap cOPERAND_RANGE n)
    else if field g2 63 61 ≠ 7 ∨ beyondStack z v (off + n.toNat * 64) then
      .error (.trap cSTACK_LIMIT (BitVec.ofNat 64 (off + n.toNat * 64)))
    else .ok (z.setThread t (th.aluG 2 (g2 + n * 64)), .seq)

/-- LEAVE (R106): Releases a stack frame of n bytes -/
def execLeave (s : BitVec 3) (d a : BitVec 5) (i : BitVec 12) (st : State) : Out :=
  issue { word := (38#7 ++ s ++ d ++ a ++ i), stall := s.toNat, reads := [(.g, 2)] } st fun z t =>
    let th := z.thread t
    let n := if th.himm.isEmpty then BitVec.ofNat 64 i.toNat else th.imm i
    let g2 := th.readG 2
    let off := field g2 60 0
    if n.toInt < 0 then .error (.trap cOPERAND_RANGE n)
    else if off < n.toNat * 64 then .error (.trap cSTACK_LIMIT (BitVec.ofNat 64 off - n * 64))
    else .ok (z.setThread t (th.aluG 2 (g2 - n * 64)), .seq)

/-- AMO_ADD (R143): Atomically adds gT to memory and returns the old value -/
def execAmoAdd (s : BitVec 3) (t a : BitVec 5) (z : BitVec 3) (r : BitVec 2) (c : BitVec 3) (st : State) : Out :=
  amo (39#7 ++ s ++ t ++ a ++ z ++ r ++ c ++ 0#4) 0 (moFields z c && atomicSize z) s t a z r c st

/-- AMO_AND (R143): Atomically ANDs gT into memory -/
def execAmoAnd (s : BitVec 3) (t a : BitVec 5) (z : BitVec 3) (r : BitVec 2) (c : BitVec 3) (st : State) : Out :=
  amo (39#7 ++ s ++ t ++ a ++ z ++ r ++ c ++ 1#4) 1 (moFields z c && atomicSize z) s t a z r c st

/-- AMO_OR (R143): Atomically ORs gT into memory -/
def execAmoOr (s : BitVec 3) (t a : BitVec 5) (z : BitVec 3) (r : BitVec 2) (c : BitVec 3) (st : State) : Out :=
  amo (39#7 ++ s ++ t ++ a ++ z ++ r ++ c ++ 2#4) 2 (moFields z c && atomicSize z) s t a z r c st

/-- AMO_XOR (R143): Atomically XORs gT into memory -/
def execAmoXor (s : BitVec 3) (t a : BitVec 5) (z : BitVec 3) (r : BitVec 2) (c : BitVec 3) (st : State) : Out :=
  amo (39#7 ++ s ++ t ++ a ++ z ++ r ++ c ++ 3#4) 3 (moFields z c && atomicSize z) s t a z r c st

/-- AMO_MIN (R143): Atomically keeps the signed minimum -/
def execAmoMin (s : BitVec 3) (t a : BitVec 5) (z : BitVec 3) (r : BitVec 2) (c : BitVec 3) (st : State) : Out :=
  amo (39#7 ++ s ++ t ++ a ++ z ++ r ++ c ++ 4#4) 4 (moFields z c && atomicSize z) s t a z r c st

/-- AMO_MAX (R143): Atomically keeps the signed maximum -/
def execAmoMax (s : BitVec 3) (t a : BitVec 5) (z : BitVec 3) (r : BitVec 2) (c : BitVec 3) (st : State) : Out :=
  amo (39#7 ++ s ++ t ++ a ++ z ++ r ++ c ++ 5#4) 5 (moFields z c && atomicSize z) s t a z r c st

/-- AMO_MINN (R143): Atomically keeps the unsigned minimum -/
def execAmoMinn (s : BitVec 3) (t a : BitVec 5) (z : BitVec 3) (r : BitVec 2) (c : BitVec 3) (st : State) : Out :=
  amo (39#7 ++ s ++ t ++ a ++ z ++ r ++ c ++ 6#4) 6 (moFields z c && atomicSize z) s t a z r c st

/-- AMO_MAXN (R143): Atomically keeps the unsigned maximum -/
def execAmoMaxn (s : BitVec 3) (t a : BitVec 5) (z : BitVec 3) (r : BitVec 2) (c : BitVec 3) (st : State) : Out :=
  amo (39#7 ++ s ++ t ++ a ++ z ++ r ++ c ++ 7#4) 7 (moFields z c && atomicSize z) s t a z r c st

/-- AMO_SWAP (R143): Atomically swaps gT with memory -/
def execAmoSwap (s : BitVec 3) (t a : BitVec 5) (z : BitVec 3) (r : BitVec 2) (c : BitVec 3) (st : State) : Out :=
  amo (39#7 ++ s ++ t ++ a ++ z ++ r ++ c ++ 8#4) 8 (moFields z c && atomicSize z) s t a z r c st

/-- AMO_FADD (R143): Atomically adds gT to an FP32 word under RNE -/
def execAmoFadd (s : BitVec 3) (t a : BitVec 5) (z : BitVec 3) (r : BitVec 2) (c : BitVec 3) (st : State) : Out :=
  amo (39#7 ++ s ++ t ++ a ++ z ++ r ++ c ++ 9#4) 9 (moFields z c && z.toNat == 2) s t a z r c st

/-- CAS (R144): Compares memory with gT and, if equal, writes g(T+1) -/
def execCas (s : BitVec 3) (t a : BitVec 5) (z : BitVec 3) (r : BitVec 2) (c : BitVec 3) (st : State) : Out :=
  let size := 2 ^ z.toNat
  issue { word := (40#7 ++ s ++ t ++ a ++ z ++ r ++ c ++ 0#4), stall := s.toNat, legal := moFields z c && atomicSize z && t.toNat != 31, reads := [(.g, t.toNat), (.g, t.toNat + 1), (.g, a.toNat)], delay := ownDelay st [(st.thread st.cur).readG a.toNat] } st
    (amoBody t.toNat a.toNat size r.toNat c.toNat fun th old =>
      if old = (th.readG t.toNat).toNat % 2 ^ (8 * size) then some ((th.readG (t.toNat + 1)).toNat % 2 ^ (8 * size)) else none)

/-- FENCE_LDLD (R146): Orders earlier loads before later loads at a scope -/
def execFenceLdld (s : BitVec 3) (t a : BitVec 5) (r : BitVec 2) (c : BitVec 3) (st : State) : Out :=
  fence (48#7 ++ s ++ t ++ a ++ 0#3 ++ r ++ c ++ 0#4) 0 s c st

/-- FENCE_LDST (R146): Orders earlier loads before later stores -/
def execFenceLdst (s : BitVec 3) (t a : BitVec 5) (r : BitVec 2) (c : BitVec 3) (st : State) : Out :=
  fence (48#7 ++ s ++ t ++ a ++ 1#3 ++ r ++ c ++ 0#4) 1 s c st

/-- FENCE_STLD (R146): Orders earlier stores before later loads, as an SC event -/
def execFenceStld (s : BitVec 3) (t a : BitVec 5) (r : BitVec 2) (c : BitVec 3) (st : State) : Out :=
  fence (48#7 ++ s ++ t ++ a ++ 2#3 ++ r ++ c ++ 0#4) 2 s c st

/-- FENCE_STST (R146): Orders earlier stores before later stores -/
def execFenceStst (s : BitVec 3) (t a : BitVec 5) (r : BitVec 2) (c : BitVec 3) (st : State) : Out :=
  fence (48#7 ++ s ++ t ++ a ++ 3#3 ++ r ++ c ++ 0#4) 3 s c st

/-- FENCE_ALL (R146): Orders every earlier access before every later one, as an SC event -/
def execFenceAll (s : BitVec 3) (t a : BitVec 5) (r : BitVec 2) (c : BitVec 3) (st : State) : Out :=
  fence (48#7 ++ s ++ t ++ a ++ 4#3 ++ r ++ c ++ 0#4) 4 s c st

/-- WAITA (R147): Reads a location and parks until it differs from gT -/
def execWaita (s : BitVec 3) (t a : BitVec 5) (z : BitVec 3) (r : BitVec 2) (c : BitVec 3) (st : State) : Out :=
  let size := 2 ^ z.toNat
  issue { word := (50#7 ++ s ++ t ++ a ++ z ++ r ++ c ++ 0#4), stall := s.toNat, legal := moFields z c && r.toNat != 2, reads := [(.g, t.toNat), (.g, a.toNat)], cls := .irrev } st fun z' id => do
    let th := z'.thread id
    let k ← access z' id (th.readG a.toNat) size rRD true (some (awayScope z' id c.toNat, true))
    scGate z' id r.toNat
    let q ← loadAt z' id k.1 k.2
    let n := leNat q.2
    if n = (th.readG t.toNat).toNat % 2 ^ (8 * size) then throw (.park true .reissue)
    return (q.1.setThread id ((q.1.thread id).putG t.toNat (BitVec.ofNat 64 n)), .seq)

/-- SIGDEC (R150): Decrements a signal object by gB -/
def execSigdec (s : BitVec 3) (d a b : BitVec 5) (st : State) : Out :=
  issue { word := (51#7 ++ s ++ d ++ a ++ b ++ 0#7), stall := s.toNat, reads := [(.g, a.toNat), (.g, b.toNat)], cls := .irrev, delay := ownDelay st [(st.thread st.cur).readG a.toNat] } st fun z t => do
    let th := z.thread t
    let addr := th.readG a.toNat
    let n := (th.readG b.toNat).toNat
    let k ← access z t addr 16 rAMO true none
    let z := drainPosted z t
    let attr := leNat (readPlaces z (k.2.drop 8))
    let k ← access z t addr 16 rAMO true (some (awayScope z t (attrScope attr), false))
    let z ← track z t k.1 (k.2.take 8) true true
    let old := leNat (readPlaces z (k.2.take 8))
    let new := decrement old n
    let z := notify (writePlaces z (k.2.take 8) (leBytes new 8)) (ctxOf z t) attr old new
    return (z.setThread t ((z.thread t).putG d.toNat (BitVec.ofNat 64 old)), .seq)

/-- SIGWAIT (R150): Parks until a signal object is zero or has its error bit -/
def execSigwait (s : BitVec 3) (d a b : BitVec 5) (st : State) : Out :=
  issue { word := (51#7 ++ s ++ d ++ a ++ b ++ 1#7), stall := s.toNat, reads := [(.g, a.toNat)], cls := .irrev } st fun z t => do
    let addr := (z.thread t).readG a.toNat
    let k ← access z t addr 16 rRD true none
    let z := settlePosted z t k.2
    let attr := leNat (readPlaces z (k.2.drop 8))
    let k ← access z t addr 16 rRD true (some (awayScope z t (attrScope attr), true))
    let q ← loadAt z t k.1 (k.2.take 8)
    let z := q.1
    let v := leNat q.2
    if v ≠ 0 ∧ v < 2 ^ 63 then throw (.park true .reissue)
    return (z.setThread t ((z.thread t).putG d.toNat (BitVec.ofNat 64 v)), .seq)

/-- Step 1 of R155: the thread's own translation; a target that is neither a scratchpad nor sett memory raises SEG_RIGHTS. -/
def postedPlaces (s : State) (v : View) (addr : Word) (size : Nat) (r : Reach) : Except Stop (List Nat) :=
  match r with
  | .places _ ks => .ok ks
  | .virt _ a => do
    let es ← xlateEntries s v addr size rWR a
    let ks := es.filterMap fun e => match dpaPlace s e.2 with
      | .ok k => if k / 2 ^ 64 < 2 then some k else none
      | .error _ => none
    if ks.length = es.length then return ks else throw (.trap cSEG_RIGHTS addr)

/-- PSTO (R155): Takes a journal entry and sends a posted store without waiting -/
def execPsto (s : BitVec 3) (t a : BitVec 5) (z : BitVec 3) (r : BitVec 2) (c : BitVec 3) (st : State) : Out :=
  let size := 2 ^ z.toNat
  issue { word := (53#7 ++ s ++ t ++ a ++ z ++ r ++ c ++ 0#4), stall := s.toNat, legal := moFields z c && atomicSize z && (r.toNat == 0 || r.toNat == 2), home := true
          reads := [(.g, t.toNat), (.g, a.toNat)], cls := .irrev } st fun z' id => do
    let th := z'.thread id
    let addr := th.readG a.toNat
    let v := viewOf z' id
    let kind := segKind v addr
    if kind ≠ 3 ∧ kind ≠ 4 ∧ kind ≠ 6 then throw (.trap cSEG_RIGHTS addr)
    let reach ← segCheck z' v addr size rWR
    let ks ← postedPlaces z' v addr size reach
    let place := ks.headD 0
    if addr.toNat % size ≠ 0 then throw (.trap cMISALIGN addr)
    let core := z'.core id.core
    match (List.range 32).find? (fun i => !(core.journal.toList.getD i ⟨false, false, 0, 0⟩).busy) with
    | none => throw (.park false .reissue)
    | some e =>
      let z' := releasePoint z' id r.toNat
      let z' := setJournal z' id.core e ⟨true, false, id.thr, addr⟩
      let z' := useAt z' v addr size
      let f := Flight.psto id e (ctxOf z' id) place (place % 2 ^ 64 / 2 ^ 21) size (th.readG t.toNat) (decide (kind = 6)) (dpaOfPlace z' place)
        ((taskOf z' id).map OTask.key)
      return ({ z' with flights := z'.flights ++ [f] }, .seq)

/-- PJACK (R156): Frees a refused journal entry and returns its target -/
def execPjack (s : BitVec 3) (d a b : BitVec 5) (st : State) : Out :=
  issue { word := (52#7 ++ s ++ d ++ a ++ b ++ 3#7), stall := s.toNat, reads := [(.g, a.toNat)], cls := .irrev, home := true } st fun z t =>
    let th := z.thread t
    let i := (th.readG a.toNat).toNat % 32
    let e := (z.core t.core).journal.toList.getD i ⟨false, false, 0, 0⟩
    if e.busy && e.refused && e.thr == t.thr then
      let z := setJournal z t.core i ⟨false, false, 0, 0⟩
      .ok (z.setThread t ((z.thread t).putG d.toNat e.target), .seq)
    else .ok (z.setThread t (th.putG d.toNat (BitVec.allOnes 64)), .seq)

/-- The scratchpad or sett memory in which a place lies (R90). -/
def targetMemory (k : Nat) : Nat := if k < 2 ^ 64 then k / 2 ^ 18 else 2 ^ 64 + k / 2 ^ 21

/-- POSTED_STORE_APPLY (R155): A posted store reaches its target and is applied or refused -/
def execPostedStoreApply (n : Nat) (st : State) : Out :=
  match st.flights[n]? with
  | some (.psto src e x place i size val k6 dpa task) =>
    -- R90: after the earlier posted stores of the thread to the same target memory
    let same (f : Flight) : Bool := match f with
      | .psto a _ _ q _ _ _ _ _ _ => a == src && targetMemory q == targetMemory place
      | _ => false
    if (st.flights.take n).any same ∨ !settClock st i ∨ insideChain st (unitOf st src) (postedHits st src place size task) then .next st
    else .next (lapse (applyPosted { st with flights := st.flights.eraseIdx n } src e x place size val k6 dpa task))
  | _ => .next st

/-- MIGR (R160): Enters migratory mode with a live-vector mask -/
def execMigr (s : BitVec 3) (d a b : BitVec 5) (st : State) : Out :=
  issue { word := (56#7 ++ s ++ d ++ a ++ b ++ 0#7), stall := s.toNat, reads := [(.g, a.toNat)], role := .work, cls := .forbid } st
    (regBody fun t => { t with tctl := setBit t.tctl 6 true, vmask := (t.readG a.toNat).setWidth 32 })

/-- HOMEC (R160): Leaves migratory mode and returns the thread home -/
def execHomec (s : BitVec 3) (d a b : BitVec 5) (st : State) : Out :=
  issue { word := (56#7 ++ s ++ d ++ a ++ b ++ 1#7), stall := s.toNat, awaits := if (st.thread st.cur).homeOf.isSome then .slow else .none } st fun z t =>
    let th := z.thread t
    let th := { th with tctl := setBit th.tctl 6 false }
    match th.homeOf with
    | none => .ok (z.setThread t th, .seq)
    | some _ =>
      let z := drainPosted z t
      .ok (returnHome (z.setThread t (th.advance (th.pc + 4) s.toNat (issueCycle z t))) t, .placed)

/-- MBPUT (R162): Writes gA into an empty mailbox register, parking while it is full -/
def execMbput (s : BitVec 3) (d a b : BitVec 5) (st : State) : Out :=
  issue { word := (57#7 ++ s ++ d ++ a ++ b ++ 0#7), stall := s.toNat, reads := [(.g, a.toNat)], cls := .irrev, home := true } st fun z t =>
    let c := z.core t.core
    match c.mb.toList.getD (d.toNat % 8) none with
    | some _ => .error (.park false (.mail true (d.toNat % 8)))
    | none =>
      if !isFirst z t (.mail true (d.toNat % 8)) then .error (.park false (.mail true (d.toNat % 8))) else
      .ok (z.setCore t.core { c with mb := c.mb.setIfInBounds (d.toNat % 8) (some ((c.thread t.thr).readG a.toNat)) }, .seq)

/-- MBPUT_REL (R162): As MBPUT, as a release at core scope -/
def execMbputRel (s : BitVec 3) (d a b : BitVec 5) (st : State) : Out :=
  issue { word := (57#7 ++ s ++ d ++ a ++ b ++ 1#7), stall := s.toNat, reads := [(.g, a.toNat)], cls := .irrev, home := true } st fun z t =>
    let c := z.core t.core
    match c.mb.toList.getD (d.toNat % 8) none with
    | some _ => .error (.park false (.mail true (d.toNat % 8)))
    | none =>
      if !isFirst z t (.mail true (d.toNat % 8)) then .error (.park false (.mail true (d.toNat % 8))) else
      let z := drainPosted z t
      let c := z.core t.core
      .ok (z.setCore t.core { c with mb := c.mb.setIfInBounds (d.toNat % 8) (some ((c.thread t.thr).readG a.toNat)) }, .seq)

/-- MBGET (R162): Takes the value of a full mailbox register, parking while it is empty -/
def execMbget (s : BitVec 3) (d a b : BitVec 5) (st : State) : Out :=
  issue { word := (57#7 ++ s ++ d ++ a ++ b ++ 2#7), stall := s.toNat, cls := .irrev, home := true } st fun z t =>
    let c := z.core t.core
    match c.mb.toList.getD (a.toNat % 8) none with
    | none => .error (.park false (.mail false (a.toNat % 8)))
    | some x =>
      if !isFirst z t (.mail false (a.toNat % 8)) then .error (.park false (.mail false (a.toNat % 8))) else
      let z := orderStores (z.setCore t.core { c with mb := c.mb.setIfInBounds (a.toNat % 8) none }) t
      .ok (z.setThread t ((z.thread t).putG d.toNat x), .seq)

/-- SCLD (R163): Decodes block scale codes into scale-table entries -/
def execScld (s : BitVec 3) (d a b : BitVec 5) (st : State) : Out :=
  issue { word := (59#7 ++ s ++ d ++ a ++ b ++ 0#7), stall := s.toNat, reads := [(.g, a.toNat), (.g, b.toNat)], cls := .irrev, home := true } st fun z t => do
    let th := z.thread t
    let w := th.readG b.toNat
    let j0 := field w 7 0
    let e0 := field w 15 8
    let n := field w 24 16
    if n = 0 ∨ 256 < j0 + n then throw (.trap cOPERAND_RANGE w)
    let addr := th.readG a.toNat
    let codes ← accessHere z t (addr + BitVec.ofNat 64 j0) n rRD false none
    let top ← accessHere z t (addr + 256) 4 rRD false none
    let q ← loadAt z t codes.1 codes.2
    let p ← loadAt q.1 t top.1 top.2
    let z := p.1
    let S := BitVec.ofNat 32 (leNat p.2)
    let bs := q.2
    let c := (List.range n).foldl (fun c i => c.setScale (e0 + i) (scaleEntry S (bs.getD i 0).toNat)) (z.core t.core)
    return (z.setCore t.core c, .seq)

end Sys2Proof.Machine
end

