-- ==== Sys2Proof/Machine/Vector.lean ====
section
/-! DEFINITION. The vector unit (09_vector.md R165 to R188): lane arithmetic, compares, conversions, reductions, lane movement,
memory access with shelf conversion, and MQ4 blocks in registers. -/

namespace Sys2Proof.Machine

open Sys2Proof

/-! ## Lane results -/

/-- A lane's bits and the flags it sets. -/
abbrev LaneFn := BitVec 32 → Nat × Nat

def lanesOf (v : Vec) : List (BitVec 32) := (List.range 16).map (lane v)

/-- The vector of the results of lanes 0 to 15 and the flags of the active lanes (R165). -/
def mapLanes (p : Pred) (f : Nat → Nat × Nat) : Vec × Nat :=
  let rs := (List.range 16).map f
  (ofLanes (rs.map fun r => BitVec.ofNat 32 r.1),
   (List.range 16).foldl (fun acc i => if p.getLsbD i then orFlags acc (rs.getD i (0, 0)).2 else acc) 0)

/-- Writes the active lanes of vD after a latency, and sets flags. -/
def Thread.putLanes (t : Thread) (d : Nat) (p : Pred) (r : Vec × Nat) (lat : Nat) (u : Producer) : Thread :=
  addFlags (t.produce .v d (laneMask p) r.1 lat u) r.2

/-- A floating-point operation on the two elements of a .bf16 lane (R165). -/
def bf16Pair (f : Nat → Nat → Nat → Nat × Nat) (x y z : Nat) : Nat × Nat :=
  let lo := f (x % 65536) (y % 65536) (z % 65536)
  let hi := f (x / 65536) (y / 65536) (z / 65536)
  (lo.1 + 65536 * hi.1, orFlags lo.2 hi.2)

/-- The lane operation by lane type u (Table 3.6): `ff` on patterns of a format, `fi` on integers (Table 9.4). -/
def laneOp (u : Nat) (ff : Fmt → Nat → Nat → Nat → Nat × Nat) (fi : BitVec 32 → BitVec 32 → BitVec 32 → BitVec 32) (x y z : BitVec 32) : Nat × Nat :=
  match u with
  | 0 => ff fp32 x.toNat y.toNat z.toNat
  | 3 => bf16Pair (ff bf16) x.toNat y.toNat z.toNat
  | _ => ((fi x y z).toNat, 0)

/-- Majors 0x40 to 0x4B: vD ← f(vA, vB, vD) in each active lane. -/
def vbin (w : BitVec 32) (s : BitVec 3) (d a b : BitVec 5) (k : BitVec 3) (h j : BitVec 1) (readsD legal : Bool) (lat : Nat)
    (f : Thread → BitVec 32 → BitVec 32 → BitVec 32 → Nat × Nat) (st : State) : Out :=
  issueV w s { d := if readsD then some d.toNat else none, a := some a.toNat, b := some b.toNat, ha := h == 1#1, hb := j == 1#1 }
    [(.k, k.toNat)] legal st fun t D A B =>
      let p := t.readK k.toNat
      t.putLanes d.toNat p (mapLanes p fun i => f t (lane A i) (lane B i) (lane D i)) lat .vec

/-- Lane operations on vA alone (R172, R173). -/
def vun (w : BitVec 32) (s : BitVec 3) (d a : BitVec 5) (k : BitVec 3) (h : BitVec 1) (readsD legal : Bool) (lat : Nat)
    (f : Thread → BitVec 32 → BitVec 32 → Nat × Nat) (st : State) : Out :=
  issueV w s { d := if readsD then some d.toNat else none, a := some a.toNat, ha := h == 1#1 } [(.k, k.toNat)] legal st fun t D A _ =>
    let p := t.readK k.toNat
    t.putLanes d.toNat p (mapLanes p fun i => f t (lane A i) (lane D i)) lat .vec

def ffAdd (m : Nat) (f : Fmt) (x y _z : Nat) : Nat × Nat := addF f m (decodeF f x) (decodeF f y)
def ffSub (m : Nat) (f : Fmt) (x y _z : Nat) : Nat × Nat := addF f m (decodeF f x) (decodeF f y).flip
def ffMul (m : Nat) (f : Fmt) (x y _z : Nat) : Nat × Nat := mulF f m (decodeF f x) (decodeF f y)
def ffFma (m : Nat) (f : Fmt) (x y z : Nat) : Nat × Nat := fmaF f m (decodeF f x) (decodeF f y) (decodeF f z)
def ffMinmax (wantMax : Bool) (f : Fmt) (x y _z : Nat) : Nat × Nat := (minmaxF f wantMax x y, 0)

/-- The lesser or greater of two integer lanes, signed for .s32. -/
def intMinmax (u : Nat) (wantMax : Bool) (x y _z : BitVec 32) : BitVec 32 :=
  let less : Bool := if u = 1 then x.slt y else x.ult y
  if less = wantMax then y else x

/-! ## Compares (R170) -/

/-- The condition of a compare: 0 .eq, 1 .ne, 2 .lt, 3 .le. -/
def cmpHolds (cond u : Nat) (x y : BitVec 32) : Bool :=
  if u = 0 then
    let a := decodeF fp32 x.toNat
    let b := decodeF fp32 y.toNat
    if a.isNan || b.isNan then cond == 1
    else
      let e := eqFV a b
      match cond with
      | 0 => e
      | 1 => !e
      | 2 => !e && ltFV a b
      | _ => e || ltFV a b
  else
    let less := if u = 1 then x.slt y else x.ult y
    match cond with
    | 0 => x == y
    | 1 => x != y
    | 2 => less
    | _ => less || x == y

/-- A predicate from a test on lanes. -/
def predOf (f : Nat → Bool) : Pred := (List.range 16).foldr (fun i acc => (acc <<< 1) ||| (if f i then 1 else 0)) 0

def vcmp (w : BitVec 32) (cond : Nat) (s kd : BitVec 3) (a b : BitVec 5) (k : BitVec 3) (h j : BitVec 1) (u : BitVec 2) (st : State) : Out :=
  issueV w s { a := some a.toNat, b := some b.toNat, ha := h == 1#1, hb := j == 1#1 } [(.k, k.toNat)] (notBf16 u) st fun t _ A B =>
    let p := t.readK k.toNat
    t.putK kd.toNat (predOf fun i => p.getLsbD i && cmpHolds cond u.toNat (lane A i) (lane B i)) 4 .vec

/-! ## Reductions (R71, R174) -/

/-- A reduction: operation and lane type; the result and its flags. -/
def redOp (op u : Nat) (x y : BitVec 32) : Nat × Nat :=
  match op with
  | 0 => laneOp u (ffAdd 0) (fun x y _ => x + y) x y 0
  | 1 => laneOp u (ffMinmax false) (intMinmax u false) x y 0
  | 2 => laneOp u (ffMinmax true) (intMinmax u true) x y 0
  | 3 => ((x &&& y).toNat, 0)
  | 4 => ((x ||| y).toNat, 0)
  | _ => ((x ^^^ y).toNat, 0)

/-- Table 9.6. -/
def redIdentity (op u : Nat) : BitVec 32 :=
  match op, u with
  | 0, 0 => 0x80000000
  | 1, 0 => 0x7F800000
  | 1, 1 => 0x7FFFFFFF
  | 1, _ => 0xFFFFFFFF
  | 2, 0 => 0xFF800000
  | 2, 1 => 0x80000000
  | 3, _ => 0xFFFFFFFF
  | _, _ => 0

/-- One level of the pairwise tree. -/
def redLevel (op u : Nat) : List (BitVec 32) → List (BitVec 32) × Nat
  | x :: y :: xs =>
    let r := redOp op u x y
    let q := redLevel op u xs
    (BitVec.ofNat 32 r.1 :: q.1, orFlags r.2 q.2)
  | xs => (xs, 0)

/-- The tree of n levels. -/
def redTree (op u : Nat) : Nat → List (BitVec 32) → List (BitVec 32) × Nat
  | 0, xs => (xs, 0)
  | n + 1, xs =>
    let l := redLevel op u xs
    let r := redTree op u n l.1
    (r.1, orFlags l.2 r.2)

def vred (w : BitVec 32) (op : Nat) (s : BitVec 3) (d a : BitVec 5) (k : BitVec 3) (h : BitVec 1) (u : BitVec 2) (st : State) : Out :=
  issueV w s { a := some a.toNat, ha := h == 1#1 } [(.k, k.toNat)] (notBf16 u) st fun t _ A _ =>
    let p := t.readK k.toNat
    let xs := (List.range 16).map fun i => if p.getLsbD i then lane A i else redIdentity op u.toNat
    let r := redTree op u.toNat 4 xs
    addFlags (t.produce .v d.toNat maskV (ofLanes (List.replicate 16 (r.1.headD 0))) 8 .vec) r.2

/-- The inclusive prefixes of a list of inputs, and the flags. DEDUCED (log 61): the first takes the bits of its input as they are. -/
def scanFrom (op u : Nat) (x : BitVec 32) : List (BitVec 32) → List (BitVec 32) × Nat
  | [] => ([x], 0)
  | y :: ys =>
    let r := redOp op u x y
    let q := scanFrom op u (BitVec.ofNat 32 r.1) ys
    (x :: q.1, orFlags r.2 q.2)

def vscan (w : BitVec 32) (op : Nat) (s : BitVec 3) (d a : BitVec 5) (k : BitVec 3) (h : BitVec 1) (u : BitVec 2) (st : State) : Out :=
  issueV w s { a := some a.toNat, ha := h == 1#1 } [(.k, k.toNat)] (notBf16 u) st fun t _ A _ =>
    let p := t.readK k.toNat
    let x (i : Nat) : BitVec 32 := if p.getLsbD i then lane A i else redIdentity op u.toNat
    let r := scanFrom op u.toNat (x 0) ((List.range 15).map fun i => x (i + 1))
    addFlags (t.produce .v d.toNat (laneMask p) (ofLanes r.1) 8 .vec) r.2

/-! ## Conversions (R173) -/

/-- The n bits of a lane from bit o replaced. -/
def partLane (D : BitVec 32) (o n x : Nat) : Nat :=
  let m : BitVec 32 := BitVec.ofNat 32 ((2 ^ n - 1) * 2 ^ o)
  ((D &&& ~~~m) ||| (BitVec.ofNat 32 (x * 2 ^ o) &&& m)).toNat

/-- An encoding into a part of the lane. -/
def narrowTo (f : Fmt) (o : Nat) (t : Thread) (x D : BitVec 32) : Nat × Nat :=
  let r := encodeF f t.roundMode t.satMod (decodeF fp32 x.toNat)
  (partLane D o f.bits r.1, r.2)

/-- A decoding of a part of the lane. -/
def widenFrom (f : Fmt) (o : Nat) (x : BitVec 32) : Nat × Nat :=
  ((encodeF fp32 0 false (decodeF f (x.toNat / 2 ^ o % 2 ^ f.bits))).1, 0)

/-! ## Memory access (R178 to R182) -/

/-- The core and scratchpad offset whose shelf format governs an address (R178). -/
def convPlace (s : State) (v : View) (addr : Word) : Option (Nat × Nat) :=
  let loc := field (segBaseOf v addr) 47 0 + field addr 60 0
  match segKind v addr with
  | 2 | 7 => if loc < 262144 then some (v.core, loc) else none
  | 3 => if loc < 12582912 then (holtPosition s v.ctx v.core (loc / 262144)).map fun c => (c, loc % 262144) else none
  | _ => none

/-- The SHFMT that governs an address; raw where nothing converts. -/
def shfmtAt (s : State) (v : View) (addr : Word) : Nat :=
  match convPlace s v addr with
  | some (c, o) => ((s.core c).shfmt.toList.getD (o / 16384) 0).toNat
  | none => 0

/-- An active lane, its element's address and the bytes that it touches. -/
structure LaneAcc where
  lane : Nat
  addr : Word
  size : Nat
  deriving DecidableEq, Repr

/-- R178, R407: every lane by R101, then the alignment, then every lane's translation, a miss of any lane first. -/
def vecCheck (s : State) (t : Tid) (need : Nat) (es : List LaneAcc) (misaligned : Option Word) : Except Stop (List (Via × List Nat)) := do
  let v := viewOf s t
  let local_ (e : LaneAcc) : Bool := let k := segKind v e.addr; k == 2 || k == 3 || k == 4 || k == 7
  if (s.thread t).homeOf.isSome && es.any local_ then throw .goHome
  let rs ← es.mapM fun e => segCheck s v e.addr e.size need
  match misaligned with
  | some a => throw (.trap cMISALIGN a)
  | none => pure ()
  (es.zip rs).forM fun p => resident s v p.1.addr p.1.size need p.2
  (es.zip rs).mapM fun p => do
    let ks ← xlate s v p.1.addr p.1.size need none p.2
    return (p.2.via, ks)

/-- The places that R201 tracks: those reached through kinds 2 to 6. -/
def trackedPlaces (ks : List (Via × List Nat)) : List Nat := ((ks.filter fun e => 2 ≤ e.1.kind && e.1.kind ≤ 6).map (·.2)).flatten

/-- What comes before the accesses of the lanes: R326 and R82 for all of them, R201 for the tracked ones. -/
def vecTrack (s : State) (t : Tid) (ks : List (Via × List Nat)) (rd wr : Bool) : Except Stop State :=
  let s := ks.foldl (fun s e => useVia s t e.1 e.2.length) s
  trackTask (settlePosted s t (ks.map (·.2)).flatten) t 6 (trackedPlaces ks) rd wr

/-- The scale-table entry of an mq4 access (R65). -/
def mq4Entry (s : State) (v : View) (addr : Word) (f : Nat) : Except Stop (BitVec 40) :=
  match convPlace s v addr with
  | none => .error (.trap cSCALE_MISSING 0)
  | some (c, o) =>
    let ix := (f / 256 % 256 + o % 16384 / 32) % 256
    let e := (s.core c).scaleAt ix
    if (e >>> 32).toNat = 0 then .error (.trap cSCALE_MISSING (BitVec.ofNat 64 (ix + o / 16384 * 256))) else .ok e

def entryKind (e : BitVec 40) : Nat := (e >>> 32).toNat
def entryScale (e : BitVec 40) : Nat := (e.setWidth 32 : BitVec 32).toNat

/-- The active lanes in ascending order. -/
def activeLanes (p : Pred) : List Nat := (List.range 16).filter fun i => p.getLsbD i

/-- The 16 consecutive elements of `VLD` and `VST` (R179): the lanes' accesses and the first misaligned address. -/
def consecutive (addr : Word) (fmt : Nat) (p : Pred) : List LaneAcc × Option Word :=
  let nib := fmtNibbles fmt
  let es := (activeLanes p).map fun i => (⟨i, addr + BitVec.ofNat 64 (i * nib / 2), max 1 (nib / 2)⟩ : LaneAcc)
  (es, if addr.toNat % (8 * nib) = 0 then none else (es.head?).map (·.addr))

/-- A nibble of a byte: the even lane's is the low one (R61). -/
def nibble (i : Nat) (x : Nat) : Nat := if i % 2 = 0 then x % 16 else x / 16
def putNibble (i : Nat) (x c : Nat) : Nat := if i % 2 = 0 then x / 16 * 16 + c else x % 16 + c * 16

/-- Lane values as a vector. -/
def lanesVec (vs : List (Nat × Nat)) : Vec :=
  ofLanes ((List.range 16).map fun i => match vs.find? (fun e => e.1 == i) with | some e => BitVec.ofNat 32 e.2 | none => 0)

/-- `VLD` (R179). -/
def vldBody (d k : Nat) (address : Thread → Word) : Body := fun s t => do
  let th := s.thread t
  let p := th.readK k
  if (activeLanes p).isEmpty then return (s, .seq)
  let v := viewOf s t
  let addr := address th
  let f := shfmtAt s v addr
  let fmt := f % 16
  let c := consecutive addr fmt p
  let ks ← vecCheck s t rRD c.1 c.2
  let entry ← if fmt = 7 then mq4Entry s v addr f else .ok 0
  let s ← vecTrack s t ks true false
  let vs := (c.1.zip ks).map fun e =>
    let x := leNat (readPlaces s e.2.2)
    (e.1.lane, if fmt = 7 then mq4Element (entryKind entry) (entryScale entry) (nibble e.1.lane x) else decodeElem fmt x)
  return (s.setThread t ((s.thread t).produce .v d (laneMask p) (lanesVec vs) 0 .interlocked), .seq)

/-- Stores the lanes in ascending order: each element, or for mq4 a nibble of its byte. The result carries the flags. -/
def storeLanes (s : State) (th : Thread) (D : Vec) (fmts : List Nat) (entry : BitVec 40) : List (LaneAcc × Via × List Nat) → State × Nat
  | [] => (s, 0)
  | (e, _, ks) :: es =>
    let f := fmts.headD 0
    let x := (lane D e.lane).toNat
    let r := if f % 16 = 7 then
        let c := mq4StoreLane (entryKind entry) (entryScale entry) x
        (putNibble e.lane (leNat (readPlaces s ks)) c.1, c.2)
      else encodeElem (f % 16) th.roundMode (th.satMod || f.testBit 4) x
    let q := storeLanes (writePlaces s ks (leBytes r.1 e.size)) th D fmts.tail entry es
    (q.1, orFlags r.2 q.2)

/-- `VST` (R179). -/
def vstBody (k : Nat) (D : Vec) (address : Thread → Word) : Body := fun s t => do
  let th := s.thread t
  let p := th.readK k
  if (activeLanes p).isEmpty then return (s, .seq)
  let v := viewOf s t
  let addr := address th
  let f := shfmtAt s v addr
  let fmt := f % 16
  let c := consecutive addr fmt p
  let ks ← vecCheck s t rWR c.1 c.2
  let entry ← if fmt = 7 then mq4Entry s v addr f else .ok 0
  let s ← vecTrack s t ks false true
  let s ← methJournal s (ks.map (·.2)).flatten
  let s := noteStore s t (ks.map (·.2)).flatten
  let r := storeLanes s th D (c.1.map fun _ => f) entry (c.1.zip ks)
  return (r.1.setThread t (addFlags (r.1.thread t) r.2), .seq)

/-- The elements of a strided, gathered or scattered access and the formats of their shelves (R180, R181). -/
def scattered (s : State) (v : View) (p : Pred) (address : Nat → Word) : List LaneAcc × List Nat :=
  let fs := (activeLanes p).map fun i => shfmtAt s v (address i)
  (((activeLanes p).zip fs).map fun e => ⟨e.1, address e.1, max 1 (fmtNibbles (e.2 % 16) / 2)⟩, fs)

/-- The checks of R180: the lanes, the alignment of each, the translation, then FORMAT_ACCESS. -/
def scatterCheck (s : State) (t : Tid) (need : Nat) (es : List LaneAcc) (fs : List Nat) : Except Stop (List (Via × List Nat)) := do
  let ks ← vecCheck s t need es ((es.find? fun e => e.addr.toNat % e.size != 0).map (·.addr))
  match (es.zip fs).find? (fun e => e.2 % 16 == 7) with
  | some e => throw (.trap cFORMAT_ACCESS e.1.addr)
  | none => return ks

/-- R182: the bank cycles of an access of scratchpad words, and its record. -/
def bankCycles (s : State) (t : Tid) (cyc : Nat) (ks : List (Via × List Nat)) : State :=
  let words (own : Bool) (c : Nat) : List Nat :=
    ((ks.filter fun e => (if own then e.1.kind == 2 || e.1.kind == 7 else e.1.kind == 3) && (e.2.headD 0) / 2 ^ 18 == c).map fun e => (e.2.headD 0) % 2 ^ 18 / 4)
  let mine := words true t.core
  let q := bankDegree mine
  let peers := (addNew [] ((ks.filter fun e => e.1.kind == 3).map fun e => (e.2.headD 0) / 2 ^ 18)).map (words false)
  let worst := peers.foldl (fun b w => if bankDegree b < bankDegree w then w else b) []
  let s := if q < bankDegree worst then bankRecord s t true worst cyc else bankRecord s t false mine cyc
  if 2 ≤ q then
    let c := s.core t.core
    s.setCore t.core { c with freeAt := max c.freeAt (cyc + q) }
  else s

/-- `VLDS` and `VGTH`. -/
def gatherBody (d k conflict : Nat) (address : Thread → Nat → Word) : Body := fun s t => do
  let th := s.thread t
  let p := th.readK k
  if (activeLanes p).isEmpty then return (s, .seq)
  let q := scattered s (viewOf s t) p (address th)
  let ks ← scatterCheck s t rRD q.1 q.2
  let s ← vecTrack s t ks true false
  let vs := ((q.1.zip q.2).zip ks).map fun e => (e.1.1.lane, decodeElem (e.1.2 % 16) (leNat (readPlaces s e.2.2)))
  let s := bankCycles s t (issueCycle s t + conflict) ks
  return (s.setThread t ((s.thread t).produce .v d (laneMask p) (lanesVec vs) 0 .interlocked), .seq)

/-- `VSTS` and `VSCT`. -/
def scatterBody (k conflict : Nat) (D : Vec) (address : Thread → Nat → Word) : Body := fun s t => do
  let th := s.thread t
  let p := th.readK k
  if (activeLanes p).isEmpty then return (s, .seq)
  let q := scattered s (viewOf s t) p (address th)
  let ks ← scatterCheck s t rWR q.1 q.2
  let s ← vecTrack s t ks false true
  let s ← methJournal s (ks.map (·.2)).flatten
  let s := noteStore s t (ks.map (·.2)).flatten
  let r := storeLanes s th D q.2 0 (q.1.zip ks)
  let s := bankCycles r.1 t (issueCycle s t + conflict) ks
  return (s.setThread t (addFlags (s.thread t) r.2), .seq)

/-- Issues a vector memory instruction: the latches load first, from the values that the body is given. -/
def issueVMem (word : BitVec 32) (stall : BitVec 3) (p : VPos) (extra : List (RegFile × Nat)) (st : State)
    (body : Nat → Vec → Vec → Body) (delay : Nat → Nat := id) : Out :=
  let th := st.thread st.cur
  let op := { vop word stall p extra true th with delay := delay, slow := .vector }
  issue op st fun s t =>
    let th := s.thread t
    body op.conflict (p.valD th) (p.valB th) (s.setThread t (p.load th)) t

/-- The address of `VLD` and `VST` (R179). -/
def vAddr (a b : BitVec 5) (t : Thread) : Word := t.readG a.toNat + (b.signExtend 64 <<< 6)
/-- Lane addresses by stride (R180) and by offset (R181). -/
def strideAddr (a b : BitVec 5) (t : Thread) (i : Nat) : Word := t.readG a.toNat + BitVec.ofNat 64 i * t.readG b.toNat
def offsetAddr (a : BitVec 5) (B : Vec) (t : Thread) (i : Nat) : Word := t.readG a.toNat + (lane B i).signExtend 64

/-- The addresses of the active lanes. -/
def laneAddrs (s : State) (k : Nat) (address : Nat → Word) : List Word := (activeLanes ((s.thread s.cur).readK k)).map address

/-! ## MQ4 blocks (R183, R184) -/

/-- Issues `VQNT` or `VDQ`, whose results are written `n` cycles after issue. -/
def issueVSlow (n : Nat) (word : BitVec 32) (stall : BitVec 3) (p : VPos) (legal : Bool) (s : State)
    (f : Thread → Vec → Vec → Vec → Thread) : Out :=
  issue { vop word stall p [] legal (s.thread s.cur) with delay := fun _ => n, slow := .vector } s
    (regBody fun t => f (p.load t) (p.valD t) (p.valA t) (p.valB t))

/-- The 64 elements of four registers. -/
def blockOf (vs : List Vec) : List Nat := (vs.map fun v => (lanesOf v).map (·.toNat)).flatten

/-- The nibbles of code bytes in the order of R61, packed into 32-bit lanes. -/
def packCodes (cs : List Nat) : List (BitVec 32) :=
  (List.range 8).map fun i => BitVec.ofNat 32 ((List.range 8).foldr (fun n acc => acc * 16 + cs.getD (8 * i + n) 0) 0)

/-- The register that `VQNT` writes, and its flags. -/
def quantised (S : Nat) (blk : List Nat) : Vec × Nat :=
  let r := quantBlockS S blk
  (ofLanes (packCodes r.2.2.1 ++ [BitVec.ofNat 32 r.1, BitVec.ofNat 32 (if 254 ≤ r.1 then 0 else r.2.1)] ++ List.replicate 6 0), r.2.2.2)

/-- The four registers that `VDQ` writes. DESIGN CHOICE (log 80): with b at most 253 and s a NaN or ±Inf every code is the canonical
NaN (`mq4Element`). -/
def dequantised (A : Vec) : List Vec :=
  let b := (lane A 8).toNat % 256
  let s := (lane A 9).toNat
  let kind := if b = 255 then 3 else if b = 254 then 2 else 1
  (List.range 4).map fun j => ofLanes ((List.range 16).map fun i =>
    let e := 16 * j + i
    BitVec.ofNat 32 (mq4Element kind s ((lane A (e / 8)).toNat / 16 ^ (e % 8) % 16)))

/-- `VABS` and `VNEG` (R172): the sign bit cleared or flipped; a NaN gives the canonical NaN; .s32 saturates when asked. -/
def signOp (flip : Bool) (f : Fmt) (x _y _z : Nat) : Nat × Nat :=
  if (decodeF f x).isNan then (f.nanBits, 0)
  else
    let m := x % 2 ^ (f.bits - 1)
    (if flip && x == m then m + 2 ^ (f.bits - 1) else m, 0)

def absLane (u : Nat) (sat : Bool) (x : BitVec 32) : Nat × Nat :=
  if u = 1 ∧ x = 0x80000000 then (if sat then (0x7FFFFFFF, SATF) else (0x80000000, 0))
  else laneOp u (signOp false) (fun x _ _ => if x.slt 0 then -x else x) x 0 0

def negLane (u : Nat) (sat : Bool) (x : BitVec 32) : Nat × Nat :=
  if u = 1 ∧ x = 0x80000000 then (if sat then (0x7FFFFFFF, SATF) else (0x80000000, 0))
  else laneOp u (signOp true) (fun x _ _ => -x) x 0 0

/-- VADD (R168): Adds vector lanes -/
def execVadd (s : BitVec 3) (d a b : BitVec 5) (k : BitVec 3) (h j : BitVec 1) (u : BitVec 2) (st : State) : Out :=
  vbin (64#7 ++ s ++ d ++ a ++ b ++ k ++ h ++ j ++ u) s d a b k h j false true 4 (fun t x y z => laneOp u.toNat (ffAdd t.roundMode) (fun x y _ => x + y) x y z) st

/-- VSUB (R168): Subtracts vector lanes -/
def execVsub (s : BitVec 3) (d a b : BitVec 5) (k : BitVec 3) (h j : BitVec 1) (u : BitVec 2) (st : State) : Out :=
  vbin (65#7 ++ s ++ d ++ a ++ b ++ k ++ h ++ j ++ u) s d a b k h j false true 4 (fun t x y z => laneOp u.toNat (ffSub t.roundMode) (fun x y _ => x - y) x y z) st

/-- VMUL (R168): Multiplies vector lanes -/
def execVmul (s : BitVec 3) (d a b : BitVec 5) (k : BitVec 3) (h j : BitVec 1) (u : BitVec 2) (st : State) : Out :=
  vbin (66#7 ++ s ++ d ++ a ++ b ++ k ++ h ++ j ++ u) s d a b k h j false true 6 (fun t x y z => laneOp u.toNat (ffMul t.roundMode) (fun x y _ => x * y) x y z) st

/-- VFMA (R168): Fused multiply-add into vD -/
def execVfma (s : BitVec 3) (d a b : BitVec 5) (k : BitVec 3) (h j : BitVec 1) (u : BitVec 2) (st : State) : Out :=
  vbin (67#7 ++ s ++ d ++ a ++ b ++ k ++ h ++ j ++ u) s d a b k h j true true 6 (fun t x y z => laneOp u.toNat (ffFma t.roundMode) (fun x y z => x * y + z) x y z) st

/-- VFMAB (R169): Fused multiply-add with lane l of vA broadcast -/
def execVfmab (s : BitVec 3) (d a b : BitVec 5) (l : BitVec 3) (h j : BitVec 1) (u : BitVec 2) (st : State) : Out :=
  issueV (68#7 ++ s ++ d ++ a ++ b ++ l ++ h ++ j ++ u) s { d := some d.toNat, a := some a.toNat, b := some b.toNat, ha := h == 1#1, hb := j == 1#1 } [] true st fun t D A B =>
    t.putLanes d.toNat 0xFFFF (mapLanes 0xFFFF fun i =>
      laneOp u.toNat (ffFma t.roundMode) (fun x y z => x * y + z) (lane A l.toNat) (lane B i) (lane D i)) 6 .vec

/-- VMIN (R168): Lane-wise minimum -/
def execVmin (s : BitVec 3) (d a b : BitVec 5) (k : BitVec 3) (h j : BitVec 1) (u : BitVec 2) (st : State) : Out :=
  vbin (69#7 ++ s ++ d ++ a ++ b ++ k ++ h ++ j ++ u) s d a b k h j false true 4 (fun t x y z => laneOp u.toNat (ffMinmax false) (intMinmax u.toNat false) x y z) st

/-- VMAX (R168): Lane-wise maximum -/
def execVmax (s : BitVec 3) (d a b : BitVec 5) (k : BitVec 3) (h j : BitVec 1) (u : BitVec 2) (st : State) : Out :=
  vbin (70#7 ++ s ++ d ++ a ++ b ++ k ++ h ++ j ++ u) s d a b k h j false true 4 (fun t x y z => laneOp u.toNat (ffMinmax true) (intMinmax u.toNat true) x y z) st

/-- VAND (R168): Lane-wise bitwise AND -/
def execVand (s : BitVec 3) (d a b : BitVec 5) (k : BitVec 3) (h j : BitVec 1) (u : BitVec 2) (st : State) : Out :=
  vbin (71#7 ++ s ++ d ++ a ++ b ++ k ++ h ++ j ++ u) s d a b k h j false true 4 (fun _ x y _ => ((x &&& y).toNat, 0)) st

/-- VOR (R168): Lane-wise bitwise OR -/
def execVor (s : BitVec 3) (d a b : BitVec 5) (k : BitVec 3) (h j : BitVec 1) (u : BitVec 2) (st : State) : Out :=
  vbin (72#7 ++ s ++ d ++ a ++ b ++ k ++ h ++ j ++ u) s d a b k h j false true 4 (fun _ x y _ => ((x ||| y).toNat, 0)) st

/-- VXOR (R168): Lane-wise bitwise XOR -/
def execVxor (s : BitVec 3) (d a b : BitVec 5) (k : BitVec 3) (h j : BitVec 1) (u : BitVec 2) (st : State) : Out :=
  vbin (73#7 ++ s ++ d ++ a ++ b ++ k ++ h ++ j ++ u) s d a b k h j false true 4 (fun _ x y _ => ((x ^^^ y).toNat, 0)) st

/-- VSHL (R168): Lane-wise shift left -/
def execVshl (s : BitVec 3) (d a b : BitVec 5) (k : BitVec 3) (h j : BitVec 1) (u : BitVec 2) (st : State) : Out :=
  vbin (74#7 ++ s ++ d ++ a ++ b ++ k ++ h ++ j ++ u) s d a b k h j false (intLane u) 4 (fun _ x y _ => ((x <<< (y.toNat % 32)).toNat, 0)) st

/-- VSHR (R168): Lane-wise shift right, arithmetic or logical -/
def execVshr (s : BitVec 3) (d a b : BitVec 5) (k : BitVec 3) (h j : BitVec 1) (u : BitVec 2) (st : State) : Out :=
  vbin (75#7 ++ s ++ d ++ a ++ b ++ k ++ h ++ j ++ u) s d a b k h j false (intLane u) 4 (fun _ x y _ => ((if u.toNat = 1 then x.sshiftRight (y.toNat % 32) else x >>> (y.toNat % 32)).toNat, 0)) st

/-- VCMP_EQ (R170): Sets predicate bits where lanes are equal -/
def execVcmpEq (s k : BitVec 3) (a b : BitVec 5) (p : BitVec 3) (h j : BitVec 1) (u : BitVec 2) (st : State) : Out :=
  vcmp (76#7 ++ s ++ 0#2 ++ k ++ a ++ b ++ p ++ h ++ j ++ u) 0 s k a b p h j u st

/-- VCMP_NE (R170): Sets predicate bits where lanes differ -/
def execVcmpNe (s k : BitVec 3) (a b : BitVec 5) (p : BitVec 3) (h j : BitVec 1) (u : BitVec 2) (st : State) : Out :=
  vcmp (76#7 ++ s ++ 1#2 ++ k ++ a ++ b ++ p ++ h ++ j ++ u) 1 s k a b p h j u st

/-- VCMP_LT (R170): Sets predicate bits where vA < vB -/
def execVcmpLt (s k : BitVec 3) (a b : BitVec 5) (p : BitVec 3) (h j : BitVec 1) (u : BitVec 2) (st : State) : Out :=
  vcmp (76#7 ++ s ++ 2#2 ++ k ++ a ++ b ++ p ++ h ++ j ++ u) 2 s k a b p h j u st

/-- VCMP_LE (R170): Sets predicate bits where vA <= vB -/
def execVcmpLe (s k : BitVec 3) (a b : BitVec 5) (p : BitVec 3) (h j : BitVec 1) (u : BitVec 2) (st : State) : Out :=
  vcmp (76#7 ++ s ++ 3#2 ++ k ++ a ++ b ++ p ++ h ++ j ++ u) 3 s k a b p h j u st

/-- VSEL (R171): Selects each lane from vA or vB by kK -/
def execVsel (s : BitVec 3) (d a b : BitVec 5) (k : BitVec 3) (h j : BitVec 1) (u : BitVec 2) (st : State) : Out :=
  issueV (77#7 ++ s ++ d ++ a ++ b ++ k ++ h ++ j ++ u) s { a := some a.toNat, b := some b.toNat, ha := h == 1#1, hb := j == 1#1 } [(.k, k.toNat)] true st fun t _ A B =>
    let m := laneMask (t.readK k.toNat)
    t.produce .v d.toNat maskV ((A &&& m) ||| (B &&& ~~~m)) 4 .vec

/-- VABS (R172): Lane-wise absolute value -/
def execVabs (s : BitVec 3) (d a : BitVec 5) (k : BitVec 3) (h j : BitVec 1) (u : BitVec 2) (st : State) : Out :=
  vun (78#7 ++ s ++ d ++ a ++ 0#5 ++ k ++ h ++ j ++ u) s d a k h false (u.toNat != 2) 4 (fun t x _ => absLane u.toNat t.satMod x) st

/-- VNEG (R172): Lane-wise negation -/
def execVneg (s : BitVec 3) (d a : BitVec 5) (k : BitVec 3) (h j : BitVec 1) (u : BitVec 2) (st : State) : Out :=
  vun (78#7 ++ s ++ d ++ a ++ 1#5 ++ k ++ h ++ j ++ u) s d a k h false (u.toNat != 2) 4 (fun t x _ => negLane u.toNat t.satMod x) st

/-- VRCP (R172): Correctly rounded reciprocal per lane -/
def execVrcp (s : BitVec 3) (d a : BitVec 5) (k : BitVec 3) (h j : BitVec 1) (u : BitVec 2) (st : State) : Out :=
  vun (78#7 ++ s ++ d ++ a ++ 2#5 ++ k ++ h ++ j ++ u) s d a k h false (u.toNat == 0) 12 (fun t x _ => rcpF t.roundMode (decodeF fp32 x.toNat)) st

/-- VRSQ (R172): Correctly rounded reciprocal square root per lane -/
def execVrsq (s : BitVec 3) (d a : BitVec 5) (k : BitVec 3) (h j : BitVec 1) (u : BitVec 2) (st : State) : Out :=
  vun (78#7 ++ s ++ d ++ a ++ 3#5 ++ k ++ h ++ j ++ u) s d a k h false (u.toNat == 0) 12 (fun t x _ => rsqF t.roundMode (decodeF fp32 x.toNat)) st

/-- VEXP2 (R172): Correctly rounded 2^x per lane -/
def execVexp2 (s : BitVec 3) (d a : BitVec 5) (k : BitVec 3) (h j : BitVec 1) (u : BitVec 2) (st : State) : Out :=
  vun (78#7 ++ s ++ d ++ a ++ 4#5 ++ k ++ h ++ j ++ u) s d a k h false (u.toNat == 0) 12 (fun t x _ => exp2F t.roundMode (decodeF fp32 x.toNat)) st

/-- VLOG2 (R172): Correctly rounded log2 per lane -/
def execVlog2 (s : BitVec 3) (d a : BitVec 5) (k : BitVec 3) (h j : BitVec 1) (u : BitVec 2) (st : State) : Out :=
  vun (78#7 ++ s ++ d ++ a ++ 5#5 ++ k ++ h ++ j ++ u) s d a k h false (u.toNat == 0) 12 (fun t x _ => log2F t.roundMode (decodeF fp32 x.toNat)) st

/-- VCVT_F2S (R173): Converts FP32 lanes to s32 -/
def execVcvtF2s (s : BitVec 3) (d a : BitVec 5) (k : BitVec 3) (h j : BitVec 1) (u : BitVec 2) (st : State) : Out :=
  vun (79#7 ++ s ++ d ++ a ++ 0#5 ++ k ++ h ++ j ++ u) s d a k h false true 4 (fun t x _ => let r := encodeInt t.roundMode (-2147483648) 2147483647 false (decodeF fp32 x.toNat); ((BitVec.ofInt 32 r.1).toNat, r.2)) st

/-- VCVT_F2N (R173): Converts FP32 lanes to n32 -/
def execVcvtF2n (s : BitVec 3) (d a : BitVec 5) (k : BitVec 3) (h j : BitVec 1) (u : BitVec 2) (st : State) : Out :=
  vun (79#7 ++ s ++ d ++ a ++ 1#5 ++ k ++ h ++ j ++ u) s d a k h false true 4 (fun t x _ => let r := encodeInt t.roundMode 0 4294967295 false (decodeF fp32 x.toNat); (r.1.toNat, r.2)) st

/-- VCVT_S2F (R173): Converts s32 lanes to FP32 -/
def execVcvtS2f (s : BitVec 3) (d a : BitVec 5) (k : BitVec 3) (h j : BitVec 1) (u : BitVec 2) (st : State) : Out :=
  vun (79#7 ++ s ++ d ++ a ++ 2#5 ++ k ++ h ++ j ++ u) s d a k h false true 4 (fun t x _ => encodeF fp32 t.roundMode t.satMod (FV.ofDy false (.ofInt x.toInt))) st

/-- VCVT_N2F (R173): Converts n32 lanes to FP32 -/
def execVcvtN2f (s : BitVec 3) (d a : BitVec 5) (k : BitVec 3) (h j : BitVec 1) (u : BitVec 2) (st : State) : Out :=
  vun (79#7 ++ s ++ d ++ a ++ 3#5 ++ k ++ h ++ j ++ u) s d a k h false true 4 (fun t x _ => encodeF fp32 t.roundMode t.satMod (FV.ofDy false (.ofInt x.toNat))) st

/-- VCVT_F2B (R173): Encodes FP32 lanes into the low or high BF16 half of vD -/
def execVcvtF2b (s : BitVec 3) (d a : BitVec 5) (w : BitVec 1) (k : BitVec 3) (h j : BitVec 1) (u : BitVec 2) (st : State) : Out :=
  vun (79#7 ++ s ++ d ++ a ++ 2#4 ++ w ++ k ++ h ++ j ++ u) s d a k h true true 4 (fun t x z => narrowTo bf16 (16 * w.toNat) t x z) st

/-- VCVT_F2H (R173): Encodes FP32 lanes into the low or high FP16 half of vD -/
def execVcvtF2h (s : BitVec 3) (d a : BitVec 5) (w : BitVec 1) (k : BitVec 3) (h j : BitVec 1) (u : BitVec 2) (st : State) : Out :=
  vun (79#7 ++ s ++ d ++ a ++ 3#4 ++ w ++ k ++ h ++ j ++ u) s d a k h true true 4 (fun t x z => narrowTo fp16 (16 * w.toNat) t x z) st

/-- VCVT_B2F (R173): Decodes a BF16 half of vA to FP32 -/
def execVcvtB2f (s : BitVec 3) (d a : BitVec 5) (w : BitVec 1) (k : BitVec 3) (h j : BitVec 1) (u : BitVec 2) (st : State) : Out :=
  vun (79#7 ++ s ++ d ++ a ++ 4#4 ++ w ++ k ++ h ++ j ++ u) s d a k h false true 4 (fun _ x _ => widenFrom bf16 (16 * w.toNat) x) st

/-- VCVT_H2F (R173): Decodes an FP16 half of vA to FP32 -/
def execVcvtH2f (s : BitVec 3) (d a : BitVec 5) (w : BitVec 1) (k : BitVec 3) (h j : BitVec 1) (u : BitVec 2) (st : State) : Out :=
  vun (79#7 ++ s ++ d ++ a ++ 5#4 ++ w ++ k ++ h ++ j ++ u) s d a k h false true 4 (fun _ x _ => widenFrom fp16 (16 * w.toNat) x) st

/-- VCVT_F2E4 (R173): Encodes FP32 lanes into an E4M3 byte of vD -/
def execVcvtF2e4 (s : BitVec 3) (d a : BitVec 5) (y : BitVec 2) (k : BitVec 3) (h j : BitVec 1) (u : BitVec 2) (st : State) : Out :=
  vun (79#7 ++ s ++ d ++ a ++ 3#3 ++ y ++ k ++ h ++ j ++ u) s d a k h true true 4 (fun t x z => narrowTo e4m3 (8 * y.toNat) t x z) st

/-- VCVT_F2E5 (R173): Encodes FP32 lanes into an E5M2 byte of vD -/
def execVcvtF2e5 (s : BitVec 3) (d a : BitVec 5) (y : BitVec 2) (k : BitVec 3) (h j : BitVec 1) (u : BitVec 2) (st : State) : Out :=
  vun (79#7 ++ s ++ d ++ a ++ 4#3 ++ y ++ k ++ h ++ j ++ u) s d a k h true true 4 (fun t x z => narrowTo e5m2 (8 * y.toNat) t x z) st

/-- VCVT_E4F (R173): Decodes an E4M3 byte of vA to FP32 -/
def execVcvtE4f (s : BitVec 3) (d a : BitVec 5) (y : BitVec 2) (k : BitVec 3) (h j : BitVec 1) (u : BitVec 2) (st : State) : Out :=
  vun (79#7 ++ s ++ d ++ a ++ 5#3 ++ y ++ k ++ h ++ j ++ u) s d a k h false true 4 (fun _ x _ => widenFrom e4m3 (8 * y.toNat) x) st

/-- VCVT_E5F (R173): Decodes an E5M2 byte of vA to FP32 -/
def execVcvtE5f (s : BitVec 3) (d a : BitVec 5) (y : BitVec 2) (k : BitVec 3) (h j : BitVec 1) (u : BitVec 2) (st : State) : Out :=
  vun (79#7 ++ s ++ d ++ a ++ 6#3 ++ y ++ k ++ h ++ j ++ u) s d a k h false true 4 (fun _ x _ => widenFrom e5m2 (8 * y.toNat) x) st

/-- VRED_SUM (R174): Reduces lanes by a pairwise-tree sum into all lanes -/
def execVredSum (s : BitVec 3) (d a : BitVec 5) (x : BitVec 1) (k : BitVec 3) (h j : BitVec 1) (u : BitVec 2) (st : State) : Out :=
  vred (80#7 ++ s ++ d ++ a ++ 0#1 ++ x ++ 0#3 ++ k ++ h ++ j ++ u) 0 s d a k h u st

/-- VRED_MIN (R174): Reduces lanes by minimum -/
def execVredMin (s : BitVec 3) (d a : BitVec 5) (x : BitVec 1) (k : BitVec 3) (h j : BitVec 1) (u : BitVec 2) (st : State) : Out :=
  vred (80#7 ++ s ++ d ++ a ++ 0#1 ++ x ++ 1#3 ++ k ++ h ++ j ++ u) 1 s d a k h u st

/-- VRED_MAX (R174): Reduces lanes by maximum -/
def execVredMax (s : BitVec 3) (d a : BitVec 5) (x : BitVec 1) (k : BitVec 3) (h j : BitVec 1) (u : BitVec 2) (st : State) : Out :=
  vred (80#7 ++ s ++ d ++ a ++ 0#1 ++ x ++ 2#3 ++ k ++ h ++ j ++ u) 2 s d a k h u st

/-- VRED_AND (R174): Reduces lanes by AND -/
def execVredAnd (s : BitVec 3) (d a : BitVec 5) (x : BitVec 1) (k : BitVec 3) (h j : BitVec 1) (u : BitVec 2) (st : State) : Out :=
  vred (80#7 ++ s ++ d ++ a ++ 0#1 ++ x ++ 3#3 ++ k ++ h ++ j ++ u) 3 s d a k h u st

/-- VRED_OR (R174): Reduces lanes by OR -/
def execVredOr (s : BitVec 3) (d a : BitVec 5) (x : BitVec 1) (k : BitVec 3) (h j : BitVec 1) (u : BitVec 2) (st : State) : Out :=
  vred (80#7 ++ s ++ d ++ a ++ 0#1 ++ x ++ 4#3 ++ k ++ h ++ j ++ u) 4 s d a k h u st

/-- VRED_XOR (R174): Reduces lanes by XOR -/
def execVredXor (s : BitVec 3) (d a : BitVec 5) (x : BitVec 1) (k : BitVec 3) (h j : BitVec 1) (u : BitVec 2) (st : State) : Out :=
  vred (80#7 ++ s ++ d ++ a ++ 0#1 ++ x ++ 5#3 ++ k ++ h ++ j ++ u) 5 s d a k h u st

/-- VSCAN_SUM (R174): Inclusive prefix sum over lanes -/
def execVscanSum (s : BitVec 3) (d a : BitVec 5) (x : BitVec 1) (k : BitVec 3) (h j : BitVec 1) (u : BitVec 2) (st : State) : Out :=
  vscan (80#7 ++ s ++ d ++ a ++ 1#1 ++ x ++ 0#3 ++ k ++ h ++ j ++ u) 0 s d a k h u st

/-- VSCAN_MIN (R174): Inclusive prefix minimum over lanes -/
def execVscanMin (s : BitVec 3) (d a : BitVec 5) (x : BitVec 1) (k : BitVec 3) (h j : BitVec 1) (u : BitVec 2) (st : State) : Out :=
  vscan (80#7 ++ s ++ d ++ a ++ 1#1 ++ x ++ 1#3 ++ k ++ h ++ j ++ u) 1 s d a k h u st

/-- VSCAN_MAX (R174): Inclusive prefix maximum over lanes -/
def execVscanMax (s : BitVec 3) (d a : BitVec 5) (x : BitVec 1) (k : BitVec 3) (h j : BitVec 1) (u : BitVec 2) (st : State) : Out :=
  vscan (80#7 ++ s ++ d ++ a ++ 1#1 ++ x ++ 2#3 ++ k ++ h ++ j ++ u) 2 s d a k h u st

/-- VSCAN_AND (R174): Inclusive prefix AND over lanes -/
def execVscanAnd (s : BitVec 3) (d a : BitVec 5) (x : BitVec 1) (k : BitVec 3) (h j : BitVec 1) (u : BitVec 2) (st : State) : Out :=
  vscan (80#7 ++ s ++ d ++ a ++ 1#1 ++ x ++ 3#3 ++ k ++ h ++ j ++ u) 3 s d a k h u st

/-- VSCAN_OR (R174): Inclusive prefix OR over lanes -/
def execVscanOr (s : BitVec 3) (d a : BitVec 5) (x : BitVec 1) (k : BitVec 3) (h j : BitVec 1) (u : BitVec 2) (st : State) : Out :=
  vscan (80#7 ++ s ++ d ++ a ++ 1#1 ++ x ++ 4#3 ++ k ++ h ++ j ++ u) 4 s d a k h u st

/-- VSCAN_XOR (R174): Inclusive prefix XOR over lanes -/
def execVscanXor (s : BitVec 3) (d a : BitVec 5) (x : BitVec 1) (k : BitVec 3) (h j : BitVec 1) (u : BitVec 2) (st : State) : Out :=
  vscan (80#7 ++ s ++ d ++ a ++ 1#1 ++ x ++ 5#3 ++ k ++ h ++ j ++ u) 5 s d a k h u st

/-- VPERM (R175): Permutes lanes of vA by indices in vB -/
def execVperm (s : BitVec 3) (d a b : BitVec 5) (k : BitVec 3) (h j : BitVec 1) (u : BitVec 2) (st : State) : Out :=
  issueV (82#7 ++ s ++ d ++ a ++ b ++ k ++ h ++ j ++ u) s { a := some a.toNat, b := some b.toNat, ha := h == 1#1, hb := j == 1#1 } [(.k, k.toNat)] true st fun t _ A B =>
    let p := t.readK k.toNat
    t.putLanes d.toNat p (mapLanes p fun i => ((lane A ((lane B i).toNat % 16)).toNat, 0)) 4 .vec

/-- VROT (R175): Rotates lanes of vA by n -/
def execVrot (s : BitVec 3) (d a : BitVec 5) (x : BitVec 1) (n : BitVec 4) (k : BitVec 3) (h j : BitVec 1) (u : BitVec 2) (st : State) : Out :=
  issueV (83#7 ++ s ++ d ++ a ++ x ++ n ++ k ++ h ++ j ++ u) s { a := some a.toNat, ha := h == 1#1 } [(.k, k.toNat)] true st fun t _ A _ =>
    let p := t.readK k.toNat
    t.putLanes d.toNat p (mapLanes p fun i => ((lane A ((i + n.toNat) % 16)).toNat, 0)) 4 .vec

/-- VQNT (R183): Quantises a 64-element block into MQ4 codes and scale -/
def execVqnt (s : BitVec 3) (d a b : BitVec 5) (k : BitVec 3) (h j : BitVec 1) (st : State) : Out :=
  issueVSlow 20 (84#7 ++ s ++ d ++ a ++ b ++ k ++ h ++ j ++ 0#2) s { a := some a.toNat, b := some b.toNat, more := [a.toNat + 1, a.toNat + 2, a.toNat + 3] } (a.toNat % 4 == 0) st fun t _ A B =>
    let r := quantised (lane B 0).toNat (blockOf (A :: [a.toNat + 1, a.toNat + 2, a.toNat + 3].map t.readV))
    addFlags (t.produce .v d.toNat maskV r.1 0 .interlocked) r.2

/-- VDQ (R184): Decodes an MQ4 block into four vector registers -/
def execVdq (s : BitVec 3) (d a b : BitVec 5) (k : BitVec 3) (h j : BitVec 1) (st : State) : Out :=
  issueVSlow 12 (84#7 ++ s ++ d ++ a ++ b ++ k ++ h ++ j ++ 1#2) s { a := some a.toNat } (d.toNat % 4 == 0) st fun t _ A _ =>
    ((List.range 4).zip (dequantised A)).foldl (fun t e => t.produce .v (d.toNat + e.1) maskV e.2 0 .interlocked) t

/-- VLANE (R176): Copies lane l of vA to gD -/
def execVlane (s : BitVec 3) (d a : BitVec 5) (x : BitVec 1) (l : BitVec 4) (k : BitVec 3) (h j : BitVec 1) (st : State) : Out :=
  issueV (85#7 ++ s ++ d ++ a ++ x ++ l ++ k ++ h ++ j ++ 0#2) s { a := some a.toNat, ha := h == 1#1 } [(.k, k.toNat)] true st fun t _ A _ =>
    if (t.readK k.toNat).getLsbD l.toNat then t.produce .g d.toNat maskG ((lane A l.toNat).setWidth 512) 4 .vec else t

/-- VINS (R176): Inserts gA[31:0] into lane l of vD -/
def execVins (s : BitVec 3) (d a : BitVec 5) (x : BitVec 1) (l : BitVec 4) (k : BitVec 3) (h j : BitVec 1) (st : State) : Out :=
  issueV (85#7 ++ s ++ d ++ a ++ x ++ l ++ k ++ h ++ j ++ 1#2) s {} [(.g, a.toNat), (.k, k.toNat)] true st fun t _ _ _ =>
    if (t.readK k.toNat).getLsbD l.toNat then
      t.produce .v d.toNat (laneMask (1#16 <<< l.toNat)) (((t.readG a.toNat).setWidth 32 : BitVec 32).setWidth 512 <<< (32 * l.toNat)) 4 .vec
    else t

/-- VLD (R179): Loads 16 consecutive elements with shelf conversion -/
def execVld (s : BitVec 3) (d a b : BitVec 5) (k : BitVec 3) (h j : BitVec 1) (st : State) : Out :=
  issueVMem (86#7 ++ s ++ d ++ a ++ b ++ k ++ h ++ j ++ 0#2) s {} [(.g, a.toNat), (.k, k.toNat)] st (fun _ _ _ => vldBody d.toNat k.toNat (vAddr a b))
    (ownDelay st [vAddr a b (st.thread st.cur)])

/-- VST (R179): Stores 16 consecutive elements with shelf conversion -/
def execVst (s : BitVec 3) (d a b : BitVec 5) (k : BitVec 3) (h j : BitVec 1) (st : State) : Out :=
  issueVMem (86#7 ++ s ++ d ++ a ++ b ++ k ++ h ++ j ++ 1#2) s { d := some d.toNat } [(.g, a.toNat), (.k, k.toNat)] st fun _ D _ => vstBody k.toNat D (vAddr a b)

/-- VLDS (R180): Loads elements at a signed byte stride -/
def execVlds (s : BitVec 3) (d a b : BitVec 5) (k : BitVec 3) (h j : BitVec 1) (st : State) : Out :=
  issueVMem (86#7 ++ s ++ d ++ a ++ b ++ k ++ h ++ j ++ 2#2) s {} [(.g, a.toNat), (.g, b.toNat), (.k, k.toNat)] st (fun c _ _ => gatherBody d.toNat k.toNat c (strideAddr a b))
    (ownDelay st (laneAddrs st k.toNat (strideAddr a b (st.thread st.cur))))

/-- VSTS (R180): Stores elements at a signed byte stride -/
def execVsts (s : BitVec 3) (d a b : BitVec 5) (k : BitVec 3) (h j : BitVec 1) (st : State) : Out :=
  issueVMem (86#7 ++ s ++ d ++ a ++ b ++ k ++ h ++ j ++ 3#2) s { d := some d.toNat } [(.g, a.toNat), (.g, b.toNat), (.k, k.toNat)] st fun c D _ => scatterBody k.toNat c D (strideAddr a b)

/-- VGTH (R181): Gathers elements at offsets in vB -/
def execVgth (s : BitVec 3) (d a b : BitVec 5) (k : BitVec 3) (h j : BitVec 1) (st : State) : Out :=
  issueVMem (87#7 ++ s ++ d ++ a ++ b ++ k ++ h ++ j ++ 0#2) s { b := some b.toNat, hb := j == 1#1 } [(.g, a.toNat), (.k, k.toNat)] st (fun c _ B => gatherBody d.toNat k.toNat c (offsetAddr a B))
    (ownDelay st (laneAddrs st k.toNat (offsetAddr a (VPos.valB { b := some b.toNat, hb := j == 1#1 } (st.thread st.cur)) (st.thread st.cur))))

/-- VSCT (R181): Scatters elements to offsets in vB in ascending lane order -/
def execVsct (s : BitVec 3) (d a b : BitVec 5) (k : BitVec 3) (h j : BitVec 1) (st : State) : Out :=
  issueVMem (87#7 ++ s ++ d ++ a ++ b ++ k ++ h ++ j ++ 1#2) s { d := some d.toNat, b := some b.toNat, hb := j == 1#1 } [(.g, a.toNat), (.k, k.toNat)] st fun c D B => scatterBody k.toNat c D (offsetAddr a B)

/-- VBCST (R176): Broadcasts gA[31:0] into active lanes -/
def execVbcst (s : BitVec 3) (d a b : BitVec 5) (k : BitVec 3) (h j : BitVec 1) (st : State) : Out :=
  issueV (87#7 ++ s ++ d ++ a ++ b ++ k ++ h ++ j ++ 2#2) s {} [(.g, a.toNat), (.k, k.toNat)] true st fun t _ _ _ =>
    t.produce .v d.toNat (laneMask (t.readK k.toNat)) (ofLanes (List.replicate 16 ((t.readG a.toNat).setWidth 32))) 4 .vec

end Sys2Proof.Machine
end

