-- ==== Sys2Proof/Machine/Copy.lean ====
section
/-! DEFINITION. The sett copy engine, destination handles and the Archive bank units (14_copy_archive.md R213 to R232). -/

namespace Sys2Proof.Machine

open Sys2Proof

/-! ## The command block (Tables 14.1 and 14.2) -/

def cbSrc (b : List Byte) : Word := wordOf (b.take 8)
def cbDst (b : List Byte) : Word := wordOf ((b.drop 8).take 8)
def cbX (b : List Byte) : Nat := blkNat b 16 4
def cbY (b : List Byte) : Nat := blkNat b 20 2
def cbZ (b : List Byte) : Nat := blkNat b 22 2
/-- A stride: s32. -/
def cbStride (b : List Byte) (off : Nat) : Int := (BitVec.ofNat 32 (blkNat b off 4)).toInt
def cbCtrl (b : List Byte) : Nat := blkNat b 40 4
def cbClass (b : List Byte) : Nat := cbCtrl b % 4
def cbHV (b : List Byte) : Bool := (cbCtrl b).testBit 2
def cbFV (b : List Byte) : Bool := (cbCtrl b).testBit 3
def cbSV (b : List Byte) : Bool := (cbCtrl b).testBit 4
def cbSC (b : List Byte) : Bool := (cbCtrl b).testBit 5
def cbHandle (b : List Byte) : Nat := cbCtrl b / 256 % 256
def cbScope (b : List Byte) : Nat := cbCtrl b / 2 ^ 24 % 8
def cbSlack (b : List Byte) : Nat := cbCtrl b / 2 ^ 27
def cbScaleAddr (b : List Byte) : Word := wordOf ((b.drop 24).take 8)
def cbS (b : List Byte) : Nat := blkNat b 32 4
def cbVerAddr (b : List Byte) : Word := wordOf ((b.drop 24).take 8)
def cbExpected (b : List Byte) : Nat := blkNat b 32 8
def cbFlagval (b : List Byte) : Nat := blkNat b 44 4
def cbFlag (b : List Byte) : Word := wordOf ((b.drop 48).take 8)
def cbSignal (b : List Byte) : Word := wordOf ((b.drop 56).take 8)

/-- R68: the copy converts. -/
def converts (sf df : Nat) : Bool := sf != df && sf != 0 && df != 0
/-- A converting copy with an mq4 side. -/
def mq4Side (sf df : Nat) : Bool := converts sf df && (sf == 7 || df == 7)

/-- Element sizes in half bytes; a byte copy takes one byte on both sides (R215). -/
def srcNib (sf df : Nat) : Nat := if converts sf df then fmtNibbles sf else 2
def dstNib (sf df : Nat) : Nat := if converts sf df then fmtNibbles df else 2
/-- Bytes of a destination row. -/
def dstRow (b : List Byte) (sf df : Nat) : Nat := cbX b * dstNib sf df / srcNib sf df
/-- Elements of a row. -/
def rowElems (b : List Byte) (sf df : Nat) : Nat := 2 * cbX b / srcNib sf df

/-- One row only: strides absent (R215). -/
def oneRow (cond : Bool) (sf df : Nat) : Bool := cond || mq4Side sf df

/-- The strides of a side: in y and in z. -/
def strides (b : List Byte) (one dst : Bool) : Int × Int :=
  if one then (0, 0) else if dst then (cbStride b 28, cbStride b 36) else (cbStride b 24, cbStride b 32)

/-- The lowest offset of a side's covering extent and the offset past its highest byte. -/
def covering (b : List Byte) (st : Int × Int) (row : Nat) : Int × Int :=
  let y := ((cbY b - 1 : Nat) : Int) * st.1
  let z := ((cbZ b - 1 : Nat) : Int) * st.2
  (min 0 y + min 0 z, max 0 y + max 0 z + row)

/-- Bytes of the scale area of n blocks: superblock m's scales lie at 8,512 m (R215). -/
def scaleExtent (blocks : Nat) (sc : Bool) : Nat := if sc then 260 else (((blocks + 255) / 256 - 1) * 8512) + 260

/-! ## Formats of the sides (R68) -/

/-- A side's bytes lie in shelves: kinds 2, 3 and 7. -/
def shelfKind (k : Nat) : Bool := k == 2 || k == 3 || k == 7

/-- The SHFMT words of the shelves that an extent covers. -/
def shelfWords (s : State) (v : View) (addr : Word) (e : Int × Int) : List Nat :=
  let base := segBaseOf v addr
  let loc : Int := (field base 47 0 : Int) + field addr 60 0
  let lo := (loc + e.1).toNat / 16384
  let hi := (loc + e.2 - 1).toNat / 16384
  (List.range (min 768 (hi + 1 - lo))).filterMap fun i =>
    let o := (lo + i) * 16384
    match segKind v addr with
    | 3 => if o < 12582912 then (holtPosition s v.ctx v.core (o / 262144)).map fun c => ((s.core c).shfmt.toList.getD (o % 262144 / 16384) 0).toNat else none
    | _ => if o < 262144 then some ((s.core v.core).shfmt.toList.getD (o / 16384) 0).toNat else none

/-- A side's format: that of the shelf at its own address, else the one the command names. DESIGN CHOICE (log 74): so too where the
extent covers shelves of several formats, and the other side is raw or not by this one (R68). -/
def sideFmt (s : State) (v : View) (addr : Word) (named : Nat) : Nat := if shelfKind (segKind v addr) then shfmtAt s v addr % 16 else named

def mixed (fs : List Nat) : Bool := match fs with
  | [] => false
  | f :: fs => fs.any fun g => g % 16 != f % 16

/-- Table 14.3: the reason for which a block is malformed, 0 for none. -/
def copyMalformed (s : State) (v : View) (b : List Byte) (cond : Bool) (sf df : Nat) : Nat :=
  let one := oneRow cond sf df
  let elems := rowElems b sf df
  let sides (addr : Word) (dst : Bool) (row : Nat) : List Nat :=
    if shelfKind (segKind v addr) then shelfWords s v addr (covering b (strides b one dst) row) else []
  if cbX b = 0 ∨ cbY b = 0 ∨ cbZ b = 0 ∨ 2 ^ 24 < cbX b then 1
  else if 8 < cbCtrl b / 2 ^ 16 % 16 ∨ 8 < cbCtrl b / 2 ^ 20 % 16 ∨ cbScope b = 7 then 2
  else if converts sf df ∧ (2 * cbX b % srcNib sf df ≠ 0 ∨ elems * dstNib sf df % 2 ≠ 0) then 3
  else if converts sf df ∧ df = 7 ∧ (if cbSC b then elems % 64 ≠ 0 ∨ 256 < elems / 64 else elems % 16384 ≠ 0) then 4
  else if mq4Side sf df ∧ (cbY b ≠ 1 ∨ cbZ b ≠ 1) then 4
  else if converts sf df ∧ sf = 7 ∧ elems % 64 ≠ 0 then 5
  else if cond ∧ (65536 < cbX b ∨ cbY b ≠ 1 ∨ cbZ b ≠ 1 ∨ cbExpected b % 2 = 1 ∨ mq4Side sf df) then 6
  else if cbSC b ∧ !(converts sf df && df == 7) then 7
  else if (mixed (sides (cbSrc b) false (cbX b)) ∧ df ≠ 0) ∨ (mixed (sides (cbDst b) true (dstRow b sf df)) ∧ sf ≠ 0) then 8
  else 0

/-! ## Handles (R221, R222) -/

def hFree : Nat := 0
def hFilling : Nat := 1
def hFull : Nat := 2
def hDraining : Nat := 3

def Sett.handle (x : Sett) (h : Nat) : Word := KMap.getD x.handles h 0
def Sett.setHandle (x : Sett) (h : Nat) (w : Word) : Sett := { x with handles := KMap.put 0 x.handles h w }
def hState (w : Word) : Nat := field w 1 0
/-- The status word with another STATE. -/
def withState (w : Word) (st : Nat) : Word := (w &&& ~~~3#64) ||| BitVec.ofNat 64 st

def setHandleOf (s : State) (i h : Nat) (w : Word) : State := s.setSett i ((s.sett i).setHandle h w)

/-- EVAL of HANDLE_STATE. -/
def handleEval (ref_ st : Nat) : Word := BitVec.ofNat 64 (ref_ % 2 ^ 26 + st * 2 ^ 32)

/-- A handle reference: the sett's identity and the handle, if the sett lies in the issuer's virtual holt and launch (R221). -/
def handleRef (s : State) (t : Tid) (w : Word) : Except Stop (Nat × Nat) :=
  let v := field w 25 16
  let x := ctxOf s t
  match coreOfVc s x (v * 8), launchOf s t with
  | some c, some l =>
    if v / 6 = vcIn s x (homeTid s t).core / 48 ∧ (List.range 8).any (fun i => l.has (v * 8 + i)) then .ok (settOf c, field w 7 0)
    else .error (.trap cOPERAND_RANGE w)
  | _, _ => .error (.trap cOPERAND_RANGE w)

/-- The virtual sett of a thread in its own context. -/
def vsettOf (s : State) (t : Tid) : Nat := vcIn s (ctxOf s t) t.core / 8

/-- Where the handles of a thread's virtual sett begin among its sett's. -/
def resHandles (t : Tid) : Nat := if t.thr = 13 then 256 else 0

/-- `HWAIT`, `HACQ`, `HREL`, `HSTAT`: the effect on the handle's state gives the status word to write, or a stop. -/
def handleOp (w : BitVec 32) (s : BitVec 3) (d a : BitVec 5) (cls : OClass) (release : Bool) (f : Word → Word → Except Stop Word) (st : State) : Out :=
  issue { word := w, stall := s.toNat, reads := [(.g, a.toNat)], cls := cls } st fun z t => do
    let ref_ := (z.thread t).readG a.toNat
    let h ← handleRef z t ref_
    let h := (h.1, h.2 + resHandles t)
    let new ← f ref_ ((z.sett h.1).handle h.2)
    let z := if release then drainPosted z t else orderStores z t
    let z := setHandleOf z h.1 h.2 new
    return (z.setThread t ((z.thread t).putG d.toNat new), .seq)

/-- A transition from one state to another, or HANDLE_STATE. -/
def handleMove (from_ to_ : Nat) (ref_ w : Word) : Except Stop Word :=
  if hState w = from_ then .ok (withState w to_) else .error (.trap cHANDLE_STATE (handleEval ref_.toNat (hState w)))

/-! ## Issue (R216) -/

/-- R101 on a covering extent; a fault names the side's address. -/
def extentCheck (s : State) (v : View) (addr : Word) (e : Int × Int) (need : Nat) : Except Stop Unit :=
  let off : Int := (field addr 60 0 : Int) + e.1
  if off < 0 ∨ (2 : Int) ^ 61 ≤ off then .error (.trap cSEG_LIMIT addr)
  else match segCheck s v (addr + BitVec.ofInt 64 e.1) (e.2 - e.1).toNat need with
    | .error (.trap c _) => .error (.trap c addr)
    | .error x => .error x
    | .ok _ => .ok ()

/-- A completion object's segment check with its alignment. -/
def objectCheck (s : State) (v : View) (addr : Word) (size need : Nat) : Except Stop Reach := do
  let r ← segCheck s v addr size need
  if addr.toNat % size ≠ 0 then throw (.trap cMISALIGN addr)
  return r

/-- The checks of R216 in its order; the formats of the two sides and the saturation. -/
def copyChecks (s : State) (t : Tid) (b : List Byte) (cond : Bool) : Except Stop (Nat × Nat × Bool) := do
  let v := viewOf s t
  let sf := sideFmt s v (cbSrc b) (cbCtrl b / 2 ^ 16 % 16)
  let df := sideFmt s v (cbDst b) (cbCtrl b / 2 ^ 20 % 16)
  let bad := copyMalformed s v b cond sf df
  if bad ≠ 0 then throw (.trap cCOPY_MALFORMED (BitVec.ofNat 64 bad))
  let one := oneRow cond sf df
  let srcExt := covering b (strides b one false) (cbX b)
  let dstExt := covering b (strides b one true) (dstRow b sf df)
  extentCheck s v (cbSrc b) srcExt rRD
  extentCheck s v (cbDst b) dstExt rWR
  if mq4Side sf df then
    extentCheck s v (cbScaleAddr b) (0, scaleExtent (rowElems b sf df / 64) (cbSC b)) (if df = 7 then rWR else rRD)
  if cbFV b then let _ ← objectCheck s v (cbFlag b) 4 rWR
  if cbSV b then let _ ← objectCheck s v (cbSignal b) 16 rAMO
  if cond then
    let r ← objectCheck s v (cbVerAddr b) 8 rAMO
    let _ ← xlate s v (cbVerAddr b) 8 rAMO (some (cbScope b, false)) r
  let dstShelves := if shelfKind (segKind v (cbDst b)) then shelfWords s v (cbDst b) dstExt else []
  if shelfKind (segKind v (cbSrc b)) && (shelfWords s v (cbSrc b) srcExt).any (fun f => f % 16 == 8)
      && !(!dstShelves.isEmpty && dstShelves.all fun f => f % 16 == 8) then throw (.trap cEGRESS_DENIED (cbSrc b))
  return (sf, df, (cbCtrl b).testBit 6 || dstShelves.any fun f => f.testBit 4)

/-- The 256 most recent tickets' records, the latest last (R224). -/
def keepRecent (rs : List CopyRec) : List CopyRec := rs.drop (rs.length - 256)

/-- `CPY`, `CPY.nb`, `CPYC`, `CPYC.nb` (R216). -/
def copyIssue (w : BitVec 32) (s : BitVec 3) (d a : BitVec 5) (cond nb : Bool) (st : State) : Out :=
  issue { word := w, stall := s.toNat, reads := [(.g, a.toNat)], role := .t14, cls := .irrev, home := true } st fun z t => do
    let th := z.thread t
    let k ← ownBlock z t (th.readG a.toNat) 64 64 rRD true
    let z := settlePosted z t k.2
    let b := readPlaces z k.2
    let c ← copyChecks z t b cond
    let i := settOf t.core
    let x := z.sett i
    let h := x.handle (cbHandle b)
    if cbHV b && hState h != hFree then throw (.trap cHANDLE_STATE (handleEval (cbHandle b + vsettOf z t % 1024 * 65536) (hState h)))
    if 128 ≤ x.queue.length then
      if nb then return (z.setThread t ((z.thread t).putG d.toNat (BitVec.allOnes 64)), .seq) else throw (.park false .reissue)
    let v := viewOf z t
    let new : Copy := ⟨x.ticket, x.epoch, v.ctx, t, b, cond, c.1, c.2.1, v.segBase, v.segLimit, c.2.2, .moving, 0, cbSlack b, 0, none, [], false, 0, false,
      none, (z.thread t).recent⟩
    -- TICKET, and ERR and DISCARD 0; REASON stays
    let x := if cbHV b then x.setHandle (cbHandle b) (BitVec.ofNat 64 (x.ticket * 2 ^ 32 + field h 15 8 * 256 + hFilling)) else x
    let z := z.setSett i { x with
      ticket := (x.ticket + 1) % 2 ^ 32
      queue := x.queue ++ [new]
      recs := keepRecent (x.recs ++ [⟨new.ticket, 0, 0, 0⟩]) }
    return (z.setThread t ((z.thread t).putG d.toNat (BitVec.ofNat 64 new.ticket)), .seq)

/-- A copy that no chunk, staging or check has moved yet (R224). -/
def Copy.queued (c : Copy) : Bool := c.pos == 0 && c.phase == .moving && c.ver.isNone

/-- The outcome that `CPYST` reports for a ticket (R224). -/
def ticketStatus (x : Sett) (n : Nat) : Word :=
  match x.recs.find? (fun r => r.ticket == n) with
  | none => 7
  | some r =>
    let q := x.queue.find? (fun c => c.ticket == n && c.epoch == x.epoch)
    let outcome := match q with
      | some c => if c.queued then 0 else 1
      | none => r.outcome
    let flags := match q with
      | some c => c.flags
      | none => r.flags
    BitVec.ofNat 64 (outcome + r.reason * 256 + flags % 256 * 65536)

/-! ## Arbitration (R218) -/

/-- Bytes of a copy's stream: its source rows while a `CPYC` stages, else its destination rows. -/
def Copy.total (c : Copy) : Nat :=
  let rows := cbY c.blk * cbZ c.blk
  if c.cond && c.ver.isNone then cbX c.blk else rows * dstRow c.blk c.srcFmt c.dstFmt

def Copy.next (c : Copy) : Nat := min 2048 (c.total - c.pos)
def Copy.pair (c : Copy) : Nat := c.ctx * 4 + cbClass c.blk

/-- A `CPYC` holds the staging buffer from its first chunk to its end (R223). -/
def Copy.staging (c : Copy) : Bool := c.cond && (0 < c.pos || c.phase != .moving || c.ver.isSome)

/-- Two entries of a queue are the same copy. -/
def Copy.same (c y : Copy) : Bool := c.ticket == y.ticket && c.epoch == y.epoch

/-- The copy can send a chunk now. -/
def Copy.movable (q : List Copy) (c : Copy) : Bool :=
  c.phase == .moving && c.failed.isNone && !c.missing && (!c.cond || !q.any fun y => y.staging && !c.same y)

/-- The movable copy of a pair that goes first: least effective slack, then the older ticket (the queue is in that order). -/
def leastSlack (q : List Copy) (p : Nat) : Option Copy :=
  (q.filter fun c => c.pair == p && c.movable q).foldl (fun best c => match best with
    | none => some c
    | some b => if c.slack < b.slack then some c else some b) none

/-- Q in bytes. -/
def quantum (s : State) (p : Nat) : Nat :=
  let q := (s.ctx (p / 4)).quant.toList.getD (p % 4) 0
  (if q = 0 then 8 else q) * 1024

/-- The pair after `p` in the cycle of pairs that have a copy to move. -/
def nextPair (q : List Copy) (p : Nat) : Option Nat :=
  let ps := sortBy (fun a b => decide (a ≤ b)) (addNew [] ((q.filter fun c => c.phase == .moving && c.failed.isNone).map Copy.pair))
  match ps.find? (fun x => decide (p < x)) with
  | some x => some x
  | none => ps.head?

/-- The contexts with a copy waiting on a die: they are not idle in class 1 there (R332). -/
def copyWaiters (s : State) (d : Nat) : List Nat :=
  (s.setts.map fun e => if e.2.die == d then (e.2.queue.filter fun c => c.phase == .moving).map (·.ctx) else []).flatten

/-- R218's accounts after a chunk: the deficit, and the effective slack of the pair's other copies. -/
def accountChunk (x : Sett) (c : Copy) (n : Nat) : Sett :=
  let queue := x.queue.map fun y =>
    if c.same y then { y with others := 0 }
    else if y.pair == c.pair then
      (if y.others = 15 then { y with
        others := 0
        slack := y.slack - 1 } else { y with others := y.others + 1 })
    else y
  { x with
    queue := queue
    deficits := KMap.put 0 x.deficits c.pair (KMap.getD x.deficits c.pair 0 - n) }

/-- A pair with nothing left to move, now or after a version check, has its deficit at 0 (R218). -/
def Sett.tidy (x : Sett) : Sett :=
  { x with deficits := x.deficits.filter fun e => x.queue.any fun y => y.pair == e.1 && (y.phase == .moving || y.phase == .check) && y.failed.isNone }

/-! ## Chunks -/

/-- The pieces of a side for destination bytes p to p + n: (address, length), row by row (R215). -/
def pieces (base : Word) (st : Int × Int) (y drow nNum nDen : Nat) : Nat → Nat → Nat → List (Word × Nat)
  | 0, _, _ => []
  | fuel + 1, p, n =>
    if n = 0 then []
    else
      let r := p / drow
      let o := p % drow
      let len := min n (drow - o)
      (base + BitVec.ofInt 64 (((r % y : Nat) : Int) * st.1 + ((r / y : Nat) : Int) * st.2) + BitVec.ofNat 64 (o * nNum / nDen), len * nNum / nDen)
        :: pieces base st y drow nNum nDen fuel (p + len) (n - len)

/-- How an engine's access fails: a miss, with the extent for its record, or a reason of Table 14.6. -/
inductive EngFail where
  | miss (addr : Word) (cva kind size : Nat)
  | reason (n : Nat)
  deriving DecidableEq, Repr

/-- Table 14.6 by what stopped the access. -/
def engFail : Stop → EngFail
  | .miss a cva k n => .miss a cva k n
  | .trap c _ =>
    if c = cSEG_LIMIT ∨ c = cSEG_RIGHTS then .reason 4
    else if c = cATOMIC_PATH then .reason 3
    else if c = cHOST_ABORT then .reason 1
    else .reason 2
  | _ => .reason 6

/-- The places of an engine's access; a write must be one that the target sett accepts. -/
def engPlaces (s : State) (v : View) (addr : Word) (size need : Nat) (atom : Option (Nat × Bool)) : Except EngFail (List Nat) :=
  let places (r : Reach) : Except Stop (List Nat × Reach) := (reachPlaces s v addr size need r).map fun ks => (ks, r)
  match (segCheck s v addr size need).bind places with
  | .error e => .error (engFail e)
  | .ok (ks, r) =>
    if hasRights need rWR && !ks.all (placeAccepts s v.ctx) then .error (.reason 5)
    else (xlate s v addr size need atom r).mapError fun e => match e with
      | .trap c _ => if c = cHOST_ABORT ∨ c = cDATA_SOFT_ERROR then .reason 6 else engFail e
      | e => engFail e

/-- A miss with the extent of the chunk on the side of the access (R219). -/
def EngFail.sized (n : Nat) : EngFail → EngFail
  | .miss a cva k _ => .miss a cva k n
  | e => e

/-- The places of a chunk on a side. -/
def piecePlaces (s : State) (v : View) (need : Nat) (ps : List (Word × Nat)) : Except EngFail (List Nat) :=
  match ps.mapM fun p => engPlaces s v p.1 p.2 need none with
  | .ok ks => .ok ks.flatten
  | .error e => .error (e.sized (ps.foldl (fun n p => n + p.2) 0))

/-- What a copy reads at a place: memory, or in words where the choice falls so what the issuer's unfenced stores found (R86). -/
def Copy.sees (s : State) (c : Copy) (k : Nat) : Byte :=
  match c.stale.find? fun e => e.1 == k with
  | some e => if Config.engineReadsOld c.ticket (k / 4) then e.2 else readPlace s k
  | none => readPlace s k

/-- Elements of n half bytes from bytes. -/
def elemsOf (nib : Nat) (bs : List Byte) : List Nat :=
  if nib = 1 then (bs.map fun b => [b.toNat % 16, b.toNat / 16]).flatten
  else (List.range (2 * bs.length / nib)).map fun i => blkNat bs (i * nib / 2) (nib / 2)

/-- Bytes of elements of n half bytes. -/
def bytesOf (nib : Nat) (es : List Nat) : List Byte :=
  if nib = 1 then (List.range (es.length / 2)).map fun i => BitVec.ofNat 8 (es.getD (2 * i) 0 % 16 + es.getD (2 * i + 1) 0 % 16 * 16)
  else (es.map fun e => leBytes e (nib / 2)).flatten

/-- A converting copy without an mq4 side (R68): bytes and flags, under RNE. -/
def convertBytes (sf df : Nat) (sat : Bool) (bs : List Byte) : List Byte × Nat :=
  let rs := (elemsOf (fmtNibbles sf) bs).map fun e => encodeElem df 0 sat (decodeElem sf e)
  (bytesOf (fmtNibbles df) (rs.map (·.1)), rs.foldl (fun f r => orFlags f r.2) 0)

/-- R63 on blocks of 64 FP32 patterns under a given S: block codes, codes and flags. -/
def quantBlocks (S : Nat) : Nat → List Nat → List Nat × List Nat × Nat
  | 0, _ => ([], [], 0)
  | n + 1, xs =>
    let r := quantBlockS S (xs.take 64)
    let q := quantBlocks S n (xs.drop 64)
    (r.1 :: q.1, r.2.2.1 ++ q.2.1, orFlags r.2.2.2 q.2.2)

/-- The scale bytes of blocks j to j + n, with S of each (R62, R215). -/
def scaleBytes (s : State) (v : View) (b : List Byte) (j n : Nat) : Except EngFail (List (BitVec 40)) :=
  ((List.range n).map (j + ·)).mapM fun k => do
    let base := cbScaleAddr b + BitVec.ofNat 64 (8512 * (k / 256))
    let c ← (engPlaces s v (base + BitVec.ofNat 64 (k % 256)) 1 rRD none).mapError (EngFail.sized n)
    let S ← engPlaces s v (base + 256) 4 rRD none
    return scaleEntry (BitVec.ofNat 32 (leNat (readPlaces s S))) (leNat (readPlaces s c))

/-- What a chunk does: the state with its writes, the copy with its flags and staging. DESIGN CHOICE (log 63): a copy into MQ4 leaves
the reserved bytes of the image as they were. -/
def moveChunk (s : State) (c : Copy) (n : Nat) : Except EngFail (State × Copy) := do
  let v : View := ⟨c.ctx, c.issuer.core, c.segBase, c.segLimit⟩
  let b := c.blk
  let sf := c.srcFmt
  let df := c.dstFmt
  let one := oneRow c.cond sf df
  let drow := dstRow b sf df
  let sp (p n : Nat) := pieces (cbSrc b) (strides b one false) (cbY b) drow (srcNib sf df) (dstNib sf df) n p n
  let dp := pieces (cbDst b) (strides b one true) (cbY b) drow 1 1 n c.pos n
  if c.cond && c.ver.isNone then
    -- R223: staging
    let ks ← engPlaces s v (cbSrc b + BitVec.ofNat 64 c.pos) n rRD none
    return (s, { c with staged := c.staged ++ ks.map (c.sees s) })
  else if c.cond then
    let nb := n * srcNib sf df / dstNib sf df
    let bs := (c.staged.drop (c.pos * srcNib sf df / dstNib sf df)).take nb
    let r := if converts sf df then convertBytes sf df c.sat bs else (bs, 0)
    let ds ← piecePlaces s v rWR dp
    return (writePlaces s ds r.1, { c with flags := orFlags c.flags r.2 })
  else if !converts sf df then
    let ks ← piecePlaces s v rRD (sp c.pos n)
    let ds ← piecePlaces s v rWR dp
    return (writePlaces s ds (ks.map (c.sees s)), c)
  else if sf = 7 then
    let j := c.pos / dstNib sf df * 2 / 64
    let elems := 2 * n / dstNib sf df
    let ks ← piecePlaces s v rRD (sp c.pos n)
    let ds ← piecePlaces s v rWR dp
    let es ← scaleBytes s v b j ((elems + 63) / 64)
    let codes := elemsOf 1 (ks.map (c.sees s))
    let rs := (List.range elems).map fun i =>
      let e := es.getD (i / 64) 0
      encodeElem df 0 c.sat (mq4Element (entryKind e) (entryScale e) (codes.getD i 0))
    return (writePlaces s ds (bytesOf (fmtNibbles df) (rs.map (·.1))), { c with flags := rs.foldl (fun f r => orFlags f r.2) c.flags })
  else if df = 7 then
    -- a superblock is quantised when its first chunk moves; its codes and block codes are kept for the later chunks
    let start := c.pos / 8192 * 8192
    let size := min 8192 (drow - start)
    let fresh : Except EngFail (List Byte × Nat × List Byte) :=
      if c.pos = start then do
        let ks ← piecePlaces s v rRD (sp start size)
        let xs := (elemsOf (fmtNibbles sf) (ks.map (c.sees s))).map (decodeElem sf)
        let S := if cbSC b then cbS b else superScale xs
        let q := quantBlocks S (xs.length / 64) xs
        return (bytesOf 1 q.2.1 ++ q.1.map (BitVec.ofNat 8) , q.2.2, leBytes S 4)
      else return (c.staged, 0, [])
    let f ← fresh
    let j := c.pos / 32
    let area := cbScaleAddr b + BitVec.ofNat 64 (if cbSC b then 0 else 8512 * (c.pos / 8192))
    let first := if cbSC b then j else j % 256
    let ds ← piecePlaces s v rWR dp
    let bk ← engPlaces s v (area + BitVec.ofNat 64 first) (n / 32) rWR none
    let sk ← engPlaces s v (area + 256) 4 rWR none
    let s := writePlaces s ds ((f.1.drop (c.pos - start)).take n)
    let s := writePlaces s bk ((f.1.drop (size + (c.pos - start) / 32)).take (n / 32))
    return (writePlaces s sk f.2.2, { c with
      staged := f.1
      flags := orFlags c.flags f.2.1 })
  else
    let ks ← piecePlaces s v rRD (sp c.pos n)
    let ds ← piecePlaces s v rWR dp
    let r := convertBytes sf df c.sat (ks.map (c.sees s))
    return (writePlaces s ds r.1, { c with flags := orFlags c.flags r.2 })

/-- Replaces a copy in its sett's queue. -/
def putCopy (s : State) (i : Nat) (c : Copy) : State :=
  let x := s.sett i
  s.setSett i ({ x with queue := x.queue.map fun y => if c.same y then c else y }).tidy

/-- R219, R220: a copy's access that failed: a miss record to the issuing core, unless its mailbox is full, or the copy has failed. -/
def copyStopped (s : State) (i : Nat) (c : Copy) : EngFail → Option State
  | .reason n => some (putCopy s i { c with
      failed := some n
      phase := .ending })
  | .miss addr cva kind size =>
    if 16 ≤ (s.core c.issuer.core).missbox.length then none
    else
      let p := postMiss s c.issuer.core 0xFF c.ctx kind size cva addr (.copy c.ticket c.epoch i)
      some (putCopy p.1 i { c with missing := true })

/-- A copy after a chunk of n bytes: it ends, or, once staged, its version is checked; once written, its version is closed. -/
def Copy.moved (c : Copy) (n : Nat) : Copy :=
  if c.pos + n < c.total then { c with pos := c.pos + n }
  else { c with
    pos := c.pos + n
    phase := if !c.cond then .ending else if c.ver.isNone then .check else .closing }

/-- The flits that bytes going from die to die take: of 256 bytes each (Table 21.7). -/
def flits (n : Nat) : Nat := (n + 255) / 256

/-- The die of a place inside the package, and whether a place lies behind a fabric port. -/
def placeDie (s : State) (k : Nat) : Option Nat :=
  let a := k % 2 ^ 64
  match k / 2 ^ 64 with
  | 0 | 1 => (s.sett (a / 2 ^ 21)).place.map (· / 144)
  | 2 => some (a / 2 ^ 31)
  | 3 => some (a / 2 ^ 37)
  | _ => none
def behindPort (k : Nat) : Bool := outKey Config.fabricBase ≤ k && k < outKey (2 * Config.fabricBase)

/-- What a chunk of n bytes reads and what it writes, as pieces of the sides and of the scale area. -/
def Copy.uses (c : Copy) (n : Nat) : List (Word × Nat) × List (Word × Nat) :=
  let b := c.blk
  let sf := c.srcFmt
  let df := c.dstFmt
  let one := oneRow c.cond sf df
  let drow := dstRow b sf df
  let sp (p n : Nat) := pieces (cbSrc b) (strides b one false) (cbY b) drow (srcNib sf df) (dstNib sf df) n p n
  let dp := if c.cond && c.ver.isNone then [] else pieces (cbDst b) (strides b one true) (cbY b) drow 1 1 n c.pos n
  if c.cond then (if c.ver.isSome then [] else [(cbSrc b + BitVec.ofNat 64 c.pos, n)], dp)
  else if converts sf df && sf == 7 then
    let scale (k : Nat) : List (Word × Nat) :=
      let area := cbScaleAddr b + BitVec.ofNat 64 (8512 * (k / 256))
      [(area + BitVec.ofNat 64 (k % 256), 1), (area + 256, 4)]
    (sp c.pos n ++ (List.range ((2 * n / dstNib sf df + 63) / 64)).flatMap fun i => scale (c.pos / dstNib sf df * 2 / 64 + i), dp)
  else if converts sf df && df == 7 then
    let area := cbScaleAddr b + BitVec.ofNat 64 (if cbSC b then 0 else 8512 * (c.pos / 8192))
    let first := if cbSC b then c.pos / 32 else c.pos / 32 % 256
    (if c.pos % 8192 = 0 then sp c.pos (min 8192 (drow - c.pos)) else [], dp ++ [(area + BitVec.ofNat 64 first, n / 32), (area + 256, 4)])
  else (sp c.pos n, dp)

/-- A number that no die has: what lies behind a fabric port. -/
def noDie : Nat := 2 ^ 16

/-- The bytes among some places that lie on each die but one, or behind a port. -/
def bytesAway (s : State) (here : Nat) (ks : List Nat) : List (Nat × Nat) :=
  let ds := ks.filterMap fun k => match placeDie s k with
    | some d => if d = here then none else some d
    | none => if behindPort k then some noDie else none
  (addNew [] ds).map fun d => (d, (ds.filter (· == d)).length)

/-- The dies onto whose boundaries or ports a chunk of a copy is injected, with the flits: what is read from the die where it lies,
what is written from the engine's own (log 33). -/
def chunkFlits (s : State) (i : Nat) (c : Copy) (n : Nat) : List (Nat × Nat) :=
  let v : View := ⟨c.ctx, c.issuer.core, c.segBase, c.segLimit⟩
  let here := (s.sett i).die
  let places (need : Nat) (ps : List (Word × Nat)) : List Nat := ((piecePlaces s v need ps).toOption).getD []
  let u := c.uses n
  ((bytesAway s here (places rRD u.1)).filter fun e => decide (e.1 < noDie)).map (fun e => (e.1, flits e.2))
    ++ (bytesAway s here (places rWR u.2)).map fun e => (here, flits e.2)

/-- The contexts with a request of class 4 waiting on a die: they are not idle there (R332). -/
def netWaiters (s : State) (d : Nat) : List Nat :=
  let copies := (s.setts.map fun e => (e.2.queue.filter fun c => c.phase == .moving && (chunkFlits s e.1 c c.next).any (·.1 == d)).map (·.ctx)).flatten
  let sent := s.flights.filterMap fun f => match f with
    | .bank src x fn _ _ lines _ _ _ _ _ _ _ =>
      if lines.any (fun l => dieOf s src.core == d && d != l.1 % 2 ^ 64 / 2 ^ 31 || fn == 1 && l.2 % 2 ^ 64 / 2 ^ 31 == d && d != l.1 % 2 ^ 64 / 2 ^ 31)
      then some x else none
    | .append src cat id _ _ =>
      let home := if cat then (s.cats.find? id).map (·.home) else (s.objects.find? id).map (·.home)
      if dieOf s (homeTid s src).core == d && home != some d then some (ctxOf s src) else none
    | _ => none
  let aops := (s.cores.map fun e => if dieOf s e.1 == d then (List.range 16).filterMap fun i =>
      match (e.2.thread i).run with
      | .parkedEngine (.bank b) _ => if b = d then none else some (ctxOf s ⟨e.1, i⟩)
      | _ => none
    else []).flatten
  copies ++ sent ++ aops ++ (s.contribs.filter fun c => c.die == d).map fun c => ctxOf s c.issuer

/-- Takes the tokens of class 4 for flits; none while they do not suffice (R331). -/
def inject (s : State) (x : Nat) : List (Nat × Nat) → Option State
  | [] => some s
  | (d, n) :: rest => (spend s x d 4 n (netWaiters s d)).bind fun z => inject z x rest

/-- The translations that a chunk uses (R326). -/
def useChunk (s : State) (c : Copy) (n : Nat) : State :=
  let u := c.uses n
  (u.1 ++ u.2).foldl (fun s p => useAt s ⟨c.ctx, c.issuer.core, c.segBase, c.segLimit⟩ p.1 p.2) s

/-- The next chunk of a copy of sett i: sent where the tokens cover it, counted by the arbitration; or its access misses or fails,
which costs nothing (R218, R219). None where it must wait. -/
def sendChunk (s : State) (i : Nat) (c : Copy) : Option State :=
  let n := c.next
  match moveChunk s c n with
  | .error e => copyStopped s i c e
  | .ok (z, c') =>
    let x := s.sett i
    match (spend z c.ctx x.die 1 n (copyWaiters s x.die)).bind fun z => inject z c.ctx (chunkFlits s i c n) with
    | none => none
    | some z =>
      let z := useChunk z c n
      let z := z.setSett i (accountChunk (z.sett i) c n)
      let now := ((z.sett i).queue.find? c.same).getD c
      some (putCopy z i { c'.moved n with others := now.others })

/-- A copy's next chunk misses while the issuing core's miss mailbox is full: other chunks are served meanwhile (R219). -/
def mustWait (s : State) (c : Copy) : Bool :=
  decide (16 ≤ (s.core c.issuer.core).missbox.length) && match moveChunk s c c.next with
    | .error (.miss _ _ _ _) => true
    | _ => false

/-- The arbitration of R218 over the copies that `may` be served: the state after the next chunk. `turn` is one above the pair whose
quantum has been added. -/
def serveCopy (may : Copy → Bool) : Nat → State → Nat → Option State
  | 0, _, _ => none
  | n + 1, s, i =>
    let x := s.sett i
    let q := x.queue.filter may
    let here : Option State :=
      if x.turn = 0 then none
      else match leastSlack q (x.turn - 1) with
        | none => none
        | some c => if KMap.getD x.deficits c.pair 0 < c.next then none else sendChunk s i c
    match here with
    | some r => some r
    | none =>
      match nextPair q (x.turn - 1) with
      | none => none
      | some p =>
        let p := if x.turn = 0 then (nextPair (q.filter fun c => c.pair == 0) 0).getD p else p
        let d := KMap.getD x.deficits p 0 + quantum s p
        serveCopy may n (s.setSett i { x with
          turn := p + 1
          deficits := KMap.put 0 x.deficits p d }) i

/-- The engine of a sett works, and its partition is not stopped by a gang switch. -/
def settRuns (s : State) (i : Nat) : Bool := settClock s i && !(s.switches.any fun w => w.phase == 2 && w.out == (s.sett i).part)

/-! ## The end of a copy (R220) -/

def setRec (x : Sett) (n outcome reason flags : Nat) : Sett :=
  { x with recs := x.recs.map fun r => if r.ticket == n then ⟨n, outcome, reason, flags⟩ else r }

/-- The copy belongs to the present launch of its sett, whose handles and tickets it may change. -/
def Copy.current (x : Sett) (c : Copy) : Bool := c.epoch == x.epoch

/-- The copy leaves the queue with an outcome. -/
def retireCopy (s : State) (i : Nat) (c : Copy) (outcome reason : Nat) : State :=
  let x := s.sett i
  let y := ({ x with queue := x.queue.filter fun y => !c.same y }).tidy
  s.setSett i (if c.current x then setRec y c.ticket outcome reason c.flags else y)

/-- A failed copy: the handle free with ERR (DISCARD as its version check left it), bit 63 into SIGNAL, COPY_FAULT on the issuer.
DESIGN CHOICE (log 75): the version word of a `CPYC` that fails or is aborted in its write phase keeps v + 1 (R223 is silent). -/
def failCopy (s : State) (i : Nat) (c : Copy) (reason outcome : Nat) (sig fault : Bool) : State :=
  let s := retireCopy s i c outcome reason
  let s := if cbHV c.blk && c.current (s.sett i) then setHandleOf s i (cbHandle c.blk) (BitVec.ofNat 64 (c.ticket * 2 ^ 32 + reason * 256 + 4 + if c.discarded then 8 else 0)) else s
  let s := if sig && cbSV c.blk then signalError s ⟨c.ctx, c.issuer.core, c.segBase, c.segLimit⟩ (cbSignal c.blk) else s
  if fault then pendTrap s c.issuer (srcKind 1 (s.sett i).vsett) cCOPY_FAULT (BitVec.ofNat 64 (c.ticket + reason * 2 ^ 32)) else s

/-- The version word of a `CPYC` whose payload is written becomes even again (R223). -/
def closeVersion (s : State) (i : Nat) (c : Copy) : Option State :=
  match engPlaces s ⟨c.ctx, c.issuer.core, c.segBase, c.segLimit⟩ (cbVerAddr c.blk) 8 rAMO (some (cbScope c.blk, false)) with
  | .error e => copyStopped s i c e
  | .ok ks =>
    let s := useAt s ⟨c.ctx, c.issuer.core, c.segBase, c.segLimit⟩ (cbVerAddr c.blk) 8
    some (putCopy (writePlaces s ks (leBytes (c.ver.getD 0 + 2) 8)) i { c with phase := .ending })

/-- Completes a copy whose chunks are all written, after its completion objects are known to be reachable. -/
def completeCopy (s : State) (i : Nat) (c : Copy) : Option State :=
  let v : View := ⟨c.ctx, c.issuer.core, c.segBase, c.segLimit⟩
  let b := c.blk
  let attr (ks : List Nat) : Nat := leNat (readPlaces s (ks.drop 8))
  let objs : Except EngFail (List Nat × List Nat) := do
    let f ← if cbFV b then engPlaces s v (cbFlag b) 4 rWR none else .ok []
    let g ← if cbSV b then engPlaces s v (cbSignal b) 16 rAMO none else .ok []
    let g ← if cbSV b then engPlaces s v (cbSignal b) 16 rAMO (some (attrScope (attr g), false)) else .ok []
    return (f, g)
  match objs with
  | .error (.reason 3) => some (failCopy s i c 3 4 false true)
  | .error e => copyStopped s i c e
  | .ok (f, _) =>
    let h := (s.sett i).handle (cbHandle b)
    let s := if cbHV b && c.current (s.sett i) then setHandleOf s i (cbHandle b) (withState h hFull) else s
    let s := if cbFV b then writePlaces (useAt s v (cbFlag b) 4) f (leBytes (cbFlagval b) 4) else s
    let s := if cbSV b then engineSignal s v (cbSignal b) false 1 none else s
    some (retireCopy s i c (if c.discarded then 3 else 2) 0)

/-! ## Bank units (R227 to R229) -/

/-- The die of an Archive place. -/
def archDie (k : Nat) : Nat := k % 2 ^ 64 / 2 ^ 31

/-- The contexts with a bank operation waiting on a die (R332). -/
def bankWaiters (s : State) (d : Nat) : List Nat :=
  (s.flights.filterMap fun f => match f with
    | .bank _ x _ _ _ lines _ _ _ _ _ _ _ => if lines.any fun l => archDie l.1 == d then some x else none
    | _ => none)
  ++ (s.cores.map fun e => (List.range 16).filterMap fun i => if (e.2.thread i).waitsFor (.bank d) then some (ctxOf s ⟨e.1, i⟩) else none).flatten

/-- Round_bf16_rne(old + x). -/
def bf16Add (old x : Nat) : Nat := (addF bf16 0 (decodeF bf16 old) (decodeF bf16 x)).1

/-- `AOP` .fadd.bf16 on one or two elements. -/
def aopBf16 (size old x : Nat) : Nat :=
  if size = 2 then bf16Add old x else bf16Add (old % 65536) (x % 65536) + 65536 * bf16Add (old / 65536) (x / 65536)

/-- `AOP` (R227): an atomic at a bank of the Archive. -/
def aop (w : BitVec 32) (legal : Bool) (s : BitVec 3) (t a : BitVec 5) (z : BitVec 3) (r : BitVec 2) (c : BitVec 3) (f : Nat → Nat → Nat → Nat) (st : State) : Out :=
  let size := 2 ^ z.toNat
  issue { word := w, stall := s.toNat, legal := legal, reads := [(.g, t.toNat), (.g, a.toNat)], cls := .irrev } st fun q id => do
    let th := q.thread id
    let addr := th.readG a.toNat
    let _ ← segCheck q (viewOf q id) addr size rAMO
    if segKind (viewOf q id) addr ≠ 5 then throw (.trap cSEG_RIGHTS addr)
    let k ← access q id addr size rAMO true (some (c.toNat, false))
    scGate q id r.toNat
    let here := dieOf q id.core
    let die := archDie (k.2.headD 0)
    match (spend q (ctxOf q id) die 3 1 (bankWaiters q die)).bind fun q => inject q (ctxOf q id) (if here = die then [] else [(here, 1)]) with
    | none => throw (.park false (.bank die))
    | some q => amoBody t.toNat a.toNat size r.toNat c.toNat (fun th old => f size old ((th.readG t.toNat).toNat % 2 ^ (8 * size))) q id

/-- One element of a bank operation: op 0 sum, 1 min, 2 max. -/
def bankOp (op ty x y : Nat) : Nat :=
  let fm := if ty = 1 then bf16 else fp32
  match op, ty with
  | 0, 2 => (x + y) % 2 ^ 32
  | 1, 2 => if asInt 4 y < asInt 4 x then y else x
  | _, 2 => if asInt 4 x < asInt 4 y then y else x
  | 0, _ => (addF fm 0 (decodeF fm x) (decodeF fm y)).1
  | 1, _ => minmaxF fm false x y
  | _, _ => minmaxF fm true x y

/-- A line's new bytes from its old bytes and the source line (R229). -/
def bankLine (fn op ty : Nat) (a : BitVec 32) (pat : Word) (old src : List Byte) : List Byte :=
  let n := if ty = 1 then 2 else 4
  let fm := if ty = 1 then bf16 else fp32
  -- a is FP32; for bf16 elements the product and sum are exact before the one rounding
  match fn with
  | 0 => ((List.range (64 / n)).map fun i => leBytes (bankOp op ty (blkNat old (i * n) n) (blkNat src (i * n) n)) n).flatten
  | 1 => ((List.range (64 / n)).map fun i =>
      leBytes (fmaF fm 0 (decodeF fp32 a.toNat) (decodeF fm (blkNat src (i * n) n)) (decodeF fm (blkNat old (i * n) n))).1 n).flatten
  | _ => ((List.range 8).map fun _ => leBytes pat.toNat 8).flatten

/-- The places of the first bytes of the lines of an Archive range. -/
def linesOf (ks : List Nat) : List Nat := (List.range (ks.length / 64)).map fun i => ks.getD (64 * i) 0

/-- `ARED`, `AXPY`, `AFILL` (R228): fn 0, 1, 2. -/
def bankIssue (w : BitVec 32) (fn : Nat) (s : BitVec 3) (d a : BitVec 5) (st : State) : Out :=
  issue { word := w, stall := s.toNat, reads := [(.g, a.toNat)], cls := .irrev, home := true } st fun z t => do
    let th := z.thread t
    let k ← ownBlock z t (th.readG a.toNat) 64 64 rRD
    let z := settlePosted z t k.2
    let b := readPlaces z k.2
    let v := viewOf z t
    let dst := cbSrc b
    let src := cbDst b
    let len := blkNat b 20 4
    let ctrl := blkNat b 24 4
    let op := ctrl % 8
    let ty := ctrl / 16 % 4
    let dr ← segCheck z v dst len (if fn = 2 then rWR else 3)
    if segKind v dst ≠ 5 then throw (.trap cSEG_RIGHTS dst)
    let sr ← if fn = 2 then .ok (Reach.places 5 []) else segCheck z v src (if fn = 0 then 64 else len) rRD
    if fn = 1 ∧ segKind v src ≠ 5 then throw (.trap cSEG_RIGHTS src)
    if fn = 0 ∧ segKind v src ≠ 2 ∧ segKind v src ≠ 7 then throw (.trap cSEG_RIGHTS src)
    if dst.toNat % 64 ≠ 0 then throw (.trap cMISALIGN dst)
    if fn ≠ 2 ∧ src.toNat % 64 ≠ 0 then throw (.trap cMISALIGN src)
    if ctrl.testBit 6 ∧ (wordOf ((b.drop 32).take 8)).toNat % 16 ≠ 0 then throw (.trap cMISALIGN (wordOf ((b.drop 32).take 8)))
    if (fn = 0 ∧ 2 < op) ∨ ty = 3 ∨ (fn = 1 ∧ ty = 2) then throw (.trap cOPERAND_RANGE (BitVec.ofNat 64 ctrl))
    let top := if fn = 0 then 64 else if fn = 1 then 65536 else 16777216
    if len = 0 ∨ top < len ∨ len % 64 ≠ 0 then throw (.trap cOPERAND_RANGE (BitVec.ofNat 64 len))
    let ds ← xlate z v dst len rWR none dr
    let ss ← xlate z v src len rRD none sr
    let lines := if fn = 1 then (linesOf ds).zip (linesOf ss) else (linesOf ds).map fun x => (x, x)
    let z := if fn = 0 then settlePosted z t ss else z
    let srcLine := if fn = 0 then readPlaces z ss else []
    let f := Flight.bank t v.ctx fn op ty lines srcLine (BitVec.ofNat 32 (blkNat b 16 4)) src ((ctrl / 64) % 2 == 1) (wordOf ((b.drop 32).take 8)) v.segBase v.segLimit
    let z := { z with flights := z.flights ++ [f] }
    return (z.setThread t ((z.thread t).putG d.toNat 0), .seq)

/-- A `CPYC` in its write phase, which finishes before a stop (R223, R231). -/
def writing (c : Copy) : Bool := c.cond && c.ver.isSome && (c.phase == .moving || c.phase == .closing) && c.failed.isNone

/-- The tokens of a line of a bank command: one of class 3 at its bank's die, and the flits of the command and of the x line of an
`AXPY` that come from other dies (R331). None while they do not suffice. -/
def bankPay (s : State) (src : Tid) (x fn : Nat) (l : Nat × Nat) : Option State :=
  let d := archDie l.1
  (spend s x d 3 1 (bankWaiters s d)).bind fun z => inject z x
    ((if dieOf s src.core = d then [] else [(dieOf s src.core, 1)]) ++ if fn = 1 ∧ archDie l.2 ≠ d then [(archDie l.2, 1)] else [])

/-- The line of a flight that comes next: the first that its context's tokens cover. -/
def nextLine (s : State) : Flight → Option Nat
  | .bank src x fn _ _ lines _ _ _ _ _ _ _ => lines.findIdx? fun l => (bankPay s src x fn l).isSome
  | _ => none

/-- An older command has a line for the bank units of a die that can be paid: it goes first (R334). -/
def olderLine (s : State) (n die : Nat) : Bool :=
  (s.flights.take n).any fun f => match f with
    | .bank src x fn _ _ lines _ _ _ _ _ _ _ => lines.any fun l => archDie l.1 == die && (bankPay s src x fn l).isSome
    | _ => false

/-- The update of a line meets bytes with an uncorrectable error, or none of the path (reason 6 of Table 14.6). -/
def lineSpoilt (s : State) (fn : Nat) (l : Nat × Nat) : Bool :=
  let dst := span l.1 64
  let src := if fn = 1 then span l.2 64 else []
  s.pathErrors.any (fun k => dst.contains k || src.contains k) || s.softErrors.any fun k => src.contains k || fn != 2 && dst.contains k

/-- One line of a bank command (R229). -/
def bankOne (s : State) (fn op ty : Nat) (a : BitVec 32) (pat : Word) (srcLine : List Byte) (l : Nat × Nat) : State :=
  let from_ := if fn = 0 then srcLine else readPlaces s (span l.2 64)
  writePlaces s (span l.1 64) (bankLine fn op ty a pat (readPlaces s (span l.1 64)) from_)

/-- The virtual extents that a copy is still to use, each as its first address and its length (R220). -/
def Copy.extents (s : State) (c : Copy) : List (Nat × Nat) :=
  let v : View := ⟨c.ctx, c.issuer.core, c.segBase, c.segLimit⟩
  let b := c.blk
  let one := oneRow c.cond c.srcFmt c.dstFmt
  let single := cbY b == 1 && cbZ b == 1
  let left := if single then c.pos else 0
  let src := covering b (strides b one false) (cbX b)
  let dst := covering b (strides b one true) (dstRow b c.srcFmt c.dstFmt)
  let side (addr : Word) (e : Int × Int) (done : Nat) : Option (Nat × Nat) :=
    match segCheck s v (addr + BitVec.ofInt 64 (e.1 + done)) (e.2 - e.1 - done).toNat 0 with
    | .ok (.virt _ a) => some (a, (e.2 - e.1 - done).toNat)
    | _ => none
  let srcDone := if c.cond then (if c.ver.isSome then cbX b else c.pos) else left * srcNib c.srcFmt c.dstFmt / max 1 (dstNib c.srcFmt c.dstFmt)
  let dstDone := if c.cond && c.ver.isNone then 0 else left
  [ side (cbSrc b) src srcDone, side (cbDst b) dst dstDone
  , if mq4Side c.srcFmt c.dstFmt then side (cbScaleAddr b) (0, scaleExtent (rowElems b c.srcFmt c.dstFmt / 64) (cbSC b)) 0 else none
  , if c.cond then side (cbVerAddr b) (0, 8) 0 else none ].filterMap id

/-- A revocation takes translations away: the copies of the contexts that still use one fail with reason 4. -/
def failUsers (s : State) (xs : List Nat) (e : Nat × Sett) (gone : List TlbEntry) : List Copy :=
  e.2.queue.map fun c =>
    if xs.contains c.ctx && c.failed.isNone && c.phase != .ending
        && (c.extents s).any (fun p => gone.any fun g => g.ctx == c.ctx && decide (g.vbase < p.1 + p.2) && decide (p.1 < g.vbase + g.vlen)) then
      { c with
        failed := some 4
        phase := .ending
        missing := false }
    else c

/-- The end of a bank command: its signal object, or the trap of one that cannot be reached (R229). -/
def bankEnd (s : State) (src : Tid) (x d : Nat) (sv : Bool) (signal : Word) (sb sl : Vector Word 8) : State :=
  if !sv then s
  else engineSignal s ⟨x, src.core, sb, sl⟩ signal false 1 (some ⟨src, srcKind 3 (archDie d * 512 + d % 2 ^ 31 / 2 ^ 22), cCOPY_FAULT, 0, true⟩)

/-- A bank command fails: bit 63 into SIGNAL, and COPY_FAULT with its reason (R229). -/
def bankFail (s : State) (src : Tid) (x d : Nat) (sv : Bool) (signal : Word) (sb sl : Vector Word 8) (reason : Nat) : State :=
  let s := if sv then signalError s ⟨x, src.core, sb, sl⟩ signal else s
  pendTrap s src (srcKind 3 (archDie d * 512 + d % 2 ^ 31 / 2 ^ 22)) cCOPY_FAULT (BitVec.ofNat 64 (reason * 2 ^ 32))

/-- CPY (R216): Checks a copy command block and enqueues the copy, parking on a full queue -/
def execCpy (s : BitVec 3) (d a b : BitVec 5) (st : State) : Out :=
  copyIssue (96#7 ++ s ++ d ++ a ++ b ++ 0#7) s d a false false st

/-- CPY_NB (R216): As CPY, but returns busy on a full queue -/
def execCpyNb (s : BitVec 3) (d a b : BitVec 5) (st : State) : Out :=
  copyIssue (96#7 ++ s ++ d ++ a ++ b ++ 1#7) s d a false true st

/-- CPYC (R216): Enqueues a conditional copy under a version word -/
def execCpyc (s : BitVec 3) (d a b : BitVec 5) (st : State) : Out :=
  copyIssue (96#7 ++ s ++ d ++ a ++ b ++ 2#7) s d a true false st

/-- CPYC_NB (R216): As CPYC, but returns busy on a full queue -/
def execCpycNb (s : BitVec 3) (d a b : BitVec 5) (st : State) : Out :=
  copyIssue (96#7 ++ s ++ d ++ a ++ b ++ 3#7) s d a true true st

/-- CPYST (R224): Returns the outcome, reason and flags of a copy ticket -/
def execCpyst (s : BitVec 3) (d a b : BitVec 5) (st : State) : Out :=
  issue { word := (96#7 ++ s ++ d ++ a ++ b ++ 4#7), stall := s.toNat, reads := [(.g, a.toNat)], cls := .irrev } st
    fun z t => .ok (z.setThread t ((z.thread t).putG d.toNat (if t.thr = 13 then 7 else ticketStatus (z.sett (settOf (homeTid z t).core)) (field ((z.thread t).readG a.toNat) 31 0))), .seq)

/-- HWAIT (R222): Parks until a handle reaches a state or its ERR is set -/
def execHwait (s : BitVec 3) (d a : BitVec 5) (x : BitVec 3) (m : BitVec 2) (st : State) : Out :=
  handleOp (97#7 ++ s ++ d ++ a ++ x ++ m ++ 0#7) s d a .irrev false (fun _ w => if hState w = m.toNat ∨ w.getLsbD 2 then .ok w else .error (.park false .reissue)) st

/-- HACQ (R222): Takes a handle from full to draining -/
def execHacq (s : BitVec 3) (d a b : BitVec 5) (st : State) : Out :=
  handleOp (97#7 ++ s ++ d ++ a ++ b ++ 1#7) s d a .irrev false (handleMove hFull hDraining) st

/-- HREL (R222): Takes a handle from draining to free -/
def execHrel (s : BitVec 3) (d a b : BitVec 5) (st : State) : Out :=
  handleOp (97#7 ++ s ++ d ++ a ++ b ++ 2#7) s d a .irrev true (handleMove hDraining hFree) st

/-- HSTAT (R222): Returns a handle's status word -/
def execHstat (s : BitVec 3) (d a b : BitVec 5) (st : State) : Out :=
  handleOp (97#7 ++ s ++ d ++ a ++ b ++ 3#7) s d a .spec false (fun _ w => .ok w) st

/-- AOP_ADD (R227): Bank-unit atomic add on an Archive word -/
def execAopAdd (s : BitVec 3) (t a : BitVec 5) (z : BitVec 3) (r : BitVec 2) (c : BitVec 3) (st : State) : Out :=
  aop (98#7 ++ s ++ t ++ a ++ z ++ r ++ c ++ 0#4) (moFields z c && atomicSize z) s t a z r c (amoOp 0) st

/-- AOP_AND (R227): Bank-unit atomic AND -/
def execAopAnd (s : BitVec 3) (t a : BitVec 5) (z : BitVec 3) (r : BitVec 2) (c : BitVec 3) (st : State) : Out :=
  aop (98#7 ++ s ++ t ++ a ++ z ++ r ++ c ++ 1#4) (moFields z c && atomicSize z) s t a z r c (amoOp 1) st

/-- AOP_OR (R227): Bank-unit atomic OR -/
def execAopOr (s : BitVec 3) (t a : BitVec 5) (z : BitVec 3) (r : BitVec 2) (c : BitVec 3) (st : State) : Out :=
  aop (98#7 ++ s ++ t ++ a ++ z ++ r ++ c ++ 2#4) (moFields z c && atomicSize z) s t a z r c (amoOp 2) st

/-- AOP_XOR (R227): Bank-unit atomic XOR -/
def execAopXor (s : BitVec 3) (t a : BitVec 5) (z : BitVec 3) (r : BitVec 2) (c : BitVec 3) (st : State) : Out :=
  aop (98#7 ++ s ++ t ++ a ++ z ++ r ++ c ++ 3#4) (moFields z c && atomicSize z) s t a z r c (amoOp 3) st

/-- AOP_MIN (R227): Bank-unit atomic signed minimum -/
def execAopMin (s : BitVec 3) (t a : BitVec 5) (z : BitVec 3) (r : BitVec 2) (c : BitVec 3) (st : State) : Out :=
  aop (98#7 ++ s ++ t ++ a ++ z ++ r ++ c ++ 4#4) (moFields z c && atomicSize z) s t a z r c (amoOp 4) st

/-- AOP_MAX (R227): Bank-unit atomic signed maximum -/
def execAopMax (s : BitVec 3) (t a : BitVec 5) (z : BitVec 3) (r : BitVec 2) (c : BitVec 3) (st : State) : Out :=
  aop (98#7 ++ s ++ t ++ a ++ z ++ r ++ c ++ 5#4) (moFields z c && atomicSize z) s t a z r c (amoOp 5) st

/-- AOP_MINN (R227): Bank-unit atomic unsigned minimum -/
def execAopMinn (s : BitVec 3) (t a : BitVec 5) (z : BitVec 3) (r : BitVec 2) (c : BitVec 3) (st : State) : Out :=
  aop (98#7 ++ s ++ t ++ a ++ z ++ r ++ c ++ 6#4) (moFields z c && atomicSize z) s t a z r c (amoOp 6) st

/-- AOP_MAXN (R227): Bank-unit atomic unsigned maximum -/
def execAopMaxn (s : BitVec 3) (t a : BitVec 5) (z : BitVec 3) (r : BitVec 2) (c : BitVec 3) (st : State) : Out :=
  aop (98#7 ++ s ++ t ++ a ++ z ++ r ++ c ++ 7#4) (moFields z c && atomicSize z) s t a z r c (amoOp 7) st

/-- AOP_SWAP (R227): Bank-unit atomic swap -/
def execAopSwap (s : BitVec 3) (t a : BitVec 5) (z : BitVec 3) (r : BitVec 2) (c : BitVec 3) (st : State) : Out :=
  aop (98#7 ++ s ++ t ++ a ++ z ++ r ++ c ++ 8#4) (moFields z c && atomicSize z) s t a z r c (amoOp 8) st

/-- AOP_FADD (R227): Bank-unit atomic FP32 add -/
def execAopFadd (s : BitVec 3) (t a : BitVec 5) (z : BitVec 3) (r : BitVec 2) (c : BitVec 3) (st : State) : Out :=
  aop (98#7 ++ s ++ t ++ a ++ z ++ r ++ c ++ 9#4) (moFields z c && z.toNat == 2) s t a z r c (amoOp 9) st

/-- AOP_FADD_BF16 (R227): Bank-unit atomic BF16 add of one or two elements -/
def execAopFaddBf16 (s : BitVec 3) (t a : BitVec 5) (z : BitVec 3) (r : BitVec 2) (c : BitVec 3) (st : State) : Out :=
  aop (98#7 ++ s ++ t ++ a ++ z ++ r ++ c ++ 10#4) (moFields z c && (z.toNat == 1 || z.toNat == 2)) s t a z r c aopBf16 st

/-- ARED (R228): Issues a bank reduction of a source line into an Archive line -/
def execAred (s : BitVec 3) (d a b : BitVec 5) (st : State) : Out :=
  bankIssue (99#7 ++ s ++ d ++ a ++ b ++ 0#7) 0 s d a st

/-- AXPY (R228): Issues a bank a × x + y over Archive lines -/
def execAxpy (s : BitVec 3) (d a b : BitVec 5) (st : State) : Out :=
  bankIssue (99#7 ++ s ++ d ++ a ++ b ++ 1#7) 1 s d a st

/-- AFILL (R228): Issues a bank fill of Archive lines with a pattern -/
def execAfill (s : BitVec 3) (d a b : BitVec 5) (st : State) : Out :=
  bankIssue (99#7 ++ s ++ d ++ a ++ b ++ 2#7) 2 s d a st

/-- COPY_CHUNK (R218): The copy engine picks and moves one chunk of up to 2 KiB by deficit arbitration -/
def execCopyChunk (v : Nat) (st : State) : Out :=
  if !settClock st v then .next st
  else
    let q := (st.sett v).queue
    let may (c : Copy) : Bool := (settRuns st v || writing c) && !mustWait st c
    match serveCopy may (16 * q.length + 4) st v with
    | some s => .next (lapse s)
    | none => .next st

/-- CPYC_VERSION_CHECK (R223): After staging, a conditional copy compares and advances the version word -/
def execCpycVersionCheck (v : Nat) (st : State) : Out :=
  match (st.sett v).queue.find? (fun c => c.phase == .check && !c.missing && c.failed.isNone) with
  | none => .next st
  | some c =>
    if !settRuns st v then .next st
    else
      let view : View := ⟨c.ctx, c.issuer.core, c.segBase, c.segLimit⟩
      match engPlaces st view (cbVerAddr c.blk) 8 rAMO (some (cbScope c.blk, false)) with
      | .error e => .next (((copyStopped st v c e).map lapse).getD st)
      | .ok ks =>
        let old := leNat (readPlaces st ks)
        let st := useAt st view (cbVerAddr c.blk) 8
        if old = cbExpected c.blk then
          .next (lapse (putCopy (writePlaces st ks (leBytes (old + 1) 8)) v { c with
            ver := some old
            pos := 0
            phase := .moving }))
        else
          let st := if cbHV c.blk && c.current (st.sett v) then setHandleOf st v (cbHandle c.blk) ((st.sett v).handle (cbHandle c.blk) ||| 8) else st
          .next (lapse (putCopy st v { c with
            discarded := true
            phase := .ending }))

/-- COPY_COMPLETION (R220): A copy completes: handle full, flag written, signal decremented -/
def execCopyCompletion (v : Nat) (st : State) : Out :=
  match (st.sett v).queue.find? (fun c => (c.phase == .ending && settRuns st v || c.phase == .closing && settClock st v) && !c.missing) with
  | none => .next st
  | some c => match c.failed, c.phase with
    | some r, _ => .next (lapse (failCopy st v c r 4 true true))
    | none, .closing => .next (((closeVersion st v c).map lapse).getD st)
    | none, _ => .next (((completeCopy st v c).map lapse).getD st)

/-- BANK_LINE_UPDATE (R229): A bank unit updates one Archive line of an ARED, AXPY or AFILL command -/
def execBankLineUpdate (n line : Nat) (st : State) : Out :=
  match st.flights[n]? with
  | some (.bank src x fn op ty lines srcLine a pat sv signal sb sl) =>
    match lines[line]? with
    | none => .next st
    | some (d, sLine) =>
      if olderLine st n (archDie d) then .next st
      else match bankPay st src x fn (d, sLine) with
      | none => .next st
      | some s =>
        if lineSpoilt s fn (d, sLine) then .next (lapse (bankFail { s with flights := s.flights.eraseIdx n } src x d sv signal sb sl 6))
        else
        let s := bankOne s fn op ty a pat srcLine (d, sLine)
        let rest := lines.eraseIdx line
        if rest.isEmpty then
          let s := { s with flights := s.flights.eraseIdx n }
          .next (lapse (bankEnd s src x d sv signal sb sl))
        else .next (lapse { s with flights := s.flights.set n (.bank src x fn op ty rest srcLine a pat sv signal sb sl) })
  | _ => .next st

end Sys2Proof.Machine
end

