-- ==== Sys2Proof/Machine/Sync.lean ====
section
/-! DEFINITION. Named barriers and messages (08_core_memory.md R151 to R154). -/

namespace Sys2Proof.Machine

open Sys2Proof

/-! ## Named barriers (R151) -/

def barIx (w : Word) : Nat := field w 10 0
def barVc (w : Word) : Nat := field w 28 16
def VCore.bar (c : VCore) (i : Nat) : Bar := KMap.getD c.bars i ⟨0, 0, 0⟩
def VCore.setBar (c : VCore) (i : Nat) (b : Bar) : VCore := { c with bars := KMap.put ⟨0, 0, 0⟩ c.bars i b }

/-- The core of a virtual core of the sender's launch to which the permission tables let it send (R151, R152). -/
def destCore (s : State) (t : Tid) (vc : Nat) : Option Nat :=
  match launchOf s t with
  | none => none
  | some l =>
    if !l.has vc then none
    else match coreOfVc s l.ctx vc with
      | none => none
      | some c => if settAccepts s (settOf c) l.ctx none then some c else none

/-! ## Messages (R152 to R154) -/

/-- The class of messages that a thread receives: 0 unmarked, 1 marked for T13, 2 miss records. -/
def msgClass (thr : Nat) : Nat := if thr = 13 then 1 else if thr = 15 then 2 else 0

/-- Table 8.2. -/
def MissRec.bytes (r : MissRec) : List Byte :=
  leBytes r.id 2 ++ leBytes r.thr 1 ++ leBytes r.kind 1 ++ leBytes r.size 2 ++ leBytes 0 2 ++ leBytes r.cva 8 ++ leBytes r.addr.toNat 8
    ++ leBytes r.gts 8 ++ leBytes 0 32

/-- How many messages of a thread's class wait (R154). -/
def waiting (c : VCore) (thr : Nat) : Nat :=
  match msgClass thr with
  | 2 => c.missbox.length
  | k => (c.inbox.filter fun m => m.t13 == (k == 1)).length

/-- The oldest waiting message of a thread's class, its header, and the core without it. While the resident slot is active T15 is
given only T13's records (R110). -/
def popMessage (c : VCore) (thr : Nat) : Option (List Byte × Word × VCore) :=
  match msgClass thr with
  | 2 =>
    match c.missbox.find? (fun r => !c.resActive || r.thr == 13) with
    | none => none
    | some r => some (r.bytes, 0, { c with
        missbox := c.missbox.erase r
        walks := (r.id, r.thr) :: c.walks })
  | k =>
    match c.inbox.find? (fun m => m.t13 == (k == 1)) with
    | none => none
    | some m => some (m.body, m.header, { c with inbox := c.inbox.erase m })

/-- The destinations of a message: its virtual cores (R152). -/
def destVcs (w : Word) : List Nat :=
  let v := field w 12 0
  if bit w 14 then (List.range 8).map (v / 8 * 8 + ·) else [v]

/-- R110: the wake condition of T13 activates the resident slot. -/
def wakeResident (s : State) (core : Nat) : State := wake s ⟨core, 13⟩

/-- A destination has answered an `MSEND`: accepted, or refused with its bit (R152). -/
def answer (s : State) (src : Tid) (refused : Option Nat) : State :=
  let th := s.thread src
  let r := match refused with | some v => th.refusals ||| (1#64 <<< (v % 8)) | none => th.refusals
  let n := th.answers - 1
  let s := s.setThread src { th with answers := n, refusals := r }
  if n = 0 then reply s src r else s

def inboxPlaces : Nat := 64

/-- R153: entry (e0 + i) mod 256 takes entry i of the body. -/
def scaleFromBody (c : VCore) (b : List Byte) : VCore :=
  let e0 := blkNat b 0 1
  (List.range (blkNat b 1 1)).foldl (fun c i =>
    c.setScale (e0 + i) (BitVec.ofNat 40 (blkNat b (4 + 5 * i) 4 + 2 ^ 32 * (blkNat b (8 + 5 * i) 1 % 4)))) c

/-- BARI (R151): Initialises a named barrier's count on its home core -/
def execBari (s : BitVec 3) (d a b : BitVec 5) (st : State) : Out :=
  issue { word := (49#7 ++ s ++ d ++ a ++ b ++ 0#7), stall := s.toNat, reads := [(.g, a.toNat), (.g, b.toNat)], cls := .irrev, home := true } st fun z t =>
    let th := z.thread t
    let x := th.readG a.toNat
    let n := (th.readG b.toNat).toNat % 65536
    let c := z.core t.core
    let y := c.bar (barIx x)
    if barVc x ≠ vcIn z (ctxOf z t) t.core then .error (.trap cOPERAND_RANGE x)
    else if n = 0 then .error (.trap cOPERAND_RANGE (th.readG b.toNat))
    else if y.arrived ≠ 0 then .error (.trap cBAR_STATE x)
    else .ok (z.setCore t.core (c.setBar (barIx x) ⟨n, 0, y.phase⟩), .seq)

/-- BARA (R151): Sends an arrival to a named barrier and parks for the reply -/
def execBara (s : BitVec 3) (d a b : BitVec 5) (st : State) : Out :=
  issue { word := (49#7 ++ s ++ d ++ a ++ b ++ 1#7), stall := s.toNat, reads := [(.g, a.toNat)], cls := .irrev, home := true } st fun z t =>
    let x := (z.thread t).readG a.toNat
    match destCore z t (barVc x) with
    | none => .error (.trap cMSG_DENIED x)
    | some c =>
      let z := drainPosted z t
      .ok ({ z with flights := z.flights ++ [.barArrive t c (barIx x)] }, .sent true d.toNat)

/-- BARW (R151): Parks while the barrier's PHASE equals gB -/
def execBarw (s : BitVec 3) (d a b : BitVec 5) (st : State) : Out :=
  issue { word := (49#7 ++ s ++ d ++ a ++ b ++ 2#7), stall := s.toNat, reads := [(.g, a.toNat), (.g, b.toNat)], cls := .irrev, home := true } st fun z t =>
    let th := z.thread t
    let x := th.readG a.toNat
    match destCore z t (barVc x) with
    | none => .error (.trap cMSG_DENIED x)
    | some c =>
      if ((z.core c).bar (barIx x)).phase = (th.readG b.toNat).toNat % 2 ^ 32 then .error (.park true .reissue) else .ok (z, .seq)

/-- BARRIER_ARRIVAL (R151): An arrival reaches a named barrier's home, counts and may advance PHASE, waking BARW. DESIGN CHOICE (log
66): the EVAL of its BAR_STATE holds the index and the home alone. -/
def execBarrierArrival (n : Nat) (st : State) : Out :=
  match st.flights[n]? with
  | some (.barArrive src core ix) =>
    let z := { st with flights := st.flights.eraseIdx n }
    let c := z.core core
    let y := c.bar ix
    if !settClock st (settOf core) then .next st
    else if y.count = 0 then .next (lapse { z with flights := z.flights ++ [.barReply src true (BitVec.ofNat 64 (ix + 65536 * vcIn z (ctxOf z src) core)) 0] })
    else
      let full := y.arrived + 1 = y.count
      let z := z.setCore core (c.setBar ix (if full then ⟨y.count, 0, (y.phase + 1) % 2 ^ 32⟩ else ⟨y.count, y.arrived + 1, y.phase⟩))
      .next (lapse { z with flights := z.flights ++ [.barReply src false 0 y.phase] })
  | _ => .next st

/-- BARRIER_REPLY (R151): The home's reply to BARA reaches the thread and writes the phase -/
def execBarrierReply (n : Nat) (st : State) : Out :=
  match st.flights[n]? with
  | some (.barReply src bad ident phase) =>
    let z := { st with flights := st.flights.eraseIdx n }
    if !settClock st (settOf src.core) then .next st
    else .next (lapse (if bad then replyTrap z src cBAR_STATE ident else reply z src (BitVec.ofNat 64 phase)))
  | _ => .next st

/-- MSEND (R152): Sends a 64-byte message and parks until every destination answers -/
def execMsend (s : BitVec 3) (d a b : BitVec 5) (st : State) : Out :=
  issue { word := (52#7 ++ s ++ d ++ a ++ b ++ 0#7), stall := s.toNat, reads := [(.g, a.toNat), (.g, b.toNat)], cls := .irrev, home := true } st fun z t => do
    let th := z.thread t
    let w := th.readG b.toNat
    let k ← ownBlock z t (th.readG a.toNat) 64 64 rRD
    let z := settlePosted z t k.2
    let ty := field w 23 16
    if 0x81 ≤ ty then throw (.trap cOPERAND_RANGE w)
    let body := readPlaces z k.2
    let n := blkNat body 1 1
    if ty = 0x80 ∧ (n = 0 ∨ 12 < n) then throw (.trap cOPERAND_RANGE (BitVec.ofNat 64 n))
    match (destVcs w).mapM (destCore z t) with
    | none => throw (.trap cMSG_DENIED w)
    | some cs =>
      let z ← track z t k.1 k.2 true false
      let z := drainPosted z t
      let header := BitVec.ofNat 64 (vcIn z (ctxOf z t) t.core + 65536 * t.thr + 2 ^ 24 * ty)
      let copies := cs.map fun c => if ty = 0x80 then Flight.scale t c body false else Flight.msg t c ⟨body, header, bit w 13⟩ false
      let z := z.setThread t { z.thread t with answers := cs.length, refusals := 0 }
      return ({ z with flights := z.flights ++ copies }, .sent false d.toNat)

/-- MRECV (R154): Parks until a message of the thread's class waits, then pops it -/
def execMrecv (s : BitVec 3) (d a b : BitVec 5) (st : State) : Out :=
  issue { word := (52#7 ++ s ++ d ++ a ++ b ++ 1#7), stall := s.toNat, reads := [(.g, a.toNat)], cls := .irrev, home := true } st fun z t => do
    let k ← ownBlock z t ((z.thread t).readG a.toNat) 64 64 rWR
    let w := Wait.recv (msgClass t.thr)
    match popMessage (z.core t.core) t.thr with
    | none => throw (.park true w)
    | some (body, header, c) =>
      if !isFirst z t w then throw (.park true w)
      let z ← storeAt (z.setCore t.core c) t k.1 k.2 body
      return (z.setThread t ((z.thread t).putG d.toNat header), .seq)

/-- MPOLL (R154): Returns the number of messages of the thread's class waiting -/
def execMpoll (s : BitVec 3) (d a b : BitVec 5) (st : State) : Out :=
  issue { word := (52#7 ++ s ++ d ++ a ++ b ++ 2#7), stall := s.toNat, home := true } st fun z t =>
    .ok (z.setThread t ((z.thread t).putG d.toNat (BitVec.ofNat 64 (waiting (z.core t.core) t.thr))), .seq)

/-- A message of a park buffer to the same core goes before the flight at place `n` (R356). -/
def parkedAhead (s : State) (n core : Nat) : Bool :=
  (s.flights.take n).any fun f => match f with
    | .msg _ k _ told | .scale _ k _ told => told && k == core
    | _ => false

/-- A delivery to a core waits for its die's clock, and for the sender's where the sender is still to be answered (R366, R369). -/
def awaitsClock (s : State) (src : Tid) (core : Nat) (told : Bool) : Bool :=
  !settClock s (settOf core) || (!told && !dieRuns s (dieOf s src.core))

/-- MESSAGE_ARRIVAL (R152): A message copy reaches an inbox, is accepted or refused, and answers the sender -/
def execMessageArrival (n : Nat) (st : State) : Out :=
  match st.flights[n]? with
  | some (.msg src core m told) =>
    if awaitsClock st src core told || parkedAhead st n core then .next st
    else
      let z := { st with flights := st.flights.eraseIdx n }
      let c := z.core core
      if inboxPlaces ≤ c.inbox.length then
        if told then .next st else .next (lapse (answer z src (some (core % 8))))
      else
        let z := z.setCore core { c with inbox := c.inbox ++ [m] }
        let z := if told then z else answer z src none
        .next (lapse (if m.t13 then wakeResident z core else z))
  | _ => .next st

/-- SCALE_MESSAGE (R153): A scale message writes scale-table entries at each destination core -/
def execScaleMessage (n : Nat) (st : State) : Out :=
  match st.flights[n]? with
  | some (.scale src core body told) =>
    if awaitsClock st src core told || parkedAhead st n core then .next st
    else
      let z := { st with flights := st.flights.eraseIdx n }
      let z := z.setCore core (scaleFromBody (z.core core) body)
      .next (lapse (if told then z else answer z src none))
  | _ => .next st

end Sys2Proof.Machine
end

