-- ==== Sys2Proof/Machine/Tasks.lean ====
section
/-! DEFINITION. Work threads, tasks, ordered tasks and `IDLE` (06 R107, R111; 08 R147, R157 to R159; 12 R194 to R210; 07 R128),
and the ends of stalls and waits (03 R38, R42, R47). -/

namespace Sys2Proof.Machine

open Sys2Proof

/-! ## Records and banks -/

/-- R158. -/
def taskRecOf (b : List Byte) (counter : Word) : TaskRec :=
  ⟨wordOf (b.take 8), wordOf ((b.drop 8).take 8), wordOf ((b.drop 16).take 8), wordOf ((b.drop 24).take 8), counter⟩

/-- The accumulator banks that a thread holds, as a mask (Table 8.1). -/
def bankHeld (c : VCore) (thr : Nat) : Word :=
  BitVec.ofNat 64 ((List.range 64).foldl (fun m i => if c.tile.owner.toList.getD i 16 = thr then m + 2 ^ i else m) 0)

/-- The scope of a steal domain (R158), coded as in Table 3.1. -/
def domainScope (c : VCore) : Nat := field c.stdom 2 0 + 1

/-- The registers of a work thread after `SPAWN` (R107); `e` is how many stacks it lies above T0's. -/
def spawnThread (old t0 : Thread) (r : TaskRec) (e : Nat) (cyc : Nat) : Thread :=
  let seg7 := t0.segBase.toList.getD 7 0
  let lim7 := t0.segLimit.toList.getD 7 0
  { old with
    run := .ready
    pc := r.pc &&& ~~~3#64
    g := (((Thread.reset.g.setIfInBounds 2 0xE000000000000000).setIfInBounds 4 r.a0).setIfInBounds 5 r.a1).setIfInBounds 6 r.a2
    v := Thread.reset.v
    k := Thread.reset.k
    latchD := none
    latchA := none
    latchB := none
    pend := []
    dist := 0
    readyAt := cyc
    stallEnd := cyc
    yieldFor := []
    chain := none
    segBase := t0.segBase.setIfInBounds 7 ((seg7 &&& 0xFF00000000000000) ||| ((seg7 + BitVec.ofNat 64 e * lim7) &&& 0xFFFFFFFFFFFF))
    segLimit := t0.segLimit
    tctl := t0.tctl &&& 7
    tvec := t0.tvec
    escr := t0.escr
    fflags := 0
    task := .none
    vmask := 0
    scGo := false
    turn := none
    owedTrap := none }

/-! ## Looking for work (R159, R199) -/

/-- The cores from which a thread may take a task: its own, then the others of its steal domain in ascending virtual core
number, beginning after its own and wrapping round. -/
def stealOrder (s : State) (t : Tid) : List Nat :=
  match launchOf s t with
  | none => [t.core]
  | some l =>
    let v := vcIn s l.ctx t.core
    let c := s.core t.core
    let near (w : Nat) (core : Nat) : Bool := match field c.stdom 2 0 with
      | 0 => false
      | 1 => w / 8 == v / 8
      | 2 => w / 48 == v / 48
      | 3 => dieOf s core == dieOf s t.core
      | _ => true
    let all := (List.range l.nvc).map (l.vc0 + ·)
    let order := all.filter (v < ·) ++ all.filter (· < v)
    t.core :: order.filterMap fun w => match coreOfVc s l.ctx w with
      | some k => if near w k then some k else none
      | none => none

/-- A thread starts a record: its pc and g4 to g6 (R107, R199). -/
def startRecord (s : State) (t : Tid) (r : TaskRec) (run : Running) : State :=
  let th := s.thread t
  let th := { th with run := .ready, task := run, pc := r.pc &&& ~~~3#64, chain := none }
  let put (th : Thread) (d : Nat) (x : Word) : Thread := th.produce .g d maskG (x.setWidth 512) 0 .alu
  s.setThread t (put (put (put th 4 r.a0) 5 r.a1) 6 r.a2)

/-- The lowest-key queued task that a thread may take (R199), and a free undo slot of its core. -/
def orderedFor (s : State) (t : Tid) : Option (OTask × Nat) :=
  let c := s.core t.core
  let q := sortBy (fun a b => !keyLt b.key a.key) ((s.unit (unitOf s t)).domain.tasks.filter fun y => y.st == .queued)
  match q, (List.range c.undoSlots).find? (fun i => !c.undoUsed.contains i) with
  | y :: _, some i => if (s.thread t).mig then none else some (y, i)
  | _, _ => none

def startOrdered (s : State) (t : Tid) (y : OTask) (slot : Nat) : State :=
  let u := s.unit (unitOf s t)
  let c := s.core t.core
  let s := s.setCore t.core { c with undoUsed := slot :: c.undoUsed }
  let tasks := u.domain.tasks.map fun z =>
    if z.key == y.key then { z with st := .running, core := t.core, slot := slot, thr := t.thr, reads := [], writes := [], log := [] } else z
  startRecord (s.setUnit (unitOf s t) { u with domain := { u.domain with tasks := tasks } }) t y.rec_ (.ordered y.ts y.seq)

/-- Takes the oldest entry of the first core's deque that has one. -/
def steal (s : State) : List Nat → Option (TaskRec × State)
  | [] => none
  | k :: ks => match (s.core k).deque with
    | r :: rs => some (r, s.setCore k { s.core k with deque := rs })
    | [] => steal s ks

/-- A work thread looks for work: its own deque, an ordered task, a theft; else it is idle (R199). -/
def lookForWork (s : State) (t : Tid) : State :=
  let c := s.core t.core
  match c.deque.getLast? with
  | some r => startRecord (s.setCore t.core { c with deque := c.deque.dropLast }) t r (.task r.counter)
  | none =>
    match orderedFor s t with
    | some (y, slot) => startOrdered s t y slot
    | none =>
      match steal s ((stealOrder s t).drop 1) with
      | some (r, s') => startRecord s' t r (.task r.counter)
      | none => s.setThread t { s.thread t with run := .idle false none, task := .none, chain := none }

/-- R128, condition TASK: a record is in the deque or can be stolen. -/
def taskWaiting (s : State) (t : Tid) : Bool := (stealOrder s t).any fun k => !(s.core k).deque.isEmpty

/-! ## The ordered-task unit -/

/-- Uncommitted tasks over all the domains of a holt (R207). -/
def holtTasks (s : State) (k : Nat) : Nat :=
  (s.units.filter fun e => unitHolt s e.1 == unitHolt s k).foldl (fun n e => n + e.2.domain.tasks.length) 0

/-- The oldest uncommitted task. -/
def oldest (ts : List OTask) : Option OTask := (sortBy (fun a b => !keyLt b.key a.key) ts).head?

/-- The issuer's task is the oldest of its domain. -/
def isOldest (s : State) (t : Tid) : Bool :=
  match taskOf s t, oldest (s.unit (unitOf s t)).domain.tasks with
  | some y, some z => y.key == z.key
  | _, _ => false

/-- R203: one recomputation of a domain's commit state. -/
def recomputeDomain (d : Domain) : Domain × List OTask :=
  let live := d.tasks.filter fun y => y.st != .finished
  let done := d.tasks.filter fun y => y.st == .finished && match oldest live with
    | some l => keyLt y.key l.key
    | none => true
  let rest := d.tasks.filter fun y => !done.any fun z => z.key == y.key
  let committed := done.foldl (fun m y => max m y.ts) d.committed
  let protTs := (rest.filter fun y => y.prot).foldl (fun m y => max m y.ts) 0
  ({ d with
      tasks := rest
      horizon := match oldest rest with | some y => y.ts | none => 2 ^ 64 - 1
      committed := committed
      floor := max committed protTs }, done)

/-- R203, step 5: the oldest task, if it waits, becomes protected and its thread continues. -/
def protectOldest (s : State) (k : Nat) : State :=
  let u := s.unit k
  match oldest u.domain.tasks with
  | some y =>
    if y.st = .waiting then
      let tasks := u.domain.tasks.map fun z => if z.key == y.key then { z with st := .running, prot := true, reads := [], writes := [], log := [] } else z
      let s := s.setUnit k { u with domain := { u.domain with tasks := tasks } }
      let th := s.thread ⟨y.core, y.thr⟩
      match th.run with
      | .parkedEngine .protect _ => s.setThread ⟨y.core, y.thr⟩ { th with run := .ready }
      | _ => s
    else s
  | none => s

/-! ## The end of a launch (R128, R342) -/

/-- Every T0 of a launch has ended: T14 and T15 end, the cores are free, and SIGNAL is decremented. -/
def endLaunch (s : State) (i : Nat) (l : Launch) : State :=
  let s := (List.range l.nvc).foldl (fun s j => match coreOfVc s l.ctx (l.vc0 + j) with
    | some k =>
      let c := s.core k
      let c := (c.setThread 14 { c.thread 14 with run := .dormant }).setThread 15 { c.thread 15 with run := .dormant }
      s.setCore k { c with launch := none }
    | none => s) s
  let s := { s with launches := s.launches.erase i }
  if l.signal = 0 then s else engineSignal s ⟨ctxOf s l.issuer, l.issuer.core, l.segBase, l.segLimit⟩ l.signal false 1 none

/-- T0 ends its core's part of a launch. -/
def endT0 (s : State) (t : Tid) : State :=
  let c := s.core t.core
  let s := s.setCore t.core { c.setThread 0 { c.thread 0 with run := .dormant } with t0Ended := true }
  match c.launch with
  | none => s
  | some i => match s.launches.find? i with
    | none => s
    | some l =>
      let l := { l with alive := l.alive.filter (· != t.core) }
      if l.alive.isEmpty then endLaunch s i l else { s with launches := s.launches.insert i l }

/-! ## IDLE (R128, Table 7.6) -/

/-- The conditions of Table 7.6 that a context may select, and those that hold. -/
def idleRole (thr : Nat) : Word :=
  5 ||| (if 1 ≤ thr ∧ thr ≤ 12 then 2 else 0) ||| (if thr = 15 then 8 else 0) ||| (if thr = 14 then 16 else 0)

def idleHolds (s : State) (t : Tid) (deadline : Word) : Word :=
  let c := s.core t.core
  (if waiting c t.thr = 0 then 0 else 1) ||| (if taskWaiting s t then 2 else 0) ||| (if deadline.toNat ≤ gts s then 4 else 0)
    ||| (if c.missbox.isEmpty then 0 else 8) ||| (if c.mb.toList.any Option.isSome then 16 else 0)

/-- The other threads of the core that are ready in a cycle (R95, R157). -/
def othersReady (s : State) (t : Tid) (cyc : Nat) : List Nat :=
  (List.range 16).filter fun i => i != t.thr && mayIssue s ⟨t.core, i⟩ && decide (eligibleAt s ⟨t.core, i⟩ ≤ cyc)

/-- A thread at the stop instant of a gang switch, at a yield point before it, or where a revocation saves it: its pending results
are complete and its latches invalid (R41, R98); a search or read keeps only its snapshot or target (R314) and an announced SC
event is announced again; a miss record is withdrawn, so that the access misses afresh (R135); an `IDLE` that waits for nothing else
ends and is issued again (R128, R132). -/
def stopThread (th : Thread) : Thread :=
  let x := th.complete.dropLatches
  { x with
    stopped := th.run != .dormant
    search := none
    scGo := false
    yieldFor := []
    kept0 := th.kept0.map fun k => { k with done := none }
    kept1 := th.kept1.map fun k => { k with done := none }
    run := match th.run with
      | .parkedSync (.window _ _) _ | .parkedPage _ | .parkedEngine .search _ | .parkedEngine .scribeRead _ | .idleAlways => .ready
      | r => r }

/-- R355: the partition of a thread is in its grace window. -/
def inGrace (s : State) (t : Tid) : Bool := s.switches.any fun w => w.phase == 1 && w.out == partOf s 9 (ctxOf s t)

/-- SPAWN (R107): Starts a dormant work thread at a task record -/
def execSpawn (s : BitVec 3) (d a b : BitVec 5) (st : State) : Out :=
  issue { word := (54#7 ++ s ++ d ++ a ++ b ++ 0#7), stall := s.toNat, reads := [(.g, a.toNat), (.g, b.toNat)], role := .t0, cls := .irrev } st fun z t => do
    let th := z.thread t
    let n := (th.readG a.toNat).toNat % 16
    let c := z.core t.core
    let top := if bit c.stdom 3 then 6 else 12
    if n = 0 ∨ top < n then throw (.trap cOPERAND_RANGE (th.readG a.toNat))
    let k ← ownBlock z t (th.readG b.toNat) 32 32 rRD
    let z := settlePosted z t k.2
    let tn := c.thread n
    if tn.run ≠ .dormant then throw (.trap cTHREAD_BUSY (BitVec.ofNat 64 n))
    let r := taskRecOf (readPlaces z k.2) 0
    let z := drainPosted z t
    -- a context that is halted has no thread that runs (R397)
    let y := spawnThread tn (z.thread t) r n (issueCycle z t + 1)
    return (z.setThread ⟨t.core, n⟩ (if (z.ctx (ctxOf z t)).haltedAll then { y with halted := some 10 } else y), .seq)

/-- REAP (R107): Parks T0 until a work thread is idle, then makes it dormant -/
def execReap (s : BitVec 3) (d a b : BitVec 5) (st : State) : Out :=
  issue { word := (54#7 ++ s ++ d ++ a ++ b ++ 1#7), stall := s.toNat, reads := [(.g, a.toNat)], role := .t0, cls := .irrev } st fun z t =>
    let th := z.thread t
    let n := (th.readG a.toNat).toNat % 16
    if n = 0 ∨ 12 < n then .error (.trap cOPERAND_RANGE (th.readG a.toNat))
    else
      let c := z.core t.core
      let tn := c.thread n
      match tn.run with
      | .dormant => .ok (z, .seq)
      | .idle _ _ | .idleAlways =>
        if tn.inh then .error (.park true .reissue)
        else if bankHeld c n ≠ 0 then .error (.trap cACC_HELD (bankHeld c n))
        else .ok (z.setThread ⟨t.core, n⟩ { tn with run := .dormant, task := .none, chain := none }, .seq)
      | _ => .error (.park true .reissue)

/-- YIELD (R157): Makes the thread ineligible until other ready threads have issued -/
def execYield (s : BitVec 3) (d a b : BitVec 5) (st : State) : Out :=
  issue { word := (54#7 ++ s ++ d ++ a ++ b ++ 2#7), stall := s.toNat } st fun z t =>
    let th := z.thread t
    let cyc := issueCycle z t
    let x := (th.timed cyc).advance (th.pc + 4) s.toNat cyc
    .ok (z.setThread t { x with yieldFor := othersReady z t cyc, yieldEnd := cyc + 17 }, .placed)

/-- YPT (R111): Declares a yield point with its live-state masks -/
def execYpt (s : BitVec 3) (d a b : BitVec 5) (st : State) : Out :=
  issue { word := (54#7 ++ s ++ d ++ a ++ b ++ 3#7), stall := s.toNat, reads := [(.g, a.toNat), (.g, b.toNat)] } st fun z t =>
    let th := z.thread t
    if inGrace z t ∧ !speculative z t then
      let z := drainPosted z t
      let x := (z.thread t).advance (th.pc + 4) s.toNat (issueCycle z t)
      .ok (z.setThread t { stopThread x with yielded := some (th.readG a.toNat, th.readG b.toNat) }, .placed)
    else .ok (z, .seq)

/-- FORK (R159): Increments a join counter and pushes a task onto the deque -/
def execFork (s : BitVec 3) (d a b : BitVec 5) (st : State) : Out :=
  issue { word := (55#7 ++ s ++ d ++ a ++ b ++ 0#7), stall := s.toNat, reads := [(.g, a.toNat), (.g, b.toNat)], role := .work, cls := .forbid, home := true } st fun z t => do
    let th := z.thread t
    let k ← ownBlock z t (th.readG a.toNat) 32 32 rRD
    let z := settlePosted z t k.2
    let addr := th.readG b.toNat
    let c := z.core t.core
    if 256 + c.ovfl ≤ c.deque.length then throw (.trap cTASK_OVERFLOW addr)
    let r := taskRecOf (readPlaces z k.2) addr
    let z := drainPosted z t
    let z ← if addr = 0 then pure z else (do
      let k ← accessHere z t addr 8 rAMO true (some (domainScope c, false))
      let q ← rmwAt z t k 8 (fun x => some ((x + 1) % 2 ^ 64))
      pure q.1)
    let c := z.core t.core
    let n := c.deque.length
    -- R158: beyond 256 entries the device may write the entry's place in the overflow area
    let c := if 256 ≤ n then { c with spad := c.spad.putBytes (c.ovflBase + 64 * (n - 256)) ((List.range 64).map (Config.overflowByte z.freeCount)) } else c
    return (z.setCore t.core { c with deque := c.deque ++ [r] }, .seq)

/-- JOIN (R159): Parks until a join counter reads 0 -/
def execJoin (s : BitVec 3) (d a b : BitVec 5) (st : State) : Out :=
  issue { word := (55#7 ++ s ++ d ++ a ++ b ++ 1#7), stall := s.toNat, reads := [(.g, a.toNat)], role := .work, cls := .forbid } st fun z t => do
    let r ← load z t ((z.thread t).readG a.toNat) 8 true
    if r.2 ≠ 0 then throw (.park true .reissue)
    return (r.1, .seq)

/-- TEND (R159): Ends the current task, decrements its counter and looks for work -/
def execTend (s : BitVec 3) (d a b : BitVec 5) (st : State) : Out :=
  issue { word := (55#7 ++ s ++ d ++ a ++ b ++ 2#7), stall := s.toNat, role := .work, home := true } st fun z t => do
    let th := z.thread t
    let c := z.core t.core
    if bankHeld c t.thr ≠ 0 then throw (.trap cACC_HELD (bankHeld c t.thr))
    let z ← match th.task with
      | .task addr =>
        if addr = 0 then pure z
        else do
          let z := drainPosted z t
          let k ← accessHere z t addr 8 rAMO true (some (domainScope c, false))
          let q ← rmwAt z t k 8 (fun x => some ((x + 2 ^ 64 - 1) % 2 ^ 64))
          pure q.1
      -- a commit is a release: a protected task's posted stores are made before it (R204)
      | _ => pure (setTaskState (drainPosted z t) t .finished)
    let th := z.thread t
    let x := { th.advance (th.pc + 4) s.toNat (issueCycle z t) with task := .none }
    return (lookForWork (z.setThread t x) t, .placed)

/-- The next cycle of a die in which its units recompute (R203). -/
def nextMultiple (cyc : Nat) : Nat := (cyc / 256 + 1) * 256

/-- TSPAWN (R197): Spawns an ordered task with a timestamp. DESIGN CHOICE (log 82): its record, which lies in the own scratchpad through
kind 2, is not a tracked access of a task that spawns (R201). -/
def execTspawn (s : BitVec 3) (d a b : BitVec 5) (st : State) : Out :=
  issue { word := (55#7 ++ s ++ d ++ a ++ b ++ 3#7), stall := s.toNat, reads := [(.g, a.toNat), (.g, b.toNat)], role := .work, home := true } st fun z t => do
    let th := z.thread t
    if th.mig then throw (.trap cOTASK_STATE 3)
    let k ← ownBlock z t (th.readG a.toNat) 32 32 rRD
    let z := settlePosted z t k.2
    let ts := (th.readG b.toNat).toNat
    let u := unitOf z t
    let dom := (z.unit u).domain
    let me := taskOf z t
    match me with
    | some p => if ts < p.ts then throw (.trap cOPERAND_RANGE (th.readG b.toNat))
    | none => if ts < dom.floor then throw (.trap cOPERAND_RANGE (th.readG b.toNat))
    let n := holtTasks z u
    if 4096 ≤ n ∧ isOldest z t then throw (.trap cTASK_OVERFLOW (th.readG a.toNat))
    if 3840 ≤ n ∧ !isOldest z t then throw (.park false .reissue)
    let y : OTask := ⟨ts, dom.counter, taskRecOf (readPlaces z k.2) 0, me.map OTask.key, .queued, false, 0, 0, 0, [], [], []⟩
    let z := drainPosted z t
    let x := z.unit u
    -- the recomputes of an empty domain have passed unnoticed; H stays at or below every uncommitted timestamp (R204, log 69)
    let now := issueCycle z t
    let z := z.setUnit u { x with domain := { x.domain with
      counter := x.domain.counter + 1
      horizon := min x.domain.horizon ts
      nextRecompute := if x.domain.tasks.isEmpty then nextMultiple now else x.domain.nextRecompute
      tasks := x.domain.tasks ++ [y] } }
    return (z.setThread t ((z.thread t).putG d.toNat (BitVec.ofNat 64 dom.counter)), .seq)

/-- TSTAMP (R198): Reads the task's timestamp, sequence or the domain horizon -/
def execTstamp (s : BitVec 3) (d a b : BitVec 5) (st : State) : Out :=
  issue { word := (55#7 ++ s ++ d ++ a ++ b ++ 4#7), stall := s.toNat, reads := [(.g, a.toNat)], role := .work } st fun z t =>
    let th := z.thread t
    let put (x : Nat) : Except Stop (State × Next) := .ok (z.setThread t (th.putG d.toNat (BitVec.ofNat 64 x)), .seq)
    match (th.readG a.toNat).toNat % 4, taskOf z t with
    | 0, some y => put y.ts
    | 1, some y => put y.seq
    | 2, _ => put (z.unit (unitOf z t)).domain.horizon
    | 3, _ => .error (.trap cOPERAND_RANGE (th.readG a.toNat))
    | _, _ => .error (.trap cOTASK_STATE 1)

/-- RECOMPUTE (R203): Every 256 cycles the unit commits finished tasks, updates H and F and protects the oldest -/
def execRecompute (ctx vh : Nat) (st : State) : Out :=
  let k := ctx * 2 ^ 16 + vh
  match unitHolt st k with
  | none => .next st
  | some h =>
    let die := h / 24
    let z := advanceTo st die (st.unit k).domain.nextRecompute
    let next := nextMultiple (max (dieCycle z die) (st.unit k).domain.nextRecompute)
    if (z.die die).relock.isSome then
      let u := z.unit k
      .next (lapse (z.setUnit k { u with domain := { u.domain with nextRecompute := next } }))
    else
    let r := recomputeDomain (z.unit k).domain
    let z := r.2.foldl (fun z y => releaseSlot z y.core y.slot) z
    let z := z.setUnit k { z.unit k with domain := { r.1 with nextRecompute := next } }
    .next (lapse (protectOldest z k))

/-- IDLE (R128): Puts the thread idle until a selected wake condition holds, or ends T0's part of the launch -/
def execIdle (s : BitVec 3) (d a b : BitVec 5) (st : State) : Out :=
  issue { word := (24#7 ++ s ++ d ++ a ++ b ++ 1#7), stall := s.toNat, reads := [(.g, a.toNat), (.g, b.toNat)], home := true } st fun z t =>
    let th := z.thread t
    let mask := th.readG a.toNat &&& idleRole t.thr
    let hit := mask &&& idleHolds z t (th.readG b.toNat)
    if hit ≠ 0 then .ok (z.setThread t (th.putG d.toNat hit), .seq)
    else if mask = 0 ∧ t.thr = 0 ∧ th.asyncq.isEmpty ∧ (List.range 12).all (fun i => (z.thread ⟨t.core, i + 1⟩).run == .dormant) then
      .ok (endT0 (z.setThread t (th.advance (th.pc + 4) s.toNat (issueCycle z t))) t, .placed)
    else .ok (z.setThread t { th.rewind with
      run := if mask = 0 then .idleAlways else .idle true (if mask.getLsbD 2 then some (th.readG b.toNat).toNat else none) }, .placed)

/-- IDLE_TIME_WAKE (R128): GTS reaches an IDLE thread's TIME deadline and it wakes -/
def execIdleTimeWake (c t : Nat) (st : State) : Out :=
  let id : Tid := ⟨c, t⟩
  match (st.thread id).run with
  | .idle true (some g) =>
    let z := advanceGts st g
    if dieRuns z (dieOf z c) then .next (lapse (wake z id)) else .next st
  | _ => .next st

/-- LINE_WAKE (R147): A write to a watched 64-byte line wakes threads parked in WAITA, SIGWAIT or JOIN to re-read -/
def execLineWake (c t : Nat) (st : State) : Out :=
  let id : Tid := ⟨c, t⟩
  if !dieRuns st (dieOf st c) then .next st
  else match (st.thread id).run with
  | .idle false _ =>
    -- a displaced thread leaves its task when it returns to rotation (R210)
    if (st.thread id).halted.isNone ∧ !(st.thread id).stopped ∧ !displaced (st.core c) t then .next (lapse (lookForWork st id)) else .next st
  | _ => .next (lapse (wake st id))

/-- STALL_EXPIRY (R38): A thread's stall count runs out and it becomes ready -/
def execStallExpiry (c t : Nat) (st : State) : Out :=
  let id : Tid := ⟨c, t⟩
  if (st.thread id).run = .ready then .next (lapse (advanceTo st (dieOf st c) (st.thread id).readyAt)) else .next st

/-- HSCH_WAIT_EXPIRY (R47): The n cycles of an HSCH wait run out -/
def execHschWaitExpiry (c t : Nat) (st : State) : Out :=
  let id : Tid := ⟨c, t⟩
  match (st.thread id).run with
  | .ready => .next (lapse (advanceTo st (dieOf st c) (st.thread id).readyAt))
  | .parkedEngine .tileIdle _ => if tileHolds (st.core c).tile t then .next st else .next (lapse (st.setThread id { st.thread id with run := .ready }))
  | _ => .next st

/-- INTERLOCKED_VALUE_WRITE (R42): An interlocked producer's result (load, atomic, divide, engine value) is written to its register -/
def execInterlockedValueWrite (c t : Nat) (st : State) : Out :=
  let id : Tid := ⟨c, t⟩
  let th := st.thread id
  match (th.owed.map (·.due)).min? with
  | some due => .next (lapse ((advanceTo st (dieOf st c) due).setThread id { th with owed := th.owed.filter fun e => decide (due < e.due) }))
  | none => .next (lapse (st.setThread id th.commit))

end Sys2Proof.Machine
end

