-- ==== Sys2Proof/Machine/Control.lean ====
section
/-! DEFINITION. Traps by instruction, returns, markers, control registers, asynchronous traps and SC windows (07 R124 to R131,
06 R104, R108, R109, 03 R50 to R52, 05 R81, 26 R403). -/

namespace Sys2Proof.Machine

open Sys2Proof

/-! ## Control registers (R51, R52, Table 3.9) -/

def csrRO (a : Nat) : Bool := a == 8 || a == 9 || a == 10 || a == 0x10 || a == 0x11 || a == 0x12 || (0x100 ≤ a && a < 0x110)
def csrPerCore (a : Nat) : Bool := a == 9 || a == 10 || a == 12 || a == 13 || a == 0x10 || a == 0x11 || (0x20 ≤ a && a < 0x30)
def csrExists (a : Nat) : Bool := a ≤ 6 || csrRO a || csrPerCore a || (0x40 ≤ a && a < 0x50)

/-- An access to FFLAGS waits until every earlier result is written (R59). -/
def csrAwaits (a : Nat) : Await := if a = 6 then .all else .none

/-- The register that a CSR instruction names: imm12, or the widened immediate (R130). -/
def csrAddr (t : Thread) (i : BitVec 12) : Nat := if t.himm.isEmpty then i.toNat else (t.imm i).toNat

/-- CAP0 to CAP3 (Tables 26.2 to 26.5). -/
def enabledDies (s : State) : List Nat := (List.range 4).filter fun d => (s.die d).enabled
/-- The places of enabled setts (R404). -/
def enabledSetts (s : State) : List Nat := (List.range 576).filter (placeThere s)
def cap0 (s : State) : Nat :=
  let ps := enabledSetts s
  let holts := (List.range 96).filter fun h => ps.any fun p => p / 6 == h
  1 + 2 ^ 8 * (enabledDies s).foldl (fun m d => m + 2 ^ d) 0 + 2 ^ 15 * holts.length + 2 ^ 22 * ps.length + 2 ^ 32 * (8 * ps.length)
def cap1 (s : State) : Nat :=
  let chan := (enabledDies s).foldl (fun m d => m + (s.die d).chan * 2 ^ (7 * d)) 0
  let total := (enabledDies s).foldl (fun m d => m + (s.die d).chan) 0
  chan + 2 ^ 32 * (total * 9 / 8) + 2 ^ 48 * s.portsTrained.toNat
def cap2 (s : State) : Nat :=
  (List.range 4).foldl (fun m d =>
    let x := s.die d
    m + 256 ^ d * (x.point + (if x.refx2 then 4 else 0) + (if x.asked < x.cap then 8 else 0))) 0
def cap3 (s : State) : Nat := s.startKind + (if s.coldNext then 2 else 0) + if s.archTest then 4 else 0

def ggeoWord (g : BitVec 128) (hi : Bool) : Word := g.extractLsb' (if hi then 64 else 0) 64

/-- The value of a control register at the cycle of the read (R52, R368). -/
def csrRead (s : State) (t : Tid) (a : Nat) : Word :=
  let th := s.thread t
  let c := s.core t.core
  let d := dieOf s t.core
  if 0x20 ≤ a ∧ a < 0x30 then c.shfmt.toList.getD (a - 0x20) 0
  else if 0x40 ≤ a ∧ a < 0x50 then
    if a % 2 = 0 then th.segBase.toList.getD ((a - 0x40) / 2) 0 else th.segLimit.toList.getD ((a - 0x40) / 2) 0
  else match a with
  | 0x000 => th.tctl
  | 0x001 => th.cause
  | 0x002 => th.epc
  | 0x003 => th.eval
  | 0x004 => th.tvec
  | 0x005 => th.escr
  | 0x006 => th.fflags
  | 0x008 => BitVec.ofNat 64 t.thr
  | 0x009 => c.vcidOf t.thr
  | 0x00A => c.stdomOf t.thr
  | 0x00C => ggeoWord (c.ggeoOf t.thr) false
  | 0x00D => ggeoWord (c.ggeoOf t.thr) true
  | 0x010 => BitVec.ofNat 64 (dieCycle s d + 2 ^ 80 - c.cycBase)
  | 0x011 => BitVec.ofNat 64 (((s.die d).ncycAt s.now + 2 ^ 80 - c.ncycBase) / 65536)
  | 0x012 => BitVec.ofNat 64 (gts s)
  | 0x100 => BitVec.ofNat 64 (cap0 s)
  | 0x101 => BitVec.ofNat 64 (cap1 s)
  | 0x102 => BitVec.ofNat 64 (cap2 s)
  | 0x103 => BitVec.ofNat 64 (cap3 s)
  | _ => 0

/-- A write: reserved and RO fields keep what they are; none for a value that R66, R102 or R240 refuses. DESIGN CHOICE (log 83): MYR and
MYC, which the launch set by GRIDC, do not follow a later write of GRIDC (R240). -/
def csrWrite (s : State) (t : Tid) (a : Nat) (x : Word) : Option State :=
  let th := s.thread t
  let c := s.core t.core
  if 0x20 ≤ a ∧ a < 0x30 then
    if 8 < field x 3 0 then none
    else some (s.setCore t.core { c with shfmt := c.shfmt.setIfInBounds (a - 0x20) (x &&& 0xFF1F) })
  else if 0x40 ≤ a ∧ a < 0x50 then
    let i := (a - 0x40) / 2
    if a % 2 = 0 then
      if 8 ≤ field x 63 60 then none
      else some (s.setThread t { th with segBase := th.segBase.setIfInBounds i (x &&& 0xFF00FFFFFFFFFFFF) })
    else some (s.setThread t { th with segLimit := th.segLimit.setIfInBounds i (x &&& 0xFFFFFFFFFFFF) })
  else match a with
  | 0x000 => some (s.setThread t { th with tctl := (th.tctl &&& ~~~7#64) ||| (x &&& 7) })
  | 0x001 => some (s.setThread t { th with cause := x &&& 0xC0FF })
  | 0x002 => some (s.setThread t { th with epc := x &&& ~~~3#64 })
  | 0x003 => some (s.setThread t { th with eval := x })
  | 0x004 => some (s.setThread t { th with tvec := x &&& ~~~3#64 })
  | 0x005 => some (s.setThread t { th with escr := x })
  | 0x006 => some (s.setThread t { th with fflags := x &&& 0xFF })
  | 0x00C =>
    if field x 15 0 = 0 ∨ field x 31 16 = 0 then none
    else
      let g := c.ggeoOf t.thr
      some (s.setCore t.core (c.putGgeo t.thr (ggeoWord g true ++ ((ggeoWord g false &&& 0xFFFFFFFF00000000) ||| (x &&& 0xFFFFFFFF)))))
  | 0x00D => some (s.setCore t.core (c.putGgeo t.thr (x ++ ggeoWord (c.ggeoOf t.thr) false)))
  | _ => some s

/-- `CSRW`, `CSRSET`, `CSRCLR`: gD takes the old value and the register the new one in one step (R52, R130). -/
def csrOp (w : BitVec 32) (s : BitVec 3) (d a : BitVec 5) (i : BitVec 12) (st : State) (f : Word → Word → Word) : Out :=
  let th := st.thread st.cur
  let r := csrAddr th i
  issue { word := w, stall := s.toNat, legal := csrExists r && !csrRO r, reads := [(.g, a.toNat)]
          cls := if csrPerCore r then .irrev else .spec, home := r != 6, awaits := csrAwaits r } st fun z t =>
    let old := csrRead z t r
    match csrWrite z t r (f old ((z.thread t).readG a.toNat)) with
    | none => .error (.trap cILLEGAL (w.setWidth 64))
    | some z => .ok (z.setThread t ((z.thread t).putG d.toNat old), .seq)

/-! ## Asynchronous traps (R109) -/

/-- Whether the thread's state lets a pending trap be taken now. -/
def asyncReady (s : State) (t : Tid) : Bool :=
  let th := s.thread t
  !th.asyncq.isEmpty && th.owedTrap.isNone && th.chain.isNone && !th.inh && th.halted.isNone && !th.stopped && (s.ctx (ctxOf s t)).st == .live && th.homeOf.isNone
  && !speculative s t &&
  match th.run with
  | .ready => !(match th.turn with | some (w, _) => w.isDelete | none => false)
  -- a full miss mailbox: nothing has been sent; else R109 or R135 (log 68)
  | .parkedPage w => match w with
    | .page n => match th.asyncq with
      | x :: _ => Config.abandonsPage (x.gts * 2 ^ 16 + n)
      | [] => false
    | _ => true
  | .parkedEngine w _ | .parkedSync w _ => w.isPoll || w == .tileIdle || (match w with | .window _ _ => true | _ => false)
  | .idle b _ => b
  | .idleAlways => true
  | _ => false

/-- The first pending trap is taken in the next slot that the rotation gives the thread (R108): a wait that has sent nothing is
abandoned first, and the thread is ready for that slot; bank cycles end before it (R188). -/
def takeAsync (s : State) (t : Tid) : State :=
  let th := s.thread t
  match th.asyncq with
  | [] => s
  | x :: xs =>
    if th.run ≠ .ready then (forgetMiss s t).setThread t { th with run := .ready, turn := none, scGo := false }
    else
      let s := takeSlot (advanceTo s (dieOf s t.core) th.readyAt) t
      takeTrap (s.setThread t { th with asyncq := xs }) t x.code x.eval th.pc true

/-! ## SC windows (R81) -/

/-- A core's number in its partition's top-level numbering. -/
def topVc (s : State) (core : Nat) : Nat :=
  let i := settOf core
  let p := s.ctx (partOf s 9 (s.sett i).holder)
  match p.setts.find? (fun e => e.2 == i), p.lent.find? (fun e => e.2.1 == i) with
  | some e, _ => e.1 * 8 + core % 8
  | none, some e => e.1 * 8 + core % 8
  | none, none => vcOf s core

/-- The threads whose SC events wait, with their windows. -/
def scWaiting (s : State) : List (Nat × Tid) :=
  (s.cores.map fun e => (List.range 16).filterMap fun i => match (e.2.thread i).run with
    | .parkedSync (.window w _) _ => some (w, (⟨e.1, i⟩ : Tid))
    | _ => none).flatten

/-- The words of the chain of a thread's SC event. -/
def scWords (th : Thread) : Nat :=
  match th.run with
  | .parkedSync (.window _ n) _ => n + 1
  | _ => 0

/-- The place of an SC event among those of its window: virtual core, then thread context. -/
def scKey (s : State) (t : Tid) : Nat := let h := homeTid s t; topVc s h.core * 16 + h.thr

/-- ERET (R127): Returns from the handler to EPC and clears TCTL.INH -/
def execEret (s : BitVec 3) (d a b : BitVec 5) (st : State) : Out :=
  issue { word := (24#7 ++ s ++ d ++ a ++ b ++ 0#7), stall := s.toNat, legal := (st.thread st.cur).inh, home := true, awaits := .divide } st fun z t =>
    let cyc := issueCycle z t
    let z := eret z t
    .ok (z.setThread t ((z.thread t).readyFrom (cyc + 1 + max s.toNat 2)), .placed)

/-- MARK (R129): Emits a marker record when marker tracing is enabled -/
def execMark (s : BitVec 3) (d a b : BitVec 5) (st : State) : Out :=
  issue { word := (24#7 ++ s ++ d ++ a ++ b ++ 3#7), stall := s.toNat, reads := [(.g, a.toNat), (.g, b.toNat)] } st fun z t =>
    .ok (markRecord z t ((z.thread t).readG a.toNat) ((z.thread t).readG b.toNat), .seq)

/-- SYS (R124): Completes and raises SYSCALL, always reflected to the parent -/
def execSys (s : BitVec 3) (d a : BitVec 5) (i : BitVec 12) (st : State) : Out :=
  issue { word := (29#7 ++ s ++ d ++ a ++ i), stall := s.toNat, cls := .irrev, awaits := .slow } st fun z t => .ok (z, .after cSYSCALL ((z.thread t).imm i))

/-- TRAP (R125): Completes and raises SOFT_TRAP with the immediate -/
def execTrap (s : BitVec 3) (d a : BitVec 5) (i : BitVec 12) (st : State) : Out :=
  issue { word := (30#7 ++ s ++ d ++ a ++ i), stall := s.toNat, cls := .irrev, awaits := .slow } st fun z t => .ok (z, .after cSOFT_TRAP ((z.thread t).imm i))

/-- BRK (R126): Causes a debug stop or raises BREAKPOINT with tag e. DESIGN CHOICE (log 65): with break stops armed, under STEP, or
under RUN from a halt at the BRK's own chain, it passes. -/
def execBrk (s : BitVec 3) (e : BitVec 15) (st : State) : Out :=
  issue { word := (24#7 ++ s ++ e ++ 2#7), stall := s.toNat, cls := .irrev } st fun z t =>
    if bit (z.ctx (ctxOf z t)).spoor 5 then
      if (z.thread t).passBreak then .ok (z, .seq) else .ok (haltAt z t 8, .placed)
    else if (z.thread t).passBrk then .ok (z, .seq)
    else .error (.trap cBREAKPOINT (e.setWidth 64))

/-- CSRR (R130): Reads a named control register into gD -/
def execCsrr (s : BitVec 3) (d a : BitVec 5) (i : BitVec 12) (st : State) : Out :=
  let th := st.thread st.cur
  let r := csrAddr th i
  issue { word := (25#7 ++ s ++ d ++ a ++ i), stall := s.toNat, legal := csrExists r, home := r != 6, awaits := csrAwaits r } st fun z t =>
    .ok (z.setThread t ((z.thread t).putG d.toNat (csrRead z t r)), .seq)

/-- CSRW (R130): Writes gA to a control register, returning the old value -/
def execCsrw (s : BitVec 3) (d a : BitVec 5) (i : BitVec 12) (st : State) : Out :=
  csrOp (26#7 ++ s ++ d ++ a ++ i) s d a i st fun _ x => x

/-- CSRSET (R130): ORs gA into a control register, returning the old value -/
def execCsrset (s : BitVec 3) (d a : BitVec 5) (i : BitVec 12) (st : State) : Out :=
  csrOp (27#7 ++ s ++ d ++ a ++ i) s d a i st fun old x => old ||| x

/-- CSRCLR (R130): Clears the bits of gA in a control register, returning the old value -/
def execCsrclr (s : BitVec 3) (d a : BitVec 5) (i : BitVec 12) (st : State) : Out :=
  csrOp (28#7 ++ s ++ d ++ a ++ i) s d a i st fun old x => old &&& ~~~x

/-- ILLEGAL_INSTR (R50): An unallocated or role-reserved word raises ILLEGAL_INSTR precisely -/
def execIllegalInstr (w : BitVec 32) (st : State) : Out :=
  issue { word := w, stall := 0, legal := false, guarded := false } st (regBody id)

/-- ASYNCHRONOUS_TRAP (R109): A pending asynchronous trap is taken at a chain boundary when INH is 0 -/
def execAsynchronousTrap (c t : Nat) (st : State) : Out :=
  let id : Tid := ⟨c, t⟩
  if asyncReady st id then .next (lapse (takeAsync st id)) else .next st

/-- SC_WINDOW_CLOSE (R81): The notification window of SC events closes at a GTS multiple of 16, and the pending .sc accesses and st-ld or all fences of that window complete -/
def execScWindowClose (st : State) : Out :=
  match (scWaiting st).map (·.1) |>.min? with
  | none => .next st
  | some w =>
    let z := advanceGts st ((w + 1) * 16)
    let ts := sortBy (fun a b => decide (scKey z a ≤ scKey z b)) (((scWaiting st).filter fun e => e.1 == w).map (·.2))
    let turns := ts.flatMap fun t => List.replicate (scWords (z.thread t)) (Move.thread t)
    let z := ts.foldl (fun z t => z.setThread t { z.thread t with run := .ready, scGo := true }) z
    .next (lapse { z with agenda := turns ++ z.agenda })

end Sys2Proof.Machine
end

