-- ==== Sys2Proof/Decode.lean ====
section
/-! DEFINITION. The decoder and the encoder of the instruction words (03_words.md R33 to R50, Tables 3.5 to 3.7).

`decodeWord` is total: a word it does not read as an instruction is rejected under a name of `DecodeError`, and the step
raises ILLEGAL_INSTR for it (R50). Reserved fields are ignored by the meanings (R35) and kept here. -/

namespace Sys2Proof

/-- Why a 32-bit word is not an instruction (R50). -/
inductive DecodeError where
  /-- The major opcode has no entry in Tables 3.5 to 3.7. -/
  | unallocatedMajor (maj : BitVec 7)
  /-- A selector value (fn, sub, b or engine field) that its major does not list. -/
  | unallocatedSelector (maj : BitVec 7)
  /-- A size, scope, lane type, bank, queue or HMOD value that R50 calls unallocated for this instruction. -/
  | unallocatedField (w : BitVec 32)
  deriving DecidableEq, Repr

/-- The words whose constructors stand beyond the 244 that compiled Lean code can build (a limit of Lean's runtime,
not of the device). Decoding yields them in this form and `LateInstr.toInstr` names the constructor of `Instr`. -/
inductive LateInstr where
  | ctxnew (s : BitVec 3) (d a b : BitVec 5)
  | ctxgrant (s : BitVec 3) (d a b : BitVec 5)
  | ctxrevoke (s : BitVec 3) (d a b : BitVec 5)
  | ctxstat (s : BitVec 3) (d a b : BitVec 5)
  | resume (s : BitVec 3) (d a b : BitVec 5)
  | lnch (s : BitVec 3) (d a b : BitVec 5)
  | egrs (s : BitVec 3) (d a b : BitVec 5)
  | egfin (s : BitVec 3) (d a b : BitVec 5)
  | hnop (x : BitVec 25)
  | reservedHint (maj : BitVec 7) (p : BitVec 25)
  deriving DecidableEq, Repr

/-- What the decoder reads from a word. -/
abbrev Fetched := Instr ⊕ LateInstr

/-- The constructor of `Instr` for one of the late words. -/
noncomputable def LateInstr.toInstr : LateInstr → Instr
  | .ctxnew s d a b => .ctxnew s d a b
  | .ctxgrant s d a b => .ctxgrant s d a b
  | .ctxrevoke s d a b => .ctxrevoke s d a b
  | .ctxstat s d a b => .ctxstat s d a b
  | .resume s d a b => .resume s d a b
  | .lnch s d a b => .lnch s d a b
  | .egrs s d a b => .egrs s d a b
  | .egfin s d a b => .egfin s d a b
  | .hnop x => .hnop x
  | .reservedHint maj p => .reservedHint maj p

/-- The instruction that a decoded word stands for. -/
noncomputable def Fetched.toInstr : Fetched → Instr
  | .inl i => i
  | .inr l => l.toInstr

/-- R50 for a decoded word; the late words have no field that R50 restricts. -/
def Fetched.wellFormed : Fetched → Bool
  | .inl i => i.wellFormed
  | .inr _ => true

/-- The instructions of major opcode 0x01, by selector. -/
def decodeMajor01 (w : BitVec 32) : Option Fetched :=
  match (w.extractLsb' 0 7).toNat with
  | 0 => some (.inl (.add (w.extractLsb' 22 3) (w.extractLsb' 17 5) (w.extractLsb' 12 5) (w.extractLsb' 7 5)))
  | 1 => some (.inl (.sub (w.extractLsb' 22 3) (w.extractLsb' 17 5) (w.extractLsb' 12 5) (w.extractLsb' 7 5)))
  | 2 => some (.inl (.and (w.extractLsb' 22 3) (w.extractLsb' 17 5) (w.extractLsb' 12 5) (w.extractLsb' 7 5)))
  | 3 => some (.inl (.or (w.extractLsb' 22 3) (w.extractLsb' 17 5) (w.extractLsb' 12 5) (w.extractLsb' 7 5)))
  | 4 => some (.inl (.xor (w.extractLsb' 22 3) (w.extractLsb' 17 5) (w.extractLsb' 12 5) (w.extractLsb' 7 5)))
  | 5 => some (.inl (.shl (w.extractLsb' 22 3) (w.extractLsb' 17 5) (w.extractLsb' 12 5) (w.extractLsb' 7 5)))
  | 6 => some (.inl (.shr (w.extractLsb' 22 3) (w.extractLsb' 17 5) (w.extractLsb' 12 5) (w.extractLsb' 7 5)))
  | 7 => some (.inl (.sar (w.extractLsb' 22 3) (w.extractLsb' 17 5) (w.extractLsb' 12 5) (w.extractLsb' 7 5)))
  | 8 => some (.inl (.min (w.extractLsb' 22 3) (w.extractLsb' 17 5) (w.extractLsb' 12 5) (w.extractLsb' 7 5)))
  | 9 => some (.inl (.minN (w.extractLsb' 22 3) (w.extractLsb' 17 5) (w.extractLsb' 12 5) (w.extractLsb' 7 5)))
  | 10 => some (.inl (.max (w.extractLsb' 22 3) (w.extractLsb' 17 5) (w.extractLsb' 12 5) (w.extractLsb' 7 5)))
  | 11 => some (.inl (.maxN (w.extractLsb' 22 3) (w.extractLsb' 17 5) (w.extractLsb' 12 5) (w.extractLsb' 7 5)))
  | 12 => some (.inl (.leaB (w.extractLsb' 22 3) (w.extractLsb' 17 5) (w.extractLsb' 12 5) (w.extractLsb' 7 5)))
  | 13 => some (.inl (.leaH (w.extractLsb' 22 3) (w.extractLsb' 17 5) (w.extractLsb' 12 5) (w.extractLsb' 7 5)))
  | 14 => some (.inl (.leaW (w.extractLsb' 22 3) (w.extractLsb' 17 5) (w.extractLsb' 12 5) (w.extractLsb' 7 5)))
  | 15 => some (.inl (.leaD (w.extractLsb' 22 3) (w.extractLsb' 17 5) (w.extractLsb' 12 5) (w.extractLsb' 7 5)))
  | 16 => some (.inl (.popc (w.extractLsb' 22 3) (w.extractLsb' 17 5) (w.extractLsb' 12 5) (w.extractLsb' 7 5)))
  | 17 => some (.inl (.clz (w.extractLsb' 22 3) (w.extractLsb' 17 5) (w.extractLsb' 12 5) (w.extractLsb' 7 5)))
  | 18 => some (.inl (.ctz (w.extractLsb' 22 3) (w.extractLsb' 17 5) (w.extractLsb' 12 5) (w.extractLsb' 7 5)))
  | 19 => some (.inl (.brev (w.extractLsb' 22 3) (w.extractLsb' 17 5) (w.extractLsb' 12 5) (w.extractLsb' 7 5)))
  | 20 => some (.inl (.bext (w.extractLsb' 22 3) (w.extractLsb' 17 5) (w.extractLsb' 12 5) (w.extractLsb' 7 5)))
  | 21 => some (.inl (.bins (w.extractLsb' 22 3) (w.extractLsb' 17 5) (w.extractLsb' 12 5) (w.extractLsb' 7 5)))
  | 22 => some (.inl (.sel (w.extractLsb' 22 3) (w.extractLsb' 17 5) (w.extractLsb' 12 5) (w.extractLsb' 7 5)))
  | 24 => some (.inl (.cmpEq (w.extractLsb' 22 3) (w.extractLsb' 20 2) (w.extractLsb' 17 3) (w.extractLsb' 12 5) (w.extractLsb' 7 5)))
  | 25 => some (.inl (.cmpNe (w.extractLsb' 22 3) (w.extractLsb' 20 2) (w.extractLsb' 17 3) (w.extractLsb' 12 5) (w.extractLsb' 7 5)))
  | 26 => some (.inl (.cmpLt (w.extractLsb' 22 3) (w.extractLsb' 20 2) (w.extractLsb' 17 3) (w.extractLsb' 12 5) (w.extractLsb' 7 5)))
  | 27 => some (.inl (.cmpLe (w.extractLsb' 22 3) (w.extractLsb' 20 2) (w.extractLsb' 17 3) (w.extractLsb' 12 5) (w.extractLsb' 7 5)))
  | 28 => some (.inl (.cmpLtn (w.extractLsb' 22 3) (w.extractLsb' 20 2) (w.extractLsb' 17 3) (w.extractLsb' 12 5) (w.extractLsb' 7 5)))
  | 29 => some (.inl (.cmpLen (w.extractLsb' 22 3) (w.extractLsb' 20 2) (w.extractLsb' 17 3) (w.extractLsb' 12 5) (w.extractLsb' 7 5)))
  | _ => none

/-- The instructions of major opcode 0x02, by selector. -/
def decodeMajor02 (w : BitVec 32) : Option Fetched :=
  match (w.extractLsb' 0 7).toNat with
  | 0 => some (.inl (.mul (w.extractLsb' 22 3) (w.extractLsb' 17 5) (w.extractLsb' 12 5) (w.extractLsb' 7 5)))
  | 1 => some (.inl (.mulh (w.extractLsb' 22 3) (w.extractLsb' 17 5) (w.extractLsb' 12 5) (w.extractLsb' 7 5)))
  | 2 => some (.inl (.mulhN (w.extractLsb' 22 3) (w.extractLsb' 17 5) (w.extractLsb' 12 5) (w.extractLsb' 7 5)))
  | 4 => some (.inl (.div (w.extractLsb' 22 3) (w.extractLsb' 17 5) (w.extractLsb' 12 5) (w.extractLsb' 7 5)))
  | 5 => some (.inl (.divN (w.extractLsb' 22 3) (w.extractLsb' 17 5) (w.extractLsb' 12 5) (w.extractLsb' 7 5)))
  | 6 => some (.inl (.rem (w.extractLsb' 22 3) (w.extractLsb' 17 5) (w.extractLsb' 12 5) (w.extractLsb' 7 5)))
  | 7 => some (.inl (.remN (w.extractLsb' 22 3) (w.extractLsb' 17 5) (w.extractLsb' 12 5) (w.extractLsb' 7 5)))
  | _ => none

/-- The instructions of major opcode 0x0A, by selector. -/
def decodeMajor0A (w : BitVec 32) : Option Fetched :=
  match (w.extractLsb' 20 2).toNat with
  | 0 => some (.inl (.cmpiEq (w.extractLsb' 22 3) (w.extractLsb' 17 3) (w.extractLsb' 12 5) (w.extractLsb' 0 12)))
  | 1 => some (.inl (.cmpiNe (w.extractLsb' 22 3) (w.extractLsb' 17 3) (w.extractLsb' 12 5) (w.extractLsb' 0 12)))
  | 2 => some (.inl (.cmpiLt (w.extractLsb' 22 3) (w.extractLsb' 17 3) (w.extractLsb' 12 5) (w.extractLsb' 0 12)))
  | 3 => some (.inl (.cmpiLtn (w.extractLsb' 22 3) (w.extractLsb' 17 3) (w.extractLsb' 12 5) (w.extractLsb' 0 12)))
  | _ => none

/-- The instructions of major opcode 0x13, by selector. -/
def decodeMajor13 (w : BitVec 32) : Option Fetched :=
  match (w.extractLsb' 0 7).toNat with
  | 0 => some (.inl (.jmpr (w.extractLsb' 22 3) (w.extractLsb' 17 5) (w.extractLsb' 12 5) (w.extractLsb' 7 5)))
  | 1 => some (.inl (.callr (w.extractLsb' 22 3) (w.extractLsb' 17 5) (w.extractLsb' 12 5) (w.extractLsb' 7 5)))
  | _ => none

/-- The instructions of major opcode 0x18, by selector. -/
def decodeMajor18 (w : BitVec 32) : Option Fetched :=
  match (w.extractLsb' 0 7).toNat with
  | 0 => some (.inl (.eret (w.extractLsb' 22 3) (w.extractLsb' 17 5) (w.extractLsb' 12 5) (w.extractLsb' 7 5)))
  | 1 => some (.inl (.idle (w.extractLsb' 22 3) (w.extractLsb' 17 5) (w.extractLsb' 12 5) (w.extractLsb' 7 5)))
  | 2 => some (.inl (.brk (w.extractLsb' 22 3) (w.extractLsb' 7 15)))
  | 3 => some (.inl (.mark (w.extractLsb' 22 3) (w.extractLsb' 17 5) (w.extractLsb' 12 5) (w.extractLsb' 7 5)))
  | _ => none

/-- The instructions of major opcode 0x27, by selector. -/
def decodeMajor27 (w : BitVec 32) : Option Fetched :=
  match (w.extractLsb' 0 4).toNat with
  | 0 => some (.inl (.amoAdd (w.extractLsb' 22 3) (w.extractLsb' 17 5) (w.extractLsb' 12 5) (w.extractLsb' 9 3) (w.extractLsb' 7 2) (w.extractLsb' 4 3)))
  | 1 => some (.inl (.amoAnd (w.extractLsb' 22 3) (w.extractLsb' 17 5) (w.extractLsb' 12 5) (w.extractLsb' 9 3) (w.extractLsb' 7 2) (w.extractLsb' 4 3)))
  | 2 => some (.inl (.amoOr (w.extractLsb' 22 3) (w.extractLsb' 17 5) (w.extractLsb' 12 5) (w.extractLsb' 9 3) (w.extractLsb' 7 2) (w.extractLsb' 4 3)))
  | 3 => some (.inl (.amoXor (w.extractLsb' 22 3) (w.extractLsb' 17 5) (w.extractLsb' 12 5) (w.extractLsb' 9 3) (w.extractLsb' 7 2) (w.extractLsb' 4 3)))
  | 4 => some (.inl (.amoMin (w.extractLsb' 22 3) (w.extractLsb' 17 5) (w.extractLsb' 12 5) (w.extractLsb' 9 3) (w.extractLsb' 7 2) (w.extractLsb' 4 3)))
  | 5 => some (.inl (.amoMax (w.extractLsb' 22 3) (w.extractLsb' 17 5) (w.extractLsb' 12 5) (w.extractLsb' 9 3) (w.extractLsb' 7 2) (w.extractLsb' 4 3)))
  | 6 => some (.inl (.amoMinn (w.extractLsb' 22 3) (w.extractLsb' 17 5) (w.extractLsb' 12 5) (w.extractLsb' 9 3) (w.extractLsb' 7 2) (w.extractLsb' 4 3)))
  | 7 => some (.inl (.amoMaxn (w.extractLsb' 22 3) (w.extractLsb' 17 5) (w.extractLsb' 12 5) (w.extractLsb' 9 3) (w.extractLsb' 7 2) (w.extractLsb' 4 3)))
  | 8 => some (.inl (.amoSwap (w.extractLsb' 22 3) (w.extractLsb' 17 5) (w.extractLsb' 12 5) (w.extractLsb' 9 3) (w.extractLsb' 7 2) (w.extractLsb' 4 3)))
  | 9 => some (.inl (.amoFadd (w.extractLsb' 22 3) (w.extractLsb' 17 5) (w.extractLsb' 12 5) (w.extractLsb' 9 3) (w.extractLsb' 7 2) (w.extractLsb' 4 3)))
  | _ => none

/-- The instructions of major opcode 0x28, by selector. -/
def decodeMajor28 (w : BitVec 32) : Option Fetched :=
  match (w.extractLsb' 0 4).toNat with
  | 0 => some (.inl (.cas (w.extractLsb' 22 3) (w.extractLsb' 17 5) (w.extractLsb' 12 5) (w.extractLsb' 9 3) (w.extractLsb' 7 2) (w.extractLsb' 4 3)))
  | _ => none

/-- The instructions of major opcode 0x30, by selector. -/
def decodeMajor30 (w : BitVec 32) : Option Fetched :=
  if w.extractLsb' 0 4 = 0#4 ∧ w.extractLsb' 9 3 = 0#3 then some (.inl (.fenceLdld (w.extractLsb' 22 3) (w.extractLsb' 17 5) (w.extractLsb' 12 5) (w.extractLsb' 7 2) (w.extractLsb' 4 3)))
  else if w.extractLsb' 0 4 = 0#4 ∧ w.extractLsb' 9 3 = 1#3 then some (.inl (.fenceLdst (w.extractLsb' 22 3) (w.extractLsb' 17 5) (w.extractLsb' 12 5) (w.extractLsb' 7 2) (w.extractLsb' 4 3)))
  else if w.extractLsb' 0 4 = 0#4 ∧ w.extractLsb' 9 3 = 2#3 then some (.inl (.fenceStld (w.extractLsb' 22 3) (w.extractLsb' 17 5) (w.extractLsb' 12 5) (w.extractLsb' 7 2) (w.extractLsb' 4 3)))
  else if w.extractLsb' 0 4 = 0#4 ∧ w.extractLsb' 9 3 = 3#3 then some (.inl (.fenceStst (w.extractLsb' 22 3) (w.extractLsb' 17 5) (w.extractLsb' 12 5) (w.extractLsb' 7 2) (w.extractLsb' 4 3)))
  else if w.extractLsb' 0 4 = 0#4 ∧ w.extractLsb' 9 3 = 4#3 then some (.inl (.fenceAll (w.extractLsb' 22 3) (w.extractLsb' 17 5) (w.extractLsb' 12 5) (w.extractLsb' 7 2) (w.extractLsb' 4 3)))
  else none

/-- The instructions of major opcode 0x31, by selector. -/
def decodeMajor31 (w : BitVec 32) : Option Fetched :=
  match (w.extractLsb' 0 7).toNat with
  | 0 => some (.inl (.bari (w.extractLsb' 22 3) (w.extractLsb' 17 5) (w.extractLsb' 12 5) (w.extractLsb' 7 5)))
  | 1 => some (.inl (.bara (w.extractLsb' 22 3) (w.extractLsb' 17 5) (w.extractLsb' 12 5) (w.extractLsb' 7 5)))
  | 2 => some (.inl (.barw (w.extractLsb' 22 3) (w.extractLsb' 17 5) (w.extractLsb' 12 5) (w.extractLsb' 7 5)))
  | _ => none

/-- The instructions of major opcode 0x32, by selector. -/
def decodeMajor32 (w : BitVec 32) : Option Fetched :=
  match (w.extractLsb' 0 4).toNat with
  | 0 => some (.inl (.waita (w.extractLsb' 22 3) (w.extractLsb' 17 5) (w.extractLsb' 12 5) (w.extractLsb' 9 3) (w.extractLsb' 7 2) (w.extractLsb' 4 3)))
  | _ => none

/-- The instructions of major opcode 0x33, by selector. -/
def decodeMajor33 (w : BitVec 32) : Option Fetched :=
  match (w.extractLsb' 0 7).toNat with
  | 0 => some (.inl (.sigdec (w.extractLsb' 22 3) (w.extractLsb' 17 5) (w.extractLsb' 12 5) (w.extractLsb' 7 5)))
  | 1 => some (.inl (.sigwait (w.extractLsb' 22 3) (w.extractLsb' 17 5) (w.extractLsb' 12 5) (w.extractLsb' 7 5)))
  | _ => none

/-- The instructions of major opcode 0x34, by selector. -/
def decodeMajor34 (w : BitVec 32) : Option Fetched :=
  match (w.extractLsb' 0 7).toNat with
  | 0 => some (.inl (.msend (w.extractLsb' 22 3) (w.extractLsb' 17 5) (w.extractLsb' 12 5) (w.extractLsb' 7 5)))
  | 1 => some (.inl (.mrecv (w.extractLsb' 22 3) (w.extractLsb' 17 5) (w.extractLsb' 12 5) (w.extractLsb' 7 5)))
  | 2 => some (.inl (.mpoll (w.extractLsb' 22 3) (w.extractLsb' 17 5) (w.extractLsb' 12 5) (w.extractLsb' 7 5)))
  | 3 => some (.inl (.pjack (w.extractLsb' 22 3) (w.extractLsb' 17 5) (w.extractLsb' 12 5) (w.extractLsb' 7 5)))
  | _ => none

/-- The instructions of major opcode 0x35, by selector. -/
def decodeMajor35 (w : BitVec 32) : Option Fetched :=
  match (w.extractLsb' 0 4).toNat with
  | 0 => some (.inl (.psto (w.extractLsb' 22 3) (w.extractLsb' 17 5) (w.extractLsb' 12 5) (w.extractLsb' 9 3) (w.extractLsb' 7 2) (w.extractLsb' 4 3)))
  | _ => none

/-- The instructions of major opcode 0x36, by selector. -/
def decodeMajor36 (w : BitVec 32) : Option Fetched :=
  match (w.extractLsb' 0 7).toNat with
  | 0 => some (.inl (.spawn (w.extractLsb' 22 3) (w.extractLsb' 17 5) (w.extractLsb' 12 5) (w.extractLsb' 7 5)))
  | 1 => some (.inl (.reap (w.extractLsb' 22 3) (w.extractLsb' 17 5) (w.extractLsb' 12 5) (w.extractLsb' 7 5)))
  | 2 => some (.inl (.yield (w.extractLsb' 22 3) (w.extractLsb' 17 5) (w.extractLsb' 12 5) (w.extractLsb' 7 5)))
  | 3 => some (.inl (.ypt (w.extractLsb' 22 3) (w.extractLsb' 17 5) (w.extractLsb' 12 5) (w.extractLsb' 7 5)))
  | _ => none

/-- The instructions of major opcode 0x37, by selector. -/
def decodeMajor37 (w : BitVec 32) : Option Fetched :=
  match (w.extractLsb' 0 7).toNat with
  | 0 => some (.inl (.fork (w.extractLsb' 22 3) (w.extractLsb' 17 5) (w.extractLsb' 12 5) (w.extractLsb' 7 5)))
  | 1 => some (.inl (.join (w.extractLsb' 22 3) (w.extractLsb' 17 5) (w.extractLsb' 12 5) (w.extractLsb' 7 5)))
  | 2 => some (.inl (.tend (w.extractLsb' 22 3) (w.extractLsb' 17 5) (w.extractLsb' 12 5) (w.extractLsb' 7 5)))
  | 3 => some (.inl (.tspawn (w.extractLsb' 22 3) (w.extractLsb' 17 5) (w.extractLsb' 12 5) (w.extractLsb' 7 5)))
  | 4 => some (.inl (.tstamp (w.extractLsb' 22 3) (w.extractLsb' 17 5) (w.extractLsb' 12 5) (w.extractLsb' 7 5)))
  | _ => none

/-- The instructions of major opcode 0x38, by selector. -/
def decodeMajor38 (w : BitVec 32) : Option Fetched :=
  match (w.extractLsb' 0 7).toNat with
  | 0 => some (.inl (.migr (w.extractLsb' 22 3) (w.extractLsb' 17 5) (w.extractLsb' 12 5) (w.extractLsb' 7 5)))
  | 1 => some (.inl (.homec (w.extractLsb' 22 3) (w.extractLsb' 17 5) (w.extractLsb' 12 5) (w.extractLsb' 7 5)))
  | _ => none

/-- The instructions of major opcode 0x39, by selector. -/
def decodeMajor39 (w : BitVec 32) : Option Fetched :=
  match (w.extractLsb' 0 7).toNat with
  | 0 => some (.inl (.mbput (w.extractLsb' 22 3) (w.extractLsb' 17 5) (w.extractLsb' 12 5) (w.extractLsb' 7 5)))
  | 1 => some (.inl (.mbputRel (w.extractLsb' 22 3) (w.extractLsb' 17 5) (w.extractLsb' 12 5) (w.extractLsb' 7 5)))
  | 2 => some (.inl (.mbget (w.extractLsb' 22 3) (w.extractLsb' 17 5) (w.extractLsb' 12 5) (w.extractLsb' 7 5)))
  | _ => none

/-- The instructions of major opcode 0x3A, by selector. -/
def decodeMajor3A (w : BitVec 32) : Option Fetched :=
  match (w.extractLsb' 0 7).toNat with
  | 0 => some (.inl (.wkdone (w.extractLsb' 22 3) (w.extractLsb' 17 5) (w.extractLsb' 12 5) (w.extractLsb' 7 5)))
  | _ => none

/-- The instructions of major opcode 0x3B, by selector. -/
def decodeMajor3B (w : BitVec 32) : Option Fetched :=
  match (w.extractLsb' 0 7).toNat with
  | 0 => some (.inl (.scld (w.extractLsb' 22 3) (w.extractLsb' 17 5) (w.extractLsb' 12 5) (w.extractLsb' 7 5)))
  | _ => none

/-- The instructions of major opcode 0x4C, by selector. -/
def decodeMajor4C (w : BitVec 32) : Option Fetched :=
  match (w.extractLsb' 20 2).toNat with
  | 0 => some (.inl (.vcmpEq (w.extractLsb' 22 3) (w.extractLsb' 17 3) (w.extractLsb' 12 5) (w.extractLsb' 7 5) (w.extractLsb' 4 3) (w.extractLsb' 3 1) (w.extractLsb' 2 1) (w.extractLsb' 0 2)))
  | 1 => some (.inl (.vcmpNe (w.extractLsb' 22 3) (w.extractLsb' 17 3) (w.extractLsb' 12 5) (w.extractLsb' 7 5) (w.extractLsb' 4 3) (w.extractLsb' 3 1) (w.extractLsb' 2 1) (w.extractLsb' 0 2)))
  | 2 => some (.inl (.vcmpLt (w.extractLsb' 22 3) (w.extractLsb' 17 3) (w.extractLsb' 12 5) (w.extractLsb' 7 5) (w.extractLsb' 4 3) (w.extractLsb' 3 1) (w.extractLsb' 2 1) (w.extractLsb' 0 2)))
  | 3 => some (.inl (.vcmpLe (w.extractLsb' 22 3) (w.extractLsb' 17 3) (w.extractLsb' 12 5) (w.extractLsb' 7 5) (w.extractLsb' 4 3) (w.extractLsb' 3 1) (w.extractLsb' 2 1) (w.extractLsb' 0 2)))
  | _ => none

/-- The instructions of major opcode 0x4E, by selector. -/
def decodeMajor4E (w : BitVec 32) : Option Fetched :=
  match (w.extractLsb' 7 5).toNat with
  | 0 => some (.inl (.vabs (w.extractLsb' 22 3) (w.extractLsb' 17 5) (w.extractLsb' 12 5) (w.extractLsb' 4 3) (w.extractLsb' 3 1) (w.extractLsb' 2 1) (w.extractLsb' 0 2)))
  | 1 => some (.inl (.vneg (w.extractLsb' 22 3) (w.extractLsb' 17 5) (w.extractLsb' 12 5) (w.extractLsb' 4 3) (w.extractLsb' 3 1) (w.extractLsb' 2 1) (w.extractLsb' 0 2)))
  | 2 => some (.inl (.vrcp (w.extractLsb' 22 3) (w.extractLsb' 17 5) (w.extractLsb' 12 5) (w.extractLsb' 4 3) (w.extractLsb' 3 1) (w.extractLsb' 2 1) (w.extractLsb' 0 2)))
  | 3 => some (.inl (.vrsq (w.extractLsb' 22 3) (w.extractLsb' 17 5) (w.extractLsb' 12 5) (w.extractLsb' 4 3) (w.extractLsb' 3 1) (w.extractLsb' 2 1) (w.extractLsb' 0 2)))
  | 4 => some (.inl (.vexp2 (w.extractLsb' 22 3) (w.extractLsb' 17 5) (w.extractLsb' 12 5) (w.extractLsb' 4 3) (w.extractLsb' 3 1) (w.extractLsb' 2 1) (w.extractLsb' 0 2)))
  | 5 => some (.inl (.vlog2 (w.extractLsb' 22 3) (w.extractLsb' 17 5) (w.extractLsb' 12 5) (w.extractLsb' 4 3) (w.extractLsb' 3 1) (w.extractLsb' 2 1) (w.extractLsb' 0 2)))
  | _ => none

/-- The instructions of major opcode 0x4F, by selector. -/
def decodeMajor4F (w : BitVec 32) : Option Fetched :=
  if w.extractLsb' 7 5 = 0#5 then some (.inl (.vcvtF2s (w.extractLsb' 22 3) (w.extractLsb' 17 5) (w.extractLsb' 12 5) (w.extractLsb' 4 3) (w.extractLsb' 3 1) (w.extractLsb' 2 1) (w.extractLsb' 0 2)))
  else if w.extractLsb' 7 5 = 1#5 then some (.inl (.vcvtF2n (w.extractLsb' 22 3) (w.extractLsb' 17 5) (w.extractLsb' 12 5) (w.extractLsb' 4 3) (w.extractLsb' 3 1) (w.extractLsb' 2 1) (w.extractLsb' 0 2)))
  else if w.extractLsb' 7 5 = 2#5 then some (.inl (.vcvtS2f (w.extractLsb' 22 3) (w.extractLsb' 17 5) (w.extractLsb' 12 5) (w.extractLsb' 4 3) (w.extractLsb' 3 1) (w.extractLsb' 2 1) (w.extractLsb' 0 2)))
  else if w.extractLsb' 7 5 = 3#5 then some (.inl (.vcvtN2f (w.extractLsb' 22 3) (w.extractLsb' 17 5) (w.extractLsb' 12 5) (w.extractLsb' 4 3) (w.extractLsb' 3 1) (w.extractLsb' 2 1) (w.extractLsb' 0 2)))
  else if w.extractLsb' 8 4 = 2#4 then some (.inl (.vcvtF2b (w.extractLsb' 22 3) (w.extractLsb' 17 5) (w.extractLsb' 12 5) (w.extractLsb' 7 1) (w.extractLsb' 4 3) (w.extractLsb' 3 1) (w.extractLsb' 2 1) (w.extractLsb' 0 2)))
  else if w.extractLsb' 8 4 = 3#4 then some (.inl (.vcvtF2h (w.extractLsb' 22 3) (w.extractLsb' 17 5) (w.extractLsb' 12 5) (w.extractLsb' 7 1) (w.extractLsb' 4 3) (w.extractLsb' 3 1) (w.extractLsb' 2 1) (w.extractLsb' 0 2)))
  else if w.extractLsb' 8 4 = 4#4 then some (.inl (.vcvtB2f (w.extractLsb' 22 3) (w.extractLsb' 17 5) (w.extractLsb' 12 5) (w.extractLsb' 7 1) (w.extractLsb' 4 3) (w.extractLsb' 3 1) (w.extractLsb' 2 1) (w.extractLsb' 0 2)))
  else if w.extractLsb' 8 4 = 5#4 then some (.inl (.vcvtH2f (w.extractLsb' 22 3) (w.extractLsb' 17 5) (w.extractLsb' 12 5) (w.extractLsb' 7 1) (w.extractLsb' 4 3) (w.extractLsb' 3 1) (w.extractLsb' 2 1) (w.extractLsb' 0 2)))
  else if w.extractLsb' 9 3 = 3#3 then some (.inl (.vcvtF2e4 (w.extractLsb' 22 3) (w.extractLsb' 17 5) (w.extractLsb' 12 5) (w.extractLsb' 7 2) (w.extractLsb' 4 3) (w.extractLsb' 3 1) (w.extractLsb' 2 1) (w.extractLsb' 0 2)))
  else if w.extractLsb' 9 3 = 4#3 then some (.inl (.vcvtF2e5 (w.extractLsb' 22 3) (w.extractLsb' 17 5) (w.extractLsb' 12 5) (w.extractLsb' 7 2) (w.extractLsb' 4 3) (w.extractLsb' 3 1) (w.extractLsb' 2 1) (w.extractLsb' 0 2)))
  else if w.extractLsb' 9 3 = 5#3 then some (.inl (.vcvtE4f (w.extractLsb' 22 3) (w.extractLsb' 17 5) (w.extractLsb' 12 5) (w.extractLsb' 7 2) (w.extractLsb' 4 3) (w.extractLsb' 3 1) (w.extractLsb' 2 1) (w.extractLsb' 0 2)))
  else if w.extractLsb' 9 3 = 6#3 then some (.inl (.vcvtE5f (w.extractLsb' 22 3) (w.extractLsb' 17 5) (w.extractLsb' 12 5) (w.extractLsb' 7 2) (w.extractLsb' 4 3) (w.extractLsb' 3 1) (w.extractLsb' 2 1) (w.extractLsb' 0 2)))
  else none

/-- The instructions of major opcode 0x50, by selector. -/
def decodeMajor50 (w : BitVec 32) : Option Fetched :=
  if w.extractLsb' 7 3 = 0#3 ∧ w.extractLsb' 11 1 = 0#1 then some (.inl (.vredSum (w.extractLsb' 22 3) (w.extractLsb' 17 5) (w.extractLsb' 12 5) (w.extractLsb' 10 1) (w.extractLsb' 4 3) (w.extractLsb' 3 1) (w.extractLsb' 2 1) (w.extractLsb' 0 2)))
  else if w.extractLsb' 7 3 = 1#3 ∧ w.extractLsb' 11 1 = 0#1 then some (.inl (.vredMin (w.extractLsb' 22 3) (w.extractLsb' 17 5) (w.extractLsb' 12 5) (w.extractLsb' 10 1) (w.extractLsb' 4 3) (w.extractLsb' 3 1) (w.extractLsb' 2 1) (w.extractLsb' 0 2)))
  else if w.extractLsb' 7 3 = 2#3 ∧ w.extractLsb' 11 1 = 0#1 then some (.inl (.vredMax (w.extractLsb' 22 3) (w.extractLsb' 17 5) (w.extractLsb' 12 5) (w.extractLsb' 10 1) (w.extractLsb' 4 3) (w.extractLsb' 3 1) (w.extractLsb' 2 1) (w.extractLsb' 0 2)))
  else if w.extractLsb' 7 3 = 3#3 ∧ w.extractLsb' 11 1 = 0#1 then some (.inl (.vredAnd (w.extractLsb' 22 3) (w.extractLsb' 17 5) (w.extractLsb' 12 5) (w.extractLsb' 10 1) (w.extractLsb' 4 3) (w.extractLsb' 3 1) (w.extractLsb' 2 1) (w.extractLsb' 0 2)))
  else if w.extractLsb' 7 3 = 4#3 ∧ w.extractLsb' 11 1 = 0#1 then some (.inl (.vredOr (w.extractLsb' 22 3) (w.extractLsb' 17 5) (w.extractLsb' 12 5) (w.extractLsb' 10 1) (w.extractLsb' 4 3) (w.extractLsb' 3 1) (w.extractLsb' 2 1) (w.extractLsb' 0 2)))
  else if w.extractLsb' 7 3 = 5#3 ∧ w.extractLsb' 11 1 = 0#1 then some (.inl (.vredXor (w.extractLsb' 22 3) (w.extractLsb' 17 5) (w.extractLsb' 12 5) (w.extractLsb' 10 1) (w.extractLsb' 4 3) (w.extractLsb' 3 1) (w.extractLsb' 2 1) (w.extractLsb' 0 2)))
  else if w.extractLsb' 7 3 = 0#3 ∧ w.extractLsb' 11 1 = 1#1 then some (.inl (.vscanSum (w.extractLsb' 22 3) (w.extractLsb' 17 5) (w.extractLsb' 12 5) (w.extractLsb' 10 1) (w.extractLsb' 4 3) (w.extractLsb' 3 1) (w.extractLsb' 2 1) (w.extractLsb' 0 2)))
  else if w.extractLsb' 7 3 = 1#3 ∧ w.extractLsb' 11 1 = 1#1 then some (.inl (.vscanMin (w.extractLsb' 22 3) (w.extractLsb' 17 5) (w.extractLsb' 12 5) (w.extractLsb' 10 1) (w.extractLsb' 4 3) (w.extractLsb' 3 1) (w.extractLsb' 2 1) (w.extractLsb' 0 2)))
  else if w.extractLsb' 7 3 = 2#3 ∧ w.extractLsb' 11 1 = 1#1 then some (.inl (.vscanMax (w.extractLsb' 22 3) (w.extractLsb' 17 5) (w.extractLsb' 12 5) (w.extractLsb' 10 1) (w.extractLsb' 4 3) (w.extractLsb' 3 1) (w.extractLsb' 2 1) (w.extractLsb' 0 2)))
  else if w.extractLsb' 7 3 = 3#3 ∧ w.extractLsb' 11 1 = 1#1 then some (.inl (.vscanAnd (w.extractLsb' 22 3) (w.extractLsb' 17 5) (w.extractLsb' 12 5) (w.extractLsb' 10 1) (w.extractLsb' 4 3) (w.extractLsb' 3 1) (w.extractLsb' 2 1) (w.extractLsb' 0 2)))
  else if w.extractLsb' 7 3 = 4#3 ∧ w.extractLsb' 11 1 = 1#1 then some (.inl (.vscanOr (w.extractLsb' 22 3) (w.extractLsb' 17 5) (w.extractLsb' 12 5) (w.extractLsb' 10 1) (w.extractLsb' 4 3) (w.extractLsb' 3 1) (w.extractLsb' 2 1) (w.extractLsb' 0 2)))
  else if w.extractLsb' 7 3 = 5#3 ∧ w.extractLsb' 11 1 = 1#1 then some (.inl (.vscanXor (w.extractLsb' 22 3) (w.extractLsb' 17 5) (w.extractLsb' 12 5) (w.extractLsb' 10 1) (w.extractLsb' 4 3) (w.extractLsb' 3 1) (w.extractLsb' 2 1) (w.extractLsb' 0 2)))
  else none

/-- The instructions of major opcode 0x51, by selector. -/
def decodeMajor51 (w : BitVec 32) : Option Fetched :=
  if w.extractLsb' 0 7 = 0#7 then some (.inl (.kand (w.extractLsb' 22 3) (w.extractLsb' 17 5) (w.extractLsb' 12 5) (w.extractLsb' 7 5)))
  else if w.extractLsb' 0 7 = 1#7 then some (.inl (.kor (w.extractLsb' 22 3) (w.extractLsb' 17 5) (w.extractLsb' 12 5) (w.extractLsb' 7 5)))
  else if w.extractLsb' 0 7 = 2#7 then some (.inl (.kxor (w.extractLsb' 22 3) (w.extractLsb' 17 5) (w.extractLsb' 12 5) (w.extractLsb' 7 5)))
  else if w.extractLsb' 0 7 = 3#7 then some (.inl (.knot (w.extractLsb' 22 3) (w.extractLsb' 17 5) (w.extractLsb' 12 5) (w.extractLsb' 7 5)))
  else if w.extractLsb' 0 9 = 4#9 then some (.inl (.kmovK (w.extractLsb' 22 3) (w.extractLsb' 17 5) (w.extractLsb' 12 5) (w.extractLsb' 9 3)))
  else if w.extractLsb' 0 9 = 132#9 then some (.inl (.kmovFromG (w.extractLsb' 22 3) (w.extractLsb' 17 5) (w.extractLsb' 12 5) (w.extractLsb' 9 3)))
  else if w.extractLsb' 0 9 = 260#9 then some (.inl (.kmovToG (w.extractLsb' 22 3) (w.extractLsb' 17 5) (w.extractLsb' 12 5) (w.extractLsb' 9 3)))
  else if w.extractLsb' 0 7 = 5#7 then some (.inl (.kpack (w.extractLsb' 22 3) (w.extractLsb' 17 5) (w.extractLsb' 12 5) (w.extractLsb' 7 5)))
  else if w.extractLsb' 0 7 = 6#7 then some (.inl (.kunpk (w.extractLsb' 22 3) (w.extractLsb' 17 5) (w.extractLsb' 12 5) (w.extractLsb' 7 5)))
  else if w.extractLsb' 0 7 = 7#7 then some (.inl (.kpopc (w.extractLsb' 22 3) (w.extractLsb' 17 5) (w.extractLsb' 12 5) (w.extractLsb' 7 5)))
  else none

/-- The instructions of major opcode 0x54, by selector. -/
def decodeMajor54 (w : BitVec 32) : Option Fetched :=
  match (w.extractLsb' 0 2).toNat with
  | 0 => some (.inl (.vqnt (w.extractLsb' 22 3) (w.extractLsb' 17 5) (w.extractLsb' 12 5) (w.extractLsb' 7 5) (w.extractLsb' 4 3) (w.extractLsb' 3 1) (w.extractLsb' 2 1)))
  | 1 => some (.inl (.vdq (w.extractLsb' 22 3) (w.extractLsb' 17 5) (w.extractLsb' 12 5) (w.extractLsb' 7 5) (w.extractLsb' 4 3) (w.extractLsb' 3 1) (w.extractLsb' 2 1)))
  | _ => none

/-- The instructions of major opcode 0x55, by selector. -/
def decodeMajor55 (w : BitVec 32) : Option Fetched :=
  match (w.extractLsb' 0 2).toNat with
  | 0 => some (.inl (.vlane (w.extractLsb' 22 3) (w.extractLsb' 17 5) (w.extractLsb' 12 5) (w.extractLsb' 11 1) (w.extractLsb' 7 4) (w.extractLsb' 4 3) (w.extractLsb' 3 1) (w.extractLsb' 2 1)))
  | 1 => some (.inl (.vins (w.extractLsb' 22 3) (w.extractLsb' 17 5) (w.extractLsb' 12 5) (w.extractLsb' 11 1) (w.extractLsb' 7 4) (w.extractLsb' 4 3) (w.extractLsb' 3 1) (w.extractLsb' 2 1)))
  | _ => none

/-- The instructions of major opcode 0x56, by selector. -/
def decodeMajor56 (w : BitVec 32) : Option Fetched :=
  match (w.extractLsb' 0 2).toNat with
  | 0 => some (.inl (.vld (w.extractLsb' 22 3) (w.extractLsb' 17 5) (w.extractLsb' 12 5) (w.extractLsb' 7 5) (w.extractLsb' 4 3) (w.extractLsb' 3 1) (w.extractLsb' 2 1)))
  | 1 => some (.inl (.vst (w.extractLsb' 22 3) (w.extractLsb' 17 5) (w.extractLsb' 12 5) (w.extractLsb' 7 5) (w.extractLsb' 4 3) (w.extractLsb' 3 1) (w.extractLsb' 2 1)))
  | 2 => some (.inl (.vlds (w.extractLsb' 22 3) (w.extractLsb' 17 5) (w.extractLsb' 12 5) (w.extractLsb' 7 5) (w.extractLsb' 4 3) (w.extractLsb' 3 1) (w.extractLsb' 2 1)))
  | 3 => some (.inl (.vsts (w.extractLsb' 22 3) (w.extractLsb' 17 5) (w.extractLsb' 12 5) (w.extractLsb' 7 5) (w.extractLsb' 4 3) (w.extractLsb' 3 1) (w.extractLsb' 2 1)))
  | _ => none

/-- The instructions of major opcode 0x57, by selector. -/
def decodeMajor57 (w : BitVec 32) : Option Fetched :=
  match (w.extractLsb' 0 2).toNat with
  | 0 => some (.inl (.vgth (w.extractLsb' 22 3) (w.extractLsb' 17 5) (w.extractLsb' 12 5) (w.extractLsb' 7 5) (w.extractLsb' 4 3) (w.extractLsb' 3 1) (w.extractLsb' 2 1)))
  | 1 => some (.inl (.vsct (w.extractLsb' 22 3) (w.extractLsb' 17 5) (w.extractLsb' 12 5) (w.extractLsb' 7 5) (w.extractLsb' 4 3) (w.extractLsb' 3 1) (w.extractLsb' 2 1)))
  | 2 => some (.inl (.vbcst (w.extractLsb' 22 3) (w.extractLsb' 17 5) (w.extractLsb' 12 5) (w.extractLsb' 7 5) (w.extractLsb' 4 3) (w.extractLsb' 3 1) (w.extractLsb' 2 1)))
  | _ => none

/-- The instructions of major opcode 0x5A, by selector. -/
def decodeMajor5A (w : BitVec 32) : Option Fetched :=
  match (w.extractLsb' 10 4).toNat with
  | 0 => some (.inl (.tlda (w.extractLsb' 22 3) (w.extractLsb' 17 5) (w.extractLsb' 14 3) (w.extractLsb' 4 6) (w.extractLsb' 3 1) (w.extractLsb' 2 1) (w.extractLsb' 0 2)))
  | 1 => some (.inl (.tldb (w.extractLsb' 22 3) (w.extractLsb' 17 5) (w.extractLsb' 14 3) (w.extractLsb' 4 6) (w.extractLsb' 3 1) (w.extractLsb' 2 1) (w.extractLsb' 0 2)))
  | 2 => some (.inl (.tgtha (w.extractLsb' 22 3) (w.extractLsb' 17 5) (w.extractLsb' 14 3) (w.extractLsb' 4 6) (w.extractLsb' 3 1) (w.extractLsb' 2 1) (w.extractLsb' 0 2)))
  | 3 => some (.inl (.tmma (w.extractLsb' 22 3) (w.extractLsb' 17 5) (w.extractLsb' 14 3) (w.extractLsb' 4 6) (w.extractLsb' 3 1) (w.extractLsb' 2 1) (w.extractLsb' 0 2)))
  | 4 => some (.inl (.tspm (w.extractLsb' 22 3) (w.extractLsb' 17 5) (w.extractLsb' 14 3) (w.extractLsb' 4 6) (w.extractLsb' 3 1) (w.extractLsb' 2 1) (w.extractLsb' 0 2)))
  | 5 => some (.inl (.tzero (w.extractLsb' 22 3) (w.extractLsb' 17 5) (w.extractLsb' 14 3) (w.extractLsb' 4 6) (w.extractLsb' 3 1) (w.extractLsb' 2 1) (w.extractLsb' 0 2)))
  | 6 => some (.inl (.tldc (w.extractLsb' 22 3) (w.extractLsb' 17 5) (w.extractLsb' 14 3) (w.extractLsb' 4 6) (w.extractLsb' 3 1) (w.extractLsb' 2 1) (w.extractLsb' 0 2)))
  | 7 => some (.inl (.tstc (w.extractLsb' 22 3) (w.extractLsb' 17 5) (w.extractLsb' 14 3) (w.extractLsb' 4 6) (w.extractLsb' 3 1) (w.extractLsb' 2 1) (w.extractLsb' 0 2)))
  | _ => none

/-- The instructions of major opcode 0x5B, by selector. -/
def decodeMajor5B (w : BitVec 32) : Option Fetched :=
  match (w.extractLsb' 12 2).toNat with
  | 0 => some (.inl (.abal (w.extractLsb' 22 3) (w.extractLsb' 17 5) (w.extractLsb' 14 3) (w.extractLsb' 6 6) (w.extractLsb' 0 6)))
  | 1 => some (.inl (.abfr (w.extractLsb' 22 3) (w.extractLsb' 17 5) (w.extractLsb' 14 3) (w.extractLsb' 6 6) (w.extractLsb' 0 6)))
  | _ => none

/-- The instructions of major opcode 0x5D, by selector. -/
def decodeMajor5D (w : BitVec 32) : Option Fetched :=
  match (w.extractLsb' 0 1).toNat with
  | 0 => some (.inl (.tgeoOrg (w.extractLsb' 22 3) (w.extractLsb' 17 5) (w.extractLsb' 14 3) (w.extractLsb' 1 13)))
  | 1 => some (.inl (.tgeoMask (w.extractLsb' 22 3) (w.extractLsb' 17 5) (w.extractLsb' 14 3) (w.extractLsb' 1 13)))
  | _ => none

/-- The instructions of major opcode 0x60, by selector. -/
def decodeMajor60 (w : BitVec 32) : Option Fetched :=
  match (w.extractLsb' 0 7).toNat with
  | 0 => some (.inl (.cpy (w.extractLsb' 22 3) (w.extractLsb' 17 5) (w.extractLsb' 12 5) (w.extractLsb' 7 5)))
  | 1 => some (.inl (.cpyNb (w.extractLsb' 22 3) (w.extractLsb' 17 5) (w.extractLsb' 12 5) (w.extractLsb' 7 5)))
  | 2 => some (.inl (.cpyc (w.extractLsb' 22 3) (w.extractLsb' 17 5) (w.extractLsb' 12 5) (w.extractLsb' 7 5)))
  | 3 => some (.inl (.cpycNb (w.extractLsb' 22 3) (w.extractLsb' 17 5) (w.extractLsb' 12 5) (w.extractLsb' 7 5)))
  | 4 => some (.inl (.cpyst (w.extractLsb' 22 3) (w.extractLsb' 17 5) (w.extractLsb' 12 5) (w.extractLsb' 7 5)))
  | _ => none

/-- The instructions of major opcode 0x61, by selector. -/
def decodeMajor61 (w : BitVec 32) : Option Fetched :=
  match (w.extractLsb' 0 7).toNat with
  | 0 => some (.inl (.hwait (w.extractLsb' 22 3) (w.extractLsb' 17 5) (w.extractLsb' 12 5) (w.extractLsb' 9 3) (w.extractLsb' 7 2)))
  | 1 => some (.inl (.hacq (w.extractLsb' 22 3) (w.extractLsb' 17 5) (w.extractLsb' 12 5) (w.extractLsb' 7 5)))
  | 2 => some (.inl (.hrel (w.extractLsb' 22 3) (w.extractLsb' 17 5) (w.extractLsb' 12 5) (w.extractLsb' 7 5)))
  | 3 => some (.inl (.hstat (w.extractLsb' 22 3) (w.extractLsb' 17 5) (w.extractLsb' 12 5) (w.extractLsb' 7 5)))
  | _ => none

/-- The instructions of major opcode 0x62, by selector. -/
def decodeMajor62 (w : BitVec 32) : Option Fetched :=
  match (w.extractLsb' 0 4).toNat with
  | 0 => some (.inl (.aopAdd (w.extractLsb' 22 3) (w.extractLsb' 17 5) (w.extractLsb' 12 5) (w.extractLsb' 9 3) (w.extractLsb' 7 2) (w.extractLsb' 4 3)))
  | 1 => some (.inl (.aopAnd (w.extractLsb' 22 3) (w.extractLsb' 17 5) (w.extractLsb' 12 5) (w.extractLsb' 9 3) (w.extractLsb' 7 2) (w.extractLsb' 4 3)))
  | 2 => some (.inl (.aopOr (w.extractLsb' 22 3) (w.extractLsb' 17 5) (w.extractLsb' 12 5) (w.extractLsb' 9 3) (w.extractLsb' 7 2) (w.extractLsb' 4 3)))
  | 3 => some (.inl (.aopXor (w.extractLsb' 22 3) (w.extractLsb' 17 5) (w.extractLsb' 12 5) (w.extractLsb' 9 3) (w.extractLsb' 7 2) (w.extractLsb' 4 3)))
  | 4 => some (.inl (.aopMin (w.extractLsb' 22 3) (w.extractLsb' 17 5) (w.extractLsb' 12 5) (w.extractLsb' 9 3) (w.extractLsb' 7 2) (w.extractLsb' 4 3)))
  | 5 => some (.inl (.aopMax (w.extractLsb' 22 3) (w.extractLsb' 17 5) (w.extractLsb' 12 5) (w.extractLsb' 9 3) (w.extractLsb' 7 2) (w.extractLsb' 4 3)))
  | 6 => some (.inl (.aopMinn (w.extractLsb' 22 3) (w.extractLsb' 17 5) (w.extractLsb' 12 5) (w.extractLsb' 9 3) (w.extractLsb' 7 2) (w.extractLsb' 4 3)))
  | 7 => some (.inl (.aopMaxn (w.extractLsb' 22 3) (w.extractLsb' 17 5) (w.extractLsb' 12 5) (w.extractLsb' 9 3) (w.extractLsb' 7 2) (w.extractLsb' 4 3)))
  | 8 => some (.inl (.aopSwap (w.extractLsb' 22 3) (w.extractLsb' 17 5) (w.extractLsb' 12 5) (w.extractLsb' 9 3) (w.extractLsb' 7 2) (w.extractLsb' 4 3)))
  | 9 => some (.inl (.aopFadd (w.extractLsb' 22 3) (w.extractLsb' 17 5) (w.extractLsb' 12 5) (w.extractLsb' 9 3) (w.extractLsb' 7 2) (w.extractLsb' 4 3)))
  | 10 => some (.inl (.aopFaddBf16 (w.extractLsb' 22 3) (w.extractLsb' 17 5) (w.extractLsb' 12 5) (w.extractLsb' 9 3) (w.extractLsb' 7 2) (w.extractLsb' 4 3)))
  | _ => none

/-- The instructions of major opcode 0x63, by selector. -/
def decodeMajor63 (w : BitVec 32) : Option Fetched :=
  match (w.extractLsb' 0 7).toNat with
  | 0 => some (.inl (.ared (w.extractLsb' 22 3) (w.extractLsb' 17 5) (w.extractLsb' 12 5) (w.extractLsb' 7 5)))
  | 1 => some (.inl (.axpy (w.extractLsb' 22 3) (w.extractLsb' 17 5) (w.extractLsb' 12 5) (w.extractLsb' 7 5)))
  | 2 => some (.inl (.afill (w.extractLsb' 22 3) (w.extractLsb' 17 5) (w.extractLsb' 12 5) (w.extractLsb' 7 5)))
  | _ => none

/-- The instructions of major opcode 0x64, by selector. -/
def decodeMajor64 (w : BitVec 32) : Option Fetched :=
  match (w.extractLsb' 0 7).toNat with
  | 0 => some (.inl (.collAr (w.extractLsb' 22 3) (w.extractLsb' 17 5) (w.extractLsb' 12 5) (w.extractLsb' 7 5)))
  | 1 => some (.inl (.collAg (w.extractLsb' 22 3) (w.extractLsb' 17 5) (w.extractLsb' 12 5) (w.extractLsb' 7 5)))
  | 2 => some (.inl (.collRs (w.extractLsb' 22 3) (w.extractLsb' 17 5) (w.extractLsb' 12 5) (w.extractLsb' 7 5)))
  | _ => none

/-- The instructions of major opcode 0x65, by selector. -/
def decodeMajor65 (w : BitVec 32) : Option Fetched :=
  match (w.extractLsb' 0 7).toNat with
  | 0 => some (.inr (.egrs (w.extractLsb' 22 3) (w.extractLsb' 17 5) (w.extractLsb' 12 5) (w.extractLsb' 7 5)))
  | 1 => some (.inr (.egfin (w.extractLsb' 22 3) (w.extractLsb' 17 5) (w.extractLsb' 12 5) (w.extractLsb' 7 5)))
  | _ => none

/-- The instructions of major opcode 0x68, by selector. -/
def decodeMajor68 (w : BitVec 32) : Option Fetched :=
  match (w.extractLsb' 0 7).toNat with
  | 0 => some (.inl (.cnear (w.extractLsb' 22 3) (w.extractLsb' 17 5) (w.extractLsb' 12 5) (w.extractLsb' 7 5)))
  | 1 => some (.inl (.cnearLocal (w.extractLsb' 22 3) (w.extractLsb' 17 5) (w.extractLsb' 12 5) (w.extractLsb' 7 5)))
  | 2 => some (.inl (.cstv (w.extractLsb' 22 3) (w.extractLsb' 17 5) (w.extractLsb' 12 5) (w.extractLsb' 7 5)))
  | 3 => some (.inl (.cdel (w.extractLsb' 22 3) (w.extractLsb' 17 5) (w.extractLsb' 12 5) (w.extractLsb' 7 5)))
  | 4 => some (.inl (.cver (w.extractLsb' 22 3) (w.extractLsb' 17 5) (w.extractLsb' 12 5) (w.extractLsb' 7 5)))
  | _ => none

/-- The instructions of major opcode 0x69, by selector. -/
def decodeMajor69 (w : BitVec 32) : Option Fetched :=
  match (w.extractLsb' 0 7).toNat with
  | 0 => some (.inl (.catnew (w.extractLsb' 22 3) (w.extractLsb' 17 5) (w.extractLsb' 12 5) (w.extractLsb' 7 5)))
  | 1 => some (.inl (.catdel (w.extractLsb' 22 3) (w.extractLsb' 17 5) (w.extractLsb' 12 5) (w.extractLsb' 7 5)))
  | _ => none

/-- The instructions of major opcode 0x6A, by selector. -/
def decodeMajor6A (w : BitVec 32) : Option Fetched :=
  match (w.extractLsb' 0 7).toNat with
  | 0 => some (.inl (.rcall (w.extractLsb' 22 3) (w.extractLsb' 17 5) (w.extractLsb' 12 5) (w.extractLsb' 7 5)))
  | 1 => some (.inl (.rcallNb (w.extractLsb' 22 3) (w.extractLsb' 17 5) (w.extractLsb' 12 5) (w.extractLsb' 7 5)))
  | 2 => some (.inl (.rread (w.extractLsb' 22 3) (w.extractLsb' 17 5) (w.extractLsb' 12 5) (w.extractLsb' 7 5)))
  | 3 => some (.inl (.rreadLocal (w.extractLsb' 22 3) (w.extractLsb' 17 5) (w.extractLsb' 12 5) (w.extractLsb' 7 5)))
  | 4 => some (.inl (.rwait (w.extractLsb' 22 3) (w.extractLsb' 17 5) (w.extractLsb' 12 5) (w.extractLsb' 7 5)))
  | _ => none

/-- The instructions of major opcode 0x6B, by selector. -/
def decodeMajor6B (w : BitVec 32) : Option Fetched :=
  match (w.extractLsb' 0 7).toNat with
  | 0 => some (.inl (.objnew (w.extractLsb' 22 3) (w.extractLsb' 17 5) (w.extractLsb' 12 5) (w.extractLsb' 7 5)))
  | 1 => some (.inl (.objdel (w.extractLsb' 22 3) (w.extractLsb' 17 5) (w.extractLsb' 12 5) (w.extractLsb' 7 5)))
  | _ => none

/-- The instructions of major opcode 0x6C, by selector. -/
def decodeMajor6C (w : BitVec 32) : Option Fetched :=
  match (w.extractLsb' 0 7).toNat with
  | 0 => some (.inr (.ctxnew (w.extractLsb' 22 3) (w.extractLsb' 17 5) (w.extractLsb' 12 5) (w.extractLsb' 7 5)))
  | 1 => some (.inr (.ctxgrant (w.extractLsb' 22 3) (w.extractLsb' 17 5) (w.extractLsb' 12 5) (w.extractLsb' 7 5)))
  | 2 => some (.inr (.ctxrevoke (w.extractLsb' 22 3) (w.extractLsb' 17 5) (w.extractLsb' 12 5) (w.extractLsb' 7 5)))
  | 3 => some (.inr (.ctxstat (w.extractLsb' 22 3) (w.extractLsb' 17 5) (w.extractLsb' 12 5) (w.extractLsb' 7 5)))
  | _ => none

/-- The instructions of major opcode 0x6D, by selector. -/
def decodeMajor6D (w : BitVec 32) : Option Fetched :=
  match (w.extractLsb' 0 7).toNat with
  | 0 => some (.inr (.resume (w.extractLsb' 22 3) (w.extractLsb' 17 5) (w.extractLsb' 12 5) (w.extractLsb' 7 5)))
  | _ => none

/-- The instructions of major opcode 0x6E, by selector. -/
def decodeMajor6E (w : BitVec 32) : Option Fetched :=
  match (w.extractLsb' 0 7).toNat with
  | 0 => some (.inr (.lnch (w.extractLsb' 22 3) (w.extractLsb' 17 5) (w.extractLsb' 12 5) (w.extractLsb' 7 5)))
  | _ => none

/-- The instructions of major opcode 0x71, by selector. -/
def decodeMajor71 (w : BitVec 32) : Option Fetched :=
  match (w.extractLsb' 24 1).toNat with
  | 0 => some (.inl (.hsch (w.extractLsb' 8 16) (w.extractLsb' 0 8)))
  | 1 => some (.inl (.hschIdle (w.extractLsb' 4 20) (w.extractLsb' 0 4)))
  | _ => none

/-- Reads the major opcode (R33) and then the selector of that major (R49). -/
def rawDecode (w : BitVec 32) : Except DecodeError Fetched :=
  let pick (o : Option Fetched) : Except DecodeError Fetched :=
    match o with
    | some i => .ok i
    | none => .error (.unallocatedSelector (w.extractLsb' 25 7))
  match (w.extractLsb' 25 7).toNat with
  | 1 => pick (decodeMajor01 w)
  | 2 => pick (decodeMajor02 w)
  | 3 => .ok (.inl (.addi (w.extractLsb' 22 3) (w.extractLsb' 17 5) (w.extractLsb' 12 5) (w.extractLsb' 0 12)))
  | 4 => .ok (.inl (.andi (w.extractLsb' 22 3) (w.extractLsb' 17 5) (w.extractLsb' 12 5) (w.extractLsb' 0 12)))
  | 5 => .ok (.inl (.ori (w.extractLsb' 22 3) (w.extractLsb' 17 5) (w.extractLsb' 12 5) (w.extractLsb' 0 12)))
  | 6 => .ok (.inl (.xori (w.extractLsb' 22 3) (w.extractLsb' 17 5) (w.extractLsb' 12 5) (w.extractLsb' 0 12)))
  | 7 => .ok (.inl (.shli (w.extractLsb' 22 3) (w.extractLsb' 17 5) (w.extractLsb' 12 5) (w.extractLsb' 0 12)))
  | 8 => .ok (.inl (.shri (w.extractLsb' 22 3) (w.extractLsb' 17 5) (w.extractLsb' 12 5) (w.extractLsb' 0 12)))
  | 9 => .ok (.inl (.sari (w.extractLsb' 22 3) (w.extractLsb' 17 5) (w.extractLsb' 12 5) (w.extractLsb' 0 12)))
  | 10 => pick (decodeMajor0A w)
  | 16 => .ok (.inl (.br (w.extractLsb' 22 3) (w.extractLsb' 19 3) (w.extractLsb' 18 1) (w.extractLsb' 0 18)))
  | 17 => .ok (.inl (.jmp (w.extractLsb' 22 3) (w.extractLsb' 0 22)))
  | 18 => .ok (.inl (.call (w.extractLsb' 22 3) (w.extractLsb' 0 22)))
  | 19 => pick (decodeMajor13 w)
  | 24 => pick (decodeMajor18 w)
  | 25 => .ok (.inl (.csrr (w.extractLsb' 22 3) (w.extractLsb' 17 5) (w.extractLsb' 12 5) (w.extractLsb' 0 12)))
  | 26 => .ok (.inl (.csrw (w.extractLsb' 22 3) (w.extractLsb' 17 5) (w.extractLsb' 12 5) (w.extractLsb' 0 12)))
  | 27 => .ok (.inl (.csrset (w.extractLsb' 22 3) (w.extractLsb' 17 5) (w.extractLsb' 12 5) (w.extractLsb' 0 12)))
  | 28 => .ok (.inl (.csrclr (w.extractLsb' 22 3) (w.extractLsb' 17 5) (w.extractLsb' 12 5) (w.extractLsb' 0 12)))
  | 29 => .ok (.inl (.sys (w.extractLsb' 22 3) (w.extractLsb' 17 5) (w.extractLsb' 12 5) (w.extractLsb' 0 12)))
  | 30 => .ok (.inl (.trap (w.extractLsb' 22 3) (w.extractLsb' 17 5) (w.extractLsb' 12 5) (w.extractLsb' 0 12)))
  | 32 => .ok (.inl (.ld (w.extractLsb' 22 3) (w.extractLsb' 17 5) (w.extractLsb' 12 5) (w.extractLsb' 10 2) (w.extractLsb' 0 10)))
  | 33 => .ok (.inl (.st (w.extractLsb' 22 3) (w.extractLsb' 17 5) (w.extractLsb' 12 5) (w.extractLsb' 10 2) (w.extractLsb' 0 10)))
  | 34 => .ok (.inl (.ldo (w.extractLsb' 22 3) (w.extractLsb' 17 5) (w.extractLsb' 12 5) (w.extractLsb' 9 3) (w.extractLsb' 7 2) (w.extractLsb' 4 3) (w.extractLsb' 0 4)))
  | 35 => .ok (.inl (.sto (w.extractLsb' 22 3) (w.extractLsb' 17 5) (w.extractLsb' 12 5) (w.extractLsb' 9 3) (w.extractLsb' 7 2) (w.extractLsb' 4 3) (w.extractLsb' 0 4)))
  | 36 => .ok (.inl (.pft (w.extractLsb' 22 3) (w.extractLsb' 17 5) (w.extractLsb' 12 5) (w.extractLsb' 10 2) (w.extractLsb' 0 10)))
  | 37 => .ok (.inl (.enter (w.extractLsb' 22 3) (w.extractLsb' 17 5) (w.extractLsb' 12 5) (w.extractLsb' 0 12)))
  | 38 => .ok (.inl (.leave (w.extractLsb' 22 3) (w.extractLsb' 17 5) (w.extractLsb' 12 5) (w.extractLsb' 0 12)))
  | 39 => pick (decodeMajor27 w)
  | 40 => pick (decodeMajor28 w)
  | 41 => .ok (.inl (.ldS (w.extractLsb' 22 3) (w.extractLsb' 17 5) (w.extractLsb' 12 5) (w.extractLsb' 10 2) (w.extractLsb' 0 10)))
  | 48 => pick (decodeMajor30 w)
  | 49 => pick (decodeMajor31 w)
  | 50 => pick (decodeMajor32 w)
  | 51 => pick (decodeMajor33 w)
  | 52 => pick (decodeMajor34 w)
  | 53 => pick (decodeMajor35 w)
  | 54 => pick (decodeMajor36 w)
  | 55 => pick (decodeMajor37 w)
  | 56 => pick (decodeMajor38 w)
  | 57 => pick (decodeMajor39 w)
  | 58 => pick (decodeMajor3A w)
  | 59 => pick (decodeMajor3B w)
  | 64 => .ok (.inl (.vadd (w.extractLsb' 22 3) (w.extractLsb' 17 5) (w.extractLsb' 12 5) (w.extractLsb' 7 5) (w.extractLsb' 4 3) (w.extractLsb' 3 1) (w.extractLsb' 2 1) (w.extractLsb' 0 2)))
  | 65 => .ok (.inl (.vsub (w.extractLsb' 22 3) (w.extractLsb' 17 5) (w.extractLsb' 12 5) (w.extractLsb' 7 5) (w.extractLsb' 4 3) (w.extractLsb' 3 1) (w.extractLsb' 2 1) (w.extractLsb' 0 2)))
  | 66 => .ok (.inl (.vmul (w.extractLsb' 22 3) (w.extractLsb' 17 5) (w.extractLsb' 12 5) (w.extractLsb' 7 5) (w.extractLsb' 4 3) (w.extractLsb' 3 1) (w.extractLsb' 2 1) (w.extractLsb' 0 2)))
  | 67 => .ok (.inl (.vfma (w.extractLsb' 22 3) (w.extractLsb' 17 5) (w.extractLsb' 12 5) (w.extractLsb' 7 5) (w.extractLsb' 4 3) (w.extractLsb' 3 1) (w.extractLsb' 2 1) (w.extractLsb' 0 2)))
  | 68 => .ok (.inl (.vfmab (w.extractLsb' 22 3) (w.extractLsb' 17 5) (w.extractLsb' 12 5) (w.extractLsb' 7 5) (w.extractLsb' 4 3) (w.extractLsb' 3 1) (w.extractLsb' 2 1) (w.extractLsb' 0 2)))
  | 69 => .ok (.inl (.vmin (w.extractLsb' 22 3) (w.extractLsb' 17 5) (w.extractLsb' 12 5) (w.extractLsb' 7 5) (w.extractLsb' 4 3) (w.extractLsb' 3 1) (w.extractLsb' 2 1) (w.extractLsb' 0 2)))
  | 70 => .ok (.inl (.vmax (w.extractLsb' 22 3) (w.extractLsb' 17 5) (w.extractLsb' 12 5) (w.extractLsb' 7 5) (w.extractLsb' 4 3) (w.extractLsb' 3 1) (w.extractLsb' 2 1) (w.extractLsb' 0 2)))
  | 71 => .ok (.inl (.vand (w.extractLsb' 22 3) (w.extractLsb' 17 5) (w.extractLsb' 12 5) (w.extractLsb' 7 5) (w.extractLsb' 4 3) (w.extractLsb' 3 1) (w.extractLsb' 2 1) (w.extractLsb' 0 2)))
  | 72 => .ok (.inl (.vor (w.extractLsb' 22 3) (w.extractLsb' 17 5) (w.extractLsb' 12 5) (w.extractLsb' 7 5) (w.extractLsb' 4 3) (w.extractLsb' 3 1) (w.extractLsb' 2 1) (w.extractLsb' 0 2)))
  | 73 => .ok (.inl (.vxor (w.extractLsb' 22 3) (w.extractLsb' 17 5) (w.extractLsb' 12 5) (w.extractLsb' 7 5) (w.extractLsb' 4 3) (w.extractLsb' 3 1) (w.extractLsb' 2 1) (w.extractLsb' 0 2)))
  | 74 => .ok (.inl (.vshl (w.extractLsb' 22 3) (w.extractLsb' 17 5) (w.extractLsb' 12 5) (w.extractLsb' 7 5) (w.extractLsb' 4 3) (w.extractLsb' 3 1) (w.extractLsb' 2 1) (w.extractLsb' 0 2)))
  | 75 => .ok (.inl (.vshr (w.extractLsb' 22 3) (w.extractLsb' 17 5) (w.extractLsb' 12 5) (w.extractLsb' 7 5) (w.extractLsb' 4 3) (w.extractLsb' 3 1) (w.extractLsb' 2 1) (w.extractLsb' 0 2)))
  | 76 => pick (decodeMajor4C w)
  | 77 => .ok (.inl (.vsel (w.extractLsb' 22 3) (w.extractLsb' 17 5) (w.extractLsb' 12 5) (w.extractLsb' 7 5) (w.extractLsb' 4 3) (w.extractLsb' 3 1) (w.extractLsb' 2 1) (w.extractLsb' 0 2)))
  | 78 => pick (decodeMajor4E w)
  | 79 => pick (decodeMajor4F w)
  | 80 => pick (decodeMajor50 w)
  | 81 => pick (decodeMajor51 w)
  | 82 => .ok (.inl (.vperm (w.extractLsb' 22 3) (w.extractLsb' 17 5) (w.extractLsb' 12 5) (w.extractLsb' 7 5) (w.extractLsb' 4 3) (w.extractLsb' 3 1) (w.extractLsb' 2 1) (w.extractLsb' 0 2)))
  | 83 => .ok (.inl (.vrot (w.extractLsb' 22 3) (w.extractLsb' 17 5) (w.extractLsb' 12 5) (w.extractLsb' 11 1) (w.extractLsb' 7 4) (w.extractLsb' 4 3) (w.extractLsb' 3 1) (w.extractLsb' 2 1) (w.extractLsb' 0 2)))
  | 84 => pick (decodeMajor54 w)
  | 85 => pick (decodeMajor55 w)
  | 86 => pick (decodeMajor56 w)
  | 87 => pick (decodeMajor57 w)
  | 88 => .ok (.inl (.qpush (w.extractLsb' 22 3) (w.extractLsb' 17 5) (w.extractLsb' 14 3) (w.extractLsb' 0 14)))
  | 89 => .ok (.inl (.qpop (w.extractLsb' 22 3) (w.extractLsb' 17 5) (w.extractLsb' 14 3) (w.extractLsb' 0 14)))
  | 90 => pick (decodeMajor5A w)
  | 91 => pick (decodeMajor5B w)
  | 92 => .ok (.inl (.lset (w.extractLsb' 22 3) (w.extractLsb' 17 5) (w.extractLsb' 14 3) (w.extractLsb' 0 14)))
  | 93 => pick (decodeMajor5D w)
  | 94 => .ok (.inl (.ttask (w.extractLsb' 22 3) (w.extractLsb' 17 5) (w.extractLsb' 14 3) (w.extractLsb' 0 14)))
  | 95 => .ok (.inl (.tgrp (w.extractLsb' 22 3) (w.extractLsb' 17 5) (w.extractLsb' 14 3) (w.extractLsb' 0 14)))
  | 96 => pick (decodeMajor60 w)
  | 97 => pick (decodeMajor61 w)
  | 98 => pick (decodeMajor62 w)
  | 99 => pick (decodeMajor63 w)
  | 100 => pick (decodeMajor64 w)
  | 101 => pick (decodeMajor65 w)
  | 104 => pick (decodeMajor68 w)
  | 105 => pick (decodeMajor69 w)
  | 106 => pick (decodeMajor6A w)
  | 107 => pick (decodeMajor6B w)
  | 108 => pick (decodeMajor6C w)
  | 109 => pick (decodeMajor6D w)
  | 110 => pick (decodeMajor6E w)
  | 112 => .ok (.inl (.himm (w.extractLsb' 0 25)))
  | 113 => pick (decodeMajor71 w)
  | 114 => .ok (.inl (.hmod (w.extractLsb' 22 3) (w.extractLsb' 19 3) (w.extractLsb' 17 2) (w.extractLsb' 15 2) (w.extractLsb' 12 3) (w.extractLsb' 8 4) (w.extractLsb' 0 8)))
  | 115 => .ok (.inr (.hnop (w.extractLsb' 0 25)))
  | 116 => .ok (.inr (.reservedHint (w.extractLsb' 25 7) (w.extractLsb' 0 25)))
  | 117 => .ok (.inr (.reservedHint (w.extractLsb' 25 7) (w.extractLsb' 0 25)))
  | 118 => .ok (.inr (.reservedHint (w.extractLsb' 25 7) (w.extractLsb' 0 25)))
  | 119 => .ok (.inr (.reservedHint (w.extractLsb' 25 7) (w.extractLsb' 0 25)))
  | 120 => .ok (.inr (.reservedHint (w.extractLsb' 25 7) (w.extractLsb' 0 25)))
  | 121 => .ok (.inr (.reservedHint (w.extractLsb' 25 7) (w.extractLsb' 0 25)))
  | 122 => .ok (.inr (.reservedHint (w.extractLsb' 25 7) (w.extractLsb' 0 25)))
  | 123 => .ok (.inr (.reservedHint (w.extractLsb' 25 7) (w.extractLsb' 0 25)))
  | 124 => .ok (.inr (.reservedHint (w.extractLsb' 25 7) (w.extractLsb' 0 25)))
  | 125 => .ok (.inr (.reservedHint (w.extractLsb' 25 7) (w.extractLsb' 0 25)))
  | 126 => .ok (.inr (.reservedHint (w.extractLsb' 25 7) (w.extractLsb' 0 25)))
  | _ => .error (.unallocatedMajor (w.extractLsb' 25 7))

/-- The decoder in the form that compiled code can run: what a word encodes, or the name of what R50 finds unallocated. -/
def decodeFetched (w : BitVec 32) : Except DecodeError Fetched :=
  match rawDecode w with
  | .ok i => if i.wellFormed then .ok i else .error (.unallocatedField w)
  | .error e => .error e

/-- The decoder: the instruction that a word encodes, or the name of what R50 finds unallocated in it. -/
noncomputable def decodeWord (w : BitVec 32) : Except DecodeError Instr :=
  match decodeFetched w with
  | .ok i => .ok i.toInstr
  | .error e => .error e

/-- The word at the head of a little-endian byte list (R5, R33). -/
def wordOfBytes : List (BitVec 8) → Option (BitVec 32 × List (BitVec 8))
  | b0 :: b1 :: b2 :: b3 :: rest => some (b3 ++ b2 ++ b1 ++ b0, rest)
  | _ => none

/-- The four bytes of a word, the lowest address first (R5, R33). -/
def bytesOfWord (w : BitVec 32) : List (BitVec 8) :=
  [w.extractLsb' 0 8, w.extractLsb' 8 8, w.extractLsb' 16 8, w.extractLsb' 24 8]

/-- Decoding from bytes: total on any byte list; `none` when fewer than four bytes are left. -/
noncomputable def decodeBytes (bs : List (BitVec 8)) : Option (Except DecodeError Instr × List (BitVec 8)) :=
  match wordOfBytes bs with
  | some (w, rest) => some (decodeWord w, rest)
  | none => none

/-- The instruction the decoder reads from a word numbered as spec/opcode_table.json numbers it. -/
noncomputable def decodeTableWord (_nbits w : Nat) : Option Instr :=
  match decodeBytes (bytesOfWord (BitVec.ofNat 32 w)) with
  | some (.ok i, _) => some i
  | _ => none

/-- The word of an instruction, field by field from R34 and Tables 3.5 to 3.7; a step without an encoding has none. -/
def encode : Instr → Option (BitVec 32)
  | .add s d a b => some (1#7 ++ s ++ d ++ a ++ b ++ 0#7)
  | .sub s d a b => some (1#7 ++ s ++ d ++ a ++ b ++ 1#7)
  | .and s d a b => some (1#7 ++ s ++ d ++ a ++ b ++ 2#7)
  | .or s d a b => some (1#7 ++ s ++ d ++ a ++ b ++ 3#7)
  | .xor s d a b => some (1#7 ++ s ++ d ++ a ++ b ++ 4#7)
  | .shl s d a b => some (1#7 ++ s ++ d ++ a ++ b ++ 5#7)
  | .shr s d a b => some (1#7 ++ s ++ d ++ a ++ b ++ 6#7)
  | .sar s d a b => some (1#7 ++ s ++ d ++ a ++ b ++ 7#7)
  | .min s d a b => some (1#7 ++ s ++ d ++ a ++ b ++ 8#7)
  | .minN s d a b => some (1#7 ++ s ++ d ++ a ++ b ++ 9#7)
  | .max s d a b => some (1#7 ++ s ++ d ++ a ++ b ++ 10#7)
  | .maxN s d a b => some (1#7 ++ s ++ d ++ a ++ b ++ 11#7)
  | .leaB s d a b => some (1#7 ++ s ++ d ++ a ++ b ++ 12#7)
  | .leaH s d a b => some (1#7 ++ s ++ d ++ a ++ b ++ 13#7)
  | .leaW s d a b => some (1#7 ++ s ++ d ++ a ++ b ++ 14#7)
  | .leaD s d a b => some (1#7 ++ s ++ d ++ a ++ b ++ 15#7)
  | .popc s d a b => some (1#7 ++ s ++ d ++ a ++ b ++ 16#7)
  | .clz s d a b => some (1#7 ++ s ++ d ++ a ++ b ++ 17#7)
  | .ctz s d a b => some (1#7 ++ s ++ d ++ a ++ b ++ 18#7)
  | .brev s d a b => some (1#7 ++ s ++ d ++ a ++ b ++ 19#7)
  | .bext s d a b => some (1#7 ++ s ++ d ++ a ++ b ++ 20#7)
  | .bins s d a b => some (1#7 ++ s ++ d ++ a ++ b ++ 21#7)
  | .sel s d a b => some (1#7 ++ s ++ d ++ a ++ b ++ 22#7)
  | .cmpEq s x k a b => some (1#7 ++ s ++ x ++ k ++ a ++ b ++ 24#7)
  | .cmpNe s x k a b => some (1#7 ++ s ++ x ++ k ++ a ++ b ++ 25#7)
  | .cmpLt s x k a b => some (1#7 ++ s ++ x ++ k ++ a ++ b ++ 26#7)
  | .cmpLe s x k a b => some (1#7 ++ s ++ x ++ k ++ a ++ b ++ 27#7)
  | .cmpLtn s x k a b => some (1#7 ++ s ++ x ++ k ++ a ++ b ++ 28#7)
  | .cmpLen s x k a b => some (1#7 ++ s ++ x ++ k ++ a ++ b ++ 29#7)
  | .mul s d a b => some (2#7 ++ s ++ d ++ a ++ b ++ 0#7)
  | .mulh s d a b => some (2#7 ++ s ++ d ++ a ++ b ++ 1#7)
  | .mulhN s d a b => some (2#7 ++ s ++ d ++ a ++ b ++ 2#7)
  | .div s d a b => some (2#7 ++ s ++ d ++ a ++ b ++ 4#7)
  | .divN s d a b => some (2#7 ++ s ++ d ++ a ++ b ++ 5#7)
  | .rem s d a b => some (2#7 ++ s ++ d ++ a ++ b ++ 6#7)
  | .remN s d a b => some (2#7 ++ s ++ d ++ a ++ b ++ 7#7)
  | .addi s d a i => some (3#7 ++ s ++ d ++ a ++ i)
  | .andi s d a i => some (4#7 ++ s ++ d ++ a ++ i)
  | .ori s d a i => some (5#7 ++ s ++ d ++ a ++ i)
  | .xori s d a i => some (6#7 ++ s ++ d ++ a ++ i)
  | .shli s d a i => some (7#7 ++ s ++ d ++ a ++ i)
  | .shri s d a i => some (8#7 ++ s ++ d ++ a ++ i)
  | .sari s d a i => some (9#7 ++ s ++ d ++ a ++ i)
  | .cmpiEq s k a i => some (10#7 ++ s ++ 0#2 ++ k ++ a ++ i)
  | .cmpiNe s k a i => some (10#7 ++ s ++ 1#2 ++ k ++ a ++ i)
  | .cmpiLt s k a i => some (10#7 ++ s ++ 2#2 ++ k ++ a ++ i)
  | .cmpiLtn s k a i => some (10#7 ++ s ++ 3#2 ++ k ++ a ++ i)
  | .br s k n o => some (16#7 ++ s ++ k ++ n ++ o)
  | .jmp s o => some (17#7 ++ s ++ o)
  | .call s o => some (18#7 ++ s ++ o)
  | .jmpr s d a b => some (19#7 ++ s ++ d ++ a ++ b ++ 0#7)
  | .callr s d a b => some (19#7 ++ s ++ d ++ a ++ b ++ 1#7)
  | .eret s d a b => some (24#7 ++ s ++ d ++ a ++ b ++ 0#7)
  | .idle s d a b => some (24#7 ++ s ++ d ++ a ++ b ++ 1#7)
  | .brk s e => some (24#7 ++ s ++ e ++ 2#7)
  | .mark s d a b => some (24#7 ++ s ++ d ++ a ++ b ++ 3#7)
  | .csrr s d a i => some (25#7 ++ s ++ d ++ a ++ i)
  | .csrw s d a i => some (26#7 ++ s ++ d ++ a ++ i)
  | .csrset s d a i => some (27#7 ++ s ++ d ++ a ++ i)
  | .csrclr s d a i => some (28#7 ++ s ++ d ++ a ++ i)
  | .sys s d a i => some (29#7 ++ s ++ d ++ a ++ i)
  | .trap s d a i => some (30#7 ++ s ++ d ++ a ++ i)
  | .ld s t a z o => some (32#7 ++ s ++ t ++ a ++ z ++ o)
  | .st s t a z o => some (33#7 ++ s ++ t ++ a ++ z ++ o)
  | .ldS s t a z o => some (41#7 ++ s ++ t ++ a ++ z ++ o)
  | .pft s t a z o => some (36#7 ++ s ++ t ++ a ++ z ++ o)
  | .ldo s t a z r c u => some (34#7 ++ s ++ t ++ a ++ z ++ r ++ c ++ u)
  | .sto s t a z r c u => some (35#7 ++ s ++ t ++ a ++ z ++ r ++ c ++ u)
  | .enter s d a i => some (37#7 ++ s ++ d ++ a ++ i)
  | .leave s d a i => some (38#7 ++ s ++ d ++ a ++ i)
  | .amoAdd s t a z r c => some (39#7 ++ s ++ t ++ a ++ z ++ r ++ c ++ 0#4)
  | .amoAnd s t a z r c => some (39#7 ++ s ++ t ++ a ++ z ++ r ++ c ++ 1#4)
  | .amoOr s t a z r c => some (39#7 ++ s ++ t ++ a ++ z ++ r ++ c ++ 2#4)
  | .amoXor s t a z r c => some (39#7 ++ s ++ t ++ a ++ z ++ r ++ c ++ 3#4)
  | .amoMin s t a z r c => some (39#7 ++ s ++ t ++ a ++ z ++ r ++ c ++ 4#4)
  | .amoMax s t a z r c => some (39#7 ++ s ++ t ++ a ++ z ++ r ++ c ++ 5#4)
  | .amoMinn s t a z r c => some (39#7 ++ s ++ t ++ a ++ z ++ r ++ c ++ 6#4)
  | .amoMaxn s t a z r c => some (39#7 ++ s ++ t ++ a ++ z ++ r ++ c ++ 7#4)
  | .amoSwap s t a z r c => some (39#7 ++ s ++ t ++ a ++ z ++ r ++ c ++ 8#4)
  | .amoFadd s t a z r c => some (39#7 ++ s ++ t ++ a ++ z ++ r ++ c ++ 9#4)
  | .cas s t a z r c => some (40#7 ++ s ++ t ++ a ++ z ++ r ++ c ++ 0#4)
  | .fenceLdld s t a r c => some (48#7 ++ s ++ t ++ a ++ 0#3 ++ r ++ c ++ 0#4)
  | .fenceLdst s t a r c => some (48#7 ++ s ++ t ++ a ++ 1#3 ++ r ++ c ++ 0#4)
  | .fenceStld s t a r c => some (48#7 ++ s ++ t ++ a ++ 2#3 ++ r ++ c ++ 0#4)
  | .fenceStst s t a r c => some (48#7 ++ s ++ t ++ a ++ 3#3 ++ r ++ c ++ 0#4)
  | .fenceAll s t a r c => some (48#7 ++ s ++ t ++ a ++ 4#3 ++ r ++ c ++ 0#4)
  | .bari s d a b => some (49#7 ++ s ++ d ++ a ++ b ++ 0#7)
  | .bara s d a b => some (49#7 ++ s ++ d ++ a ++ b ++ 1#7)
  | .barw s d a b => some (49#7 ++ s ++ d ++ a ++ b ++ 2#7)
  | .waita s t a z r c => some (50#7 ++ s ++ t ++ a ++ z ++ r ++ c ++ 0#4)
  | .sigdec s d a b => some (51#7 ++ s ++ d ++ a ++ b ++ 0#7)
  | .sigwait s d a b => some (51#7 ++ s ++ d ++ a ++ b ++ 1#7)
  | .msend s d a b => some (52#7 ++ s ++ d ++ a ++ b ++ 0#7)
  | .mrecv s d a b => some (52#7 ++ s ++ d ++ a ++ b ++ 1#7)
  | .mpoll s d a b => some (52#7 ++ s ++ d ++ a ++ b ++ 2#7)
  | .pjack s d a b => some (52#7 ++ s ++ d ++ a ++ b ++ 3#7)
  | .psto s t a z r c => some (53#7 ++ s ++ t ++ a ++ z ++ r ++ c ++ 0#4)
  | .spawn s d a b => some (54#7 ++ s ++ d ++ a ++ b ++ 0#7)
  | .reap s d a b => some (54#7 ++ s ++ d ++ a ++ b ++ 1#7)
  | .yield s d a b => some (54#7 ++ s ++ d ++ a ++ b ++ 2#7)
  | .ypt s d a b => some (54#7 ++ s ++ d ++ a ++ b ++ 3#7)
  | .fork s d a b => some (55#7 ++ s ++ d ++ a ++ b ++ 0#7)
  | .join s d a b => some (55#7 ++ s ++ d ++ a ++ b ++ 1#7)
  | .tend s d a b => some (55#7 ++ s ++ d ++ a ++ b ++ 2#7)
  | .tspawn s d a b => some (55#7 ++ s ++ d ++ a ++ b ++ 3#7)
  | .tstamp s d a b => some (55#7 ++ s ++ d ++ a ++ b ++ 4#7)
  | .migr s d a b => some (56#7 ++ s ++ d ++ a ++ b ++ 0#7)
  | .homec s d a b => some (56#7 ++ s ++ d ++ a ++ b ++ 1#7)
  | .mbput s d a b => some (57#7 ++ s ++ d ++ a ++ b ++ 0#7)
  | .mbputRel s d a b => some (57#7 ++ s ++ d ++ a ++ b ++ 1#7)
  | .mbget s d a b => some (57#7 ++ s ++ d ++ a ++ b ++ 2#7)
  | .wkdone s d a b => some (58#7 ++ s ++ d ++ a ++ b ++ 0#7)
  | .scld s d a b => some (59#7 ++ s ++ d ++ a ++ b ++ 0#7)
  | .vadd s d a b k h j u => some (64#7 ++ s ++ d ++ a ++ b ++ k ++ h ++ j ++ u)
  | .vsub s d a b k h j u => some (65#7 ++ s ++ d ++ a ++ b ++ k ++ h ++ j ++ u)
  | .vmul s d a b k h j u => some (66#7 ++ s ++ d ++ a ++ b ++ k ++ h ++ j ++ u)
  | .vfma s d a b k h j u => some (67#7 ++ s ++ d ++ a ++ b ++ k ++ h ++ j ++ u)
  | .vfmab s d a b l h j u => some (68#7 ++ s ++ d ++ a ++ b ++ l ++ h ++ j ++ u)
  | .vmin s d a b k h j u => some (69#7 ++ s ++ d ++ a ++ b ++ k ++ h ++ j ++ u)
  | .vmax s d a b k h j u => some (70#7 ++ s ++ d ++ a ++ b ++ k ++ h ++ j ++ u)
  | .vand s d a b k h j u => some (71#7 ++ s ++ d ++ a ++ b ++ k ++ h ++ j ++ u)
  | .vor s d a b k h j u => some (72#7 ++ s ++ d ++ a ++ b ++ k ++ h ++ j ++ u)
  | .vxor s d a b k h j u => some (73#7 ++ s ++ d ++ a ++ b ++ k ++ h ++ j ++ u)
  | .vshl s d a b k h j u => some (74#7 ++ s ++ d ++ a ++ b ++ k ++ h ++ j ++ u)
  | .vshr s d a b k h j u => some (75#7 ++ s ++ d ++ a ++ b ++ k ++ h ++ j ++ u)
  | .vcmpEq s k a b p h j u => some (76#7 ++ s ++ 0#2 ++ k ++ a ++ b ++ p ++ h ++ j ++ u)
  | .vcmpNe s k a b p h j u => some (76#7 ++ s ++ 1#2 ++ k ++ a ++ b ++ p ++ h ++ j ++ u)
  | .vcmpLt s k a b p h j u => some (76#7 ++ s ++ 2#2 ++ k ++ a ++ b ++ p ++ h ++ j ++ u)
  | .vcmpLe s k a b p h j u => some (76#7 ++ s ++ 3#2 ++ k ++ a ++ b ++ p ++ h ++ j ++ u)
  | .vsel s d a b k h j u => some (77#7 ++ s ++ d ++ a ++ b ++ k ++ h ++ j ++ u)
  | .vabs s d a k h j u => some (78#7 ++ s ++ d ++ a ++ 0#5 ++ k ++ h ++ j ++ u)
  | .vneg s d a k h j u => some (78#7 ++ s ++ d ++ a ++ 1#5 ++ k ++ h ++ j ++ u)
  | .vrcp s d a k h j u => some (78#7 ++ s ++ d ++ a ++ 2#5 ++ k ++ h ++ j ++ u)
  | .vrsq s d a k h j u => some (78#7 ++ s ++ d ++ a ++ 3#5 ++ k ++ h ++ j ++ u)
  | .vexp2 s d a k h j u => some (78#7 ++ s ++ d ++ a ++ 4#5 ++ k ++ h ++ j ++ u)
  | .vlog2 s d a k h j u => some (78#7 ++ s ++ d ++ a ++ 5#5 ++ k ++ h ++ j ++ u)
  | .vcvtF2s s d a k h j u => some (79#7 ++ s ++ d ++ a ++ 0#5 ++ k ++ h ++ j ++ u)
  | .vcvtF2n s d a k h j u => some (79#7 ++ s ++ d ++ a ++ 1#5 ++ k ++ h ++ j ++ u)
  | .vcvtS2f s d a k h j u => some (79#7 ++ s ++ d ++ a ++ 2#5 ++ k ++ h ++ j ++ u)
  | .vcvtN2f s d a k h j u => some (79#7 ++ s ++ d ++ a ++ 3#5 ++ k ++ h ++ j ++ u)
  | .vcvtF2b s d a w k h j u => some (79#7 ++ s ++ d ++ a ++ 2#4 ++ w ++ k ++ h ++ j ++ u)
  | .vcvtF2h s d a w k h j u => some (79#7 ++ s ++ d ++ a ++ 3#4 ++ w ++ k ++ h ++ j ++ u)
  | .vcvtB2f s d a w k h j u => some (79#7 ++ s ++ d ++ a ++ 4#4 ++ w ++ k ++ h ++ j ++ u)
  | .vcvtH2f s d a w k h j u => some (79#7 ++ s ++ d ++ a ++ 5#4 ++ w ++ k ++ h ++ j ++ u)
  | .vcvtF2e4 s d a y k h j u => some (79#7 ++ s ++ d ++ a ++ 3#3 ++ y ++ k ++ h ++ j ++ u)
  | .vcvtF2e5 s d a y k h j u => some (79#7 ++ s ++ d ++ a ++ 4#3 ++ y ++ k ++ h ++ j ++ u)
  | .vcvtE4f s d a y k h j u => some (79#7 ++ s ++ d ++ a ++ 5#3 ++ y ++ k ++ h ++ j ++ u)
  | .vcvtE5f s d a y k h j u => some (79#7 ++ s ++ d ++ a ++ 6#3 ++ y ++ k ++ h ++ j ++ u)
  | .vredSum s d a x k h j u => some (80#7 ++ s ++ d ++ a ++ 0#1 ++ x ++ 0#3 ++ k ++ h ++ j ++ u)
  | .vredMin s d a x k h j u => some (80#7 ++ s ++ d ++ a ++ 0#1 ++ x ++ 1#3 ++ k ++ h ++ j ++ u)
  | .vredMax s d a x k h j u => some (80#7 ++ s ++ d ++ a ++ 0#1 ++ x ++ 2#3 ++ k ++ h ++ j ++ u)
  | .vredAnd s d a x k h j u => some (80#7 ++ s ++ d ++ a ++ 0#1 ++ x ++ 3#3 ++ k ++ h ++ j ++ u)
  | .vredOr s d a x k h j u => some (80#7 ++ s ++ d ++ a ++ 0#1 ++ x ++ 4#3 ++ k ++ h ++ j ++ u)
  | .vredXor s d a x k h j u => some (80#7 ++ s ++ d ++ a ++ 0#1 ++ x ++ 5#3 ++ k ++ h ++ j ++ u)
  | .vscanSum s d a x k h j u => some (80#7 ++ s ++ d ++ a ++ 1#1 ++ x ++ 0#3 ++ k ++ h ++ j ++ u)
  | .vscanMin s d a x k h j u => some (80#7 ++ s ++ d ++ a ++ 1#1 ++ x ++ 1#3 ++ k ++ h ++ j ++ u)
  | .vscanMax s d a x k h j u => some (80#7 ++ s ++ d ++ a ++ 1#1 ++ x ++ 2#3 ++ k ++ h ++ j ++ u)
  | .vscanAnd s d a x k h j u => some (80#7 ++ s ++ d ++ a ++ 1#1 ++ x ++ 3#3 ++ k ++ h ++ j ++ u)
  | .vscanOr s d a x k h j u => some (80#7 ++ s ++ d ++ a ++ 1#1 ++ x ++ 4#3 ++ k ++ h ++ j ++ u)
  | .vscanXor s d a x k h j u => some (80#7 ++ s ++ d ++ a ++ 1#1 ++ x ++ 5#3 ++ k ++ h ++ j ++ u)
  | .kand s d a b => some (81#7 ++ s ++ d ++ a ++ b ++ 0#7)
  | .kor s d a b => some (81#7 ++ s ++ d ++ a ++ b ++ 1#7)
  | .kxor s d a b => some (81#7 ++ s ++ d ++ a ++ b ++ 2#7)
  | .knot s d a b => some (81#7 ++ s ++ d ++ a ++ b ++ 3#7)
  | .kmovK s d a x => some (81#7 ++ s ++ d ++ a ++ x ++ 4#9)
  | .kmovFromG s d a x => some (81#7 ++ s ++ d ++ a ++ x ++ 132#9)
  | .kmovToG s d a x => some (81#7 ++ s ++ d ++ a ++ x ++ 260#9)
  | .kpack s d a b => some (81#7 ++ s ++ d ++ a ++ b ++ 5#7)
  | .kunpk s d a b => some (81#7 ++ s ++ d ++ a ++ b ++ 6#7)
  | .kpopc s d a b => some (81#7 ++ s ++ d ++ a ++ b ++ 7#7)
  | .vperm s d a b k h j u => some (82#7 ++ s ++ d ++ a ++ b ++ k ++ h ++ j ++ u)
  | .vrot s d a x n k h j u => some (83#7 ++ s ++ d ++ a ++ x ++ n ++ k ++ h ++ j ++ u)
  | .vqnt s d a b k h j => some (84#7 ++ s ++ d ++ a ++ b ++ k ++ h ++ j ++ 0#2)
  | .vdq s d a b k h j => some (84#7 ++ s ++ d ++ a ++ b ++ k ++ h ++ j ++ 1#2)
  | .vlane s d a x l k h j => some (85#7 ++ s ++ d ++ a ++ x ++ l ++ k ++ h ++ j ++ 0#2)
  | .vins s d a x l k h j => some (85#7 ++ s ++ d ++ a ++ x ++ l ++ k ++ h ++ j ++ 1#2)
  | .vld s d a b k h j => some (86#7 ++ s ++ d ++ a ++ b ++ k ++ h ++ j ++ 0#2)
  | .vst s d a b k h j => some (86#7 ++ s ++ d ++ a ++ b ++ k ++ h ++ j ++ 1#2)
  | .vlds s d a b k h j => some (86#7 ++ s ++ d ++ a ++ b ++ k ++ h ++ j ++ 2#2)
  | .vsts s d a b k h j => some (86#7 ++ s ++ d ++ a ++ b ++ k ++ h ++ j ++ 3#2)
  | .vgth s d a b k h j => some (87#7 ++ s ++ d ++ a ++ b ++ k ++ h ++ j ++ 0#2)
  | .vsct s d a b k h j => some (87#7 ++ s ++ d ++ a ++ b ++ k ++ h ++ j ++ 1#2)
  | .vbcst s d a b k h j => some (87#7 ++ s ++ d ++ a ++ b ++ k ++ h ++ j ++ 2#2)
  | .qpush s d q e => some (88#7 ++ s ++ d ++ q ++ e)
  | .qpop s d q e => some (89#7 ++ s ++ d ++ q ++ e)
  | .tlda s d q b h n r => some (90#7 ++ s ++ d ++ q ++ 0#4 ++ b ++ h ++ n ++ r)
  | .tldb s d q b h n r => some (90#7 ++ s ++ d ++ q ++ 1#4 ++ b ++ h ++ n ++ r)
  | .tgtha s d q b h n r => some (90#7 ++ s ++ d ++ q ++ 2#4 ++ b ++ h ++ n ++ r)
  | .tmma s d q b h n r => some (90#7 ++ s ++ d ++ q ++ 3#4 ++ b ++ h ++ n ++ r)
  | .tspm s d q b h n r => some (90#7 ++ s ++ d ++ q ++ 4#4 ++ b ++ h ++ n ++ r)
  | .tzero s d q b h n r => some (90#7 ++ s ++ d ++ q ++ 5#4 ++ b ++ h ++ n ++ r)
  | .tldc s d q b h n r => some (90#7 ++ s ++ d ++ q ++ 6#4 ++ b ++ h ++ n ++ r)
  | .tstc s d q b h n r => some (90#7 ++ s ++ d ++ q ++ 7#4 ++ b ++ h ++ n ++ r)
  | .abal s d q f c => some (91#7 ++ s ++ d ++ q ++ 0#2 ++ f ++ c)
  | .abfr s d q f c => some (91#7 ++ s ++ d ++ q ++ 1#2 ++ f ++ c)
  | .lset s d q e => some (92#7 ++ s ++ d ++ q ++ e)
  | .tgeoOrg s d q e => some (93#7 ++ s ++ d ++ q ++ e ++ 0#1)
  | .tgeoMask s d q e => some (93#7 ++ s ++ d ++ q ++ e ++ 1#1)
  | .ttask s d q e => some (94#7 ++ s ++ d ++ q ++ e)
  | .tgrp s d q e => some (95#7 ++ s ++ d ++ q ++ e)
  | .cpy s d a b => some (96#7 ++ s ++ d ++ a ++ b ++ 0#7)
  | .cpyNb s d a b => some (96#7 ++ s ++ d ++ a ++ b ++ 1#7)
  | .cpyc s d a b => some (96#7 ++ s ++ d ++ a ++ b ++ 2#7)
  | .cpycNb s d a b => some (96#7 ++ s ++ d ++ a ++ b ++ 3#7)
  | .cpyst s d a b => some (96#7 ++ s ++ d ++ a ++ b ++ 4#7)
  | .hwait s d a x m => some (97#7 ++ s ++ d ++ a ++ x ++ m ++ 0#7)
  | .hacq s d a b => some (97#7 ++ s ++ d ++ a ++ b ++ 1#7)
  | .hrel s d a b => some (97#7 ++ s ++ d ++ a ++ b ++ 2#7)
  | .hstat s d a b => some (97#7 ++ s ++ d ++ a ++ b ++ 3#7)
  | .aopAdd s t a z r c => some (98#7 ++ s ++ t ++ a ++ z ++ r ++ c ++ 0#4)
  | .aopAnd s t a z r c => some (98#7 ++ s ++ t ++ a ++ z ++ r ++ c ++ 1#4)
  | .aopOr s t a z r c => some (98#7 ++ s ++ t ++ a ++ z ++ r ++ c ++ 2#4)
  | .aopXor s t a z r c => some (98#7 ++ s ++ t ++ a ++ z ++ r ++ c ++ 3#4)
  | .aopMin s t a z r c => some (98#7 ++ s ++ t ++ a ++ z ++ r ++ c ++ 4#4)
  | .aopMax s t a z r c => some (98#7 ++ s ++ t ++ a ++ z ++ r ++ c ++ 5#4)
  | .aopMinn s t a z r c => some (98#7 ++ s ++ t ++ a ++ z ++ r ++ c ++ 6#4)
  | .aopMaxn s t a z r c => some (98#7 ++ s ++ t ++ a ++ z ++ r ++ c ++ 7#4)
  | .aopSwap s t a z r c => some (98#7 ++ s ++ t ++ a ++ z ++ r ++ c ++ 8#4)
  | .aopFadd s t a z r c => some (98#7 ++ s ++ t ++ a ++ z ++ r ++ c ++ 9#4)
  | .aopFaddBf16 s t a z r c => some (98#7 ++ s ++ t ++ a ++ z ++ r ++ c ++ 10#4)
  | .ared s d a b => some (99#7 ++ s ++ d ++ a ++ b ++ 0#7)
  | .axpy s d a b => some (99#7 ++ s ++ d ++ a ++ b ++ 1#7)
  | .afill s d a b => some (99#7 ++ s ++ d ++ a ++ b ++ 2#7)
  | .collAr s d a b => some (100#7 ++ s ++ d ++ a ++ b ++ 0#7)
  | .collAg s d a b => some (100#7 ++ s ++ d ++ a ++ b ++ 1#7)
  | .collRs s d a b => some (100#7 ++ s ++ d ++ a ++ b ++ 2#7)
  | .cnear s d a b => some (104#7 ++ s ++ d ++ a ++ b ++ 0#7)
  | .cnearLocal s d a b => some (104#7 ++ s ++ d ++ a ++ b ++ 1#7)
  | .cstv s d a b => some (104#7 ++ s ++ d ++ a ++ b ++ 2#7)
  | .cdel s d a b => some (104#7 ++ s ++ d ++ a ++ b ++ 3#7)
  | .cver s d a b => some (104#7 ++ s ++ d ++ a ++ b ++ 4#7)
  | .catnew s d a b => some (105#7 ++ s ++ d ++ a ++ b ++ 0#7)
  | .catdel s d a b => some (105#7 ++ s ++ d ++ a ++ b ++ 1#7)
  | .rcall s d a b => some (106#7 ++ s ++ d ++ a ++ b ++ 0#7)
  | .rcallNb s d a b => some (106#7 ++ s ++ d ++ a ++ b ++ 1#7)
  | .rread s d a b => some (106#7 ++ s ++ d ++ a ++ b ++ 2#7)
  | .rreadLocal s d a b => some (106#7 ++ s ++ d ++ a ++ b ++ 3#7)
  | .rwait s d a b => some (106#7 ++ s ++ d ++ a ++ b ++ 4#7)
  | .objnew s d a b => some (107#7 ++ s ++ d ++ a ++ b ++ 0#7)
  | .objdel s d a b => some (107#7 ++ s ++ d ++ a ++ b ++ 1#7)
  | .himm p => some (112#7 ++ p)
  | .hsch x n => some (113#7 ++ 0#1 ++ x ++ n)
  | .hschIdle x u => some (113#7 ++ 1#1 ++ x ++ u)
  | .hmod p r t c o s x => some (114#7 ++ p ++ r ++ t ++ c ++ o ++ s ++ x)
  | .egrs s d a b => some (101#7 ++ s ++ d ++ a ++ b ++ 0#7)
  | .egfin s d a b => some (101#7 ++ s ++ d ++ a ++ b ++ 1#7)
  | .ctxnew s d a b => some (108#7 ++ s ++ d ++ a ++ b ++ 0#7)
  | .ctxgrant s d a b => some (108#7 ++ s ++ d ++ a ++ b ++ 1#7)
  | .ctxrevoke s d a b => some (108#7 ++ s ++ d ++ a ++ b ++ 2#7)
  | .ctxstat s d a b => some (108#7 ++ s ++ d ++ a ++ b ++ 3#7)
  | .resume s d a b => some (109#7 ++ s ++ d ++ a ++ b ++ 0#7)
  | .lnch s d a b => some (110#7 ++ s ++ d ++ a ++ b ++ 0#7)
  | .hnop x => some (115#7 ++ x)
  | .reservedHint maj p => some (maj ++ p)
  | .illegalInstr _ => none
  | .asynchronousTrap _ _ => none
  | .reflectionMessage _ => none
  | .stallExpiry _ _ => none
  | .hschWaitExpiry _ _ => none
  | .interlockedValueWrite _ _ => none
  | .lineWake _ _ => none
  | .cacheLineInvalidation _ _ => none
  | .idleTimeWake _ _ => none
  | .barrierArrival _ => none
  | .barrierReply _ => none
  | .messageArrival _ => none
  | .scaleMessage _ => none
  | .postedStoreApply _ => none
  | .migrationArrival _ => none
  | .migrationReturn _ _ => none
  | .recompute _ _ => none
  | .copyChunk _ => none
  | .cpycVersionCheck _ => none
  | .copyCompletion _ => none
  | .bankLineUpdate _ _ => none
  | .tileCommandBegin _ => none
  | .tileChunk _ _ => none
  | .completionWordPost _ _ => none
  | .taskDispatch _ _ _ _ => none
  | .taskCompletion _ _ => none
  | .logAppend _ => none
  | .entryApply _ _ _ => none
  | .rreadRun _ _ => none
  | .searchAdmission _ _ => none
  | .searchStep _ _ => none
  | .budgetRefill => none
  | .switchSlotArm _ => none
  | .switchTick _ => none
  | .stopInstant _ => none
  | .parkBufferFlush _ => none
  | .denSaveReport _ _ => none
  | .switchAbort _ => none
  | .denRestore _ _ => none
  | .stepRequest _ _ => none
  | .relockEnd _ => none
  | .thermalGovernor _ _ _ _ => none
  | .refreshDoubling _ _ => none
  | .thermalTrip _ _ => none
  | .plimWrite _ => none
  | .linkRetrain => none
  | .fabricPortDown _ => none
  | .hostMemoryAccess _ _ => none
  | .attestationRequest _ => none
  | .collectiveCompletion _ _ _ => none
  | .collectiveTimeout _ _ _ _ => none
  | .egressTileMark => none
  | .clipRecord => none
  | .samplingPulse _ => none
  | .breakpointMatch _ _ => none
  | .debugRun _ => none
  | .debugStep _ _ => none
  | .debugHalt _ => none
  | .spoorControlWrite _ _ _ => none
  | .coldStart => none
  | .warmStart => none
  | .scWindowClose => none
  | .timeMasterAlignment _ => none
  | .coreSoftError _ _ _ _ => none
  | .debugRegisterAccess _ _ _ _ _ => none
  | .egressSettingWrite _ _ _ => none
  | .collectiveGroupDefine _ _ _ => none
  | .msixWindowWrite _ _ _ => none
  | .hostReset => none

end Sys2Proof
end

