-- ==== Sys2Proof/Machine/Library.lean ====
section
/-! DEFINITION. The supplied library (R213, R328, R342): T14's and T15's code where a launch names none of its own.

DESIGN CHOICE (log 29): the manual gives what the library does and not its words. These words do it with the device's own
instructions. Two words depend on the machine: no instruction tests one mailbox without waiting for it, and none
gives the number of the core's resident context. -/

namespace Sys2Proof.Machine

open Sys2Proof

/-! ## The mover (R213)

g20 addresses seg7:0, g8 holds the request word, g11 the block's address, g12 the mailbox, g15 bit 0 of the request, and g14 the
address at which the report goes on after a fault, 0 outside the report. -/

/-- T14 starts: seg7:0 to g20, and the loop (R213). It installs its handler and waits until a mailbox is full. -/
def moverStart : List Instr :=
  [.addi 1 20 0 7, .shli 1 20 20 61, .addi 1 14 0 0, .addi 1 21 0 360, .csrw 0 0 21 4, .addi 1 9 0 16, .idle 0 0 9 0]

/-- Mailbox 0: the first word is `occupied`'s, the mailbox is served when it is full. -/
def moverScan0 : List Instr :=
  [.addi 1 10 0 0, .cmpiEq 1 1 10 0, .br 0 1 0 4, .mbget 0 8 0 0, .addi 1 12 0 0, .br 0 0 0 50]

/-- Mailbox 1: the first word is `occupied`'s, the mailbox is served when it is full. -/
def moverScan1 : List Instr :=
  [.addi 1 10 0 0, .cmpiEq 1 1 10 0, .br 0 1 0 4, .mbget 0 8 1 0, .addi 1 12 0 1, .br 0 0 0 44]

/-- Mailbox 2: the first word is `occupied`'s, the mailbox is served when it is full. -/
def moverScan2 : List Instr :=
  [.addi 1 10 0 0, .cmpiEq 1 1 10 0, .br 0 1 0 4, .mbget 0 8 2 0, .addi 1 12 0 2, .br 0 0 0 38]

/-- Mailbox 3: the first word is `occupied`'s, the mailbox is served when it is full. -/
def moverScan3 : List Instr :=
  [.addi 1 10 0 0, .cmpiEq 1 1 10 0, .br 0 1 0 4, .mbget 0 8 3 0, .addi 1 12 0 3, .br 0 0 0 32]

/-- Mailbox 4: the first word is `occupied`'s, the mailbox is served when it is full. -/
def moverScan4 : List Instr :=
  [.addi 1 10 0 0, .cmpiEq 1 1 10 0, .br 0 1 0 4, .mbget 0 8 4 0, .addi 1 12 0 4, .br 0 0 0 26]

/-- Mailbox 5: the first word is `occupied`'s, the mailbox is served when it is full. -/
def moverScan5 : List Instr :=
  [.addi 1 10 0 0, .cmpiEq 1 1 10 0, .br 0 1 0 4, .mbget 0 8 5 0, .addi 1 12 0 5, .br 0 0 0 20]

/-- Mailbox 6: the first word is `occupied`'s, the mailbox is served when it is full. -/
def moverScan6 : List Instr :=
  [.addi 1 10 0 0, .cmpiEq 1 1 10 0, .br 0 1 0 4, .mbget 0 8 6 0, .addi 1 12 0 6, .br 0 0 0 14]

/-- Mailbox 7: the first word is `occupied`'s, the mailbox is served when it is full. -/
def moverScan7 : List Instr :=
  [.addi 1 10 0 0, .cmpiEq 1 1 10 0, .br 0 1 0 4, .mbget 0 8 7 0, .addi 1 12 0 7, .br 0 0 0 8]

/-- After mb7 the loop begins again; after a request the next mailbox is looked at (step 4). -/
def moverLoop : List Instr :=
  [.br 0 0 0 (-53), .addi 1 14 0 0, .shli 1 13 12 4, .shli 1 19 12 3, .add 1 13 13 19, .addi 1 13 13 52, .jmpr 0 0 13 0]

/-- A request: bit 0 to g15, the block's address to g11; a block in another scratchpad of the holt window is copied to seg7:0. -/
def moverServe : List Instr :=
  [.andi 1 15 8 1, .sub 1 11 8 15, .shri 1 13 11 61, .cmpiEq 1 1 13 2, .br 0 1 1 18, .ld 0 13 11 3 0, .st 0 13 20 3 0,
   .ld 0 13 11 3 1, .st 0 13 20 3 1, .ld 0 13 11 3 2, .st 0 13 20 3 2, .ld 0 13 11 3 3, .st 0 13 20 3 3, .ld 0 13 11 3 4,
   .st 0 13 20 3 4, .ld 0 13 11 3 5, .st 0 13 20 3 5, .ld 0 13 11 3 6, .st 0 13 20 3 6, .ld 0 13 11 3 7, .st 0 13 20 3 7,
   .add 1 11 20 0]

/-- `CPY` for bit 0 = 0, `CPYC` for bit 0 = 1. -/
def moverIssue : List Instr :=
  [.cmpiEq 1 1 15 0, .br 0 1 1 3, .cpy 0 0 11 0, .br 0 0 0 (-31), .cpyc 0 0 11 0, .br 0 0 0 (-33)]

/-- The handler: an asynchronous trap only returns; a fault of a step of the report skips the step; a fault of a request's copy
by one of the nine causes is recorded and reported; any other is reflected. -/
def moverHandler : List Instr :=
  [.csrr 0 16 0 1, .shri 1 17 16 14, .andi 1 17 17 1, .cmpiEq 1 2 17 0, .br 0 2 1 11, .andi 1 16 16 255, .csrr 0 17 0 3,
   .cmpiEq 1 2 14 0, .br 0 2 1 8, .csrr 0 18 0 2, .cmpiEq 1 2 18 344, .br 0 2 0 7, .cmpiEq 1 2 18 352, .br 0 2 0 5,
   .csrw 0 0 0 4, .eret 0 0 0 0, .csrw 0 0 14 2, .eret 0 0 0 0]

/-- The causes of R213: COPY_MALFORMED, HANDLE_STATE, EGRESS_DENIED, SEG_LIMIT, SEG_RIGHTS, MISALIGN, PAGE_FAULT, XLATE_RIGHTS,
ATOMIC_PATH. -/
def moverCause : List Instr :=
  [.cmpiEq 1 2 16 33, .br 0 2 0 18, .cmpiEq 1 2 16 32, .br 0 2 0 16, .cmpiEq 1 2 16 35, .br 0 2 0 14, .cmpiEq 1 2 16 16,
   .br 0 2 0 12, .cmpiEq 1 2 16 17, .br 0 2 0 10, .cmpiEq 1 2 16 22, .br 0 2 0 8, .cmpiEq 1 2 16 19, .br 0 2 0 6,
   .cmpiEq 1 2 16 20, .br 0 2 0 4, .cmpiEq 1 2 16 21, .br 0 2 0 2, .br 0 0 0 (-22)]

/-- The record on the stack: the cause, EVAL, the request word and the mailbox at seg7:64 to 95; the report follows outside the
handler. -/
def moverRecord : List Instr :=
  [.st 0 16 20 3 8, .st 0 17 20 3 9, .st 0 8 20 3 10, .st 0 12 20 3 11, .addi 1 18 0 536, .csrw 0 0 18 2, .eret 0 0 0 0]

/-- Step 1: with CTRL.SV, bit 63 is ORed into SIGNAL's VALUE at the object's scope. -/
def moverSignal : List Instr :=
  [.addi 1 14 0 684, .ld 0 19 11 3 5, .andi 1 18 19 16, .cmpiEq 1 1 18 0, .br 0 1 0 33, .ld 0 13 11 3 7, .ld 0 18 13 3 1,
   .andi 1 18 18 7, .addi 1 10 0 1, .shli 1 10 10 63, .cmpiEq 1 1 18 0, .br 0 1 0 12, .cmpiEq 1 1 18 1, .br 0 1 0 12,
   .cmpiEq 1 1 18 2, .br 0 1 0 12, .cmpiEq 1 1 18 3, .br 0 1 0 12, .cmpiEq 1 1 18 4, .br 0 1 0 12, .cmpiEq 1 1 18 5,
   .br 0 1 0 12, .br 0 0 0 13]

/-- The seven forms of the `AMO`. -/
def moverOr : List Instr :=
  [.amoOr 0 10 13 3 2 0, .br 0 0 0 13, .amoOr 0 10 13 3 2 1, .br 0 0 0 11, .amoOr 0 10 13 3 2 2, .br 0 0 0 9,
   .amoOr 0 10 13 3 2 3, .br 0 0 0 7, .amoOr 0 10 13 3 2 4, .br 0 0 0 5, .amoOr 0 10 13 3 2 5, .br 0 0 0 3, .amoOr 0 10 13 3 2 6,
   .br 0 0 0 1]

/-- Step 2: with CTRL.FV, 0xFFFFFF00 + cause is released to FLAG at the block's scope. -/
def moverFlag : List Instr :=
  [.addi 1 14 0 836, .ld 0 19 11 3 5, .andi 1 18 19 8, .cmpiEq 1 1 18 0, .br 0 1 0 34, .ld 0 13 11 3 6, .shri 1 18 19 24,
   .andi 1 18 18 7, .addi 1 10 0 (-256), .ld 0 9 20 3 8, .add 1 10 10 9, .cmpiEq 1 1 18 0, .br 0 1 0 12, .cmpiEq 1 1 18 1,
   .br 0 1 0 12, .cmpiEq 1 1 18 3, .br 0 1 0 14, .cmpiEq 1 1 18 4, .br 0 1 0 14, .cmpiEq 1 1 18 5, .br 0 1 0 14,
   .cmpiEq 1 1 18 6, .br 0 1 0 14, .br 0 0 0 5]

/-- The seven forms of the release. -/
def moverRelease : List Instr :=
  [.sto 0 10 13 2 2 0 0, .br 0 0 0 13, .sto 0 10 13 2 2 1 0, .br 0 0 0 11, .sto 0 10 13 2 2 2 0, .br 0 0 0 9,
   .sto 0 10 13 2 2 3 0, .br 0 0 0 7, .sto 0 10 13 2 2 4 0, .br 0 0 0 5, .sto 0 10 13 2 2 5 0, .br 0 0 0 3, .sto 0 10 13 2 2 6 0,
   .br 0 0 0 1]

/-- Steps 3 and 4: the unmarked message of type 0x7F to the own virtual core, and back to the loop. -/
def moverMessage : List Instr :=
  [.addi 1 14 0 224, .csrr 0 10 0 9, .shli 1 10 10 51, .shri 1 10 10 51, .addi 1 18 0 127, .shli 1 18 18 16, .or 1 10 10 18,
   .ld 0 18 20 3 10, .st 0 18 20 3 0, .ld 0 18 20 3 8, .shli 1 19 12 8, .or 1 18 18 19, .st 0 18 20 3 1, .ld 0 18 20 3 9,
   .st 0 18 20 3 2, .st 0 0 20 3 3, .st 0 0 20 3 4, .st 0 0 20 3 5, .st 0 0 20 3 6, .st 0 0 20 3 7, .msend 0 0 20 10,
   .br 0 0 0 (-174)]

/-- The mover's words. -/
def moverCode : List Instr :=
  moverStart ++ moverScan0 ++ moverScan1 ++ moverScan2 ++ moverScan3 ++ moverScan4 ++ moverScan5 ++ moverScan6 ++ moverScan7
    ++ moverLoop ++ moverServe ++ moverIssue ++ moverHandler ++ moverCause ++ moverRecord ++ moverSignal ++ moverOr
    ++ moverFlag ++ moverRelease ++ moverMessage

/-! ## The walker (R322, R328)

g20 addresses seg7:0 and g21 seg5:0, g8 holds the MISSID and g10 the CVA; g11 addresses the entry of the range table and g12 counts
down from 64. -/

/-- T15 takes a miss record to seg7:0: its name to g8, its THREAD to g9, its CVA to g10, and starts no entry. -/
def walkerNext : List Instr :=
  [.addi 1 20 0 7, .shli 1 20 20 61, .addi 1 21 0 5, .shli 1 21 21 61, .mrecv 0 0 20 0, .ld 0 9 20 3 0, .shli 1 8 9 48,
   .shri 1 8 8 48, .shri 1 9 9 16, .andi 1 9 9 255, .ld 0 10 20 3 1, .addi 1 13 0 0, .cmpiEq 1 1 9 13, .br 0 1 1 2]

/-- The root: of the own context, or of the resident one for a record of T13 (R322), whose number the first word holds. The
second is `CTXSTAT` g11, g13, g12. -/
def walkerRoot : List Instr :=
  [.addi 1 13 0 0, .addi 1 12 0 4, .addi 1 0 0 0, .add 1 11 11 21, .addi 1 12 0 64]

/-- The range table: up to 64 entries, ending at LEN 0. -/
def walkerRange : List Instr :=
  [.ld 0 16 11 3 2, .cmpiEq 1 1 16 0, .br 0 1 0 26, .ld 0 14 11 3 0, .sub 1 15 10 14, .cmpLtn 1 0 1 15 16, .cmpLtn 1 0 2 10 14,
   .br 0 1 1 2, .br 0 2 1 6, .addi 1 11 11 32, .addi 1 12 12 (-1), .cmpiEq 1 1 12 0, .br 0 1 1 (-12), .br 0 0 0 15]

/-- A direct range is installed as it stands. -/
def walkerDirect : List Instr :=
  [.ld 0 17 11 3 3, .shri 1 18 17 15, .andi 1 18 18 1, .cmpiEq 1 1 18 0, .ld 0 16 11 3 1, .br 0 1 1 14, .ld 0 18 11 3 2,
   .st 0 14 20 3 8, .st 0 16 20 3 9, .st 0 18 20 3 10, .st 0 17 20 3 11]

/-- The answers: install the record at seg7:64, or PAGE_FAULT. -/
def walkerDone : List Instr :=
  [.addi 1 12 20 64, .wkdone 0 0 8 12, .br 0 0 0 (-42), .addi 1 12 0 19, .shli 1 12 12 16, .add 1 8 8 12, .wkdone 0 0 8 0,
   .br 0 0 0 (-47)]

/-- A paged range: the offset in g15, the table in g16, the shift in g12. -/
def walkerLevel : List Instr :=
  [.addi 1 12 0 39, .shr 1 17 15 12, .andi 1 17 17 511, .shli 1 17 17 3, .add 1 17 17 16, .add 1 17 17 21, .ld 0 17 17 3 0,
   .andi 1 18 17 1, .cmpiEq 1 1 18 0, .br 0 1 0 (-14), .andi 1 18 17 2, .cmpiEq 1 1 18 0, .br 0 1 1 8, .cmpiEq 1 1 12 12,
   .br 0 1 0 (-19), .shli 1 16 17 7, .shri 1 16 16 19, .shli 1 16 16 12, .addi 1 12 12 (-9), .br 0 0 0 (-18)]

/-- A leaf at the second to fourth level; CONTIG at the fourth widens it to 64 KiB. -/
def walkerLeaf : List Instr :=
  [.cmpiEq 1 1 12 39, .br 0 1 0 (-26), .cmpiEq 1 1 12 12, .br 0 1 1 5, .shri 1 18 17 11, .andi 1 18 18 1, .shli 1 18 18 2,
   .add 1 12 12 18, .shli 1 16 17 12, .shri 1 16 16 24, .shli 1 16 16 12, .shr 1 16 16 12, .shl 1 16 16 12, .shr 1 15 15 12,
   .shl 1 15 15 12, .add 1 14 14 15]

/-- Its record: VA, PA, LEN, and RIGHTS, ATOM and CACHE at their places in ATTR. -/
def walkerPage : List Instr :=
  [.addi 1 18 0 1, .shl 1 18 18 12, .st 0 14 20 3 8, .st 0 16 20 3 9, .st 0 18 20 3 10, .shri 1 18 17 2, .andi 1 18 18 127,
   .shri 1 17 17 9, .andi 1 17 17 3, .shli 1 17 17 8, .or 1 18 18 17, .st 0 18 20 3 11, .br 0 0 0 (-56)]

/-- The walker's words, which follow the mover's. -/
def walkerCode : List Instr :=
  walkerNext ++ walkerRoot ++ walkerRange ++ walkerDirect ++ walkerDone ++ walkerLevel ++ walkerLeaf ++ walkerPage

/-- The word of the mover that says whether mailbox n is full. -/
def occupied (c : VCore) (n : Nat) : Instr := .addi 1 10 0 (if (c.mb.toList.getD n none).isSome then 1 else 0)

/-- The word of the walker that gives the number of the core's resident context. -/
def residentNumber (s : State) (c : VCore) : Instr :=
  .addi 1 13 0 (BitVec.ofNat 12 (match c.resLaunch.bind s.launches.find? with | some l => l.ctx | none => 0))

/-- `CTXSTAT` g11, g13, g12 (R340). -/
def readRoot : BitVec 32 := 108#7 ++ 1#3 ++ 11#5 ++ 13#5 ++ 12#5 ++ 3#7

/-- The n-th word of the supplied library, as a core's services fetch it; 0 beyond its end. -/
def libraryWord (s : State) (core n : Nat) : BitVec 32 :=
  let c := s.core core
  let word (i : Instr) : BitVec 32 := (encode i).getD 0
  match [7, 13, 19, 25, 31, 37, 43, 49].idxOf? n with
  | some i => word (occupied c i)
  | none =>
    if n = 245 then word (residentNumber s c)
    else if n = 247 then readRoot
    else match (moverCode ++ walkerCode)[n]? with
      | some i => word i
      | none => 0

end Sys2Proof.Machine
end

