-- ==== Sys2Proof/Machine/Fetch.lean ====
section
/-! DEFINITION. Fetching an instruction word, and the arrival and return of migrated threads
(06 R101; 08 R138, R161). -/

namespace Sys2Proof.Machine

open Sys2Proof

/-! ## Fetch -/

/-- A byte of a launch's code image (R138). -/
def Launch.codeByte (l : Launch) (k : Nat) : Byte :=
  let a := k % 2 ^ 64
  match k / 2 ^ 64 with
  | 0 => (l.codeSpads.getD (a / 2 ^ 18) []).get (a % 2 ^ 18)
  | 1 => (l.codeSetts.getD (a / 2 ^ 21) []).get (a % 2 ^ 21)
  | 2 => l.codeArch.get a
  | 3 => l.code.get a
  | _ => l.codeOut.get a

/-- The four bytes at a context-virtual address: of the supplied library, of the code image as `LNCH` bound it,
or of memory (R138, R342). -/
def imageBytes (s : State) (t : Tid) (cva : Nat) (ks : List Nat) : List Byte :=
  if Config.libraryVA ≤ cva then leBytes (libraryWord s t.core ((cva - Config.libraryVA) / 4)).toNat 4 else
  match launchOf s t with
  | some l => if l.codeLo ≤ cva ∧ cva + 4 ≤ l.codeHi then ks.map l.codeByte else readPlaces s ks
  | none => readPlaces s ks

/-- The word at a thread's pc, through the check of R101 with EX and through translation. -/
def fetchWord (s : State) (t : Tid) : Except Stop (BitVec 32) := do
  let pc := (s.thread t).pc
  let v := viewOf s t
  let r ← segCheck s v pc 4 rEX
  let ks ← reachPlaces s v pc 4 rEX r
  if s.pathErrors.any ks.contains then throw (.trap cHOST_ABORT pc)
  if s.softErrors.any ks.contains then throw (.trap cINSTR_SOFT_ERROR pc)
  let bs := match r with
    | .places _ _ => readPlaces s ks
    | .virt _ cva => imageBytes s t cva ks
  return BitVec.ofNat 32 (leNat bs)

/-- A fetch that fails: EPC is the fetch address (R101); a trap takes the thread's slot (R108) and waits as any other (R119). -/
def fetchStop (s : State) (t : Tid) : Stop → Out
  | .trap c e =>
    let th := s.thread t
    match stopWaits s t (.trap c e) with
    | some due => stopped s t (.wait due)
    | none =>
      let s := noteIssue s t (issueCycle s t)
      .next (lapse (match th.homeOf with
        | some h => takeTrap (returnHome s t) h c e th.pc false
        | none => if speculative s t then park s t false .protect else takeTrap s t c e th.pc false))
  | x => stopped s t x

/-! ## Migration (R161) -/

/-- The context that a packet starts (Table 8.4). -/
def arrivedThread (home : Tid) (task : Running) (b : List Byte) (cyc : Nat) (held : Bool := false) : Thread :=
  let flags := blkNat b 94 2
  { Thread.reset with
    run := .ready
    halted := if held then some 10 else none
    pc := BitVec.ofNat 64 (blkNat b 0 8)
    g := (List.range 10).foldl (fun g i => g.setIfInBounds (i + 2) (BitVec.ofNat 64 (blkNat b (8 + 8 * i) 8))) Thread.reset.g
    k := (List.range 3).foldl (fun k i => k.setIfInBounds (i + 1) (BitVec.ofNat 16 (blkNat b (88 + 2 * i) 2))) Thread.reset.k
    tctl := BitVec.ofNat 64 (flags / 4 % 2 + 2 * (flags % 4) + 16 * (flags / 16 % 2) + 32 + 64 * (flags / 8 % 2))
    vmask := BitVec.ofNat 32 (blkNat b 96 4)
    fflags := BitVec.ofNat 64 (blkNat b 103 1)
    homeOf := some home
    task := task
    readyAt := cyc
    stallEnd := cyc }

/-- The packet goes back: the home thread continues at the chain with the packet's registers. -/
def packetHome (s : State) (home : Tid) (b : List Byte) : State :=
  let th := s.thread home
  let a := arrivedThread home th.task b th.readyAt
  s.setThread home { carryHome th a with run := .ready, awayAt := none, pc := a.pc, dist := 0, chain := none, task := th.task, readyAt := th.readyAt }

/-- MIGRATION_ARRIVAL (R161): A migration packet arrives and starts on a free work context, waiting if none is free -/
def execMigrationArrival (n : Nat) (st : State) : Out :=
  match st.flights[n]? with
  | some (.migr home core b) =>
    let toCore (f : Flight) : Bool := match f with | .migr _ k _ => k == core | _ => false
    if (st.flights.take n).any toCore || !dieRuns st (dieOf st core) then .next st
    else
      let z := { st with flights := st.flights.eraseIdx n }
      if !(st.ctx (ctxOf st home)).setts.any (fun p => p.2 == settOf core) then .next (lapse (packetHome z home b))
      else match (List.range (if bit (st.core core).stdom 3 then 6 else 12)).find? (fun i => (st.thread ⟨core, i + 1⟩).run == .dormant) with
        | none => .next st
        | some i =>
          let t : Tid := ⟨core, i + 1⟩
          let z := z.setThread t (arrivedThread home (z.thread home).task b (dieCycle z (dieOf z core)) (z.ctx (ctxOf z home)).haltedAll)
          .next (lapse (z.setThread home { z.thread home with awayAt := some t }))
  | _ => .next st

/-- A thread parked until the reply to a request that has left it (R109). -/
def awaitsReply (th : Thread) : Bool := match th.run with
  | .parkedEngine (.reply _ _) _ | .parkedSync (.reply _ _) _ => true
  | _ => false

/-- MIGRATION_RETURN (R161): A migrated thread returns home and its packet registers replace the home copies -/
def execMigrationReturn (c t : Nat) (st : State) : Out :=
  let id : Tid := ⟨c, t⟩
  let th := st.thread id
  match th.homeOf with
  | some h =>
    if th.chain.isNone && !th.inh && !(st.thread h).asyncq.isEmpty && th.halted.isNone && !awaitsReply th then
      -- the results that a departure waits for (R119, R186)
      match stopWaits st id .goHome with
      | some due => .next (st.setThread id { th with readyAt := max th.readyAt due })
      | none => .next (lapse (returnHome st id))
    else .next st
  | none => .next st

end Sys2Proof.Machine
end

