-- ==== Sys2Proof/Machine/Method.lean ====
section
/-! DEFINITION. Method mode: the Scribe runs a method as a single thread of its own (18_scribe.md R284 to R287). -/

namespace Sys2Proof.Machine

open Sys2Proof

/-- R285: an instruction that a method may not execute traps before it has any effect. -/
def methodEscape (s : State) : Out :=
  match s.meth with
  | some m => .next { s with meth := some { m with trapped := some cMETHOD_ESCAPE } }
  | none => .next s

/-- The registers that a method may name: TCTL, FFLAGS and ESCR (Table 18.7). -/
def methodCsr (s : State) (i : BitVec 12) : Bool :=
  let r := csrAddr (s.thread s.cur) i
  r == 0 || r == 5 || r == 6 || !csrExists r

/-- Table 18.7: an instruction in method mode. -/
def execMethod (i : Instr) (s : State) : Out :=
  match i with
  | .add st d a b => execAdd st d a b s
  | .sub st d a b => execSub st d a b s
  | .and st d a b => execAnd st d a b s
  | .or st d a b => execOr st d a b s
  | .xor st d a b => execXor st d a b s
  | .min st d a b => execMin st d a b s
  | .minN st d a b => execMinN st d a b s
  | .max st d a b => execMax st d a b s
  | .maxN st d a b => execMaxN st d a b s
  | .leaB st d a b => execLeaB st d a b s
  | .leaH st d a b => execLeaH st d a b s
  | .leaW st d a b => execLeaW st d a b s
  | .leaD st d a b => execLeaD st d a b s
  | .shl st d a b => execShl st d a b s
  | .shr st d a b => execShr st d a b s
  | .sar st d a b => execSar st d a b s
  | .bext st d a b => execBext st d a b s
  | .popc st d a b => execPopc st d a b s
  | .clz st d a b => execClz st d a b s
  | .ctz st d a b => execCtz st d a b s
  | .brev st d a b => execBrev st d a b s
  | .bins st d a b => execBins st d a b s
  | .sel st d a b => execSel st d a b s
  | .cmpEq st x k a b => execCmpEq st x k a b s
  | .cmpNe st x k a b => execCmpNe st x k a b s
  | .cmpLt st x k a b => execCmpLt st x k a b s
  | .cmpLe st x k a b => execCmpLe st x k a b s
  | .cmpLtn st x k a b => execCmpLtn st x k a b s
  | .cmpLen st x k a b => execCmpLen st x k a b s
  | .cmpiEq st k a i => execCmpiEq st k a i s
  | .cmpiNe st k a i => execCmpiNe st k a i s
  | .cmpiLt st k a i => execCmpiLt st k a i s
  | .cmpiLtn st k a i => execCmpiLtn st k a i s
  | .addi st d a i => execAddi st d a i s
  | .andi st d a i => execAndi st d a i s
  | .ori st d a i => execOri st d a i s
  | .xori st d a i => execXori st d a i s
  | .shli st d a i => execShli st d a i s
  | .shri st d a i => execShri st d a i s
  | .sari st d a i => execSari st d a i s
  | .mul st d a b => execMul st d a b s
  | .mulh st d a b => execMulh st d a b s
  | .mulhN st d a b => execMulhN st d a b s
  | .div st d a b => execDiv st d a b s
  | .divN st d a b => execDivN st d a b s
  | .rem st d a b => execRem st d a b s
  | .remN st d a b => execRemN st d a b s
  | .br st k n o => execBr st k n o s
  | .jmp st o => execJmp st o s
  | .call st o => execCall st o s
  | .jmpr st d a b => execJmpr st d a b s
  | .callr st d a b => execCallr st d a b s
  | .kand st d a b => execKand st d a b s
  | .kor st d a b => execKor st d a b s
  | .kxor st d a b => execKxor st d a b s
  | .knot st d a b => execKnot st d a b s
  | .kmovK st d a x => execKmovK st d a x s
  | .kmovFromG st d a x => execKmovFromG st d a x s
  | .kmovToG st d a x => execKmovToG st d a x s
  | .kpack st d a b => execKpack st d a b s
  | .kunpk st d a b => execKunpk st d a b s
  | .kpopc st d a b => execKpopc st d a b s
  | .himm p => execHimm p s
  | .hmod p r t c o st x => execHmod p r t c o st x s
  | .hsch x n => execHsch x n s
  | .vadd st d a b k h j u => execVadd st d a b k h j u s
  | .vsub st d a b k h j u => execVsub st d a b k h j u s
  | .vmul st d a b k h j u => execVmul st d a b k h j u s
  | .vfma st d a b k h j u => execVfma st d a b k h j u s
  | .vfmab st d a b l h j u => execVfmab st d a b l h j u s
  | .vmin st d a b k h j u => execVmin st d a b k h j u s
  | .vmax st d a b k h j u => execVmax st d a b k h j u s
  | .vand st d a b k h j u => execVand st d a b k h j u s
  | .vor st d a b k h j u => execVor st d a b k h j u s
  | .vxor st d a b k h j u => execVxor st d a b k h j u s
  | .vshl st d a b k h j u => execVshl st d a b k h j u s
  | .vshr st d a b k h j u => execVshr st d a b k h j u s
  | .vcmpEq st k a b p h j u => execVcmpEq st k a b p h j u s
  | .vcmpNe st k a b p h j u => execVcmpNe st k a b p h j u s
  | .vcmpLt st k a b p h j u => execVcmpLt st k a b p h j u s
  | .vcmpLe st k a b p h j u => execVcmpLe st k a b p h j u s
  | .vsel st d a b k h j u => execVsel st d a b k h j u s
  | .vabs st d a k h j u => execVabs st d a k h j u s
  | .vneg st d a k h j u => execVneg st d a k h j u s
  | .vrcp st d a k h j u => execVrcp st d a k h j u s
  | .vrsq st d a k h j u => execVrsq st d a k h j u s
  | .vexp2 st d a k h j u => execVexp2 st d a k h j u s
  | .vlog2 st d a k h j u => execVlog2 st d a k h j u s
  | .vcvtF2s st d a k h j u => execVcvtF2s st d a k h j u s
  | .vcvtF2n st d a k h j u => execVcvtF2n st d a k h j u s
  | .vcvtS2f st d a k h j u => execVcvtS2f st d a k h j u s
  | .vcvtN2f st d a k h j u => execVcvtN2f st d a k h j u s
  | .vcvtF2b st d a w k h j u => execVcvtF2b st d a w k h j u s
  | .vcvtF2h st d a w k h j u => execVcvtF2h st d a w k h j u s
  | .vcvtB2f st d a w k h j u => execVcvtB2f st d a w k h j u s
  | .vcvtH2f st d a w k h j u => execVcvtH2f st d a w k h j u s
  | .vcvtF2e4 st d a y k h j u => execVcvtF2e4 st d a y k h j u s
  | .vcvtF2e5 st d a y k h j u => execVcvtF2e5 st d a y k h j u s
  | .vcvtE4f st d a y k h j u => execVcvtE4f st d a y k h j u s
  | .vcvtE5f st d a y k h j u => execVcvtE5f st d a y k h j u s
  | .vredSum st d a x k h j u => execVredSum st d a x k h j u s
  | .vredMin st d a x k h j u => execVredMin st d a x k h j u s
  | .vredMax st d a x k h j u => execVredMax st d a x k h j u s
  | .vredAnd st d a x k h j u => execVredAnd st d a x k h j u s
  | .vredOr st d a x k h j u => execVredOr st d a x k h j u s
  | .vredXor st d a x k h j u => execVredXor st d a x k h j u s
  | .vscanSum st d a x k h j u => execVscanSum st d a x k h j u s
  | .vscanMin st d a x k h j u => execVscanMin st d a x k h j u s
  | .vscanMax st d a x k h j u => execVscanMax st d a x k h j u s
  | .vscanAnd st d a x k h j u => execVscanAnd st d a x k h j u s
  | .vscanOr st d a x k h j u => execVscanOr st d a x k h j u s
  | .vscanXor st d a x k h j u => execVscanXor st d a x k h j u s
  | .vperm st d a b k h j u => execVperm st d a b k h j u s
  | .vrot st d a x n k h j u => execVrot st d a x n k h j u s
  | .vqnt st d a b k h j => execVqnt st d a b k h j s
  | .vdq st d a b k h j => execVdq st d a b k h j s
  | .vlane st d a x l k h j => execVlane st d a x l k h j s
  | .vins st d a x l k h j => execVins st d a x l k h j s
  | .vld st d a b k h j => execVld st d a b k h j s
  | .vst st d a b k h j => execVst st d a b k h j s
  | .vlds st d a b k h j => execVlds st d a b k h j s
  | .vsts st d a b k h j => execVsts st d a b k h j s
  | .vgth st d a b k h j => execVgth st d a b k h j s
  | .vsct st d a b k h j => execVsct st d a b k h j s
  | .vbcst st d a b k h j => execVbcst st d a b k h j s
  | .ld st t a z o => execLd st t a z o s
  | .ldS st t a z o => execLdS st t a z o s
  | .st st t a z o => execSt st t a z o s
  | .pft st t a z o => execPft st t a z o s
  | .ldo st t a z r c u => execLdo st t a z r c u s
  | .sto st t a z r c u => execSto st t a z r c u s
  | .enter st d a i => execEnter st d a i s
  | .leave st d a i => execLeave st d a i s
  | .amoAdd st t a z r c => execAmoAdd st t a z r c s
  | .amoAnd st t a z r c => execAmoAnd st t a z r c s
  | .amoOr st t a z r c => execAmoOr st t a z r c s
  | .amoXor st t a z r c => execAmoXor st t a z r c s
  | .amoMin st t a z r c => execAmoMin st t a z r c s
  | .amoMax st t a z r c => execAmoMax st t a z r c s
  | .amoMinn st t a z r c => execAmoMinn st t a z r c s
  | .amoMaxn st t a z r c => execAmoMaxn st t a z r c s
  | .amoSwap st t a z r c => execAmoSwap st t a z r c s
  | .amoFadd st t a z r c => execAmoFadd st t a z r c s
  | .cas st t a z r c => execCas st t a z r c s
  | .fenceLdld st t a r c => execFenceLdld st t a r c s
  | .fenceLdst st t a r c => execFenceLdst st t a r c s
  | .fenceStld st t a r c => execFenceStld st t a r c s
  | .fenceStst st t a r c => execFenceStst st t a r c s
  | .fenceAll st t a r c => execFenceAll st t a r c s
  | .trap st d a i => execTrap st d a i s
  | .hschIdle x u => if u.toNat = 3 then methodEscape s else execHschIdle x u s
  | .csrr st d a i => if methodCsr s i then execCsrr st d a i s else methodEscape s
  | .csrw st d a i => if methodCsr s i then execCsrw st d a i s else methodEscape s
  | .csrset st d a i => if methodCsr s i then execCsrset st d a i s else methodEscape s
  | .csrclr st d a i => if methodCsr s i then execCsrclr st d a i s else methodEscape s
  | _ => methodEscape s

/-- The same of a word that `LateInstr` names: a hint, or a word that a method may not execute. -/
def execMethodLate (l : LateInstr) (s : State) : Out :=
  match l with
  | .hnop x => execHnop x s
  | .reservedHint maj p => execReservedHint maj p s
  | _ => methodEscape s

/-- The arithmetic of a method sets no flags: FFLAGS stays as it was (R59). -/
def keepFlags (s : State) (o : Out) : Out :=
  match o with
  | .next z => .next (z.setThread s.cur { z.thread s.cur with fflags := (s.thread s.cur).fflags })
  | o => o

/-- The instructions by which a method writes a control register (R285). -/
def writesCsr (i : Instr) : Bool :=
  match i with
  | .csrw _ _ _ _ | .csrset _ _ _ _ | .csrclr _ _ _ _ => true
  | _ => false

/-- One word of a method: fetched from the code copy, then executed. A word that is no instruction traps. -/
def methodWord (s : State) : Out :=
  match fetchWord s s.cur with
  | .error e => fetchStop s s.cur e
  | .ok w =>
    match decodeFetched w with
    | .ok (.inl i) => if writesCsr i then execMethod i s else keepFlags s (execMethod i s)
    | .ok (.inr l) => execMethodLate l s
    | .error _ => execIllegalInstr w s

/-- Runs the words of a method until it ends or traps: at most as many as its budget (R286). The number of words issued. -/
def methodRun : Nat → State → Meth → Meth × Nat
  | 0, _, m => ({ m with trapped := some cMETHOD_BUDGET }, 0)
  | n + 1, s, m =>
    match methodWord { s with meth := some m } with
    | .next z =>
      match z.meth with
      | none => (m, 1)
      | some m' =>
        if m'.trapped.isSome then (m', 1)
        else if m'.thread.pc = 0 then ({ m' with ended := true }, 1)
        else
          let r := methodRun n s m'
          (r.1, r.2 + 1)
    | _ => ({ m with trapped := some cMETHOD_ESCAPE }, 1)

/-- Table 18.6: the thread at a method's entry. -/
def methodThread (entry : Word) (version caller : Nat) : Thread :=
  let g : Vector Word 32 := Vector.replicate 32 0
  { Thread.reset with
    run := .ready
    pc := entry
    g := ((((g.set 2 0xE000000000000000).set 4 (BitVec.ofNat 64 version)).set 5 (BitVec.ofNat 64 caller)).set 8 0x2000000000000000
      |>.set 9 0x4000000000000000).set 10 0x6000000000000000 }

/-- The outcome of a method: 0 done or 1 trapped, the cause, the result bytes, the state after it and the words issued. -/
structure MethodEnd where
  outcome : Nat
  cause : Nat
  result : List Byte
  state : Memory
  words : Nat
  deriving DecidableEq, Repr

/-- Puts back the words of an undo journal, the latest first (R286, R287). -/
def undoJournal (m : Memory) : List (Nat × Word) → Memory
  | [] => m
  | (w, old) :: es => undoJournal (m.putBytes (8 * w % 2 ^ 40) (leBytes old.toNat 8)) es

/-- Runs one method on a state: nothing but the code, the state, the arguments, the version and the caller decides what it does
(R282, R283, R286). -/
def runMethod (codeLo codeLen : Nat) (code : Memory) (stateLen : Nat) (state : Memory) (m : Method) (version caller : Nat)
    (args : List Byte) : MethodEnd :=
  let start : Meth :=
    { upd := m.upd
      codeLo := codeLo
      codeLen := codeLen
      code := code
      stateLen := stateLen
      state := state
      args := Memory.putBytes [] 0 args
      result := []
      stack := []
      journal := []
      trapped := none
      ended := false
      thread := methodThread m.entry version caller }
  let r := methodRun m.budget State.reset start
  match r.1.trapped with
  | some c => ⟨1, c, List.replicate 32 0, undoJournal r.1.state r.1.journal, r.2⟩
  | none => ⟨0, 0, r.1.result.getBytes 0 32, r.1.state, r.2⟩

end Sys2Proof.Machine
end

