-- ==== Sys2Proof/Machine/Scribe.lean ====
section
/-! DEFINITION. Replayed objects: calls, waits, reads, definition and deletion, and the Scribe's replay (18_scribe.md R273 to
R291). -/

namespace Sys2Proof.Machine

open Sys2Proof

/-! ## Logs and versions (R274, R275) -/

/-- The least applied version over the enabled dies. -/
def leastApplied (s : State) (applied : Nat → Nat) (tail : Nat) : Nat :=
  (enabledDies s).foldl (fun m d => min m (applied d)) tail

def Obj.copy (o : Obj) (d : Nat) : ObjCopy := o.copies.toList.getD d ⟨0, [], []⟩
def Obj.setCopy (o : Obj) (d : Nat) (c : ObjCopy) : Obj := { o with copies := o.copies.setIfInBounds d c }
def State.setObj (s : State) (i : Nat) (o : Obj) : State := { s with objects := s.objects.insert i o }

/-- The call log holds 65,536 entries. -/
def logEntries : Nat := 65536

/-- Appends to an object or a Catalogue on their way to the home die. -/
def onTheWay (s : State) (cat : Bool) (id : Nat) : Nat :=
  (s.flights.filter fun f => match f with | .append _ c i _ _ => c == cat && i == id | _ => false).length

/-- The log is full (R275). -/
def Obj.full (s : State) (o : Obj) : Bool := logEntries ≤ o.tail - leastApplied s (fun d => (o.copy d).applied) o.tail
def lastVersion : Nat := 2 ^ 48 - 1

/-- The log without the entries that every enabled die has applied. -/
def keepEntries (least : Nat) (log : List LogEntry) : List LogEntry := log.filter fun e => decide (least < e.version)

/-! ## Who names an object (R273, R277) -/

/-- The object of a number that a thread's context may call; `old` admits one that is being deleted (R279). -/
def objOf (s : State) (t : Tid) (id : Nat) (old : Bool) : Option Obj :=
  match s.objects.find? id with
  | none => none
  | some o => if inSubtree s o.ctx (ctxOf s t) && (old || !o.closing) then some o else none

/-- A method of an object that is of the wanted kind. -/
def Obj.method (o : Obj) (i : Nat) (upd : Bool) : Option Method :=
  match o.methods[i]? with
  | some m => if m.defined && m.upd == upd then some m else none
  | none => none

/-- The caller word of Table 18.6. -/
def callerWord (vc thr ctx : Nat) : Nat := vc + 2 ^ 16 * thr + 2 ^ 32 * ctx

/-- Table 18.3. -/
def scribeStatus (version outcome cause : Nat) : Word := BitVec.ofNat 64 (version + 2 ^ 48 * cause + 2 ^ 56 * outcome)

/-! ## The threads that a deletion waits for (R279) -/

/-- Whether some thread is in a condition, also of a core that is switched out. -/
def anyThread (s : State) (p : Thread → Bool) : Bool := s.cores.any fun e => e.2.threads.toList.any p

def Thread.kept (th : Thread) : Option KeptRead := if th.inh then th.kept1 else th.kept0
def Thread.setKept (th : Thread) (k : Option KeptRead) : Thread := if th.inh then { th with kept1 := k } else { th with kept0 := k }

/-- A thread whose admitted `RREAD` on an object has not ended: it runs, or is issued again after a stop. -/
def readsObj (id : Nat) (th : Thread) : Bool :=
  match th.kept with
  | some k => k.obj == id
  | none => false

/-- Every die has applied the tail, and no admitted call is still to come or running. -/
def objDone (s : State) (id : Nat) (o : Obj) : Bool :=
  (enabledDies s).all (fun d => (o.copy d).applied == o.tail) && onTheWay s false id == 0
    && !anyThread s fun th => readsObj id th || th.waitsFor (.version id)

/-- Returns a context's pool memory to its partition's pool. -/
def freePool (s : State) (x n : Nat) : State :=
  let p := partOf s 9 x
  let c := s.ctx p
  s.setCtx p { c with poolUsed := c.poolUsed - n }

def freeObj (s : State) (id : Nat) (o : Obj) : State := freePool { s with objects := s.objects.erase id } o.ctx o.poolUse

/-- A deletion whose thread is gone ends by itself. -/
def reapObj (s : State) (id : Nat) : State :=
  match s.objects.find? id with
  | none => s
  | some o => if o.closing && objDone s id o && !anyThread s (·.waitsFor (.deleting false id)) then freeObj s id o else s

/-! ## Budgets (R289): the contexts that wait for the Scribe of a die -/

def scribeWaiters (s : State) (d : Nat) : List Nat :=
  let homeOf (cat : Bool) (id : Nat) : Option Nat :=
    if cat then (s.cats.find? id).map (·.home) else (s.objects.find? id).map (·.home)
  let calls := s.flights.filterMap fun f => match f with
    | .append src cat id _ _ => if homeOf cat id == some d then some (ctxOf s src) else none
    | _ => none
  let reads := (s.cores.map fun e => if dieOf s e.1 == d then (List.range 16).filterMap fun i =>
      if (e.2.thread i).waitsFor .scribeRead || (e.2.thread i).waitsFor .search then some (ctxOf s ⟨e.1, i⟩) else none
    else []).flatten
  calls ++ reads

/-! ## `OBJNEW` (R276, R278) -/

/-- The method entry i of a parameter block. -/
def blockMethod (b : List Byte) (i : Nat) : Method :=
  let kind := blkNat b (64 + 16 * i + 12) 1
  ⟨BitVec.ofNat 64 (blkNat b (64 + 16 * i) 8), blkNat b (64 + 16 * i + 8) 4, kind % 2 = 1, kind.testBit 7⟩

/-- Table 18.5 for the header: reasons 1 to 3. -/
def objHeaderReason (s : State) (b : List Byte) : Option Nat :=
  let size := blkNat b 0 8
  let code := blkNat b 16 8
  let len := blkNat b 24 4
  let n := blkNat b 30 1
  if size < 64 ∨ 16777216 < size ∨ size % 64 ≠ 0 then some 1
  else if !(enabledDies s).contains (blkNat b 28 1) ∨ 1 < blkNat b 29 1 then some 2
  else if code % 4 ≠ 0 ∨ len < 4 ∨ 65536 < len ∨ len % 4 ≠ 0 ∨ n < 1 ∨ 64 < n then some 3
  else none

/-- Reason 4: the methods. -/
def objMethodReason (b : List Byte) (ms : List Method) : Bool :=
  let code := blkNat b 16 8
  let len := blkNat b 24 4
  !ms.any (·.defined) || ms.any fun m => m.defined &&
    (m.budget < 1 || 2 ^ 20 < m.budget || m.entry.toNat < code || code + len ≤ m.entry.toNat || m.entry.toNat % 4 != 0)

/-- Bytes of the pool that an object takes: its copies on every die, its log and its result rings (log 9). -/
def objUse (s : State) (b : List Byte) : Nat := (enabledDies s).length * (blkNat b 0 8 + blkNat b 24 4) + Config.poolFixed

/-- What the reductions in progress of a partition stage in its pool (R376; log 33). -/
def stagedPool (s : State) (p : Nat) : Nat :=
  (s.contribs.filter fun c => c.part == p && c.form != 1).foldl (fun n c => n + Config.staging c.rank c.count) 0

def poolFree (s : State) (x : Nat) : Nat :=
  let p := partOf s 9 x
  (s.ctx p).pool - (s.ctx p).poolUsed - stagedPool s p
def takePool (s : State) (x n : Nat) : State :=
  let p := partOf s 9 x
  let c := s.ctx p
  s.setCtx p { c with poolUsed := c.poolUsed + n }

/-- The lowest number from 0 to 255 that is free. -/
def lowestFree (used : Nat → Bool) : Option Nat := (List.range 256).find? fun i => !used i

/-- An object as `OBJNEW` makes it. -/
def newObj (x : Nat) (b : List Byte) (init code : List Byte) (use : Nat) : Obj where
  ctx := x
  home := blkNat b 28 1
  size := blkNat b 0 8
  inArchive := blkNat b 29 1 == 1
  code := BitVec.ofNat 64 (blkNat b 16 8)
  codeLen := blkNat b 24 4
  codeBytes := Memory.putBytes [] 0 code
  methods := (List.range (blkNat b 30 1)).map (blockMethod b)
  tail := 0
  log := []
  copies := Vector.replicate 4 ⟨0, Memory.putBytes [] 0 init, []⟩
  closing := false
  poolUse := use
  last := none

/-! ## Replay (R283) -/

/-- Entry e applied to one die's copy: the copy after it and the words that its method issued. -/
def applyEntry (o : Obj) (c : ObjCopy) (e : LogEntry) : ObjCopy × MethodEnd :=
  match o.methods[e.method]? with
  | none => (c, ⟨1, cMETHOD_ESCAPE, List.replicate 32 0, c.state, 0⟩)
  | some m =>
    let r := runMethod (field o.code 60 0) o.codeLen o.codeBytes o.size c.state m e.version (callerWord e.callerVc e.callerThr e.callerCtx) e.args
    ({ c with
       applied := e.version
       state := r.state
       ring := (⟨e.version, r.outcome, r.cause, r.result⟩ :: c.ring).take 4096 }, r)

/-- The Scribe of a die applies the next entry of an object, charged to its caller's context. -/
def replayObj (s : State) (id d : Nat) (o : Obj) : State :=
  let c := o.copy d
  match o.log.find? fun e => e.version == c.applied + 1 with
  | none => s
  | some e =>
    let r := applyEntry o c e
    let o := o.setCopy d r.1
    let mark (f : LogEntry) : LogEntry := if d = o.home ∧ f.version = e.version then { f with st := r.2.outcome + 1, cause := r.2.cause } else f
    let least := leastApplied s (fun i => (o.copy i).applied) o.tail
    let s := s.setObj id { o with log := keepEntries least (o.log.map mark) }
    if (s.contexts.find? e.callerCtx).isSome then chargeAlways s e.callerCtx d 2 r.2.words else s

/-! ## `RREAD` (R282) -/

/-- The selector's fields (R277). -/
def selObj (w : Word) : Nat := field w 7 0
def selMethod (w : Word) : Nat := field w 13 8
def selVersion (w : Word) : Nat := field w 63 16

/-- `RREAD` and `RREAD.local`: the target is fixed at the first issue; the thread parks until the method has run. -/
def rreadBody (a b d : Nat) (localMode : Bool) : Body := fun s t => do
  let th := s.thread t
  let w := th.readG a
  let id := selObj w
  let k ← ownBlock s t (th.readG b) 128 32 3
  let again := th.kept.filter fun r => r.chain == th.chainStart && r.obj == id && r.method == selMethod w
  let o ← match objOf s t id again.isSome with
    | some o => Except.ok o
    | none => Except.error (.trap cOBJ_ABSENT w)
  if (o.method (selMethod w) false).isNone then throw (.trap cOPERAND_RANGE w)
  match again.bind (·.done) with
  | some (v, outcome, cause, bytes) =>
    let s ← storeAt s t k.1 (k.2.drop 96) bytes
    return (s.setThread t (((s.thread t).setKept none).putG d (scribeStatus v outcome cause)), .seq)
  | none =>
    let q ← loadAt s t k.1 (k.2.take 96)
    let s := q.1
    let m := selVersion w
    let kept ← match again with
      | some r => Except.ok (if th.turn.isSome then r else { r with args := q.2 })
      | none =>
        if o.tail < m then Except.error (.trap cVERSION_RANGE (BitVec.ofNat 64 m))
        else
          let now := if localMode then (o.copy (dieOf s t.core)).applied else o.tail
          Except.ok (⟨th.chainStart, id, selMethod w, max m now, q.2, none⟩ : KeptRead)
    let th := dropKept (s.thread t)
    return (park (s.setThread t (th.setKept (some kept))) t false .scribeRead, .placed)

/-- The read that a parked thread waits for, and its object. -/
def pendingRead (s : State) (t : Tid) : Option (KeptRead × Obj) :=
  let th := s.thread t
  match th.run, th.kept with
  | .parkedEngine .scribeRead _, some k => match s.objects.find? k.obj with
    | some o => if k.done.isNone then some (k, o) else none
    | none => none
  | _, _ => none

/-- `RCALL` and `RCALL.nb` (R280). -/
def rcallBody (a b d : Nat) (nb : Bool) : Body := fun s t => do
  let th := s.thread t
  let w := th.readG a
  let id := selObj w
  let k ← ownBlock s t (th.readG b) 96 32 rRD
  let o ← match objOf s t id false with
    | some o => Except.ok o
    | none => Except.error (.trap cOBJ_ABSENT w)
  if (o.method (selMethod w) true).isNone then throw (.trap cOPERAND_RANGE w)
  if lastVersion ≤ o.tail then throw (.trap cOPERAND_RANGE w)
  if o.full s then
    if nb then return (s.setThread t (th.putG d (BitVec.allOnes 64)), .seq)
    else throw (.park false .reissue)
  let q ← loadAt s t k.1 k.2
  let s := drainPosted q.1 t
  let x := ctxOf s t
  let e : LogEntry := ⟨0, selMethod w, 0, vcIn s x t.core, t.thr, x, 0, q.2, 0, [], 0⟩
  return ({ s with flights := s.flights ++ [.append t false id e w] }, .sent false d)

/-- An append pays one token of the Scribe, and one flit where it crosses to another die (R289, R331, log 33). -/
def payAppend (s : State) (src : Tid) (home : Nat) : Option State :=
  let here := dieOf s (homeTid s src).core
  (spend s (ctxOf s src) home 2 1 (scribeWaiters s home)).bind fun z => if here = home then some z else inject z (ctxOf s src) [(here, 1)]

/-- The home die at the cycle of an append: of two in one cycle the lower source number is first (R291), so one that would come second
and be before the last comes in the next cycle. -/
def appendCycle (s : State) (src : Tid) (home : Nat) (last : Option (Nat × Nat)) : State :=
  match last with
  | some (cyc, n) => if dieCycle s home = cyc ∧ sourceOf s (homeTid s src) < n then advanceTo s home (cyc + 1) else s
  | none => s

/-- R280: the append at an object's home die. None while no token covers it, or the log is full: DESIGN CHOICE (log 85): one that was
on its way when the log filled waits there. -/
def appendObj (s : State) (src : Tid) (id : Nat) (e : LogEntry) (eval : Word) : Option State :=
  match s.objects.find? id with
  | none => some (replyTrap s src cOBJ_ABSENT eval)
  | some o =>
    if lastVersion ≤ o.tail then some (replyTrap s src cOPERAND_RANGE eval)
    else match (if o.full s then none else payAppend s src o.home) with
      | none => none
      | some s =>
        let v := o.tail + 1
        let s := appendCycle s src o.home o.last
        let s := s.setObj id { o with
          tail := v
          log := o.log ++ [{ e with version := v }]
          last := some (dieCycle s o.home, sourceOf s (homeTid s src)) }
        some (reply s src (BitVec.ofNat 64 v))

/-- RCALL (R280): Appends an update call to an object's log, parking on a full log -/
def execRcall (s : BitVec 3) (d a b : BitVec 5) (st : State) : Out :=
  issue { word := (106#7 ++ s ++ d ++ a ++ b ++ 0#7), stall := s.toNat, reads := [(.g, a.toNat), (.g, b.toNat)], cls := .irrev, home := true } st (rcallBody a.toNat b.toNat d.toNat false)

/-- RCALL_NB (R280): As RCALL, but returns busy on a full log -/
def execRcallNb (s : BitVec 3) (d a b : BitVec 5) (st : State) : Out :=
  issue { word := (106#7 ++ s ++ d ++ a ++ b ++ 1#7), stall := s.toNat, reads := [(.g, a.toNat), (.g, b.toNat)], cls := .irrev, home := true } st (rcallBody a.toNat b.toNat d.toNat true)

/-- RREAD (R282): Runs a read-only method on the local copy at a version at least the tail -/
def execRread (s : BitVec 3) (d a b : BitVec 5) (st : State) : Out :=
  issue { word := (106#7 ++ s ++ d ++ a ++ b ++ 2#7), stall := s.toNat, reads := [(.g, a.toNat), (.g, b.toNat)], cls := .spec, home := true, keeps := true } st (rreadBody a.toNat b.toNat d.toNat false)

/-- RREAD_LOCAL (R282): Runs a read-only method at the local applied version -/
def execRreadLocal (s : BitVec 3) (d a b : BitVec 5) (st : State) : Out :=
  issue { word := (106#7 ++ s ++ d ++ a ++ b ++ 3#7), stall := s.toNat, reads := [(.g, a.toNat), (.g, b.toNat)], cls := .spec, home := true, keeps := true } st (rreadBody a.toNat b.toNat d.toNat true)

/-- RWAIT (R281): Waits for a version to be applied locally and returns its result -/
def execRwait (s : BitVec 3) (d a b : BitVec 5) (st : State) : Out :=
  issue { word := (106#7 ++ s ++ d ++ a ++ b ++ 4#7), stall := s.toNat, reads := [(.g, a.toNat), (.g, b.toNat)], cls := .irrev, home := true } st fun z t => do
    let th := z.thread t
    let w := th.readG a.toNat
    let id := selObj w
    let v := selVersion w
    let k ← ownBlock z t (th.readG b.toNat) 32 32 rWR
    let o ← match objOf z t id (th.waitsFor (.version id)) with
      | some o => Except.ok o
      | none => Except.error (.trap cOBJ_ABSENT w)
    if o.tail < v then throw (.trap cVERSION_RANGE (BitVec.ofNat 64 v))
    let c := o.copy (dieOf z t.core)
    if c.applied < v then throw (.park false (.version id))
    if v = 0 then
      let z ← storeAt z t k.1 k.2 (List.replicate 32 0)
      return (z.setThread t ((z.thread t).putG d.toNat (scribeStatus 0 0 0)), .seq)
    match c.ring.find? (fun r => r.version == v) with
    | some r =>
      let z ← storeAt z t k.1 k.2 r.bytes
      return (z.setThread t ((z.thread t).putG d.toNat (scribeStatus v r.outcome r.cause)), .seq)
    | none => return (z.setThread t (th.putG d.toNat (scribeStatus v 2 0)), .seq)

/-- OBJNEW (R278): Creates a replayed object on every die -/
def execObjnew (s : BitVec 3) (d a b : BitVec 5) (st : State) : Out :=
  issue { word := (107#7 ++ s ++ d ++ a ++ b ++ 0#7), stall := s.toNat, reads := [(.g, a.toNat)], cls := .irrev } st fun z t => do
    let addr := (z.thread t).readG a.toNat
    let h ← anyBlock z t addr 64 64
    let blk ← anyBlock z t addr (64 + 16 * blkNat h 30 1) 64
    match objHeaderReason z h with
    | some r => throw (.trap cOBJ_MALFORMED (BitVec.ofNat 64 r))
    | none => pure ()
    if objMethodReason blk ((List.range (blkNat h 30 1)).map (blockMethod blk)) then throw (.trap cOBJ_MALFORMED 4)
    let id ← match lowestFree fun i => (z.objects.find? i).isSome with
      | some i => Except.ok i
      | none => Except.error (.trap cOBJ_MALFORMED 5)
    let x := ctxOf z t
    let use := objUse z blk
    if poolFree z x < use then throw (.trap cOBJ_MALFORMED 6)
    let ia := BitVec.ofNat 64 (blkNat blk 8 8)
    let init ← if ia = 0 then Except.ok [] else anyBlock z t ia (blkNat blk 0 8) 1
    let code ← anyBlock z t (BitVec.ofNat 64 (blkNat blk 16 8)) (blkNat blk 24 4) 1
    let z := useBlocks z t ([(addr, blk.length)] ++ (if ia = 0 then [] else [(ia, init.length)]) ++ [(BitVec.ofNat 64 (blkNat blk 16 8), code.length)])
    let z := takePool (z.setObj id (newObj x blk init code use)) x use
    return (z.setThread t ((z.thread t).putG d.toNat (BitVec.ofNat 64 id)), .seq)

/-- OBJDEL (R279): Deletes an object once every die has applied its tail -/
def execObjdel (s : BitVec 3) (d a b : BitVec 5) (st : State) : Out :=
  issue { word := (107#7 ++ s ++ d ++ a ++ b ++ 1#7), stall := s.toNat, reads := [(.g, a.toNat)], cls := .irrev } st fun z t =>
    let th := z.thread t
    let w := th.readG a.toNat
    let id := field w 7 0
    match objOf z t id (th.waitsFor (.deleting false id)) with
    | none => .error (.trap cOBJ_ABSENT w)
    | some o =>
      if objDone z id o then .ok (freeObj z id o, .seq)
      else .ok (park (z.setObj id { o with closing := true }) t false (.deleting false id), .placed)

/-- RREAD_RUN (R282): Once the local applied version reaches the target, the read-only method runs and returns -/
def execRreadRun (c t : Nat) (st : State) : Out :=
  let t : Tid := ⟨c, t⟩
  match pendingRead st t with
  | none => .next st
  | some (k, o) =>
    let d := dieOf st c
    let cp := o.copy d
    let x := ctxOf st t
    if cp.applied < k.target || !dieRuns st d then .next st
    else match o.methods[k.method]?, spend st x d 2 1 (scribeWaiters st d) with
      | some m, some z =>
        let r := runMethod (field o.code 60 0) o.codeLen o.codeBytes o.size cp.state m cp.applied (callerWord (vcIn st x c) t.thr x) k.args
        let z := chargeAlways z x d 2 (r.words - 1)
        let z := z.setThread t ((z.thread t).setKept (some { k with done := some (cp.applied, r.outcome, r.cause, r.result) }))
        .next (lapse (wake z t))
      | _, _ => .next st

end Sys2Proof.Machine
end

