-- ==== Sys2Proof/Machine/Catalogue.lean ====
section
/-! DEFINITION. The Catalogue: stored vectors, distances, searches, stores and deletions, and the appends and the replay that it
shares with replayed objects (19_catalogue.md R293 to R315; 18 R280, R283). -/

namespace Sys2Proof.Machine

open Sys2Proof

/-! ## Stored vectors (R294, R295) -/

/-- The FP32 bits of a stored element, by FMT: bf16, e4m3 or mq4 under the entry's scale. -/
def storedElem (fmt scale c : Nat) : Nat :=
  match fmt with
  | 0 => (encodeF fp32 0 false (decodeF bf16 c)).1
  | 1 => (encodeF fp32 0 false (decodeF e4m3 c)).1
  | _ => mq4Decode c scale

def CatEntry.vector (fmt : Nat) (e : CatEntry) : List Nat := e.codes.map (storedElem fmt e.scale.toNat)

/-- The D FP32 values of a block from byte 64. -/
def blockVector (b : List Byte) (dim : Nat) : List Nat := (List.range dim).map fun i => blkNat b (64 + 4 * i) 4

/-- The first element that is NaN or infinite. -/
def badElement (xs : List Nat) : Option Nat :=
  xs.findIdx? fun x => (decodeF fp32 x).isNan || (decodeF fp32 x).isInf

/-! ## Distance (R296) -/

/-- The exact sum of a chunk's products or squared differences. -/
def chunkSum (l2 : Bool) : List Nat → List Nat → Dy
  | q :: qs, e :: es =>
    let a := (decodeF fp32 q).dy
    let b := (decodeF fp32 e).dy
    let d := if l2 then (a.sub b).mul (a.sub b) else a.mul b
    d.add (chunkSum l2 qs es)
  | _, _ => Dy.zero

/-- The running sum over the chunks of 16, ascending, each rounded to FP32 (fuel: the number of chunks). -/
def chunks (l2 : Bool) : Nat → Nat → List Nat → List Nat → Nat
  | 0, acc, _, _ => acc
  | n + 1, acc, q, e =>
    let p := (encodeF fp32 0 false (FV.ofDy false (chunkSum l2 (q.take 16) (e.take 16)))).1
    chunks l2 n (addF fp32 0 (decodeF fp32 acc) (decodeF fp32 p)).1 (q.drop 16) (e.drop 16)

/-- The distance from a query to a decoded vector: squared L2 for metric 0, else the negated inner product. -/
def distance (metric : Nat) (q e : List Nat) : Nat :=
  let acc := chunks (metric == 0) (q.length / 16) 0 q e
  if metric = 0 then acc else if (decodeF fp32 acc).isNan then fp32.nanBits else Nat.xor acc 0x80000000

/-- Distances in order: a NaN after every other and equal to every NaN. -/
def distLt (a b : Nat) : Bool :=
  let x := decodeF fp32 a
  let y := decodeF fp32 b
  if x.isNan then false else if y.isNan then true else ltFV x y

/-- The order of members: (d, key, slot). -/
def memberLt (a b : Nat × Word × Nat) : Bool :=
  distLt a.1 b.1 || (!distLt b.1 a.1 && (a.2.1.ult b.2.1 || (a.2.1 == b.2.1 && a.2.2 < b.2.2)))

/-! ## Encoding (R295) -/

/-- x ÷ r rounded to FP32 under RNE, for finite x and positive r. -/
def divFp32 (x r : Nat) : Nat :=
  match decodeF fp32 x, decodeF fp32 r with
  | .fin n m e, .fin _ m2 e2 => if m = 0 then (if n then 0x80000000 else 0) else (divMag fp32 0 n m m2 (e - e2)).1
  | _, _ => fp32.nanBits

/-- The greater of two magnitudes. -/
def maxMag (xs : List Nat) : Nat := xs.foldl (fun m x => max m (x % 2 ^ 31)) 0

/-- The codes and the scale of a source vector, or the EVAL of VECTOR_VALUE. -/
def encodeVector (fmt metric : Nat) (xs : List Nat) : Except Nat (List Nat × Nat) :=
  match badElement xs with
  | some i => .error i
  | none =>
    let r := if metric = 2 then sqrtF (decodeF fp32 (chunks false (xs.length / 16) 0 xs xs)) else 1
    if r = 0 ∨ r = fp32.infBits then .error xs.length
    else
      let xs := if metric = 2 then xs.map (divFp32 · r) else xs
      match fmt with
      | 0 => .ok (xs.map fun x => (encodeF bf16 0 true (decodeF fp32 x)).1, 0)
      | 1 => .ok (xs.map fun x => (encodeF e4m3 0 true (decodeF fp32 x)).1, 0)
      | _ =>
        let s := maxMag xs
        .ok (xs.map fun x => if s = 0 then 7 else nearest (decodeF fp32 x).dy (decodeF fp32 s).dy, s)

/-! ## The graph (R298 to R304) -/

def Cat.copy (c : Cat) (d : Nat) : CatCopy := c.copies.toList.getD d ⟨0, []⟩
def Cat.setCopy (c : Cat) (d : Nat) (x : CatCopy) : Cat := { c with copies := c.copies.setIfInBounds d x }
def State.setCat (s : State) (i : Nat) (c : Cat) : State := { s with cats := s.cats.insert i c }
def Cat.full (s : State) (c : Cat) : Bool := logEntries ≤ c.tail - leastApplied s (fun d => (c.copy d).applied) c.tail

def emptyEntry : CatEntry := ⟨0, [], 0, 0, none, []⟩
def entryAt (es : List CatEntry) (i : Nat) : CatEntry := es.getD i emptyEntry

/-- R298. -/
def visibleAt (s : Nat) (e : CatEntry) : Bool := e.commit ≤ s && match e.delete with | some v => decide (s < v) | none => true

/-- R299: the list that a search at s reads, and whether it is older than it should be. -/
def listVersion (s : Nat) (ls : List (Nat × List Nat)) : List Nat × Bool :=
  match ls.find? fun l => decide (l.1 ≤ s) with
  | some l => (l.2, false)
  | none => ((ls.getLastD (0, [])).2, true)

/-- The place of a member in the order of R296. -/
def memberKey (es : List CatEntry) (m : Member) : Nat × Word × Nat := (m.d.toNat, (entryAt es m.slot).key, m.slot)

/-- W in (d, key, slot) order with one more member. -/
def insertMember (es : List CatEntry) (m : Member) (w : List Member) : List Member :=
  insertBy (fun a b => memberLt (memberKey es a) (memberKey es b)) m w

def memberOf (fmt metric : Nat) (es : List CatEntry) (q : List Nat) (i : Nat) : Member :=
  ⟨i, BitVec.ofNat 32 (distance metric q ((entryAt es i).vector fmt)), false⟩

/-- W at the start: the entry-set members committed by s. -/
def startMembers (fmt metric : Nat) (es : List CatEntry) (q : List Nat) (s : Nat) : List Member :=
  ((List.range (min 4 es.length)).filter fun i => (entryAt es i).commit ≤ s).foldl
    (fun w i => insertMember es (memberOf fmt metric es q i) w) []

/-- Marks a member expanded. -/
def markExpanded (i : Nat) (w : List Member) : List Member := w.map fun m => if m.slot = i then { m with expanded := true } else m

/-- One pass of R299's loop; none when every member is expanded. -/
def walkPass (fmt metric : Nat) (es : List CatEntry) (q : List Nat) (beam s : Nat) (w : List Member) (visited : List Nat) (drift : Bool) :
    Option (List Member × List Nat × Bool) :=
  match w.find? fun m => !m.expanded with
  | none => none
  | some c =>
    let l := listVersion s (entryAt es c.slot).lists
    let fresh := addNew [] (l.1.filter fun n => !visited.contains n)
    let w := fresh.foldl (fun w n => insertMember es (memberOf fmt metric es q n) w) (markExpanded c.slot w)
    some (w.take beam, visited ++ fresh, drift || l.2)

/-- BeamSearch (R299): W, the visited slots and DRIFT (fuel: a member is expanded once). -/
def beamSearch (fmt metric : Nat) (es : List CatEntry) (q : List Nat) (beam s : Nat) :
    Nat → List Member → List Nat → Bool → List Member × List Nat × Bool
  | 0, w, vis, f => (w, vis, f)
  | n + 1, w, vis, f =>
    match walkPass fmt metric es q beam s w vis f with
    | none => (w, vis, f)
    | some (w, vis, f) => beamSearch fmt metric es q beam s n w vis f

/-- α × a ≤ b, of exact values. -/
def pruned (alpha a b : Nat) : Bool := !ltFV (decodeF fp32 b) (mulFV (decodeF fp32 alpha) (decodeF fp32 a)).1

/-- R304's loop over the candidates in order, each with its distance to p; the distances computed are counted. -/
def pruneLoop (vec : Nat → List Nat) (alpha : Nat) : Nat → List (Nat × Nat) → List Nat × Nat
  | 0, _ => ([], 0)
  | _, [] => ([], 0)
  | n + 1, (c, _) :: ps =>
    let r := pruneLoop vec alpha n (ps.filter fun p => !pruned alpha (distance 0 (vec c) (vec p.1)) p.2)
    (c :: r.1, r.2 + ps.length)

/-- Prune(p, P) (R304). -/
def prune (fmt degree alpha : Nat) (es : List CatEntry) (p : Nat) (cands : List Nat) : List Nat × Nat :=
  let vec (i : Nat) : List Nat := (entryAt es i).vector fmt
  let ds := cands.map fun c => (c, distance 0 (vec p) (vec c))
  let order := sortBy (fun (a b : Nat × Nat) => memberLt (a.2, (entryAt es a.1).key, a.1) (b.2, (entryAt es b.1).key, b.1)) ds
  let r := pruneLoop vec alpha degree order
  (r.1, r.2 + cands.length)

def setEntry (es : List CatEntry) (i : Nat) (e : CatEntry) : List CatEntry := es.set i e

/-- R300: the written version becomes the newer retained one. -/
def writeList (es : List CatEntry) (i v : Nat) (l : List Nat) : List CatEntry :=
  let e := entryAt es i
  setEntry es i { e with lists := (v, l) :: e.lists.take 1 }

/-- Not deleted at or before a version. -/
def keptAt (es : List CatEntry) (v i : Nat) : Bool := match (entryAt es i).delete with | some d => decide (v < d) | none => true

/-- R303: the store of version v, and the distances that it computes. -/
def applyStore (c : Cat) (es : List CatEntry) (e : LogEntry) : List CatEntry × Nat :=
  let v := e.version
  let id := es.length
  let new : CatEntry := ⟨e.key, e.codes, e.scale, v, none, [(v, [])]⟩
  let es1 := es ++ [new]
  if id = 0 then (es1, 0)
  else
    let q := new.vector c.fmt
    let w := startMembers c.fmt c.metric es q (v - 1)
    let r := beamSearch c.fmt c.metric es q c.beam (v - 1) (es.length + 1) w (w.map (·.slot)) false
    let mine := prune c.fmt c.degree c.alpha.toNat es1 id (r.2.1.filter (keptAt es (v - 1)))
    let es2 := setEntry es1 id { new with lists := [(v, mine.1)] }
    mine.1.foldl (fun acc n =>
      let l := ((entryAt acc.1 n).lists.headD (0, [])).2
      if l.length < c.degree then (writeList acc.1 n v (l ++ [id]), acc.2)
      else
        let p := prune c.fmt c.degree c.alpha.toNat acc.1 n ((l ++ [id]).filter (keptAt es2 (v - 1)))
        (writeList acc.1 n v p.1, acc.2 + p.2)) (es2, r.2.1.length + mine.2)

/-- R305: the deletion of version v. -/
def applyDelete (es : List CatEntry) (e : LogEntry) : List CatEntry :=
  es.map fun x => if x.key = e.key ∧ visibleAt (e.version - 1) x then { x with delete := some e.version } else x

/-- The Scribe of a die applies the next entry of a Catalogue, charged to its caller's context at one token a distance (R313). -/
def replayCat (s : State) (id d : Nat) (c : Cat) : State :=
  let cp := c.copy d
  match c.log.find? fun e => e.version == cp.applied + 1 with
  | none => s
  | some e =>
    let r := if e.method = 0 then applyStore c cp.entries e else (applyDelete cp.entries e, 0)
    let c := c.setCopy d ⟨e.version, r.1⟩
    let mark (f : LogEntry) : LogEntry := if d = c.home ∧ f.version = e.version then { f with st := 1 } else f
    let least := leastApplied s (fun i => (c.copy i).applied) c.tail
    let s := s.setCat id { c with log := keepEntries least (c.log.map mark) }
    if (s.contexts.find? e.callerCtx).isSome then chargeAlways s e.callerCtx d 2 r.2 else s

/-! ## Who names a Catalogue; its deletion (R306, R307) -/

def catOf (s : State) (t : Tid) (id : Nat) (old : Bool) : Option Cat :=
  match s.cats.find? id with
  | none => none
  | some c => if inSubtree s c.ctx (ctxOf s t) && (old || !c.closing) then some c else none

/-- A thread whose admitted `CNEAR` on a Catalogue has not ended: it runs, or is issued again after a stop (R307, R314). -/
def searchesCat (id : Nat) (th : Thread) : Bool :=
  (if th.inh then th.snap1 else th.snap0).any fun k => k.cat == id

def catDone (s : State) (id : Nat) (c : Cat) : Bool :=
  (enabledDies s).all (fun d => (c.copy d).applied == c.tail) && onTheWay s true id == 0 && !anyThread s (searchesCat id)

def freeCat (s : State) (id : Nat) (c : Cat) : State := freePool { s with cats := s.cats.erase id } c.ctx c.poolUse

def reapCat (s : State) (id : Nat) : State :=
  match s.cats.find? id with
  | none => s
  | some c => if c.closing && catDone s id c && !anyThread s (·.waitsFor (.deleting true id)) then freeCat s id c else s

/-! ## `CATNEW` (R293, R307) -/

/-- What an entry of a Catalogue and its lists take of the pool over the dies (log 9). -/
def entryUse (s : State) (dim fmt degree : Nat) : Nat := (enabledDies s).length * Config.poolPerEntry dim fmt degree

/-- The capacity: CAP, or the most that the pool holds, up to 2^27. -/
def catCapacity (free per cap : Nat) : Option Nat :=
  if free < Config.poolFixed then none
  else
    let n := if per = 0 then 2 ^ 27 else min (2 ^ 27) ((free - Config.poolFixed) / per)
    if cap = 0 then (if n = 0 then none else some n) else if 2 ^ 27 < cap ∨ (per ≠ 0 ∧ free - Config.poolFixed < cap * per) then none else some cap

/-- Table 19.5, reasons 1 to 5. -/
def catReason (s : State) (b : List Byte) : Option Nat :=
  let dim := blkNat b 0 2
  let alpha := decodeF fp32 (blkNat b 8 4)
  if dim < 16 ∨ 2048 < dim ∨ dim % 16 ≠ 0 then some 1
  else if 2 < blkNat b 2 1 ∨ 2 < blkNat b 3 1 then some 2
  else if blkNat b 4 1 < 8 ∨ 64 < blkNat b 4 1 ∨ blkNat b 6 2 < 1 ∨ 512 < blkNat b 6 2 then some 3
  else if alpha.isNan ∨ alpha.isInf ∨ ltFV alpha (decodeF fp32 0x3F800000) then some 4
  else if blkNat b 5 1 ≠ 0xFF ∧ !(enabledDies s).contains (blkNat b 5 1) then some 5
  else none

/-- A Catalogue as `CATNEW` makes it. -/
def newCat (x here : Nat) (b : List Byte) (cap use : Nat) : Cat where
  ctx := x
  home := if blkNat b 5 1 = 0xFF then here else blkNat b 5 1
  dim := blkNat b 0 2
  fmt := blkNat b 2 1
  metric := blkNat b 3 1
  degree := blkNat b 4 1
  beam := blkNat b 6 2
  alpha := BitVec.ofNat 32 (blkNat b 8 4)
  cap := cap
  stored := 0
  tail := 0
  log := []
  known := 0
  told := []
  copies := Vector.replicate 4 ⟨0, []⟩
  closing := false
  poolUse := use
  last := none

/-! ## Appends (R280, R308, R309) -/

/-- `CSTV` is method 0 of a Catalogue and `CDEL` method 1 in its log. -/
def catCall (s : State) (t : Tid) (store : Bool) (key : Word) (codes : List Nat) (scale : Nat) : LogEntry :=
  let x := ctxOf s t
  let h := homeTid s t
  ⟨0, if store then 0 else 1, 0, vcIn s x h.core, h.thr, x, 0, [], key, codes, BitVec.ofNat 32 scale⟩

/-- The append at a Catalogue's home die; the capacity is checked there too, for stores that were on their way together. -/
def appendCat (s : State) (src : Tid) (id : Nat) (e : LogEntry) (eval : Word) : Option State :=
  match s.cats.find? id with
  | none => some (replyTrap s src cCAT_ABSENT eval)
  | some c =>
    if e.method = 0 ∧ c.cap ≤ c.stored then some (replyTrap s src cCAT_FULL (BitVec.ofNat 64 c.cap))
    else if lastVersion ≤ c.tail then some (replyTrap s src cOPERAND_RANGE eval)
    else match (if c.full s then none else payAppend s src c.home) with
      | none => none
      | some s =>
        let v := c.tail + 1
        let s := appendCycle s src c.home c.last
        let s := s.setCat id { c.tell (homeTid s src) v with
          tail := v
          stored := if e.method = 0 then c.stored + 1 else c.stored
          log := c.log ++ [{ e with version := v }]
          last := some (dieCycle s c.home, sourceOf s (homeTid s src)) }
        some (reply s src (BitVec.ofNat 64 v))

/-! ## Searches (R297, R301, R302, R310) -/

/-- R310: the first bad field of a search block's header: its offset and value. -/
def searchBlockBad (b : List Byte) : Option (Nat × Nat) :=
  let k := blkNat b 1 1
  let l := blkNat b 2 2
  if k < 1 ∨ 64 < k then some (1, k)
  else if l < k ∨ 512 < l then some (2, l)
  else if blkNat b 4 1 / 2 ≠ 0 then some (4, blkNat b 4 1)
  else ((List.range 59).find? fun i => blkNat b (5 + i) 1 != 0).map fun i => (5 + i, blkNat b (5 + i) 1)

def Thread.keptSnap (th : Thread) : Option KeptSnap := if th.inh then th.snap1 else th.snap0
def Thread.setKeptSnap (th : Thread) (k : Option KeptSnap) : Thread := if th.inh then { th with snap1 := k } else { th with snap0 := k }

/-- The first k members that are visible (R301). -/
def found (es : List CatEntry) (q : Search) (s : Nat) : List Member := ((q.w.filter fun m => visibleAt s (entryAt es m.slot)).take q.k)

/-- The results of a search as they are written from byte 64 + 4D (Table 19.3). -/
def resultBytes (es : List CatEntry) (ms : List Member) (k : Nat) : List Byte :=
  (ms.map fun m => leBytes (entryAt es m.slot).key.toNat 8 ++ leBytes m.d.toNat 4 ++ leBytes 0 4).flatten
    ++ (List.replicate (k - ms.length) (leBytes (2 ^ 64 - 1) 8 ++ leBytes 0x7F800000 4 ++ leBytes 0 4)).flatten

/-- Table 19.4. -/
def searchStatus (s n : Nat) (drift : Bool) : Word := BitVec.ofNat 64 (s + 2 ^ 48 * n + if drift then 2 ^ 56 else 0)

/-- A search that ends writes its results; one that has not ended goes on; a first issue, or one after a stop, starts (R314). -/
def cnearBody (a b d : Nat) (localMode : Bool) : Body := fun s t => do
  let th := s.thread t
  let addr := th.readG a
  let h ← ownBlock s t addr 64 64 3
  let hb := readPlaces (settlePosted s t h.2) h.2
  -- a search under way has read its block at issue
  let id := match th.search with
    | some q => q.cat
    | none => blkNat hb 0 1
  let again := th.keptSnap.filter fun r => r.chain == th.chainStart && r.cat == id
  let c ← match catOf s t id again.isSome with
    | some c => Except.ok c
    | none => Except.error (.trap cCAT_ABSENT addr)
  -- the query is read before its fields are tested
  let _ ← ownBlock s t addr (64 + 4 * c.dim) 64 3
  match (if th.search.isSome then none else searchBlockBad hb) with
  | some (o, v) => throw (.trap cOPERAND_RANGE (BitVec.ofNat 64 (o + 65536 * v)))
  | none => pure ()
  let k := match th.search with
    | some q => q.k
    | none => blkNat hb 1 1
  let blk ← ownBlock s t addr (64 + 4 * c.dim + 16 * k) 64 3
  match th.search with
  | some q =>
    if !q.done then return (park s t false .search, .placed)
    else
      let snap := q.snap.getD 0
      let es := (c.copy (dieOf s t.core)).entries
      let ms := found es q snap
      let s ← storeAt s t blk.1 ((blk.2.drop (64 + 4 * c.dim)).take (16 * q.k)) (resultBytes es ms q.k)
      let th := { (s.thread t).setKeptSnap none with search := none }
      return (s.setThread t (th.putG d (searchStatus snap ms.length q.drift)), .seq)
  | none =>
    let p ← loadAt s t blk.1 (blk.2.take (64 + 4 * c.dim))
    let s := p.1
    let query := blockVector p.2 c.dim
    match badElement query with
    | some i => throw (.trap cVECTOR_VALUE (BitVec.ofNat 64 i))
    | none => pure ()
    let m := (th.readG b).toNat
    if c.tail < m then throw (.trap cVERSION_RANGE (th.readG b))
    let th := (dropKept (s.thread t)).setKeptSnap again
    let q : Search := ⟨id, m, localMode, again.map (·.snap), k, blkNat hb 2 2, blkNat hb 4 1 % 2 == 1, query, false, [], [], false, false⟩
    return (park (s.setThread t { th with search := some q }) t false .search, .placed)

/-- The search that a parked thread waits for, and its Catalogue. -/
def pendingSearch (s : State) (t : Tid) : Option (Search × Cat) :=
  let th := s.thread t
  match th.run, th.search with
  | .parkedEngine .search _, some q => match s.cats.find? q.cat with
    | some c => if q.done then none else some (q, c)
    | none => none
  | _, _ => none

/-- One step of an admitted search on a die's copy: the search after it, and the distances computed (R299, R302). -/
def searchPass (c : Cat) (es : List CatEntry) (snap : Nat) (q : Search) : Search × Nat :=
  if q.exh then
    let n := q.visited.length
    let next := (List.range (min 64 (es.length - n))).map (n + ·)
    let vis := next.filter fun i => visibleAt snap (entryAt es i)
    let w := vis.foldl (fun w i => insertMember es (memberOf c.fmt c.metric es q.query i) w) q.w
    ({ q with
       started := true
       w := w.take q.k
       visited := q.visited ++ next
       done := es.length ≤ n + next.length }, vis.length)
  else
    let w := if q.started then q.w else startMembers c.fmt c.metric es q.query snap
    let visited := if q.started then q.visited else w.map (·.slot)
    let old := if q.started then q.visited.length else 0
    match walkPass c.fmt c.metric es q.query q.beam snap w visited q.drift with
    | none => ({ q with started := true, w := w, visited := visited, done := true }, visited.length - old)
    | some (w, visited, drift) =>
      ({ q with
         started := true
         w := w
         visited := visited
         drift := drift
         done := w.all (·.expanded) }, visited.length - old)

/-- The oldest pinned snapshot of a Catalogue, also of threads that are switched out (R311). -/
def oldestPinned (s : State) (id tail : Nat) : Nat :=
  let ofThread (m : Nat) (th : Thread) : Nat := (th.snap0.toList ++ th.snap1.toList).foldl (fun m k => if k.cat = id then min m k.snap else m) m
  s.cores.foldl (fun m e => e.2.threads.toList.foldl ofThread m) tail

/-- CNEAR (R310): Searches a Catalogue in current mode for the K nearest entries -/
def execCnear (s : BitVec 3) (d a b : BitVec 5) (st : State) : Out :=
  issue { word := (104#7 ++ s ++ d ++ a ++ b ++ 0#7), stall := s.toNat, reads := [(.g, a.toNat), (.g, b.toNat)], cls := .spec, home := true, keeps := true } st (cnearBody a.toNat b.toNat d.toNat false)

/-- CNEAR_LOCAL (R310): Searches a Catalogue at the local applied version -/
def execCnearLocal (s : BitVec 3) (d a b : BitVec 5) (st : State) : Out :=
  issue { word := (104#7 ++ s ++ d ++ a ++ b ++ 1#7), stall := s.toNat, reads := [(.g, a.toNat), (.g, b.toNat)], cls := .spec, home := true, keeps := true } st (cnearBody a.toNat b.toNat d.toNat true)

/-- CSTV (R308): Encodes a vector and appends a store-vector call -/
def execCstv (s : BitVec 3) (d a b : BitVec 5) (st : State) : Out :=
  issue { word := (104#7 ++ s ++ d ++ a ++ b ++ 2#7), stall := s.toNat, reads := [(.g, a.toNat)], cls := .irrev, home := true } st fun z t => do
    let addr := (z.thread t).readG a.toNat
    let h ← ownBlock z t addr 64 64 rRD
    let z := settlePosted z t h.2
    let hb := readPlaces z h.2
    let id := blkNat hb 0 1
    let c ← match catOf z t id false with
      | some c => Except.ok c
      | none => Except.error (.trap cCAT_ABSENT addr)
    let k ← ownBlock z t addr (64 + 4 * c.dim) 64 rRD
    let z := settlePosted z t k.2
    let q ← loadAt z t k.1 k.2
    let z := q.1
    let key := BitVec.ofNat 64 (blkNat q.2 8 8)
    if key = BitVec.allOnes 64 then throw (.trap cOPERAND_RANGE key)
    let r ← match encodeVector c.fmt c.metric (blockVector q.2 c.dim) with
      | .ok r => Except.ok r
      | .error i => Except.error (.trap cVECTOR_VALUE (BitVec.ofNat 64 i))
    if c.cap ≤ c.stored then throw (.trap cCAT_FULL (BitVec.ofNat 64 c.cap))
    if lastVersion ≤ c.tail then throw (.trap cOPERAND_RANGE addr)
    if c.full z then throw (.park false .reissue)
    let z := drainPosted z t
    return ({ z with flights := z.flights ++ [.append t true id (catCall z t true key r.1 r.2) addr] }, .sent false d.toNat)

/-- CDEL (R309): Appends a delete call for a key -/
def execCdel (s : BitVec 3) (d a b : BitVec 5) (st : State) : Out :=
  issue { word := (104#7 ++ s ++ d ++ a ++ b ++ 3#7), stall := s.toNat, reads := [(.g, a.toNat), (.g, b.toNat)], cls := .irrev } st fun z t =>
    let th := z.thread t
    let w := th.readG a.toNat
    let key := th.readG b.toNat
    let id := field w 7 0
    match catOf z t id false with
    | none => .error (.trap cCAT_ABSENT w)
    | some c =>
      if key = BitVec.allOnes 64 then .error (.trap cOPERAND_RANGE key)
      else if lastVersion ≤ c.tail then .error (.trap cOPERAND_RANGE w)
      else if c.full z then .error (.park false .reissue)
      else
        let z := drainPosted z t
        .ok ({ z with flights := z.flights ++ [.append t true id (catCall z t false key [] 0) w] }, .sent false d.toNat)

/-- CVER (R311): Reads a Catalogue's tail, applied version, oldest snapshot or remaining capacity -/
def execCver (s : BitVec 3) (d a b : BitVec 5) (st : State) : Out :=
  issue { word := (104#7 ++ s ++ d ++ a ++ b ++ 4#7), stall := s.toNat, reads := [(.g, a.toNat), (.g, b.toNat)], cls := .spec } st fun z t =>
    let th := z.thread t
    let w := th.readG a.toNat
    match catOf z t (field w 7 0) false with
    | none => .error (.trap cCAT_ABSENT w)
    | some c =>
      let x := match field (th.readG b.toNat) 1 0 with
        | 0 => c.tail
        | 1 => (c.copy (dieOf z (homeTid z t).core)).applied
        | 2 => oldestPinned z (field w 7 0) c.tail
        | _ => c.cap - c.stored
      let z := if field (th.readG b.toNat) 1 0 = 0 then z.setCat (field w 7 0) (c.tell (homeTid z t) c.tail) else z
      .ok (z.setThread t (th.putG d.toNat (BitVec.ofNat 64 x)), .seq)

/-- CATNEW (R307): Creates an empty Catalogue on every die -/
def execCatnew (s : BitVec 3) (d a b : BitVec 5) (st : State) : Out :=
  issue { word := (105#7 ++ s ++ d ++ a ++ b ++ 0#7), stall := s.toNat, reads := [(.g, a.toNat)], cls := .irrev } st fun z t => do
    let addr := (z.thread t).readG a.toNat
    let blk ← anyBlock z t addr 64 64
    match catReason z blk with
    | some r => throw (.trap cCAT_MALFORMED (BitVec.ofNat 64 r))
    | none => pure ()
    let id ← match lowestFree fun i => (z.cats.find? i).isSome with
      | some i => Except.ok i
      | none => Except.error (.trap cCAT_MALFORMED 6)
    let x := ctxOf z t
    let per := entryUse z (blkNat blk 0 2) (blkNat blk 2 1) (blkNat blk 4 1)
    let cap ← match catCapacity (poolFree z x) per (blkNat blk 12 4) with
      | some n => Except.ok n
      | none => Except.error (.trap cCAT_MALFORMED 7)
    let use := Config.poolFixed + cap * per
    let z := useBlocks z t [(addr, 64)]
    let z := takePool (z.setCat id (newCat x (dieOf z (homeTid z t).core) blk cap use)) x use
    return (z.setThread t ((z.thread t).putG d.toNat (BitVec.ofNat 64 id)), .seq)

/-- CATDEL (R307): Deletes a Catalogue after running searches end -/
def execCatdel (s : BitVec 3) (d a b : BitVec 5) (st : State) : Out :=
  issue { word := (105#7 ++ s ++ d ++ a ++ b ++ 1#7), stall := s.toNat, reads := [(.g, a.toNat)], cls := .irrev } st fun z t =>
    let th := z.thread t
    let w := th.readG a.toNat
    let id := field w 7 0
    match catOf z t id (th.waitsFor (.deleting true id)) with
    | none => .error (.trap cCAT_ABSENT w)
    | some c =>
      if catDone z id c then .ok (freeCat z id c, .seq)
      else .ok (park (z.setCat id { c with closing := true }) t false (.deleting true id), .placed)

/-- The home die of the object or the Catalogue that a call is for. -/
def appendDie (s : State) (cat : Bool) (id : Nat) : Option Nat :=
  if cat then (s.cats.find? id).map (·.home) else (s.objects.find? id).map (·.home)

def appended (s : State) (src : Tid) (cat : Bool) (id : Nat) (e : LogEntry) (eval : Word) : Option State :=
  if cat then appendCat s src id e eval else appendObj s src id e eval

/-- An older call that can be appended waits at the same die: it goes first (R334). -/
def olderAppend (s : State) (n : Nat) (die : Option Nat) : Bool :=
  (s.flights.take n).any fun f => match f with
    | .append src cat id e eval => appendDie s cat id == die && (appended s src cat id e eval).isSome
    | _ => false

/-- LOG_APPEND (R280): At the home die an update call is appended and assigned the next version -/
def execLogAppend (n : Nat) (st : State) : Out :=
  match st.flights[n]? with
  | some (.append src cat id e eval) =>
    let d := appendDie st cat id
    if d.any (fun d => !dieRuns st d) || olderAppend st n d then .next st
    else match appended { st with flights := st.flights.eraseIdx n } src cat id e eval with
      | some z => .next (lapse z)
      | none => .next st
  | _ => .next st

/-- ENTRY_APPLY (R283): A die's Scribe applies the next log entry's method to its state copy -/
def execEntryApply (cat : Bool) (id die : Nat) (st : State) : Out :=
  if !(enabledDies st).contains die || !dieRuns st die then .next st
  else if cat then
    match st.cats.find? id with
    | some c => .next (lapse (reapCat (replayCat st id die c) id))
    | none => .next st
  else
    match st.objects.find? id with
    | some o => .next (lapse (reapObj (replayObj st id die o) id))
    | none => .next st

/-- SEARCH_ADMISSION (R297): The search unit admits a CNEAR and pins its snapshot. In current mode it sees of the log at its home what
R91 asks for, and more as a free value says (R86, R318; log 71). -/
def execSearchAdmission (c t : Nat) (st : State) : Out :=
  let id : Tid := ⟨c, t⟩
  match pendingSearch st id with
  | none => .next st
  | some (q, k) =>
    -- a closing Catalogue admits nothing (R307); admission waits for a token (R313)
    if q.snap.isSome || k.closing || !dieRuns st (dieOf st c) || (spend st (ctxOf st id) (dieOf st c) 2 1 (scribeWaiters st (dieOf st c))).isNone then .next st
    else
      let least := k.least (homeTid st id)
      let s := max q.least (if q.localMode then (k.copy (dieOf st c)).applied else least + Config.tailSeen st.freeCount % (k.tail - least + 1))
      let th := st.thread id
      let st := if q.localMode then st else st.setCat q.cat (k.tell (homeTid st id) s)
      .next (lapse (st.setThread id { th.setKeptSnap (some ⟨th.chainStart, q.cat, s⟩) with search := some { q with snap := some s } }))

/-- SEARCH_STEP (R299): One beam-search step expands a member and, at the end, writes the results -/
def execSearchStep (c t : Nat) (st : State) : Out :=
  let id : Tid := ⟨c, t⟩
  match pendingSearch st id with
  | none => .next st
  | some (q, k) =>
    let d := dieOf st c
    let cp := k.copy d
    match q.snap with
    | none => .next st
    | some s =>
      if cp.applied < s || !dieRuns st d then .next st
      else
        let r := searchPass k cp.entries s q
        match spend st (ctxOf st id) d 2 r.2 (scribeWaiters st d) with
        | none => .next st
        | some z =>
          let z := z.setThread id { z.thread id with search := some r.1 }
          .next (lapse (if r.1.done then wake z id else z))

end Sys2Proof.Machine
end

