-- ==== Sys2Proof/Machine/Collective.lean ====
section
/-! DEFINITION. The collective engine's collectives: what is missing, folding, and failure; the clips of the egress marker and what
the units beside the cores do about a miss (23_package_links.md R376 to R378). -/

namespace Sys2Proof.Machine

open Sys2Proof

/-! ## Groups and contributions -/

/-- A collective group of a partition. -/
def groupOf (s : State) (part group : Nat) : Option Group := s.groups.find? fun g => g.part == part && g.group == group

/-- DESIGN CHOICE (log 33): ranks name this package by the number 0. -/
def ownPackage : Nat := 0

def Contrib.of (part group : Nat) (seq : BitVec 64) (c : Contrib) : Bool := c.part == part && c.group == group && c.seq == seq

/-- The contributions of a collective in ascending rank, the first of each rank (log 33). -/
def gathered (s : State) (g : Group) (seq : BitVec 64) : List Contrib :=
  (List.range g.ranks.length).filterMap fun r => s.contribs.find? fun c => c.of g.part g.group seq && c.rank == r

def Contrib.view (s : State) (c : Contrib) : View := ⟨ctxOf s c.issuer, c.issuer.core, c.segBase, c.segLimit⟩

/-- Bytes of an element (Table 23.8): f32, bf16, s32. -/
def collSize (ty : Nat) : Nat := if ty = 1 then 2 else 4

/-- Bytes that a rank's SRC and DST hold: all-reduce 0, all-gather 1, reduce-scatter 2. -/
def srcBytes (form ty count n : Nat) : Nat := (if form = 2 then n * count else count) * collSize ty
def dstBytes (form ty count n : Nat) : Nat := (if form = 1 then n * count else count) * collSize ty

/-- One step of a fold: OP 0 sum, 1 min, 2 max. -/
def collOp (ty op a b : Nat) : Nat :=
  let f := if ty = 1 then bf16 else fp32
  if ty = 2 then
    let x := BitVec.ofNat 32 a
    let y := BitVec.ofNat 32 b
    (if op = 0 then x + y else if op = 1 then (if y.slt x then y else x) else if x.slt y then y else x).toNat
  else if op = 0 then (addF f 0 (decodeF f a) (decodeF f b)).1
  else minmaxF f (op == 2) a b

/-- Elements of a byte string. -/
def collElems (ty : Nat) (bs : List Byte) : List Nat := (List.range (bs.length / collSize ty)).map fun i => blkNat bs (i * collSize ty) (collSize ty)

/-- The fold of the ranks' elements in ascending rank. -/
def collFold (ty op : Nat) : List (List Nat) → List Nat
  | [] => []
  | x :: xs => xs.foldl (List.zipWith (collOp ty op)) x

/-- The bytes that rank r receives from all the SRC bytes, in ascending rank. -/
def collResult (form ty op count r : Nat) (srcs : List (List Byte)) : List Byte :=
  let n := collSize ty
  match form with
  | 0 => (collFold ty op (srcs.map (collElems ty))).flatMap fun x => leBytes x n
  | 1 => srcs.flatten
  | _ => (collFold ty op (srcs.map fun b => collElems ty ((b.drop (r * count * n)).take (count * n)))).flatMap fun x => leBytes x n

/-! ## Failure (R377) -/

/-- EVAL of COLL_FAULT. -/
def collEval (group reason : Nat) (seq : BitVec 64) : Word := BitVec.ofNat 64 (seq.toNat % 2 ^ 32 + reason % 256 * 2 ^ 32 + group % 65536 * 2 ^ 40)

/-- A rank learns of the failure: its handle, its SIGNAL and COLL_FAULT. -/
def failRank (s : State) (c : Contrib) (reason : Nat) : State :=
  let i := settOf c.issuer.core
  let s := { s with contribs := s.contribs.erase c }
  let h := c.handle + resHandles c.issuer
  let s := if c.hv then setHandleOf s i h (withState ((s.sett i).handle h) hFree ||| 4) else s
  let s := if c.sv then signalError s (c.view s) c.signal else s
  pendTrap s c.issuer (srcKind 5 c.die) cCOLL_FAULT (collEval c.group reason c.seq)

/-- A collective fails at every rank: those that have contributed learn it now, each with its reason, the others when they
contribute, with `reason`. -/
def failColl (s : State) (g : Group) (seq : BitVec 64) (reason : Nat) (why : Contrib → Nat) : State :=
  let cs := gathered s g seq
  let s := cs.foldl (fun s c => failRank s c (why c)) s
  let left := (List.range g.ranks.length).filter fun r => !(cs.any fun c => c.rank == r) && (match g.ranks[r]? with
    | some (p, _, x) => p == ownPackage && (s.contexts.find? x).isSome
    | none => false)
  if left.isEmpty then s else { s with collFails := s.collFails ++ [⟨g.part, g.group, seq, reason, left⟩] }

/-- The collectives in progress: a partition, a group and a SEQ each. -/
def inProgress (s : State) : List (Group × BitVec 64) :=
  s.contribs.foldl (fun (acc : List (Group × BitVec 64)) c =>
    match groupOf s c.part c.group with
    | some g => if acc.any (fun e => e.1 == g && e.2 == c.seq) then acc else acc ++ [(g, c.seq)]
    | none => acc) []

/-- Fails every collective in progress whose group a condition picks. -/
def failWhere (s : State) (p : Group → Bool) (reason : Nat) (why : Contrib → Nat) : State :=
  (inProgress s).foldl (fun s e => if p e.1 then failColl s e.1 e.2 reason why else s) s

/-! ## Clips (R378) -/

/-- The open clip of a partition with a number. -/
def clipOf (c : Context) (n : Nat) : Option Clip := c.clips.find? fun y => y.clip == n
def setClip (c : Context) (y : Clip) : Context := { c with clips := c.clips.map fun z => if z.clip == y.clip then y else z }

/-- A clip that a host write failed. -/
def failClip (s : State) (part : Nat) (y : Clip) (v : View) (signal : Word) : State :=
  signalError (s.setCtx part (setClip (s.ctx part) { y with failed := true })) v signal

/-- The walker has no translation for the DST of the tile or the record that the marker holds for a thread: the write fails. -/
def failMark (s : State) (src : Tid) (dst : Nat) : State :=
  let mark (s : State) (f : Flight) (x clip : Nat) (signal : Word) (sb sl : Vector Word 8) : State :=
    let s := { s with flights := s.flights.erase f }
    let part := partOf s 9 x
    match clipOf (s.ctx part) clip with
    | some y => failClip s part y ⟨x, src.core, sb, sl⟩ signal
    | none => signalError s ⟨x, src.core, sb, sl⟩ signal
  match s.flights.find? fun f => match f with
    | .egress t _ _ _ _ _ d _ _ _ | .egfin t _ _ d _ _ _ _ => t == src && d == dst
    | _ => false with
  | some (.egress t x b luma cb cr d signal sb sl) => mark s (.egress t x b luma cb cr d signal sb sl) x (blkNat b 0 4) signal sb sl
  | some (.egfin t x n d signal sb sl g) => mark s (.egfin t x n d signal sb sl g) x n signal sb sl
  | _ => s

/-! ## Misses of these units: the walker of the issuing core is asked, as for a copy (R219) -/

/-- A unit waits for an answer of a core's walker. -/
def asked (s : State) (core : Nat) (w : MissFor) : Bool := (s.core core).misses.any fun r => r.whom == w

/-- Sends the miss record, where the core runs and its mailbox has room. -/
def ask (s : State) (core x : Nat) (addr : Word) (cva kind size : Nat) (w : MissFor) : State :=
  if (s.sett (settOf core)).place.isNone ∨ 16 ≤ (s.core core).missbox.length then s else (postMiss s core 0xFF x kind size cva addr w).1

end Sys2Proof.Machine
end

