-- ==== Sys2Proof/Machine/Tile.lean ====
section
/-! DEFINITION. The tile engine, its direct door and its instructions (15_tile_model.md R233 to R241, R246 to R248, 16_tile_isa.md
R253 to R265; the arithmetic of 04 R72 and R73). -/

namespace Sys2Proof.Machine

open Sys2Proof

/-! ## Operands in the holt window (R255) -/

/-- The context whose holt window a core's thread sees. -/
structure Win where
  ctx : Nat
  core : Nat
  deriving DecidableEq, Repr

/-- The core and offset of a local address, if the position is held. -/
def winAt (s : State) (w : Win) (a : Nat) : Option (Nat × Nat) :=
  if 12582912 ≤ a then none else (holtPosition s w.ctx w.core (a / 262144)).map fun c => (c, a % 262144)

/-- The SHFMT word of the shelf at a local address. -/
def winFmt (s : State) (w : Win) (a : Nat) : Nat :=
  match winAt s w a with
  | some (c, o) => ((s.core c).shfmt.toList.getD (o / 16384) 0).toNat
  | none => 0

/-- An engine access of a tile: a value, or the cause of the failure. -/
abbrev Eng (α : Type) := Except Nat α

/-- The places of an element of format f at a local address: 0x10 outside the window, 0x16 misaligned, 0x08 in a shelf of
another format (R255). -/
def elemPlaces (s : State) (w : Win) (f a : Nat) : Eng (List Nat) :=
  let z := max 1 (fmtNibbles f / 2)
  match (span a z).mapM (holtByte s w.ctx w.core) with
  | none => .error cSEG_LIMIT
  | some ks =>
    if a % z ≠ 0 then .error cMISALIGN
    else if winFmt s w a % 16 ≠ f then .error cFORMAT_ACCESS
    else .ok ks

/-- The pattern of an element. -/
def readElem (s : State) (w : Win) (f a : Nat) : Eng Nat := do
  let ks ← elemPlaces s w f a
  return leNat (readPlaces s ks)

/-- The bytes of a local extent, for bitmaps and tables. -/
def winBytes (s : State) (w : Win) (a n : Nat) : Eng (List Byte) :=
  match (span a n).mapM (holtByte s w.ctx w.core) with
  | none => .error cSEG_LIMIT
  | some ks => .ok (readPlaces s ks)

/-- The members of a 16-bit mask. -/
def maskBits (m : Nat) : List Nat := (List.range 16).filter m.testBit

/-- n elements of one line at addresses given by K position. -/
def readLine (s : State) (w : Win) (ix f : Nat) (addr : Nat → Nat) (k0 n : Nat) : Eng Line := do
  let xs ← (span k0 n).mapM fun k => readElem s w f (addr k)
  return ⟨ix, f, 0, xs.map some⟩

/-- The rows of A at K positions k0 to k0 + n: a rows stream or a gathered one (Table 16.3). `fa` fixes the format. -/
def latchRows (s : State) (w : Win) (a : Stream) (fa k0 n : Nat) : Eng (List Line) :=
  (maskBits a.mask).mapM fun r =>
    if a.kind = .gathered then
      let base := (a.lanes.getD r 0).toNat % 2 ^ 24
      let f := winFmt s w base % 16
      readLine s w r f (fun k => base + k * fmtNibbles f / 2) k0 n
    else
      let f := winFmt s w fa % 16
      readLine s w r f (fun k => a.addr + r * a.ld + k * fmtNibbles f / 2) k0 n

/-- The block of 64 codes that column j of an mq4 B holds at k0, with its scale entry (R65, Table 16.3). -/
def latchBlock (s : State) (w : Win) (b : Stream) (fa j k0 n : Nat) : Eng Line := do
  if b.addr % 32 ≠ 0 ∨ b.ld % 32 ≠ 0 then throw cMISALIGN
  let a := b.addr + j * b.ld + 32 * (k0 / 64)
  let bs ← winBytes s w a 32
  if winFmt s w a % 16 ≠ 7 then throw cFORMAT_ACCESS
  let entry := match winAt s w a with
    | some (c, o) => (s.core c).scaleAt (winFmt s w a / 256 % 256 + o % 16384 / 32)
    | none => 0
  return ⟨j, 7, entry, ((elemsOf 1 bs).take n).map some⟩

/-- The columns of B at K positions k0 to k0 + n. -/
def latchCols (s : State) (w : Win) (b : Stream) (fb k0 n : Nat) : Eng (List Line) :=
  let f := winFmt s w fb % 16
  (maskBits b.mask).mapM fun j =>
    if f = 7 then latchBlock s w b fb j k0 n
    else readLine s w j f (fun k => b.addr + k * b.ld + j * fmtNibbles f / 2) k0 n

/-- Table 15.2: the chunk length of a format pair under a semiring, if the engine accepts it. -/
def pairChunk (fa fb sr : Nat) : Option Nat :=
  match fa, fb with
  | 3, 3 => if sr = 3 then none else some 32
  | 2, 2 => if sr = 0 then some 32 else none
  | 4, 4 | 4, 5 | 5, 4 | 5, 5 => if sr = 0 then some 32 else none
  | 3, 7 | 4, 7 => if sr = 0 then some 64 else none
  | 6, 6 => if sr = 0 ∨ sr = 3 then some 64 else none
  | 1, 1 => if sr = 1 ∨ sr = 2 then some 8 else none
  | _, _ => none

/-! ## The chunk step (R72, Table 4.7) -/

/-- An operand element as a value: an mq4 element of a finite block is its level. -/
def tileValue (l : Line) (x : Nat) : FV :=
  match fmtOf l.fmt with
  | some f => decodeF f x
  | none =>
    if l.fmt = 7 then
      match entryKind l.entry with
      | 1 => if (decodeF fp32 (entryScale l.entry)).isNan || (decodeF fp32 (entryScale l.entry)).isInf then .nan else decodeF fp16 (mq4Levels.getD x 0)
      | 2 => if x = 15 then .inf false else if x = 0 then .inf true else .fin false 0 0
      | _ => .nan
    else FV.ofDy false ⟨(BitVec.ofNat 8 x).toInt, 0⟩

/-- The factor of a block that multiplies the exact sum: its scale, or one. -/
def tileScale (l : Line) : FV :=
  if l.fmt = 7 ∧ entryKind l.entry = 1 then decodeF fp32 (entryScale l.entry) else .fin false 1 0

/-- The positions that both lines hold. -/
def bothPresent (a b : Line) : List (Nat × Nat) :=
  (a.xs.zip b.xs).filterMap fun p => match p with
    | (some x, some y) => some (x, y)
    | _ => none

/-- The exact sum P of R72 and whether an input was a NaN. -/
def exactSum (a b : Line) : FV × Bool :=
  let vs := (bothPresent a b).map fun p => (tileValue a p.1, tileValue b p.2)
  let sum := vs.foldl (fun acc p => (addFV 0 acc (mulFV p.1 p.2).1).1) (.fin false 0 0)
  let P := if vs.isEmpty then sum else (mulFV sum (tileScale b)).1
  (P, vs.any fun p => p.1.isNan || p.2.isNan)

/-- One chunk on a plus-times FP32 accumulator: the new bits and NV or OF. DESIGN CHOICE (log 60): an infinite accumulator and a
chunk of the opposite infinity set NV. -/
def stepFloat (acc : Nat) (a b : Line) : Nat × Nat :=
  let p := exactSum a b
  if p.1.isNan then (fp32.nanBits, if p.2 then 0 else NV)
  else if p.1.isZero then (acc, 0)
  else
    let r := encodeF fp32 0 false p.1
    let q := addF fp32 0 (decodeF fp32 acc) (decodeF fp32 r.1)
    (q.1, Nat.land (orFlags r.2 q.2) (NV + OF))

/-- A signed byte. -/
def s8 (x : Nat) : Int := (BitVec.ofNat 8 x).toInt

/-- One chunk on an INT32 accumulator (R72). -/
def stepInt (acc : Nat) (a b : Line) : Nat × Nat :=
  let P := (bothPresent a b).foldl (fun n p => n + s8 p.1 * s8 p.2) 0
  let sum := (BitVec.ofNat 32 acc).toInt + P
  ((BitVec.ofInt 32 sum).toNat, if sum < -2147483648 ∨ 2147483647 < sum then IOVF else 0)

/-- One chunk under min-plus (1) or max-times (2). -/
def stepTropical (sr acc : Nat) (a b : Line) : Nat × Nat :=
  (bothPresent a b).foldl (fun r p =>
    let x := tileValue a p.1
    let y := tileValue b p.2
    let q := if sr = 1 then addF fp32 0 x y else mulF fp32 0 x y
    (minmaxF fp32 (sr == 2) r.1 q.1, orFlags r.2 (Nat.land q.2 (NV + OF)))) (acc, 0)

/-- Or-and (Table 4.7), per K position: where none is present in both operands the accumulator stays. -/
def stepOrAnd (acc : Nat) (a b : Line) : Nat × Nat :=
  ((bothPresent a b).foldl (fun acc p => if acc ≠ 0 ∨ (p.1 ≠ 0 ∧ p.2 ≠ 0) then 1 else 0) acc, 0)

/-- The chunk step of one element by semiring. -/
def tileStep (sr acc : Nat) (a b : Line) : Nat × Nat :=
  match sr with
  | 0 => if a.fmt = 6 then stepInt acc a b else stepFloat acc a b
  | 3 => stepOrAnd acc a b
  | _ => stepTropical sr acc a b

/-- Element (r, j) of a half. -/
def accKey (bank half r j : Nat) : Nat := bank * 512 + half * 256 + 16 * r + j

/-- The chunk step over rows and columns of a half: the accumulators and the flags. -/
def tileChunk (acc : KMap (BitVec 32)) (bank half sr : Nat) (rows cols : List Line) : KMap (BitVec 32) × Nat :=
  rows.foldl (fun q a => cols.foldl (fun q b =>
    let k := accKey bank half a.ix b.ix
    let r := tileStep sr (KMap.getD q.1 k 0).toNat a b
    (KMap.put 0 q.1 k (BitVec.ofNat 32 r.1), orFlags q.2 r.2)) q) (acc, 0)

/-- The identity of a semiring (Table 4.7). -/
def identityBits (sr : Nat) : BitVec 32 := match sr with
  | 1 => 0x7F800000
  | 2 => 0xFF800000
  | _ => 0

/-- All 256 elements of a half set to one value. -/
def fillHalf (acc : KMap (BitVec 32)) (bank half : Nat) (x : BitVec 32) : KMap (BitVec 32) :=
  (List.range 256).foldl (fun m i => KMap.put 0 m (accKey bank half 0 0 + i) x) acc

/-- The row of Table 15.2 that a pair of formats is in, under a semiring it takes. -/
def pairRow (sr : Nat) (p : Nat × Nat) : Option Nat :=
  if (pairChunk p.1 p.2 sr).isNone then none
  else match p with
    | (3, 3) => some 0
    | (2, 2) => some 1
    | (_, 7) => some 3
    | (6, _) => some 4
    | (1, _) => some 5
    | _ => some 2

/-- The formats of A's rows: of a gathered A each present row's own, of its element (r, 0); with no row present, lane 0's (R255). -/
def rowFmts (s : State) (w : Win) (a : Stream) (fa : Nat) : List Nat :=
  let lane (r : Nat) : Nat := winFmt s w ((a.lanes.getD r 0).toNat % 2 ^ 24) % 16
  if a.kind = StreamKind.gathered then (if a.mask = 0 then [lane 0] else (maskBits a.mask).map lane) else [winFmt s w fa % 16]

/-- The format pairs of a chunk, of each row of A with B, if all are in one row of Table 15.2 and are those of chunk 0 (R257). -/
def streamPairs (s : State) (w : Win) (sr : Nat) (a : Stream) (fa fb : Nat) (before : List (Nat × Nat)) : Option (List (Nat × Nat)) :=
  let ps := (rowFmts s w a fa).map fun f => (f, winFmt s w fb % 16)
  let row := pairRow sr (ps.headD (0, 0))
  if row.isSome && ps.all (fun q => pairRow sr q == row) && (before.isEmpty || before == ps) then some ps else none

/-- Latches one K-chunk of dense operands (R234, R257): the pairs, the rows and the columns, or the cause. -/
def denseLatch (s : State) (w : Win) (sr : Nat) (a b : Stream) (fa fb k c : Nat) (before : List (Nat × Nat)) :
    Eng (List (Nat × Nat) × List Line × List Line) := do
  let guess := before.headD ((rowFmts s w a fa).headD 0, winFmt s w fb % 16)
  let cl := (pairChunk guess.1 guess.2 sr).getD 32
  let k0 := c * cl
  let n := min cl (k - k0)
  let rows ← if b.mask = 0 then .ok [] else latchRows s w a fa k0 n
  let cols ← if a.mask = 0 then .ok [] else latchCols s w b fb k0 n
  match streamPairs s w sr a fa fb before with
  | none => throw cTILE_MALFORMED
  | some p =>
    if cols.any fun l => l.fmt == 7 && entryKind l.entry == 0 then throw cSCALE_MISSING
    return (p, rows, cols)

/-- Chunks of a depth k under a pair. -/
def chunksOf (p : Nat × Nat) (sr k : Nat) : Nat := let cl := (pairChunk p.1 p.2 sr).getD 32; (k + cl - 1) / cl

/-! ## Sparse tiles (R246, R247, R258) -/

/-- A sparse image: its bitmap as a number, and LEN. -/
def sparseHead (bs : List Byte) : Nat × Nat := (blkNat bs 0 64, blkNat bs 64 2)

def popCount (n bits : Nat) : Nat := ((List.range bits).filter n.testBit).length

/-- The lines of a sparse image: bit of (line, k) by `bitOf`; the values of present elements from byte 80 in bit order. -/
def sparseLines (s : State) (w : Win) (addr : Nat) (mask : Nat) (bitOf : Nat → Nat → Nat) (limit : Nat) : Eng (List Line) := do
  let head ← winBytes s w addr 66
  let h := sparseHead head
  if popCount h.1 512 ≠ h.2 then throw cSPARSE_LEN
  let f := winFmt s w addr % 16
  (maskBits mask).mapM fun i => do
    let xs ← (List.range 32).mapM fun k =>
      if k < limit ∧ h.1.testBit (bitOf i k) then do
        let x ← readElem s w f (addr + 80 + popCount h.1 (bitOf i k) * fmtNibbles f / 2)
        return some x
      else return none
    return ⟨i, f, 0, xs⟩

def aBit (r k : Nat) : Nat := 32 * r + k
def bBit (j k : Nat) : Nat := 16 * k + j

/-- The formats of sparse operands (R246). -/
def sparseFmt (f : Nat) : Bool := f == 2 || f == 3 || f == 4 || f == 5 || f == 6

/-- The formats of sparse operands: their pair, or the failure. -/
def sparsePair (sr fa fb : Nat) : Eng (Nat × Nat) :=
  if !sparseFmt fa || !sparseFmt fb || (pairChunk fa fb sr).isNone then .error cTILE_MALFORMED else .ok (fa, fb)

/-- Chunk c of a B stream for a sparse A: 32 rows of a rows stream, or image c of a sparse one. -/
def sparseCols (s : State) (w : Win) (b : Stream) (fb c limit : Nat) : Eng (List Line × Nat) := do
  if b.kind = .sparse then
    let a := b.addr + c * b.ld
    if b.addr % 16 ≠ 0 ∨ b.ld % 16 ≠ 0 then throw cMISALIGN
    let ls ← sparseLines s w a b.mask bBit limit
    return (ls, winFmt s w a % 16)
  else
    let ls ← latchCols s w b fb (32 * c) limit
    return (ls, winFmt s w fb % 16)

/-! ## C tiles (R260, Table 16.4) -/

/-- One element as `TLDC` loads it. -/
def cLoad (isInt : Bool) (f x : Nat) : Eng Nat :=
  if f = 7 then .error cFORMAT_ACCESS
  else if f = 0 ∨ f = 1 then .ok x
  else if isInt then
    if f = 6 then .ok (BitVec.ofInt 32 (s8 x)).toNat else if f = 8 then .ok x else .error cFORMAT_ACCESS
  else .ok (decodeElem f x)

/-- One element as `TSTC` stores it, with its flags. -/
def cStore (isInt : Bool) (f : Nat) (sat : Bool) (x : Nat) : Eng (Nat × Nat) :=
  if f = 7 then .error cFORMAT_ACCESS
  else if f = 0 ∨ f = 1 then .ok (x, 0)
  else if isInt then
    let v : FV := FV.ofDy false ⟨(BitVec.ofNat 32 x).toInt, 0⟩
    if f = 6 then let r := encodeInt 0 (-128) 127 false v; .ok ((BitVec.ofInt 8 r.1).toNat, r.2)
    else if f = 8 then let r := encodeInt 0 0 255 true v; .ok (r.1.toNat, r.2)
    else .error cFORMAT_ACCESS
  else .ok (encodeElem f 0 sat x)

/-- The elements (r, j) of a C tile inside the masks. -/
def cElems (rows cols : Nat) : List (Nat × Nat) := ((maskBits rows).map fun r => (maskBits cols).map fun j => (r, j)).flatten

/-- Loads a C tile into a half. -/
def loadC (s : State) (w : Win) (acc : KMap (BitVec 32)) (bank half : Nat) (isInt : Bool) (addr ld fa rows cols : Nat) : Eng (KMap (BitVec 32)) := do
  let f := winFmt s w fa % 16
  if f = 7 then throw cFORMAT_ACCESS
  let xs ← (cElems rows cols).mapM fun e => do
    let x ← readElem s w f (addr + e.1 * ld + e.2 * fmtNibbles f / 2)
    let y ← cLoad isInt f x
    return (accKey bank half e.1 e.2, BitVec.ofNat 32 y)
  return xs.foldl (fun m e => KMap.put 0 m e.1 e.2) acc

/-- Stores a half to a C tile: the state and NV or OF. -/
def storeC (s : State) (w : Win) (acc : KMap (BitVec 32)) (bank half : Nat) (isInt sat : Bool) (addr ld fa rows cols : Nat) : Eng (State × Nat) := do
  let f := winFmt s w fa % 16
  if f = 7 then throw cFORMAT_ACCESS
  let xs ← (cElems rows cols).mapM fun e => do
    let a := addr + e.1 * ld + e.2 * fmtNibbles f / 2
    let ks ← elemPlaces s w f a
    -- each encoding saturates as its own shelf asks (Table 4.6)
    let y ← cStore isInt f (sat || (winFmt s w a).testBit 4) (KMap.getD acc (accKey bank half e.1 e.2) 0).toNat
    return (ks, y)
  return (xs.foldl (fun s e => writePlaces s e.1 (leBytes e.2.1 e.1.length)) s,
    xs.foldl (fun f e => orFlags f (Nat.land e.2.2 (NV + OF))) 0)

/-! ## Descriptors and pushes (R253 to R261) -/

def tdAddr (w : Word) : Nat := field w 23 0
def tdLd (w : Word) : Nat := field w 39 24
def tdMask (w : Word) : Nat := field w 55 40
def tdSp (w : Word) : Bool := bit w 56

/-- The banks that a command names (R235, R236). -/
def cmdBanks (c : TileCmd) : List Nat :=
  match c.op with
  | .tmma | .tspm | .tzero | .tldc | .tstc => [c.bank]
  | .abfr => span c.bank c.n
  | _ => []

def Tile.ownerOf (x : Tile) (b : Nat) : Nat := x.owner.toList.getD b 16

def windowOf (s : State) (t : Tid) : Win := ⟨ctxOf s t, t.core⟩

/-- R258's checks of a sparse A tile at issue. -/
def tspmCheck (s : State) (t : Tid) (val : Word) : Except Stop Unit :=
  let w := windowOf s t
  let a := tdAddr val
  match winBytes s w a 66 with
  | .error _ => .error (.trap cSEG_LIMIT (BitVec.ofNat 64 a))
  | .ok bs =>
    let h := sparseHead bs
    match winBytes s w a ((80 + h.2 * fmtNibbles (winFmt s w a % 16) / 2 + 15) / 16 * 16) with
    | .error _ => .error (.trap cSEG_LIMIT (BitVec.ofNat 64 a))
    | .ok _ =>
      if a % 16 ≠ 0 then .error (.trap cMISALIGN (BitVec.ofNat 64 a))
      else if popCount h.1 512 ≠ h.2 then .error (.trap cSPARSE_LEN (BitVec.ofNat 64 (popCount h.1 512 + h.2 * 65536)))
      else .ok ()

/-- The push of a command into queue q (R237, R253): its checks, then its place in the queue. -/
def pushCmd (s : State) (t : Tid) (q : Nat) (c : TileCmd) : Except Stop State := do
  let x := (s.core t.core).tile
  match (cmdBanks c).find? (fun b => x.ownerOf b != t.thr) with
  | some b => throw (.trap cACC_OWNER (BitVec.ofNat 64 b))
  | none => pure ()
  if c.op = .tmma ∧ !bit c.val 35 ∧ 2 ^ 24 < field c.val 31 0 then throw (.trap cOPERAND_RANGE c.val)
  if c.op = .tlda ∧ tdSp c.val then throw (.trap cOPERAND_RANGE c.val)
  if c.op = .tspm then tspmCheck s t c.val
  let tq := x.queues.toList.getD q .reset
  if 16 ≤ tq.cmds.length then throw (.park false .reissue)
  let c := { c with
    thr := t.thr
    seq := tq.seq
    order := x.pushes }
  let tq := { tq with
    cmds := tq.cmds ++ [c]
    seq := (tq.seq + 1) % 65536 }
  let k := s.core t.core
  return s.setCore t.core { k with tile := { x with
    queues := x.queues.setIfInBounds q tq
    pushes := x.pushes + 1 } }

/-- A command before its push. -/
def mkCmd (op : TileOp) (b : BitVec 6) (h n : BitVec 1) (r : BitVec 2) (val : Word) (lanes : List (BitVec 32)) (count : Nat) (sat : Bool) : TileCmd :=
  ⟨op, r.toNat, b.toNat, h.toNat, n == 1#1, val, lanes, count, 0, sat, 0, 0⟩

/-- Issues a tile instruction of majors 0x5A and 0x5B. -/
def tilePush (w : BitVec 32) (s : BitVec 3) (q : BitVec 3) (legal : Bool) (reads : List (RegFile × Nat)) (c : Thread → TileCmd) (next : Next) (st : State) : Out :=
  issue { word := w, stall := s.toNat, legal := legal, reads := reads, cls := .irrev, home := true } st fun z t => do
    let z ← pushCmd z t q.toNat (c (z.thread t))
    return (z, next)

/-- The operation of a major 0x5A word that `QPUSH` may describe (R262). -/
def qpushOp (w : Word) : Option TileOp :=
  if field w 31 25 ≠ 0x5A then none
  else match field w 13 10 with
    | 0 => some .tlda
    | 1 => some .tldb
    | 3 => some .tmma
    | 4 => some .tspm
    | 5 => some .tzero
    | 6 => some .tldc
    | 7 => some .tstc
    | _ => none

/-! ## Commands in the engine (R236 to R239) -/

def State.setTile (s : State) (c : Nat) (x : Tile) : State := let k := s.core c; s.setCore c { k with tile := x }

/-- The tile tasks of all units that run on a core. -/
def runningTasks (s : State) (c : Nat) : List (Nat × TileTask) :=
  (s.units.map fun u => ((u.2.tasks.filter fun y => y.running && y.core == c).map fun y => (u.1, y))).flatten

/-- Output tiles of a task's present group. -/
def TileTask.mt (y : TileTask) : Nat := if y.group then (y.counts.getD y.g 0 + 15) / 16 else blkNat y.rec_ 4 2
def TileTask.nt (y : TileTask) : Nat := blkNat y.rec_ 6 2
def TileTask.banks (y : TileTask) : List Nat := span y.bank ((y.mt * y.nt + 1) / 2)

/-- R236: no earlier command and no running task that shares a bank is unfinished; one that notifies has ended with its word (R237). -/
def mayBegin (s : State) (c : Nat) (m : TileCmd) : Bool :=
  let x := (s.core c).tile
  let bs := cmdBanks m
  let clash (y : TileCmd) : Bool := y.order < m.order && meets bs (cmdBanks y)
  !(x.queues.toList.any fun q => q.cmds.any clash || q.ended.any fun e => e.nt && e.order < m.order && meets bs e.banks)
    && !(x.running.any fun r => clash r.cmd)
    && !((runningTasks s c).any fun t => meets bs t.2.banks)

/-- The banks of a core: half of a physical core's while it is folded (Table 22.9). -/
def bankTop (k : VCore) : Nat := if k.folded then 32 else 64

/-- The lowest run of n free banks of a core. -/
def freeRun (k : VCore) (n : Nat) : Option Nat :=
  (List.range 65).find? fun b => b + n ≤ bankTop k && (span b n).all fun i => k.tile.ownerOf i == 16

/-- The command at a queue's head, or T13's first one there while the resident slot is active (R239); an `ABAL` that waits holds the
commands of its queue back, but T13's pass another thread's (Table 16.7). -/
def queueHead (x : Tile) (q : Nat) (t13 : Bool) : Option TileCmd :=
  let tq := x.queues.toList.getD q .reset
  if x.waiting.any fun e => e.1 == q && (!t13 || e.2.thr == 13) then none
  else if t13 then tq.cmds.find? fun m => m.thr == 13 else tq.cmds.head?

/-- T13's commands run ahead. -/
def t13First (k : VCore) : Bool := k.resActive && (List.range 4).any fun q => (queueHead k.tile q true).isSome

/-- A queue's head that may begin. -/
def canBegin (s : State) (c q : Nat) (t13 : Bool) : Option TileCmd :=
  match queueHead (s.core c).tile q t13 with
  | none => none
  | some m => if mayBegin s c m then some m else none

/-- The run of banks that an `ABAL` finds, on a folded core of at most 32 (R261, Table 22.9). -/
def abalRun (k : VCore) (m : TileCmd) : Option Nat := freeRun k m.n

/-- The earliest waiting `ABAL` that finds its run (Table 16.7). -/
def waitingRun (k : VCore) : Option ((Nat × TileCmd) × Nat) := k.tile.waiting.findSome? fun e => (abalRun k e.2).map fun b => (e, b)

/-- The next command in rotation, with its queue (R237). -/
def nextCommand (s : State) (c : Nat) : Option (Nat × TileCmd) :=
  let k := s.core c
  let t13 := t13First k
  ((List.range 4).map fun i => (k.tile.lastQueue + 1 + i) % 4).findSome? fun q => (canBegin s c q t13).map fun m => (q, m)

/-- The engine may take a command: nothing else runs but what T13's commands stop, and no task is inside an output tile. -/
def engineIdleFor (s : State) (c : Nat) : Bool :=
  let k := s.core c
  if k.tile.latch.isSome then false
  else if t13First k then k.tile.running.all fun r => r.cmd.thr != 13
  else k.tile.running.isEmpty && (runningTasks s c).all fun t => t.2.chunk == 0

/-- An ended command that asks for no word is kept only as flags and cause of the next ended command, once no unfinished command
of the queue (of order `lim` or above) can come between them. -/
def absorb (lim : Nat) : List TileEnd → List TileEnd
  | a :: es =>
    match absorb lim es with
    | y :: ys =>
      if !a.nt && y.order < lim then { y with
        flags := orFlags a.flags y.flags
        cause := if a.cause ≠ 0 then a.cause else y.cause } :: ys
      else a :: y :: ys
    | [] => [a]
  | [] => []

/-- A command ends: flags to the pusher's FFLAGS (R59), and its end noted in push order. -/
def endCommand (s : State) (c q : Nat) (m : TileCmd) (flags cause : Nat) : State :=
  let id : Tid := ⟨c, m.thr⟩
  let owner := (s.thread id).awayAt.getD id
  let s := s.setThread owner (addFlags (s.thread owner) flags)
  let x := (s.core c).tile
  let tq := x.queues.toList.getD q .reset
  let e : TileEnd := ⟨m.seq, m.order, m.thr, m.nt, flags, cause, cmdBanks m⟩
  let open_ := tq.cmds.map (·.order) ++ ((x.running.filter fun r => r.queue == q).map (·.cmd.order))
    ++ (x.waiting.filter fun e => e.1 == q).map (·.2.order)
  let tq := { tq with ended := absorb (open_.foldl min x.pushes) (insertBy (fun a b => decide (a.order ≤ b.order)) e tq.ended) }
  s.setTile c { x with queues := x.queues.setIfInBounds q tq }

/-- The first completion word that may be posted to queue q + 4: no command before its command is unfinished (R265). -/
def dueWord (x : Tile) (q : Nat) : Option (TileEnd × Word) :=
  let tq := x.queues.toList.getD q .reset
  match tq.ended.find? (fun e => e.nt) with
  | none => none
  | some e =>
    if tq.cmds.any (fun m => m.order < e.order) || x.running.any (fun r => r.queue == q && r.cmd.order < e.order)
        || x.waiting.any (fun y => y.1 == q && y.2.order < e.order) then none
    else
      let es := tq.ended.filter fun y => y.order ≤ e.order
      let flags := es.foldl (fun f y => orFlags f y.flags) 0
      let cause := ((es.find? fun y => y.cause != 0).map (·.cause)).getD 0
      some (e, BitVec.ofNat 64 (e.seq + (if cause = 0 then 0 else 65536) + flags % 256 * 2 ^ 24 + cause % 256 * 2 ^ 32))

/-- Removes a command from its queue as it begins. -/
def takeCommand (s : State) (c q : Nat) (m : TileCmd) : State :=
  let x := (s.core c).tile
  let tq := x.queues.toList.getD q .reset
  s.setTile c { x with
    queues := x.queues.setIfInBounds q { tq with cmds := tq.cmds.filter fun y => y.order != m.order }
    lastQueue := q }

def setStream (s : State) (c q : Nat) (isA : Bool) (v : Stream) : State :=
  let x := (s.core c).tile
  let tq := x.queues.toList.getD q .reset
  s.setTile c { x with queues := x.queues.setIfInBounds q (if isA then { tq with a := v } else { tq with b := v }) }

def setOwners (x : Tile) (bs : List Nat) (o : Nat) : Tile := { x with owner := bs.foldl (fun v b => v.setIfInBounds b o) x.owner }
def setAcc (s : State) (c : Nat) (a : KMap (BitVec 32)) : State := s.setTile c { (s.core c).tile with acc := a }

/-- An `ABAL` takes effect: its thread owns the run and is answered (R261). -/
def takeRun (s : State) (c q : Nat) (m : TileCmd) (b : Nat) : State :=
  let x := (s.core c).tile
  let x := { setOwners x (span b m.n) m.thr with waiting := x.waiting.filter fun e => e.2.order != m.order }
  reply (endCommand (s.setTile c x) c q m 0 0) ⟨c, m.thr⟩ (BitVec.ofNat 64 b)

/-- The effect of a command that has just left its queue (R256 to R261). -/
def beginCommand (s : State) (c q : Nat) (m : TileCmd) : State :=
  let x := (s.core c).tile
  let tq := x.queues.toList.getD q .reset
  let w := windowOf s ⟨c, m.thr⟩
  let a := tdAddr m.val
  let ld := tdLd m.val
  let mask := tdMask m.val
  let cols := if tq.b.kind = .unarmed then 65535 else tq.b.mask
  match m.op with
  | .tlda => endCommand (setStream s c q true ⟨.rows, a, ld, mask, []⟩) c q m 0 0
  | .tldb => endCommand (setStream s c q false ⟨if tdSp m.val then .sparse else .rows, a, ld, mask, []⟩) c q m 0 0
  | .tgtha =>
    let mask := (List.range 16).foldl (fun n i => if (m.lanes.getD i 0).getLsbD 31 then n else n + 2 ^ i) 0
    endCommand (setStream s c q true ⟨.gathered, 0, 0, mask, m.lanes⟩) c q m 0 0
  | .tzero => endCommand (setAcc s c (fillHalf x.acc m.bank m.half (identityBits m.x))) c q m 0 0
  | .tldc =>
    match loadC s w x.acc m.bank m.half (2 ≤ m.x) a ld a mask cols with
    | .ok acc => endCommand (setAcc s c acc) c q m 0 0
    | .error e => endCommand s c q m 0 e
  | .tstc =>
    match storeC s w x.acc m.bank m.half (2 ≤ m.x) (m.x % 2 == 1 || m.sat) a ld a mask cols with
    | .ok r => endCommand r.1 c q m r.2 0
    | .error e => endCommand s c q m 0 e
  | .abal =>
    match abalRun (s.core c) m with
    | some b => takeRun s c q m b
    | none => s.setTile c { x with waiting := x.waiting ++ [(q, m)] }
  | .abfr => reply (endCommand (s.setTile c (setOwners x (span m.bank m.n) 16)) c q m 0 0) ⟨c, m.thr⟩ 0
  | .tspm =>
    if tq.b.kind = .unarmed then endCommand s c q m 0 cTILE_MALFORMED
    else
      let step : Eng (KMap (BitVec 32) × Nat) := do
        let rows ← sparseLines s w a mask aBit 32
        let cs ← sparseCols s w tq.b tq.b.addr ld 32
        let _ ← sparsePair m.x (winFmt s w a % 16) cs.2
        return tileChunk x.acc m.bank m.half m.x rows cs.1
      match step with
      | .ok r => endCommand (setAcc s c r.1) c q m r.2 0
      | .error e => endCommand s c q m 0 e
  | .tmma =>
    let k := if bit m.val 35 then (x.loops.toList.getD (field m.val 34 32) 0).toNat else field m.val 31 0
    if 2 ^ 24 < k then endCommand s c q m 0 cOPERAND_RANGE
    else if tq.a.kind = .unarmed ∨ tq.b.kind = .unarmed ∨ tq.b.kind = .sparse then endCommand s c q m 0 cTILE_MALFORMED
    else if k = 0 then endCommand s c q m 0 0
    else s.setTile c { x with running := x.running ++ [⟨q, m, k, 0, tq.a, tq.b, [], 0⟩] }

/-- The gather unit's rows for a stream. -/
def gatherOf (a : Stream) : List (BitVec 32) := if a.kind = .gathered then (maskBits a.mask).map fun r => a.lanes.getD r 0 else []

/-- A running `TMMA` latches its next K-chunk, or adds the one it has latched (R257). -/
def commandChunk (s : State) (c : Nat) (r : TileRun) : State :=
  let x := (s.core c).tile
  let others := x.running.filter fun y => y.cmd.order != r.cmd.order
  match x.latch with
  | none =>
    match denseLatch s (windowOf s ⟨c, r.cmd.thr⟩) r.cmd.x r.a r.b r.a.addr r.b.addr r.k r.chunk r.pairs with
    | .error e => endCommand (s.setTile c { x with running := others }) c r.queue r.cmd r.flags e
    | .ok (p, rows, cols) => s.setTile c { x with latch := some ⟨r.cmd.order, none, p, rows, cols, gatherOf r.a⟩ }
  | some l =>
    let q := tileChunk x.acc r.cmd.bank r.cmd.half r.cmd.x l.rows l.cols
    let flags := orFlags r.flags q.2
    let x := { x with
      acc := q.1
      latch := none }
    if chunksOf (l.pairs.headD (0, 0)) r.cmd.x r.k ≤ r.chunk + 1 then endCommand (s.setTile c { x with running := others }) c r.queue r.cmd flags 0
    else s.setTile c { x with running := others ++ [{ r with
      chunk := r.chunk + 1
      pairs := l.pairs
      flags := flags }] }

/-! ## Group geometry (R241) -/

/-- row0, col0, the row mask and the column mask of tile steps s and t. -/
def tileWindow (g : BitVec 128) (s t : Nat) : Nat × Nat × Nat × Nat :=
  let f (hi lo : Nat) : Nat := (g.extractLsb' lo (hi - lo + 1)).toNat
  let row0 := (f 47 32 + s * f 15 0) * 16
  let col0 := (f 63 48 + t * f 31 16) * 16
  let mask (base bound : Nat) : Nat := (List.range 16).foldl (fun m i => if base + i < bound then m + 2 ^ i else m) 0
  (row0, col0, mask row0 (f 95 64), mask col0 (f 127 96))

def tgeo (w : BitVec 32) (s : BitVec 3) (d : BitVec 5) (f : Nat × Nat × Nat × Nat → Nat) (st : State) : Out :=
  issue { word := w, stall := s.toNat, reads := [(.g, d.toNat)], cls := .irrev, home := true } st fun z t =>
    let th := z.thread t
    let x := th.readG d.toNat
    .ok (z.setThread t (th.putG d.toNat (BitVec.ofNat 64 (f (tileWindow ((z.core t.core).ggeoOf t.thr) (field x 15 0) (field x 31 16))))), .seq)

/-- QPUSH (R262): Pushes a tile command described by a register pair -/
def execQpush (s : BitVec 3) (d : BitVec 5) (q : BitVec 3) (e : BitVec 14) (st : State) : Out :=
  issue { word := (88#7 ++ s ++ d ++ q ++ e), stall := s.toNat, legal := d.toNat % 2 == 0 && cmdQueue q, reads := [(.g, d.toNat), (.g, d.toNat + 1)], cls := .irrev, home := true } st fun z t => do
    let th := z.thread t
    let w := th.readG d.toNat
    match qpushOp w with
    | none => throw (.trap cOPERAND_RANGE w)
    | some op =>
      let c := mkCmd op (w.extractLsb' 4 6) (w.extractLsb' 3 1) (w.extractLsb' 2 1) (w.extractLsb' 0 2) (th.readG (d.toNat + 1)) [] 0 th.satMod
      let z ← pushCmd z t q.toNat c
      return (z, .seq)

/-- QPOP (R262): Pops the oldest completion word, parking while empty -/
def execQpop (s : BitVec 3) (d : BitVec 5) (q : BitVec 3) (e : BitVec 14) (st : State) : Out :=
  issue { word := (89#7 ++ s ++ d ++ q ++ e), stall := s.toNat, legal := !cmdQueue q, cls := .irrev, home := true } st fun z t =>
    let x := (z.core t.core).tile
    let tq := x.queues.toList.getD (q.toNat - 4) .reset
    match tq.done with
    | [] => .error (.park false .reissue)
    | w :: ws =>
      let z := orderStores (z.setTile t.core { x with queues := x.queues.setIfInBounds (q.toNat - 4) { tq with done := ws } }) t
      .ok (z.setThread t ((z.thread t).putG d.toNat w), .seq)

/-- TLDA (R256): Pushes a command arming the queue's A stream as rows -/
def execTlda (s : BitVec 3) (d : BitVec 5) (q : BitVec 3) (b : BitVec 6) (h n : BitVec 1) (r : BitVec 2) (st : State) : Out :=
  tilePush (90#7 ++ s ++ d ++ q ++ 0#4 ++ b ++ h ++ n ++ r) s q (cmdQueue q) [(.g, d.toNat)] (fun t => mkCmd .tlda b h n r (t.readG d.toNat) [] 0 false) .seq st

/-- TLDB (R256): Pushes a command arming the queue's B stream -/
def execTldb (s : BitVec 3) (d : BitVec 5) (q : BitVec 3) (b : BitVec 6) (h n : BitVec 1) (r : BitVec 2) (st : State) : Out :=
  tilePush (90#7 ++ s ++ d ++ q ++ 1#4 ++ b ++ h ++ n ++ r) s q (cmdQueue q) [(.g, d.toNat)] (fun t => mkCmd .tldb b h n r (t.readG d.toNat) [] 0 false) .seq st

/-- TMMA (R257): Pushes a multiply of the A and B streams over K into a bank half -/
def execTmma (s : BitVec 3) (d : BitVec 5) (q : BitVec 3) (b : BitVec 6) (h n : BitVec 1) (r : BitVec 2) (st : State) : Out :=
  tilePush (90#7 ++ s ++ d ++ q ++ 3#4 ++ b ++ h ++ n ++ r) s q (cmdQueue q) [(.g, d.toNat)] (fun t => mkCmd .tmma b h n r (t.readG d.toNat) [] 0 false) .seq st

/-- TSPM (R258): Checks a sparse A tile header and pushes a sparse multiply -/
def execTspm (s : BitVec 3) (d : BitVec 5) (q : BitVec 3) (b : BitVec 6) (h n : BitVec 1) (r : BitVec 2) (st : State) : Out :=
  tilePush (90#7 ++ s ++ d ++ q ++ 4#4 ++ b ++ h ++ n ++ r) s q (cmdQueue q) [(.g, d.toNat)] (fun t => mkCmd .tspm b h n r (t.readG d.toNat) [] 0 false) .seq st

/-- TZERO (R259): Pushes a command writing the semiring identity to a half -/
def execTzero (s : BitVec 3) (d : BitVec 5) (q : BitVec 3) (b : BitVec 6) (h n : BitVec 1) (r : BitVec 2) (st : State) : Out :=
  tilePush (90#7 ++ s ++ d ++ q ++ 5#4 ++ b ++ h ++ n ++ r) s q (cmdQueue q) [] (fun _ => mkCmd .tzero b h n r 0 [] 0 false) .seq st

/-- TLDC (R260): Pushes a command loading a C tile into a half -/
def execTldc (s : BitVec 3) (d : BitVec 5) (q : BitVec 3) (b : BitVec 6) (h n : BitVec 1) (r : BitVec 2) (st : State) : Out :=
  tilePush (90#7 ++ s ++ d ++ q ++ 6#4 ++ b ++ h ++ n ++ r) s q (cmdQueue q) [(.g, d.toNat)] (fun t => mkCmd .tldc b h n r (t.readG d.toNat) [] 0 false) .seq st

/-- TSTC (R260): Pushes a command storing a half to memory -/
def execTstc (s : BitVec 3) (d : BitVec 5) (q : BitVec 3) (b : BitVec 6) (h n : BitVec 1) (r : BitVec 2) (st : State) : Out :=
  tilePush (90#7 ++ s ++ d ++ q ++ 7#4 ++ b ++ h ++ n ++ r) s q (cmdQueue q) [(.g, d.toNat)] (fun t => mkCmd .tstc b h n r (t.readG d.toNat) [] 0 t.satMod) .seq st

/-- TGTHA (R256): Pushes a command arming the A stream as gathered rows -/
def execTgtha (s : BitVec 3) (d : BitVec 5) (q : BitVec 3) (b : BitVec 6) (h n : BitVec 1) (r : BitVec 2) (st : State) : Out :=
  tilePush (90#7 ++ s ++ d ++ q ++ 2#4 ++ b ++ h ++ n ++ r) s q (cmdQueue q) [(.v, d.toNat)] (fun t => mkCmd .tgtha b h n r 0 (lanesOf (t.readV d.toNat)) 0 false) .seq st

/-- ABAL (R261): Pushes an allocation of n consecutive accumulator banks and parks until done -/
def execAbal (s : BitVec 3) (d : BitVec 5) (q : BitVec 3) (f c : BitVec 6) (st : State) : Out :=
  tilePush (91#7 ++ s ++ d ++ q ++ 0#2 ++ f ++ c) s q (cmdQueue q) [] (fun _ => mkCmd .abal f 0 0 0 0 [] (c.toNat + 1) false) (.sent false d.toNat) st

/-- ABFR (R261): Pushes the freeing of owned banks and parks until done -/
def execAbfr (s : BitVec 3) (d : BitVec 5) (q : BitVec 3) (f c : BitVec 6) (st : State) : Out :=
  tilePush (91#7 ++ s ++ d ++ q ++ 1#2 ++ f ++ c) s q (cmdQueue q && decide (f.toNat + c.toNat + 1 ≤ 64)) [] (fun _ => mkCmd .abfr f 0 0 0 0 [] (c.toNat + 1) false) (.sent false 0) st

/-- LSET (R263): Writes a tile loop register -/
def execLset (s : BitVec 3) (d : BitVec 5) (q : BitVec 3) (e : BitVec 14) (st : State) : Out :=
  issue { word := (92#7 ++ s ++ d ++ q ++ e), stall := s.toNat, reads := [(.g, d.toNat)], cls := .irrev, home := true } st fun z t =>
    let x := (z.core t.core).tile
    .ok (z.setTile t.core { x with loops := x.loops.setIfInBounds q.toNat (((z.thread t).readG d.toNat).setWidth 32) }, .seq)

/-- TGEO_ORG (R264): Computes this core's tile window origin from GGEO -/
def execTgeoOrg (s : BitVec 3) (d : BitVec 5) (q : BitVec 3) (e : BitVec 13) (st : State) : Out :=
  tgeo (93#7 ++ s ++ d ++ q ++ e ++ 0#1) s d (fun r => min r.2.1 (2 ^ 32 - 1) * 2 ^ 32 + min r.1 (2 ^ 32 - 1)) st

/-- TGEO_MASK (R264): Computes this core's edge masks from GGEO -/
def execTgeoMask (s : BitVec 3) (d : BitVec 5) (q : BitVec 3) (e : BitVec 13) (st : State) : Out :=
  tgeo (93#7 ++ s ++ d ++ q ++ e ++ 1#1) s d (fun r => r.2.2.2 * 65536 + r.2.2.1) st

/-- TILE_COMMAND_BEGIN (R237): The tile engine takes the next command from its queue rotation once it may begin -/
def execTileCommandBegin (c : Nat) (st : State) : Out :=
  if !settRuns st (settOf c) then .next st
  else if let some (e, b) := waitingRun (st.core c) then .next (lapse (takeRun st c e.1 e.2 b))
  else if !engineIdleFor st c then .next st
  else match nextCommand st c with
    | some (q, m) => .next (lapse (beginCommand (takeCommand st c q m) c q m))
    | none => .next st

/-- COMPLETION_WORD_POST (R265): A notifying command posts its completion word, waiting for room -/
def execCompletionWordPost (c q : Nat) (st : State) : Out :=
  let x := (st.core c).tile
  let tq := x.queues.toList.getD q .reset
  match dueWord x q with
  | some (e, w) =>
    if q < 4 ∧ tq.done.length < 16 then
      .next (lapse (st.setTile c { x with queues := x.queues.setIfInBounds q { tq with
        done := tq.done ++ [w]
        ended := tq.ended.filter fun y => e.order < y.order } }))
    else .next st
  | none => .next st

end Sys2Proof.Machine
end

