-- ==== Sys2Proof/Machine/TileTask.lean ====
section
/-! DEFINITION. The queued door: the holt tile scheduler, tile tasks and grouped tasks (15_tile_model.md R242 to R251,
16_tile_isa.md R266, R267). -/

namespace Sys2Proof.Machine

open Sys2Proof

/-! ## Records (Tables 15.5 and 16.5) -/

def trOp (b : List Byte) : Nat := blkNat b 0 1
def trCtrl (b : List Byte) : Nat := blkNat b 1 1
def trSr (b : List Byte) : Nat := trCtrl b % 4
def trCin (b : List Byte) : Bool := (trCtrl b).testBit 2
def trCout (b : List Byte) : Bool := (trCtrl b).testBit 3
def trSat (b : List Byte) : Bool := (trCtrl b).testBit 4
def trConsume (b : List Byte) : Bool := (trCtrl b).testBit 5
def trK (b : List Byte) : Nat := blkNat b 8 4
def trA (b : List Byte) : Nat := blkNat b 12 4
def trB (b : List Byte) : Nat := blkNat b 16 4
def trC (b : List Byte) : Nat := blkNat b 20 4
def trLda (b : List Byte) : Nat := blkNat b 24 2
def trLdb (b : List Byte) : Nat := blkNat b 26 2
def trLdc (b : List Byte) : Nat := blkNat b 28 2
def trAcc (b : List Byte) : Nat := blkNat b 30 2 % 64
def trPin (b : List Byte) : Bool := (blkNat b 30 2).testBit 14
def trOwner (b : List Byte) : Nat := blkNat b 44 2
def trPinvc (b : List Byte) : Nat := blkNat b 46 2 % 8192
def trSignal (b : List Byte) : Word := wordOf ((b.drop 48).take 8)
def trG (b : List Byte) : Nat := blkNat b 2 2
def trGstride (b : List Byte) : Nat := blkNat b 4 2
def trCntaddr (b : List Byte) : Nat := blkNat b 56 4

/-- The used handle fields at some byte offsets: sett position and handle. -/
def handleFields (b : List Byte) (offs : List Nat) : List (Nat × Nat) :=
  (offs.map fun o => blkNat b o 2).filterMap fun f => if f.testBit 15 then some (f / 256 % 8, f % 256) else none
def trWaits (b : List Byte) : List (Nat × Nat) := handleFields b [32, 34, 36, 38]
def trProds (b : List Byte) : List (Nat × Nat) := handleFields b [40, 42]

/-- Table 15.6 and R267: the reason for which a record is malformed, 0 for none. DESIGN CHOICE (log 76): of several the lowest; and the
run beyond ab63 of reason 4 is looked at only with PIN = 1, without which ACC names no run. -/
def recordMalformed (s : State) (t : Tid) (b : List Byte) (group : Bool) : Nat :=
  let x := ctxOf s t
  let mt := blkNat b 4 2
  let nt := blkNat b 6 2
  let k := trK b
  let pinHere := trPinvc b / 48 = vcIn s x t.core / 48 ∧ (coreOfVc s x (trPinvc b)).isSome
  if nt = 0 ∨ 32 < nt ∨ k = 0 ∨ 2 ^ 24 < k ∨ (!group ∧ (3 < trOp b ∨ mt = 0 ∨ 32 < mt ∨ 32 < mt * nt)) then 1
  else if (trWaits b ++ trProds b).any (fun h => 6 ≤ h.1) then 2
  else if !inSubtree s x (trOwner b) then 3
  else if trPin b ∧ (¬ pinHere ∨ (!group ∧ 64 < trAcc b + (mt * nt + 1) / 2)) then 4
  else if (trSignal b).toNat % 16 ≠ 0 then 5
  else if group ∧ (trOp b ≠ 0 ∨ trG b = 0 ∨ 256 < trG b ∨ trCntaddr b % 2 = 1) then 6
  else 0

/-- The row counts of a grouped record, read through the holt window (R266). -/
def countTable (s : State) (t : Tid) (b : List Byte) : Except Stop (List Nat) :=
  let w := windowOf s t
  match (span (trCntaddr b) (2 * trG b)).mapM (holtByte s w.ctx w.core) with
  | none => .error (.trap cSEG_LIMIT (BitVec.ofNat 64 (trCntaddr b)))
  | some ks =>
    -- the issuer's earlier posted stores to the table come first (R80, R82)
    let bs := readPlaces (settlePosted s t ks) ks
    .ok ((List.range (trG b)).map fun g => blkNat bs (2 * g) 2)

/-- STATUS of a record (Table 15.5). -/
def writeStatus (s : State) (y : TileTask) (st flags cause : Nat) : State :=
  writePlaces s (span (y.recPlace + 60) 4) (leBytes (st + flags % 256 * 256 + cause % 256 * 65536) 4)

/-- Tasks in the scheduler of the holt in which a unit lies (R244): there is one for all contexts of the holt (Table 1.3). -/
def holtTiles (s : State) (u : Nat) : Nat :=
  (s.units.filter fun e => unitHolt s e.1 == unitHolt s u).foldl (fun n e => n + e.2.tasks.length) 0

/-- The next number of a tile task: later tasks have higher ones. -/
def nextTile (s : State) : Nat := s.units.foldl (fun n e => max n e.2.nextTask) 0

/-- `TTASK` and `TGRP` (R266). -/
def taskIssue (w : BitVec 32) (group : Bool) (s : BitVec 3) (d : BitVec 5) (st : State) : Out :=
  issue { word := w, stall := s.toNat, reads := [(.g, d.toNat)], cls := .irrev, home := true } st fun z t => do
    let k ← ownBlock z t ((z.thread t).readG d.toNat) 64 64 rRD
    let z := settlePosted z t k.2
    let b := readPlaces z k.2
    let counts ← if group then countTable z t b else .ok []
    let v := viewOf z t
    if trSignal b ≠ 0 then let _ ← segCheck z v (trSignal b) 16 rAMO
    let bad := recordMalformed z t b group
    if bad ≠ 0 then throw (.trap cTILE_MALFORMED (BitVec.ofNat 64 bad))
    let u := unitOf z t
    let x := z.unit u
    if 256 ≤ holtTiles z u then throw (.park false .reissue)
    let n := nextTile z
    let c := if trPin b then (coreOfVc z (ctxOf z t) (trPinvc b)).getD t.core else t.core
    let y : TileTask := ⟨n, b, group, counts, t, k.2.headD 0, v.segBase, v.segLimit, 0, false, false, c, 0, 0, 0, none, 0, 0⟩
    let z := writeStatus z y 0 0 0
    return (z.setUnit u { x with
      tasks := x.tasks ++ [y]
      nextTask := n + 1 }, .seq)

/-! ## Handles and signals of a task (R244, R245, R251) -/

def putTask (s : State) (u : Nat) (y : TileTask) : State :=
  let x := s.unit u
  s.setUnit u { x with tasks := x.tasks.map fun z => if z.id == y.id then y else z }

def dropTask (s : State) (u : Nat) (y : TileTask) : State :=
  let x := s.unit u
  s.setUnit u { x with tasks := x.tasks.filter fun z => z.id != y.id }

/-- The sett of a position of a unit's virtual holt. -/
def unitSett (s : State) (u pos : Nat) : Option Nat := (coreOfVc s (u / 2 ^ 16) (u % 2 ^ 16 * 48 + pos * 8)).map settOf

/-- The handle of a field among its sett's: a resident context has handles of its own. -/
def unitHandle (s : State) (u : Nat) (h : Nat × Nat) : Nat := h.2 + if (s.ctx (u / 2 ^ 16)).isRes then 256 else 0

/-- A handle field of a unit's task holds a state. -/
def fieldIs (s : State) (u st : Nat) (h : Nat × Nat) : Bool :=
  match unitSett s u h.1 with
  | some i => hState ((s.sett i).handle (unitHandle s u h)) == st
  | none => false

/-- Changes the handles of some fields. -/
def setFields (s : State) (u : Nat) (f : Word → Word) : List (Nat × Nat) → State
  | [] => s
  | h :: hs =>
    let s := match unitSett s u h.1 with
      | some i => setHandleOf s i (unitHandle s u h) (f ((s.sett i).handle (unitHandle s u h)))
      | none => s
    setFields s u f hs

/-- The handle conditions of R244. -/
def handlesReady (s : State) (u : Nat) (b : List Byte) : Bool :=
  (trWaits b).all (fieldIs s u hFull) && (trProds b).all (fieldIs s u hFree)

/-- Steps 2 and 3 of R244; a handle that starts to fill loses its REASON, DISCARD and ERR. -/
def admitTask (s : State) (u : Nat) (y : TileTask) : State :=
  let s := if trConsume y.rec_ then setFields s u (fun w => withState w hDraining) (trWaits y.rec_) else s
  let s := setFields s u (fun w => BitVec.ofNat 64 (field w 63 32 * 2 ^ 32 + hFilling)) (trProds y.rec_)
  putTask (writeStatus s y 1 y.flags 0) u { y with admitted := true }

def freeConsumed (s : State) (u : Nat) (b : List Byte) : State :=
  if trConsume b then setFields s u (fun w => if hState w = hDraining then withState w hFree else w) (trWaits b) else s

def taskView (u : Nat) (y : TileTask) : View := ⟨u / 2 ^ 16, y.issuer.core, y.segBase, y.segLimit⟩

/-- The source number of the engine that runs a task, ran it last, or would have (Table 1.5). -/
def tileSource (s : State) (u : Nat) (y : TileTask) : Nat :=
  srcKind 2 (vcIn s (u / 2 ^ 16) y.core)

/-- TILE_FAULT on the issuer; EVAL names the record by its scratchpad offset. -/
def tileFault (s : State) (u : Nat) (y : TileTask) (cause : Nat) : State :=
  pendTrap s y.issuer (tileSource s u y) cTILE_FAULT (BitVec.ofNat 64 (y.recPlace % 2 ^ 18 + cause * 2 ^ 32))

/-- R266: one decrement of the task's signal object. -/
def taskSignal (s : State) (u : Nat) (y : TileTask) : State :=
  if trSignal y.rec_ = 0 then s
  else engineSignal s (taskView u y) (trSignal y.rec_) false 1 (some ⟨y.issuer, tileSource s u y, cTILE_FAULT, y.recPlace % 2 ^ 18, false⟩)

/-- The banks that an unpinned task holds are free again. -/
def releaseBanks (s : State) (y : TileTask) : State :=
  if !y.running || trPin y.rec_ then s
  else
    let x := (s.core y.core).tile
    s.setTile y.core (setOwners x y.banks 16)

/-- R251: a task that fails. -/
def failTask (s : State) (u : Nat) (y : TileTask) (cause : Nat) : State :=
  let s := releaseBanks s y
  let s := writeStatus s y 3 y.flags cause
  let s := setFields s u (fun w => withState w hFree ||| 4) (trProds y.rec_)
  let s := freeConsumed s u y.rec_
  let s := signalError s (taskView u y) (trSignal y.rec_)
  tileFault (dropTask s u y) u y cause

/-- The end of a task, or of the last group (R245, R249): STATUS, handles; the signal is decremented by the caller's groups. -/
def finishTask (s : State) (u : Nat) (y : TileTask) : State :=
  let s := writeStatus s y 2 y.flags 0
  let s := setFields s u (fun w => withState w hFull) (trProds y.rec_)
  dropTask (freeConsumed s u y.rec_) u y

/-- Completes the empty groups from the present one on: each decrements SIGNAL; after the last group the task ends (R249). -/
def passEmpty : Nat → State → Nat → TileTask → State
  | 0, s, _, _ => s
  | n + 1, s, u, y =>
    if y.counts.length ≤ y.g then s
    else if y.counts.getD y.g 0 ≠ 0 then putTask s u y
    else if y.g + 1 = y.counts.length then taskSignal (finishTask s u y) u y
    else passEmpty n (taskSignal s u y) u { y with g := y.g + 1 }

/-! ## Dispatch (R244) -/

/-- The window, the addresses and the streams of a task's present group. -/
def taskWin (u : Nat) (y : TileTask) : Win := ⟨u / 2 ^ 16, y.issuer.core⟩
def baseRow (y : TileTask) : Nat := (y.counts.take y.g).foldl (· + ·) 0
def taskA (y : TileTask) : Nat := trA y.rec_ + (if y.group then baseRow y * trLda y.rec_ else 0)
def taskB (y : TileTask) : Nat := trB y.rec_ + (if y.group then y.g * trGstride y.rec_ * 64 else 0)
def taskC (y : TileTask) : Nat := trC y.rec_ + (if y.group then baseRow y * trLdc y.rec_ else 0)
def isSparseTask (y : TileTask) : Bool := trOp y.rec_ == 1 || trOp y.rec_ == 2

/-- The format pair of a task, as its operands' shelves stand. -/
def taskPair (s : State) (u : Nat) (y : TileTask) : Nat × Nat :=
  (winFmt s (taskWin u y) (taskA y) % 16, winFmt s (taskWin u y) (taskB y) % 16)

/-- K-chunks of one output tile: none for OP 3; a sparse chunk is 32 positions. -/
def taskChunks (s : State) (u : Nat) (y : TileTask) : Nat :=
  if trOp y.rec_ = 3 then 0
  else if isSparseTask y then (trK y.rec_ + 31) / 32
  else chunksOf (y.pair.getD (taskPair s u y)) (trSr y.rec_) (trK y.rec_)

/-- An engine for an unpinned task: idle, of a core that the context holds in the holt, with the run of banks free. -/
def engineTakes (s : State) (u : Nat) (y : TileTask) (c bank : Nat) : Bool :=
  let x := (s.core c).tile
  let x' := u / 2 ^ 16
  coreOfVc s x' (vcIn s x' c) == some c && vcIn s x' c / 48 == u % 2 ^ 16 && settRuns s (settOf c)
    && x.queues.toList.all (fun q => q.cmds.isEmpty) && x.waiting.isEmpty && x.running.isEmpty && (runningTasks s c).isEmpty
    && bank + (y.mt * y.nt + 1) / 2 ≤ bankTop (s.core c) && (span bank ((y.mt * y.nt + 1) / 2)).all fun b => x.ownerOf b == 16

/-- R236 for a pinned task: no earlier command that names one of its banks is unfinished, nor one that is still to post its word
(R237), and no running task shares a bank. -/
def pinnedMayBegin (s : State) (c : Nat) (y : TileTask) : Bool :=
  let x := (s.core c).tile
  let bs := span (trAcc y.rec_) ((y.mt * y.nt + 1) / 2)
  settRuns s (settOf c) && !((runningTasks s c).any fun t => meets bs t.2.banks)
    && !(x.queues.toList.any fun q => q.cmds.any (fun m => meets bs (cmdBanks m)) || q.ended.any fun e => e.nt && meets bs e.banks)
    && !(x.running.any fun r => meets bs (cmdBanks r.cmd))

/-- Every group from the present one on is empty. -/
def allEmpty (y : TileTask) : Bool := y.group && (y.counts.drop y.g).all (· == 0)

/-- The task at its first group that is not empty. -/
def skipEmpty (y : TileTask) : TileTask := { y with g := y.g + ((y.counts.drop y.g).takeWhile (· == 0)).length }

/-- A task that takes an engine and banks of the scheduler's choice. -/
def needsEngine (y : TileTask) : Bool := !(allEmpty y || trPin y.rec_ || decide (32 < (if y.group then skipEmpty y else y).mt * y.nt))

/-- Some engine of the holt takes an unpinned task. -/
def someEngine (s : State) (u : Nat) (y : TileTask) : Bool :=
  (List.range 48).any fun p => match coreOfVc s (u / 2 ^ 16) (u % 2 ^ 16 * 48 + p) with
    | some c => (match freeRun (s.core c) ((y.mt * y.nt + 1) / 2) with
      | some b => engineTakes s u y c b
      | none => false)
    | none => false

/-- A queued task, or a grouped one between groups, is ready (R244). -/
def taskReady (s : State) (u : Nat) (y : TileTask) : Bool :=
  let z := if y.group then skipEmpty y else y
  !y.running && settRuns s (settOf y.issuer.core) && (y.admitted || handlesReady s u y.rec_) &&
    (if needsEngine y then someEngine s u z
     else if allEmpty y || !trPin y.rec_ then true
     else match coreOfVc s (u / 2 ^ 16) (trPinvc y.rec_) with
      | some p => pinnedMayBegin s p z
      | none => false)

/-- The owners with a task waiting on a die (R332). -/
def taskWaiters (s : State) (d : Nat) : List Nat :=
  (s.units.map fun e => match e.2.tasks.head? with
    | some y => if dieOf s y.issuer.core == d then (e.2.tasks.filter fun z => !z.running).map fun z => trOwner z.rec_ else []
    | none => []).flatten

/-- The ready tasks of a unit's holt with their units, the oldest first. -/
def readyTasks (s : State) (u : Nat) : List (Nat × TileTask) :=
  sortBy (fun a b => decide (a.2.id ≤ b.2.id))
    ((s.units.filter fun e => unitHolt s e.1 == unitHolt s u).flatMap fun e => (e.2.tasks.filter (taskReady s e.1)).map fun y => (e.1, y))

/-- The handles that a task is to fill and has not taken. -/
def fills (s : State) (e : Nat × TileTask) : List Nat :=
  if e.2.admitted then [] else (trProds e.2.rec_).filterMap fun h => (unitSett s e.1 h.1).map fun i => i * 512 + unitHandle s e.1 h

/-- The tasks that the scheduler may serve: each owner's oldest, and of two that fill one handle the older (R244, Table 15.8). -/
def heads (s : State) : List (Nat × TileTask) → List (Nat × TileTask) → List (Nat × TileTask)
  | _, [] => []
  | before, e :: es =>
    let rest := heads s (before ++ [e]) es
    if before.any fun b => trOwner b.2.rec_ == trOwner e.2.rec_ || meets (fills s b) (fills s e) then rest else e :: rest

/-- Dispatches a ready task whose tokens are paid (R244, R249). -/
def dispatchTask (s : State) (u : Nat) (y : TileTask) (c bank : Nat) : State :=
  let s := if y.admitted then s else admitTask s u y
  let y := { y with admitted := true }
  if allEmpty y then passEmpty (y.counts.length + 1) s u y
  else
    let s := if y.group then passEmpty (y.counts.length + 1) s u y else s
    let y := if y.group then skipEmpty y else y
    let need := (y.mt * y.nt + 1) / 2
    if 32 < y.mt * y.nt then failTask s u y cTILE_MALFORMED
    else if trPin y.rec_ then
      let p := (coreOfVc s (u / 2 ^ 16) (trPinvc y.rec_)).getD c
      if 64 < trAcc y.rec_ + need then failTask s u y cTILE_MALFORMED
      else if (span (trAcc y.rec_) need).any fun b => 16 ≤ (s.core p).tile.ownerOf b then failTask s u y cACC_OWNER
      else putTask s u { y with
        running := true
        core := p
        bank := trAcc y.rec_
        tile := 0
        chunk := 0
        pair := none }
    else
      let s := s.setTile c (setOwners (s.core c).tile (span bank need) 17)
      putTask s u { y with
        running := true
        core := c
        bank := bank
        tile := 0
        chunk := 0
        pair := none }

/-- The tokens of a dispatch: the chunks of the present group (R331). -/
def taskCost (s : State) (u : Nat) (y : TileTask) : Nat :=
  let z := if y.group then skipEmpty y else y
  if allEmpty y then 0 else z.mt * z.nt * taskChunks s u { z with pair := none }

/-- The first of the tasks that may be served whose owner's tokens cover it, and the state with the tokens taken. -/
def servedTask (s : State) : List (Nat × TileTask) → Option (State × Nat × TileTask)
  | [] => none
  | (u, y) :: es =>
    let die := dieOf s y.issuer.core
    match spend s (trOwner y.rec_) die 0 (taskCost s u y) ((taskWaiters s die).filter (· != trOwner y.rec_)) with
    | some z => some (z, u, y)
    | none => servedTask s es

/-- The task that the scheduler of a unit's holt dispatches, if it is one of the unit and the engine and the bank are a choice for it. -/
def chooseTask (s : State) (u c bank : Nat) : Option (State × TileTask) :=
  match servedTask s (heads s [] (readyTasks s u)) with
  | some (z, v, y) => if v = u ∧ (!needsEngine y || engineTakes s u (if y.group then skipEmpty y else y) c bank) then some (z, y) else none
  | none => none

/-! ## Running (R245) -/

/-- The rows of the present output tile that exist. -/
def taskRows (y : TileTask) : Nat :=
  let i := y.tile / max 1 y.nt
  if y.group then (List.range 16).foldl (fun m r => if 16 * i + r < y.counts.getD y.g 0 then m + 2 ^ r else m) 0 else 65535

/-- Accumulators are INT32 for an int8 pair, and under or-and. -/
def taskInt (y : TileTask) (p : Nat × Nat) : Bool := if trOp y.rec_ = 3 then trSr y.rec_ == 3 else p.1 == 6 && p.2 == 6

/-- Latches one K-chunk of the present output tile: the operands of R245, R246 and R267. DESIGN CHOICE (log 78): the directory of an
OP 2 task is not read, so its address outside the window fails nothing (R251). -/
def taskLatch (s : State) (u : Nat) (y : TileTask) : Eng ((Nat × Nat) × List Line × List Line) :=
  let b := y.rec_
  let w := taskWin u y
  let i := y.tile / y.nt
  let j := y.tile % y.nt
  let fb := winFmt s w (taskB y) % 16
  let bStream : Stream := ⟨.rows, taskB y + (if fb = 7 then 16 * j * trLdb b else 16 * j * fmtNibbles fb / 2), trLdb b, 65535, []⟩
  if isSparseTask y then do
    let kc := (trK b + 31) / 32
    let limit := min 32 (trK b - 32 * y.chunk)
    -- DESIGN CHOICE (log 23): the images lie in the order of the directory's entries, LDA and LDB bytes apart
    let aImg := taskA y + (i * kc + y.chunk) * trLda b
    if aImg % 16 ≠ 0 then throw cMISALIGN
    let rows ← sparseLines s w aImg (taskRows y) aBit limit
    let cs ← if trOp b = 1 then sparseCols s w bStream (taskB y) y.chunk limit
      else sparseCols s w ⟨.sparse, taskB y + (y.chunk * y.nt + j) * trLdb b, 0, 65535, []⟩ 0 0 limit
    let fa := winFmt s w aImg % 16
    let p ← sparsePair (trSr b) fa cs.2
    return (p, rows, cs.1)
  else do
    let r ← denseLatch s w (trSr b) ⟨.rows, taskA y + 16 * i * trLda b, trLda b, taskRows y, []⟩ bStream (taskA y) (taskB y) (trK b) y.chunk
      y.pair.toList
    return (r.1.headD (0, 0), r.2)

/-- The accumulators at the start of an output tile, whose operands are of a pair: C or the identity. -/
def taskOpen (s : State) (u : Nat) (y : TileTask) (pair : Nat × Nat) (acc : KMap (BitVec 32)) : Eng (KMap (BitVec 32)) :=
  let b := y.rec_
  let bank := y.bank + y.tile / 2
  let half := y.tile % 2
  let w := taskWin u y
  let f := winFmt s w (taskC y) % 16
  if trOp b ≠ 3 ∧ trCin b then
    loadC s w acc bank half (taskInt y pair) (taskC y + 16 * (y.tile / y.nt) * trLdc b + 16 * (y.tile % y.nt) * fmtNibbles f / 2)
      (trLdc b) (taskC y) (taskRows y) 65535
  else .ok (fillHalf acc bank half (identityBits (trSr b)))

/-- The C write at the end of an output tile, by the pair that was latched (R69). -/
def taskClose (s : State) (u : Nat) (y : TileTask) (acc : KMap (BitVec 32)) : Eng (State × Nat) :=
  let b := y.rec_
  let w := taskWin u y
  let f := winFmt s w (taskC y) % 16
  if trCout b then
    storeC s w acc (y.bank + y.tile / 2) (y.tile % 2) (taskInt y (y.pair.getD (taskPair s u y))) (trSat b)
      (taskC y + 16 * (y.tile / y.nt) * trLdc b + 16 * (y.tile % y.nt) * fmtNibbles f / 2) (trLdc b) (taskC y) (taskRows y) 65535
  else .ok (s, 0)

/-- The chunk in flight of a task is added to its accumulators (R250); the flags so far. -/
def addChunk (s : State) (u : Nat) (y : TileTask) : State × Nat :=
  let x := (s.core y.core).tile
  match x.latch with
  | none => (s, y.flags)
  | some l =>
    if y.running && l.task == some (u, y.id) then
      let r := tileChunk x.acc (y.bank + y.tile / 2) (y.tile % 2) (trSr y.rec_) l.rows l.cols
      (s.setTile y.core { x with
        acc := r.1
        latch := none }, orFlags y.flags r.2)
    else (s, y.flags)

/-- The end of an output tile: its C write, and the next tile. -/
def closeTile (s : State) (u : Nat) (y : TileTask) (acc : KMap (BitVec 32)) : Eng (State × TileTask) := do
  let q ← taskClose s u y acc
  return (setAcc q.1 y.core acc, { y with
    tile := y.tile + 1
    chunk := 0
    pair := none
    flags := orFlags y.flags q.2 })

/-- A running task opens an output tile and latches its next chunk, or adds the chunk it has latched and closes the tile after the
last; OP 3 has no chunks. A failure is kept as the task's cause. DESIGN CHOICE (log 77): the operation of R247, whose accumulator
a mismatch leaves as it was, is the chunk: those added before stay in the bank. -/
def taskChunk (s : State) (u : Nat) (y : TileTask) : State :=
  let x := (s.core y.core).tile
  let n := taskChunks s u y
  let go : Eng (State × TileTask) := match x.latch with
    | none => do
      let latched := taskLatch s u y
      let acc ← if y.chunk = 0 then taskOpen s u y ((latched.toOption.map (·.1)).getD (taskPair s u y)) x.acc else .ok x.acc
      if n = 0 then closeTile s u y acc
      else
        let r ← latched
        return (s.setTile y.core { x with
          acc := acc
          latch := some ⟨0, some (u, y.id), [r.1], r.2.1, r.2.2, []⟩ }, { y with pair := some r.1 })
    | some _ =>
      let r := addChunk s u y
      let y := { y with flags := r.2 }
      if y.chunk + 1 < n then .ok (r.1, { y with chunk := y.chunk + 1 }) else closeTile r.1 u y (r.1.core y.core).tile.acc
  match go with
  | .ok (s, y) => putTask s u y
  | .error e => putTask s u { y with
      cause := e
      chunk := 0 }

/-- R250: a task that a revocation aborts. -/
def abortTask (s : State) (u : Nat) (y : TileTask) : State :=
  let z := addChunk s u y
  let s := releaseBanks z.1 y
  let s := writeStatus s y 4 z.2 cTILE_FAULT
  let s := setFields s u (fun w => withState w hFree ||| 4) (trProds y.rec_)
  let s := if y.admitted then freeConsumed s u y.rec_ else s
  dropTask (signalError s (taskView u y) (trSignal y.rec_)) u y

/-- The running task has no more to compute. -/
def TileTask.finished (y : TileTask) : Bool := y.cause != 0 || y.mt * y.nt ≤ y.tile

/-- The end of a task's run: failure, the end of the task, or the end of one of its groups (R245, R249, R251). -/
def endTask (s : State) (u : Nat) (y : TileTask) : State :=
  if y.cause ≠ 0 then failTask s u y y.cause
  else
    let s := releaseBanks s y
    if !y.group then taskSignal (finishTask s u y) u y
    else if y.g + 1 = y.counts.length then taskSignal (finishTask s u y) u y
    else
      let z := { y with
        running := false
        g := y.g + 1
        tile := 0 }
      passEmpty (y.counts.length + 1) (taskSignal (putTask s u z) u z) u z

/-- TTASK (R266): Hands a tile-task record to the holt tile scheduler -/
def execTtask (s : BitVec 3) (d : BitVec 5) (q : BitVec 3) (e : BitVec 14) (st : State) : Out :=
  taskIssue (94#7 ++ s ++ d ++ q ++ e) false s d st

/-- TGRP (R266): Hands a grouped tile-task record to the scheduler -/
def execTgrp (s : BitVec 3) (d : BitVec 5) (q : BitVec 3) (e : BitVec 14) (st : State) : Out :=
  taskIssue (95#7 ++ s ++ d ++ q ++ e) true s d st

/-- TILE_CHUNK (R257): The tile engine latches and accumulates one K-chunk of one output tile -/
def execTileChunk (c n : Nat) (st : State) : Out :=
  let k := st.core c
  if let some l := k.tile.latch then
    -- the chunk in flight is finished, whatever stops the engine (R250)
    match l.task with
    | none => match k.tile.running.find? fun r => r.cmd.order == l.order with
      | some r => if n = 0 then .next (lapse (commandChunk st c r)) else .next st
      | none => .next st
    | some (u, id) => match (runningTasks st c)[n - 1]? with
      | some (v, y) => if n ≠ 0 ∧ v = u ∧ y.id = id then .next (lapse (taskChunk st u y)) else .next st
      | none => .next st
  else if !settRuns st (settOf c) then .next st
  else
    if n = 0 then
      -- R239: T13's command stops the others
      match (match k.tile.running.find? (fun r => r.cmd.thr == 13 && k.resActive) with
        | some r => some r
        | none => if t13First k then none else k.tile.running.head?) with
      | some r => .next (lapse (commandChunk st c r))
      | none => .next st
    else match (runningTasks st c)[n - 1]? with
      | none => .next st
      | some (u, y) =>
        -- between output tiles the commands pushed in the meantime run first (R245)
        if y.finished || !k.tile.running.isEmpty || t13First k || (y.chunk == 0 && 0 < y.tile && (nextCommand st c).isSome) then .next st
        else .next (lapse (taskChunk st u y))

/-- TASK_DISPATCH (R244): The holt scheduler dispatches a ready tile task or group, moving its handles -/
def execTaskDispatch (ctx vh c bank : Nat) (st : State) : Out :=
  let u := ctx * 2 ^ 16 + vh
  match chooseTask st u c bank with
  | some (s, y) => .next (lapse (dispatchTask s u y c bank))
  | none => .next st

/-- TASK_COMPLETION (R245): A tile task ends: C writes, STATUS, handles, signal decrement -/
def execTaskCompletion (c n : Nat) (st : State) : Out :=
  match (runningTasks st c)[n]? with
  | some (u, y) => if settRuns st (settOf c) && y.finished then .next (lapse (endTask st u y)) else .next st
  | none => .next st

end Sys2Proof.Machine
end

