-- ==== Sys2Proof/Machine/Context.lean ====
section
/-! DEFINITION. Contexts: creation, grants, revocations, teardown, reflection's answers, launches and the walker's answers
(21_contexts.md R319 to R345, 22 R341, R349 to R352, 08 R141). -/

namespace Sys2Proof.Machine

open Sys2Proof

/-! ## The tree (R319) -/

/-- Wherever a target context is taken, 0 names the issuer. -/
def targetOf (x n : Nat) : Nat := if n = 0 then x else n

/-- A dead context whose number is still free and whose parents lead to `a` (fuel: the depth is at most 8). -/
def deadUnder (s : State) : Nat → Nat → Nat → Bool
  | 0, _, _ => false
  | n + 1, a, x => match s.dead.find? x with
    | none => false
    | some p => inSubtree s a p || deadUnder s n a p

/-- The lowest free context number. -/
def freeContext (s : State) : Option Nat := (List.range 1024).find? fun i => (s.contexts.find? i).isNone

def depthCount (s : State) (d : Nat) : Nat := (s.contexts.filter fun e => e.2.depth == d).length

/-- Each die has 64 key slots (R226). -/
def keySlots : Nat := 64

/-- Takes or gives back a key slot on every enabled die. -/
def moveKeys (s : State) (f : Nat → Nat) : State :=
  (enabledDies s).foldl (fun s d => let x := s.die d; s.setDie d { x with keysUsed := f x.keysUsed }) s

/-! ## Malformed blocks (R335, R344, Table 21.19) -/

/-- A field that is bad: its offset, the reason and whether it is. -/
abbrev Check := Nat × Nat × Bool

/-- The first bad field in ascending offset; a list gives the fields of one offset with the reserved bits first. -/
def firstBad (cs : List Check) : Option (Nat × Nat) := (cs.find? (·.2.2)).map fun c => (c.1, c.2.1)

def malformedEval (instr : Nat) (b : Nat × Nat) : Word := BitVec.ofNat 64 (b.1 * 65536 + instr * 256 + b.2)

/-- Raises CTX_MALFORMED for the first bad field. -/
def rejectBad (instr : Nat) (cs : List Check) : Except Stop Unit :=
  match firstBad cs with
  | some b => .error (.trap cCTX_MALFORMED (malformedEval instr b))
  | none => .ok ()

/-- Bytes that must be zero. -/
def zeros (b : List Byte) (off n : Nat) : Check := (off, 1, blkNat b off n != 0)

/-- CTX_DENIED with a reason and the target (Table 21.16). -/
def denied {α : Type} (reason target : Nat) : Except Stop α := .error (.trap cCTX_DENIED (BitVec.ofNat 64 (reason + 256 * target)))
def limited {α : Type} (n : Nat) : Except Stop α := .error (.trap cCTX_LIMIT (BitVec.ofNat 64 n))

/-- Table 21.2. -/
def ctxnewChecks (b : List Byte) : List Check :=
  let codeLen := blkNat b 16 4
  let va := blkNat b 24 8
  [ (0, 1, blkNat b 0 1 / 4 != 0), (1, 1, blkNat b 1 1 / 64 != 0), (2, 1, blkNat b 2 2 / 8192 != 0), (4, 1, blkNat b 4 1 / 16 != 0)
  , zeros b 5 3, (8, 2, blkNat b 8 8 % 512 != 0), (16, 2, decide (codeLen < 4) || codeLen % 4 != 0)
  , (24, 2, decide (va < 4096) || decide (2 ^ 57 < va) || va % 4096 != 0), (40, 2, blkNat b 40 8 % 4096 != 0)
  , (48, 2, blkNat b 48 8 % 4096 != 0), (56, 1, blkNat b 62 1 != 0 || blkNat b 63 1 / 16 != 0), (56, 2, blkNat b 56 6 % 4096 != 0) ]

/-- A child as `CTXNEW` makes it: the block's attributes and no resources. -/
def childContext (s : State) (x : Nat) (b : List Byte) : Context :=
  let depth := (s.ctx x).depth + 1
  { Context.bare with
    parent := x
    depth := depth
    ownKey := blkNat b 0 1 % 2 == 1 || depth == 1
    isRes := (blkNat b 0 1).testBit 1
    reflect := BitVec.ofNat 6 (blkNat b 1 1)
    hvc := blkNat b 2 2
    hthr := blkNat b 4 1
    codeBase := blkNat b 8 8
    codeLen := blkNat b 16 4
    quant := Vector.ofFn fun (i : Fin 4) => blkNat b (20 + i) 1
    vaSize := blkNat b 24 8
    s1root := BitVec.ofNat 64 (blkNat b 32 8)
    bootVA := blkNat b 40 8
    bootPA := blkNat b 48 8
    bootLen := blkNat b 56 6
    bootRights := blkNat b 63 1 }

/-! ## Ranges (R324, R329, R330) -/

/-- The part of a flattened range inside a context-physical extent. -/
def clipRange (f : FRange) (lo hi : Nat) : Option FRange :=
  let a := max lo f.cpa
  let b := min hi (f.cpa + f.len)
  if a < b then some { f with
    cpa := a
    len := b - a
    dpa := f.dpa + (a - f.cpa)
    src := f.src + (a - f.cpa) } else none

/-- The parts outside an extent. -/
def outsideRange (f : FRange) (lo hi : Nat) : List FRange := (clipRange f 0 lo).toList ++ (clipRange f hi (2 ^ 64)).toList

/-- Two pieces of one range, next to each other. -/
def joins (a b : FRange) : Bool :=
  a.cpa + a.len == b.cpa && a.dpa + a.len == b.dpa && a.src + a.len == b.src && a.rights == b.rights && a.atom == b.atom
    && a.cache == b.cache && a.key == b.key && a.id == b.id && a.shared == b.shared && a.lentTo == b.lentTo

def joinRanges : List FRange → List FRange
  | a :: b :: fs => if joins a b then
      match joinRanges (b :: fs) with
      | c :: cs => { a with len := a.len + c.len } :: cs
      | [] => [a]
    else a :: joinRanges (b :: fs)
  | fs => fs

def sortRanges (fs : List FRange) : List FRange := sortBy (fun a b => decide (a.cpa ≤ b.cpa)) fs

/-- The pieces of a table that a context may use over an extent. -/
def heldPieces (c : Context) (lo hi : Nat) : List FRange := (c.ranges.filter (·.lentTo.isNone)).filterMap fun f => clipRange f lo hi

/-- The context whose key slot a context's ranges use: its own, or its partition's (R226, R324). -/
def keyOwner (s : State) (x : Nat) : Nat := if (s.ctx x).ownKey then x else partOf s 9 x

/-- A number that no range of a context has. -/
def freshRange (s : State) : Nat := s.contexts.foldl (fun n e => e.2.ranges.foldl (fun n f => max n (f.id + 1)) n) 0

/-- The flattened range that holds a context-physical address. -/
def rangeAt (c : Context) (a : Nat) : Option FRange := c.ranges.find? fun f => f.lentTo.isNone && decide (f.cpa ≤ a) && decide (a < f.cpa + f.len)

/-- The part of a TLB entry over a device-physical extent. -/
def clipEntry (e : TlbEntry) (d : Nat × Nat) : Option TlbEntry :=
  let a := max e.dpa d.1
  let b := min (e.dpa + e.vlen) (d.1 + d.2)
  if a < b then some { e with
    vbase := e.vbase + (a - e.dpa)
    vlen := b - a
    dpa := a } else none

/-- Removes the TLB entries of some contexts that use a flattened range which state `old` had and `s` has no more as it was, pinned or
not (R330); the supplied library's stands outside the tables (R342). Copies that still use one of the device-physical extents `ds`
that are gone fail (Table 14.6). -/
def shootdown (old s : State) (xs : List Nat) (ds : List (Nat × Nat)) : State :=
  let changed := xs.map fun x => (x, (old.ctx x).ranges.filter fun f => f.lentTo.isNone && !(s.ctx x).ranges.contains f)
  let uses (e : TlbEntry) : Bool := e.vbase != Config.libraryVA && changed.any fun c => c.1 == e.ctx
    && c.2.any fun f => decide (e.dpa < f.dpa + f.len) && decide (f.dpa < e.dpa + e.vlen)
  { s with setts := s.setts.map fun e => (e.1, { e.2 with
      queue := failUsers s xs e (((e.2.rangeTlb ++ e.2.pageTlb).filter uses).flatMap fun g => ds.filterMap (clipEntry g))
      rangeTlb := e.2.rangeTlb.filter (!uses ·)
      pageTlb := e.2.pageTlb.filter (!uses ·) }) }

/-- The extents of a child's table that come from an extent of its parent's. -/
def throughParent (c : Context) (lo hi : Nat) : List (Nat × Nat) :=
  c.ranges.filterMap fun f =>
    let a := max lo f.src
    let b := min hi (f.src + f.len)
    if a < b then some (f.cpa + (a - f.src), f.cpa + (b - f.src)) else none

/-- Removes an extent from a context's table and, through it, from every descendant's (fuel: the depth). -/
def removeRange : Nat → State → Nat → Nat → Nat → State
  | 0, s, _, _, _ => s
  | n + 1, s, x, lo, hi =>
    let c := s.ctx x
    let s := s.setCtx x { c with ranges := (c.ranges.map fun f => outsideRange f lo hi).flatten }
    (children s x).foldl (fun s y => (throughParent (s.ctx y) lo hi).foldl (fun s e => removeRange n s y e.1 e.2) s) s

/-- Gives the pieces that were lent to a child without SHARE back to the grantor. -/
def unlend (c : Context) (child : Nat) (gone : List FRange) : Context :=
  let back (rs : List FRange) (g : FRange) : List FRange :=
    (rs.map fun f => if f.lentTo = some child then
        outsideRange f g.src (g.src + g.len) ++ ((clipRange f g.src (g.src + g.len)).map fun p => { p with lentTo := none }).toList
      else [f]).flatten
  { c with ranges := joinRanges (sortRanges ((gone.filter (!·.shared)).foldl back c.ranges)) }

/-- Applies the posted stores of the threads of some contexts that are still in flight: R330 waits for them. One whose range is gone is
refused (R164). -/
def drainContexts (s : State) (xs : List Nat) : State :=
  (s.cores.map fun e => (List.range 16).map fun i => (⟨e.1, i⟩ : Tid)).flatten.foldl (fun s t =>
    if xs.contains (ctxOf s t) then drainPosted s t else s) s

/-- R330, R338 kind 1. -/
def revokeRange (s : State) (x lo hi : Nat) : State :=
  let xs := subtree s x
  let gone := (s.ctx x).ranges.filterMap fun f => clipRange f lo hi
  let p := (s.ctx x).parent
  let z := removeRange 9 s x lo hi
  let z := z.setCtx p (unlend (z.ctx p) x gone)
  drainContexts (shootdown s z xs (gone.map fun f => (f.dpa, f.len))) xs

/-! ## Setts (R321 to R323) -/

/-- The next virtual sett number of a context. -/
def nextVsett (c : Context) : Nat :=
  (c.setts.map (·.1) ++ c.lent.map (·.1) ++ c.resSetts.map (·.1)).foldl (fun n v => max n (v + 1)) 0

/-- The last n of a list. -/
def lastN {α : Type} (l : List α) (n : Nat) : List α := l.drop (l.length - n)

/-- The setts of each virtual holt lie in one physical holt. -/
def holtRule (s : State) (vs : List (Nat × Nat)) : Bool :=
  vs.all fun a => vs.all fun b => a.1 / 6 != b.1 / 6 || (s.sett a.2).place.getD 0 / 6 == (s.sett b.2).place.getD 0 / 6

/-- A core with nothing of a launch left: its scratchpad stays, and T13 with a resident launch (R31, R322). -/
def clearCore (c : VCore) : VCore :=
  { VCore.reset with
    spad := c.spad
    resLaunch := c.resLaunch
    resActive := c.resActive
    resGgeo := c.resGgeo
    resVcid := c.resVcid
    resStdom := c.resStdom
    freeAt := c.freeAt
    threads := VCore.reset.threads.setIfInBounds 13 (if c.resLaunch.isSome then c.thread 13 else .reset) }

/-- A sett passes to another holder: its scratchpads and its shelves read zero (R31). -/
def passSett (s : State) (i x v : Nat) : State :=
  let t := s.sett i
  let s := s.setSett i { Sett.reset i with
    place := t.place
    part := partOf s 9 x
    holder := x
    vsett := v
    shelves := Vector.replicate 32 x }
  (List.range 8).foldl (fun s p =>
    let k := 8 * i + p
    s.setCore k { clearCore { s.core k with resLaunch := none, resActive := false } with spad := [] }) s

/-- The bytes of some shelves of a sett memory, zeroed (R31). -/
def zeroShelves (s : State) (i : Nat) (p : Nat → Bool) : State :=
  let t := s.sett i
  s.setSett i { t with mem := t.mem.filter fun e => !p (e.1 / 65536) }

def insertSett (l : List (Nat × Nat)) (e : Nat × Nat) : List (Nat × Nat) := insertBy (fun a b => decide (a.1 ≤ b.1)) e l

/-- An identity that no sett has, in a place or in a Den. -/
def freshIdentity (s : State) : Nat :=
  ((s.setts ++ s.dens.flatMap (·.setts)).map (·.1)).foldl (fun n i => max n (i + 1)) 576

/-- A sett that a context lent comes back to the number that it held there before the grant (R321). Where a Den keeps the sett as it
was, its place comes back as another. -/
def returnSett (s : State) (p i : Nat) (kept : Bool) : State :=
  let c := s.ctx p
  match c.lent.find? fun e => e.2.1 == i with
  | none => s
  | some e =>
    let rest := c.lent.filter fun f => f.2.1 != i
    let gone (s : State) : State := { s with
      setts := s.setts.erase i
      cores := s.cores.filter fun f => settOf f.1 != i }
    match (s.sett i).place with
    | none => gone (s.setCtx p { c with lent := rest })
    | some q =>
      let j := if kept then freshIdentity s else i
      let s := if kept then (gone s).setSett j { Sett.reset j with place := some q } else s
      placementRecord (passSett (s.setCtx p { c with
        lent := rest
        setts := insertSett c.setts (e.1, j) }) j p e.1) p (8 * e.1) 8

/-- R337 kind 0 for a child that holds setts. -/
def grantSetts (s : State) (x y : Nat) (es : List (Nat × Nat)) : State :=
  let v0 := nextVsett (s.ctx y)
  let pairs := es.zipIdx.map fun e => (v0 + e.2, e.1.2)
  let cx := s.ctx x
  let s := s.setCtx x { cx with
    setts := cx.setts.filter fun e => !es.contains e
    lent := (es.reverse.map fun e => (e.1, e.2, y)) ++ cx.lent }
  let cy := s.ctx y
  let s := s.setCtx y { cy with setts := cy.setts ++ pairs }
  -- the placement of the child has changed (R390)
  placementRecord (pairs.foldl (fun s e => passSett s e.2 y e.1) s) y (8 * v0) (8 * es.length)

/-- R322: the T13 slots and the named shelves of each sett. -/
def grantSlots (s : State) (x y : Nat) (shelves : Nat) (es : List (Nat × Nat)) : State :=
  let v0 := nextVsett (s.ctx y)
  let cy := s.ctx y
  let s := s.setCtx y { cy with resSetts := cy.resSetts ++ es.zipIdx.map fun e => (v0 + e.2, e.1.2) }
  let s := es.zipIdx.foldl (fun s e =>
    let i := e.1.2
    let owns (n : Nat) : Bool := shelves.testBit n && (s.sett i).shelves.toList.getD n 0 == x
    let s := zeroShelves s i owns
    let t := s.sett i
    s.setSett i { t with
      res := some y
      resVsett := v0 + e.2
      shelves := (List.range 32).foldl (fun v n => if owns n then v.setIfInBounds n y else v) t.shelves }) s
  placementRecord s y (8 * v0) (8 * es.length)

/-! ## The Archive (R226, R337) -/

/-- The pieces of an allotment inside an extent of its offsets, in order, and the allotment with those lent to a child: their places
in it stay for their return (R339). -/
def cutExtents (y : Nat) : List Extent → Nat → Nat → List Extent × List Extent
  | [], _, _ => ([], [])
  | e :: es, lo, hi =>
    let n := e.held
    let a := min lo n
    let b := min hi n
    let rest := cutExtents y es (lo - n) (hi - n)
    let some_ (x : Extent) : List Extent := if x.len = 0 then [] else [x]
    if e.lent.isSome then (rest.1, e :: rest.2)
    else (some_ ⟨e.base + a, b - a, none⟩ ++ rest.1,
      some_ ⟨e.base, a, none⟩ ++ some_ ⟨e.base + a, b - a, some y⟩ ++ some_ ⟨e.base + b, n - b, none⟩ ++ rest.2)

/-- The lines of some extents, zeroed. -/
def zeroExtents (s : State) (es : List Extent) : State :=
  { s with archive := s.archive.filter fun m => !es.any fun e => decide (e.base ≤ m.1) && decide (m.1 < e.base + e.len) }

/-! ## Stopping and tearing down (R339) -/

/-- The cores of the launches that a condition picks. -/
def launchCores (s : State) (p : Launch → Bool) : List Nat :=
  (s.launches.map fun e => if p e.2 then (List.range e.2.nvc).filterMap fun j => coreOfVc s e.2.ctx (e.2.vc0 + j) else []).flatten

/-- The unit keys of some cores in a context. -/
def unitsOfCores (s : State) (ks : List Nat) : List Nat :=
  addNew [] (ks.map fun k => ctxOf s ⟨k, 0⟩ * 2 ^ 16 + vcIn s (ctxOf s ⟨k, 0⟩) k / 48)

/-- Completes the bank commands issued by threads of some cores (R231). -/
def completeBanks (s : State) (mine : Tid → Bool) : State :=
  s.flights.foldl (fun s f => match f with
    | .bank src x fn op ty lines srcLine a pat sv signal sb sl =>
      if mine src then
        let s := lines.foldl (fun s l => chargeAlways (bankOne s fn op ty a pat srcLine l) x (archDie l.1) 3 1) s
        bankEnd { s with flights := s.flights.erase f } src x ((lines.headD (0, 0)).1) sv signal sb sl
      else s
    | _ => s) s

/-- The thread that issued an operation in flight, or that it concerns. -/
def Flight.src : Flight → Tid
  | .barArrive t _ _ | .barReply t _ _ _ | .msg t _ _ _ | .scale t _ _ _ | .psto t _ _ _ _ _ _ _ _ _ | .migr t _ _
  | .bank t _ _ _ _ _ _ _ _ _ _ _ _ | .append t _ _ _ _ | .egress t _ _ _ _ _ _ _ _ _ | .planes t _ _ _ _ _ _ _ _ _
  | .egfin t _ _ _ _ _ _ _ => t
  | .reflection _ t _ _ _ _ _ _ _ _ _ _ => t

/-- What a Den holds of the messages in flight (Table 22.7): reflections, packets, and what its sender has been told was accepted. -/
def Flight.saved : Flight → Bool
  | .reflection _ _ _ _ _ _ _ _ _ _ _ _ | .migr _ _ _ | .msg _ _ _ true | .scale _ _ _ true => true
  | _ => false

/-- The handler's context of a reflection message. -/
def Flight.handler : Flight → Option Nat
  | .reflection h _ _ _ _ _ _ _ _ _ _ _ => some h
  | _ => none

/-- R339 step 2 for some threads, and for the domains of some cores: copies and tasks are aborted, ordered tasks undone, what is
in flight ends. Posted stores are applied where the threads keep their ranges or are saved; where those are gone they are refused
(R164). Where a Den is to be saved, the domains stay, and so does what it holds of the messages in flight. -/
def stopEngines (s : State) (ks : List Nat) (drain den : Bool) (mine : Tid → Bool) : State :=
  let ts := (s.cores.map fun e => (List.range 16).filterMap fun i => if mine ⟨e.1, i⟩ then some (⟨e.1, i⟩ : Tid) else none).flatten
  let s := if drain then ts.foldl drainPosted s else s
  let s := completeBanks s mine
  let s := s.setts.foldl (fun s e => (e.2.queue.filter fun c => mine c.issuer).foldl (fun s c => failCopy s e.1 c 4 5 true false) s) s
  let s := s.units.foldl (fun s e => (e.2.tasks.filter fun y => mine y.issuer).foldl (fun s y => abortTask s e.1 y) s) s
  let s := (unitsOfCores s ks).foldl (fun s u =>
    let d := (s.unit u).domain
    let s := abortTasks s u ((d.tasks.filter fun y => !y.prot && y.st != .queued).map OTask.key)
    -- the domain stays while another launch has cores of its virtual holt; a protected task goes with its thread
    if den then s
    else if (unitsOfCores s (((s.cores.filter fun e => e.2.launch.isSome).map (·.1)).filter fun k => !ks.contains k)).contains u then
      let x := s.unit u
      s.setUnit u { x with domain := { x.domain with tasks := x.domain.tasks.filter fun y => !(y.prot && mine ⟨y.core, y.thr⟩) } }
    else { s with units := s.units.erase u }) s
  { s with
    flights := s.flights.filter fun f => !mine f.src || den && f.saved
    contribs := s.contribs.filter fun c => !mine c.issuer
    teardowns := s.teardowns.map fun w => { w with thread := w.thread.filter fun t => !mine t } }

/-- The signal objects of some launches take bit 63. -/
def spoilSignals (s : State) (p : Launch → Bool) : State :=
  (s.launches.filter fun e => p e.2).foldl (fun s e =>
    signalError s ⟨ctxOf s e.2.issuer, e.2.issuer.core, e.2.segBase, e.2.segLimit⟩ e.2.signal) s

/-- Ends the launches that a condition picks: their cores are unbound, and their threads that are away are no more. -/
def endLaunches (s : State) (p : Launch → Bool) : State :=
  let ls := s.launches.filter fun e => p e.2
  let homes := (ls.filter fun e => !e.2.res).flatMap fun e => (List.range e.2.nvc).filterMap fun j => coreOfVc s e.2.ctx (e.2.vc0 + j)
  let s := { s with cores := s.cores.map fun e => (e.1, { e.2 with
    threads := e.2.threads.map fun th => if th.homeOf.any fun h => homes.contains h.core then .reset else th }) }
  let s := ls.foldl (fun s e => (List.range e.2.nvc).foldl (fun s j => match coreOfVc s e.2.ctx (e.2.vc0 + j) with
    | some k =>
      let c := s.core k
      -- the rotation continues from an unbound T13 (R110)
      if e.2.res then s.setCore k { clearT13 c with last := if c.resActive then 13 else c.last } else s.setCore k (clearCore c)
    | none => s) s) s
  { s with launches := s.launches.filter fun e => !p e.2 }
where
  clearT13 (c : VCore) : VCore :=
    let x := c.tile
    { c.setThread 13 .reset with
      tile := { x with
        queues := x.queues.map fun q => { q with
          cmds := q.cmds.filter fun m => m.thr != 13
          ended := q.ended.filter fun e => e.thr != 13 }
        running := x.running.filter fun r => r.cmd.thr != 13
        waiting := x.waiting.filter fun e => e.2.thr != 13
        latch := if (x.running.any fun r => r.cmd.thr == 13 && x.latch.any fun l => l.order == r.cmd.order && l.task.isNone) then none else x.latch
        owner := x.owner.map fun o => if o = 13 then 16 else o }
      resLaunch := none
      resActive := false
      resGgeo := 0
      resVcid := 0
      resStdom := 0 }

/-- A context's setts have changed: its placement is recorded afresh (R390). -/
def recordSetts (s : State) (x : Nat) (vs : List (Nat × Nat)) : State := placementRecord s x (8 * (vs.map (·.1)).headD 0) (8 * vs.length)

/-- R338 kind 2, once what must end first has ended: setts leave a context, with the launches that use them. -/
def revokeSetts (s : State) (x : Nat) (ids : List Nat) : State :=
  let p := (s.ctx x).parent
  let s := endLaunches s fun l => l.meets s x ids
  let s := { s with signals := s.signals.filter fun q => !(q.ctx == x && ids.contains (settOf q.core)) }
  let c := s.ctx x
  if c.isRes then
    let left := c.resSetts.filter fun e => !ids.contains e.2
    let s := ids.foldl (fun s i =>
      let owns (k : Nat) : Bool := (s.sett i).shelves.toList.getD k 0 == x
      let s := zeroShelves s i owns
      let t := s.sett i
      s.setSett i { t with
        res := none
        shelves := t.shelves.map fun o => if o = x then p else o }) (s.setCtx x { c with resSetts := left })
    recordSetts s x left
  else
    let left := c.setts.filter fun e => !ids.contains e.2
    let back := (c.setts.filter fun e => ids.contains e.2).map (·.2)
    recordSetts (back.foldl (fun s i => returnSett s p i false) (s.setCtx x { c with setts := left })) x left

/-- Forgets some contexts in every sett's permission table and TLBs (R323, R339 step 4). -/
def forgetContexts (s : State) (xs : List Nat) : State :=
  { s with setts := s.setts.map fun e =>
      let t := e.2
      (e.1, { t with
        res := t.res.filter fun r => !xs.contains r
        permits := t.permits.filter fun r => !xs.contains r
        shelves := t.shelves.map fun o => if xs.contains o then t.holder else o
        mem := t.mem.filter fun m => !xs.contains (t.shelves.toList.getD (m.1 / 65536) 0)
        rangeTlb := t.rangeTlb.filter fun f => !xs.contains f.ctx
        pageTlb := t.pageTlb.filter fun f => !xs.contains f.ctx }) }

/-- Deletes the objects and Catalogues of some contexts (R290, R314). -/
def deleteObjects (s : State) (xs : List Nat) : State :=
  let s := s.objects.foldl (fun s e => if xs.contains e.2.ctx then freeObj s e.1 e.2 else s) s
  s.cats.foldl (fun s e => if xs.contains e.2.ctx then freeCat s e.1 e.2 else s) s

/-- Table 22.10: a Den's header. The digest of a body that the manual does not lay out is free (log 6). -/
def denHeader (s : State) (root nctx nvs dies flags : Nat) : List Byte :=
  leBytes 1 4 ++ leBytes root 2 ++ leBytes nctx 2 ++ leBytes nvs 2 ++ leBytes dies 1 ++ leBytes flags 1 ++ leBytes 0 4
    ++ leBytes (64 + Config.denLength s.freeCount) 8 ++ leBytes (gts s) 8 ++ (List.range 32).map (Config.denByte s.freeCount)

/-- The mask of the dies that are homes of objects and Catalogues of some contexts. -/
def homeMask (s : State) (xs : List Nat) : Nat :=
  (List.range 4).foldl (fun m d =>
    if (s.objects.any fun e => xs.contains e.2.ctx && e.2.home == d) || (s.cats.any fun e => xs.contains e.2.ctx && e.2.home == d) then m + 2 ^ d else m) 0

/-- A Den's header and body. -/
def denImage (s : State) (header : List Byte) : List Byte :=
  header ++ (List.range (Config.denLength s.freeCount)).map fun i => Config.denByte s.freeCount (32 + i)

/-- Writes a Den at device-physical addresses, as far as memory reaches. -/
def writeDen (s : State) (dpa : Nat) (image : List Byte) : State :=
  let put (s : State) (e : Byte × Nat) : State := match dpaPlace s (dpa + e.2) with
    | .ok k => writePlace s k e.1
    | .error _ => s
  { image.zipIdx.foldl put s with freeCount := s.freeCount + 1 }

/-- The miss records of a stopped core's threads are withdrawn; those of its engines stand (R135, R219). -/
def withdrawMisses (c : VCore) : VCore :=
  { c with
    missbox := c.missbox.filter fun r => r.whom != .thread
    misses := c.misses.filter fun r => r.whom != .thread
    walks := c.walks.filter fun e => c.misses.any fun r => r.id == e.1 && r.whom != .thread }

/-- Whether a core's threads all stopped at a yield point or were parked, idle or held (R357), one of them at least at a yield point:
where none is, no shelf is marked and the core is saved whole, as R212 and R271 need (log 58). -/
def compactCore (c : VCore) : Bool :=
  (c.threads.toList.any fun th => th.yielded.isSome) && c.threads.toList.all fun th => th.yielded.isSome || match th.run with
    | .ready => false
    | _ => true

/-- Table 22.7: a thread as its Den holds it. -/
def savedThread (th : Thread) : Thread :=
  let th := th.complete.dropLatches
  match th.yielded with
  | none => th
  | some (m, ks) => { th with
      g := Vector.ofFn fun (i : Fin 32) => if m.getLsbD i then th.g.toList.getD i 0 else 0
      v := Vector.ofFn fun (i : Fin 32) => if m.getLsbD (32 + i) then th.v.toList.getD i 0 else 0
      k := Vector.ofFn fun (i : Fin 8) => if i.val = 0 ∨ ks.getLsbD i then th.k.toList.getD i 0 else 0 }

/-- The shelves that the threads of a core marked. -/
def markedShelves (c : VCore) : Nat :=
  c.threads.toList.foldl (fun m th => match th.yielded with | some (_, ks) => Nat.lor m (field ks 23 8) | none => m) 0

/-- Table 22.7: a core as its Den holds it. -/
def savedCore (compact : Bool) (c : VCore) : VCore :=
  let keep (a : Nat) : Bool := (markedShelves c).testBit (a / 16384)
  { c with
    threads := c.threads.map savedThread
    spad := if compact then c.spad.filter fun e => keep e.1 else c.spad
    resActive := false
    tile := { c.tile with acc := c.tile.acc.filter fun e => c.tile.owner.toList.getD (e.1 / 512) 16 != 16 } }

/-- A thread is parked on its own `ABAL` or `ABFR`, which is queued or waits in the engine (R269). -/
def abParked (c : VCore) (thr : Nat) : Bool :=
  let own (m : TileCmd) : Bool := m.thr == thr && (m.op == .abal || m.op == .abfr)
  c.tile.queues.toList.any (fun q => q.cmds.any own) || c.tile.waiting.any fun e => own e.2

/-- A revocation ends a core's queued commands without effect and without completion words (R269); a thread parked on one of its own
issues it again. -/
def endCommands (c : VCore) : VCore :=
  let x := c.tile
  { c with
    threads := c.threads.mapIdx fun i th => match th.run with
      | .parkedEngine (.reply _ _) _ => if abParked c i then { th.rewind with run := .ready } else th
      | _ => th
    tile := { x with
      queues := x.queues.map fun q => { q with
        cmds := []
        ended := [] }
      running := []
      waiting := []
      latch := none } }

/-- CYC and NCYC as values, while a core has no place, and as bases again on a die (R359, R367). -/
def saveCycles (s : State) (k : Nat) (c : VCore) : VCore :=
  let d := dieOf s k
  { c with
    cycBase := (dieCycle s d + 2 ^ 80 - c.cycBase) % 2 ^ 64
    ncycBase := ((s.die d).ncycAt s.now + 2 ^ 80 - c.ncycBase) % 2 ^ 80 }

def loadCycles (s : State) (d : Nat) (c : VCore) : VCore :=
  { c with
    cycBase := dieCycle s d + 2 ^ 80 - c.cycBase
    ncycBase := (s.die d).ncycAt s.now + 2 ^ 80 - c.ncycBase }

/-- The Den of a subtree that a teardown saves (R339 step 3): its threads run again where they stopped, with no halt and no clip of
theirs left (R380, R399). -/
def saveTorn (s : State) (x dpa : Nat) : State :=
  let xs := subtree s x
  let mine (i : Nat) : Bool := xs.contains (s.sett i).holder
  let cores := s.cores.filter fun e => mine (settOf e.1)
  let s := (cores.flatMap fun e => (List.range 16).map fun i => (⟨e.1, i⟩ : Tid)).foldl unhalt s
  let cores := s.cores.filter fun e => mine (settOf e.1)
  let small (c : VCore) : Bool := c.launch.isSome && compactCore c
  let save (k : Nat) (c : VCore) : VCore :=
    let z := savedCore (small c) (endCommands (withdrawMisses { c with threads := c.threads.map stopThread }))
    if (s.sett (settOf k)).place.isSome then saveCycles s k z else z
  let here (l : Launch) : Bool := (List.range l.nvc).all fun j => (coreOfVc s l.ctx (l.vc0 + j)).any fun k => mine (settOf k)
  let c := s.ctx x
  let image := denImage s (denHeader s x xs.length (c.setts.length + c.lent.length) (homeMask s xs) (if cores.any fun e => small e.2 then 1 else 0))
  let den : Den := {
    root := x
    bySwitch := false
    shadow := dpa
    image := image
    dies := homeMask s xs
    fold := false
    parked := (s.dens.filter fun d => d.bySwitch && xs.contains d.root).flatMap (·.parked) ++ s.flights.filter fun f => f.saved && (xs.contains (ctxOf s f.src) || f.handler.any xs.contains)
    contexts := (s.contexts.filter fun e => xs.contains e.1).map fun e => (e.1, { e.2 with
      st := .live
      clips := []
      haltedAll := false
      resSetts := e.2.resSetts.filter fun v => mine v.2 })
    launches := s.launches.filter fun e => xs.contains e.2.ctx && here e.2
    cores := cores.map fun e => (e.1, save e.1 e.2)
    units := s.units.filter fun e => xs.contains (e.1 / 2 ^ 16)
    setts := s.setts.filter fun e => mine e.1 }
  let s := writeDen s dpa image
  { s with dens := s.dens ++ [den] }

/-- Whether a revocation stops what a thread has issued. -/
def Teardown.covers (s : State) (w : Teardown) (ks : List Nat) (t : Tid) : Bool :=
  match w.setts with
  | none => inSubtree s w.root (ctxOf s t)
  | some _ => ks.contains t.core && (t.thr == 13) == (s.ctx w.root).isRes

/-- R339 step 2, for the threads of a revocation. -/
def stopRevoked (s : State) (w : Teardown) : State :=
  let ks := launchCores s (w.ends s)
  stopEngines s (launchCores s fun l => w.ends s l && !l.res) (w.setts.isSome || w.den.isSome) w.den.isSome (w.covers s ks)

/-- The threads of a revocation have stopped: what they have in hand ends, while a T15 may still translate for the signal objects that
take bit 63 (R18, R231, R339; log 86). -/
def abortRevoked (s : State) (w : Teardown) : State :=
  let xs := subtree s w.root
  -- objects go, and a collective with a rank in a revoked context fails at the other ranks (R290, R377)
  let s := if w.setts.isSome then s else
    failWhere (deleteObjects s xs) (fun g => g.ranks.any fun r => r.1 == ownPackage && xs.contains r.2.2) 3
      fun c => if xs.contains (ctxOf s c.issuer) then 4 else 3
  let s := stopRevoked s w
  spoilSignals s fun l => w.ends s l && w.takes s l.issuer

/-- The rest of R339 for a subtree, as one step at the dispatcher (log 30). -/
def teardown (s : State) (x : Nat) (den : Option Nat) : State :=
  let xs := subtree s x
  let p := (s.ctx x).parent
  let s := match den with | some a => saveTorn s x a | none => s
  let s := { s with
    dens := (s.dens.filter fun d => !(d.bySwitch && xs.contains d.root)).map fun d => if d.bySwitch then { d with
      parked := d.parked.filter fun f => !xs.contains (ctxOf s f.src) } else d
    flights := s.flights.filter fun f => !xs.contains (ctxOf s f.src) && !f.handler.any xs.contains }
  let s := endLaunches s fun l => xs.contains l.ctx
  -- ranges, setts, the Archive allotments, the rates and the pool go back
  let s := revokeRange s x 0 (2 ^ 64)
  let back := ((s.ctx p).lent.filter fun e => e.2.2 == x).map (·.2.1)
  let s := back.foldl (fun s i => returnSett s p i den.isSome) s
  let s := forgetContexts s xs
  let cp := s.ctx p
  let s := zeroExtents s (cp.archive.filter fun e => e.lent == some x)
  let s := s.setCtx p { cp with
    archive := cp.archive.map fun e => if e.lent = some x then { e with lent := none } else e
    pool := cp.pool + (if (s.ctx x).depth = 1 then (s.ctx x).pool else 0) }
  let keys := (xs.filter fun y => (s.ctx y).ownKey).length
  let s := moveKeys s fun n => n - keys
  let graves := xs.map fun y => (y, (s.ctx y).parent)
  { s with
    groups := s.groups.filter fun g => !xs.contains g.part
    signals := s.signals.filter fun q => !xs.contains q.ctx
    collFails := (s.collFails.filter fun g => !xs.contains g.part)
    contexts := s.contexts.filter fun e => !xs.contains e.1
    dead := graves.foldl (fun m e => m.insert e.1 e.2) s.dead }

/-- The end of a revocation. -/
def finishRevoked (s : State) (w : Teardown) : State :=
  let s := stopRevoked s w
  -- the launches whose issuers go on; the others' signal objects have their bit
  let s := spoilSignals s fun l => w.ends s l && !w.takes s l.issuer
  match w.setts with
  | none => teardown s w.root w.den
  | some is => revokeSetts s w.root is

/-- Whether a thread waits for the reply to a request that it has sent. -/
def replyDue (s : State) (t : Tid) : Bool :=
  awaitsReply (s.thread t) && (s.thread t).owedReply.isNone && !abParked (s.core t.core) t.thr

/-- What a revocation waits for: hint chains of its threads, the results and replies that they are to have, their bank cycles (R44,
R119, R135, R186), and T13's commands of others in an engine that a task of theirs is to return to (R252). -/
def revokeStill (s : State) (w : Teardown) : Bool :=
  let ks := launchCores s (w.ends s)
  s.cores.all fun e =>
    let mine := (List.range 16).filter fun i => w.takes s ⟨e.1, i⟩
    let cyc := dieCycle s (dieOf s e.1)
    (mine.isEmpty || !(s.sett (settOf e.1)).place.isSome || decide (e.2.freeAt ≤ cyc + 1))
      && mine.all (fun i => ((e.2.thread i).chain.isNone || !mayIssue s ⟨e.1, i⟩) && (lateRead (e.2.thread i) cyc .all []).isNone
        && !replyDue s ⟨e.1, i⟩)
      && !((s.sett (settOf e.1)).place.isSome && (e.2.tile.running.any (fun r => r.cmd.thr == 13 && e.2.resActive) || t13First e.2)
        && !w.covers s ks ⟨e.1, 13⟩ && (runningTasks s e.1).any fun y => w.covers s ks y.2.issuer)

/-- A signal of a revocation's engines waits for a T15 that can still answer its miss. -/
def answerDue (s : State) (w : Teardown) : Bool :=
  s.signals.any fun q =>
    let th := s.thread ⟨q.core, 15⟩
    w.takes s ⟨q.core, 15⟩ && th.halted.isNone && (s.sett (settOf q.core)).place.isSome && match th.run with
      | .dormant | .held => false
      | _ => true

/-- A revocation reaches the dispatcher: the contexts of a teardown are stopping (R339 step 1). A switch of one of them is abandoned
(R363); one that has it as IN leaves its setts idle. -/
def beginTeardown (s : State) (x : Nat) : State :=
  let xs := subtree s x
  { s with
    contexts := s.contexts.map fun e => (e.1, if xs.contains e.1 then { e.2 with st := .stopping } else e.2)
    switches := (s.switches.filter fun w => !xs.contains w.out).map fun w => if xs.contains w.inn then { w with inn := 0 } else w }

/-- A revocation goes on, and whether it is complete. What another one has torn down already leaves it nothing to do (R345). -/
def revokeStep (w : Teardown) (s : State) : State × Bool :=
  if (s.contexts.find? w.root).isNone then ({ s with teardowns := s.teardowns.erase w }, true)
  else match w.aborted with
  | none =>
    if !revokeStill s w then (s, false)
    else
      let s := abortRevoked s w
      let v := { w with aborted := some (gts s + 8192 * (1 + Config.answerTime s.freeCount)) }
      if answerDue s v then ({ s with teardowns := s.teardowns.map fun u => if u = w then v else u }, false)
      else (finishRevoked { s with teardowns := s.teardowns.erase w } w, true)
  | some g =>
    if answerDue s w && decide (gts s < g) then (s, false)
    else (finishRevoked { s with teardowns := s.teardowns.erase w } w, true)

/-- A revocation under way goes on; the thread that issued it has its reply at the end. -/
def teardownStep (w : Teardown) (s : State) : State :=
  let r := revokeStep w s
  match r.2, w.thread with
  | true, some t => reply r.1 t 0
  | _, _ => r.1

/-! ## Held threads (R341, R349 to R352) -/

/-- The child of a handler's context on the path to a context (fuel: the depth). -/
def childToward (s : State) : Nat → Nat → Nat → Nat
  | 0, _, x => x
  | n + 1, h, x => if (s.ctx x).parent = h then x else childToward s n h (s.ctx x).parent

/-- Table 22.5. -/
def reflectionBytes (x vc thr code : Nat) (async inh fwd : Bool) (epc eval : Word) (g : Nat) (gs : List Word) : List Byte :=
  leBytes x 2 ++ leBytes vc 2 ++ leBytes thr 1 ++ leBytes code 1
    ++ leBytes ((if async then 1 else 0) + (if inh then 2 else 0) + (if fwd then 4 else 0)) 1 ++ leBytes 0 1
    ++ leBytes epc.toNat 8 ++ leBytes eval.toNat 8 ++ leBytes g 8 ++ (gs.map fun w => leBytes w.toNat 8).flatten

/-- The address of the chain after the one at an address, read from the code image (R44, R341). -/
def chainAfter (s : State) (t : Tid) : Nat → Word → Word
  | 0, pc => pc + 4
  | n + 1, pc =>
    let th := s.thread t
    match fetchWord (s.setThread t { th with pc := pc }) t with
    | .ok w => match w.toNat / 2 ^ 25 with
      | 0x70 | 0x72 => chainAfter s t n (pc + 4)
      | _ => pc + 4
    | .error _ => pc + 4

/-- Releases a held thread: registers, pc, and rotation (R41, R98, R341). -/
def resumeThread (s : State) (t : Tid) (pc : Word) (gs : List (Nat × Word)) : State :=
  let th := gs.foldl (fun (th : Thread) e => if e.1 = 0 then th else { th with g := th.g.setIfInBounds e.1 e.2 }) ((s.thread t).complete.dropLatches)
  let d := dieOf s t.core
  let s := s.setThread t { th with
    run := .ready
    pc := pc &&& ~~~3#64
    chain := none
    heldFor := none
    readyAt := dieCycle s d
    stallEnd := dieCycle s d }
  { s with flights := s.flights.filter fun f => match f with | .reflection _ k _ _ _ _ _ _ _ _ _ _ => k != t | _ => true }

/-- R341 ACTION 3: the same message goes to the next ancestor, with FWD. -/
def forwardHeld (s : State) (t : Tid) (h : Nat) (g : Nat) : State :=
  let th := s.thread t
  let x := ctxOf s t
  let up := (s.ctx h).parent
  let gs := [4, 5, 6, 7].map th.finalG
  let s := s.setThread t { th with heldFor := some (up, g) }
  let rest := s.flights.filter fun f => match f with | .reflection _ k _ _ _ _ _ _ _ _ _ _ => k != t | _ => true
  { s with flights := rest ++ [.reflection up t (field th.cause 7 0) (bit th.cause 14) th.inh true th.epc th.eval g gs x (vcIn s x t.core)] }

/-- Table 21.13. -/
def resumeChecks (b : List Byte) : List Check :=
  [ (0, 1, blkNat b 0 2 / 1024 != 0), (2, 1, blkNat b 2 2 / 8192 != 0), (4, 1, blkNat b 4 1 / 16 != 0), (5, 4, decide (3 < blkNat b 5 1))
  , zeros b 7 9, (16, 2, blkNat b 5 1 == 2 && blkNat b 16 8 % 4 != 0), zeros b 24 8, zeros b 96 32 ]

/-! ## Launches (R342) -/

/-- Table 21.15 and the reserved bits of Table 21.14, by offset. -/
def lnchChecks (b : List Byte) (c : Context) : List Check :=
  let nvc := blkNat b 14 2
  let z := blkNat b 58 2
  let fold := (blkNat b 30 1).testBit 3
  let bound := (if fold then 131072 else 262144) / 64
  let badPc (o : Nat) (lib : Bool) : Bool := let p := blkNat b o 4; !(lib && p == 0xFFFFFFFF) && (decide (c.codeLen ≤ p) || p % 4 != 0)
  [ (0, 2, badPc 0 false), (4, 2, badPc 4 true), (8, 2, badPc 8 true), (12, 7, blkNat b 12 2 / 8192 != 0)
  , (14, 1, decide (nvc < 1) || decide (4608 < nvc)), (16, 1, blkNat b 16 2 * blkNat b 18 2 != nvc), (28, 7, blkNat b 28 2 / 1024 != 0)
  , (30, 7, blkNat b 30 1 / 32 != 0), (30, 3, decide (4 < blkNat b 30 1 % 8)), (30, 6, (blkNat b 30 1).testBit 4 != c.isRes)
  , (31, 7, blkNat b 31 1 / 32 != 0), (31, 3, decide (16 < blkNat b 31 1)), (48, 5, blkNat b 48 8 % 16 != 0)
  , (56, 4, decide (bound < blkNat b 56 2 + 15 * z)), (60, 4, decide (bound < blkNat b 60 2 + 64 * blkNat b 31 1))
  , (62, 4, decide (bound < blkNat b 56 2 + 15 * z + blkNat b 62 2)) ]

/-- The composed entries of an extent of a context's space over its flattened table (R324 to R326). -/
def composed (s : State) (x va pa len rights atom cache : Nat) (pin : Bool) : List TlbEntry :=
  (heldPieces (s.ctx x) pa (pa + len)).map fun f =>
    ⟨x, va + (f.cpa - pa), f.len, f.dpa, Nat.land rights f.rights, min atom f.atom, max cache f.cache, f.key, pin⟩

/-- The supplied library's entry stays: it never misses (R342). -/
def TlbEntry.library (e : TlbEntry) : Bool := e.vbase == Config.libraryVA

/-- Installs an entry in a TLB of some size: at most 8 are pinned, and the least recently used without PIN makes room (R326). Where all
8 are taken, the supplied library's takes the PIN of another. -/
def tlbInstall (size : Nat) (es : List TlbEntry) (e : TlbEntry) : List TlbEntry :=
  let es := es.filter fun f => !(f.ctx == e.ctx && f.vbase == e.vbase && f.vlen == e.vlen)
  let full := decide (8 ≤ (es.filter (·.pin)).length)
  let es := match full && e.library, es.find? fun f => f.pin && !f.library with
    | true, some g => es.map fun f => if f = g then { f with pin := false } else f
    | _, _ => es
  let e := if full && !e.library then { e with pin := false } else e
  let es := if es.length < size then es else match es.find? (!·.pin) with
    | some f => es.erase f
    | none => es.drop 1
  es ++ [e]

def installRange (s : State) (i : Nat) (e : TlbEntry) : State :=
  let t := s.sett i
  s.setSett i { t with rangeTlb := tlbInstall 64 t.rangeTlb e }

/-- The composed entry of the supplied library, outside the flattened table (R342; log 29). -/
def libraryEntryOf (s : State) (x : Nat) : TlbEntry :=
  ⟨x, Config.libraryVA, Config.libraryLen, (enabledDies s).headD 0 * 2 ^ 37, 5, 0, 0, 0, true⟩

/-- A segment base word of a kind with rights by bit 56 up: RD, WR, AT, EX. -/
def segWord (kind rights base : Nat) : Word := BitVec.ofNat 64 (kind * 2 ^ 60 + rights * 2 ^ 56 + base)

/-- Table 6.7: bases and limits, with the stack of a thread. -/
def launchSegs (s : State) (x : Nat) (stack z : Nat) (lib : Bool) : Vector Word 8 × Vector Word 8 :=
  let c := s.ctx x
  let code := if lib then Config.libraryVA else c.codeBase
  let len := if lib then Config.libraryLen else c.codeLen
  ( #v[segWord 1 9 (code / 512), segWord 2 7 0, segWord 3 7 0, segWord 4 7 0, segWord 5 7 0, segWord 6 7 0, 0, segWord 7 3 stack]
  , #v[BitVec.ofNat 64 ((len + 511) / 512), 262144, 12582912, 2097152, BitVec.ofNat 64 (allotLen c.archive), BitVec.ofNat 64 (c.vaSize / 512), 0
      , BitVec.ofNat 64 z] )

/-- A thread as a launch starts it (R107). -/
def launchThread (s : State) (x : Nat) (pc : Word) (stack z : Nat) (lib : Bool) (a0 a1 : Word) (cyc : Nat) : Thread :=
  let segs := launchSegs s x stack z lib
  let g : Vector Word 32 := Vector.replicate 32 0
  { Thread.reset with
    run := .ready
    pc := pc
    g := ((g.set 2 0xE000000000000000).set 4 a0).set 5 a1
    segBase := segs.1
    segLimit := segs.2
    readyAt := cyc
    stallEnd := cyc }

/-- The entry of T14 or T15: its own offset, or the supplied library's. -/
def servicePc (b : List Byte) (off : Nat) : Word × Bool :=
  let p := blkNat b off 4
  if p = 0xFFFFFFFF then (BitVec.ofNat 64 ((if off = 4 then Config.moverEntry else Config.walkerEntry) * 4), true) else (BitVec.ofNat 64 p, false)

/-- Pieces of an image written over a memory. -/
def putPieces (m : Memory) (ps : List (Nat × List Byte)) : Memory := ps.foldl (fun m p => m.putBytes p.1 p.2) m

/-- What the loader does in one core: its shelf formats, raw where no `.shelf` names one, and its scratchpad (R31). -/
def loadCore (g : Image) (c : VCore) : VCore :=
  { c with
    spad := putPieces c.spad g.spad
    shfmt := g.formats.foldl (fun f e => f.setIfInBounds e.1 e.2) (Vector.replicate 16 0) }

/-- What the loader does once per virtual sett and once per context (R31). -/
def loadShared (s : State) (x : Nat) (setts : List Nat) : State :=
  let g := (s.ctx x).image
  let s := setts.foldl (fun s i => s.setSett i { s.sett i with mem := putPieces (s.sett i).mem g.settmem }) s
  g.archive.foldl (fun s p => writePlaces s ((span p.1 p.2.length).filterMap (extentPlace (s.ctx x).archive)) p.2) s

/-- Binds one core of a launch and starts its T0, T14 and T15, or T13 under RES. -/
def bindCore (s : State) (x id : Nat) (b : List Byte) (v k : Nat) : State :=
  let c := s.core k
  let d := dieOf s k
  let cyc := dieCycle s d
  let stack := blkNat b 56 2 * 64
  let z := blkNat b 58 2 * 64
  let a0 := BitVec.ofNat 64 (blkNat b 32 8)
  let a1 := BitVec.ofNat 64 (blkNat b 40 8)
  let entry := BitVec.ofNat 64 (blkNat b 0 4)
  let j := v - blkNat b 12 2
  let ggeo := BitVec.ofNat 128 (blkNat b 16 2 + 2 ^ 16 * blkNat b 18 2 + 2 ^ 32 * (j / blkNat b 18 2) + 2 ^ 48 * (j % blkNat b 18 2)
    + 2 ^ 64 * blkNat b 20 4 + 2 ^ 96 * blkNat b 24 4)
  let vcid := BitVec.ofNat 64 (v + 2 ^ 16 * blkNat b 14 2)
  let stdom := BitVec.ofNat 64 (blkNat b 30 1 % 16)
  if (blkNat b 30 1).testBit 4 then
    s.setCore k { c.setThread 13 (launchThread s x entry stack z false a0 a1 cyc) with
      resLaunch := some id
      resGgeo := ggeo
      resVcid := vcid
      resStdom := stdom }
  else
    let m := servicePc b 4
    let w := servicePc b 8
    let c := loadCore (s.ctx x).image (clearCore c)
    let c := c.setThread 0 (launchThread s x entry stack z false a0 a1 cyc)
    let c := c.setThread 14 (launchThread s x m.1 (stack + 13 * z) z m.2 0 0 cyc)
    let c := c.setThread 15 (launchThread s x w.1 (stack + 14 * z) z w.2 0 0 cyc)
    s.setCore k { c with
      launch := some id
      ggeo := ggeo
      vcid := vcid
      stdom := stdom
      cycBase := cyc
      ncycBase := (s.die d).ncycAt s.now
      ovfl := blkNat b 62 2
      ovflBase := (blkNat b 56 2 + 15 * blkNat b 58 2) * 64
      undoBase := blkNat b 60 2 * 64
      undoSlots := blkNat b 31 1 }

/-- A sett starts a launch with its handles free, and its tickets at 0 (R221; log 46). A resident context's virtual sett has handles of
its own. -/
def freshSett (s : State) (res : Bool) (i : Nat) : State :=
  let t := s.sett i
  if res then s.setSett i { t with handles := t.handles.filter fun e => decide (e.1 < 256) }
  else s.setSett i { t with
    handles := t.handles.filter fun e => decide (256 ≤ e.1)
    epoch := t.epoch + 1
    ticket := 0
    recs := [] }

/-- A virtual holt on which no other launch of the context runs starts with a new ordered-task domain (R194). -/
def freshUnit (s : State) (u : Nat) : State :=
  if (List.range 48).any fun p => match coreOfVc s (u / 2 ^ 16) (u % 2 ^ 16 * 48 + p) with
    | some k => (s.core k).launch.isSome
    | none => false
  then s else { s with units := s.units.erase u }

/-- The core that a launch binds for a virtual core, if the context holds it and nothing is bound there. -/
def bindable (s : State) (x : Nat) (res : Bool) (v : Nat) : Option Nat :=
  let table := if res then (s.ctx x).resSetts else (s.ctx x).setts
  match table.find? fun e => e.1 == v / 8 with
  | none => none
  | some e =>
    let k := e.2 * 8 + v % 8
    if (s.sett e.2).place.isNone || (if res then (s.core k).resLaunch else (s.core k).launch).isSome then none else some k

/-- Binds every core of a launch that has passed its checks. DESIGN CHOICE (log 84): under RES, which starts T13 and no T0, nothing of
the image is loaded; R31 speaks of what is loaded before each T0 starts. -/
def bindLaunch (s : State) (t : Tid) (x : Nat) (b : List Byte) (ks : List Nat) : State :=
  let c := s.ctx x
  let id := s.nextLaunch
  let res := c.isRes
  let vc0 := blkNat b 12 2
  let v := viewOf s t
  let l : Launch := {
    ctx := x
    vc0 := vc0
    nvc := blkNat b 14 2
    alive := if res then [] else ks
    signal := BitVec.ofNat 64 (blkNat b 48 8)
    issuer := homeTid s t
    segBase := v.segBase
    segLimit := v.segLimit
    res := res
    code := s.dram
    codeArch := s.archive
    codeOut := s.outside
    codeSpads := s.cores.map fun e => (e.1, e.2.spad)
    codeSetts := s.setts.map fun e => (e.1, e.2.mem)
    codeLo := c.codeBase
    codeHi := c.codeBase + c.codeLen }
  let setts := addNew [] (ks.map settOf)
  let units := addNew [] ((List.range ks.length).map fun j => x * 2 ^ 16 + (vc0 + j) / 48)
  let s := setts.foldl (freshSett · res) s
  let s := if res then s else loadShared (units.foldl freshUnit s) x setts
  let boot := composed s x c.bootVA c.bootPA c.bootLen c.bootRights 7 0 true
  let lib := !res && ((servicePc b 4).2 || (servicePc b 8).2)
  let s := setts.foldl (fun s i =>
    let s := boot.foldl (fun s e => installRange s i e) s
    if lib then installRange s i (libraryEntryOf s x) else s) s
  let s := { s with
    launches := s.launches.insert id l
    nextLaunch := id + 1 }
  let s := ks.zipIdx.foldl (fun s e => bindCore s x id b (vc0 + e.2) e.1) s
  placementRecord s x vc0 (blkNat b 14 2)

/-! ## The walker's answers (R141, R327) -/

/-- Whether an install record is malformed but for the flattened range (R327). -/
def installBad (b : List Byte) (vaSize cva : Nat) : Bool :=
  let va := blkNat b 0 8
  let pa := blkNat b 8 8
  let len := blkNat b 16 8
  let range := (blkNat b 24 4).testBit 12
  let lenOk := if range then decide (0 < len) && len % 4096 == 0 else [4096, 65536, 2097152, 1073741824].contains len
  let align := if range then 4096 else len
  !lenOk || va % align != 0 || pa % align != 0 || decide (vaSize < va + len) || decide (cva < va) || decide (va + len ≤ cva)

/-- The entry that a record installs for a miss, clipped to the flattened range that holds it. -/
def installEntry (s : State) (x : Nat) (b : List Byte) (cva : Nat) : Option TlbEntry :=
  if installBad b (s.ctx x).vaSize cva then none
  else
    let va := blkNat b 0 8
    let pa := blkNat b 8 8
    let len := blkNat b 16 8
    let attr := blkNat b 24 4
    match rangeAt (s.ctx x) (pa + (cva - va)) with
    | none => none
    | some f =>
      let lo := max pa f.cpa
      let hi := min (pa + len) (f.cpa + f.len)
      some ⟨x, va + (lo - pa), hi - lo, f.dpa + (lo - f.cpa), Nat.land (attr % 16) f.rights, min (attr / 16 % 8) f.atom,
        max (attr / 256 % 4) f.cache, f.key, attr.testBit 13⟩

/-- Wakes what waits for a miss, or gives it its failure: a cause code, 0 for none. -/
def answerMiss (s : State) (core : Nat) (m : MissRec) (cause : Nat) : State :=
  let c := s.core core
  let s := s.setCore core { c with
    misses := c.misses.filter fun r => r.id != m.id
    missbox := c.missbox.filter fun r => r.id != m.id
    walks := c.walks.filter fun e => e.1 != m.id }
  match m.whom with
  | .collective part group seq _ => if cause = 0 then s else match groupOf s part group with
    | some g => failColl s g seq 5 fun _ => 5
    | none => s
  | .marker src dst => if cause = 0 then s else failMark s src dst
  | .signal id =>
    match s.signals.find? fun q => q.id == id with
    | none => s
    | some q =>
      let rest := s.signals.erase q
      if cause = 0 then { s with signals := rest ++ [{ q with missing := false }] }
      else failSignal { s with signals := rest } q.fail cause
  | .copy ticket epoch i =>
    let t := s.sett i
    s.setSett i { t with queue := t.queue.map fun (y : Copy) =>
      if y.ticket != ticket || y.epoch != epoch then y
      else if cause = 0 then { y with missing := false }
      else { y with
        missing := false
        failed := some (if cause = cXLATE_RIGHTS then 2 else 1)
        phase := .ending } }
  | .thread =>
    let id : Tid := ⟨core, m.thr⟩
    let th := s.thread id
    match th.run with
    | .parkedPage (.page n) =>
      if n ≠ m.id then s
      else
        let s := s.setThread id { th with run := .ready }
        if cause = 0 then s else s.setThread id { s.thread id with owedTrap := some (cause, m.addr) }
    | _ => s

/-! ## Blocks of `CTXGRANT` and `CTXREVOKE` (R337, R338) -/

/-- Fields that both share, and a kind that is not allocated. -/
def kindChecks (b : List Byte) (last : Nat) : List Check :=
  [ (0, 1, blkNat b 0 2 / 1024 != 0), (2, 3, decide (last < blkNat b 2 1)), zeros b 3 5 ]

def budgetChecks (b : List Byte) : List Check :=
  [ (8, 2, decide (4 < blkNat b 8 1)), (9, 2, decide (3 < blkNat b 9 1) && blkNat b 9 1 != 0xFF), zeros b 10 2, zeros b 16 48 ]

def grantChecks (b : List Byte) (whole : Bool) : List Check :=
  match blkNat b 2 1 with
  | 0 => [zeros b 10 2, (12, 5, whole && blkNat b 12 4 != 0xFFFFFFFF), zeros b 16 48]
  | 1 => [ (8, 2, blkNat b 8 8 % 4096 != 0), (16, 2, blkNat b 16 8 % 4096 != 0), (24, 2, blkNat b 24 8 % 4096 != 0)
         , (32, 1, Nat.land (blkNat b 32 4) 0xFFFFF880 != 0), (32, 2, blkNat b 32 4 / 256 % 4 == 3), zeros b 36 28 ]
  | 2 => [(8, 2, blkNat b 8 8 % 65536 != 0), (16, 2, blkNat b 16 8 % 65536 != 0), zeros b 24 40]
  | 3 => budgetChecks b
  | 4 => [(8, 1, blkNat b 8 2 / 1024 != 0), zeros b 12 52]
  | 5 => [(8, 2, blkNat b 8 8 % 1048576 != 0), zeros b 16 48]
  | _ => []

def revokeChecks (b : List Byte) : List Check :=
  match blkNat b 2 1 with
  | 0 => [(8, 2, decide (1 < blkNat b 8 1)), zeros b 9 7, zeros b 24 40]
  | 1 => [zeros b 24 40]
  | 2 => [zeros b 10 54]
  | 3 => budgetChecks b
  | 4 => [zeros b 24 40]
  | _ => []

/-- The dies of a budget block. -/
def blockDies (b : List Byte) : List Nat := if blkNat b 9 1 = 0xFF then List.range 4 else [blkNat b 9 1]

/-- Whether the root may give some of its setts to a child as its next virtual setts. -/
def rootMay (s : State) (y : Nat) (es : List (Nat × Nat)) : Bool :=
  let cy := s.ctx y
  let v0 := nextVsett cy
  es.all (s.ctx 0).setts.contains && es.eraseDups.length == es.length
    && holtRule s (cy.setts ++ cy.lent.map (fun e => (e.1, e.2.1)) ++ es.zipIdx.map fun e => (v0 + e.2, e.1.2))

/-- The root's setts in each physical holt, the highest holt first. -/
def rootHolts (s : State) : List (List (Nat × Nat)) :=
  (List.range 96).reverse.map fun h => (s.ctx 0).setts.filter fun e => (s.sett e.2).place.getD 0 / 6 == h

/-- Setts for a child's virtual holts: the next m setts of the first holt that has as many, a partly free one for less than six, and
so on (fuel: the setts left). -/
def takeHolts : Nat → List (List (Nat × Nat)) → Nat → Option (List (Nat × Nat))
  | 0, _, _ => some []
  | f + 1, hs, n =>
    if n = 0 then some []
    else
      let m := min 6 n
      let fits (h : List (Nat × Nat)) : Bool := decide (m ≤ h.length)
      match (hs.find? fun h => fits h && (m == 6 || decide (h.length < 6))).orElse fun _ => hs.find? fits with
      | none => none
      | some h => (takeHolts f (hs.map fun g => if g == h then h.drop m else g) (n - m)).map (h.take m ++ ·)

/-- The setts that the root gives a partition: it chooses them, bound by the holt rule alone (R321); where its choice is none that it
may make, its highest that may stand there (log 30). -/
def rootChoice (s : State) (y n : Nat) : List (Nat × Nat) :=
  let pick := ((List.range n).filterMap fun i => (s.ctx 0).setts.find? fun e => some e.1 == Config.rootSett s.freeCount i)
  let top := lastN (s.ctx 0).setts n
  if pick.length = n ∧ rootMay s y pick then pick
  else if rootMay s y top then top
  else
    let cy := s.ctx y
    let v0 := nextVsett cy
    let first := match (cy.setts ++ cy.lent.map fun e => (e.1, e.2.1)).find? fun e => e.1 / 6 == v0 / 6 with
      | some e => ((s.ctx 0).setts.filter fun f => (s.sett f.2).place.getD 0 / 6 == (s.sett e.2).place.getD 0 / 6).take (min n (6 - v0 % 6))
      | none => []
    match takeHolts n ((rootHolts s).map (·.filter fun e => !first.contains e)) (n - first.length) with
    | some es => if rootMay s y (first ++ es) then first ++ es else top
    | none => top

/-- A block's kind 0 grant. -/
def grantKind0 (s : State) (x y : Nat) (b : List Byte) : Except Stop State :=
  let n := blkNat b 8 2
  let res := (s.ctx y).isRes
  let es := if x = 0 ∧ !res then rootChoice s y n else lastN (s.ctx x).setts n
  if es.length < n ∨ (res ∧ es.any fun e => (s.sett e.2).res.isSome) then denied 2 y
  else if res then .ok (grantSlots s x y (blkNat b 12 4) es)
  else
    let cy := s.ctx y
    let v0 := nextVsett cy
    if !holtRule s (cy.setts ++ cy.lent.map (fun e => (e.1, e.2.1)) ++ es.zipIdx.map fun e => (v0 + e.2, e.1.2)) then denied 3 y
    else
      -- a sett with a running launch cannot leave its holder (log 31)
      match (es.map fun e => (List.range 8).map fun p => (e.1 * 8 + p, e.2 * 8 + p)).flatten.find? fun k =>
          (s.core k.2).launch.isSome || (s.core k.2).resLaunch.isSome with
      | some k => .error (.trap cCORE_BUSY (BitVec.ofNat 64 k.1))
      | none => .ok (grantSetts s x y es)

/-- A block's kind 1 grant. -/
def grantKind1 (s : State) (x y : Nat) (b : List Byte) : Except Stop State :=
  let src := blkNat b 8 8
  let dst := blkNat b 16 8
  let len := blkNat b 24 8
  let attr := blkNat b 32 4
  let share_ := attr.testBit 10
  let ps := heldPieces (s.ctx x) src (src + len)
  let wider (f : FRange) : Bool := !hasRights f.rights (attr % 16) || decide (f.atom < attr / 16 % 8) || decide (attr / 256 % 4 < f.cache)
  if ps.foldl (fun n f => n + f.len) 0 < len ∨ ps.any wider then denied 2 y
  else
    let id := freshRange s
    let new := ps.zipIdx.map fun e => let f := e.1; { f with
      cpa := dst + (f.cpa - src)
      key := keyOwner s y
      id := id + e.2
      rights := attr % 16
      atom := attr / 16 % 8
      cache := attr / 256 % 4
      src := f.cpa
      shared := share_ }
    let cy := s.ctx y
    let ty := joinRanges (sortRanges (cy.ranges ++ new))
    let cx := s.ctx x
    let tx := if share_ then cx.ranges else
      joinRanges (sortRanges ((cx.ranges.map fun f => if f.lentTo.isSome then [f] else
        outsideRange f src (src + len) ++ ((clipRange f src (src + len)).map fun p => { p with lentTo := some y }).toList).flatten))
    if 256 < (ty.filter (·.lentTo.isNone)).length ∨ 256 < (tx.filter (·.lentTo.isNone)).length then limited 5
    else
      let z := (s.setCtx x { cx with ranges := tx }).setCtx y { cy with ranges := ty }
      .ok (if share_ then z else drainContexts (shootdown s z [x] (ps.map fun f => (f.dpa, f.len))) [x])

/-- A block's kind 2 grant. -/
def grantKind2 (s : State) (x y : Nat) (b : List Byte) : Except Stop State :=
  let off := blkNat b 8 8
  let len := blkNat b 16 8
  let cx := s.ctx x
  if allotLen cx.archive < off + len then denied 2 y
  else
    let cut := cutExtents y cx.archive off (off + len)
    let s := zeroExtents (s.setCtx x { cx with archive := cut.2 }) cut.1
    let cy := s.ctx y
    .ok (s.setCtx y { cy with archive := cy.archive ++ cut.1 })

/-- Moves RATE of a class to or from a child on some dies; a revocation forgives the debt (R333, R338). -/
def moveRate (s : State) (y cls : Nat) (dies : List Nat) (f : Budget → Budget) : State :=
  let c := s.ctx y
  s.setCtx y (dies.foldl (fun c d => c.setBudget (budgetIx d cls) (f (c.budget (budgetIx d cls)))) c)

/-- A block's kind 3 grant. -/
def grantKind3 (s : State) (x y : Nat) (b : List Byte) : Except Stop State :=
  let rate := blkNat b 12 4
  if (blockDies b).any fun d => decide (share s x (budgetIx d (blkNat b 8 1)) < rate) then denied 2 y
  else .ok (moveRate s y (blkNat b 8 1) (blockDies b) fun z => { z with rate := z.rate + rate })

/-- A block's kind 4 grant. -/
def grantKind4 (s : State) (x y : Nat) (b : List Byte) : Except Stop State :=
  match (s.ctx y).setts.find? fun e => e.1 == blkNat b 10 2 with
  | none => denied 2 y
  | some e =>
    let t := s.sett e.2
    if 4 ≤ t.permits.length then limited 6 else .ok (s.setSett e.2 { t with permits := t.permits ++ [targetOf x (blkNat b 8 2)] })

/-- A block's kind 5 grant. -/
def grantKind5 (s : State) (x y : Nat) (b : List Byte) : Except Stop State :=
  let n := blkNat b 8 8
  let c := s.ctx x
  if x ≠ 0 ∨ c.pool < n then denied 2 y
  else
    let s := s.setCtx x { c with pool := c.pool - n }
    let cy := s.ctx y
    .ok (s.setCtx y { cy with pool := cy.pool + n })

/-- R329: removes the entries of a context that meet an extent, but a pinned one that lies wholly inside. -/
def flushStage1 (s : State) (x va len : Nat) : State :=
  let keep (e : TlbEntry) : Bool :=
    e.ctx != x || e.library || decide (va + len ≤ e.vbase) || decide (e.vbase + e.vlen ≤ va)
      || (e.pin && decide (va ≤ e.vbase) && decide (e.vbase + e.vlen ≤ va + len))
  { s with setts := s.setts.map fun e => (e.1, { e.2 with
      rangeTlb := e.2.rangeTlb.filter keep
      pageTlb := e.2.pageTlb.filter keep }) }

/-- Revocations of kinds 1, 3 and 4. -/
def revokeKind (s : State) (y : Nat) (b : List Byte) : Except Stop State :=
  match blkNat b 2 1 with
  | 1 => .ok (revokeRange s y (blkNat b 8 8) (blkNat b 8 8 + blkNat b 16 8))
  | 3 =>
    let rate := blkNat b 12 4
    if (blockDies b).any fun d => decide (share s y (budgetIx d (blkNat b 8 1)) < rate) then denied 2 y
    else .ok (moveRate s y (blkNat b 8 1) (blockDies b) fun z => { z with
      rate := z.rate - rate
      debt := 0 })
  | _ => .ok (flushStage1 s y (blkNat b 8 8) (blkNat b 16 8))

/-! ## Budgets at the start of a period (R332) -/

def refillBudget (sh : Nat) (b : Budget) : Budget :=
  let repay := min b.debt (sh / 2)
  { b with
    bucket := sh - repay
    debt := b.debt - repay
    spentLast := b.spent
    spent := 0 }

def refillContext (s : State) (x : Nat) (c : Context) : Context :=
  (List.range 20).foldl (fun c i => c.setBudget i (refillBudget (share s x i) (c.budget i))) c

/-- CTXSTAT's value (Table 21.12). -/
def statValue (s : State) (x : Nat) (w : Word) : Word :=
  let c := s.ctx x
  let i := budgetIx (field w 9 8) (field w 6 4)
  let b := c.budget i
  let n := match field w 3 0 with
    | 0 => (match c.st with | .live => 0 | .stopping => 1) + 4 * c.depth + 2 ^ 16 * c.parent + 2 ^ 32 * c.setts.length
    | 1 => min b.bucket (2 ^ 32 - 1) + 2 ^ 32 * min b.debt (2 ^ 32 - 1)
    | 2 => b.rate + 2 ^ 32 * share s x i
    | 3 => b.spentLast
    | 4 => c.s1root.toNat
    | _ => ((threadsOf s x).filter fun t => (s.thread t).run == .held).length % 65536 + 2 ^ 16 * (c.overruns % 65536)
  BitVec.ofNat 64 n

/-- A block at gA in the own scratchpad (R335). -/
def ctxBlock (s : State) (t : Tid) (a n : Nat) : Except Stop (List Byte) := do
  let k ← ownBlock s t ((s.thread t).readG a) n 64 rRD
  return readPlaces (settlePosted s t k.2) k.2

/-- CTXNEW (R336): Creates a live child context with no resources -/
def execCtxnew (s : BitVec 3) (d a b : BitVec 5) (st : State) : Out :=
  issue { word := (108#7 ++ s ++ d ++ a ++ b ++ 0#7), stall := s.toNat, reads := [(.g, a.toNat)], cls := .irrev, home := true } st fun z t => do
    let blk ← ctxBlock z t a.toNat 64
    rejectBad 2 (ctxnewChecks blk)
    let x := ctxOf z t
    let c := z.ctx x
    let id ← match freeContext z with
      | some i => Except.ok i
      | none => limited 1
    if 8 ≤ c.depth then limited 2
    if x = 0 ∧ 24 ≤ depthCount z 1 then limited 3
    let child : Context := { childContext z x blk with keyGen := z.freeCount }
    if child.ownKey ∧ (enabledDies z).any fun e => decide (keySlots ≤ (z.die e).keysUsed) then limited 4
    let z := if child.ownKey then moveKeys z (· + 1) else z
    let z := { z.setCtx id child with dead := (z.dead.erase id).filter fun e => e.2 != id }
    return (z.setThread t ((z.thread t).putG d.toNat (BitVec.ofNat 64 id)), .seq)

/-- CTXGRANT (R337): Grants setts, a range, Archive, budget, a permit or an object pool to a child -/
def execCtxgrant (s : BitVec 3) (d a b : BitVec 5) (st : State) : Out :=
  issue { word := (108#7 ++ s ++ d ++ a ++ b ++ 1#7), stall := s.toNat, reads := [(.g, a.toNat)], cls := .irrev, home := true } st fun z t => do
    let blk ← ctxBlock z t a.toNat 64
    let x := ctxOf z t
    let y := targetOf x (blkNat blk 0 2)
    let child := inSubtree z x y && y != x && (z.ctx y).parent == x && (z.ctx y).st == .live
    rejectBad 3 (kindChecks blk 5 ++ grantChecks blk (child && !(z.ctx y).isRes))
    if !child then denied 1 y
    let z := drainPosted z t
    let z ← match blkNat blk 2 1 with
      | 0 => grantKind0 z x y blk
      | 1 => grantKind1 z x y blk
      | 2 => grantKind2 z x y blk
      | 3 => grantKind3 z x y blk
      | 4 => grantKind4 z x y blk
      | _ => grantKind5 z x y blk
    return (z.setThread t ((z.thread t).putG d.toNat 0), .seq)

/-- A revocation of the thread's: complete at once, or under way until its reply. -/
def revoke (s : State) (t : Tid) (d : Nat) (w : Teardown) : State × Next :=
  let r := revokeStep w { s with teardowns := s.teardowns ++ [w] }
  if r.2 then (r.1.setThread t ((r.1.thread t).putG d 0), .seq) else (r.1, .sent false d)

/-- CTXREVOKE (R338): Tears down, revokes resources from, or flushes translations of a subtree context -/
def execCtxrevoke (s : BitVec 3) (d a b : BitVec 5) (st : State) : Out :=
  issue { word := (108#7 ++ s ++ d ++ a ++ b ++ 2#7), stall := s.toNat, reads := [(.g, a.toNat)], cls := .irrev, home := true } st fun z t => do
    let blk ← ctxBlock z t a.toNat 64
    rejectBad 4 (kindChecks blk 4 ++ revokeChecks blk)
    let x := ctxOf z t
    let y := targetOf x (blkNat blk 0 2)
    let z := drainPosted z t
    if blkNat blk 2 1 = 0 then
      if deadUnder z 9 x y then
        return (z.setThread t ((z.thread t).putG d.toNat 0), .seq)
      else
        if !(inSubtree z x y && y != x) then denied 1 y
        let den ← if blkNat blk 8 1 = 0 then Except.ok none else
          match rangeAt (z.ctx x) (blkNat blk 16 8) with
          | some f => Except.ok (some (f.dpa + (blkNat blk 16 8 - f.cpa)))
          | none => denied 2 y
        return revoke (beginTeardown z y) t d.toNat ⟨y, den, some t, none, none⟩
    else
      if !(if blkNat blk 2 1 = 4 then blkNat blk 0 2 == 0 else inSubtree z x y && y != x) then denied 1 y
      if blkNat blk 2 1 = 2 then
        let c := z.ctx y
        let held := if c.isRes then c.resSetts else c.setts
        if held.length < blkNat blk 8 2 then denied 2 y
        return revoke z t d.toNat ⟨y, none, some t, some ((lastN held (blkNat blk 8 2)).map (·.2)), none⟩
      let z ← revokeKind z y blk
      return (z.setThread t ((z.thread t).putG d.toNat 0), .seq)

/-- CTXSTAT (R340): Returns a selected status value of a context -/
def execCtxstat (s : BitVec 3) (d a b : BitVec 5) (st : State) : Out :=
  issue { word := (108#7 ++ s ++ d ++ a ++ b ++ 3#7), stall := s.toNat, reads := [(.g, a.toNat), (.g, b.toNat)], cls := .irrev } st fun z t =>
    let th := z.thread t
    let x := ctxOf z t
    let y := targetOf x (field (th.readG a.toNat) 9 0)
    let w := th.readG b.toNat
    if 5 < field w 3 0 ∨ (0 < field w 3 0 ∧ field w 3 0 < 4 ∧ 4 < field w 6 4) then .error (.trap cOPERAND_RANGE w)
    else if inSubtree z x y then .ok (z.setThread t (th.putG d.toNat (statValue z y w)), .seq)
    else if deadUnder z 9 x y then .ok (z.setThread t (th.putG d.toNat (if field w 3 0 = 0 then 2 else 0)), .seq)
    else denied 1 y

/-- RESUME (R341): Releases a thread held after a reflection, or reflects it upward -/
def execResume (s : BitVec 3) (d a b : BitVec 5) (st : State) : Out :=
  issue { word := (109#7 ++ s ++ d ++ a ++ b ++ 0#7), stall := s.toNat, reads := [(.g, a.toNat)], cls := .irrev, home := true } st fun z t => do
    let blk ← ctxBlock z t a.toNat 128
    rejectBad 5 (resumeChecks blk)
    let x := ctxOf z t
    let y := targetOf x (blkNat blk 0 2)
    if blkNat blk 5 1 = 3 ∧ x = 0 then throw (.trap cOPERAND_RANGE 3)
    if !(inSubtree z x y || deadUnder z 9 x y) then denied 1 y
    let z := drainPosted z t
    if !inSubtree z x y || (z.ctx y).st == .stopping then
      return (z.setThread t ((z.thread t).putG d.toNat 2), .seq)
    else
      let held := match coreOfVc z y (blkNat blk 2 2) with
        | none => none
        | some k =>
          let h : Tid := ⟨k, blkNat blk 4 1⟩
          match (z.thread h).run, (z.thread h).heldFor with
          | .held, some (y', g) => if y' = x ∧ ctxOf z h = y then some (h, g) else none
          | _, _ => none
      match held with
      | none => return (z.setThread t ((z.thread t).putG d.toNat 1), .seq)
      | some (h, g) =>
        let z := if blkNat blk 5 1 = 3 then forwardHeld z h x g
          else
            let th := z.thread h
            let pc := match blkNat blk 5 1 with
              | 0 => th.epc
              | 1 => chainAfter z h 16 th.epc
              | _ => BitVec.ofNat 64 (blkNat blk 16 8)
            let gs := ((List.range 8).filter (blkNat blk 6 1).testBit).map fun i => (4 + i, BitVec.ofNat 64 (blkNat blk (32 + 8 * i) 8))
            resumeThread z h pc gs
        return (z.setThread t ((z.thread t).putG d.toNat 0), .seq)

/-- LNCH (R342): Binds virtual cores and starts a launch -/
def execLnch (s : BitVec 3) (d a b : BitVec 5) (st : State) : Out :=
  issue { word := (110#7 ++ s ++ d ++ a ++ b ++ 0#7), stall := s.toNat, reads := [(.g, a.toNat)], cls := .irrev } st fun z t => do
    let addr := (z.thread t).readG a.toNat
    let blk ← anyBlock z t addr 64 64
    let used := drainPosted (useBlocks z t [(addr, 64)]) t
    let x := ctxOf z t
    let y := targetOf x (blkNat blk 28 2)
    let signal := BitVec.ofNat 64 (blkNat blk 48 8)
    if !inSubtree z x y then
      if deadUnder z 9 x y then
        -- the checks that need nothing of the context
        rejectBad 1 (lnchChecks blk { Context.bare with
          codeLen := 2 ^ 32
          isRes := (blkNat blk 30 1).testBit 4 })
        let z := signalError used (viewOf used t) signal
        return (z.setThread t ((z.thread t).putG d.toNat 84), .seq)
      else denied 1 y
    else if (z.ctx y).st == .stopping then
      rejectBad 1 (lnchChecks blk (z.ctx y))
      let z := signalError used (viewOf used t) signal
      return (z.setThread t ((z.thread t).putG d.toNat 84), .seq)
    else
      rejectBad 1 (lnchChecks blk (z.ctx y))
      let c := z.ctx y
      let vs := (List.range (blkNat blk 14 2)).map (blkNat blk 12 2 + ·)
      let ks ← vs.mapM fun v => match bindable z y c.isRes v with
        | some k => Except.ok k
        | none => Except.error (Stop.trap cCORE_BUSY (BitVec.ofNat 64 v))
      let boot := heldPieces c c.bootPA (c.bootPA + c.bootLen)
      if boot.foldl (fun n f => n + f.len) 0 < c.bootLen then denied 4 y
      let z := bindLaunch used t y blk ks
      return (z.setThread t ((z.thread t).putG d.toNat 0), .seq)

/-- WKDONE (R141): Answers a translation miss: install, reissue or fault -/
def execWkdone (s : BitVec 3) (d a b : BitVec 5) (st : State) : Out :=
  issue { word := (58#7 ++ s ++ d ++ a ++ b ++ 0#7), stall := s.toNat, reads := [(.g, a.toNat), (.g, b.toNat)], role := .t15, home := true } st fun z t => do
    let th := z.thread t
    let w := th.readG a.toNat
    let code := field w 31 16
    if !([0, 1, cPAGE_FAULT, cXLATE_RIGHTS].contains code) then throw (.trap cOPERAND_RANGE w)
    match (z.core t.core).misses.find? fun m => m.id == field w 15 0 with
    | none => return (z.setThread t ((z.thread t).putG d.toNat 2), .seq)
    | some m =>
      if code = 0 then
        let k ← ownBlock z t (th.readG b.toNat) 32 32 rRD
        let z := settlePosted z t k.2
        let rec_ := readPlaces z k.2
        match installEntry z m.ctx rec_ m.cva with
        | none =>
          let z := answerMiss z t.core m cPAGE_FAULT
          return (z.setThread t ((z.thread t).putG d.toNat 1), .seq)
        | some e =>
          let i := settOf t.core
          let y := z.sett i
          let z := if blkNat rec_ 24 4 / 4096 % 2 = 1 then installRange z i e else z.setSett i { y with pageTlb := tlbInstall 512 y.pageTlb e }
          let z := answerMiss z t.core m 0
          return (z.setThread t ((z.thread t).putG d.toNat 0), .seq)
      else
        let z := answerMiss z t.core m (if code = 1 then 0 else code)
        return (z.setThread t ((z.thread t).putG d.toNat 0), .seq)

/-- Where a reflection message goes: the handler's context and the virtual core that it has named for the child (R350). -/
def reflectedTo (s : State) (h x : Nat) : Nat × Nat := (h, (s.ctx (childToward s 9 h x)).hvc)

/-- REFLECTION_MESSAGE (R351): The dispatcher delivers a waiting reflection message to the handler thread's inbox -/
def execReflectionMessage (n : Nat) (st : State) : Out :=
  match st.flights[n]? with
  | some (.reflection h held code async inh fwd epc eval g gs x vc) =>
    let earlier (f : Flight) : Bool := match f with
      | .reflection h' k _ _ _ _ _ _ g' _ x' _ => reflectedTo st h' x' == reflectedTo st h x && (decide (g' < g) || (g' == g && decide (sourceOf st k < sourceOf st held)))
      | _ => false
    let child := st.ctx (childToward st 9 h x)
    let dest := match coreOfVc st h child.hvc with
      | none => none
      | some k =>
        let c := st.core k
        let l := if child.hthr = 13 then c.resLaunch else c.launch
        match l.bind st.launches.find? with
        | some l => if l.ctx = h ∧ (st.sett (settOf k)).place.isSome then some k else none
        | none => none
    -- within its own tick one of a lower source may still come (R16)
    if st.flights.any earlier || decide (gts st ≤ g) then .next st
    else
      let z := { st with flights := st.flights.eraseIdx n }
      let body := reflectionBytes x vc held.thr code async inh fwd epc eval g gs
      match dest with
      | some k =>
        let c := z.core k
        if inboxPlaces ≤ c.inbox.length ∨ !settClock st (settOf k) then .next st
        else
          let header := BitVec.ofNat 64 (vc + 65536 * held.thr + 2 ^ 24 * 0x81)
          let z := z.setCore k { c with inbox := c.inbox ++ [⟨body, header, child.hthr == 13⟩] }
          .next (lapse (if child.hthr = 13 then wakeResident z k else z))
      | none =>
        if h ≠ 0 then .next st
        else if code = cSYSCALL then .next (lapse (resumeThread z held epc [(4, BitVec.allOnes 64)]))
        else
          let z := beginTeardown { z with reports := z.reports ++ [body] } x
          let w : Teardown := ⟨x, none, none, none, none⟩
          .next (lapse (teardownStep w { z with teardowns := z.teardowns ++ [w] }))
  | _ => .next st

/-- A period begins (R332). -/
def refill (s : State) : State :=
  { s with
    contexts := s.contexts.map fun e => (e.1, refillContext s e.1 e.2)
    refillAt := s.refillAt + 8192 }

/-- BUDGET_REFILL (R332): At each 8,192-tick period every bucket is refilled and debt repaid -/
def execBudgetRefill (st : State) : Out :=
  .next (lapse (refill (advanceGts st st.refillAt)))

end Sys2Proof.Machine
end

