-- ==== Sys2Proof/Machine/Digest.lean ====
section
/-! DEFINITION. The digest and the cipher that the manual names: SHA3-256 (FIPS 202) and AES-128 (FIPS 197), used by the egress
marker and by attestation (23_package_links.md R378, R379, R382). PRESUMED (log 5): both are taken from those standards. -/

namespace Sys2Proof.Machine

open Sys2Proof

/-! ## SHA3-256 -/

/-- The state of Keccak-f[1600]: 25 lanes, lane x + 5y at that place. -/
abbrev Lanes := List Word

def laneAt (a : Lanes) (i : Nat) : Word := a.getD i 0

/-- Rotation offsets of the lanes. -/
def keccakRot : List Nat := [0, 1, 62, 28, 27, 36, 44, 6, 55, 20, 3, 10, 43, 25, 39, 41, 45, 15, 21, 8, 18, 2, 61, 56, 14]

/-- The round constants. -/
def keccakRc : List Word :=
  ([0x0000000000000001, 0x0000000000008082, 0x800000000000808A, 0x8000000080008000, 0x000000000000808B, 0x0000000080000001,
    0x8000000080008081, 0x8000000000008009, 0x000000000000008A, 0x0000000000000088, 0x0000000080008009, 0x000000008000000A] : List Word)
  ++ ([0x000000008000808B, 0x800000000000008B, 0x8000000000008089, 0x8000000000008003, 0x8000000000008002, 0x8000000000000080,
    0x000000000000800A, 0x800000008000000A, 0x8000000080008081, 0x8000000000008080, 0x0000000080000001, 0x8000000080008008] : List Word)

/-- One round: theta, rho and pi, chi, iota. -/
def keccakRound (a : Lanes) (rc : Word) : Lanes :=
  let c := (List.range 5).map fun x => laneAt a x ^^^ laneAt a (x + 5) ^^^ laneAt a (x + 10) ^^^ laneAt a (x + 15) ^^^ laneAt a (x + 20)
  let d := (List.range 5).map fun x => laneAt c ((x + 4) % 5) ^^^ (laneAt c ((x + 1) % 5)).rotateLeft 1
  let a := (List.range 25).map fun i => laneAt a i ^^^ laneAt d (i % 5)
  -- lane (x, y) of the new state comes from lane (x + 3y, x)
  let b := (List.range 25).map fun i => let j := (i % 5 + 3 * (i / 5)) % 5 + 5 * (i % 5); (laneAt a j).rotateLeft (keccakRot.getD j 0)
  let e := (List.range 25).map fun i =>
    laneAt b i ^^^ (~~~laneAt b ((i + 1) % 5 + 5 * (i / 5)) &&& laneAt b ((i + 2) % 5 + 5 * (i / 5)))
  match e with
  | [] => []
  | x :: xs => (x ^^^ rc) :: xs

def keccak (a : Lanes) : Lanes := keccakRc.foldl keccakRound a

/-- The lanes of a block of 136 bytes, with zeros behind. -/
def blockLanes (bs : List Byte) : Lanes :=
  (List.range 25).map fun i => ((bs.drop (8 * i)).take 8).foldr (fun b (w : Word) => (w <<< 8) ||| b.setWidth 64) 0

/-- Absorbs whole blocks of 136 bytes (fuel: the number of blocks). -/
def spongeIn : Nat → Lanes → List Byte → Lanes
  | 0, a, _ => a
  | n + 1, a, bs => spongeIn n (keccak (List.zipWith (· ^^^ ·) a (blockLanes (bs.take 136)))) (bs.drop 136)

/-- SHA3-256 of a message. -/
def sha3 (bs : List Byte) : List Byte :=
  let k := 136 - bs.length % 136
  let pad : List Byte := if k = 1 then [0x86] else 0x06 :: (List.replicate (k - 2) 0 ++ [0x80])
  let m := bs ++ pad
  let a := spongeIn (m.length / 136) (List.replicate 25 0) m
  ((List.range 4).map fun i => (List.range 8).map fun j => (laneAt a i).extractLsb' (8 * j) 8).flatten

/-! ## AES-128 -/

/-- Multiplication by x in GF(2^8) modulo x^8 + x^4 + x^3 + x + 1. -/
def xtime (b : Byte) : Byte := (b <<< 1) ^^^ (if b.getLsbD 7 then 0x1B else 0)

def gfMul (a b : Byte) : Byte := ((List.range 8).foldl (fun (r : Byte × Byte) i => ((if b.getLsbD i then r.1 ^^^ r.2 else r.1), xtime r.2)) (0, a)).1

/-- The inverse, a to the power 254; of 0 it is 0. -/
def gfInv (a : Byte) : Byte :=
  let sq (x : Byte) := gfMul x x
  let a2 := sq a
  let a4 := sq a2
  let a8 := sq a4
  let a16 := sq a8
  let a32 := sq a16
  let a64 := sq a32
  gfMul (gfMul (gfMul a2 a4) (gfMul a8 a16)) (gfMul (gfMul a32 a64) (sq a64))

def sbox (a : Byte) : Byte :=
  let x := gfInv a
  x ^^^ x.rotateLeft 1 ^^^ x.rotateLeft 2 ^^^ x.rotateLeft 3 ^^^ x.rotateLeft 4 ^^^ 0x63

def xorBytes (a b : List Byte) : List Byte := List.zipWith (· ^^^ ·) a b

/-- The next round key. -/
def nextKey (rc : Byte) (k : List Byte) : List Byte :=
  let at_ (i : Nat) : Byte := k.getD i 0
  let t := [sbox (at_ 13) ^^^ rc, sbox (at_ 14), sbox (at_ 15), sbox (at_ 12)]
  let w0 := xorBytes (k.take 4) t
  let w1 := xorBytes ((k.drop 4).take 4) w0
  let w2 := xorBytes ((k.drop 8).take 4) w1
  w0 ++ w1 ++ w2 ++ xorBytes (k.drop 12) w2

/-- Byte substitution and the shift of the rows; the state is 16 bytes, column by column. -/
def subShift (a : List Byte) : List Byte := (List.range 16).map fun i => sbox (a.getD ((i + 4 * (i % 4)) % 16) 0)

def mixColumns (a : List Byte) : List Byte :=
  (List.range 16).map fun i =>
    let c := i / 4 * 4
    let at_ (j : Nat) : Byte := a.getD (c + (i + j) % 4) 0
    xtime (at_ 0) ^^^ xtime (at_ 1) ^^^ at_ 1 ^^^ at_ 2 ^^^ at_ 3

/-- Rounds 1 to 9 for the constants given, then the last. -/
def aesRounds : List Byte → List Byte → List Byte → List Byte
  | [], _, a => a
  | [rc], k, a => xorBytes (subShift a) (nextKey rc k)
  | rc :: rcs, k, a => let k := nextKey rc k; aesRounds rcs k (xorBytes (mixColumns (subShift a)) k)

/-- AES-128 of one block of 16 bytes. -/
def aes128 (key blk : List Byte) : List Byte :=
  aesRounds [0x01, 0x02, 0x04, 0x08, 0x10, 0x20, 0x40, 0x80, 0x1B, 0x36] key (xorBytes blk key)

end Sys2Proof.Machine
end

