-- ==== Sys2Proof/Machine/Switch.lean ====
section
/-! DEFINITION. The gang switch, Dens and folding (22_traps_switch.md R354 to R363; 12 R209, 14 R231, 15 R250). -/

namespace Sys2Proof.Machine

open Sys2Proof

/-! ## Slots (R354) -/

/-- Table 22.6. -/
def slotOf (b : List Byte) : Switch :=
  ⟨blkNat b 0 8, blkNat b 8 2 % 1024, blkNat b 10 2 % 1024, blkNat b 12 1 % 2 == 1, blkNat b 16 4, blkNat b 20 4, blkNat b 24 8, blkNat b 32 8,
    0, 0, [], false, [], []⟩

def isPartition (s : State) (x : Nat) : Bool := match s.contexts.find? x with | some c => c.depth == 1 | none => false
def switchedOut (s : State) (x : Nat) : Bool := s.dens.any fun d => d.bySwitch && d.root == x

/-- The switch of a partition that has reached its tick. -/
def activeSwitch (s : State) (x : Nat) : Option Switch := s.switches.find? fun w => w.out == x && w.phase != 0

/-- The earliest armed slot of a partition. -/
def armedSwitch (s : State) (x : Nat) : Option Switch :=
  (s.switches.filter fun w => w.out == x && w.phase == 0).foldl
    (fun best w => match best with | none => some w | some b => if w.tick < b.tick then some w else some b) none

def putSwitch (s : State) (old new : Switch) : State :=
  { s with switches := s.switches.map fun w => if w = old then new else w }

def dropSwitch (s : State) (w : Switch) : State := { s with switches := s.switches.erase w }

/-! ## The threads of a partition -/

/-- The cores of a partition's setts. -/
def partCores (s : State) (p : Nat) : List Nat := (s.cores.map (·.1)).filter fun k => (s.sett (settOf k)).part == p && (s.sett (settOf k)).place.isSome

def partThreads (s : State) (p : Nat) : List Tid := ((partCores s p).map fun k => (List.range 16).map fun i => (⟨k, i⟩ : Tid)).flatten

def mapThreads (s : State) (ts : List Tid) (f : Thread → Thread) : State := ts.foldl (fun s t => s.setThread t (f (s.thread t))) s

/-- Ready, stalled or interlocked, and neither displaced nor stopped (R355). -/
def stillRuns (s : State) (t : Tid) : Bool :=
  let th := s.thread t
  th.run == .ready && !th.stopped && th.halted.isNone && !displaced (s.core t.core) t.thr

/-- A thread goes on after an abort or a restore. -/
def releaseThread (th : Thread) : Thread :=
  { th with
    stopped := false
    yielded := none }

/-- R209: the started tasks of a partition's domains that are not protected are undone. -/
def undoDomains (s : State) (p : Nat) : State :=
  s.units.foldl (fun s e =>
    if inSubtree s p (e.1 / 2 ^ 16) then
      abortTasks s e.1 (((s.unit e.1).domain.tasks.filter fun y => !y.prot && y.st != .queued).map OTask.key)
    else s) s

/-- The same, once no thread of a started task stands inside a hint chain (R202). -/
def undoWhenStill (s : State) (p : Nat) : State :=
  if s.units.any fun e => inSubtree s p (e.1 / 2 ^ 16)
      && insideChain s e.1 ((e.2.domain.tasks.filter fun y => !y.prot && y.st != .queued).map OTask.key) then s
  else undoDomains s p

/-- The dies that hold part of a partition. -/
def partDies (s : State) (p : Nat) : List Nat :=
  (enabledDies s).filter fun d => s.setts.any fun e => e.2.part == p && e.2.place.isSome && e.2.die == d

/-- Nothing of a partition is still under way that its save must wait for: chains, results and replies to come, a `CPYC` that
writes, a bank command, a chunk that a tile engine has latched, bank cycles (R119, R135, R186, R231, R250). A thread parked on `ABAL`
or `ABFR` is saved so. -/
def quiet (s : State) (p : Nat) : Bool :=
  (partThreads s p).all (fun t =>
    let th := s.thread t
    th.chain.isNone && (lateRead th (dieCycle s (dieOf s t.core)) .all []).isNone && !replyDue s t)
  && !(s.setts.any fun e => e.2.part == p && e.2.queue.any writing)
  && (partCores s p).all (fun k => (s.core k).tile.latch.isNone && decide ((s.core k).freeAt ≤ dieCycle s (dieOf s k)))
  && !s.flights.any fun f => match f with
    | .bank src _ _ _ _ _ _ _ _ _ _ _ _ => (s.sett (settOf src.core)).part == p
    | _ => false

/-! ## Park buffers (R356) -/

/-- What is in flight from a partition's threads and goes to a park buffer. -/
def parkable (s : State) (p : Nat) (f : Flight) : Bool :=
  (match f with
  | .msg _ _ _ _ | .scale _ _ _ _ | .psto _ _ _ _ _ _ _ _ _ _ | .migr _ _ _ => true
  | _ => false) && (s.sett (settOf f.src.core)).part == p

/-- The sender of a parked message is answered as if it had been accepted. -/
def parkFlight (s : State) (f : Flight) : State × Flight :=
  match f with
  | .msg t k m false => (answer s t none, .msg t k m true)
  | .scale t k b false => (answer s t none, .scale t k b true)
  | f => (s, f)

/-- Takes what can be parked out of the flights of a partition. -/
def flushFlights (s : State) (p : Nat) : State × List Flight :=
  let fs := s.flights.filter (parkable s p)
  fs.foldl (fun r f => let q := parkFlight r.1 f; (q.1, r.2 ++ [q.2])) ({ s with flights := s.flights.filter fun f => !parkable s p f }, [])

/-! ## Saving (R357, R358) -/

/-- An entry of a boot range or of the supplied library, which a restore puts back (R326, R359). -/
def bootPinned (s : State) (e : TlbEntry) : Bool :=
  let c := s.ctx e.ctx
  e.pin && (e.vbase == Config.libraryVA || (decide (c.bootVA ≤ e.vbase) && decide (e.vbase + e.vlen ≤ c.bootVA + c.bootLen)))

/-- The lowest number that a context neither holds nor keeps for the return of a grant (R321). -/
def freeNumber (c : Context) : Nat :=
  let used := c.setts.map (·.1) ++ c.lent.map (·.1)
  ((List.range used.length).find? fun v => !used.contains v).getD used.length

/-- A place that a partition leaves is the root's again, as a sett that reads zero (R31, log 30). -/
def freePlace (s : State) (q : Nat) : State :=
  let i := freshIdentity s
  let c := s.ctx 0
  let v := freeNumber c
  let s := s.setSett i { Sett.reset i with
    place := some q
    vsett := v }
  s.setCtx 0 { c with setts := insertSett c.setts (v, i) }

/-- The armed slots of a partition whose ticks fall before the end of a switch are taken at the next tick (R354). -/
def retimeSlots (s : State) (p : Nat) : State :=
  { s with switches := s.switches.map fun w => if w.out == p && w.phase == 0 then { w with tick := max w.tick (gts s + 1) } else w }

/-- The save is complete on every die: the partition leaves its setts (R358), and IN comes to its own. What its ports have translated serves only the units
that go on, such as the collective engine (R377), until the partition is restored (R359). -/
def commitSwitch (s : State) (w : Switch) : State :=
  let p := w.out
  let xs := subtree s p
  let ks := partCores s p
  let c := s.ctx p
  let mask := homeMask s xs
  let image := denImage s (denHeader s p xs.length (c.setts.length + c.lent.length) mask (2 + if w.compact.isEmpty then 0 else 1))
  let s := writeDen s w.shadow image
  let s := ks.foldl (fun s k => s.setCore k (saveCycles s k (savedCore (w.compact.contains k) (s.core k)))) s
  let places := s.setts.filterMap fun e => if e.2.part == p then e.2.place else none
  let s := { s with setts := s.setts.map fun e => if e.2.part == p then
      (e.1, { e.2 with place := none }) else e }
  let s := places.foldl freePlace s
  let s := s.setCtx p { s.ctx p with aborts := 0 }
  let den : Den := {
    root := p
    bySwitch := true
    shadow := w.shadow
    image := image
    dies := mask
    fold := false
    parked := w.parked
    contexts := []
    launches := []
    cores := []
    units := []
    setts := [] }
  retimeSlots (dropSwitch { s with dens := s.dens ++ [den] } w) p

/-! ## Restoring (R359 to R362) -/

/-- A place in a placement: the physical sett, and whether its cores are folded in pairs. -/
def placeSett (q : Nat) : Nat := q % 1024
def placeFolds (q : Nat) : Bool := decide (1024 ≤ q)

/-- The setts of a Den in the order of the top context's numbering. -/
def denSetts (s : State) (d : Den) : List (Nat × Nat) :=
  let c := if d.bySwitch then s.ctx d.root else d.contexts.getD d.root .bare
  sortBy (fun a b => decide (a.1 ≤ b.1)) (c.setts ++ c.lent.map fun e => (e.1, e.2.1))

/-- The idle sett that a place has for a Den whose setts go to a child of `p`. -/
def idleAt (s : State) (p q : Nat) : Option (Nat × Nat) :=
  (s.ctx p).setts.find? fun e => (s.sett e.2).place == some q && (enabledDies s).contains (q / 144)
    && !(List.range 8).any fun j => (s.core (8 * e.2 + j)).launch.isSome || (s.core (8 * e.2 + j)).resLaunch.isSome

/-- Reason 2 of Table 22.11: the places do not hold the virtual holts. -/
def placesBad (s : State) (p : Nat) (vs : List (Nat × Nat)) (places : List Nat) : Bool :=
  let qs := places.map placeSett
  let pairs := vs.zip qs
  places.length != vs.length || qs.eraseDups.length != qs.length || qs.any (fun q => (idleAt s p q).isNone)
    || !pairs.all fun a => pairs.all fun b => a.1.1 / 6 != b.1.1 / 6 || a.2 / 6 == b.2 / 6

/-- Reason 3: a range of a torn-down subtree that its parent no longer holds. -/
def rangesLost (s : State) (d : Den) : Bool :=
  let c := d.contexts.getD d.root .bare
  c.ranges.any fun f => (heldPieces (s.ctx c.parent) f.src (f.src + f.len)).foldl (fun n g => if g.dpa - g.cpa == f.dpa - f.src then n + g.len else n) 0 < f.len

/-- Reason 1 of Table 22.11: the bytes at the Den's place have another FORMAT, or their DIGEST does not match any more, since it or
the body has changed. -/
def denSpoilt (s : State) (d : Den) : Bool :=
  d.image.zipIdx.any fun e => (decide (e.2 < 4) || decide (32 ≤ e.2)) && match dpaPlace s (d.shadow + e.2) with
    | .ok k => readPlace s k != e.1
    | .error _ => false

/-- The reason of Table 22.11 for which a Den cannot be restored. -/
def restoreReason (s : State) (d : Den) (places : List Nat) : Option Nat :=
  let c := if d.bySwitch then s.ctx d.root else d.contexts.getD d.root .bare
  if denSpoilt s d then some 1
  else if placesBad s c.parent (denSetts s d) places then some 2
  else if !d.bySwitch && rangesLost s d then some 3
  else if (List.range 4).any fun i => d.dies.testBit i && !(enabledDies s).contains i then some 4
  else if !d.bySwitch && (d.contexts.any (fun e => (s.contexts.find? e.1).isSome) || (s.contexts.find? c.parent).isNone
      || (enabledDies s).any fun i => decide (keySlots < (s.die i).keysUsed + (d.contexts.filter fun e => e.2.ownKey).length)) then some 5
  else none

/-- A pair of virtual cores may share a physical core (R360). -/
def mayFold (a b : VCore) : Bool :=
  let fits (c : VCore) : Bool :=
    bit c.stdom 3 && decide ((c.tile.owner.toList.filter (· != 16)).length ≤ 32) && (List.range 6).all fun i => (c.thread (7 + i)).run == .dormant
  fits a && fits b

/-- A core in its place: its threads are ready where they stopped, and its counters go on (R359). -/
def placedCore (s : State) (die : Nat) (c : VCore) (fold high : Bool) : VCore :=
  let cyc := dieCycle s die
  { loadCycles s die c with
    freeAt := cyc
    folded := fold
    foldHigh := fold && high
    servedAt := []
    threads := c.threads.map fun th => { (releaseThread th).readyFrom cyc with owed := [] } }

/-- Puts one sett of a Den in its place; the idle sett there is no more. -/
def placeDenSett (s : State) (p root : Nat) (canFold : Bool) (i : Nat) (q : Nat) : State :=
  match idleAt s p (placeSett q) with
  | none => s
  | some (v, old) =>
    let c := s.ctx p
    -- a sett that a switch moved keeps its number there; one of a torn-down subtree is granted anew (R321)
    let lent := if c.lent.any fun e => e.2.1 == i then c.lent else (v, i, root) :: c.lent
    let s := s.setCtx p { c with
      setts := c.setts.filter fun e => e.2 != old
      lent := lent }
    let s := { s with
      setts := s.setts.erase old
      cores := s.cores.filter fun e => settOf e.1 != old }
    let t := s.sett i
    let s := s.setSett i { t with
      place := some (placeSett q)
      rangeTlb := t.rangeTlb.filter (bootPinned s)
      pageTlb := [] }
    (List.range 8).foldl (fun s j =>
      let k := 8 * i + j
      let fold := canFold && placeFolds q && mayFold (s.core (8 * i + j / 2 * 2)) (s.core (8 * i + j / 2 * 2 + 1))
      s.setCore k (placedCore s (placeSett q / 144) (s.core k) fold (j % 2 == 1))) s

/-- The offset of a base in an allotment, what is lent counted. -/
def offsetIn : List Extent → Nat → Nat
  | [], _ => 0
  | e :: es, a => if e.base ≤ a ∧ a < e.base + e.len then a - e.base else e.len + offsetIn es a

/-- An extent of an allotment `old`, where the allotment has moved to the extents `new`. -/
def rebase (old new : List Extent) (e : Extent) : List Extent :=
  let off := offsetIn old e.base
  (cutExtents 0 new off (off + e.len)).1.map fun x => { x with lent := e.lent }

/-- A context of a Den as it goes on: its next sampling pulse is still to come (R393). -/
def revived (s : State) (c : Context) : Context :=
  let n := field c.spoor 63 32
  { c with
    poolUsed := 0
    pulseAt := if n = 0 then c.pulseAt else (gts s / n + 1) * n }

/-- The contexts of a torn-down subtree come back to life under their numbers; their Archive allotments read zero. -/
def reviveContexts (s : State) (d : Den) : State :=
  let c := d.contexts.getD d.root .bare
  let p := c.parent
  let cp := s.ctx p
  let lend (rs : List FRange) (f : FRange) : List FRange := if f.shared then rs else
    (rs.map fun g => if g.lentTo.isSome then [g] else
      outsideRange g f.src (f.src + f.len) ++ ((clipRange g f.src (f.src + f.len)).map fun h => { h with lentTo := some d.root }).toList).flatten
  let want := c.archive.foldl (fun n e => n + e.len) 0
  let have_ := allotLen cp.archive
  let cut := if want ≤ have_ then cutExtents d.root cp.archive (have_ - want) have_ else ([], cp.archive)
  let s := zeroExtents (s.setCtx p { cp with
    ranges := joinRanges (sortRanges (c.ranges.foldl lend cp.ranges))
    archive := cut.2
    pool := if c.depth = 1 then cp.pool - c.pool else cp.pool }) cut.1
  let s := d.contexts.foldl (fun s e => s.setCtx e.1 (revived s { e.2 with archive := e.2.archive.flatMap (rebase c.archive cut.1) })) s
  let s := moveKeys s (· + (d.contexts.filter fun e => e.2.ownKey).length)
  { s with
    dead := s.dead.filter fun e => (d.contexts.find? e.1).isNone
    launches := d.launches.foldl (fun m e => m.insert e.1 e.2) s.launches
    units := d.units.foldl (fun m e => m.insert e.1 e.2) s.units
    setts := d.setts.foldl (fun m e => m.insert e.1 { e.2 with place := none }) s.setts
    cores := d.cores.foldl (fun m e => m.insert e.1 e.2) s.cores }

/-- R359, R362: a Den is restored whole on the places given. -/
def restoreDen (s : State) (n : Nat) (d : Den) (places : List Nat) : State :=
  let vs := denSetts s d
  let s := { s with dens := s.dens.eraseIdx n }
  let s := if d.bySwitch then s else reviveContexts s d
  let p := (s.ctx d.root).parent
  let s := (vs.zip places).foldl (fun s e => placeDenSett s p d.root d.fold e.1.2 e.2) s
  let xs := subtree s d.root
  let s := { s with
    flights := d.parked ++ s.flights
    -- recomputes go on, by the clock of the die where the domain now lies (R203)
    units := s.units.map fun e => match xs.contains (e.1 / 2 ^ 16), unitHolt s e.1 with
      | true, some h => (e.1, { e.2 with domain := { e.2.domain with nextRecompute := nextMultiple (dieCycle s (h / 24)) } })
      | _, _ => e }
  xs.foldl placementRecords s

/-- The places of a Den's setts by a search of its parent's idle setts, holt by holt. -/
def fitPlaces (s : State) (p n : Nat) : Option (List Nat) :=
  let idle (h : Nat) : List (Nat × Nat) := (s.ctx p).setts.filter fun e => match (s.sett e.2).place with
    | some q => q / 6 == h && (idleAt s p q).isSome
    | none => false
  (takeHolts n ((List.range 96).map idle) n).map fun es => es.map fun e => (s.sett e.2).place.getD 0

/-- The places that the placement at a slot's PLACE names for a Den: free, where they hold it, since the manual does not give the placement's
layout; else the first that hold it (log 87). -/
def placementOf (s : State) (addr : Nat) (d : Den) : List Nat :=
  let vs := denSetts s d
  let p := (s.ctx d.root).parent
  let named := (List.range vs.length).map (Config.placement addr s.freeCount)
  if placesBad s p vs named then (fitPlaces s p vs.length).getD named else named

/-- The end of a Den's restore: whole, or RESTORE_SHAPE with its reason and nothing changed (R362). -/
def tryRestore (s : State) (n : Nat) (d : Den) (places : List Nat) : State :=
  match restoreReason s d places with
  | some r => { s with reports := s.reports ++ [leBytes 0x55 1 ++ leBytes r 1] }
  | none => restoreDen s n d places

/-- IN is restored and resumes on the placement that its slot names (R358, R359). -/
def resumeIn (s : State) (w : Switch) : State :=
  match s.dens.zipIdx.find? fun e => e.1.bySwitch && e.1.root == w.inn with
  | some (d, n) => tryRestore s n { d with fold := w.fold } (placementOf s w.place d)
  | none => s

/-- A thread stops where it stands: its posted stores are ordered first (rule 7 of R78), and its miss is withdrawn. -/
def stopHere (s : State) (t : Tid) : State :=
  let s := forgetMiss (drainPosted s t) t
  s.setThread t (stopThread (s.thread t))

/-- At the stop instant a thread stops, but inside a hint chain at its end (R44), and on a die that relocks when its clock restarts
(R383). -/
def stopAtInstant (s : State) (t : Tid) : State :=
  let th := s.thread t
  if th.chain.isSome || !dieRuns s (dieOf s t.core) then s.setThread t { th with stopped := th.run != .dormant } else stopHere s t

/-- SWITCH_SLOT_ARM (R354): The root writes a switch slot arming a gang switch -/
def execSwitchSlotArm (image : List (BitVec 8)) (st : State) : Out :=
  let w := slotOf image
  if image.length = 64 ∧ isPartition st w.out then .next (lapse { st with switches := st.switches ++ [w] }) else .next st

/-- SWITCH_TICK (R355): GTS reaches T and the outgoing partition enters its grace window. One that is switched out already has nothing
to save: its Den stands, and IN resumes. -/
def execSwitchTick (out : Nat) (st : State) : Out :=
  match armedSwitch st out, activeSwitch st out with
  | some w, none =>
    let z := advanceGts st w.tick
    if switchedOut st out then .next (lapse (resumeIn (dropSwitch z w) w))
    else
      let z := mapThreads z (partThreads z out) fun th => { th with yielded := none }
      .next (lapse (putSwitch z w { w with
        tick := gts z
        phase := 1 }))
  | _, _ => .next st

/-- STOP_INSTANT (R355): At S every remaining thread and engine of the partition stops and the Den save begins -/
def execStopInstant (out : Nat) (st : State) : Out :=
  match activeSwitch st out with
  | none => .next st
  | some w =>
    if w.phase ≠ 1 then .next st
    else
      let ts := partThreads st out
      let z := if ts.any (stillRuns st) then advanceGts st (w.tick + w.grace) else st
      let compact := (partCores z out).filter fun k => (z.core k).launch.isSome && compactCore (z.core k)
      let z := ts.foldl stopAtInstant z
      let z := ((partCores z out).filter fun k => dieRuns z (dieOf z k)).foldl (fun z k => z.setCore k (withdrawMisses (z.core k))) z
      let z := undoWhenStill z out
      .next (lapse (putSwitch z w { w with
        phase := 2
        stop := gts z
        compact := compact }))

/-- PARK_BUFFER_FLUSH (R356): At S + 2,000 messages still in routers go to park buffers -/
def execParkBufferFlush (out : Nat) (st : State) : Out :=
  match activeSwitch st out with
  | none => .next st
  | some w =>
    if w.phase ≠ 2 ∨ w.flushed then .next st
    else
      let z := advanceGts st (w.stop + 2000)
      let r := flushFlights z out
      .next (lapse (putSwitch r.1 w { w with
        flushed := true
        parked := r.2 }))

/-- DEN_SAVE_REPORT (R358): A die reports its part of the Den written; the last report commits the switch -/
def execDenSaveReport (out die : Nat) (st : State) : Out :=
  match activeSwitch st out with
  | none => .next st
  | some w =>
    if w.phase ≠ 2 ∨ !quiet st out ∨ !(partDies st out).contains die ∨ !dieRuns st die ∨ w.stop + w.deadline < gts st ∨ st.flights.any (parkable st out) then .next st
    else
      let w' := { w with reported := addNew w.reported [die] }
      -- the threads that stood on a stopped clock have stopped when it restarted
      let z := ((partThreads st out).filter fun t => dieOf st t.core == die).foldl stopHere st
      let z := ((partCores z out).filter fun k => dieOf z k == die).foldl (fun z k => z.setCore k (withdrawMisses (z.core k))) z
      let z := putSwitch (undoWhenStill z out) w w'
      .next (lapse (if (partDies z out).all w'.reported.contains then resumeIn (commitSwitch z w') w' else z))

/-- SWITCH_ABORT (R358): At S + D without every report the switch aborts and the partition resumes -/
def execSwitchAbort (out : Nat) (st : State) : Out :=
  match activeSwitch st out with
  | none => .next st
  | some w =>
    if w.phase ≠ 2 then .next st
    else
      let z := advanceGts st (w.stop + w.deadline)
      let z := mapThreads (undoWhenStill z out) (partThreads z out) releaseThread
      let c := z.ctx out
      let z := z.setCtx out { c with
        overruns := c.overruns + 1
        aborts := c.aborts + 1 }
      .next (lapse (retimeSlots (dropSwitch { z with flights := w.parked ++ z.flights } w) out))

/-- DEN_RESTORE (R362): The dispatcher restores a Den on request, whole or not at all -/
def execDenRestore (n : Nat) (places : List Nat) (st : State) : Out :=
  match st.dens[n]? with
  | none => .next st
  | some d => .next (lapse (tryRestore st n d places))

end Sys2Proof.Machine
end

