-- ==== Sys2Proof/Machine/Package.lean ====
section
/-! DEFINITION. Collectives, frame egress, the host and fabric, attestation, clocks, start and power (23_package_links.md R364 to
R382, 26_start_power.md R401 to R406). -/

namespace Sys2Proof.Machine

open Sys2Proof

/-! ## Collective blocks (Tables 23.8 and 23.9) -/

/-- The reason for which a collective block is malformed, 0 for none; n: the ranks of its group. -/
def collMalformed (s : State) (t : Tid) (v : View) (form : Nat) (b : List Byte) : Nat :=
  let x := ctxOf s t
  let g := groupOf s (partOf s 9 x) (blkNat b 0 2)
  let src := wordOf ((b.drop 16).take 8)
  let dst := wordOf ((b.drop 24).take 8)
  let badSide (a : Word) : Bool := a.toNat % 64 != 0 || segKind v a < 4 || 6 < segKind v a
  let mine := match g with
    | some g => g.ranks[blkNat b 2 2]? == some (ownPackage, dieOf s t.core, x)
    | none => false
  if g.isNone then 1
  else if !mine then 2
  else if 2 < blkNat b 4 1 ∨ 2 < blkNat b 5 1 ∨ (form = 1 ∧ blkNat b 5 1 ≠ 0) then 3
  else if blkNat b 8 4 = 0 ∨ 2 ^ 26 < blkNat b 8 4 then 4
  else if badSide src ∨ badSide dst ∨ 4 ≤ blkNat b 6 1 ∨ blkNat b 48 16 ≠ 0 then 5
  else if blkNat b 32 8 % 16 ≠ 0 then 6
  else 0

/-- `COLL` (R376). -/
def collIssue (w : BitVec 32) (form : Nat) (s : BitVec 3) (d a : BitVec 5) (st : State) : Out :=
  issue { word := w, stall := s.toNat, reads := [(.g, a.toNat)], cls := .irrev, home := true } st fun z t => do
    let k ← ownBlock z t ((z.thread t).readG a.toNat) 64 64 rRD
    let z := settlePosted z t k.2
    let b := readPlaces z k.2
    let v := viewOf z t
    let bad := collMalformed z t v form b
    if bad ≠ 0 then throw (.trap cCOLL_MALFORMED (BitVec.ofNat 64 bad))
    let part := partOf z 9 (ctxOf z t)
    let n := match groupOf z part (blkNat b 0 2) with
      | some g => g.ranks.length
      | none => 0
    let src := wordOf ((b.drop 16).take 8)
    let dst := wordOf ((b.drop 24).take 8)
    let signal := wordOf ((b.drop 32).take 8)
    let ty := blkNat b 4 1
    let count := blkNat b 8 4
    let hv := (blkNat b 6 1).testBit 0
    let sv := (blkNat b 6 1).testBit 1
    let h := blkNat b 7 1
    extentCheck z v src (0, srcBytes form ty count n) rRD
    extentCheck z v dst (0, dstBytes form ty count n) rWR
    if sv then let _ ← objectCheck z v signal 16 rAMO
    let i := settOf t.core
    let old := (z.sett i).handle (h + resHandles t)
    if hv && hState old != hFree then throw (.trap cHANDLE_STATE (handleEval (h + vsettOf z t % 1024 * 65536) (hState old)))
    let z := if hv then setHandleOf z i (h + resHandles t) (BitVec.ofNat 64 (field old 63 32 * 2 ^ 32 + hFilling)) else z
    let deadline := if blkNat b 12 4 = 0 then none else some (gts z + 1024 * blkNat b 12 4)
    let paused := if collHeld z part (blkNat b 0 2) then some (gts z) else none
    let c : Contrib := ⟨part, blkNat b 0 2, BitVec.ofNat 64 (blkNat b 40 8), blkNat b 2 2, form, ty, blkNat b 5 1, count, hv, sv, h,
      deadline, src, dst, signal, t, v.segBase, v.segLimit, paused, dieOf z t.core⟩
    let z := { z with contribs := z.contribs ++ [c] }
    return (z.setThread t ((z.thread t).putG d.toNat 0), .seq)

/-! ## Running a collective (R376, R377) -/

/-- The reason of R377 for an access that fails. -/
def collReason : EngFail → Nat
  | .reason 1 => 3
  | _ => 5

/-- An access for a contribution; a failure names it. -/
def Contrib.reach (s : State) (c : Contrib) (addr : Word) (size need : Nat) (atom : Option (Nat × Bool)) : Except (Contrib × EngFail) (List Nat) :=
  (engPlaces s (c.view s) addr size need atom).mapError fun e => (c, e)

/-- Every SRC byte, and the places of every DST, in ascending rank; SIGNAL objects are reached too. -/
def collReach (s : State) (n : Nat) (cs : List Contrib) : Except (Contrib × EngFail) (List (List Byte) × List (List Nat)) := do
  let srcs ← cs.mapM fun c => c.reach s c.src (srcBytes c.form c.ty c.count n) rRD none
  let dsts ← cs.mapM fun c => c.reach s c.dst (dstBytes c.form c.ty c.count n) rWR none
  for c in cs do
    if c.sv then
      let ks ← c.reach s c.signal 16 rAMO none
      let _ ← c.reach s c.signal 16 rAMO (some (attrScope (leNat (readPlaces s (ks.drop 8))), false))
  return (srcs.map (readPlaces s), dsts)

/-- The miss of a contribution. -/
def Contrib.miss (c : Contrib) : MissFor := .collective c.part c.group c.seq c.rank

/-- Completion at one rank: DST, the handle, SIGNAL, in this order. -/
def completeRank (s : State) (srcs : List (List Byte)) (e : Contrib × List Nat) : State :=
  let c := e.1
  let i := settOf c.issuer.core
  let s := { s with contribs := s.contribs.erase c }
  let s := useAt (useAt s (c.view s) c.src (srcBytes c.form c.ty c.count srcs.length)) (c.view s) c.dst e.2.length
  let s := writePlaces s e.2 (collResult c.form c.ty c.op c.count c.rank srcs)
  let h := c.handle + resHandles c.issuer
  let s := if c.hv then setHandleOf s i h (withState ((s.sett i).handle h) hFull) else s
  if c.sv then engineSignal s (c.view s) c.signal false 1 none else s

/-- The contexts with a contribution waiting on a die. -/
def collWaiters (s : State) (d : Nat) : List Nat := (s.contribs.filter fun c => c.die == d).map fun c => ctxOf s c.issuer

/-- The tokens of class 4 for the flits that leave a die; none while they do not suffice. -/
def collTokens (s : State) (g : Group) (cs : List Contrib) : Option State :=
  let far := g.ranks.any fun r => (g.ranks.head?.map fun q => (q.1, q.2.1)) != some (r.1, r.2.1)
  if !far then some s
  else cs.foldl (fun (o : Option State) c => match o with
    | none => none
    | some z =>
      spend z (ctxOf z c.issuer) c.die 4 (Config.collectiveFlits z.freeCount c.rank) (collWaiters z c.die)) (some s)

/-- Contributions that do not agree in form, TYPE, OP and COUNT. -/
def disagree : List Contrib → Bool
  | [] => false
  | c :: cs => cs.any fun y => y.form != c.form || y.ty != c.ty || y.op != c.op || y.count != c.count

/-- The dies of contributions run. -/
def collClocks (s : State) (cs : List Contrib) : Bool := cs.all fun c => (s.die c.die).runs s.now

/-- A rank of a group that another package or a dead context has, which can contribute no more: a port or peer has failed, or the
context is revoked (R375, R377). -/
def rankGone (s : State) (r : Nat × Nat × Nat) : Bool :=
  if r.1 = ownPackage then (s.contexts.find? r.2.2).isNone else !s.portsUp.getLsbD (Config.fabricRoute r.1 % 12)

/-- The collective engine looks at one collective. -/
def runCollective (s : State) (g : Group) (seq : BitVec 64) : State :=
  let cs := gathered s g seq
  let n := g.ranks.length
  match s.collFails.find? (fun f => f.part == g.part && f.group == g.group && f.seq == seq && cs.any fun c => f.left.contains c.rank) with
  | some f =>
    let hit := cs.filter fun c => f.left.contains c.rank
    let left := f.left.filter fun r => !hit.any fun c => c.rank == r
    let rest := s.collFails.erase f
    let s := { s with collFails := if left.isEmpty then rest else rest ++ [{ f with left := left }] }
    hit.foldl (fun s c => failRank s c f.reason) s
  | none =>
    if disagree cs then failColl s g seq 2 fun _ => 2
    else if g.ranks.any (rankGone s) then failColl s g seq 3 fun _ => 3
    else if cs.length < n ∨ n = 0 ∨ !collClocks s cs then s
    else if cs.any fun c => asked s c.issuer.core c.miss then s
    else match collReach s n cs with
      | .error (c, .miss a cva k z) => ask s c.issuer.core (ctxOf s c.issuer) a cva k z c.miss
      | .error (_, e) => failColl s g seq (collReason e) fun _ => collReason e
      | .ok (srcs, dsts) => match collTokens s g cs with
        | none => s
        | some s => (cs.zip dsts).foldl (fun s e => completeRank s srcs e) s

/-! ## Egress (R378 to R380) -/

/-- The planes' bytes, read through kind 2 from shelves of format frame; none if a byte is not. -/
def planePlaces (s : State) (v : View) (addr : Word) (size : Nat) : Option (List Nat) :=
  if segKind v addr ≠ 2 then none
  else match segCheck s v addr size rRD with
    | .ok (.places _ ks) => if (shelfWords s v addr (0, size)).all (fun f => f % 16 == 8) then some ks else none
    | _ => none

/-- The places of DST in host memory with write right; `ok none` where Table 23.11's reason 5 holds. -/
def hostPlaces (s : State) (v : View) (addr : Word) (size : Nat) : Except Stop (Option (List Nat)) :=
  if segKind v addr ≠ 6 ∨ addr.toNat % 64 ≠ 0 then .ok none
  else match (segCheck s v addr size rWR).bind (reachPlaces s v addr size rWR) with
    | .ok ks => .ok (if ks.all (fun k => outKey Config.hostBase ≤ k && k < outKey Config.fabricBase) then some ks else none)
    | .error (.miss a c k n) => .error (.miss a c k n)
    | .error _ => .ok none

/-- Fields of an egress block (Table 23.10). -/
def egClip (b : List Byte) : Nat := blkNat b 0 4
def egFrame (b : List Byte) : Nat := blkNat b 4 4
def egFW (b : List Byte) : Nat := blkNat b 8 2
def egFH (b : List Byte) : Nat := blkNat b 10 2
def egX0 (b : List Byte) : Nat := blkNat b 12 2
def egY0 (b : List Byte) : Nat := blkNat b 14 2
def egTW (b : List Byte) : Nat := blkNat b 16 2
def egTH (b : List Byte) : Nat := blkNat b 18 2
def egAddr (b : List Byte) (off : Nat) : Word := wordOf ((b.drop off).take 8)

/-- Geometry within Table 23.10. -/
def egGeometry (b : List Byte) : Bool :=
  [egFW b, egFH b].all (fun n => n % 16 == 0 && 16 ≤ n && n ≤ 8192) && [egX0 b, egY0 b, egTW b, egTH b].all (· % 16 == 0)
    && 0 < egTW b && 0 < egTH b && egX0 b + egTW b ≤ egFW b && egY0 b + egTH b ≤ egFH b && blkNat b 20 4 == 0

/-- EGRESS_STATE with a reason. -/
def egressState {α : Type} (n : Nat) : Except Stop α := .error (.trap cEGRESS_STATE (BitVec.ofNat 64 n))

/-- A signal object named by an egress block, 0 for none. -/
def egSignalCheck (s : State) (v : View) (addr : Word) : Except Stop Unit :=
  if addr = 0 then .ok () else (objectCheck s v addr 16 rAMO).map fun _ => ()

/-- The places of the three planes of a tile. -/
def egPlanes (s : State) (v : View) (b : List Byte) : Option (List Nat × List Nat × List Nat) :=
  let n := egTW b * egTH b
  match planePlaces s v (egAddr b 24) n, planePlaces s v (egAddr b 32) (n / 4), planePlaces s v (egAddr b 40) (n / 4) with
  | some y, some cb, some cr => some (y, cb, cr)
  | _, _, _ => none

/-- Whether an `EGFIN` of a clip of a partition waits at the marker. -/
def closing (s : State) (part clip : Nat) : Bool :=
  s.flights.any fun f => match f with
    | .egfin _ x n _ _ _ _ _ => n == clip && partOf s 9 x == part
    | _ => false

/-- Whether a tile of a clip of a partition waits at the marker. -/
def tileWaits (s : State) (part clip : Nat) : Bool :=
  s.flights.any fun f => match f with
    | .egress _ x b _ _ _ _ _ _ _ | .planes _ x b _ _ _ _ _ _ _ => egClip b == clip && partOf s 9 x == part
    | _ => false

/-- The sign of a block of the frame: bit 0 of AES-128 of the counter (R378). -/
def markSign (key : List Byte) (clip frame bi : Nat) : Bool :=
  ((aes128 key (leBytes clip 4 ++ leBytes frame 4 ++ leBytes bi 8)).headD 0).getLsbD 0

/-- The marked luma rows of a tile. -/
def markLuma (key : List Byte) (m : Nat) (b luma : List Byte) : List Byte :=
  let w := egTW b
  let across := w / 8
  let signs := (List.range (across * (egTH b / 8))).map fun i =>
    markSign key (egClip b) (egFrame b) ((egY0 b / 8 + i / across) * (egFW b / 8) + egX0 b / 8 + i % across)
  (List.range (w * egTH b)).map fun i =>
    let p := (luma.getD i 0).toNat
    let neg := signs.getD (i / w / 8 * across + i % w / 8) false
    BitVec.ofNat 8 (if neg then p - m else min 255 (p + m))

/-- The provenance key of a partition (R378). -/
def provenanceKey (part : Nat) (c : Context) : List Byte := leBytes (Config.key 4 part c.keyGen).toNat 16

/-- The marker reads the planes of an `EGRS` and accepts its tile; the thread goes on (R378). -/
def planeRead (n : Nat) (s : State) : State :=
  match s.flights[n]? with
  | some (.planes t x b luma cb cr dst signal sb sl) =>
    if !settClock s (settOf t.core) then s
    else
      let f : Flight := .egress t x b (readPlaces s luma) (readPlaces s cb) (readPlaces s cr) dst signal sb sl
      reply { s with flights := s.flights.eraseIdx n ++ [f] } t 0
  | _ => s

/-- A host write whose access completes with an error status fails (R345, R378). -/
def hostFails (s : State) (ks : List Nat) : Bool := ks.any s.pathErrors.contains

/-- The marker takes one tile (R378). -/
def markTile (s₀ : State) (f : Flight) : State :=
  match f with
  | .egress src x b luma cb cr dst signal sb sl =>
    let s := { s₀ with flights := s₀.flights.erase f }
    let part := partOf s 9 x
    let c := s.ctx part
    let v : View := ⟨x, src.core, sb, sl⟩
    match clipOf c (egClip b) with
    | none => signalError s v signal
    | some y =>
      if y.failed then signalError s v signal
      else
        let out := markLuma (provenanceKey part c) c.egStrength b luma ++ cb ++ cr
        match hostPlaces s v (BitVec.ofNat 64 dst) out.length with
        | .error (.miss a cva k n) => ask s₀ src.core x a cva k n (.marker src dst)
        | .ok (some ks) =>
          if hostFails s ks then failClip s part y v signal else
          let s := writePlaces (useAt s v (BitVec.ofNat 64 dst) out.length) ks out
          let head := leBytes (egFrame b) 4 ++ ((b.drop 12).take 8) ++ leBytes 0 4
          let s := s.setCtx part (setClip (s.ctx part) { y with
            tiles := y.tiles + 1
            bytes := y.bytes ++ head ++ out })
          if signal = 0 then s else engineSignal s v signal false 1 none
        | _ => failClip s part y v signal
  | _ => s₀

/-- R381: a firmware image loads if both of its signatures verify, each against a key whose digest is fused, and its version is not below
the rollback counter. -/
def imageLoads (i : Nat) : Bool :=
  [0, 1].all (fun k => sha3 (Config.imageKey k i) == sha3 (Config.fusedKey k)
    && !Config.signatureRejected k (Config.imageKey k i) (Config.firmwareImage i) (Config.imageSignature k i))
  && decide (Config.rollbackCounter ≤ Config.imageVersion i)

/-- The bytes of a signature, the lowest first. -/
def signatures (m : List Byte) : List Byte := leBytes (Config.ed25519 m).toNat 64 ++ (List.range 3309).map (Config.mldsa65 m)

/-- Bytes 0 to 127 of a clip record (Table 23.12). -/
def clipHead (part m g : Nat) (y : Clip) : List Byte :=
  leBytes 1 4 ++ leBytes y.clip 4 ++ leBytes y.fw 2 ++ leBytes y.fh 2 ++ leBytes (y.last + 1) 4 ++ leBytes y.tiles 4
    ++ leBytes m 2 ++ leBytes part 2 ++ leBytes y.first 8 ++ leBytes g 8 ++ sha3 y.bytes ++ sha3 Config.identityCertificate ++ leBytes 0 24

/-- An `EGFIN` at the marker (R379). -/
def finishClip (s₀ : State) (f : Flight) : State :=
  match f with
  | .egfin src x n dst signal sb sl g =>
    let s := { s₀ with flights := s₀.flights.erase f }
    let part := partOf s 9 x
    let c := s.ctx part
    let v : View := ⟨x, src.core, sb, sl⟩
    match clipOf c n with
    | none => signalError s v signal
    | some y =>
      if y.failed then signalError s v signal
      else
        let head := clipHead part c.egStrength g y
        let rec_ := head ++ signatures head ++ leBytes 0 19
        match hostPlaces s v (BitVec.ofNat 64 dst) 3520 with
        | .error (.miss a cva k z) => ask s₀ src.core x a cva k z (.marker src dst)
        | .ok (some ks) =>
          if hostFails s ks then failClip s part y v signal else
          let s := writePlaces (useAt s v (BitVec.ofNat 64 dst) 3520) ks rec_
          let s := s.setCtx part { s.ctx part with clips := (s.ctx part).clips.filter fun z => z.clip != n }
          if signal = 0 then s else engineSignal s v signal false 1 none
        | _ => failClip s part y v signal
  | _ => s₀

/-- The marker waits for a walker's answer about a DST. -/
def marks (s : State) (f : Flight) : Bool :=
  match f with
  | .egress t _ _ _ _ _ d _ _ _ | .egfin t _ _ d _ _ _ _ => s.linkUp && !asked s t.core (.marker t d)
  | _ => false

/-! ## The host and the root (R371 to R375, R381, R382) -/

/-- R382: the attestation report. -/
def attestation (s : State) (nonce : List Byte) : List Byte :=
  let tree := (s.contexts.filter fun e => e.2.st == .live).map fun e =>
    [e.1, e.2.parent, e.2.depth, e.2.reflect.toNat, e.2.codeBase, e.2.codeLen, if e.2.ownKey then 1 else 0]
  let body := nonce ++ leBytes (gts s) 8 ++ ((List.range Config.firmwareImages).filter imageLoads).flatMap (fun i => sha3 (Config.firmwareImage i))
    ++ sha3 (Config.treeBytes tree)
  body ++ signatures body

/-! ## Clocks and power (R364 to R366, R405) -/

/-- The die steps to the slower of the request and the cap, if it does not run there (R366, R405). -/
def applyPoint (s : State) (d : Nat) : State := stepTo s d (s.die d).effective

/-- Ticks of a millisecond. -/
def milli : Nat := 1000000

/-- The part's power: that of its dies (R405). -/
def partPower (s : State) : Nat := (enabledDies s).foldl (fun n d => n + (s.die d).power) 0

/-- A die has the highest power, the first of those that are equal. -/
def highestPower (s : State) (d : Nat) : Bool :=
  (enabledDies s).all fun e => if e < d then decide ((s.die e).power < (s.die d).power) else decide ((s.die e).power ≤ (s.die d).power)

/-- R405: one evaluation of a die's governor: temperatures in degrees, and the die's power in watts, averaged over 10 ms. -/
def govern (s : State) (d dramTemp junction power : Nat) : State :=
  let s := s.setDie d { s.die d with power := power }
  let x := s.die d
  let g := gts s
  let paced : Bool := match x.capAt with
    | some c => c + milli ≤ g
    | none => true
  if 95 < dramTemp ∨ 105 < junction ∨ (s.plim < partPower s ∧ highestPower s d) then
    let x := { x with coolSince := none }
    if x.cap < 3 ∧ paced then applyPoint (s.setDie d { x with
      cap := x.cap + 1
      capAt := some g }) d
    else s.setDie d x
  else if dramTemp < 90 ∧ junction < 100 ∧ partPower s < s.plim then
    let since := x.coolSince.getD g
    if 0 < x.cap ∧ since + 10 * milli ≤ g ∧ paced then applyPoint (s.setDie d { x with
      cap := x.cap - 1
      capAt := some g
      coolSince := some g }) d
    else s.setDie d { x with coolSince := some since }
  else s.setDie d { x with coolSince := none }

/-- The highest PLIM of the part (R405). -/
def plimMax (form : Nat) : Nat := if form = 3 then 2100 else 2800

/-! ## Starts (R401, R402) -/

/-- A die as a start leaves it. Which stack an OZN-3 lacks varies from part to part (R3): it is a constant of the part (DESIGN CHOICE,
log 35). -/
def startDie (s : State) (n d lost : Nat) : Die :=
  { Die.reset with
    enabled := (s.form != 3 || d != Config.missingStack) && !Config.stackFails n d
    chan := 64 - Config.fusedChannels d - lost }

/-- A die's Archive without the banks that are disabled (R401). -/
def dieArchive (lost : List Nat) (d : Nat) : List Extent :=
  if lost.any fun b => b / 512 == d then
    ((List.range 512).filter fun b => !lost.contains (d * 512 + b)).map fun b => ⟨d * 2 ^ 31 + b * 2 ^ 22, 2 ^ 22, none⟩
  else [⟨d * 2 ^ 31, 2 ^ 31, none⟩]

/-- The Archive after a start: every line written before it reads as the decryption of old ciphertext under a new key (R226). -/
def decryptedArchive (m : Memory) (n : Nat) : Memory :=
  (addNew [] (m.map fun c => c.1 / 64)).foldl (fun z l => z.putBytes (64 * l) ((span (64 * l) 64).map (Config.oldArchive n))) []

/-- The root's setts, numbered densely over the places that survive, and its Archive, that of the dies that survive (R11, R17, R404). -/
def startSetts (s : State) : State :=
  let ps := enabledSetts s
  let pairs := (List.range ps.length).zip ps
  let setts := (pairs.filter fun e => e.1 != e.2).map fun e => (e.2, ({ Sett.reset e.2 with vsett := e.1 } : Sett))
  { s with
    setts := setts
    contexts := [(0, { Context.root with
      setts := pairs
      archive := (enabledDies s).flatMap (dieArchive s.lostBanks) })] }

/-- R402: a start that fails: every core in reset, the step and the reason in the mailbox if the link trained. -/
def startFailed (s : State) (cold linked : Bool) (step reason : Nat) : State :=
  { packageReset s (!cold) with
    power := .failed step reason
    linkUp := linked
    mailbox := if linked then [BitVec.ofNat 64 step, BitVec.ofNat 64 reason] else []
    freeCount := s.freeCount + 1 }

/-- R401: a start. -/
def start (s : State) (cold : Bool) : State :=
  let n := s.freeCount
  -- a warm start restores the saved calibration
  let lost := match cold, s.calibration with
    | false, some l => l
    | _, _ => (List.range 4).map (Config.channelsLost n)
  let tested := cold || (!s.coldNext && Config.archiveFlagged n)
  let dies := Vector.ofFn fun (d : Fin 4) => startDie s n d (lost.getD d 0)
  let live := (List.range 4).filter fun d => (dies.toList.getD d Die.reset).enabled
  let ports := BitVec.ofNat 12 (((List.range 12).filter fun p => live.contains (p / 3) && !Config.portFails n p).foldl (fun m p => m + 2 ^ p) 0)
  let spoilt := !cold && (Config.calibrationFails n || s.calibration.isNone)
  let linked := !Config.linkFails n
  if live.isEmpty then startFailed s cold linked 4 1
  else if !linked then startFailed s cold linked 4 2
  else if !imageLoads 0 then startFailed s cold linked 6 3
  else
    startSetts { State.reset with
      dies := dies
      lostSetts := (List.range 576).filter Config.fusedSett
      lostBanks := if tested then (List.range 2048).filter (Config.bankFails n) else s.lostBanks
      archive := decryptedArchive s.archive n
      hostWrites := s.hostWrites
      hostVisible := s.hostVisible
      portsUp := ports
      portsTrained := ports
      dram := s.dram
      outside := s.outside
      form := s.form
      plim := plimMax s.form
      startKind := if cold then 0 else 1
      archTest := tested
      calibration := if cold then some lost else s.calibration
      coldNext := if cold then false else spoilt
      reports := s.reports
      msix := s.msix
      agenda := s.agenda
      freeCount := n + 1
      parkCount := s.parkCount
      turns := s.turns }

/-- COLL_AR (R376): Contributes to an all-reduce collective -/
def execCollAr (s : BitVec 3) (d a b : BitVec 5) (st : State) : Out :=
  collIssue (100#7 ++ s ++ d ++ a ++ b ++ 0#7) 0 s d a st

/-- COLL_AG (R376): Contributes to an all-gather collective -/
def execCollAg (s : BitVec 3) (d a b : BitVec 5) (st : State) : Out :=
  collIssue (100#7 ++ s ++ d ++ a ++ b ++ 1#7) 1 s d a st

/-- COLL_RS (R376): Contributes to a reduce-scatter collective -/
def execCollRs (s : BitVec 3) (d a b : BitVec 5) (st : State) : Out :=
  collIssue (100#7 ++ s ++ d ++ a ++ b ++ 2#7) 2 s d a st

/-- EGRS (R378): Opens a clip if needed and hands a frame tile to the egress marker -/
def execEgrs (s : BitVec 3) (d a b : BitVec 5) (st : State) : Out :=
  issue { word := (101#7 ++ s ++ d ++ a ++ b ++ 0#7), stall := s.toNat, reads := [(.g, a.toNat)], cls := .irrev, home := true } st fun z t => do
    let k ← ownBlock z t ((z.thread t).readG a.toNat) 64 64 rRD
    let z := settlePosted z t k.2
    let blk := readPlaces z k.2
    let v := viewOf z t
    let x := ctxOf z t
    let part := partOf z 9 x
    let c := z.ctx part
    let y := clipOf c (egClip blk)
    let planes := egPlanes z v blk
    if y.isNone && 16 ≤ c.clips.length then egressState 1
    if y.any fun y => egFrame blk < y.last || y.fw != egFW blk || y.fh != egFH blk then egressState 2
    if planes.isNone then egressState 3
    if !egGeometry blk then egressState 4
    let dst := hostPlaces z v (egAddr blk 48) (egTW blk * egTH blk * 3 / 2)
    if (match dst with | .ok none => true | _ => false) then egressState 5
    if !c.egEnable then egressState 6
    if y.any fun y => y.failed then egressState 7
    let _ ← dst
    egSignalCheck z v (egAddr blk 56)
    match planes with
    | none => egressState 3
    | some (luma, cb, cr) =>
      -- the reads of the planes follow the thread's earlier posted stores; it is parked until they end
      let z := settlePosted z t (luma ++ cb ++ cr)
      let c := z.ctx part
      let c := match y with
        | some y => setClip c { y with last := egFrame blk }
        | none => { c with clips := c.clips ++ [(⟨egClip blk, egFW blk, egFH blk, egFrame blk, 0, gts z, [], false⟩ : Clip)] }
      let f : Flight := .planes t x blk luma cb cr (egAddr blk 48).toNat (egAddr blk 56) v.segBase v.segLimit
      return ({ z.setCtx part c with flights := z.flights ++ [f] }, .sent false d.toNat)

/-- EGFIN (R379): Closes a clip and requests its signed record -/
def execEgfin (s : BitVec 3) (d a b : BitVec 5) (st : State) : Out :=
  issue { word := (101#7 ++ s ++ d ++ a ++ b ++ 1#7), stall := s.toNat, reads := [(.g, a.toNat)], cls := .irrev, home := true } st fun z t => do
    let k ← ownBlock z t ((z.thread t).readG a.toNat) 64 64 rRD
    let z := settlePosted z t k.2
    let blk := readPlaces z k.2
    let v := viewOf z t
    let x := ctxOf z t
    let part := partOf z 9 x
    let c := z.ctx part
    let y := clipOf c (egClip blk)
    if y.isNone || closing z part (egClip blk) then egressState 1
    let dst := hostPlaces z v (egAddr blk 48) 3520
    if (match dst with | .ok none => true | _ => false) then egressState 5
    if !c.egEnable then egressState 6
    if y.any fun y => y.failed then egressState 7
    let _ ← dst
    egSignalCheck z v (egAddr blk 56)
    let f : Flight := .egfin t x (egClip blk) (egAddr blk 48).toNat (egAddr blk 56) v.segBase v.segLimit (gts z)
    let z := { z with flights := z.flights ++ [f] }
    return (z.setThread t ((z.thread t).putG d.toNat 0), .seq)

/-- COLLECTIVE_COMPLETION (R376): All contributions arrive; each rank's DST is written, handle full, signal decremented -/
def execCollectiveCompletion (part group : Nat) (seq : BitVec 64) (st : State) : Out :=
  match groupOf st part group with
  | some g => .next (lapse (runCollective st g seq))
  | none => .next st

/-- COLLECTIVE_TIMEOUT (R377): A rank's TIMEOUT passes before all contributions arrive and the collective fails -/
def execCollectiveTimeout (part group rank : Nat) (seq : BitVec 64) (st : State) : Out :=
  match groupOf st part group with
  | some g =>
    let cs := gathered st g seq
    if cs.length < g.ranks.length && cs.any fun c => c.rank == rank && c.pausedAt.isNone && (match c.deadline with
      | some e => decide (e ≤ gts st)
      | none => false)
    then .next (lapse (failColl st g seq 1 fun _ => 1)) else .next st
  | none => .next st

/-- COLLECTIVE_GROUP_DEFINE (R376): The root defines a collective group of a partition, with its ranks -/
def execCollectiveGroupDefine (ctx group : Nat) (ranks : List (Nat × Nat × Nat)) (st : State) : Out :=
  if isPartition st ctx && decide (group < 65536) && decide (2 ≤ ranks.length) && decide (ranks.length ≤ 1024) then
    .next (lapse { st with groups := (st.groups.filter fun g => !(g.part == ctx && g.group == group)) ++ [⟨ctx, group, ranks⟩] })
  else .next st

/-- EGRESS_TILE_MARK (R378): The egress marker marks a tile, folds it into the clip digest and writes it to the host -/
def execEgressTileMark (st : State) : Out :=
  match st.flights.find? (fun f => match f with | .egress _ _ _ _ _ _ _ _ _ _ => true | _ => false) with
  | some f => if marks st f then .next (lapse (markTile st f)) else .next st
  | none => .next st

/-- CLIP_RECORD (R379): After all tiles are folded, the signed clip record is written -/
def execClipRecord (st : State) : Out :=
  match st.flights.find? (fun f => match f with
      | .egfin _ x n _ _ _ _ _ => !tileWaits st (partOf st 9 x) n
      | _ => false) with
  | some f => if marks st f then .next (lapse (finishClip st f)) else .next st
  | none => .next st

/-- EGRESS_SETTING_WRITE (R378): The root writes a partition's egress setting: ENABLE, mark strength and provenance key -/
def execEgressSettingWrite (ctx strength : Nat) (enable : Bool) (st : State) : Out :=
  if isPartition st ctx && decide (1 ≤ strength) && decide (strength ≤ 3) then
    .next (lapse (st.setCtx ctx { st.ctx ctx with
      egEnable := enable
      egStrength := strength
      keyGen := st.freeCount }))
  else .next st

/-- A write of the host to its memory. -/
def hostWrite (s : State) (w : Nat × List Byte) : State := writePlaces s (span (outKey w.1) w.2.length) w.2

/-- CACHE_LINE_INVALIDATION (R373): A host write arrives as a CXL.cache invalidation of a line the device holds; while the link
retrains it is delayed -/
def execCacheLineInvalidation (addr : Nat) (data : List (BitVec 8)) (st : State) : Out :=
  if decide (Config.hostBase ≤ addr) && decide (addr % 64 + data.length ≤ 64) && decide (addr < Config.fabricBase) then
    .next (lapse (if st.linkUp then hostWrite st (addr, data) else { st with hostWrites := st.hostWrites ++ [(addr, data)] }))
  else .next st

/-- LINK_RETRAIN (R373): The CXL link retrains; on return every held host line is treated as written -/
def execLinkRetrain (st : State) : Out :=
  if st.linkUp then .next (lapse { st with linkUp := false })
  else .next (lapse (st.hostWrites.foldl hostWrite { st with
    linkUp := true
    hostWrites := [] }))

/-- FABRIC_PORT_DOWN (R375): A fabric port exhausts its retries and goes down, and the driver is told -/
def execFabricPortDown (port : Nat) (st : State) : Out :=
  if 12 ≤ port then .next st
  else
    let z := { st with
      portsUp := st.portsUp &&& ~~~(BitVec.ofNat 12 (2 ^ port))
      reports := st.reports ++ [leBytes port 1] }
    .next (lapse (failWhere z (fun g => g.ranks.any fun r => r.1 != ownPackage && Config.fabricRoute r.1 % 12 == port) 3 fun _ => 3))

/-- HOST_MEMORY_ACCESS (R371): The host reaches host-visible device DRAM through CXL.mem -/
def execHostMemoryAccess (addr : Nat) (data : List (BitVec 8)) (st : State) : Out :=
  if st.linkUp && decide (addr + data.length ≤ 2 ^ 39) && (span addr data.length).all (fun a => decide (a % 2 ^ 37 < dieDram (st.die (a / 2 ^ 37)))
      && st.hostVisible.any fun e => decide (e.1 ≤ a) && decide (a < e.1 + e.2)) then
    .next (lapse (writePlaces st (span (dramKey addr) data.length) data))
  else .next st

/-- ATTESTATION_REQUEST (R382): An attestation request on the DOE mailbox returns a signed report -/
def execAttestationRequest (nonce : List (BitVec 8)) (st : State) : Out :=
  if nonce.length = 32 then .next (lapse { st with reports := st.reports ++ [attestation st nonce] }) else .next st

/-- MSIX_WINDOW_WRITE (R374): The root gives a partition its window, base and count, of the MSI-X table -/
def execMsixWindowWrite (ctx base count : Nat) (st : State) : Out :=
  if isPartition st ctx && decide (base + count ≤ 4096) then
    .next (lapse (st.setCtx ctx { st.ctx ctx with
      msixBase := base
      msixCount := count }))
  else .next st

/-- STEP_REQUEST (R366): A request to change a die's operating point stops its core clock and starts a relock -/
def execStepRequest (die point : Nat) (st : State) : Out :=
  if point < 4 ∧ (st.die die).enabled then .next (lapse (applyPoint (st.setDie die { st.die die with asked := point }) die)) else .next st

/-- RELOCK_END (R366): After 2,000 ticks the PLL relock ends and the clock restarts or steps again -/
def execRelockEnd (die : Nat) (st : State) : Out :=
  .next (lapse (endRelock st die))

/-- TIME_MASTER_ALIGNMENT (R364): A package's GTS is slewed, adding or omitting one tick in 1,024, to stay within 8 ticks of the fabric's time master -/
def execTimeMasterAlignment (add : Bool) (st : State) : Out :=
  if st.lastSlew.any fun g => gts st < g + 1024 then .next st
  else
    let z := if add then { st with slewPlus := st.slewPlus + 1 }
      else
        let z := advanceGts st (gts st + 1)
        { z with slewMinus := z.slewMinus + 1 }
    .next (lapse { z with lastSlew := some (gts z) })

/-- THERMAL_GOVERNOR (R405): The governor's 10 ms evaluation caps or raises a die's operating point -/
def execThermalGovernor (die dramTemp junctionTemp power : Nat) (st : State) : Out :=
  if (st.die die).enabled then .next (lapse (govern st die dramTemp junctionTemp power)) else .next st

/-- REFRESH_DOUBLING (R405): DRAM temperature crossing 85 or 83 degrees doubles or restores refresh -/
def execRefreshDoubling (die temp : Nat) (st : State) : Out :=
  let x := st.die die
  if !x.enabled then .next st
  else .next (lapse (st.setDie die { x with refx2 := if 85 < temp then true else if temp < 83 then false else x.refx2 }))

/-- THERMAL_TRIP (R405): A junction above 115 degrees resets the package at once -/
def execThermalTrip (die temp : Nat) (st : State) : Out :=
  if 115 < temp ∧ (st.die die).enabled then .next (lapse (packageReset st true)) else .next st

/-- PLIM_WRITE (R405): The host driver writes the power limit through the root mailbox -/
def execPlimWrite (watts : Nat) (st : State) : Out :=
  if st.form ≠ 0 ∧ 600 ≤ watts ∧ watts ≤ plimMax st.form then .next (lapse { st with plim := watts }) else .next st

/-- COLD_START (R401): A start performs every start step and enters the root firmware -/
def execColdStart (st : State) : Out :=
  match st.power with
  | .running => .next st
  | _ => .next (lapse (start st true))

/-- WARM_START (R401): A start restores saved calibration and skips the steps it may -/
def execWarmStart (st : State) : Out :=
  match st.power with
  | .running => .next st
  | _ => .next (lapse (start st st.coldNext))

/-- HOST_RESET (R406): A host reset puts the package in reset and abandons any start in progress -/
def execHostReset (st : State) : Out :=
  .next (lapse (packageReset st false))

end Sys2Proof.Machine
end

