-- ==== Sys2Proof/Machine/Dispatch.lean ====
section
/-! DEFINITION. What each instruction and step of the opcode table does: one call of its meaning for each constructor. -/

namespace Sys2Proof.Machine

open Sys2Proof

def exec (i : Instr) (s : State) : Host.Outcome State Fault Refusal :=
  match i with
  | .add st d a b => Sys2Proof.Machine.execAdd st d a b s
  | .sub st d a b => Sys2Proof.Machine.execSub st d a b s
  | .and st d a b => Sys2Proof.Machine.execAnd st d a b s
  | .or st d a b => Sys2Proof.Machine.execOr st d a b s
  | .xor st d a b => Sys2Proof.Machine.execXor st d a b s
  | .shl st d a b => Sys2Proof.Machine.execShl st d a b s
  | .shr st d a b => Sys2Proof.Machine.execShr st d a b s
  | .sar st d a b => Sys2Proof.Machine.execSar st d a b s
  | .min st d a b => Sys2Proof.Machine.execMin st d a b s
  | .minN st d a b => Sys2Proof.Machine.execMinN st d a b s
  | .max st d a b => Sys2Proof.Machine.execMax st d a b s
  | .maxN st d a b => Sys2Proof.Machine.execMaxN st d a b s
  | .leaB st d a b => Sys2Proof.Machine.execLeaB st d a b s
  | .leaH st d a b => Sys2Proof.Machine.execLeaH st d a b s
  | .leaW st d a b => Sys2Proof.Machine.execLeaW st d a b s
  | .leaD st d a b => Sys2Proof.Machine.execLeaD st d a b s
  | .popc st d a b => Sys2Proof.Machine.execPopc st d a b s
  | .clz st d a b => Sys2Proof.Machine.execClz st d a b s
  | .ctz st d a b => Sys2Proof.Machine.execCtz st d a b s
  | .brev st d a b => Sys2Proof.Machine.execBrev st d a b s
  | .bext st d a b => Sys2Proof.Machine.execBext st d a b s
  | .bins st d a b => Sys2Proof.Machine.execBins st d a b s
  | .sel st d a b => Sys2Proof.Machine.execSel st d a b s
  | .cmpEq st x k a b => Sys2Proof.Machine.execCmpEq st x k a b s
  | .cmpNe st x k a b => Sys2Proof.Machine.execCmpNe st x k a b s
  | .cmpLt st x k a b => Sys2Proof.Machine.execCmpLt st x k a b s
  | .cmpLe st x k a b => Sys2Proof.Machine.execCmpLe st x k a b s
  | .cmpLtn st x k a b => Sys2Proof.Machine.execCmpLtn st x k a b s
  | .cmpLen st x k a b => Sys2Proof.Machine.execCmpLen st x k a b s
  | .mul st d a b => Sys2Proof.Machine.execMul st d a b s
  | .mulh st d a b => Sys2Proof.Machine.execMulh st d a b s
  | .mulhN st d a b => Sys2Proof.Machine.execMulhN st d a b s
  | .div st d a b => Sys2Proof.Machine.execDiv st d a b s
  | .divN st d a b => Sys2Proof.Machine.execDivN st d a b s
  | .rem st d a b => Sys2Proof.Machine.execRem st d a b s
  | .remN st d a b => Sys2Proof.Machine.execRemN st d a b s
  | .addi st d a im => Sys2Proof.Machine.execAddi st d a im s
  | .andi st d a im => Sys2Proof.Machine.execAndi st d a im s
  | .ori st d a im => Sys2Proof.Machine.execOri st d a im s
  | .xori st d a im => Sys2Proof.Machine.execXori st d a im s
  | .shli st d a im => Sys2Proof.Machine.execShli st d a im s
  | .shri st d a im => Sys2Proof.Machine.execShri st d a im s
  | .sari st d a im => Sys2Proof.Machine.execSari st d a im s
  | .cmpiEq st k a im => Sys2Proof.Machine.execCmpiEq st k a im s
  | .cmpiNe st k a im => Sys2Proof.Machine.execCmpiNe st k a im s
  | .cmpiLt st k a im => Sys2Proof.Machine.execCmpiLt st k a im s
  | .cmpiLtn st k a im => Sys2Proof.Machine.execCmpiLtn st k a im s
  | .br st k n o => Sys2Proof.Machine.execBr st k n o s
  | .jmp st o => Sys2Proof.Machine.execJmp st o s
  | .call st o => Sys2Proof.Machine.execCall st o s
  | .jmpr st d a b => Sys2Proof.Machine.execJmpr st d a b s
  | .callr st d a b => Sys2Proof.Machine.execCallr st d a b s
  | .eret st d a b => Sys2Proof.Machine.execEret st d a b s
  | .idle st d a b => Sys2Proof.Machine.execIdle st d a b s
  | .brk st e => Sys2Proof.Machine.execBrk st e s
  | .mark st d a b => Sys2Proof.Machine.execMark st d a b s
  | .csrr st d a im => Sys2Proof.Machine.execCsrr st d a im s
  | .csrw st d a im => Sys2Proof.Machine.execCsrw st d a im s
  | .csrset st d a im => Sys2Proof.Machine.execCsrset st d a im s
  | .csrclr st d a im => Sys2Proof.Machine.execCsrclr st d a im s
  | .sys st d a im => Sys2Proof.Machine.execSys st d a im s
  | .trap st d a im => Sys2Proof.Machine.execTrap st d a im s
  | .ld st t a z o => Sys2Proof.Machine.execLd st t a z o s
  | .st st t a z o => Sys2Proof.Machine.execSt st t a z o s
  | .ldS st t a z o => Sys2Proof.Machine.execLdS st t a z o s
  | .pft st t a z o => Sys2Proof.Machine.execPft st t a z o s
  | .ldo st t a z r c u => Sys2Proof.Machine.execLdo st t a z r c u s
  | .sto st t a z r c u => Sys2Proof.Machine.execSto st t a z r c u s
  | .enter st d a im => Sys2Proof.Machine.execEnter st d a im s
  | .leave st d a im => Sys2Proof.Machine.execLeave st d a im s
  | .amoAdd st t a z r c => Sys2Proof.Machine.execAmoAdd st t a z r c s
  | .amoAnd st t a z r c => Sys2Proof.Machine.execAmoAnd st t a z r c s
  | .amoOr st t a z r c => Sys2Proof.Machine.execAmoOr st t a z r c s
  | .amoXor st t a z r c => Sys2Proof.Machine.execAmoXor st t a z r c s
  | .amoMin st t a z r c => Sys2Proof.Machine.execAmoMin st t a z r c s
  | .amoMax st t a z r c => Sys2Proof.Machine.execAmoMax st t a z r c s
  | .amoMinn st t a z r c => Sys2Proof.Machine.execAmoMinn st t a z r c s
  | .amoMaxn st t a z r c => Sys2Proof.Machine.execAmoMaxn st t a z r c s
  | .amoSwap st t a z r c => Sys2Proof.Machine.execAmoSwap st t a z r c s
  | .amoFadd st t a z r c => Sys2Proof.Machine.execAmoFadd st t a z r c s
  | .cas st t a z r c => Sys2Proof.Machine.execCas st t a z r c s
  | .fenceLdld st t a r c => Sys2Proof.Machine.execFenceLdld st t a r c s
  | .fenceLdst st t a r c => Sys2Proof.Machine.execFenceLdst st t a r c s
  | .fenceStld st t a r c => Sys2Proof.Machine.execFenceStld st t a r c s
  | .fenceStst st t a r c => Sys2Proof.Machine.execFenceStst st t a r c s
  | .fenceAll st t a r c => Sys2Proof.Machine.execFenceAll st t a r c s
  | .bari st d a b => Sys2Proof.Machine.execBari st d a b s
  | .bara st d a b => Sys2Proof.Machine.execBara st d a b s
  | .barw st d a b => Sys2Proof.Machine.execBarw st d a b s
  | .waita st t a z r c => Sys2Proof.Machine.execWaita st t a z r c s
  | .sigdec st d a b => Sys2Proof.Machine.execSigdec st d a b s
  | .sigwait st d a b => Sys2Proof.Machine.execSigwait st d a b s
  | .msend st d a b => Sys2Proof.Machine.execMsend st d a b s
  | .mrecv st d a b => Sys2Proof.Machine.execMrecv st d a b s
  | .mpoll st d a b => Sys2Proof.Machine.execMpoll st d a b s
  | .pjack st d a b => Sys2Proof.Machine.execPjack st d a b s
  | .psto st t a z r c => Sys2Proof.Machine.execPsto st t a z r c s
  | .spawn st d a b => Sys2Proof.Machine.execSpawn st d a b s
  | .reap st d a b => Sys2Proof.Machine.execReap st d a b s
  | .yield st d a b => Sys2Proof.Machine.execYield st d a b s
  | .ypt st d a b => Sys2Proof.Machine.execYpt st d a b s
  | .fork st d a b => Sys2Proof.Machine.execFork st d a b s
  | .join st d a b => Sys2Proof.Machine.execJoin st d a b s
  | .tend st d a b => Sys2Proof.Machine.execTend st d a b s
  | .tspawn st d a b => Sys2Proof.Machine.execTspawn st d a b s
  | .tstamp st d a b => Sys2Proof.Machine.execTstamp st d a b s
  | .migr st d a b => Sys2Proof.Machine.execMigr st d a b s
  | .homec st d a b => Sys2Proof.Machine.execHomec st d a b s
  | .mbput st d a b => Sys2Proof.Machine.execMbput st d a b s
  | .mbputRel st d a b => Sys2Proof.Machine.execMbputRel st d a b s
  | .mbget st d a b => Sys2Proof.Machine.execMbget st d a b s
  | .wkdone st d a b => Sys2Proof.Machine.execWkdone st d a b s
  | .scld st d a b => Sys2Proof.Machine.execScld st d a b s
  | .vadd st d a b k h j u => Sys2Proof.Machine.execVadd st d a b k h j u s
  | .vsub st d a b k h j u => Sys2Proof.Machine.execVsub st d a b k h j u s
  | .vmul st d a b k h j u => Sys2Proof.Machine.execVmul st d a b k h j u s
  | .vfma st d a b k h j u => Sys2Proof.Machine.execVfma st d a b k h j u s
  | .vfmab st d a b l h j u => Sys2Proof.Machine.execVfmab st d a b l h j u s
  | .vmin st d a b k h j u => Sys2Proof.Machine.execVmin st d a b k h j u s
  | .vmax st d a b k h j u => Sys2Proof.Machine.execVmax st d a b k h j u s
  | .vand st d a b k h j u => Sys2Proof.Machine.execVand st d a b k h j u s
  | .vor st d a b k h j u => Sys2Proof.Machine.execVor st d a b k h j u s
  | .vxor st d a b k h j u => Sys2Proof.Machine.execVxor st d a b k h j u s
  | .vshl st d a b k h j u => Sys2Proof.Machine.execVshl st d a b k h j u s
  | .vshr st d a b k h j u => Sys2Proof.Machine.execVshr st d a b k h j u s
  | .vcmpEq st k a b p h j u => Sys2Proof.Machine.execVcmpEq st k a b p h j u s
  | .vcmpNe st k a b p h j u => Sys2Proof.Machine.execVcmpNe st k a b p h j u s
  | .vcmpLt st k a b p h j u => Sys2Proof.Machine.execVcmpLt st k a b p h j u s
  | .vcmpLe st k a b p h j u => Sys2Proof.Machine.execVcmpLe st k a b p h j u s
  | .vsel st d a b k h j u => Sys2Proof.Machine.execVsel st d a b k h j u s
  | .vabs st d a k h j u => Sys2Proof.Machine.execVabs st d a k h j u s
  | .vneg st d a k h j u => Sys2Proof.Machine.execVneg st d a k h j u s
  | .vrcp st d a k h j u => Sys2Proof.Machine.execVrcp st d a k h j u s
  | .vrsq st d a k h j u => Sys2Proof.Machine.execVrsq st d a k h j u s
  | .vexp2 st d a k h j u => Sys2Proof.Machine.execVexp2 st d a k h j u s
  | .vlog2 st d a k h j u => Sys2Proof.Machine.execVlog2 st d a k h j u s
  | .vcvtF2s st d a k h j u => Sys2Proof.Machine.execVcvtF2s st d a k h j u s
  | .vcvtF2n st d a k h j u => Sys2Proof.Machine.execVcvtF2n st d a k h j u s
  | .vcvtS2f st d a k h j u => Sys2Proof.Machine.execVcvtS2f st d a k h j u s
  | .vcvtN2f st d a k h j u => Sys2Proof.Machine.execVcvtN2f st d a k h j u s
  | .vcvtF2b st d a w k h j u => Sys2Proof.Machine.execVcvtF2b st d a w k h j u s
  | .vcvtF2h st d a w k h j u => Sys2Proof.Machine.execVcvtF2h st d a w k h j u s
  | .vcvtB2f st d a w k h j u => Sys2Proof.Machine.execVcvtB2f st d a w k h j u s
  | .vcvtH2f st d a w k h j u => Sys2Proof.Machine.execVcvtH2f st d a w k h j u s
  | .vcvtF2e4 st d a y k h j u => Sys2Proof.Machine.execVcvtF2e4 st d a y k h j u s
  | .vcvtF2e5 st d a y k h j u => Sys2Proof.Machine.execVcvtF2e5 st d a y k h j u s
  | .vcvtE4f st d a y k h j u => Sys2Proof.Machine.execVcvtE4f st d a y k h j u s
  | .vcvtE5f st d a y k h j u => Sys2Proof.Machine.execVcvtE5f st d a y k h j u s
  | .vredSum st d a x k h j u => Sys2Proof.Machine.execVredSum st d a x k h j u s
  | .vredMin st d a x k h j u => Sys2Proof.Machine.execVredMin st d a x k h j u s
  | .vredMax st d a x k h j u => Sys2Proof.Machine.execVredMax st d a x k h j u s
  | .vredAnd st d a x k h j u => Sys2Proof.Machine.execVredAnd st d a x k h j u s
  | .vredOr st d a x k h j u => Sys2Proof.Machine.execVredOr st d a x k h j u s
  | .vredXor st d a x k h j u => Sys2Proof.Machine.execVredXor st d a x k h j u s
  | .vscanSum st d a x k h j u => Sys2Proof.Machine.execVscanSum st d a x k h j u s
  | .vscanMin st d a x k h j u => Sys2Proof.Machine.execVscanMin st d a x k h j u s
  | .vscanMax st d a x k h j u => Sys2Proof.Machine.execVscanMax st d a x k h j u s
  | .vscanAnd st d a x k h j u => Sys2Proof.Machine.execVscanAnd st d a x k h j u s
  | .vscanOr st d a x k h j u => Sys2Proof.Machine.execVscanOr st d a x k h j u s
  | .vscanXor st d a x k h j u => Sys2Proof.Machine.execVscanXor st d a x k h j u s
  | .kand st d a b => Sys2Proof.Machine.execKand st d a b s
  | .kor st d a b => Sys2Proof.Machine.execKor st d a b s
  | .kxor st d a b => Sys2Proof.Machine.execKxor st d a b s
  | .knot st d a b => Sys2Proof.Machine.execKnot st d a b s
  | .kmovK st d a x => Sys2Proof.Machine.execKmovK st d a x s
  | .kmovFromG st d a x => Sys2Proof.Machine.execKmovFromG st d a x s
  | .kmovToG st d a x => Sys2Proof.Machine.execKmovToG st d a x s
  | .kpack st d a b => Sys2Proof.Machine.execKpack st d a b s
  | .kunpk st d a b => Sys2Proof.Machine.execKunpk st d a b s
  | .kpopc st d a b => Sys2Proof.Machine.execKpopc st d a b s
  | .vperm st d a b k h j u => Sys2Proof.Machine.execVperm st d a b k h j u s
  | .vrot st d a x n k h j u => Sys2Proof.Machine.execVrot st d a x n k h j u s
  | .vqnt st d a b k h j => Sys2Proof.Machine.execVqnt st d a b k h j s
  | .vdq st d a b k h j => Sys2Proof.Machine.execVdq st d a b k h j s
  | .vlane st d a x l k h j => Sys2Proof.Machine.execVlane st d a x l k h j s
  | .vins st d a x l k h j => Sys2Proof.Machine.execVins st d a x l k h j s
  | .vld st d a b k h j => Sys2Proof.Machine.execVld st d a b k h j s
  | .vst st d a b k h j => Sys2Proof.Machine.execVst st d a b k h j s
  | .vlds st d a b k h j => Sys2Proof.Machine.execVlds st d a b k h j s
  | .vsts st d a b k h j => Sys2Proof.Machine.execVsts st d a b k h j s
  | .vgth st d a b k h j => Sys2Proof.Machine.execVgth st d a b k h j s
  | .vsct st d a b k h j => Sys2Proof.Machine.execVsct st d a b k h j s
  | .vbcst st d a b k h j => Sys2Proof.Machine.execVbcst st d a b k h j s
  | .qpush st d q e => Sys2Proof.Machine.execQpush st d q e s
  | .qpop st d q e => Sys2Proof.Machine.execQpop st d q e s
  | .tlda st d q b h n r => Sys2Proof.Machine.execTlda st d q b h n r s
  | .tldb st d q b h n r => Sys2Proof.Machine.execTldb st d q b h n r s
  | .tgtha st d q b h n r => Sys2Proof.Machine.execTgtha st d q b h n r s
  | .tmma st d q b h n r => Sys2Proof.Machine.execTmma st d q b h n r s
  | .tspm st d q b h n r => Sys2Proof.Machine.execTspm st d q b h n r s
  | .tzero st d q b h n r => Sys2Proof.Machine.execTzero st d q b h n r s
  | .tldc st d q b h n r => Sys2Proof.Machine.execTldc st d q b h n r s
  | .tstc st d q b h n r => Sys2Proof.Machine.execTstc st d q b h n r s
  | .abal st d q f c => Sys2Proof.Machine.execAbal st d q f c s
  | .abfr st d q f c => Sys2Proof.Machine.execAbfr st d q f c s
  | .lset st d q e => Sys2Proof.Machine.execLset st d q e s
  | .tgeoOrg st d q e => Sys2Proof.Machine.execTgeoOrg st d q e s
  | .tgeoMask st d q e => Sys2Proof.Machine.execTgeoMask st d q e s
  | .ttask st d q e => Sys2Proof.Machine.execTtask st d q e s
  | .tgrp st d q e => Sys2Proof.Machine.execTgrp st d q e s
  | .cpy st d a b => Sys2Proof.Machine.execCpy st d a b s
  | .cpyNb st d a b => Sys2Proof.Machine.execCpyNb st d a b s
  | .cpyc st d a b => Sys2Proof.Machine.execCpyc st d a b s
  | .cpycNb st d a b => Sys2Proof.Machine.execCpycNb st d a b s
  | .cpyst st d a b => Sys2Proof.Machine.execCpyst st d a b s
  | .hwait st d a x m => Sys2Proof.Machine.execHwait st d a x m s
  | .hacq st d a b => Sys2Proof.Machine.execHacq st d a b s
  | .hrel st d a b => Sys2Proof.Machine.execHrel st d a b s
  | .hstat st d a b => Sys2Proof.Machine.execHstat st d a b s
  | .aopAdd st t a z r c => Sys2Proof.Machine.execAopAdd st t a z r c s
  | .aopAnd st t a z r c => Sys2Proof.Machine.execAopAnd st t a z r c s
  | .aopOr st t a z r c => Sys2Proof.Machine.execAopOr st t a z r c s
  | .aopXor st t a z r c => Sys2Proof.Machine.execAopXor st t a z r c s
  | .aopMin st t a z r c => Sys2Proof.Machine.execAopMin st t a z r c s
  | .aopMax st t a z r c => Sys2Proof.Machine.execAopMax st t a z r c s
  | .aopMinn st t a z r c => Sys2Proof.Machine.execAopMinn st t a z r c s
  | .aopMaxn st t a z r c => Sys2Proof.Machine.execAopMaxn st t a z r c s
  | .aopSwap st t a z r c => Sys2Proof.Machine.execAopSwap st t a z r c s
  | .aopFadd st t a z r c => Sys2Proof.Machine.execAopFadd st t a z r c s
  | .aopFaddBf16 st t a z r c => Sys2Proof.Machine.execAopFaddBf16 st t a z r c s
  | .ared st d a b => Sys2Proof.Machine.execAred st d a b s
  | .axpy st d a b => Sys2Proof.Machine.execAxpy st d a b s
  | .afill st d a b => Sys2Proof.Machine.execAfill st d a b s
  | .collAr st d a b => Sys2Proof.Machine.execCollAr st d a b s
  | .collAg st d a b => Sys2Proof.Machine.execCollAg st d a b s
  | .collRs st d a b => Sys2Proof.Machine.execCollRs st d a b s
  | .cnear st d a b => Sys2Proof.Machine.execCnear st d a b s
  | .cnearLocal st d a b => Sys2Proof.Machine.execCnearLocal st d a b s
  | .cstv st d a b => Sys2Proof.Machine.execCstv st d a b s
  | .cdel st d a b => Sys2Proof.Machine.execCdel st d a b s
  | .cver st d a b => Sys2Proof.Machine.execCver st d a b s
  | .catnew st d a b => Sys2Proof.Machine.execCatnew st d a b s
  | .catdel st d a b => Sys2Proof.Machine.execCatdel st d a b s
  | .rcall st d a b => Sys2Proof.Machine.execRcall st d a b s
  | .rcallNb st d a b => Sys2Proof.Machine.execRcallNb st d a b s
  | .rread st d a b => Sys2Proof.Machine.execRread st d a b s
  | .rreadLocal st d a b => Sys2Proof.Machine.execRreadLocal st d a b s
  | .rwait st d a b => Sys2Proof.Machine.execRwait st d a b s
  | .objnew st d a b => Sys2Proof.Machine.execObjnew st d a b s
  | .objdel st d a b => Sys2Proof.Machine.execObjdel st d a b s
  | .himm p => Sys2Proof.Machine.execHimm p s
  | .hsch x n => Sys2Proof.Machine.execHsch x n s
  | .hschIdle x u => Sys2Proof.Machine.execHschIdle x u s
  | .hmod p r t c o st x => Sys2Proof.Machine.execHmod p r t c o st x s
  | .egrs st d a b => Sys2Proof.Machine.execEgrs st d a b s
  | .egfin st d a b => Sys2Proof.Machine.execEgfin st d a b s
  | .ctxnew st d a b => Sys2Proof.Machine.execCtxnew st d a b s
  | .ctxgrant st d a b => Sys2Proof.Machine.execCtxgrant st d a b s
  | .ctxrevoke st d a b => Sys2Proof.Machine.execCtxrevoke st d a b s
  | .ctxstat st d a b => Sys2Proof.Machine.execCtxstat st d a b s
  | .resume st d a b => Sys2Proof.Machine.execResume st d a b s
  | .lnch st d a b => Sys2Proof.Machine.execLnch st d a b s
  | .hnop x => Sys2Proof.Machine.execHnop x s
  | .reservedHint maj p => Sys2Proof.Machine.execReservedHint maj p s
  | .illegalInstr w => Sys2Proof.Machine.execIllegalInstr w s
  | .asynchronousTrap c t => Sys2Proof.Machine.execAsynchronousTrap c t s
  | .reflectionMessage n => Sys2Proof.Machine.execReflectionMessage n s
  | .stallExpiry c t => Sys2Proof.Machine.execStallExpiry c t s
  | .hschWaitExpiry c t => Sys2Proof.Machine.execHschWaitExpiry c t s
  | .interlockedValueWrite c t => Sys2Proof.Machine.execInterlockedValueWrite c t s
  | .lineWake c t => Sys2Proof.Machine.execLineWake c t s
  | .cacheLineInvalidation addr data => Sys2Proof.Machine.execCacheLineInvalidation addr data s
  | .idleTimeWake c t => Sys2Proof.Machine.execIdleTimeWake c t s
  | .barrierArrival n => Sys2Proof.Machine.execBarrierArrival n s
  | .barrierReply n => Sys2Proof.Machine.execBarrierReply n s
  | .messageArrival n => Sys2Proof.Machine.execMessageArrival n s
  | .scaleMessage n => Sys2Proof.Machine.execScaleMessage n s
  | .postedStoreApply n => Sys2Proof.Machine.execPostedStoreApply n s
  | .migrationArrival n => Sys2Proof.Machine.execMigrationArrival n s
  | .migrationReturn c t => Sys2Proof.Machine.execMigrationReturn c t s
  | .recompute ctx vh => Sys2Proof.Machine.execRecompute ctx vh s
  | .copyChunk v => Sys2Proof.Machine.execCopyChunk v s
  | .cpycVersionCheck v => Sys2Proof.Machine.execCpycVersionCheck v s
  | .copyCompletion v => Sys2Proof.Machine.execCopyCompletion v s
  | .bankLineUpdate n line => Sys2Proof.Machine.execBankLineUpdate n line s
  | .tileCommandBegin c => Sys2Proof.Machine.execTileCommandBegin c s
  | .tileChunk c n => Sys2Proof.Machine.execTileChunk c n s
  | .completionWordPost c q => Sys2Proof.Machine.execCompletionWordPost c q s
  | .taskDispatch ctx vh c bank => Sys2Proof.Machine.execTaskDispatch ctx vh c bank s
  | .taskCompletion c n => Sys2Proof.Machine.execTaskCompletion c n s
  | .logAppend n => Sys2Proof.Machine.execLogAppend n s
  | .entryApply cat id die => Sys2Proof.Machine.execEntryApply cat id die s
  | .rreadRun c t => Sys2Proof.Machine.execRreadRun c t s
  | .searchAdmission c t => Sys2Proof.Machine.execSearchAdmission c t s
  | .searchStep c t => Sys2Proof.Machine.execSearchStep c t s
  | .budgetRefill => Sys2Proof.Machine.execBudgetRefill s
  | .switchSlotArm image => Sys2Proof.Machine.execSwitchSlotArm image s
  | .switchTick out => Sys2Proof.Machine.execSwitchTick out s
  | .stopInstant out => Sys2Proof.Machine.execStopInstant out s
  | .parkBufferFlush out => Sys2Proof.Machine.execParkBufferFlush out s
  | .denSaveReport out die => Sys2Proof.Machine.execDenSaveReport out die s
  | .switchAbort out => Sys2Proof.Machine.execSwitchAbort out s
  | .denRestore n places => Sys2Proof.Machine.execDenRestore n places s
  | .stepRequest die point => Sys2Proof.Machine.execStepRequest die point s
  | .relockEnd die => Sys2Proof.Machine.execRelockEnd die s
  | .thermalGovernor die dramTemp junctionTemp power => Sys2Proof.Machine.execThermalGovernor die dramTemp junctionTemp power s
  | .refreshDoubling die temp => Sys2Proof.Machine.execRefreshDoubling die temp s
  | .thermalTrip die temp => Sys2Proof.Machine.execThermalTrip die temp s
  | .plimWrite watts => Sys2Proof.Machine.execPlimWrite watts s
  | .linkRetrain => Sys2Proof.Machine.execLinkRetrain s
  | .fabricPortDown port => Sys2Proof.Machine.execFabricPortDown port s
  | .hostMemoryAccess addr data => Sys2Proof.Machine.execHostMemoryAccess addr data s
  | .attestationRequest nonce => Sys2Proof.Machine.execAttestationRequest nonce s
  | .collectiveCompletion part group seq => Sys2Proof.Machine.execCollectiveCompletion part group seq s
  | .collectiveTimeout part group rank seq => Sys2Proof.Machine.execCollectiveTimeout part group rank seq s
  | .egressTileMark => Sys2Proof.Machine.execEgressTileMark s
  | .clipRecord => Sys2Proof.Machine.execClipRecord s
  | .samplingPulse ctx => Sys2Proof.Machine.execSamplingPulse ctx s
  | .breakpointMatch c t => Sys2Proof.Machine.execBreakpointMatch c t s
  | .debugRun ctx => Sys2Proof.Machine.execDebugRun ctx s
  | .debugStep c t => Sys2Proof.Machine.execDebugStep c t s
  | .debugHalt ctx => Sys2Proof.Machine.execDebugHalt ctx s
  | .spoorControlWrite ctx index image => Sys2Proof.Machine.execSpoorControlWrite ctx index image s
  | .coldStart => Sys2Proof.Machine.execColdStart s
  | .warmStart => Sys2Proof.Machine.execWarmStart s
  | .scWindowClose => Sys2Proof.Machine.execScWindowClose s
  | .timeMasterAlignment add => Sys2Proof.Machine.execTimeMasterAlignment add s
  | .coreSoftError c t file reg => Sys2Proof.Machine.execCoreSoftError c t file reg s
  | .debugRegisterAccess c t file reg value => Sys2Proof.Machine.execDebugRegisterAccess c t file reg value s
  | .egressSettingWrite ctx strength enable => Sys2Proof.Machine.execEgressSettingWrite ctx strength enable s
  | .collectiveGroupDefine ctx group ranks => Sys2Proof.Machine.execCollectiveGroupDefine ctx group ranks s
  | .msixWindowWrite ctx base count => Sys2Proof.Machine.execMsixWindowWrite ctx base count s
  | .hostReset => Sys2Proof.Machine.execHostReset s

end Sys2Proof.Machine
end

