-- ==== Sys2Proof/Machine/Late.lean ====
section
/-! DEFINITION. The words that `LateInstr` names: each has the meaning that `exec` gives its constructor (a limit of compiled
Lean code on the number of constructors, not of the device). -/

namespace Sys2Proof.Machine

open Sys2Proof

/-- The meanings of the words that `LateInstr` names: what `exec` does for them. -/
def execLate (l : LateInstr) (s : State) : Out :=
  match l with
  | .egrs st d a b => execEgrs st d a b s
  | .egfin st d a b => execEgfin st d a b s
  | .ctxnew st d a b => execCtxnew st d a b s
  | .ctxgrant st d a b => execCtxgrant st d a b s
  | .ctxrevoke st d a b => execCtxrevoke st d a b s
  | .ctxstat st d a b => execCtxstat st d a b s
  | .resume st d a b => execResume st d a b s
  | .lnch st d a b => execLnch st d a b s
  | .hnop x => execHnop x s
  | .reservedHint maj p => execReservedHint maj p s

end Sys2Proof.Machine
end

