-- ==== Sys2Proof/Machine/Run.lean ====
section
/-! DEFINITION. One thread's turn: its pending traps, breakpoints, the fetched word and its meaning (06 R96, R109, 25 R395,
R396). -/

namespace Sys2Proof.Machine

open Sys2Proof

/-- Runs a decoded word. -/
def runFetched (f : Fetched) (s : State) : Out :=
  match f with
  | .inl i => exec i s
  | .inr l => execLate l s

/-- Runs an instruction word as the current thread's next: a word that is no instruction raises ILLEGAL_INSTR (R50). -/
def runWord (w : BitVec 32) (s : State) : Out :=
  match decodeFetched w with
  | .ok f => runFetched f s
  | .error _ => execIllegalInstr w s

/-- R396: a thread that a STEP let go, whose chain has been issued, halts again. -/
def stepEnd (s : State) (t : Tid) : State :=
  let th := s.thread t
  if th.stepOne && !th.passBreak && th.chain.isNone && th.run == .ready && th.halted.isNone then haltAt s t 9 else s

/-- Whether a thread's park has issued nothing of its chain. -/
def unissued (r : Run) : Bool :=
  match r with
  | .parkedPage _ => true
  | .parkedEngine w _ | .parkedSync w _ => match w with
    | .reply _ _ | .away | .tileIdle => false
    | _ => true
  | .idle b _ => b
  | .idleAlways => true
  | _ => false

/-- A step has issued nothing: the thread only waits (R42). -/
def onlyWaits (s y : State) : Bool := y.freeCount == s.freeCount

/-- The chain that a RUN or STEP lets go has been issued: the next one may match (R396). -/
def chainDone (s : State) (t : Tid) : State :=
  let th := s.thread t
  if th.passBreak && th.chain.isNone && !unissued th.run then s.setThread t { th with passBreak := false, passBrk := false } else s

/-- The turn of a thread counts for those that yielded to it, and so does what is no longer ready (R157). -/
def noteTurn (s : State) (t : Tid) : State :=
  let c := s.core t.core
  if s.meth.isNone && c.threads.toList.any fun x => !x.yieldFor.isEmpty then
    s.setCore t.core { c with threads := c.threads.map fun x => { x with
      yieldFor := x.yieldFor.filter fun u => u != t.thr && mayIssue s ⟨t.core, u⟩ } }
  else s

/-- A thread whose next word reads a register that an interlocked producer still owes is interlocked until it is written
(R42, R95): the word, tried on a copy of the state, says so. -/
def interlock (s : State) (t : Tid) : State :=
  let th := s.thread t
  if s.meth.isNone && th.run == .ready && th.owed.any fun e => decide (dieCycle s (dieOf s t.core) < e.due) then
    let z := { s with cur := t }
    match fetchWord z t with
    | .error _ => s
    | .ok w => match runWord w z with
      | .next y => if onlyWaits z y then s.setThread t { th with readyAt := (y.thread t).readyAt } else s
      | _ => s
  else s

/-- A thread that a gang switch has told to stop stands at the end of its chain: it stops there (R41, R44, R355; rule 7 of R78). -/
def stopAtChain (s : State) (t : Tid) : State :=
  let th := s.thread t
  if th.stopped && th.chain.isNone then stopHere s t else s

/-- After a thread's turn that began in state `s`: the resident slot, what others wait for, whether the thread is interlocked or
stops, and the end of a STEP (R95, R110, R157, R355, R396). -/
def afterTurn (t : Tid) (s : State) (o : Out) : Out :=
  match o with
  | .next y => if onlyWaits s y then .next y else .next (stepEnd (stopAtChain (interlock (noteTurn (residentSlot y t.core) t) t) t) t)
  | o => o

/-- The words of a chain from the thread's pc on. A word that only waits leaves the breakpoints as they were (R395). -/
def issueWord (s : State) (t : Tid) : Out :=
  match breakCheck s t with
  | (_, some _) => execBreakpointMatch t.core t.thr s
  | (z, none) =>
    let o := match fetchWord z t with
      | .error e => fetchStop (atIssue z) t e
      | .ok w => runWord w (useAt z (viewOf z t) (z.thread t).pc 4)
    match o with
    | .next y => if onlyWaits z y then .next (s.setThread t { s.thread t with readyAt := (y.thread t).readyAt }) else .next (chainDone y t)
    | o => o

/-- The trap that the chain at which the thread was parked has met, in the thread's slot (R108, R119). -/
def takeOwedTrap (s : State) (t : Tid) (code : Nat) (eval : Word) : Out := stopped (atIssue s) t (.trap code eval)

/-- The turn of a thread that may issue. -/
def turn (s : State) (t : Tid) : Out :=
  let s := residentSlot { s with cur := t } t.core
  let th := s.thread t
  if let some (c, e) := th.owedTrap then takeOwedTrap s t c e
  else if asyncReady s t then
    -- not while it is interlocked, nor before the results for which its entry waits (R109, R119)
    let y := interlock s t
    match lateRead th (max th.readyAt (dieCycle s (dieOf s t.core))) .slow [] with
    | some due => stopped s t (.wait due)
    | none => if th.readyAt < (y.thread t).readyAt then .next y else execAsynchronousTrap t.core t.thr s
  else if th.homeOf.isSome && th.chain.isNone && !th.inh && !(s.thread (homeTid s t)).asyncq.isEmpty then execMigrationReturn t.core t.thr s
  else if th.stepOne && !th.passBreak && th.chain.isNone then .next (stepEnd s t)
  else issueWord s t

/-- A thread that has yielded goes on. -/
def endYield (s : State) (t : Tid) : State :=
  let th := s.thread t
  if th.yieldFor.isEmpty then s
  else s.setThread t { th with
    readyAt := eligibleAt s t
    stallEnd := eligibleAt s t
    yieldFor := [] }

/-- A move of a thread: its turn if it may issue, else nothing. -/
def runThread (t : Tid) (s : State) : Out :=
  if mayIssue s t then
    afterTurn t s (turn (endYield s t) t)
  else .next s

/-- What becomes of a waiting thread's chain if it issues now: its hint words and its instruction, one after the other, with no
breakpoint in the way (R44, R395). None where the machine stops. -/
def tryChain : Nat → Tid → State → Option State
  | 0, _, _ => none
  | n + 1, t, s =>
    let s := { s with cur := t }
    match (match fetchWord s t with
      | .error e => fetchStop (atIssue s) t e
      | .ok w => runWord w s) with
    | .next y => if (y.thread t).run == .ready && (y.thread t).chain.isSome then tryChain n t y else some y
    | _ => none

end Sys2Proof.Machine
end

