-- ==== Sys2Proof/Machine/Schedule.lean ====
section
/-! DEFINITION. Which agent moves when nothing outside has chosen (R13, R14, R96; log 3). -/

namespace Sys2Proof.Machine

open Sys2Proof

/-- A thread's next word is an `HREL`. -/
def releasesNext (s : State) (t : Tid) : Bool :=
  match fetchWord s t with
  | .ok w => match decodeFetched w with
    | .ok (.inl (.hrel _ _ _ _)) => true
    | _ => false
  | .error _ => false

/-- Of two threads that issue in one cycle of a die the first goes first: by key within a domain of ordered tasks (R210), and an
`HREL` before what else looks at handles (R232). -/
def goesFirst (s : State) (a b : Tid) : Bool :=
  (match taskOf s a, taskOf s b with
  | some x, some y => unitOf s a == unitOf s b && keyLt x.key y.key
  | _, _ => false)
  || (unitOf s a == unitOf s b && releasesNext s a && !releasesNext s b)

/-- The thread that issues next, and when: the earliest of the picks of the cores (R96), after the core that issued last where
several are equal and no rule says more. -/
def readyThread (s : State) : Option (Nat × Tid) :=
  let ks := s.cores.map (·.1)
  ((ks.filter (s.cur.core < ·)) ++ (ks.filter (· ≤ s.cur.core))).foldl (fun best k =>
    match pickThread s k with
    | none => best
    | some (cyc, t) =>
      let g := (advanceTo s (dieOf s k) cyc).now
      match best with
      | some b => if g < b.1 || (g == b.1 && goesFirst s t b.2) then some (g, t) else some b
      | none => some (g, t)) none

/-- The moves of the operations in flight, by their places. -/
def flightMoves : Nat → List Flight → List (State → Out)
  | _, [] => []
  | n, f :: fs =>
    let here : State → Out := match f with
      | .barArrive _ _ _ => execBarrierArrival n
      | .barReply _ _ _ _ => execBarrierReply n
      | .msg _ _ _ _ => execMessageArrival n
      | .scale _ _ _ _ => execScaleMessage n
      | .psto _ _ _ _ _ _ _ _ _ _ => execPostedStoreApply n
      | .migr _ _ _ => execMigrationArrival n
      | .reflection _ _ _ _ _ _ _ _ _ _ _ _ => execReflectionMessage n
      | .bank _ _ _ _ _ _ _ _ _ _ _ _ _ => fun s => execBankLineUpdate n ((nextLine s f).getD 0) s
      | .append _ _ _ _ _ => execLogAppend n
      | .egress _ _ _ _ _ _ _ _ _ _ => execEgressTileMark
      | .planes _ _ _ _ _ _ _ _ _ _ => fun s => .next (lapse (planeRead n s))
      | .egfin _ _ _ _ _ _ _ _ => execClipRecord
    here :: flightMoves (n + 1) fs

/-- Two runs that wait for the same thing. -/
def sameWait (a b : Run) : Bool :=
  match a, b with
  | .parkedEngine x _, .parkedEngine y _ => x == y
  | .parkedSync x _, .parkedSync y _ => x == y
  | .parkedPage x, .parkedPage y => x == y
  | .idle true _, .idle true _ => true
  | _, _ => false

/-- The thread waits at its chain as before. -/
def stillWaits (s z : State) (t : Tid) : Bool := (z.thread t).pc == (s.thread t).pc && sameWait (s.thread t).run (z.thread t).run

/-- A waiting thread looks at its condition again: where that holds, which its chain tried on a copy of the state says, it is ready
and has its place in the rotation (R95, R96); else nothing but time has passed. What the copy meets is looked at as if its SC
window had closed (R81). -/
def poll (t : Tid) (s : State) : Out :=
  match execLineWake t.core t.thr s with
  | .next z =>
    if (z.thread t).run == .ready && (s.thread t).run != .idle false none then
      match tryChain 5 t (z.setThread t { z.thread t with scGo := true }) with
      | some y => if stillWaits s y t then .next (lapse s) else .next z
      | none => .next z
    else .next z
  | o => o

/-- The moves that a thread which is not ready may be given: its wait is looked at again, or what it waits for goes on. -/
def waitMoves (s : State) (t : Tid) : List (State → Out) :=
  let th := s.thread t
  if asyncReady s t && th.run != .ready then [execAsynchronousTrap t.core t.thr]
  else match th.run with
  | .parkedEngine .scribeRead _ => [execRreadRun t.core t.thr, poll t]
  | .parkedEngine .search _ => [execSearchAdmission t.core t.thr, execSearchStep t.core t.thr, poll t]
  | .parkedEngine .tileIdle _ => [execHschWaitExpiry t.core t.thr]
  | .parkedEngine w _ | .parkedSync w _ => if w.isPoll || w.isDelete then [poll t] else []
  | .parkedPage .reissue | .idle _ _ => [poll t]
  | _ => []

/-- The moves of a core's tile engine. -/
def tileMoves (s : State) (c : Nat) : List (State → Out) :=
  let x := (s.core c).tile
  let qs := (List.range 4).filter fun q => (dueWord x q).isSome
  (if !x.waiting.isEmpty || x.queues.toList.any fun q => !q.cmds.isEmpty then [execTileCommandBegin c] else [])
    ++ (if x.running.isEmpty then [] else [execTileChunk c 0])
    ++ (List.range (runningTasks s c).length).map (fun i => execTileChunk c (i + 1))
    ++ (List.range (runningTasks s c).length).map (execTaskCompletion c)
    ++ qs.map (execCompletionWordPost c)

/-- The moves of a holt's task unit: a ready tile task goes to a core at the first bank it fits. -/
def unitMoves (s : State) (u : Nat) : List (State → Out) :=
  let x := u / 2 ^ 16
  let vh := u % 2 ^ 16
  let unit := s.unit u
  let cores := (List.range 48).filterMap fun p => coreOfVc s x (vh * 48 + p)
  if unit.tasks.isEmpty then []
  else match servedTask s (heads s [] (readyTasks s u)) with
    | some (_, v, y) =>
      let z := if y.group then skipEmpty y else y
      if v ≠ u then []
      else if !needsEngine y then [execTaskDispatch x vh (cores.headD 0) 0]
      else cores.filterMap fun c => ((List.range 64).find? fun b => engineTakes s u z c b).map fun b => execTaskDispatch x vh c b
    | none => []

/-- The moves of the logs that a die has not applied yet. -/
def applyMoves (s : State) : List (State → Out) :=
  let dies := enabledDies s
  (s.objects.flatMap fun e => (dies.filter fun d => (e.2.copy d).applied < e.2.tail).map (execEntryApply false e.1))
    ++ s.cats.flatMap fun e => (dies.filter fun d => (e.2.copy d).applied < e.2.tail).map (execEntryApply true e.1)

/-- The moves of collectives and switches. -/
def dueMoves (s : State) : List (State → Out) :=
  (inProgress s).map (fun e => execCollectiveCompletion e.1.part e.1.group e.2)
    ++ s.switches.flatMap fun w =>
        if w.phase = 2 then (List.range 4).map (execDenSaveReport w.out) else []

/-- The time of a tick of GTS. -/
def tickTime (s : State) (g : Nat) : Nat := (g + s.slewMinus - s.slewPlus) * Config.tick

/-- The tick of a partition's stop instant: the present one, once none of its threads runs (R355). -/
def stopTick (s : State) (w : Switch) : Nat := if (partThreads s w.out).any (stillRuns s) then w.tick + w.grace else gts s

/-- The moves of the switches (R354 to R358), each with its time: the tick of the earliest slot of a partition that has no switch under
way, the stop instant, the flush of the park buffers and the abort. -/
def switchMoves (s : State) : List (Nat × (State → Out)) :=
  s.switches.flatMap fun w => match w.phase with
    | 0 => if (activeSwitch s w.out).isNone && armedSwitch s w.out == some w then [(tickTime s w.tick, execSwitchTick w.out)] else []
    | 1 => [(tickTime s (stopTick s w), execStopInstant w.out)]
    | _ => (if w.flushed then [] else [(tickTime s (w.stop + 2000), execParkBufferFlush w.out)])
        ++ [(tickTime s (w.stop + w.deadline + 1), execSwitchAbort w.out)]

/-- The moves that have a time of their own, each with its time. -/
def timedMoves (s : State) : List (Nat × (State → Out)) :=
  let at_ := tickTime s
  (at_ s.refillAt, execBudgetRefill)
    :: ((List.range 4).filterMap fun d => (s.die d).relock.map fun r => (r.1, execRelockEnd d))
    ++ ((scWaiting s).map fun e => (at_ ((e.1 + 1) * 16), execScWindowClose))
    ++ (s.contribs.filterMap fun c => match c.deadline with
        | some g => if c.pausedAt.isNone then some (at_ g, execCollectiveTimeout c.part c.group c.rank c.seq) else none
        | none => none)
    ++ switchMoves s
    ++ (s.cores.flatMap fun e => (List.range 16).filterMap fun i => match (e.2.thread i).run with
        | .idle true (some g) => some (at_ g, execIdleTimeWake e.1 i)
        | _ => none)
    -- after the accesses of its cycle, which count in it (R203, R210)
    ++ (s.units.filterMap fun e => match unitHolt s e.1 with
        | some h =>
          if e.2.domain.tasks.isEmpty then none
          else some ((advanceTo s (h / 24) e.2.domain.nextRecompute).now + 1, execRecompute (e.1 / 2 ^ 16) (e.1 % 2 ^ 16))
        | none => none)
    ++ (s.contexts.filterMap fun e => if pulses e.2 then some (at_ e.2.pulseAt, execSamplingPulse e.1) else none)
    -- a reflection message waits for the end of its tick (R16)
    ++ (s.flights.zipIdx.filterMap fun e => match e.1 with
        | .reflection _ _ _ _ _ _ _ _ g _ _ _ => if gts s ≤ g then some (at_ (g + 1), execReflectionMessage e.2) else none
        | _ => none)
    -- results to come for which the save of a stopped thread waits (R135)
    ++ s.cores.flatMap fun e => (List.range 16).filterMap fun i =>
        let th := e.2.thread i
        if th.stopped then (th.owed.map (·.due)).min?.map fun c => ((advanceTo s (dieOf s e.1) c).now, execInterlockedValueWrite e.1 i) else none

/-- The first of the timed moves. -/
def nextTimed (s : State) : Nat × (State → Out) :=
  (timedMoves s).foldl (fun b m => if m.1 < b.1 then m else b) (tickTime s s.refillAt, execBudgetRefill)

/-- What is under way beside the threads. -/
def workMoves (s : State) : List (State → Out) :=
  flightMoves 0 s.flights
    ++ (s.setts.filter fun e => !e.2.queue.isEmpty).flatMap (fun e => [execCopyChunk e.1, execCpycVersionCheck e.1, execCopyCompletion e.1])
    ++ s.cores.flatMap (fun e => tileMoves s e.1)
    ++ s.units.flatMap (fun e => unitMoves s e.1)
    ++ applyMoves s
    ++ dueMoves s
    ++ (s.signals.map fun q z => .next (lapse (signalStep q z)))
    ++ (s.teardowns.map fun w z => .next (lapse (teardownStep w z)))
    ++ s.cores.flatMap fun e => (List.range 16).flatMap fun i => waitMoves s ⟨e.1, i⟩

/-- A move has done something other than look: more than time and the model's own counters differ. -/
def moved (s : State) : Out → Bool
  | .next z => z != { s with
      now := z.now
      freeCount := z.freeCount }
  | _ => true

/-- The first of the moves that does something, the search starting at place `k`: no rule orders them against each other (R13,
R14; log 3). -/
def someMove (s : State) (k : Nat) : Option Out :=
  let ms := workMoves s
  let n := k % max 1 ms.length
  (ms.drop n ++ ms.take n).findSome? fun m => let o := m s; if moved s o then some o else none

/-- A T13 whose wake condition holds: the resident slot becomes active before anything else moves (R110). -/
def residentWake (s : State) : Option Out :=
  s.cores.findSome? fun e =>
    if e.2.resLaunch.isSome && (e.2.thread 13).run != .ready then
      (waitMoves s ⟨e.1, 13⟩).findSome? fun m => let o := m s; if moved s o then some o else none
    else none

/-- A step with an empty agenda. A timed move that is due comes first, then the wakes of T13; then the threads and the other moves
take turns; where none of them can go on, time passes to the next timed move. A package in reset starts (R401). -/
def automatic (s : State) : Out :=
  match s.power with
  | .inReset => if s.coldNext then execColdStart s else execWarmStart s
  | .failed _ _ => .next (lapse s)
  | .running =>
    let s := { s with turns := s.turns + 1 }
    let m := nextTimed s
    let timed := m.2 { s with now := max s.now m.1 }
    match readyThread s with
    | some (g, t) =>
      if m.1 ≤ g then timed
      else if let some o := residentWake s then o
      else if s.turns % 2 = 1 then runThread t s
      else (someMove s (s.turns / 2)).getD (runThread t s)
    | none =>
      if m.1 ≤ s.now then timed
      else if let some o := residentWake s then o
      else (someMove s (s.turns / 2)).getD timed

/-- The time of an event that has one of its own. -/
def eventTime (s : State) : Instr → Option Nat
  | .budgetRefill => some (tickTime s s.refillAt)
  | .relockEnd d => (s.die d).relock.map (·.1)
  | .scWindowClose => ((scWaiting s).map (·.1)).min?.map fun w => tickTime s ((w + 1) * 16)
  | .switchTick out => (armedSwitch s out).map fun w => tickTime s w.tick
  | .stopInstant out => (activeSwitch s out).map fun w => tickTime s (stopTick s w)
  | .parkBufferFlush out => (activeSwitch s out).map fun w => tickTime s (w.stop + 2000)
  | .switchAbort out => (activeSwitch s out).map fun w => tickTime s (w.stop + w.deadline)
  | .samplingPulse x => (s.contexts.find? x).map fun c => tickTime s c.pulseAt
  | .idleTimeWake c t => match (s.thread ⟨c, t⟩).run with
    | .idle true (some g) => some (tickTime s g)
    | _ => none
  | _ => none

/-- An event would come before its time while a thread still issues earlier: it has not happened (R13, R96). -/
def early (s : State) (i : Instr) : Bool :=
  match eventTime s i, readyThread s with
  | some g, some r => decide (s.now < g) && decide (r.1 < g)
  | _, _ => false

/-- A refill that is due comes before anything else (R345). -/
def settleRefill (s : State) : State := if s.refillAt ≤ gts s then refill s else s

/-! ## Placing an instruction (the host's question) -/

/-- Where the placed program runs: virtual core 0 of context 1, on sett 0, thread T0. -/
def bootThread : Tid := ⟨0, 0⟩

def bootEntry : TlbEntry := ⟨1, 0, 512, 0, 5, 7, 0, 1, true⟩

def bootContext : Context :=
  { Context.bare with
    depth := 1
    codeLen := 512
    vaSize := 2 ^ 40
    bootLen := 4096
    bootRights := 5
    setts := [(0, 0)]
    ranges := [⟨0, 4096, 0, 15, 7, 0, 1, 0, 0, true, none⟩] }

/-- A launch as `LNCH` binds it (R342), of one core, whose code image is a given memory. -/
def bootLaunch (code : Memory) : Launch :=
  ⟨1, 0, 1, [0], 0, bootThread, Vector.replicate 8 0, Vector.replicate 8 0, false, code, [], [], [], [], 0, 512⟩

/-- T0 of the launch at its entry, with the code segment of Table 6.7. -/
def bootT0 (t : Thread) (cyc : Nat) : Thread :=
  { t with
    run := .ready
    halted := none
    pc := 0
    readyAt := cyc
    stallEnd := cyc
    chain := none
    segBase := t.segBase.setIfInBounds 0 0x1900000000000000
    segLimit := t.segLimit.setIfInBounds 0 1
    asyncq := []
    stopped := false
    homeOf := none }

end Sys2Proof.Machine
end

