-- ==== Sys2Proof/Machine/Step.lean ====
section
/-! DEFINITION. One step of the package. -/

namespace Sys2Proof.Machine

open Sys2Proof

/-- One step: the agent at the head of the agenda moves, or one that the model picks. -/
def step (s₀ : State) : Host.Outcome State Fault Refusal :=
  let s := settleRefill s₀
  match s.agenda with
  | .event i :: rest => if early s i then .next { s with agenda := rest } else exec i { s with agenda := rest }
  | .thread t :: rest => runThread t { s with agenda := rest }
  | [] => automatic s

/-- The state with an instruction word where the next step fetches (log 12): a launch of context 1 on virtual core 0, whose
code image holds the word at T0's entry. -/
def State.withFetchWord (s : State) (_nbits w : Nat) : State :=
  let c := s.core 0
  let x := s.sett 0
  { s with
    contexts := s.contexts.insert 1 bootContext
    setts := s.setts.insert 0 { x with place := some 0, part := 1, holder := 1, vsett := 0, rangeTlb := [bootEntry] }
    launches := s.launches.insert 0 (bootLaunch (Memory.putBytes [] 0 (leBytes w 4)))
    cores := s.cores.insert 0 { c.setThread 0 (bootT0 (c.thread 0) 0) with launch := some 0 }
    cur := bootThread
    teardowns := []
    meth := none
    agenda := [.thread bootThread] }

end Sys2Proof.Machine
end

