-- ==== Sys2Proof/Safety.lean ====
section
/-! DEFINITION. What counts as a safe step and a well-kept state, and the terms in which the statements about instructions
speak: how an instruction issues (R38 to R50, R96, R112, R205, R407), what it leaves unchanged, and what it writes. -/

namespace Sys2Proof

open Machine

/-- A step that neither faults nor is refused. -/
def SafeStep (s : State) : Prop := ∃ s', step s = .next s'

/-- Every memory of a state is in canonical form: addresses rising, no byte that an unlisted address reads as. -/
structure MemoryWf (s : State) : Prop where
  dram : s.dram.wf = true
  archive : s.archive.wf = true
  outside : s.outside.wf = true
  spads : ∀ c, (s.core c).spad.wf = true
  setts : ∀ i, (s.sett i).mem.wf = true

/-! ## How an instruction issues -/

/-- What the frame of an instruction depends on: the registers it reads, whether HMOD PRED guards it, its class (Table 12.4),
whether an away thread returns home first (R161), the threads it is for (Table 1.2), whether the thread keeps its
snapshots and read targets (R297, R282), and for which owed results it waits beside those of its registers (R59, R119). -/
structure Form where
  reads : List (RegFile × Nat) := []
  guarded : Bool := true
  cls : OClass := .spec
  home : Bool := false
  role : Role := .any
  keeps : Bool := false
  awaits : Await := .none

/-- A form that reads the given general registers. -/
def gForm (rs : List (BitVec 5)) : Form := { reads := rs.map fun r => (.g, r.toNat) }

/-- A form that reads the given predicates. -/
def kForm (ks : List Nat) : Form := { reads := ks.map fun k => (.k, k) }

/-- The registers that an instruction of the form reads, its guard first (R112). -/
def Form.allReads (f : Form) (t : Thread) : List (RegFile × Nat) := if f.guarded then (.k, t.predIx) :: f.reads else f.reads

/-- An operation has the form. -/
structure Machine.Op.Has (op : Op) (f : Form) : Prop where
  legal : op.legal = true
  reads : op.reads = f.reads
  guarded : op.guarded = f.guarded
  cls : op.cls = f.cls
  home : op.home = f.home
  role : op.role = f.role
  keeps : op.keeps = f.keeps
  awaits : op.awaits = f.awaits

/-- The current thread. -/
def Machine.State.me (s : State) : Thread := s.thread s.cur

/-- The owed results beside its registers for which an instruction of the form waits: none where its guard is false (R112). -/
def Form.waitsFor (f : Form) (t : Thread) : Await := if f.guarded && !(t.readK t.predIx).getLsbD 0 then .none else f.awaits

/-- No posted store of the thread's protected task must still wait for the hint chain of a task that it aborts (R202). -/
def Unheld (s : State) : Prop := s.meth = none → postedWaits (atIssue s) s.cur = false

/-- Every register that an instruction of form `f` reads, and that an interlocked producer owes, is written by the cycle of its
issue (R42), and so are the other results for which it waits (R59, R119); no posted store of its protected task must still wait for
the hint chain of a task that it aborts (R202). -/
def Arrived (f : Form) (s : State) : Prop :=
  s.meth = none → postedWaits (atIssue s) s.cur = false ∧
    lateRead s.me (issueCycle (atIssue s) s.cur) (f.waitsFor s.me) (f.allReads s.me) = none

/-- An instruction of form `f` of the current thread issues and runs: the thread may execute it, no source is short where
TCTL.CHK is 1, its guard is true, R205's class lets it run, and it is at home where it must be (R407). -/
structure Issues (f : Form) (s : State) : Prop where
  context : s.cur.thr < 16
  role : f.role.admits s.cur.thr = true ∨ s.meth.isSome = true
  arrived : Arrived f s
  inTime : s.me.chk = true → firstShort s.me (f.allReads s.me) = none
  guard : f.guarded = true → (s.me.readK s.me.predIx).getLsbD 0 = true
  task : s.meth = none → ∀ y, taskOf s s.cur = some y → f.cls ≠ .forbid ∧ (f.cls = .irrev → y.prot = true)
  home : f.home = true → s.me.homeOf = none

/-- The state in which the instruction runs: the cycle of its issue; what an earlier search or read kept is dropped, and what an
irreversible instruction starts comes after what the thread has acquired (R78, R91). -/
def begun (f : Form) (s : State) : State :=
  let z := atIssue s
  let z := if f.keeps then z else z.setThread s.cur (dropKept z.me)
  if f.cls = .irrev then passOn z s.cur else z

/-- The instruction `i` answers a next state of which `P` holds. -/
def Answers (i : Instr) (s : State) (P : State → Prop) : Prop := ∃ s', exec i s = .next s' ∧ P s'

/-! ## What an instruction leaves unchanged -/

/-- A thread without its pc, its registers and the state of its issue. -/
def Machine.Thread.rest (t : Thread) : Thread :=
  { t with
    pc := 0
    g := Vector.replicate 32 0
    v := Vector.replicate 32 0
    k := Vector.replicate 8 0
    latchD := none
    latchA := none
    latchB := none
    pend := []
    owed := []
    dist := 0
    readyAt := 0
    stallEnd := 0
    yieldFor := []
    chain := none
    fflags := 0
    scGo := false
    turn := none
    snap0 := none
    snap1 := none
    kept0 := none
    kept1 := none }

/-- A core without its threads and its issue slot. -/
def Machine.VCore.rest (c : VCore) : VCore :=
  { c with
    threads := Vector.replicate 16 .reset
    last := 0
    servedAt := []
    freeAt := 0 }

/-- A state without time, the cores and the Scribe's running method. -/
def Machine.State.rest (s : State) : State :=
  { s with
    now := 0
    dies := Vector.replicate 4 .reset
    freeCount := 0
    parkCount := 0
    cores := []
    meth := none }

/-- Only thread `t`, its core's issue slot and time may differ: every memory, every other thread and core, every unit and every
register of the package is the same. -/
structure OnlyThread (t : Tid) (s s' : State) : Prop where
  rest : s'.rest = s.rest
  cores : ∀ c, (s'.core c).rest = (s.core c).rest
  threads : s.meth = none → ∀ u, u ≠ t → s'.thread u = s.thread u
  inMethod : s'.meth.map (fun m => { m with thread := Thread.reset }) = s.meth.map (fun m => { m with thread := Thread.reset })

/-- Thread `t` keeps every register but the listed ones, and everything else but its pc, FFLAGS and its issue state: the values
are those with which the registers end (R40). -/
structure Keeps (t : Tid) (s s' : State) (g v k : List Nat) : Prop where
  g : ∀ i < 32, i ∉ g → (s'.thread t).finalG i = (s.thread t).finalG i
  v : ∀ i < 32, i ∉ v → (s'.thread t).finalV i = (s.thread t).finalV i
  k : ∀ i < 8, i ∉ k → (s'.thread t).finalK i = (s.thread t).finalK i
  rest : (s'.thread t).rest = (s.thread t).rest

/-- The hold latches of a thread are as before (R98). -/
def SameLatches (t : Tid) (s s' : State) : Prop :=
  (s'.thread t).latchD = (s.thread t).latchD ∧ (s'.thread t).latchA = (s.thread t).latchA ∧ (s'.thread t).latchB = (s.thread t).latchB

/-- From `s` to `s'` only registers of thread `t` change: those listed, FFLAGS where `fl`, and the pc, which ends at `pc`;
memory and all else are as before. -/
structure RegsOnly (t : Tid) (s s' : State) (g v k : List Nat) (fl : Bool) (pc : Word) : Prop where
  only : OnlyThread t s s'
  keeps : Keeps t s s' g v k
  latches : SameLatches t s s'
  flags : fl = false → (s'.thread t).fflags = (s.thread t).fflags
  pc : (s'.thread t).pc = pc

/-- `i` writes `x` to register g`d`, unless d is 0 (R20), sets no flag, and changes nothing else but the pc. -/
def WritesG (i : Instr) (f : Form) (d : Nat) (x : Thread → Word) : Prop :=
  ∀ s, Issues f s → Answers i s fun s' =>
    (s'.thread s.cur).finalG d = (if d = 0 then 0 else x s.me) ∧ RegsOnly s.cur s s' [d] [] [] false (s.me.pc + 4)

/-- `i` writes `x` to predicate k`d`, unless d is 0 (R177), and changes nothing else but the pc. -/
def WritesK (i : Instr) (f : Form) (d : Nat) (x : Thread → Pred) : Prop :=
  ∀ s, Issues f s → Answers i s fun s' =>
    (s'.thread s.cur).finalK d = (if d = 0 then 0xFFFF else x s.me) ∧ RegsOnly s.cur s s' [] [] [d] false (s.me.pc + 4)

/-- A jump from a word at a multiple of 4: the pc ends at `pc`, and g1 at the link where `link`; nothing else changes. -/
def Jumps (i : Instr) (f : Form) (link : Bool) (pc : Thread → Word) : Prop :=
  ∀ s, Issues f s → s.me.pc.toNat % 4 = 0 → Answers i s fun s' =>
    (link = true → (s'.thread s.cur).finalG 1 = s.me.pc + 4) ∧ RegsOnly s.cur s s' (if link then [1] else []) [] [] false (pc s.me)

/-- `i` runs: what it does beside registers has led to state `z`; from there g`d` takes `x`, unless d is 0, and the thread is past
the instruction. -/
def Yields (i : Instr) (s z : State) (d : Nat) (x : Word) : Prop :=
  Answers i s fun s' =>
    (s'.thread s.cur).finalG d = (if d = 0 then 0 else x) ∧ RegsOnly s.cur z s' [d] [] [] false ((z.thread s.cur).pc + 4)

/-- `i` runs: its effect is that the state is `z`, and the thread is past the instruction. -/
def Passes (i : Instr) (s z : State) : Prop :=
  Answers i s fun s' => RegsOnly s.cur z s' [] [] [] false ((z.thread s.cur).pc + 4)

/-- `i` runs: its request has left, which is state `z`, and the thread waits for the reply to g`d` (R109). -/
def Sends (i : Instr) (s z : State) (sync : Bool) (d : Nat) : Prop :=
  Answers i s fun s' =>
    OnlyThread s.cur z s' ∧ (s'.thread s.cur).pc = (z.thread s.cur).chainStart ∧
    (∀ n < 32, (s'.thread s.cur).finalG n = (z.thread s.cur).finalG n) ∧
    (s'.thread s.cur).run =
      (if sync then .parkedSync (.reply d ((z.thread s.cur).pc + 4)) z.parkCount else .parkedEngine (.reply d ((z.thread s.cur).pc + 4)) z.parkCount)

/-- `i` runs: its effect is state `z` exactly, but for time and the core's issue slot. -/
def Settles (i : Instr) (s z : State) : Prop :=
  Answers i s fun s' => OnlyThread s.cur z s' ∧ s'.thread s.cur = z.thread s.cur

/-- The step `i` of the package moves the state to `z`, and time passes. -/
def Moves (i : Instr) (s z : State) : Prop := Answers i s fun s' => s' = lapse z

/-! ## Instructions that do not run -/

/-- The instruction raises a precise trap where it issues (R108, R206): nothing else becomes of it. -/
def Raises (i : Instr) (s : State) (code : Nat) (eval : Word) : Prop := exec i s = stopped (atIssue s) s.cur (.trap code eval)

/-- The thread may be executing an instruction of form `f`. -/
def Admits (f : Form) (s : State) : Prop :=
  s.cur.thr < 16 ∧ (f.role.admits s.cur.thr = true ∨ s.meth.isSome = true) ∧ Arrived f s

/-- With its guard false `i` issues and does nothing but pass (R112). -/
def Skips (i : Instr) (f : Form) : Prop :=
  ∀ s, Admits f s → (s.me.chk = true → firstShort s.me (f.allReads s.me) = none) → (s.me.readK s.me.predIx).getLsbD 0 = false →
    Answers i s fun s' => RegsOnly s.cur s s' [] [] [] false (s.me.pc + 4)

/-- With TCTL.CHK 1 a read that is not in time raises STALL_SHORT, whatever the guard (R43, R407). -/
def Checks (i : Instr) (f : Form) : Prop :=
  ∀ s e, Admits f s → s.me.chk = true → firstShort s.me (f.allReads s.me) = some e → Raises i s cSTALL_SHORT e

/-- While a register that the instruction reads is owed by an interlocked producer, the thread does not issue: it is ineligible
until the last such register is written, and nothing else changes (R42). -/
def WaitsFor (i : Instr) (f : Form) (s : State) : Prop :=
  ∀ due, s.cur.thr < 16 → s.meth = none → f.role.admits s.cur.thr = true → postedWaits (atIssue s) s.cur = false →
    lateRead s.me (issueCycle (atIssue s) s.cur) (f.waitsFor s.me) (f.allReads s.me) = some due →
    exec i s = .next ((atIssue s).setThread s.cur { s.me with readyAt := max s.me.readyAt due })

/-! ## Vector instructions -/

/-- The form of a vector instruction: the registers that no valid latch supplies, and the others it reads (R97, R98). -/
def Machine.VPos.form (p : VPos) (extra : List (RegFile × Nat)) (s : State) : Form :=
  { reads := ((p.fileReads s.me).map fun r => (.v, r)) ++ extra, guarded := false }

/-- The state whose current thread has loaded its latches for the positions (R98). -/
def latched (p : VPos) (s : State) : State := s.setThread s.cur (p.load s.me)

/-- The flags of the active lanes together (R165). -/
def laneFlags (k : Pred) (fl : Nat → Nat) : Nat :=
  (List.range 16).foldl (fun acc i => if k.getLsbD i then orFlags acc (fl i) else acc) 0

/-- `i` writes the active lanes of v`d`, lane by lane, from the values of its positions d, a and b; the other lanes stay;
FFLAGS gains the flags of the active lanes; each position read loads its latch; nothing else changes but the pc (R165). -/
def WritesLanes (i : Instr) (p : VPos) (extra : List (RegFile × Nat)) (d : Nat) (k : Thread → Pred)
    (x : Thread → Vec → Vec → Vec → Nat → Nat × Nat) : Prop :=
  ∀ s, Issues (p.form extra s) s → Answers i s fun s' =>
    (∀ l < 16, lane ((s'.thread s.cur).finalV d) l =
      if (k s.me).getLsbD l then BitVec.ofNat 32 (x s.me (p.valD s.me) (p.valA s.me) (p.valB s.me) l).1 else lane (s.me.finalV d) l) ∧
    (s'.thread s.cur).fflags =
      (addFlags s.me (laneFlags (k s.me) fun l => (x s.me (p.valD s.me) (p.valA s.me) (p.valB s.me) l).2)).fflags ∧
    RegsOnly s.cur (latched p s) s' [] [d] [] true (s.me.pc + 4)

/-- `i` writes the whole of v`d`, and FFLAGS gains `fl`. -/
def WritesV (i : Instr) (p : VPos) (extra : List (RegFile × Nat)) (d : Nat) (x : Thread → Vec → Vec → Vec → Vec)
    (fl : Thread → Vec → Vec → Vec → Nat) : Prop :=
  ∀ s, Issues (p.form extra s) s → Answers i s fun s' =>
    (s'.thread s.cur).finalV d = x s.me (p.valD s.me) (p.valA s.me) (p.valB s.me) ∧
    (s'.thread s.cur).fflags = (addFlags s.me (fl s.me (p.valD s.me) (p.valA s.me) (p.valB s.me))).fflags ∧
    RegsOnly s.cur (latched p s) s' [] [d] [] true (s.me.pc + 4)

/-- A vector compare: predicate k`d` takes a bit for each lane, unless d is 0 (R170, R177). -/
def WritesVK (i : Instr) (p : VPos) (extra : List (RegFile × Nat)) (d : Nat) (x : Thread → Vec → Vec → Nat → Bool) : Prop :=
  ∀ s, Issues (p.form extra s) s → Answers i s fun s' =>
    (∀ l < 16, ((s'.thread s.cur).finalK d).getLsbD l = (if d = 0 then true else x s.me (p.valA s.me) (p.valB s.me) l)) ∧
    RegsOnly s.cur (latched p s) s' [] [] [d] false (s.me.pc + 4)

/-! ## Accesses to memory -/

/-- In the state `y` an access of the current thread is allowed and reaches the places `ks` by way of `via`
(R101, R137, R140, R161); once R201 has tracked it for an ordered task, the state is `z`. -/
structure Reaches (y : State) (t : Tid) (addr : Word) (size need : Nat) (align : Bool) (atom : Option (Nat × Bool)) (rd wr : Bool)
    (via : Via) (ks : List Nat) (z : State) : Prop where
  allowed : access y t addr size need align atom = .ok (via, ks)
  tracked : track y t via ks rd wr = .ok z

/-- An access of the order may be performed now: an SC access waits until its window has closed (R81). -/
def OrderOpen (s : State) (ord : Nat) : Prop := ord = 3 → s.meth.isSome = true ∨ s.me.scGo = true

/-- `i` runs: the bytes `bs` are stored at the places `ks` of the state `z` (noted where an engine may still read the old ones,
log 57), every other byte of memory reads as before, no register changes, and the thread is past the instruction. -/
def Stores (i : Instr) (s z : State) (ks : List Nat) (bs : List Byte) : Prop :=
  Answers i s fun s' =>
    RegsOnly s.cur (writePlaces (noteStore z s.cur ks) ks bs) s' [] [] [] false
      (((writePlaces (noteStore z s.cur ks) ks bs).thread s.cur).pc + 4) ∧
    (MemoryWf z → (∀ k ∈ ks, k < 5 * 2 ^ 64) →
      (∀ q < 5 * 2 ^ 64, q ∉ ks → readPlace s' q = readPlace z q) ∧ (ks.Nodup → readPlaces s' ks = bs))

/-- `i` runs: the bytes are stored as in `Stores`, and g`d` takes `x`, unless d is 0. -/
def StoresAndYields (i : Instr) (s z : State) (ks : List Nat) (bs : List Byte) (d : Nat) (x : Word) : Prop :=
  Answers i s fun s' =>
    (s'.thread s.cur).finalG d = (if d = 0 then 0 else x) ∧
    RegsOnly s.cur (writePlaces (noteStore z s.cur ks) ks bs) s' [d] [] [] false
      (((writePlaces (noteStore z s.cur ks) ks bs).thread s.cur).pc + 4) ∧
    (MemoryWf z → (∀ k ∈ ks, k < 5 * 2 ^ 64) →
      (∀ q < 5 * 2 ^ 64, q ∉ ks → readPlace s' q = readPlace z q) ∧ (ks.Nodup → readPlaces s' ks = bs))

end Sys2Proof
end

