-- ==== Sys2Proof/Certificates/Slice0/Obligations.lean ====
section
/-! DEFINITION. The statements for the provers: what the instructions and the steps of the package do, family by family, each with
its frame, and the laws of decoding, of memory and of reset. A statement marked as the model's choice names its log entry. -/

open Sys2Proof Sys2Proof.Machine

/-- The words of the scale4 listing (Table 3.8) and the word of RET (R122) decode to the instructions that the table names, with
the operands it names. -/
def Obligations.WordsReadBack : Prop :=
  decodeWord 0xE0000000 = .ok (.himm 0) ∧
  decodeWord 0xE1234567 = .ok (.himm 0x1234567) ∧
  decodeWord 0x0630089A = .ok (.addi 0 24 0 0x89A) ∧
  decodeWord 0xE4800000 = .ok (.hmod 2 0 0 0 0 0 0) ∧
  decodeWord 0x02884C00 = .ok (.add 2 4 4 24) ∧
  decodeWord 0x440A4480 = .ok (.ldo 0 5 4 2 1 0 0) ∧
  decodeWord 0x26001000 = .ok (.jmpr 0 0 1 0)

/-- For every well-formed instruction that has a word, with its operands, reserved fields and hold bits at every value the
encoding admits: the decoder reads exactly that instruction back from its word. -/
def Obligations.DecodeEncode : Prop :=
  ∀ i w, encode i = some w → i.wellFormed = true → decodeWord w = .ok i

/-- For every word of 32 bits: if it decodes to an instruction, that instruction is well-formed and its word is the one decoded,
so no bit of a word is dropped and no two words stand for one instruction. -/
def Obligations.EncodeDecode : Prop :=
  ∀ w i, decodeWord w = .ok i → i.wellFormed = true ∧ encode i = some w

/-- When the agenda names a thread that may issue, with no pending trap to take, no return home due, no debug stop, no refill of
the budgets due, and the word fetched at its pc decodes to an instruction, the step is the meaning of that instruction, followed
by what ends a turn (the resident slot, the yields that wait for it, its interlock, a stop and a debugger's single step). An
instruction that only waits for an owed result leaves the breakpoints as they were and the thread ineligible until then. -/
def Obligations.StepRunsDecoded : Prop :=
  ∀ (s : State) (t : Tid) (rest : List Move) (w : BitVec 32) (i : Instr),
    let a : State := { s with agenda := rest }
    let z := residentSlot { endYield a t with cur := t } t.core
    gts s < s.refillAt → s.agenda = .thread t :: rest → mayIssue a t = true → (z.thread t).owedTrap = none → asyncReady z t = false →
    ((z.thread t).homeOf = none ∨ (z.thread t).chain ≠ none ∨ (z.thread t).inh = true ∨ (z.thread (homeTid z t)).asyncq = []) →
    ((z.thread t).stepOne = false ∨ (z.thread t).passBreak = true ∨ (z.thread t).chain ≠ none) →
    (breakCheck z t).2 = none → fetchWord (breakCheck z t).1 t = .ok w → decodeWord w = .ok i →
    let y := (breakCheck z t).1
    step s = afterTurn t a (match exec i (useAt y (viewOf y t) (y.thread t).pc 4) with
      | .next x =>
        if onlyWaits y x then .next (z.setThread t { z.thread t with readyAt := (x.thread t).readyAt }) else .next (chainDone x t)
      | o => o)

/-- A word that does not decode, an HMOD or HSCH.IDLE with an unallocated field, and a role-reserved instruction outside its
role raise ILLEGAL_INSTR precisely, whatever the guard; EVAL holds the word, zero-extended. With TCTL.INH 0 so does ERET. At
home, with no result of DIV, REM or a vector load owed, the trap is entered at once. -/
def Obligations.UnallocatedWordsRaise : Prop :=
  (∀ w e s, Unheld s → decodeWord w = .error e → runWord w s = stopped (atIssue s) s.cur (.trap cILLEGAL (w.setWidth 64))) ∧
  (∀ w s, Unheld s → Raises (.illegalInstr w) s cILLEGAL (w.setWidth 64)) ∧
  (∀ w s, Unheld s → s.cur.thr < 16 → s.meth = none → s.me.homeOf = none → (∀ y, taskOf s s.cur = some y → y.prot = true) →
    lateRead s.me (issueCycle (atIssue s) s.cur) .slow [] = none →
    ∃ y, RegsOnly s.cur s y [] [] [] false s.me.pc ∧
      exec (.illegalInstr w) s = .next (lapse (takeTrap y s.cur cILLEGAL (w.setWidth 64) s.me.chainStart false))) ∧
  (∀ p r c t o x f s, Unheld s → (Instr.hmod p r t c o f x).wellFormed = false →
    Raises (.hmod p r t c o f x) s cILLEGAL ((114#7 ++ p ++ r ++ t ++ c ++ o ++ f ++ x).setWidth 64)) ∧
  (∀ x u s, Unheld s → (Instr.hschIdle x u).wellFormed = false → Raises (.hschIdle x u) s cILLEGAL ((113#7 ++ 1#1 ++ x ++ u).setWidth 64)) ∧
  (∀ st d a b s, Unheld s → s.me.inh = false → Raises (.eret st d a b) s cILLEGAL ((24#7 ++ st ++ d ++ a ++ b ++ 0#7).setWidth 64)) ∧
  (∀ (op : Op) s body, Unheld s → (op.legal = false ∨ (op.role.admits s.cur.thr = false ∧ s.meth = none)) →
    issue op s body = stopped (conflictEnd op.conflict (atIssue s) s.cur) s.cur (.trap cILLEGAL (op.word.setWidth 64)))

/-- Each instruction of the chapter's integer, compare, jump and system groups, with its HMOD predicate false, issues and
passes: it writes no register, sets no flag, transfers no control, raises no trap and changes no memory. -/
def Obligations.FalseGuardPasses : Prop :=
  ∀ (st k x3 : BitVec 3) (d a b : BitVec 5) (x : BitVec 2) (m : BitVec 12) (o : BitVec 22) (e : BitVec 15) (i : Instr) (f : Form),
    (i, f) ∈ ([
      (.add st d a b, gForm [a, b]), (.sub st d a b, gForm [a, b]), (.and st d a b, gForm [a, b]), (.or st d a b, gForm [a, b]),
      (.xor st d a b, gForm [a, b]), (.shl st d a b, gForm [a, b]), (.shr st d a b, gForm [a, b]), (.sar st d a b, gForm [a, b]),
      (.min st d a b, gForm [a, b]), (.minN st d a b, gForm [a, b]), (.max st d a b, gForm [a, b]), (.maxN st d a b, gForm [a, b]),
      (.leaB st d a b, gForm [a, b]), (.leaH st d a b, gForm [a, b]), (.leaW st d a b, gForm [a, b]), (.leaD st d a b, gForm [a, b]),
      (.popc st d a b, gForm [a]), (.clz st d a b, gForm [a]), (.ctz st d a b, gForm [a]), (.brev st d a b, gForm [a]),
      (.bext st d a b, gForm [a, b]), (.bins st d a b, gForm [d, a, b]), (.sel st d a b, gForm [d, a, b]),
      (.cmpEq st x k a b, gForm [a, b]), (.cmpNe st x k a b, gForm [a, b]), (.cmpLt st x k a b, gForm [a, b]),
      (.cmpLe st x k a b, gForm [a, b]), (.cmpLtn st x k a b, gForm [a, b]), (.cmpLen st x k a b, gForm [a, b]),
      (.cmpiEq st k a m, gForm [a]), (.cmpiNe st k a m, gForm [a]), (.cmpiLt st k a m, gForm [a]), (.cmpiLtn st k a m, gForm [a]),
      (.addi st d a m, gForm [a]), (.andi st d a m, gForm [a]), (.ori st d a m, gForm [a]), (.xori st d a m, gForm [a]),
      (.shli st d a m, gForm [a]), (.shri st d a m, gForm [a]), (.sari st d a m, gForm [a]),
      (.mul st d a b, gForm [a, b]), (.mulh st d a b, gForm [a, b]), (.mulhN st d a b, gForm [a, b]),
      (.div st d a b, gForm [a, b]), (.divN st d a b, gForm [a, b]), (.rem st d a b, gForm [a, b]), (.remN st d a b, gForm [a, b]),
      (.jmp st o, gForm []), (.call st o, gForm []), (.jmpr st d a b, gForm [a]), (.callr st d a b, gForm [a]),
      (.kand st d a b, kForm [a.toNat % 8, b.toNat % 8]), (.kor st d a b, kForm [a.toNat % 8, b.toNat % 8]),
      (.kxor st d a b, kForm [a.toNat % 8, b.toNat % 8]), (.knot st d a b, kForm [a.toNat % 8]),
      (.kmovK st d a x3, kForm [a.toNat % 8]), (.kmovFromG st d a x3, gForm [a]), (.kmovToG st d a x3, kForm [a.toNat % 8]),
      (.sys st d a m, { gForm [] with cls := .irrev, awaits := .slow }),
      (.trap st d a m, { gForm [] with cls := .irrev, awaits := .slow }),
      (.brk st e, { gForm [] with cls := .irrev }), (.mark st d a b, gForm [a, b])] : List (Instr × Form)) →
    Skips i f

/-- An instruction that reads a register too early, its guard among its reads and whether the guard is true or false, raises
STALL_SHORT precisely; EVAL holds the register, its file and the missing distance. A branch, integer, predicate and vector
instructions are named. While an interlocked producer still owes a register that the instruction reads, the thread is ineligible
until it is written, and nothing else changes. -/
def Obligations.ShortReadsRaise : Prop :=
  (∀ (st k : BitVec 3) (d a b : BitVec 5) (m : BitVec 12) (n : BitVec 1) (o : BitVec 18) (i : Instr) (f : Form),
    (i, f) ∈ ([(.add st d a b, gForm [a, b]), (.bins st d a b, gForm [d, a, b]), (.mul st d a b, gForm [a, b]),
      (.div st d a b, gForm [a, b]), (.addi st d a m, gForm [a]), (.cmpiLt st k a m, gForm [a]), (.jmpr st d a b, gForm [a]),
      (.br st k n o, { kForm [k.toNat] with guarded := false }), (.kand st d a b, kForm [a.toNat % 8, b.toNat % 8])] : List (Instr × Form)) → Checks i f) ∧
  (∀ (st k : BitVec 3) (d a b : BitVec 5) (h j : BitVec 1) (u : BitVec 2) s e,
    let p : VPos := { a := some a.toNat, b := some b.toNat, ha := h == 1#1, hb := j == 1#1 }
    s.cur.thr < 16 → Arrived (p.form [(.k, k.toNat)] s) s → s.me.chk = true → firstShort s.me (p.form [(.k, k.toNat)] s).reads = some e →
      exec (.vadd st d a b k h j u) s =
        stopped (conflictEnd (bankConflicts (p.fileReads s.me)) (atIssue s) s.cur) s.cur (.trap cSTALL_SHORT e)) ∧
  (∀ (t : Thread) (f : RegFile) (i n : Nat) (rs : List (RegFile × Nat)), (i ≠ 0 ∨ f = .v) → shortfall f i t.dist t.pend = some n →
    firstShort t ((f, i) :: rs) =
      some (BitVec.ofNat 64 (i + 32 * (match f with | .g => 0 | .v => 1 | .k => 2) + 256 * (n % 256)))) ∧
  (∀ (st k : BitVec 3) (d a b : BitVec 5) (m : BitVec 12) (n : BitVec 1) (o : BitVec 18) (i : Instr) (f : Form) (s : State),
    (i, f) ∈ ([(.add st d a b, gForm [a, b]), (.mul st d a b, gForm [a, b]), (.addi st d a m, gForm [a]), (.jmpr st d a b, gForm [a]),
      (.div st d a b, gForm [a, b]), (.br st k n o, { kForm [k.toNat] with guarded := false }),
      (.kmovFromG st d a k, gForm [a])] : List (Instr × Form)) → WaitsFor i f s) ∧
  (∀ (st : BitVec 3) (d a : BitVec 5) (z : BitVec 2) (q : BitVec 10) (s : State), s.me.ordMod ≠ 2 →
    WaitsFor (.ld st d a z q) (gForm [a]) s ∧ WaitsFor (.ldS st d a z q) (gForm [a]) s)

/-- In a context other than 0, with TCTL.INH 0, a handler in TVEC and the class not reflected, a trap of code c other than
SYSCALL and DOUBLE_TRAP sets EPC to the chain, CAUSE to c (with bit 14 for an asynchronous trap), EVAL and TCTL.INH, completes
the pending results, drops the hold latches and continues at TVEC, 3 cycles later; nothing else of the package changes once the
thread's posted stores are performed. With TCTL.INH 1 the trap becomes DOUBLE_TRAP with the original cause in EVAL, and the
thread is held for its parent. -/
def Obligations.TrapEntry : Prop :=
  ∀ (s : State) (t : Tid) (code : Nat) (eval epc : Word) (async : Bool),
    let z := drainPosted s t
    let th := z.thread t
    t.thr < 16 → s.meth = none → ctxOf s t ≠ 0 →
    ((s.thread t).inh = false → (s.thread t).tvec >>> 2 ≠ 0 → (s.ctx (ctxOf s t)).reflect.getLsbD (code / 16) = false →
      code ≠ cSYSCALL → code ≠ cDOUBLE_TRAP → code < 256 →
      let s' := takeTrap s t code eval epc async
      let x := s'.thread t
      OnlyThread t z s' ∧ x.epc = epc &&& ~~~3#64 ∧ x.cause.toNat % 256 = code ∧ x.cause.getLsbD 14 = async ∧ x.eval = eval ∧
      x.inh = true ∧ x.latchD = none ∧ x.latchA = none ∧ x.latchB = none ∧ x.pend = [] ∧ x.pc = th.tvec &&& ~~~3#64 ∧
      x.run = .ready ∧ x.readyAt = dieCycle z (dieOf z t.core) + 3 ∧
      (∀ i < 32, x.readG i = th.finalG i ∧ x.readV i = th.finalV i) ∧ (∀ i < 8, x.readK i = th.finalK i)) ∧
    ((s.thread t).inh = true →
      let s' := takeTrap s t code eval epc async
      let x := s'.thread t
      OnlyThread t z { s' with flights := z.flights } ∧ x.cause.toNat % 256 = cDOUBLE_TRAP ∧
      x.eval = BitVec.ofNat 64 (code + if async then 256 else 0) ∧ x.epc = epc &&& ~~~3#64 ∧ x.run = .held)

/-- With TCTL.INH 1, ERET performs the thread's posted stores, completes every pending result, drops the hold latches, clears
TCTL.INH and continues at EPC, once the results of DIV and REM are written; every other register of the thread and everything
else of the package is unchanged. -/
def Obligations.EretReturns : Prop :=
  ∀ (st : BitVec 3) (d a b : BitVec 5) (s : State),
    let f : Form := { home := true, awaits := .divide }
    let z := drainPosted (begun f s) s.cur
    let th := z.thread s.cur
    Issues f s → s.me.inh = true →
    Answers (.eret st d a b) s fun s' =>
      let x := s'.thread s.cur
      OnlyThread s.cur z s' ∧ x.pc = th.epc &&& ~~~3#64 ∧ x.inh = false ∧ x.tctl = setBit th.tctl 4 false ∧
      x.latchD = none ∧ x.latchA = none ∧ x.latchB = none ∧ x.pend = [] ∧ x.chain = none ∧
      (∀ i < 32, x.readG i = th.finalG i ∧ x.readV i = th.finalV i) ∧ (∀ i < 8, x.readK i = th.finalK i) ∧
      ({ x with tctl := 0 } : Thread).rest = ({ th with tctl := 0 } : Thread).rest

/-- Each unguarded-or-guarded register-register operation of MAJ 0x01 but BEXT and BINS writes to gD the value that Table 7.2
gives, computed on integers and reduced modulo 2^64 (nothing where D is 0), sets no flag, and leaves every other register, the
hold latches, memory and everything else of the package as it was; the pc moves to the next word. -/
def Obligations.IntegerArithmetic : Prop :=
  ∀ (st : BitVec 3) (d a b : BitVec 5),
    (∀ (i : Instr) (x : Word → Word → Word), (i, x) ∈ ([
      (.add st d a b, fun x y => BitVec.ofNat 64 (x.toNat + y.toNat)),
      (.sub st d a b, fun x y => BitVec.ofInt 64 (x.toInt - y.toInt)),
      (.and st d a b, fun x y => x &&& y), (.or st d a b, fun x y => x ||| y), (.xor st d a b, fun x y => x ^^^ y),
      (.shl st d a b, fun x y => BitVec.ofNat 64 (x.toNat * 2 ^ (y.toNat % 64))),
      (.shr st d a b, fun x y => BitVec.ofNat 64 (x.toNat / 2 ^ (y.toNat % 64))),
      (.sar st d a b, fun x y => BitVec.ofInt 64 (x.toInt / 2 ^ (y.toNat % 64))),
      (.min st d a b, fun x y => if x.toInt ≤ y.toInt then x else y),
      (.minN st d a b, fun x y => if x.toNat ≤ y.toNat then x else y),
      (.max st d a b, fun x y => if x.toInt ≤ y.toInt then y else x),
      (.maxN st d a b, fun x y => if x.toNat ≤ y.toNat then y else x),
      (.leaB st d a b, fun x y => BitVec.ofNat 64 (x.toNat + y.toNat)),
      (.leaH st d a b, fun x y => BitVec.ofNat 64 (x.toNat + 2 * y.toNat)),
      (.leaW st d a b, fun x y => BitVec.ofNat 64 (x.toNat + 4 * y.toNat)),
      (.leaD st d a b, fun x y => BitVec.ofNat 64 (x.toNat + 8 * y.toNat))] : List (Instr × (Word → Word → Word))) →
      WritesG i (gForm [a, b]) d.toNat fun t => x (t.readG a.toNat) (t.readG b.toNat)) ∧
    (∀ (i : Instr) (x : Word → Word), (i, x) ∈ ([
      (.popc st d a b, fun x => BitVec.ofNat 64 ((List.range 64).filter fun j => x.getLsbD j).length),
      (.clz st d a b, fun x => BitVec.ofNat 64 (((List.range 64).find? fun j => x.getLsbD (63 - j)).getD 64)),
      (.ctz st d a b, fun x => BitVec.ofNat 64 (((List.range 64).find? fun j => x.getLsbD j).getD 64)),
      (.brev st d a b, fun x => BitVec.ofNat 64 ((List.range 64).foldl (fun n j => 2 * n + (x.getLsbD j).toNat) 0))] :
        List (Instr × (Word → Word))) →
      WritesG i (gForm [a]) d.toNat fun t => x (t.readG a.toNat)) ∧
    WritesG (.sel st d a b) (gForm [d, a, b]) d.toNat fun t => if t.readG d.toNat ≠ 0 then t.readG a.toNat else t.readG b.toNat

/-- With pos = gB[5:0] and w = min(gB[14:8], 64), the other bits of gB ignored, BEXT writes (gA >> pos) & (2^w - 1) to gD; BINS
writes (gD & ~m) | ((gA << pos) & m) with m = ((2^w - 1) << pos) mod 2^64. Neither changes anything else but the pc, and a write
to g0 is discarded. -/
def Obligations.BitFields : Prop :=
  ∀ (st : BitVec 3) (d a b : BitVec 5),
    let pos (t : Thread) : Nat := (t.readG b.toNat).toNat % 64
    let w (t : Thread) : Nat := min ((t.readG b.toNat).toNat / 256 % 128) 64
    let m (t : Thread) : Word := BitVec.ofNat 64 ((2 ^ w t - 1) * 2 ^ pos t)
    WritesG (.bext st d a b) (gForm [a, b]) d.toNat (fun t =>
      BitVec.ofNat 64 ((t.readG a.toNat).toNat / 2 ^ pos t % 2 ^ w t)) ∧
    WritesG (.bins st d a b) (gForm [d, a, b]) d.toNat (fun t =>
      (t.readG d.toNat &&& ~~~m t) ||| ((t.readG a.toNat <<< pos t) &&& m t))

/-- ADDI, ANDI, ORI, XORI, SHLI, SHRI and SARI write gA op imm to gD, a shift by imm[5:0]; they set no flag and change nothing
else but the pc. imm is sext12(imm12); with one HIMM its payload lies above it, with two the first assembled lies above the
second, and the whole is sign-extended. -/
def Obligations.Immediates : Prop :=
  (∀ (st : BitVec 3) (d a : BitVec 5) (m : BitVec 12) (i : Instr) (x : Word → Word → Word), (i, x) ∈ ([
      (.addi st d a m, fun x y => BitVec.ofNat 64 (x.toNat + y.toNat)),
      (.andi st d a m, fun x y => x &&& y), (.ori st d a m, fun x y => x ||| y), (.xori st d a m, fun x y => x ^^^ y),
      (.shli st d a m, fun x y => BitVec.ofNat 64 (x.toNat * 2 ^ (y.toNat % 64))),
      (.shri st d a m, fun x y => BitVec.ofNat 64 (x.toNat / 2 ^ (y.toNat % 64))),
      (.sari st d a m, fun x y => BitVec.ofInt 64 (x.toInt / 2 ^ (y.toNat % 64)))] : List (Instr × (Word → Word → Word))) →
    WritesG i (gForm [a]) d.toNat fun t => x (t.readG a.toNat) (t.imm m)) ∧
  (∀ (t : Thread) (m : BitVec 12), t.himm = [] → (t.imm m).toInt = m.toInt) ∧
  (∀ (t : Thread) (m : BitVec 12) (p : BitVec 25), t.himm = [p] → (t.imm m).toInt = p.toInt * 2 ^ 12 + m.toNat) ∧
  (∀ (t : Thread) (m : BitVec 12) (p q : BitVec 25), t.himm = [q, p] →
    (t.imm m).toInt = p.toInt * 2 ^ 37 + q.toNat * 2 ^ 12 + m.toNat)

/-- Each compare writes 0xFFFF to kD if its condition holds and 0 otherwise (nothing where D is 0), .ltn and .len comparing as
n64, CMPI against the immediate; no flag, no other register, no memory and nothing else changes but the pc. KAND, KOR, KXOR,
KNOT and KMOV write a predicate (k0 discards a write and reads as all ones); KMOV to g zero-extends the predicate, KPOPC counts
its bits; KPACK writes k0 to k7 into lanes 0 to 7 of vD and 0 into the others; KUNPK writes k1 to k7 from lanes 1 to 7 of vA. No
flag, no other register and no memory changes. -/
def Obligations.ComparesAndPredicates : Prop :=
  (
  ∀ (st k : BitVec 3) (x : BitVec 2) (a b : BitVec 5) (m : BitVec 12),
    (∀ (i : Instr) (c : Word → Word → Bool), (i, c) ∈ ([
      (.cmpEq st x k a b, fun x y => decide (x.toNat = y.toNat)), (.cmpNe st x k a b, fun x y => decide (x.toNat ≠ y.toNat)),
      (.cmpLt st x k a b, fun x y => decide (x.toInt < y.toInt)), (.cmpLe st x k a b, fun x y => decide (x.toInt ≤ y.toInt)),
      (.cmpLtn st x k a b, fun x y => decide (x.toNat < y.toNat)), (.cmpLen st x k a b, fun x y => decide (x.toNat ≤ y.toNat))] :
        List (Instr × (Word → Word → Bool))) →
      WritesK i (gForm [a, b]) k.toNat fun t => if c (t.readG a.toNat) (t.readG b.toNat) then 0xFFFF else 0) ∧
    (∀ (i : Instr) (c : Word → Word → Bool), (i, c) ∈ ([
      (.cmpiEq st k a m, fun x y => decide (x.toNat = y.toNat)), (.cmpiNe st k a m, fun x y => decide (x.toNat ≠ y.toNat)),
      (.cmpiLt st k a m, fun x y => decide (x.toInt < y.toInt)), (.cmpiLtn st k a m, fun x y => decide (x.toNat < y.toNat))] :
        List (Instr × (Word → Word → Bool))) →
      WritesK i (gForm [a]) k.toNat fun t => if c (t.readG a.toNat) (t.imm m) then 0xFFFF else 0)) ∧
  (
  ∀ (st x : BitVec 3) (d a b : BitVec 5),
    let ka := a.toNat % 8
    let kb := b.toNat % 8
    WritesK (.kand st d a b) (kForm [ka, kb]) (d.toNat % 8) (fun t => t.readK ka &&& t.readK kb) ∧
    WritesK (.kor st d a b) (kForm [ka, kb]) (d.toNat % 8) (fun t => t.readK ka ||| t.readK kb) ∧
    WritesK (.kxor st d a b) (kForm [ka, kb]) (d.toNat % 8) (fun t => t.readK ka ^^^ t.readK kb) ∧
    WritesK (.knot st d a b) (kForm [ka]) (d.toNat % 8) (fun t => ~~~t.readK ka) ∧
    WritesK (.kmovK st d a x) (kForm [ka]) (d.toNat % 8) (fun t => t.readK ka) ∧
    WritesK (.kmovFromG st d a x) (gForm [a]) (d.toNat % 8) (fun t => BitVec.ofNat 16 (t.readG a.toNat).toNat) ∧
    WritesG (.kmovToG st d a x) (kForm [ka]) d.toNat (fun t => BitVec.ofNat 64 (t.readK ka).toNat) ∧
    WritesG (.kpopc st d a b) (kForm [ka]) d.toNat
      (fun t => BitVec.ofNat 64 ((List.range 16).filter fun j => (t.readK ka).getLsbD j).length) ∧
    (∀ t : Thread, t.readK 0 = 0xFFFF) ∧
    (∀ s, Issues (kForm (List.range 8)) s → Answers (.kpack st d a b) s fun s' =>
      (∀ l < 16, lane ((s'.thread s.cur).finalV d.toNat) l = if l < 8 then (s.me.readK l).setWidth 32 else 0) ∧
      RegsOnly s.cur s s' [] [d.toNat] [] false (s.me.pc + 4)) ∧
    (∀ s, Issues { reads := [(.v, a.toNat)] } s → Answers (.kunpk st d a b) s fun s' =>
      (∀ j, 1 ≤ j → j < 8 → (s'.thread s.cur).finalK j = (lane (s.me.readV a.toNat) j).setWidth 16) ∧
      RegsOnly s.cur s s' [] [] [1, 2, 3, 4, 5, 6, 7] false (s.me.pc + 4)))

/-- MUL writes the low and MULH the high half of the product. DIV and REM truncate towards zero, signed or n64; a divisor of
zero gives all ones or the dividend, traps nothing and sets FFLAGS.DZ, the only flag that changes; -2^63 by -1 gives -2^63 and
0. Nothing else changes but the pc. -/
def Obligations.MultiplyDivide : Prop :=
  ∀ (st : BitVec 3) (d a b : BitVec 5),
    (∀ (i : Instr) (x : Word → Word → Word), (i, x) ∈ ([
      (.mul st d a b, fun x y => BitVec.ofInt 64 (x.toInt * y.toInt)),
      (.mulh st d a b, fun x y => BitVec.ofInt 64 (x.toInt * y.toInt / 2 ^ 64)),
      (.mulhN st d a b, fun x y => BitVec.ofNat 64 (x.toNat * y.toNat / 2 ^ 64))] : List (Instr × (Word → Word → Word))) →
      WritesG i (gForm [a, b]) d.toNat fun t => x (t.readG a.toNat) (t.readG b.toNat)) ∧
    (∀ (i : Instr) (x : Word → Word → Word), (i, x) ∈ ([
      (.div st d a b, fun x y => if y = 0 then BitVec.allOnes 64 else BitVec.ofInt 64 (x.toInt.tdiv y.toInt)),
      (.divN st d a b, fun x y => if y = 0 then BitVec.allOnes 64 else BitVec.ofNat 64 (x.toNat / y.toNat)),
      (.rem st d a b, fun x y => if y = 0 then x else BitVec.ofInt 64 (x.toInt.tmod y.toInt)),
      (.remN st d a b, fun x y => if y = 0 then x else BitVec.ofNat 64 (x.toNat % y.toNat))] : List (Instr × (Word → Word → Word))) →
      ∀ s, Issues (gForm [a, b]) s → Answers i s fun s' =>
        let y := s.me.readG b.toNat
        (s'.thread s.cur).finalG d.toNat = (if d = 0 then 0 else x (s.me.readG a.toNat) y) ∧
        (s'.thread s.cur).fflags = (if y = 0 then s.me.fflags ||| BitVec.ofNat 64 DZ else s.me.fflags) ∧
        RegsOnly s.cur s s' [d.toNat] [] [] true (s.me.pc + 4))

/-- BR, at a multiple of 4, sets the pc to the address of its word plus sext(off18) x 4 when bit 0 of kK differs from neg, and
to the next word otherwise; no register, flag or memory changes. -/
def Obligations.BranchTaken : Prop :=
  (∀ (st k : BitVec 3) (n : BitVec 1) (o : BitVec 18) s,
    Issues { kForm [k.toNat] with guarded := false } s → s.me.pc.toNat % 4 = 0 → Answers (.br st k n o) s fun s' =>
      RegsOnly s.cur s s' [] [] [] false
        (if ((s.me.readK k.toNat).getLsbD 0 ^^ (n == 1#1)) then s.me.pc + BitVec.ofInt 64 (o.toInt * 4) else s.me.pc + 4)) ∧
  (∀ (st : BitVec 3) (n : BitVec 1) (o : BitVec 18) s,
    Issues { kForm [0] with guarded := false } s → s.me.pc.toNat % 4 = 0 → Answers (.br st 0 n o) s fun s' =>
      (s'.thread s.cur).pc = if n = 0 then s.me.pc + BitVec.ofInt 64 (o.toInt * 4) else s.me.pc + 4)

/-- JMP and CALL go to the address of their word plus sext(off22) x 4; JMPR and CALLR to gA with bits [1:0] clear, gA read
before the link is written. CALL and CALLR leave the address of the next word in g1; nothing else changes. -/
def Obligations.JumpsAndCalls : Prop :=
  ∀ (st : BitVec 3) (o : BitVec 22) (d a b : BitVec 5),
    Jumps (.jmp st o) (gForm []) false (fun t => t.pc + BitVec.ofInt 64 (o.toInt * 4)) ∧
    Jumps (.call st o) (gForm []) true (fun t => t.pc + BitVec.ofInt 64 (o.toInt * 4)) ∧
    Jumps (.jmpr st d a b) (gForm [a]) false (fun t => t.readG a.toNat &&& ~~~3#64) ∧
    Jumps (.callr st d a b) (gForm [a]) true (fun t => t.readG a.toNat &&& ~~~3#64)

/-- HIMM adds its payload to the chain and HMOD sets its modifiers, the chain starting at the first of them; HSCH with a wait of
n counts 1 + n in distance; HSCH.IDLE for the unit classes makes that unit's pending results count as in time; HNOP and every
reserved hint act as one slot. All leave memory and every register's final value as they were. FENCE.ldld and .ldst change
nothing but the pc and what a copy may still see as not yet made; .stld, .stst and .all first perform the thread's posted
stores, and .stld and .all wait for their SC window; PFT never faults and changes nothing but the pc. -/
def Obligations.HintsFencesPrefetch : Prop :=
  (
  ∀ (s : State), s.cur.thr < 16 →
    let start (t : Thread) : Word := match t.chain with | some c => c.start | none => t.pc
    let Hint (i : Instr) (P : Thread → Prop) : Prop := Answers i s fun s' =>
      RegsOnly s.cur s s' [] [] [] false (s.me.pc + 4) ∧ P (s'.thread s.cur)
    (∀ p, Hint (.himm p) fun t => ∃ c, t.chain = some c ∧ c.start = start s.me ∧
      c.himm = p :: (match s.me.chain with | some x => x.himm | none => []) ∧
      c.hmod = (match s.me.chain with | some x => x.hmod | none => none) ∧ t.dist = s.me.dist + 1) ∧
    (∀ p r m c o f x, (Instr.hmod p r m c o f x).wellFormed = true → Hint (.hmod p r m c o f x) fun t =>
      ∃ y, t.chain = some y ∧ y.start = start s.me ∧ y.hmod = some (p ++ r ++ m ++ c ++ o ++ f ++ x) ∧ t.predIx = p.toNat ∧
      t.dist = s.me.dist + 1) ∧
    (∀ x n, Hint (.hsch x n) fun t => t.chain = none ∧ t.dist = s.me.dist + 1 + n.toNat) ∧
    (∀ x, Hint (.hnop x) fun t => t.chain = none ∧ t.dist = s.me.dist + 1) ∧
    (∀ m p, Hint (.reservedHint m p) fun t => t.chain = none ∧ t.dist = s.me.dist + 1) ∧
    (∀ x (u : BitVec 4), u.toNat < 3 → Hint (.hschIdle x u) fun t => t.chain = none ∧ t.dist = s.me.dist + 1 ∧
      ∀ q ∈ t.pend, (u = 0 → q.unit = .vec → q.due ≤ t.dist) ∧ (u = 1 → q.unit = .mul → q.due ≤ t.dist) ∧
        (u = 2 → q.unit ≠ .interlocked → q.due ≤ t.dist)) ∧
    (∀ x, tileHolds ((atIssue s).core s.cur.core).tile s.cur.thr = false →
      Hint (.hschIdle x 3) fun t => t.chain = none ∧ t.dist = s.me.dist + 1)) ∧
  (
  ∀ (st : BitVec 3) (t a : BitVec 5) (z : BitVec 2) (o : BitVec 10) (r : BitVec 2) (c : BitVec 3) (s : State),
    c.toNat < 7 →
    (Issues {} s →
      Passes (.fenceLdld st t a r c) s (orderStores (begun {} s) s.cur) ∧ Passes (.fenceLdst st t a r c) s (orderStores (begun {} s) s.cur) ∧
      Passes (.fenceStst st t a r c) s (drainPosted (begun {} s) s.cur) ∧
      (OrderOpen s 3 → Passes (.fenceStld st t a r c) s (drainPosted (begun {} s) s.cur) ∧
        Passes (.fenceAll st t a r c) s (drainPosted (begun {} s) s.cur))) ∧
    (Issues (gForm [a]) s → Passes (.pft st t a z o) s (begun (gForm [a]) s)))

/-- For every register of Table 3.9 that exists, CSRR (not guarded off) writes its value at the cycle of the read to gD, changes
no other register and no memory; an address that Table 3.9 lacks raises ILLEGAL_INSTR. A read of FFLAGS waits until every
earlier result is written. The thread's, the core's and the package's registers read from the state that holds them. -/
def Obligations.ControlRegisterReads : Prop :=
  (∀ (st : BitVec 3) (d a : BitVec 5) (m : BitVec 12) (s : State),
    let r := csrAddr s.me m
    let f : Form := { home := r != 6, awaits := csrAwaits r }
    (csrExists r = true → Issues f s → Yields (.csrr st d a m) s (begun f s) d.toNat (csrRead (begun f s) s.cur r)) ∧
    (csrExists r = false → Unheld s → Raises (.csrr st d a m) s cILLEGAL ((25#7 ++ st ++ d ++ a ++ m).setWidth 64))) ∧
  (∀ (s : State) (t : Tid),
    let th := s.thread t
    let c := s.core t.core
    csrRead s t 0x000 = th.tctl ∧ csrRead s t 0x001 = th.cause ∧ csrRead s t 0x002 = th.epc ∧ csrRead s t 0x003 = th.eval ∧
    csrRead s t 0x004 = th.tvec ∧ csrRead s t 0x005 = th.escr ∧ csrRead s t 0x006 = th.fflags ∧
    csrRead s t 0x008 = BitVec.ofNat 64 t.thr ∧ csrRead s t 0x009 = (if t.thr = 13 then c.resVcid else c.vcid) ∧
    csrRead s t 0x00A = (if t.thr = 13 then c.resStdom else c.stdom) ∧
    csrRead s t 0x00C = (if t.thr = 13 then c.resGgeo else c.ggeo).extractLsb' 0 64 ∧
    csrRead s t 0x00D = (if t.thr = 13 then c.resGgeo else c.ggeo).extractLsb' 64 64 ∧
    csrRead s t 0x012 = BitVec.ofNat 64 (gts s) ∧
    (∀ i : Fin 16, csrRead s t (0x020 + i) = c.shfmt[i]) ∧
    (∀ i : Fin 8, csrRead s t (0x040 + 2 * i) = th.segBase[i] ∧ csrRead s t (0x041 + 2 * i) = th.segLimit[i]))

/-- For a register of Table 3.9 that is not read-only, gD takes the value before the write and the register the new one (gA, old
| gA, old & ~gA); a register that is read-only or absent, or a value that R66, R102 or R240 refuses, raises ILLEGAL_INSTR and
writes nothing. A written register reads back as the value written, reserved and RO fields aside, and no other control register
changes. -/
def Obligations.ControlRegisterWrites : Prop :=
  (∀ (st : BitVec 3) (d a : BitVec 5) (m : BitVec 12) (s : State) (n : BitVec 7) (i : Instr) (g : Word → Word → Word),
    (n, i, g) ∈ ([(26, .csrw st d a m, fun _ x => x), (27, .csrset st d a m, fun old x => old ||| x),
      (28, .csrclr st d a m, fun old x => old &&& ~~~x)] : List (BitVec 7 × Instr × (Word → Word → Word))) →
    let r := csrAddr s.me m
    let f : Form := { gForm [a] with cls := if csrPerCore r then .irrev else .spec, home := r != 6, awaits := csrAwaits r }
    let old := csrRead (begun f s) s.cur r
    let word : Word := (n ++ st ++ d ++ a ++ m).setWidth 64
    (∀ z, csrExists r = true → csrRO r = false → Issues f s →
      csrWrite (begun f s) s.cur r (g old (s.me.readG a.toNat)) = some z → Yields i s z d.toNat old) ∧
    (csrExists r = true → csrRO r = false → Issues f s →
      csrWrite (begun f s) s.cur r (g old (s.me.readG a.toNat)) = none → Raises i s cILLEGAL word) ∧
    (csrExists r = false ∨ csrRO r = true → Unheld s → Raises i s cILLEGAL word)) ∧
  (∀ (s z : State) (t : Tid) (r : Nat) (x : Word), t.thr < 16 → s.meth = none → csrWrite s t r x = some z →
    (∀ q, q ≠ r → csrRead z t q = csrRead s t q) ∧
    (r = 0 → csrRead z t r = (csrRead s t r &&& ~~~7#64) ||| (x &&& 7)) ∧ (r = 1 → csrRead z t r = x &&& 0xC0FF) ∧
    (r = 2 → csrRead z t r = x &&& ~~~3#64) ∧ (r = 3 → csrRead z t r = x) ∧ (r = 4 → csrRead z t r = x &&& ~~~3#64) ∧
    (r = 5 → csrRead z t r = x) ∧ (r = 6 → csrRead z t r = x &&& 0xFF) ∧
    (r = 0x00C → csrRead z t r = (csrRead s t r &&& 0xFFFFFFFF00000000) ||| (x &&& 0xFFFFFFFF)) ∧
    (r = 0x00D → csrRead z t r = x) ∧
    (∀ i < 16, r = 0x020 + i → x.toNat % 16 ≤ 8 ∧ csrRead z t r = x &&& 0xFF1F) ∧
    (∀ i < 8, r = 0x040 + 2 * i → x.toNat / 2 ^ 60 < 8 ∧ csrRead z t r = x &&& 0xFF00FFFFFFFFFFFF) ∧
    (∀ i < 8, r = 0x041 + 2 * i → csrRead z t r = x &&& 0xFFFFFFFFFFFF))

/-- SYS completes and raises SYSCALL, TRAP completes and raises SOFT_TRAP, both with EVAL the immediate and EPC the next chain;
an away thread returns home first. BRK raises BREAKPOINT with EVAL its operand at its own chain, halts the thread where the
Spoor has armed break stops, and passes where the debugger lets the halted chain go on, also where the stops are no longer armed
(the model's choice, log 65). In an unprotected ordered task SYS, TRAP and BRK wait until the task is protected. -/
def Obligations.SystemCalls : Prop :=
  (∀ (st : BitVec 3) (d a : BitVec 5) (m : BitVec 12) (s : State) (i : Instr) (c : Nat),
    (i, c) ∈ ([(.sys st d a m, cSYSCALL), (.trap st d a m, cSOFT_TRAP)] : List (Instr × Nat)) →
    (Issues { cls := .irrev, awaits := .slow } s → ∃ z, RegsOnly s.cur (begun { cls := .irrev, awaits := .slow } s) z [] [] [] false (s.me.pc + 4) ∧
      exec i s = .next (lapse (match s.me.homeOf with
        | none => takeTrap z s.cur c (s.me.imm m) (s.me.pc + 4) false
        | some h => takeTrap (returnHome z s.cur) h c (s.me.imm m) (s.me.pc + 4) false))) ∧
    (∀ y, Admits { awaits := .slow } s → s.meth = none → (s.me.chk = true → firstShort s.me (({} : Form).allReads s.me) = none) →
      (s.me.readK s.me.predIx).getLsbD 0 = true →
      taskOf (begun {} s) s.cur = some y → y.prot = false → exec i s = stopped (atIssue s) s.cur (.park false .protect))) ∧
  (∀ (st : BitVec 3) (e : BitVec 15) (s : State),
    let f : Form := { cls := .irrev }
    let z := begun f s
    let armed := bit (z.ctx (ctxOf z s.cur)).spoor 5
    Issues f s →
      (armed = false → s.me.passBrk = true → Passes (.brk st e) s z) ∧
      (armed = false → s.me.passBrk = false → Raises (.brk st e) s cBREAKPOINT (BitVec.ofNat 64 e.toNat)) ∧
      (armed = false → s.me.passBrk = false → s.meth = none → s.me.homeOf = none → lateRead s.me (issueCycle (atIssue s) s.cur) .slow [] = none →
        ∃ y, RegsOnly s.cur s y [] [] [] false s.me.pc ∧
          exec (.brk st e) s = .next (lapse (takeTrap y s.cur cBREAKPOINT (BitVec.ofNat 64 e.toNat) s.me.chainStart false))) ∧
      (armed = true → s.me.passBreak = true → Passes (.brk st e) s z) ∧
      (armed = true → s.me.passBreak = false → Settles (.brk st e) s (haltAt z s.cur 8))) ∧
  (∀ (st : BitVec 3) (e : BitVec 15) (s : State) (y : OTask), Admits {} s → s.meth = none →
    (s.me.chk = true → firstShort s.me (({} : Form).allReads s.me) = none) →
    (s.me.readK s.me.predIx).getLsbD 0 = true → taskOf (begun {} s) s.cur = some y → y.prot = false →
    exec (.brk st e) s = stopped (atIssue s) s.cur (.park false .protect))

/-- When a thread's pending trap may be taken (at a chain boundary, TCTL.INH 0, on no wait that has sent something), the thread
is ready for its next slot in the rotation, a wait that had sent nothing being abandoned first; in that slot the first pending
trap is taken with EPC the pc, CAUSE bit 14 set, and it is no longer pending. When it may not, the move does nothing. Pending
traps stay ordered by their events' GTS. While SC accesses wait, the next window to close is the earliest announced; the global
time reaches its end, and each thread that waits in that window, in the order of the partition's numbering of cores, may issue
its chain next, its hints and its access. With none waiting the move does nothing. A thread of another window, and a thread that
does not wait, is as before. -/
def Obligations.TrapsAndWindows : Prop :=
  (
  (∀ (s : State) (c t : Nat) (x : AsyncTrap) (xs : List AsyncTrap),
    let id : Tid := ⟨c, t⟩
    let z := takeSlot (advanceTo s (dieOf s c) (s.thread id).readyAt) id
    (asyncReady s id = true → (s.thread id).asyncq = x :: xs → (s.thread id).chain = none ∧ (s.thread id).inh = false ∧
      ((s.thread id).run ≠ .ready → Moves (.asynchronousTrap c t) s
        ((forgetMiss s id).setThread id { s.thread id with run := .ready, turn := none, scGo := false })) ∧
      ((s.thread id).run = .ready → Moves (.asynchronousTrap c t) s
        (takeTrap (z.setThread id { s.thread id with asyncq := xs }) id x.code x.eval (s.thread id).pc true))) ∧
    (asyncReady s id = false → exec (.asynchronousTrap c t) s = .next s)) ∧
  (∀ (s : State) (t : Tid) (src code : Nat) (eval : Word), t.thr < 16 → (s.thread t).homeOf = none → (s.thread t).asyncq.length < 8 →
    (s.thread t).asyncq.Pairwise (fun a b => asyncLe a b = true) →
    ((pendTrap s t src code eval).thread t).asyncq.Pairwise (fun a b => asyncLe a b = true) ∧
    ⟨gts s, src, code, eval⟩ ∈ ((pendTrap s t src code eval).thread t).asyncq)) ∧
  (
  ∀ (s : State),
    (scWaiting s = [] → exec .scWindowClose s = .next s) ∧
    (∀ w, ((scWaiting s).map (·.1)).min? = some w →
      let y := advanceGts s ((w + 1) * 16)
      let ts := sortBy (fun a b => decide (scKey y a ≤ scKey y b)) (((scWaiting s).filter fun e => e.1 == w).map (·.2))
      Answers .scWindowClose s fun s' =>
        s' = lapse { ts.foldl (fun z t => z.setThread t { z.thread t with run := .ready, scGo := true }) y with
          agenda := (ts.flatMap fun t => List.replicate (scWords (y.thread t)) (Move.thread t)) ++ y.agenda } ∧
        ∀ e ∈ scWaiting s, w ≤ e.1))

/-- LD and LD.s at gA + sext(off10) x size, and the aligned LDO at gA, where the access is allowed and reaches its bytes, write
to gD the number the bytes read, zero-extended or (LD.s) as a two's complement number; memory, flags and every other register
stay. Where the check of the access stops it (segment, alignment, translation, migration), the instruction stops so. An order
the form forbids raises ILLEGAL_INSTR. -/
def Obligations.Loads : Prop :=
  ∀ (st : BitVec 3) (t a : BitVec 5) (z : BitVec 2) (o : BitVec 10) (z3 c : BitVec 3) (r : BitVec 2) (u : BitVec 4) (s : State),
    let f := gForm [a]
    let addr := s.me.readG a.toNat + BitVec.ofInt 64 (o.toInt * 2 ^ z.toNat)
    let size := 2 ^ z.toNat
    (∀ kind ks y, s.me.ordMod ≠ 2 → Issues f s → OrderOpen s s.me.ordMod →
      Reaches (begun f s) s.cur addr size rRD false none true false kind ks y →
      Yields (.ld st t a z o) s y t.toNat (BitVec.ofNat 64 (leNat (readPlaces y ks))) ∧
      Yields (.ldS st t a z o) s y t.toNat (BitVec.ofInt 64 (asInt size (leNat (readPlaces y ks))))) ∧
    (∀ e, s.me.ordMod ≠ 2 → Issues f s → access (begun f s) s.cur addr size rRD false none = .error e →
      exec (.ld st t a z o) s = stopped (atIssue s) s.cur e ∧ exec (.ldS st t a z o) s = stopped (atIssue s) s.cur e) ∧
    (s.me.ordMod = 2 → Unheld s → Raises (.ld st t a z o) s cILLEGAL ((32#7 ++ st ++ t ++ a ++ z ++ o).setWidth 64)) ∧
    (∀ kind ks y, (Instr.ldo st t a z3 r c u).wellFormed = true → Issues f s → OrderOpen s r.toNat →
      Reaches (begun f s) s.cur (s.me.readG a.toNat) (2 ^ z3.toNat) rRD true none true false kind ks y →
      Yields (.ldo st t a z3 r c u) s y t.toNat (BitVec.ofNat 64 (leNat (readPlaces y ks)))) ∧
    (∀ e, (Instr.ldo st t a z3 r c u).wellFormed = true → Issues f s →
      access (begun f s) s.cur (s.me.readG a.toNat) (2 ^ z3.toNat) rRD true none = .error e →
      exec (.ldo st t a z3 r c u) s = stopped (atIssue s) s.cur e)

/-- ST at gA + sext(off10) x size, and the aligned STO at gA, store the low bytes of gT little-endian at the bytes that the
access reaches; a release first performs the thread's posted stores. Every other byte of memory, every register and every flag
stay. Where the check of the access stops it, the instruction stops so and stores nothing. -/
def Obligations.StoresWriteBytes : Prop :=
  ∀ (st : BitVec 3) (t a : BitVec 5) (z : BitVec 2) (o : BitVec 10) (z3 c : BitVec 3) (r : BitVec 2) (u : BitVec 4) (s : State),
    let f := gForm [t, a]
    let addr := s.me.readG a.toNat + BitVec.ofInt 64 (o.toInt * 2 ^ z.toNat)
    let size := 2 ^ z.toNat
    let rel (ord : Nat) (y : State) : State := if ord = 2 ∨ ord = 3 then drainPosted y s.cur else y
    (∀ kind ks y y', s.me.ordMod ≠ 1 → Issues f s → OrderOpen s s.me.ordMod → ks.length = size →
      access (begun f s) s.cur addr size rWR false none = .ok (kind, ks) →
      track (rel s.me.ordMod (begun f s)) s.cur kind ks false true = .ok y → methJournal y ks = .ok y' →
      Stores (.st st t a z o) s y' ks (leBytes (s.me.readG t.toNat).toNat size)) ∧
    (∀ e, s.me.ordMod ≠ 1 → Issues f s → access (begun f s) s.cur addr size rWR false none = .error e →
      exec (.st st t a z o) s = stopped (atIssue s) s.cur e) ∧
    (s.me.ordMod = 1 → Unheld s → Raises (.st st t a z o) s cILLEGAL ((33#7 ++ st ++ t ++ a ++ z ++ o).setWidth 64)) ∧
    (∀ kind ks y y', (Instr.sto st t a z3 r c u).wellFormed = true → Issues f s → OrderOpen s r.toNat → ks.length = 2 ^ z3.toNat →
      access (begun f s) s.cur (s.me.readG a.toNat) (2 ^ z3.toNat) rWR true none = .ok (kind, ks) →
      track (rel r.toNat (begun f s)) s.cur kind ks false true = .ok y → methJournal y ks = .ok y' →
      Stores (.sto st t a z3 r c u) s y' ks (leBytes (s.me.readG t.toNat).toNat (2 ^ z3.toNat))) ∧
    (∀ e, (Instr.sto st t a z3 r c u).wellFormed = true → Issues f s →
      access (begun f s) s.cur (s.me.readG a.toNat) (2 ^ z3.toNat) rWR true none = .error e →
      exec (.sto st t a z3 r c u) s = stopped (atIssue s) s.cur e)

/-- Each AMO writes to the aligned word at gA the value that R143 gives from the old one and gT, at its size, and gT takes the
old value, zero-extended; CAS writes g(T+1) where the old value equals gT, and otherwise writes nothing, its line joining the
write set of an ordered task all the same. A release first performs the thread's posted stores. Every other byte and register
stays, and no flag is set. -/
def Obligations.Atomics : Prop :=
  ∀ (st : BitVec 3) (t a : BitVec 5) (z c : BitVec 3) (r : BitVec 2) (s : State),
    let f := gForm [t, a]
    let size := 2 ^ z.toNat
    let m := 2 ^ (8 * size)
    let y0 (f : Form) := if r.toNat = 2 ∨ r.toNat = 3 then drainPosted (begun f s) s.cur else begun f s
    let addr := s.me.readG a.toNat
    let x := (s.me.readG t.toNat).toNat % m
    let Setup (f : Form) (kind : Via) (ks : List Nat) (y : State) : Prop := Issues f s ∧ OrderOpen s r.toNat ∧ ks.length = size ∧
      (access (begun f s) s.cur addr size rAMO true (some (awayScope (begun f s) s.cur c.toNat, false))).isOk = true ∧
      access (y0 f) s.cur addr size rAMO true (some (awayScope (y0 f) s.cur c.toNat, false)) = .ok (kind, ks) ∧
      track (y0 f) s.cur kind ks true false = .ok y
    (∀ (i : Instr) (g : Nat → Nat), (i, g) ∈ ([
        (.amoAdd st t a z r c, fun old => (old + x) % m),
        (.amoAnd st t a z r c, fun old => Nat.land old x), (.amoOr st t a z r c, fun old => Nat.lor old x),
        (.amoXor st t a z r c, fun old => Nat.xor old x),
        (.amoMin st t a z r c, fun old => if asInt size x < asInt size old then x else old),
        (.amoMax st t a z r c, fun old => if asInt size old < asInt size x then x else old),
        (.amoMinn st t a z r c, fun old => min old x), (.amoMaxn st t a z r c, fun old => max old x),
        (.amoSwap st t a z r c, fun _ => x),
        (.amoFadd st t a z r c, fun old => (addF fp32 0 (decodeF fp32 old) (decodeF fp32 x)).1)] : List (Instr × (Nat → Nat))) →
      ∀ kind ks y y1 y', i.wellFormed = true → Setup f kind ks y → track y s.cur kind ks true true = .ok y1 →
        methJournal y1 ks = .ok y' →
        let old := leNat (readPlaces y ks)
        StoresAndYields i s y' ks (leBytes (g old) size) t.toNat (BitVec.ofNat 64 old)) ∧
    (∀ kind ks y, let fc : Form := { reads := [(.g, t.toNat), (.g, t.toNat + 1), (.g, a.toNat)] }
      (Instr.cas st t a z r c).wellFormed = true → Setup fc kind ks y →
        let old := leNat (readPlaces y ks)
        (∀ y1 y', old = x → track y s.cur kind ks true true = .ok y1 → methJournal y1 ks = .ok y' →
          StoresAndYields (.cas st t a z r c) s y' ks (leBytes ((s.me.readG (t.toNat + 1)).toNat % m) size) t.toNat
            (BitVec.ofNat 64 old)) ∧
        (∀ y1, old ≠ x → track y s.cur kind ks true true false = .ok y1 →
          Yields (.cas st t a z r c) s y1 t.toNat (BitVec.ofNat 64 old)))

/-- ENTER n (its immediate in units of 64 bytes) adds n to g2 where g2 addresses seg7, seg7 is of kind 7 and the new offset is
within its limit; otherwise it raises STACK_LIMIT with EVAL the new offset. LEAVE n subtracts n, or raises STACK_LIMIT with EVAL
the negative offset. A negative immediate raises OPERAND_RANGE. Nothing else changes but the pc. -/
def Obligations.StackFrames : Prop :=
  ∀ (st : BitVec 3) (d a : BitVec 5) (m : BitVec 12) (s : State),
    let f : Form := { reads := [(.g, 2)] }
    let n := if s.me.himm = [] then BitVec.ofNat 64 m.toNat else s.me.imm m
    let off := (s.me.readG 2).toNat % 2 ^ 61
    let v := viewOf (begun f s) s.cur
    let limit := if s.meth.isSome then 4096 else field (v.segLimit.toList.getD 7 0) 47 0
    let frame : Prop := (s.me.readG 2).toNat / 2 ^ 61 = 7 ∧ (s.meth.isSome = true ∨ segKind v 0xE000000000000000 = 7) ∧
      off + n.toNat * 64 ≤ limit
    Issues f s →
    (0 ≤ n.toInt → frame → Yields (.enter st d a m) s (begun f s) 2 (s.me.readG 2 + n * 64)) ∧
    (0 ≤ n.toInt → ¬frame → Raises (.enter st d a m) s cSTACK_LIMIT (BitVec.ofNat 64 (off + n.toNat * 64))) ∧
    (0 ≤ n.toInt → n.toNat * 64 ≤ off → Yields (.leave st d a m) s (begun f s) 2 (s.me.readG 2 - n * 64)) ∧
    (0 ≤ n.toInt → off < n.toNat * 64 → Raises (.leave st d a m) s cSTACK_LIMIT (BitVec.ofNat 64 off - n * 64)) ∧
    (n.toInt < 0 → Raises (.enter st d a m) s cOPERAND_RANGE n ∧ Raises (.leave st d a m) s cOPERAND_RANGE n)

/-- WAITA reads the location and ends with its value in gT when it differs from gT, else it parks. SIGWAIT ends with the value
of a signal object that is 0 or has bit 63, else it parks. SIGDEC, once the thread's posted stores are performed, decrements the
object by gB (bit 63 once set stays, a decrement below 0 sets it), returns the old value and notifies as ATTR says. Where the
check of the access stops it (segment, alignment, translation, migration), the instruction stops so. -/
def Obligations.WaitsOnMemory : Prop :=
  ∀ (st : BitVec 3) (t a d b : BitVec 5) (z c : BitVec 3) (r : BitVec 2) (s : State),
    (let f : Form := { gForm [t, a] with cls := .irrev }
     let size := 2 ^ z.toNat
     let scope := awayScope (begun f s) s.cur c.toNat
     (Instr.waita st t a z r c).wellFormed = true → Issues f s →
     (∀ e, access (begun f s) s.cur (s.me.readG a.toNat) size rRD true (some (scope, true)) = .error e →
      exec (.waita st t a z r c) s = stopped (atIssue s) s.cur e) ∧
     ∀ kind ks y, OrderOpen s r.toNat →
      Reaches (begun f s) s.cur (s.me.readG a.toNat) size rRD true (some (scope, true)) true false kind ks y →
      let n := leNat (readPlaces y ks)
      (n ≠ (s.me.readG t.toNat).toNat % 2 ^ (8 * size) → Yields (.waita st t a z r c) s y t.toNat (BitVec.ofNat 64 n)) ∧
      (n = (s.me.readG t.toNat).toNat % 2 ^ (8 * size) → exec (.waita st t a z r c) s = stopped (atIssue s) s.cur (.park true .reissue))) ∧
    (let f : Form := { gForm [a] with cls := .irrev }
     Issues f s →
     (∀ e, access (begun f s) s.cur (s.me.readG a.toNat) 16 rRD true none = .error e →
      exec (.sigwait st d a b) s = stopped (atIssue s) s.cur e) ∧
     ∀ k0 ks0 kind ks y, access (begun f s) s.cur (s.me.readG a.toNat) 16 rRD true none = .ok (k0, ks0) →
      let x := settlePosted (begun f s) s.cur ks0
      let scope := awayScope x s.cur (attrScope (leNat (readPlaces x (ks0.drop 8))))
      access x s.cur (s.me.readG a.toNat) 16 rRD true (some (scope, true)) = .ok (kind, ks) →
      track x s.cur kind (ks.take 8) true false = .ok y →
      let v := leNat (readPlaces y (ks.take 8))
      (v = 0 ∨ 2 ^ 63 ≤ v → Yields (.sigwait st d a b) s y d.toNat (BitVec.ofNat 64 v)) ∧
      (v ≠ 0 → v < 2 ^ 63 → exec (.sigwait st d a b) s = stopped (atIssue s) s.cur (.park true .reissue))) ∧
    (let f : Form := { gForm [a, b] with cls := .irrev }
     Issues f s →
     (∀ e, access (begun f s) s.cur (s.me.readG a.toNat) 16 rAMO true none = .error e →
      exec (.sigdec st d a b) s = stopped (atIssue s) s.cur e) ∧
     ∀ k0 ks0 kind ks y, access (begun f s) s.cur (s.me.readG a.toNat) 16 rAMO true none = .ok (k0, ks0) →
      let x := drainPosted (begun f s) s.cur
      let attr := leNat (readPlaces x (ks0.drop 8))
      let scope := awayScope x s.cur (attrScope attr)
      access x s.cur (s.me.readG a.toNat) 16 rAMO true (some (scope, false)) = .ok (kind, ks) →
      track x s.cur kind (ks.take 8) true true = .ok y →
      let old := leNat (readPlaces y (ks.take 8))
      let n := (s.me.readG b.toNat).toNat
      let new := decrement old n
      Yields (.sigdec st d a b) s (notify (writePlaces y (ks.take 8) (leBytes new 8)) (ctxOf y s.cur) attr old new) d.toNat
        (BitVec.ofNat 64 old)) ∧
    (∀ old n : Nat, old < 2 ^ 64 → (2 ^ 63 ≤ old → decrement old n = old) ∧ (old < 2 ^ 63 → n ≤ old → decrement old n = old - n) ∧
      (old < 2 ^ 63 → old < n → decrement old n = 2 ^ 63))

/-- MBPUT and MBPUT.rel write gA into the empty register that their d field names (.rel once the thread's posted stores are
performed) and park while it is full; MBGET writes the value of a full register to gD and empties it, and parks while it is
empty. Among waiting threads of the core the one that waited longest goes first. Nothing else changes. MSEND sends its 64-byte
body, with the sender's identity, to every destination it names, after the thread's posted stores, and parks for the answers; a
bad type and a scale message of no or more than 12 entries raise OPERAND_RANGE and a destination outside the domain MSG_DENIED.
MRECV takes the oldest message of the thread's class into memory and its header into gD, and parks while there is none; MPOLL
counts the waiting ones. A message that no message of a park buffer to its core precedes joins the inbox while a place is free
and is refused otherwise; a scale message writes the scale table. -/
def Obligations.MailAndRegisters : Prop :=
  (
  ∀ (st : BitVec 3) (d a b : BitVec 5) (s : State),
    let f : Form := { gForm [a] with cls := .irrev, home := true }
    let g : Form := { cls := .irrev, home := true }
    let reg (z : State) (n : Nat) : Option Word := (z.core s.cur.core).mb.toList.getD n none
    let set (z : State) (n : Nat) (x : Option Word) : State :=
      z.setCore s.cur.core { z.core s.cur.core with mb := (z.core s.cur.core).mb.setIfInBounds n x }
    let n := d.toNat % 8
    let m := a.toNat % 8
    s.meth = none →
    (Issues f s → reg (begun f s) n = none → isFirst (begun f s) s.cur (.mail true n) = true →
      Passes (.mbput st d a b) s (set (begun f s) n (some (s.me.readG a.toNat))) ∧
      Passes (.mbputRel st d a b) s (set (drainPosted (begun f s) s.cur) n (some (s.me.readG a.toNat)))) ∧
    (Issues f s → (reg (begun f s) n).isSome = true →
      exec (.mbput st d a b) s = stopped (atIssue s) s.cur (.park false (.mail true n)) ∧
      exec (.mbputRel st d a b) s = stopped (atIssue s) s.cur (.park false (.mail true n))) ∧
    (∀ x, Issues g s → reg (begun g s) m = some x → isFirst (begun g s) s.cur (.mail false m) = true →
      Yields (.mbget st d a b) s (orderStores (set (begun g s) m none) s.cur) d.toNat x) ∧
    (Issues g s → reg (begun g s) m = none → exec (.mbget st d a b) s = stopped (atIssue s) s.cur (.park false (.mail false m)))) ∧
  (
  ∀ (st : BitVec 3) (d a b : BitVec 5) (s : State),
    let f : Form := { gForm [a, b] with cls := .irrev, home := true }
    let g : Form := { gForm [a] with cls := .irrev, home := true }
    let w := s.me.readG b.toNat
    let ty := w.toNat / 65536 % 256
    (∀ kind ks cs y, Issues f s → ownBlock (begun f s) s.cur (s.me.readG a.toNat) 64 64 rRD = .ok (kind, ks) →
      let x := settlePosted (begun f s) s.cur ks
      let body := readPlaces x ks
      ty ≤ 0x80 → (ty = 0x80 → 1 ≤ blkNat body 1 1 ∧ blkNat body 1 1 ≤ 12) →
      (destVcs w).mapM (destCore x s.cur) = some cs → track x s.cur kind ks true false = .ok y →
      let z := drainPosted y s.cur
      let header := BitVec.ofNat 64 (vcIn z (ctxOf z s.cur) s.cur.core + 65536 * s.cur.thr + 2 ^ 24 * ty)
      let z' := z.setThread s.cur { z.thread s.cur with answers := cs.length, refusals := 0 }
      Sends (.msend st d a b) s { z' with flights := z'.flights ++
        (cs.map fun c => if ty = 0x80 then .scale s.cur c body false else .msg s.cur c ⟨body, header, w.getLsbD 13⟩ false) } false d.toNat) ∧
    (∀ kind ks, Issues f s → ownBlock (begun f s) s.cur (s.me.readG a.toNat) 64 64 rRD = .ok (kind, ks) →
      let x := settlePosted (begun f s) s.cur ks
      let n := blkNat (readPlaces x ks) 1 1
      (0x81 ≤ ty → Raises (.msend st d a b) s cOPERAND_RANGE w) ∧
      (ty = 0x80 → (n = 0 ∨ 12 < n) → Raises (.msend st d a b) s cOPERAND_RANGE (BitVec.ofNat 64 n)) ∧
      (ty ≤ 0x80 → (ty = 0x80 → 1 ≤ n ∧ n ≤ 12) → (destVcs w).mapM (destCore x s.cur) = none →
        Raises (.msend st d a b) s cMSG_DENIED w)) ∧
    (∀ kind ks, Issues g s → ownBlock (begun g s) s.cur (s.me.readG a.toNat) 64 64 rWR = .ok (kind, ks) →
      let c := (begun g s).core s.cur.core
      let wait := Wait.recv (msgClass s.cur.thr)
      (popMessage c s.cur.thr = none → exec (.mrecv st d a b) s = stopped (atIssue s) s.cur (.park true wait)) ∧
      (∀ body header c' y y', popMessage c s.cur.thr = some (body, header, c') → isFirst (begun g s) s.cur wait = true →
        track ((begun g s).setCore s.cur.core c') s.cur kind ks false true = .ok y → methJournal y ks = .ok y' → body.length = ks.length →
        StoresAndYields (.mrecv st d a b) s y' ks body d.toNat header)) ∧
    (Issues { home := true } s → Yields (.mpoll st d a b) s (begun { home := true } s) d.toNat
      (BitVec.ofNat 64 (waiting ((begun { home := true } s).core s.cur.core) s.cur.thr))) ∧
    (∀ k src core m told, s.flights[k]? = some (.msg src core m told) → awaitsClock s src core told = false →
      parkedAhead s k core = false →
      let z := { s with flights := s.flights.eraseIdx k }
      let c := z.core core
      (c.inbox.length < 64 →
        let y := z.setCore core { c with inbox := c.inbox ++ [m] }
        let y := if told then y else answer y src none
        Moves (.messageArrival k) s (if m.t13 then wake y ⟨core, 13⟩ else y)) ∧
      (64 ≤ c.inbox.length → told = false → Moves (.messageArrival k) s (answer z src (some (core % 8))))) ∧
    (∀ k src core body told, s.flights[k]? = some (.scale src core body told) → awaitsClock s src core told = false →
      parkedAhead s k core = false →
      let z := { s with flights := s.flights.eraseIdx k }
      let y := z.setCore core (scaleFromBody (z.core core) body)
      Moves (.scaleMessage k) s (if told then y else answer y src none)))

/-- PSTO takes the lowest free journal entry and sends the store; a misaligned one raises MISALIGN, and with no entry free it
parks. PJACK frees a refused entry of the thread and gives its target, or gives all ones. A posted store that no earlier one of
its thread to the same memory precedes is applied while the target's clock runs, once the threads of the tasks that it aborts
are at a chain boundary. MIGR sets TCTL.MIG and the live-vector mask; HOMEC clears TCTL.MIG and, away, performs the thread's
posted stores and returns it home. A migration packet starts on the lowest dormant work thread of the core (T1 to T6 on a folded
one) in packet order, or returns home when the context no longer holds the core; an away thread whose home has a pending trap
returns, unless it waits for a reply or still owes a slow result. SCLD decodes n block codes into scale-table entries, and a bad
count raises OPERAND_RANGE. -/
def Obligations.PostedStoresMigrationScales : Prop :=
  ∀ (st : BitVec 3) (t a d b : BitVec 5) (z c : BitVec 3) (r : BitVec 2) (s : State),
    (let f : Form := { gForm [t, a] with cls := .irrev, home := true }
     let y := begun f s
     let addr := s.me.readG a.toNat
     let size := 2 ^ z.toNat
     let v := viewOf y s.cur
     let free (i : Nat) : Bool := !((y.core s.cur.core).journal.toList.getD i ⟨false, false, 0, 0⟩).busy
     ∀ reach k ks, (Instr.psto st t a z r c).wellFormed = true → Issues f s →
      (segKind v addr = 3 ∨ segKind v addr = 4 ∨ segKind v addr = 6) → segCheck y v addr size rWR = .ok reach →
      postedPlaces y v addr size reach = .ok (k :: ks) →
      (addr.toNat % size ≠ 0 → Raises (.psto st t a z r c) s cMISALIGN addr) ∧
      (∀ e, addr.toNat % size = 0 →  (List.range 32).find? free = some e →
        let y' := useAt (setJournal (if r.toNat = 2 then drainPosted y s.cur else y) s.cur.core e ⟨true, false, s.cur.thr, addr⟩) v addr size
        Passes (.psto st t a z r c) s { y' with flights := y'.flights ++ [.psto s.cur e (ctxOf y' s.cur) k (k % 2 ^ 64 / 2 ^ 21) size
          (s.me.readG t.toNat) (decide (segKind v addr = 6)) (dpaOfPlace y' k) ((taskOf y' s.cur).map OTask.key)] }) ∧
      (addr.toNat % size = 0 → (List.range 32).find? free = none → exec (.psto st t a z r c) s = stopped (atIssue s) s.cur (.park false .reissue))) ∧
    (let f : Form := { gForm [a] with cls := .irrev, home := true }
     let i := (s.me.readG a.toNat).toNat % 32
     let e := ((begun f s).core s.cur.core).journal.toList.getD i ⟨false, false, 0, 0⟩
     Issues f s →
      ((e.busy && e.refused && e.thr == s.cur.thr) = true →
        Yields (.pjack st d a b) s (setJournal (begun f s) s.cur.core i ⟨false, false, 0, 0⟩) d.toNat e.target) ∧
      ((e.busy && e.refused && e.thr == s.cur.thr) = false → Yields (.pjack st d a b) s (begun f s) d.toNat (BitVec.allOnes 64))) ∧
    (∀ n src e x place i size val k6 dpa task, s.flights[n]? = some (.psto src e x place i size val k6 dpa task) →
      (∀ f ∈ s.flights.take n, ∀ e' x' q i' z' v' k' p' u', f = .psto src e' x' q i' z' v' k' p' u' → targetMemory q ≠ targetMemory place) →
      settClock s i = true → insideChain s (unitOf s src) (postedHits s src place size task) = false →
      Moves (.postedStoreApply n) s (applyPosted { s with flights := s.flights.eraseIdx n } src e x place size val k6 dpa task)) ∧
    (let f : Form := { gForm [a] with role := .work, cls := .forbid }
     Issues f s → Answers (.migr st d a b) s fun s' =>
      OnlyThread s.cur s s' ∧ (s'.thread s.cur).tctl = setBit s.me.tctl 6 true ∧
      (s'.thread s.cur).vmask = (s.me.readG a.toNat).setWidth 32 ∧ (s'.thread s.cur).pc = s.me.pc + 4 ∧
      (∀ j < 32, (s'.thread s.cur).finalG j = s.me.finalG j ∧ (s'.thread s.cur).finalV j = s.me.finalV j)) ∧
    (let f : Form := { awaits := if s.me.homeOf.isSome then .slow else .none }
     let th := { (begun f s).thread s.cur with tctl := setBit s.me.tctl 6 false }
     let z := drainPosted (begun f s) s.cur
     Issues f s →
      (s.me.homeOf = none → Passes (.homec st d a b) s ((begun f s).setThread s.cur th)) ∧
      (∀ h, s.me.homeOf = some h → Settles (.homec st d a b) s
        (returnHome (z.setThread s.cur (th.advance (s.me.pc + 4) st.toNat (issueCycle z s.cur))) s.cur))) ∧
    (let f : Form := { gForm [a, b] with cls := .irrev, home := true }
     let w := s.me.readG b.toNat
     let j := w.toNat % 256
     let e := w.toNat / 256 % 256
     let n := w.toNat / 65536 % 512
     let addr := s.me.readG a.toNat
     Issues f s →
      (n = 0 ∨ 256 < j + n → Raises (.scld st d a b) s cOPERAND_RANGE w) ∧
      (∀ k1 ks1 k2 ks2 y1 y2, 0 < n → j + n ≤ 256 →
        accessHere (begun f s) s.cur (addr + BitVec.ofNat 64 j) n rRD false none = .ok (k1, ks1) →
        accessHere (begun f s) s.cur (addr + 256) 4 rRD false none = .ok (k2, ks2) →
        track (begun f s) s.cur k1 ks1 true false = .ok y1 → track y1 s.cur k2 ks2 true false = .ok y2 →
        let S := BitVec.ofNat 32 (leNat (readPlaces y2 ks2))
        let bs := readPlaces y1 ks1
        Passes (.scld st d a b) s (y2.setCore s.cur.core
          ((List.range n).foldl (fun x i => x.setScale (e + i) (scaleEntry S (bs.getD i 0).toNat)) (y2.core s.cur.core))))) ∧
    (∀ n home core bytes, s.flights[n]? = some (.migr home core bytes) →
      (∀ f ∈ s.flights.take n, ∀ h bs, f ≠ .migr h core bs) → dieRuns s (dieOf s core) = true →
      let y := { s with flights := s.flights.eraseIdx n }
      let held := (s.ctx (ctxOf s home)).setts.any fun p => p.2 == settOf core
      (held = false → Moves (.migrationArrival n) s (packetHome y home bytes)) ∧
      (∀ j, held = true → (List.range (if (s.core core).stdom.getLsbD 3 then 6 else 12)).find? (fun i => (s.thread ⟨core, i + 1⟩).run == .dormant) = some j →
        let x := y.setThread ⟨core, j + 1⟩ (arrivedThread home (y.thread home).task bytes (dieCycle y (dieOf y core)) (y.ctx (ctxOf y home)).haltedAll)
        Moves (.migrationArrival n) s (x.setThread home { x.thread home with awayAt := some ⟨core, j + 1⟩ }))) ∧
    (∀ c n h, (s.thread ⟨c, n⟩).homeOf = some h → (s.thread ⟨c, n⟩).chain = none → (s.thread ⟨c, n⟩).inh = false →
      (s.thread h).asyncq ≠ [] → (s.thread ⟨c, n⟩).halted = none → awaitsReply (s.thread ⟨c, n⟩) = false →
      stopWaits s ⟨c, n⟩ .goHome = none →
      Moves (.migrationReturn c n) s (returnHome s ⟨c, n⟩))

/-- BARI sets the count of a barrier of the own core with no arrivals, and raises OPERAND_RANGE or BAR_STATE otherwise. BARA
performs the thread's posted stores, sends the arrival to the barrier's core and parks until the reply writes gD. An arrival at
a barrier whose count it completes clears the arrivals and steps the phase; one at a barrier that is not set replies BAR_STATE;
the reply carries the phase found. Both wait for the clock of the die that they reach. BARW passes when the phase differs from
gB and parks otherwise. -/
def Obligations.Barriers : Prop :=
  ∀ (st : BitVec 3) (d a b : BitVec 5) (s : State),
    let f : Form := { gForm [a, b] with cls := .irrev, home := true }
    let g : Form := { gForm [a] with cls := .irrev, home := true }
    let x := s.me.readG a.toNat
    let ix := x.toNat % 2048
    let vc := x.toNat / 65536 % 8192
    let n := (s.me.readG b.toNat).toNat % 65536
    let c := (begun f s).core s.cur.core
    (Issues f s →
      (vc ≠ vcIn (begun f s) (ctxOf (begun f s) s.cur) s.cur.core → Raises (.bari st d a b) s cOPERAND_RANGE x) ∧
      (vc = vcIn (begun f s) (ctxOf (begun f s) s.cur) s.cur.core →
        (n = 0 → Raises (.bari st d a b) s cOPERAND_RANGE (s.me.readG b.toNat)) ∧
        (n ≠ 0 → (c.bar ix).arrived ≠ 0 → Raises (.bari st d a b) s cBAR_STATE x) ∧
        (n ≠ 0 → (c.bar ix).arrived = 0 →
          Passes (.bari st d a b) s ((begun f s).setCore s.cur.core (c.setBar ix ⟨n, 0, (c.bar ix).phase⟩)))) ∧
      (∀ e, destCore (begun f s) s.cur vc = some e →
        (((begun f s).core e).bar ix).phase ≠ (s.me.readG b.toNat).toNat % 2 ^ 32 → Passes (.barw st d a b) s (begun f s)) ∧
      (∀ e, destCore (begun f s) s.cur vc = some e →
        (((begun f s).core e).bar ix).phase = (s.me.readG b.toNat).toNat % 2 ^ 32 →
        exec (.barw st d a b) s = stopped (atIssue s) s.cur (.park true .reissue)) ∧
      (destCore (begun f s) s.cur vc = none → Raises (.barw st d a b) s cMSG_DENIED x)) ∧
    (Issues g s →
      (∀ e, destCore (begun g s) s.cur vc = some e →
        let z := drainPosted (begun g s) s.cur
        Sends (.bara st d a b) s { z with flights := z.flights ++ [.barArrive s.cur e ix] } true d.toNat) ∧
      (destCore (begun g s) s.cur vc = none → Raises (.bara st d a b) s cMSG_DENIED x)) ∧
    (∀ k src e j, s.flights[k]? = some (.barArrive src e j) → settClock s (settOf e) = true →
      let z := { s with flights := s.flights.eraseIdx k }
      let y := (z.core e).bar j
      let rep (z : State) (r : Flight) : State := { z with flights := z.flights ++ [r] }
      Moves (.barrierArrival k) s
        (if y.count = 0 then rep z (.barReply src true (BitVec.ofNat 64 (j + 65536 * vcIn z (ctxOf z src) e)) 0)
         else if y.arrived + 1 = y.count then
           rep (z.setCore e ((z.core e).setBar j ⟨y.count, 0, (y.phase + 1) % 2 ^ 32⟩)) (.barReply src false 0 y.phase)
         else rep (z.setCore e ((z.core e).setBar j ⟨y.count, y.arrived + 1, y.phase⟩)) (.barReply src false 0 y.phase))) ∧
    (∀ k src bad id ph, s.flights[k]? = some (.barReply src bad id ph) → settClock s (settOf src.core) = true →
      let z := { s with flights := s.flights.eraseIdx k }
      Moves (.barrierReply k) s (if bad then replyTrap z src cBAR_STATE id else reply z src (BitVec.ofNat 64 ph)))

/-- SPAWN from T0 of a dormant Tn makes it ready at the record's pc with g4 to g6 the record's arguments, g2 at the start of its
stack, every other g, v and k register as after reset, FFLAGS 0, TCTL.RM and TCTL.CHK, TVEC, ESCR and seg0 to seg6 of T0, and
seg7 n limits further on, halted where its whole context is; a thread that is not dormant raises THREAD_BUSY, a number that
names no work thread OPERAND_RANGE, and nothing changes. REAP passes on a dormant thread, makes an idle one that holds no banks
dormant, raises ACC_HELD on one that holds banks, and otherwise parks. -/
def Obligations.SpawnAndReap : Prop :=
  ∀ (st : BitVec 3) (d a b : BitVec 5) (s : State),
    let f : Form := { gForm [a, b] with role := .t0, cls := .irrev }
    let g : Form := { gForm [a] with role := .t0, cls := .irrev }
    let n := (s.me.readG a.toNat).toNat % 16
    let tn (z : State) : Thread := (z.core s.cur.core).thread n
    s.meth = none →
    (∀ kind ks, Issues f s → 1 ≤ n → n ≤ (if bit ((begun f s).core s.cur.core).stdom 3 then 6 else 12) →
      ownBlock (begun f s) s.cur (s.me.readG b.toNat) 32 32 rRD = .ok (kind, ks) →
      let y := settlePosted (begun f s) s.cur ks
      ((tn (begun f s)).run = .dormant →
        let z := drainPosted y s.cur
        let t0 := z.thread s.cur
        let r := taskRecOf (readPlaces y ks) 0
        let x := spawnThread (tn (begun f s)) t0 r n (issueCycle z s.cur + 1)
        Passes (.spawn st d a b) s (z.setThread ⟨s.cur.core, n⟩
          (if (z.ctx (ctxOf z s.cur)).haltedAll then { x with halted := some 10 } else x)) ∧
        x.run = .ready ∧ x.pc = r.pc &&& ~~~3#64 ∧ x.readG 4 = r.a0 ∧ x.readG 5 = r.a1 ∧ x.readG 6 = r.a2 ∧
        x.readG 2 = 0xE000000000000000 ∧ (∀ j < 32, j ≠ 2 → j ≠ 4 → j ≠ 5 → j ≠ 6 → x.readG j = 0) ∧ (∀ j < 32, x.readV j = 0) ∧
        (∀ j < 8, x.readK j = if j = 0 then 0xFFFF else 0) ∧ x.fflags = 0 ∧ x.tctl = t0.tctl &&& 7 ∧ x.tvec = t0.tvec ∧
        x.escr = t0.escr ∧ (∀ j : Fin 7, x.segBase[j.val]'(by omega) = t0.segBase[j.val]'(by omega)) ∧ x.segLimit = t0.segLimit ∧
        x.segBase[7].toNat % 2 ^ 48 = (t0.segBase[7].toNat + n * t0.segLimit[7].toNat) % 2 ^ 48 ∧
        x.segBase[7].toNat / 2 ^ 56 = t0.segBase[7].toNat / 2 ^ 56) ∧
      ((tn (begun f s)).run ≠ .dormant → Raises (.spawn st d a b) s cTHREAD_BUSY (BitVec.ofNat 64 n))) ∧
    (Issues f s → (n = 0 ∨ (if bit ((begun f s).core s.cur.core).stdom 3 then 6 else 12) < n) →
      Raises (.spawn st d a b) s cOPERAND_RANGE (s.me.readG a.toNat)) ∧
    (Issues g s → 1 ≤ n → n ≤ 12 →
      let t := tn (begun g s)
      let held := bankHeld ((begun g s).core s.cur.core) n
      (t.run = .dormant → Passes (.reap st d a b) s (begun g s)) ∧
      (∀ x y, t.run = .idle x y → t.inh = false → held = 0 → Passes (.reap st d a b) s
        ((begun g s).setThread ⟨s.cur.core, n⟩ { t with run := .dormant, task := .none, chain := none })) ∧
      (∀ x y, t.run = .idle x y → t.inh = false → held ≠ 0 → Raises (.reap st d a b) s cACC_HELD held) ∧
      (t.run = .idleAlways → t.inh = false → held = 0 → Passes (.reap st d a b) s
        ((begun g s).setThread ⟨s.cur.core, n⟩ { t with run := .dormant, task := .none, chain := none })) ∧
      (t.run = .idleAlways → t.inh = false → held ≠ 0 → Raises (.reap st d a b) s cACC_HELD held) ∧
      (t.run ≠ .dormant → ((∀ x y, t.run ≠ .idle x y) ∧ t.run ≠ .idleAlways) ∨ t.inh = true →
        exec (.reap st d a b) s = stopped (atIssue s) s.cur (.park true .reissue))) ∧
    (Issues g s → (n = 0 ∨ 12 < n) → Raises (.reap st d a b) s cOPERAND_RANGE (s.me.readG a.toNat))

/-- FORK increments the counter (an rmw at the steal domain's scope, at home, after the thread's posted stores) unless it has
none, and pushes the record, or raises TASK_OVERFLOW where the deque and its overflow area are full. JOIN passes when the
counter is 0 and parks otherwise. TEND decrements the counter of a task, or finishes an ordered task, and the thread looks for
work: its deque last in first out, an ordered task of the lowest key, a theft first in first out, else it is idle; with banks
held it raises ACC_HELD. With a record in the core's deque the thread starts the last one pushed at its pc with g4 to g6 its
arguments, and the deque loses it; with an empty deque, no ordered task to take and nothing to steal it becomes idle. -/
def Obligations.TasksAndSearch : Prop :=
  (
  ∀ (st : BitVec 3) (d a b : BitVec 5) (s : State),
    let f : Form := { gForm [a, b] with role := .work, cls := .forbid, home := true }
    let g : Form := { gForm [a] with role := .work, cls := .forbid }
    let h : Form := { role := .work, home := true }
    let addr := s.me.readG b.toNat
    let push (z : State) (r : TaskRec) : State :=
      let c := z.core s.cur.core
      let n := c.deque.length
      z.setCore s.cur.core { c with
        deque := c.deque ++ [r]
        spad := if 256 ≤ n then c.spad.putBytes (c.ovflBase + 64 * (n - 256)) ((List.range 64).map (Config.overflowByte z.freeCount)) else c.spad }
    let room (z : State) : Prop := (z.core s.cur.core).deque.length < 256 + (z.core s.cur.core).ovfl
    (∀ kind ks, Issues f s → ownBlock (begun f s) s.cur (s.me.readG a.toNat) 32 32 rRD = .ok (kind, ks) →
      let y := settlePosted (begun f s) s.cur ks
      let r := taskRecOf (readPlaces y ks) addr
      let z := drainPosted y s.cur
      (room y → addr = 0 → Passes (.fork st d a b) s (push z r)) ∧
      (∀ k q, room y → addr ≠ 0 → accessHere z s.cur addr 8 rAMO true (some (domainScope (y.core s.cur.core), false)) = .ok k →
        rmwAt z s.cur k 8 (fun x => some ((x + 1) % 2 ^ 64)) = .ok q → Passes (.fork st d a b) s (push q.1 r)) ∧
      (∀ e, room y → addr ≠ 0 → accessHere z s.cur addr 8 rAMO true (some (domainScope (y.core s.cur.core), false)) = .error e →
        exec (.fork st d a b) s = stopped (atIssue s) s.cur e) ∧
      (¬ room y → Raises (.fork st d a b) s cTASK_OVERFLOW addr)) ∧
    (∀ kind ks y, Issues g s → Reaches (begun g s) s.cur (s.me.readG a.toNat) 8 rRD true none true false kind ks y →
      (leNat (readPlaces y ks) = 0 → Passes (.join st d a b) s y) ∧
      (leNat (readPlaces y ks) ≠ 0 → exec (.join st d a b) s = stopped (atIssue s) s.cur (.park true .reissue))) ∧
    (Issues h s →
      let z := begun h s
      let held := bankHeld (z.core s.cur.core) s.cur.thr
      let fin (z : State) : State :=
        lookForWork (z.setThread s.cur { (z.thread s.cur).advance ((z.thread s.cur).pc + 4) st.toNat (issueCycle z s.cur) with task := .none }) s.cur
      (held ≠ 0 → Raises (.tend st d a b) s cACC_HELD held) ∧
      (held = 0 → (s.me.task = .task 0 → Settles (.tend st d a b) s (fin z)) ∧
        (∀ c k q, s.me.task = .task c → c ≠ 0 →
          accessHere (drainPosted z s.cur) s.cur c 8 rAMO true (some (domainScope (z.core s.cur.core), false)) = .ok k →
          rmwAt (drainPosted z s.cur) s.cur k 8 (fun x => some ((x + 2 ^ 64 - 1) % 2 ^ 64)) = .ok q →
          Settles (.tend st d a b) s (fin q.1)) ∧
        (∀ c e, s.me.task = .task c → c ≠ 0 →
          accessHere (drainPosted z s.cur) s.cur c 8 rAMO true (some (domainScope (z.core s.cur.core), false)) = .error e →
          exec (.tend st d a b) s = stopped (atIssue s) s.cur e) ∧
        (∀ ts seq, s.me.task = .ordered ts seq →
          Settles (.tend st d a b) s (fin (setTaskState (drainPosted z s.cur) s.cur .finished)))))) ∧
  (
  ∀ (s : State) (t : Tid), t.thr < 16 → s.meth = none →
    (∀ r rs, (s.core t.core).deque = rs ++ [r] →
      let z := lookForWork s t
      (z.core t.core).deque = rs ∧ (z.thread t).run = .ready ∧ (z.thread t).pc = r.pc &&& ~~~3#64 ∧ (z.thread t).task = .task r.counter ∧
      (z.thread t).finalG 4 = r.a0 ∧ (z.thread t).finalG 5 = r.a1 ∧ (z.thread t).finalG 6 = r.a2 ∧
      (∀ j < 32, j ≠ 4 → j ≠ 5 → j ≠ 6 → (z.thread t).finalG j = (s.thread t).finalG j)) ∧
    ((s.core t.core).deque = [] → orderedFor s t = none → steal s ((stealOrder s t).drop 1) = none →
      OnlyThread t s (lookForWork s t) ∧ ((lookForWork s t).thread t).run = .idle false none))

/-- TSPAWN queues a task with its timestamp and the domain's next sequence number, which gD takes; the horizon is then at most
its timestamp (the model's choice, log 69); a timestamp below the parent's, or below the floor, raises OPERAND_RANGE. TSTAMP
gives the task's timestamp, its sequence number or the horizon. A recomputation, every 256 cycles of the die unless its clock
stands, commits the finished tasks older than every live one, sets the horizon to the oldest remaining timestamp, and makes the
oldest task, if it waits, protected. -/
def Obligations.OrderedTasks : Prop :=
  ∀ (st : BitVec 3) (d a b : BitVec 5) (s : State),
    let f : Form := { gForm [a, b] with role := .work, home := true }
    let g : Form := { gForm [a] with role := .work }
    let ts := (s.me.readG b.toNat).toNat
    (∀ kind ks, Issues f s → s.me.mig = false → ownBlock (begun f s) s.cur (s.me.readG a.toNat) 32 32 rRD = .ok (kind, ks) →
      let z := settlePosted (begun f s) s.cur ks
      let u := unitOf z s.cur
      let dom := (z.unit u).domain
      let me := taskOf z s.cur
      let bad := match me with | some p => ts < p.ts | none => ts < dom.floor
      (bad → Raises (.tspawn st d a b) s cOPERAND_RANGE (s.me.readG b.toNat)) ∧
      (¬ bad → holtTasks z u < 3840 →
        let y := drainPosted z s.cur
        let x := y.unit u
        let now := issueCycle y s.cur
        Yields (.tspawn st d a b) s (y.setUnit u { x with domain := { x.domain with
          counter := x.domain.counter + 1
          horizon := min x.domain.horizon ts
          nextRecompute := if x.domain.tasks.isEmpty then (now / 256 + 1) * 256 else x.domain.nextRecompute
          tasks := x.domain.tasks ++
            [⟨ts, dom.counter, taskRecOf (readPlaces z ks) 0, me.map OTask.key, .queued, false, 0, 0, 0, [], [], []⟩] } }) d.toNat
          (BitVec.ofNat 64 dom.counter))) ∧
    (Issues f s → s.me.mig = true → Raises (.tspawn st d a b) s cOTASK_STATE 3) ∧
    (Issues g s →
      let z := begun g s
      let sel := (s.me.readG a.toNat).toNat % 4
      (∀ y, taskOf z s.cur = some y → sel = 0 → Yields (.tstamp st d a b) s z d.toNat (BitVec.ofNat 64 y.ts)) ∧
      (∀ y, taskOf z s.cur = some y → sel = 1 → Yields (.tstamp st d a b) s z d.toNat (BitVec.ofNat 64 y.seq)) ∧
      (sel = 2 → Yields (.tstamp st d a b) s z d.toNat (BitVec.ofNat 64 (z.unit (unitOf z s.cur)).domain.horizon)) ∧
      (taskOf z s.cur = none → sel < 2 → Raises (.tstamp st d a b) s cOTASK_STATE 1) ∧
      (sel = 3 → Raises (.tstamp st d a b) s cOPERAND_RANGE (s.me.readG a.toNat))) ∧
    (∀ ctx vh h, unitHolt s (ctx * 2 ^ 16 + vh) = some h →
      let k := ctx * 2 ^ 16 + vh
      let due := (s.unit k).domain.nextRecompute
      let z := advanceTo s (h / 24) due
      let next := (max (dieCycle z (h / 24)) due / 256 + 1) * 256
      let r := recomputeDomain (z.unit k).domain
      let y := r.2.foldl (fun z y => releaseSlot z y.core y.slot) z
      ((z.die (h / 24)).relock = none →
        Moves (.recompute ctx vh) s (protectOldest (y.setUnit k { y.unit k with domain := { r.1 with nextRecompute := next } }) k)) ∧
      ((z.die (h / 24)).relock ≠ none →
        Moves (.recompute ctx vh) s (z.setUnit k { z.unit k with domain := { (z.unit k).domain with nextRecompute := next } }))) ∧
    (∀ (dm : Domain) (l : OTask), oldest (dm.tasks.filter fun y => y.st != .finished) = some l →
      (∀ y ∈ (recomputeDomain dm).2, y ∈ dm.tasks ∧ y.st = .finished ∧ keyLt y.key l.key = true) ∧
      (∀ y ∈ (recomputeDomain dm).1.tasks, y ∈ dm.tasks))

/-- IDLE writes to gD the selected conditions that hold, if any; otherwise the thread goes idle at its own word. T0 with no
condition selected, T1 to T12 dormant and no trap pending ends its core's part of the launch. YIELD passes and lets the other
ready threads issue first. YPT passes, and in the grace window of a gang switch performs the thread's posted stores, records its
place and stops the thread. The end of a stall or of an HSCH wait brings time to the cycle at which the thread may issue; an
HSCH.IDLE wait for the tile engine ends when no command of the thread is held; the first owed value of an interlocked producer
is written at its due time, after which no reader waits for it, without changing the value the register ends with; a change of a
watched line wakes the thread, or lets an idle work thread look for work; an idle thread's time wakes it at its GTS; both while
the die's clock runs. -/
def Obligations.IdleYieldAndWaits : Prop :=
  (
  ∀ (st : BitVec 3) (d a b : BitVec 5) (s : State),
    let f : Form := { gForm [a, b] with home := true }
    let z := begun f s
    let th := z.thread s.cur
    let mask := s.me.readG a.toNat &&& idleRole s.cur.thr
    let hit := mask &&& idleHolds z s.cur (s.me.readG b.toNat)
    let past (y : State) : Thread := (y.thread s.cur).advance (s.me.pc + 4) st.toNat (issueCycle y s.cur)
    (Issues f s → hit ≠ 0 → Yields (.idle st d a b) s z d.toNat hit) ∧
    (Issues f s → hit = 0 → (mask = 0 ∧ s.cur.thr = 0 ∧ s.me.asyncq.isEmpty ∧
        (List.range 12).all (fun i => (z.thread ⟨s.cur.core, i + 1⟩).run == .dormant)) →
      Settles (.idle st d a b) s (endT0 (z.setThread s.cur (past z)) s.cur)) ∧
    (Issues f s → hit = 0 → mask = 0 → (s.cur.thr ≠ 0 ∨ s.me.asyncq.isEmpty = false ∨
        (List.range 12).all (fun i => (z.thread ⟨s.cur.core, i + 1⟩).run == .dormant) = false) →
      Settles (.idle st d a b) s (z.setThread s.cur { th.rewind with run := .idleAlways })) ∧
    (Issues f s → hit = 0 → mask ≠ 0 →
      Settles (.idle st d a b) s (z.setThread s.cur { th.rewind with
        run := .idle true (if mask.getLsbD 2 then some (s.me.readG b.toNat).toNat else none) })) ∧
    (∀ y, y = begun {} s → Issues {} s →
      let cyc := issueCycle y s.cur
      Settles (.yield st d a b) s (y.setThread s.cur { ((y.thread s.cur).timed cyc).advance (s.me.pc + 4) st.toNat cyc with
        yieldFor := othersReady y s.cur cyc, yieldEnd := cyc + 17 })) ∧
    (∀ y, y = begun (gForm [a, b]) s → Issues (gForm [a, b]) s →
      (inGrace y s.cur = false ∨ speculative y s.cur = true → Passes (.ypt st d a b) s y) ∧
      (inGrace y s.cur = true → speculative y s.cur = false →
        let z := drainPosted y s.cur
        Settles (.ypt st d a b) s (z.setThread s.cur { stopThread (past z) with
          yielded := some (s.me.readG a.toNat, s.me.readG b.toNat) })))) ∧
  (
  ∀ (s : State) (c t : Nat), t < 16 →
    let id : Tid := ⟨c, t⟩
    let th := s.thread id
    (th.run = .ready → Moves (.stallExpiry c t) s (advanceTo s (dieOf s c) th.readyAt) ∧
      Moves (.hschWaitExpiry c t) s (advanceTo s (dieOf s c) th.readyAt)) ∧
    (∀ n, th.run = .parkedEngine .tileIdle n → tileHolds (s.core c).tile t = false →
      Moves (.hschWaitExpiry c t) s (s.setThread id { th with run := .ready })) ∧
    (Answers (.interlockedValueWrite c t) s fun s' =>
      RegsOnly id s s' [] [] [] false th.pc ∧ (∀ p ∈ (s'.thread id).pend, p ∈ th.pend) ∧
      (∀ due, (th.owed.map (·.due)).min? = some due → (s'.thread id).owed = th.owed.filter fun e => decide (due < e.due))) ∧
    (∀ g, th.run = .idle true (some g) → dieRuns (advanceGts s g) (dieOf (advanceGts s g) c) = true → Moves (.idleTimeWake c t) s (wake (advanceGts s g) id)) ∧
    (∀ g, th.run = .idle false g → th.halted = none → th.stopped = false → displaced (s.core c) t = false →
      dieRuns s (dieOf s c) = true → Moves (.lineWake c t) s (lookForWork s id)) ∧
    (∀ w n, th.run = .parkedSync w n → dieRuns s (dieOf s c) = true → Moves (.lineWake c t) s (wake s id)))

/-- On integer lanes (.s32, .n32) VADD, VSUB, VMUL and VFMA wrap modulo 2^32, VMIN and VMAX compare as the lane type, VABS and
VNEG give the absolute and negated value (saturating with SAT where asked), VSHL and VSHR shift by the low 5 bits (arithmetic
for .s32), and VAND, VOR and VXOR work on bits; only the active lanes of vD are written, flags come from active lanes only, the
hold latches load, and nothing else changes but the pc. -/
def Obligations.VectorIntegerLanes : Prop :=
  ∀ (st : BitVec 3) (d a b : BitVec 5) (k : BitVec 3) (h j : BitVec 1) (u : BitVec 2),
    let p : VPos := { a := some a.toNat, b := some b.toNat, ha := h == 1#1, hb := j == 1#1 }
    let pd : VPos := { p with d := some d.toNat }
    let pa : VPos := { a := some a.toNat, ha := h == 1#1 }
    let kk (t : Thread) : Pred := t.readK k.toNat
    let rd : List (RegFile × Nat) := [(.k, k.toNat)]
    let less (x y : BitVec 32) : Bool := if u = 1 then decide (x.toInt < y.toInt) else decide (x.toNat < y.toNat)
    (∀ (i : Instr) (f : BitVec 32 → BitVec 32 → BitVec 32), (i, f) ∈ ([
        (.vadd st d a b k h j u, fun x y => BitVec.ofNat 32 (x.toNat + y.toNat)),
        (.vsub st d a b k h j u, fun x y => BitVec.ofInt 32 (x.toInt - y.toInt)),
        (.vmul st d a b k h j u, fun x y => BitVec.ofNat 32 (x.toNat * y.toNat)),
        (.vmin st d a b k h j u, fun x y => if less x y then x else y),
        (.vmax st d a b k h j u, fun x y => if less x y then y else x),
        (.vshl st d a b k h j u, fun x y => BitVec.ofNat 32 (x.toNat * 2 ^ (y.toNat % 32))),
        (.vshr st d a b k h j u, fun x y => if u = 1 then BitVec.ofInt 32 (x.toInt / 2 ^ (y.toNat % 32))
          else BitVec.ofNat 32 (x.toNat / 2 ^ (y.toNat % 32)))] : List (Instr × (BitVec 32 → BitVec 32 → BitVec 32))) →
      u = 1 ∨ u = 2 → WritesLanes i p rd d.toNat kk fun _ _ A B l => ((f (lane A l) (lane B l)).toNat, 0)) ∧
    (u = 1 ∨ u = 2 → WritesLanes (.vfma st d a b k h j u) pd rd d.toNat kk fun _ D A B l =>
      ((BitVec.ofNat 32 ((lane A l).toNat * (lane B l).toNat + (lane D l).toNat)).toNat, 0)) ∧
    (∀ (i : Instr) (f : BitVec 32 → BitVec 32 → BitVec 32), (i, f) ∈ ([
        (.vand st d a b k h j u, fun x y => x &&& y), (.vor st d a b k h j u, fun x y => x ||| y),
        (.vxor st d a b k h j u, fun x y => x ^^^ y)] : List (Instr × (BitVec 32 → BitVec 32 → BitVec 32))) →
      WritesLanes i p rd d.toNat kk fun _ _ A B l => ((f (lane A l) (lane B l)).toNat, 0)) ∧
    (u = 1 →
      WritesLanes (.vabs st d a k h j u) pa rd d.toNat kk (fun t _ A _ l =>
        if lane A l = 0x80000000 then (if t.satMod then (0x7FFFFFFF, SATF) else (0x80000000, 0)) else ((lane A l).toInt.natAbs, 0)) ∧
      WritesLanes (.vneg st d a k h j u) pa rd d.toNat kk (fun t _ A _ l =>
        if lane A l = 0x80000000 then (if t.satMod then (0x7FFFFFFF, SATF) else (0x80000000, 0))
        else ((BitVec.ofInt 32 (-(lane A l).toInt)).toNat, 0)))

/-- On FP32 and BF16 lanes VADD, VSUB, VMUL, VFMA and VFMAB round once in the mode in force, VMIN and VMAX follow R170's order
of NaNs and zeros, VABS and VNEG change the sign bit (a NaN gives the canonical NaN); a .bf16 lane holds two elements, computed
apart. VFMAB broadcasts lane l of vA and is not predicated. Active lanes only; flags are those of active lanes; nothing else
changes. -/
def Obligations.VectorFloatLanes : Prop :=
  ∀ (st : BitVec 3) (d a b : BitVec 5) (k : BitVec 3) (h j : BitVec 1) (u : BitVec 2),
    let p : VPos := { a := some a.toNat, b := some b.toNat, ha := h == 1#1, hb := j == 1#1 }
    let pd : VPos := { p with d := some d.toNat }
    let pa : VPos := { a := some a.toNat, ha := h == 1#1 }
    let kk (t : Thread) : Pred := t.readK k.toNat
    let rd : List (RegFile × Nat) := [(.k, k.toNat)]
    let both (g : Fmt → Nat → Nat → Nat → Nat × Nat) (x y z : BitVec 32) : Nat × Nat :=
      if u = 0 then g fp32 x.toNat y.toNat z.toNat
      else
        let lo := g bf16 (x.toNat % 65536) (y.toNat % 65536) (z.toNat % 65536)
        let hi := g bf16 (x.toNat / 65536) (y.toNat / 65536) (z.toNat / 65536)
        (lo.1 + 65536 * hi.1, orFlags lo.2 hi.2)
    u = 0 ∨ u = 3 →
    (∀ (i : Instr) (g : Nat → Fmt → Nat → Nat → Nat → Nat × Nat), (i, g) ∈ ([
        (.vadd st d a b k h j u, fun m f x y _ => addF f m (decodeF f x) (decodeF f y)),
        (.vsub st d a b k h j u, fun m f x y _ => addF f m (decodeF f x) (decodeF f y).flip),
        (.vmul st d a b k h j u, fun m f x y _ => mulF f m (decodeF f x) (decodeF f y)),
        (.vmin st d a b k h j u, fun _ f x y _ => (minmaxF f false x y, 0)),
        (.vmax st d a b k h j u, fun _ f x y _ => (minmaxF f true x y, 0))] : List (Instr × (Nat → Fmt → Nat → Nat → Nat → Nat × Nat))) →
      WritesLanes i p rd d.toNat kk fun t _ A B l => both (g t.roundMode) (lane A l) (lane B l) 0) ∧
    WritesLanes (.vfma st d a b k h j u) pd rd d.toNat kk (fun t D A B l =>
      both (fun f x y z => fmaF f t.roundMode (decodeF f x) (decodeF f y) (decodeF f z)) (lane A l) (lane B l) (lane D l)) ∧
    WritesLanes (.vfmab st d a b k h j u) pd [] d.toNat (fun _ => 0xFFFF) (fun t D A B l =>
      both (fun f x y z => fmaF f t.roundMode (decodeF f x) (decodeF f y) (decodeF f z)) (lane A k.toNat) (lane B l) (lane D l)) ∧
    WritesLanes (.vabs st d a k h j u) pa rd d.toNat kk (fun _ _ A _ l =>
      both (fun f x _ _ => if (decodeF f x).isNan then (f.nanBits, 0) else (x % 2 ^ (f.bits - 1), 0)) (lane A l) 0 0) ∧
    WritesLanes (.vneg st d a k h j u) pa rd d.toNat kk (fun _ _ A _ l =>
      both (fun f x _ _ => if (decodeF f x).isNan then (f.nanBits, 0)
        else (if x % 2 ^ (f.bits - 1) = x then x + 2 ^ (f.bits - 1) else x % 2 ^ (f.bits - 1), 0)) (lane A l) 0 0)

/-- VCMP sets bit l of kD where lane l is active and the condition holds (FP32 with NaN unordered: only .ne holds; -0 equals +0;
.s32 signed, .n32 unsigned) and clears every other bit; a write to k0 is discarded. VSEL writes every lane of vD, from vA where
the predicate bit is set and from vB elsewhere. No flag is set. -/
def Obligations.VectorCompareSelect : Prop :=
  ∀ (st kd : BitVec 3) (d a b : BitVec 5) (k : BitVec 3) (h j : BitVec 1) (u : BitVec 2),
    let p : VPos := { a := some a.toNat, b := some b.toNat, ha := h == 1#1, hb := j == 1#1 }
    let rd : List (RegFile × Nat) := [(.k, k.toNat)]
    let nan (x : BitVec 32) : Bool := (decodeF fp32 x.toNat).isNan
    let eq (x y : BitVec 32) : Bool := if u = 0 then !nan x && !nan y && eqFV (decodeF fp32 x.toNat) (decodeF fp32 y.toNat) else x == y
    let lt (x y : BitVec 32) : Bool :=
      if u = 0 then !nan x && !nan y && !eq x y && ltFV (decodeF fp32 x.toNat) (decodeF fp32 y.toNat)
      else if u = 1 then decide (x.toInt < y.toInt) else decide (x.toNat < y.toNat)
    (∀ (i : Instr) (c : BitVec 32 → BitVec 32 → Bool), (i, c) ∈ ([
        (.vcmpEq st kd a b k h j u, fun x y => eq x y), (.vcmpNe st kd a b k h j u, fun x y => !eq x y),
        (.vcmpLt st kd a b k h j u, fun x y => lt x y), (.vcmpLe st kd a b k h j u, fun x y => lt x y || eq x y)] :
        List (Instr × (BitVec 32 → BitVec 32 → Bool))) →
      u ≠ 3 → WritesVK i p rd kd.toNat fun t A B l => (t.readK k.toNat).getLsbD l && c (lane A l) (lane B l)) ∧
    WritesLanes (.vsel st d a b k h j u) p rd d.toNat (fun _ => 0xFFFF)
      (fun t _ A B l => (if (t.readK k.toNat).getLsbD l then (lane A l).toNat else (lane B l).toNat, 0))

/-- VRCP, VRSQ, VEXP2 and VLOG2 write the correctly rounded function of each active FP32 lane with its flags; VCVT converts FP32
to s32 or n32 (saturating), back, and to and from the BF16, FP16, E4M3 or E5M2 part of a lane that its selector names, the rest
of the destination lane staying. Nothing else changes but flags, latches and the pc. -/
def Obligations.VectorFunctionsAndConversions : Prop :=
  ∀ (st : BitVec 3) (d a : BitVec 5) (k : BitVec 3) (h j w : BitVec 1) (u y : BitVec 2),
    let pa : VPos := { a := some a.toNat, ha := h == 1#1 }
    let pd : VPos := { pa with d := some d.toNat }
    let kk (t : Thread) : Pred := t.readK k.toNat
    let rd : List (RegFile × Nat) := [(.k, k.toNat)]
    let put (D : BitVec 32) (o n : Nat) (x : Nat) : Nat :=
      ((D &&& ~~~(BitVec.ofNat 32 ((2 ^ n - 1) * 2 ^ o))) ||| (BitVec.ofNat 32 (x * 2 ^ o) &&& BitVec.ofNat 32 ((2 ^ n - 1) * 2 ^ o))).toNat
    (∀ (i : Instr) (g : Nat → FV → Nat × Nat), (i, g) ∈ ([(.vrcp st d a k h j 0, rcpF), (.vrsq st d a k h j 0, rsqF),
        (.vexp2 st d a k h j 0, exp2F), (.vlog2 st d a k h j 0, log2F)] : List (Instr × (Nat → FV → Nat × Nat))) →
      WritesLanes i pa rd d.toNat kk fun t _ A _ l => g t.roundMode (decodeF fp32 (lane A l).toNat)) ∧
    WritesLanes (.vcvtF2s st d a k h j u) pa rd d.toNat kk (fun t _ A _ l =>
      let r := encodeInt t.roundMode (-2147483648) 2147483647 false (decodeF fp32 (lane A l).toNat)
      ((BitVec.ofInt 32 r.1).toNat, r.2)) ∧
    WritesLanes (.vcvtF2n st d a k h j u) pa rd d.toNat kk (fun t _ A _ l =>
      let r := encodeInt t.roundMode 0 4294967295 false (decodeF fp32 (lane A l).toNat)
      (r.1.toNat, r.2)) ∧
    WritesLanes (.vcvtS2f st d a k h j u) pa rd d.toNat kk (fun t _ A _ l =>
      encodeF fp32 t.roundMode t.satMod (FV.ofDy false (.ofInt (lane A l).toInt))) ∧
    WritesLanes (.vcvtN2f st d a k h j u) pa rd d.toNat kk (fun t _ A _ l =>
      encodeF fp32 t.roundMode t.satMod (FV.ofDy false (.ofInt (lane A l).toNat))) ∧
    (∀ (i : Instr) (f : Fmt) (o : Nat), (i, f, o) ∈ ([(.vcvtF2b st d a w k h j u, bf16, 16 * w.toNat),
        (.vcvtF2h st d a w k h j u, fp16, 16 * w.toNat), (.vcvtF2e4 st d a y k h j u, e4m3, 8 * y.toNat),
        (.vcvtF2e5 st d a y k h j u, e5m2, 8 * y.toNat)] : List (Instr × Fmt × Nat)) →
      WritesLanes i pd rd d.toNat kk fun t D A _ l =>
        let r := encodeF f t.roundMode t.satMod (decodeF fp32 (lane A l).toNat)
        (put (lane D l) o f.bits r.1, r.2)) ∧
    (∀ (i : Instr) (f : Fmt) (o : Nat), (i, f, o) ∈ ([(.vcvtB2f st d a w k h j u, bf16, 16 * w.toNat),
        (.vcvtH2f st d a w k h j u, fp16, 16 * w.toNat), (.vcvtE4f st d a y k h j u, e4m3, 8 * y.toNat),
        (.vcvtE5f st d a y k h j u, e5m2, 8 * y.toNat)] : List (Instr × Fmt × Nat)) →
      WritesLanes i pa rd d.toNat kk fun _ _ A _ l =>
        ((encodeF fp32 0 false (decodeF f ((lane A l).toNat / 2 ^ o % 2 ^ f.bits))).1, 0))

/-- An inactive lane counts as the operation's identity (Table 9.6). VRED combines lanes 2i and 2i + 1 over four levels and
writes the result to all 16 lanes; VSCAN writes to each active lane the combination of lanes 0 to it, from lane 0 upwards; both
take every flag of the combinations they make, sums of FP32 rounding to nearest even. Nothing else changes but latches and the
pc. -/
def Obligations.VectorReductionsAndScans : Prop :=
  ∀ (st : BitVec 3) (d a : BitVec 5) (x : BitVec 1) (k : BitVec 3) (h j : BitVec 1) (u : BitVec 2),
    let pa : VPos := { a := some a.toNat, ha := h == 1#1 }
    let rd : List (RegFile × Nat) := [(.k, k.toNat)]
    let input (op : Nat) (t : Thread) (A : Vec) (l : Nat) : BitVec 32 :=
      if (t.readK k.toNat).getLsbD l then lane A l else redIdentity op u.toNat
    let comb (op : Nat) (p q : BitVec 32) : BitVec 32 := BitVec.ofNat 32 (redOp op u.toNat p q).1
    u ≠ 3 →
    (∀ (i : Instr) (op : Nat), (i, op) ∈ ([(.vredSum st d a x k h j u, 0), (.vredMin st d a x k h j u, 1), (.vredMax st d a x k h j u, 2),
        (.vredAnd st d a x k h j u, 3), (.vredOr st d a x k h j u, 4), (.vredXor st d a x k h j u, 5)] : List (Instr × Nat)) →
      ∀ s, Issues (pa.form rd s) s → Answers i s fun s' =>
        let n (l : Nat) := input op s.me (pa.valA s.me) l
        let c := comb op
        let q (l : Nat) := c (c (n (4 * l)) (n (4 * l + 1))) (c (n (4 * l + 2)) (n (4 * l + 3)))
        (∀ l < 16, lane ((s'.thread s.cur).finalV d.toNat) l = c (c (q 0) (q 1)) (c (q 2) (q 3))) ∧
        RegsOnly s.cur (latched pa s) s' [] [d.toNat] [] true (s.me.pc + 4)) ∧
    (∀ (i : Instr) (op : Nat), (i, op) ∈ ([(.vscanSum st d a x k h j u, 0), (.vscanMin st d a x k h j u, 1),
        (.vscanMax st d a x k h j u, 2), (.vscanAnd st d a x k h j u, 3), (.vscanOr st d a x k h j u, 4),
        (.vscanXor st d a x k h j u, 5)] : List (Instr × Nat)) →
      ∀ s, Issues (pa.form rd s) s → Answers i s fun s' =>
        let n (l : Nat) := input op s.me (pa.valA s.me) l
        (∀ l < 16, lane ((s'.thread s.cur).finalV d.toNat) l =
          if (s.me.readK k.toNat).getLsbD l then ((List.range l).foldl (fun acc m => comb op acc (n (m + 1))) (n 0))
          else lane (s.me.finalV d.toNat) l) ∧
        RegsOnly s.cur (latched pa s) s' [] [d.toNat] [] true (s.me.pc + 4))

/-- VPERM takes lane (vB[l] mod 16) of vA, VROT lane (l + n) mod 16, VINS writes gA[31:0] to lane l of vD and VBCST to every
active lane; VLANE writes lane l of vA to gD, zero-extended, unless the lane's predicate bit is 0. VQNT writes the MQ4 codes and
scale of the 64 elements of four registers under the scale in lane 0 of vB, VDQ writes the four registers decoded from them.
Nothing else changes but flags, latches and the pc. -/
def Obligations.VectorLaneMovement : Prop :=
  ∀ (st : BitVec 3) (d a b : BitVec 5) (x : BitVec 1) (n : BitVec 4) (k : BitVec 3) (h j : BitVec 1) (u : BitVec 2),
    let p : VPos := { a := some a.toNat, b := some b.toNat, ha := h == 1#1, hb := j == 1#1 }
    let pa : VPos := { a := some a.toNat, ha := h == 1#1 }
    let kk (t : Thread) : Pred := t.readK k.toNat
    let rd : List (RegFile × Nat) := [(.k, k.toNat)]
    WritesLanes (.vperm st d a b k h j u) p rd d.toNat kk (fun _ _ A B l => ((lane A ((lane B l).toNat % 16)).toNat, 0)) ∧
    WritesLanes (.vrot st d a x n k h j u) pa rd d.toNat kk (fun _ _ A _ l => ((lane A ((l + n.toNat) % 16)).toNat, 0)) ∧
    WritesLanes (.vbcst st d a b k h j) {} ((.g, a.toNat) :: rd) d.toNat kk (fun t _ _ _ _ => ((t.readG a.toNat).toNat % 2 ^ 32, 0)) ∧
    WritesLanes (.vins st d a x n k h j) {} ((.g, a.toNat) :: rd) d.toNat (fun t => kk t &&& (1#16 <<< n.toNat))
      (fun t _ _ _ _ => ((t.readG a.toNat).toNat % 2 ^ 32, 0)) ∧
    (∀ s, Issues (pa.form rd s) s → Answers (.vlane st d a x n k h j) s fun s' =>
      (s'.thread s.cur).finalG d.toNat = (if d = 0 then 0 else if (kk s.me).getLsbD n.toNat then (lane (pa.valA s.me) n.toNat).setWidth 64
        else s.me.finalG d.toNat) ∧
      RegsOnly s.cur (latched pa s) s' [d.toNat] [] [] false (s.me.pc + 4)) ∧
    (a.toNat % 4 = 0 → WritesV (.vqnt st d a b k h j)
      { a := some a.toNat, b := some b.toNat, more := [a.toNat + 1, a.toNat + 2, a.toNat + 3] } [] d.toNat
      (fun t _ A B => (quantised (lane B 0).toNat (blockOf [A, t.readV (a.toNat + 1), t.readV (a.toNat + 2), t.readV (a.toNat + 3)])).1)
      (fun t _ A B => (quantised (lane B 0).toNat (blockOf [A, t.readV (a.toNat + 1), t.readV (a.toNat + 2), t.readV (a.toNat + 3)])).2)) ∧
    (d.toNat % 4 = 0 → ∀ s, Issues (({ a := some a.toNat } : VPos).form [] s) s → Answers (.vdq st d a b k h j) s fun s' =>
      let A := s.me.readV a.toNat
      let sc := (lane A 9).toNat
      let kind := if (lane A 8).toNat % 256 = 255 then 3 else if (lane A 8).toNat % 256 = 254 then 2 else 1
      (∀ e < 64, lane ((s'.thread s.cur).finalV (d.toNat + e / 16)) (e % 16) =
        BitVec.ofNat 32 (mq4Element kind sc ((lane A (e / 8)).toNat / 16 ^ (e % 8) % 16))) ∧
      RegsOnly s.cur (latched { a := some a.toNat } s) s' [] [d.toNat, d.toNat + 1, d.toNat + 2, d.toNat + 3] [] true (s.me.pc + 4))

/-- VLD loads the elements of the active lanes from consecutive places, VLDS from a stride, VGTH from offsets in vB, each
decoded from the format of its shelf (VLD and VST of mq4 under the scale-table entry of the address); VST, VSTS and VSCT encode
and store them in ascending lane order. With no lane active nothing is accessed. A lane that fails a check stops the instruction
before any lane is written. Bytes outside the lanes' places, and every register but vD, stay as they were. -/
def Obligations.VectorMemory : Prop :=
  ∀ (st : BitVec 3) (d a b : BitVec 5) (k : BitVec 3) (h j : BitVec 1) (s : State),
    let p0 : VPos := {}
    let pD : VPos := { d := some d.toNat }
    let pB : VPos := { b := some b.toNat, hb := j == 1#1 }
    let pDB : VPos := { pB with d := some d.toNat }
    let one : List (RegFile × Nat) := [(.g, a.toNat), (.k, k.toNat)]
    let two : List (RegFile × Nat) := [(.g, a.toNat), (.g, b.toNat), (.k, k.toNat)]
    let start (p : VPos) (e : List (RegFile × Nat)) : State := latched p (begun (p.form e s) s)
    let act : List Nat := activeLanes (s.me.readK k.toNat)
    let D := s.me.readV d.toNat
    let B := pB.valB s.me
    (act = [] →
      (Issues (p0.form one s) s → Passes (.vld st d a b k h j) s (start p0 one)) ∧
      (Issues (p0.form two s) s → Passes (.vlds st d a b k h j) s (start p0 two)) ∧
      (Issues (pB.form one s) s → Passes (.vgth st d a b k h j) s (start pB one)) ∧
      (Issues (pD.form one s) s → Passes (.vst st d a b k h j) s (start pD one)) ∧
      (Issues (pD.form two s) s → Passes (.vsts st d a b k h j) s (start pD two)) ∧
      (Issues (pDB.form one s) s → Passes (.vsct st d a b k h j) s (start pDB one))) ∧
    (∀ (i : Instr) (p : VPos) (e : List (RegFile × Nat)) (body : Body), (i, p, e, body) ∈ ([
        (.vld st d a b k h j, p0, one, vldBody d.toNat k.toNat (vAddr a b)),
        (.vlds st d a b k h j, p0, two, gatherBody d.toNat k.toNat 0 (strideAddr a b)),
        (.vgth st d a b k h j, pB, one, gatherBody d.toNat k.toNat 0 (offsetAddr a B)),
        (.vst st d a b k h j, pD, one, vstBody k.toNat D (vAddr a b)),
        (.vsts st d a b k h j, pD, two, scatterBody k.toNat 0 D (strideAddr a b)),
        (.vsct st d a b k h j, pDB, one, scatterBody k.toNat (bankConflicts (pDB.fileReads s.me)) D (offsetAddr a B))] :
        List (Instr × VPos × List (RegFile × Nat) × Body)) →
      Issues (p.form e s) s →
      (∀ z, body (start p e) s.cur = .ok (z, .seq) → Passes i s z) ∧
      (∀ x, body (start p e) s.cur = .error x → exec i s =
        stopped (conflictEnd (bankConflicts (p.fileReads s.me)) (atIssue s) s.cur) s.cur x)) ∧
    (∀ (y : State) (t : Tid) (address : Thread → Word) (entry : BitVec 40) (ks : List (Via × List Nat)) (y' : State),
      let th := y.thread t
      let pr := th.readK k.toNat
      let f := shfmtAt y (viewOf y t) (address th)
      let c := consecutive (address th) (f % 16) pr
      let value (l x : Nat) : Nat :=
        if f % 16 = 7 then mq4Element (entryKind entry) (entryScale entry) (nibble l x) else decodeElem (f % 16) x
      let Entry : Prop := if f % 16 = 7 then mq4Entry y (viewOf y t) (address th) f = .ok entry else entry = 0
      activeLanes pr ≠ [] → Entry →
      (vecCheck y t rRD c.1 c.2 = .ok ks → vecTrack y t ks true false = .ok y' →
        vldBody d.toNat k.toNat address y t = .ok (y'.setThread t ((y'.thread t).produce .v d.toNat (laneMask pr)
          (lanesVec ((c.1.zip ks).map fun e => (e.1.lane, value e.1.lane (leNat (readPlaces y' e.2.2))))) 0 .interlocked), .seq)) ∧
      (∀ y'', vecCheck y t rWR c.1 c.2 = .ok ks → vecTrack y t ks false true = .ok y' →
        methJournal y' (ks.map (·.2)).flatten = .ok y'' →
        let r := storeLanes (noteStore y'' t (ks.map (·.2)).flatten) th D (c.1.map fun _ => f) entry (c.1.zip ks)
        vstBody k.toNat D address y t = .ok (r.1.setThread t (addFlags (r.1.thread t) r.2), .seq))) ∧
    (∀ (y : State) (t : Tid) (address : Thread → Nat → Word) (n : Nat) (ks : List (Via × List Nat)) (y' : State),
      let th := y.thread t
      let pr := th.readK k.toNat
      let q := scattered y (viewOf y t) pr (address th)
      activeLanes pr ≠ [] →
      (scatterCheck y t rRD q.1 q.2 = .ok ks → vecTrack y t ks true false = .ok y' →
        let z := bankCycles y' t (issueCycle y' t + n) ks
        gatherBody d.toNat k.toNat n address y t = .ok (z.setThread t ((z.thread t).produce .v d.toNat (laneMask pr)
          (lanesVec (((q.1.zip q.2).zip ks).map fun e => (e.1.1.lane, decodeElem (e.1.2 % 16) (leNat (readPlaces y' e.2.2)))))
          0 .interlocked), .seq)) ∧
      (∀ y'', scatterCheck y t rWR q.1 q.2 = .ok ks → vecTrack y t ks false true = .ok y' →
        methJournal y' (ks.map (·.2)).flatten = .ok y'' →
        let r := storeLanes (noteStore y'' t (ks.map (·.2)).flatten) th D q.2 0 (q.1.zip ks)
        let z := bankCycles r.1 t (issueCycle r.1 t + n) ks
        scatterBody k.toNat n D address y t = .ok (z.setThread t (addFlags (z.thread t) r.2), .seq))) ∧
    (∀ (y : State) (th : Thread) (fs : List Nat) (entry : BitVec 40) (es : List (LaneAcc × Via × List Nat)),
      let r := storeLanes y th D fs entry es
      let places := (es.map (·.2.2)).flatten
      MemoryWf y → (∀ q ∈ places, q < 5 * 2 ^ 64) →
      (∀ q < 5 * 2 ^ 64, q ∉ places → readPlace r.1 q = readPlace y q) ∧
      (places.Nodup → fs.length = es.length → ∀ x ∈ es.zip fs, x.2 % 16 ≠ 7 → x.1.2.2.length = x.1.1.size →
        readPlaces r.1 x.1.2.2 =
          leBytes (encodeElem (x.2 % 16) th.roundMode (th.satMod || x.2.testBit 4) (lane D x.1.1.lane).toNat).1 x.1.1.size))

/-- From T14, with a block of 64 bytes that passes the checks of R216 and a handle (if it names one) that is free, a copy
command takes the sett's next ticket, which gD receives, joins the queue with the formats and segments of its issue, and makes
the handle filling, its ERR and DISCARD 0 and its REASON as it was. With 128 copies queued .nb gives all ones and the other form
parks. A handle not free raises HANDLE_STATE. CPYST gives a ticket's outcome, reason and flags, and T13's tickets are unknown.
-/
def Obligations.CopyIssueAndStatus : Prop :=
  (∀ (st : BitVec 3) (d a b : BitVec 5) (s : State) (i : Instr) (cond nb : Bool), (i, cond, nb) ∈ ([
      (.cpy st d a b, false, false), (.cpyNb st d a b, false, true), (.cpyc st d a b, true, false), (.cpycNb st d a b, true, true)] :
      List (Instr × Bool × Bool)) →
    let f : Form := { gForm [a] with role := .t14, cls := .irrev, home := true }
    let n := settOf s.cur.core
    ∀ kind ks c, Issues f s → ownBlock (begun f s) s.cur (s.me.readG a.toNat) 64 64 rRD true = .ok (kind, ks) →
      let z := settlePosted (begun f s) s.cur ks
      let x := z.sett n
      copyChecks z s.cur (readPlaces z ks) cond = .ok c →
      let blk := readPlaces z ks
      let h := cbHandle blk
      let v := viewOf z s.cur
      (cbHV blk = true → hState (x.handle h) ≠ hFree →
        Raises i s cHANDLE_STATE (handleEval (h + vsettOf z s.cur % 1024 * 65536) (hState (x.handle h)))) ∧
      ((cbHV blk = false ∨ hState (x.handle h) = hFree) →
        (128 ≤ x.queue.length → nb = true → Yields i s z d.toNat (BitVec.allOnes 64)) ∧
        (128 ≤ x.queue.length → nb = false → exec i s = stopped (atIssue s) s.cur (.park false .reissue)) ∧
        (x.queue.length < 128 →
          let new : Copy := ⟨x.ticket, x.epoch, v.ctx, s.cur, blk, cond, c.1, c.2.1, v.segBase, v.segLimit, c.2.2, .moving, 0, cbSlack blk, 0,
            none, [], false, 0, false, none, (z.thread s.cur).recent⟩
          let y := if cbHV blk then x.setHandle h
            (BitVec.ofNat 64 (x.ticket * 2 ^ 32 + field (x.handle h) 15 8 * 256 + hFilling)) else x
          Yields i s (z.setSett n { y with
            ticket := (y.ticket + 1) % 2 ^ 32
            queue := y.queue ++ [new]
            recs := keepRecent (y.recs ++ [⟨x.ticket, 0, 0, 0⟩]) }) d.toNat (BitVec.ofNat 64 x.ticket)))) ∧
  (∀ (st : BitVec 3) (d a b : BitVec 5) (s : State),
    let f : Form := { gForm [a] with cls := .irrev }
    Issues f s → Yields (.cpyst st d a b) s (begun f s) d.toNat
      (if s.cur.thr = 13 then 7 else ticketStatus ((begun f s).sett (settOf (homeTid (begun f s) s.cur).core)) ((s.me.readG a.toNat).toNat % 2 ^ 32)))

/-- HACQ takes a full handle to draining, HREL a draining one to free (after the thread's posted stores), any other state
raising HANDLE_STATE with the state in EVAL; HWAIT passes when the handle has the state of its selector or carries ERR and parks
otherwise; HSTAT only reads. Each gives gD the status word. A reference outside the issuer's virtual holt and launch raises
OPERAND_RANGE. No other handle changes. -/
def Obligations.Handles : Prop :=
  ∀ (st : BitVec 3) (d a b : BitVec 5) (x : BitVec 3) (m : BitVec 2) (s : State),
    let f : Form := { gForm [a] with cls := .irrev }
    let g : Form := gForm [a]
    let r := s.me.readG a.toNat
    (∀ i h0, Issues f s → handleRef (begun f s) s.cur r = .ok (i, h0) →
      let z := begun f s
      let h := h0 + (if s.cur.thr = 13 then 256 else 0)
      let w := (z.sett i).handle h
      let put (z : State) (n : Nat) := setHandleOf z i h ((w &&& ~~~3#64) ||| BitVec.ofNat 64 n)
      let now := w.toNat % 4
      (now = 2 → Yields (.hacq st d a b) s (put (orderStores z s.cur) 3) d.toNat ((w &&& ~~~3#64) ||| 3)) ∧
      (now ≠ 2 → Raises (.hacq st d a b) s cHANDLE_STATE (BitVec.ofNat 64 (r.toNat % 2 ^ 26 + now * 2 ^ 32))) ∧
      (now = 3 → Yields (.hrel st d a b) s (put (drainPosted z s.cur) 0) d.toNat ((w &&& ~~~3#64) ||| 0)) ∧
      (now ≠ 3 → Raises (.hrel st d a b) s cHANDLE_STATE (BitVec.ofNat 64 (r.toNat % 2 ^ 26 + now * 2 ^ 32))) ∧
      ((now = m.toNat ∨ w.getLsbD 2 = true) → Yields (.hwait st d a x m) s (setHandleOf (orderStores z s.cur) i h w) d.toNat w) ∧
      (now ≠ m.toNat → w.getLsbD 2 = false → exec (.hwait st d a x m) s = stopped (atIssue s) s.cur (.park false .reissue))) ∧
    (∀ i h0, Issues g s → handleRef (begun g s) s.cur r = .ok (i, h0) →
      let h := h0 + (if s.cur.thr = 13 then 256 else 0)
      let w := ((begun g s).sett i).handle h
      Yields (.hstat st d a b) s (setHandleOf (orderStores (begun g s) s.cur) i h w) d.toNat w) ∧
    (∀ e, Issues f s → handleRef (begun f s) s.cur r = .error e →
      exec (.hacq st d a b) s = stopped (atIssue s) s.cur e ∧ exec (.hrel st d a b) s = stopped (atIssue s) s.cur e ∧
      exec (.hwait st d a x m) s = stopped (atIssue s) s.cur e) ∧
    (∀ e, Issues g s → handleRef (begun g s) s.cur r = .error e → exec (.hstat st d a b) s = stopped (atIssue s) s.cur e) ∧
    (∀ z t w e, handleRef z t w = .error e → e = .trap cOPERAND_RANGE w) ∧
    (∀ (z : State) (i j h k : Nat) (w : Word), KMap.wfFrom 0 0 (z.sett i).handles = true →
      ((setHandleOf z i h w).sett j).handle k = if j = i ∧ k = h then w else (z.sett j).handle k)

/-- Each AOP, through a segment of kind 5, charges one bank operation on the die of its word, and one flit of network injection
where that is not the thread's die, to the context, writes to the aligned word at gA the value that Table 14.7 gives from the
old one and gT, and gT takes the old value; with the budget spent it parks; through another kind it raises SEG_RIGHTS. ARED,
AXPY and AFILL check their block, their ranges and their operation, then send the operation to the bank units, one update for
each 64-byte line, and pass. An update charges the context one bank operation, and one flit of network injection where the
issuer, and where the source line, is on another die, reads the line (and its source line), writes the combination of R229 and,
after the last line, decrements the signal object; with the budget spent, or with an older command's line at the same units, the
update waits. Bytes with an uncorrectable error fail the command with reason 6. The bytes of other lines stay. -/
def Obligations.Banks : Prop :=
  (
  ∀ (st : BitVec 3) (t a : BitVec 5) (z c : BitVec 3) (r : BitVec 2) (s : State),
    let f : Form := { gForm [t, a] with cls := .irrev }
    let size := 2 ^ z.toNat
    let m := 2 ^ (8 * size)
    let y := begun f s
    let addr := s.me.readG a.toNat
    let x := (s.me.readG t.toNat).toNat % m
    let half (old x : Nat) : Nat := (addF bf16 0 (decodeF bf16 old) (decodeF bf16 x)).1
    ∀ (i : Instr) (g : Nat → Nat), (i, g) ∈ ([
        (.aopAdd st t a z r c, fun old => (old + x) % m),
        (.aopAnd st t a z r c, fun old => Nat.land old x), (.aopOr st t a z r c, fun old => Nat.lor old x),
        (.aopXor st t a z r c, fun old => Nat.xor old x),
        (.aopMin st t a z r c, fun old => if asInt size x < asInt size old then x else old),
        (.aopMax st t a z r c, fun old => if asInt size old < asInt size x then x else old),
        (.aopMinn st t a z r c, fun old => min old x), (.aopMaxn st t a z r c, fun old => max old x),
        (.aopSwap st t a z r c, fun _ => x),
        (.aopFadd st t a z r c, fun old => (addF fp32 0 (decodeF fp32 old) (decodeF fp32 x)).1),
        (.aopFaddBf16 st t a z r c, fun old => if size = 2 then half old x
          else half (old % 65536) (x % 65536) + 65536 * half (old / 65536) (x / 65536))] : List (Instr × (Nat → Nat))) →
      i.wellFormed = true → Issues f s →
      (∀ e, segCheck y (viewOf y s.cur) addr size rAMO = .error e → exec i s = stopped (atIssue s) s.cur e) ∧
      ((segCheck y (viewOf y s.cur) addr size rAMO).isOk = true → segKind (viewOf y s.cur) addr ≠ 5 → Raises i s cSEG_RIGHTS addr) ∧
      (∀ kind ks, segKind (viewOf y s.cur) addr = 5 → OrderOpen s r.toNat → ks.length = size →
        access y s.cur addr size rAMO true (some (c.toNat, false)) = .ok (kind, ks) →
        let die := archDie (ks.headD 0)
        let here := dieOf y s.cur.core
        let paid := (spend y (ctxOf y s.cur) die 3 1 (bankWaiters y die)).bind fun q =>
          inject q (ctxOf q s.cur) (if here = die then [] else [(here, 1)])
        (paid = none → exec i s = stopped (atIssue s) s.cur (.park false (.bank die))) ∧
        (∀ q w w1 w', paid = some q →
          let q' := if r.toNat = 2 ∨ r.toNat = 3 then drainPosted q s.cur else q
          (access q s.cur addr size rAMO true (some (awayScope q s.cur c.toNat, false))).isOk = true →
          access q' s.cur addr size rAMO true (some (awayScope q' s.cur c.toNat, false)) = .ok (kind, ks) →
          track q' s.cur kind ks true false = .ok w → track w s.cur kind ks true true = .ok w1 → methJournal w1 ks = .ok w' →
          StoresAndYields i s w' ks (leBytes (g (leNat (readPlaces w ks))) size) t.toNat (BitVec.ofNat 64 (leNat (readPlaces w ks)))))) ∧
  (
  (∀ (st : BitVec 3) (d a b : BitVec 5) (s : State) (i : Instr) (fn : Nat), (i, fn) ∈ ([
      (.ared st d a b, 0), (.axpy st d a b, 1), (.afill st d a b, 2)] : List (Instr × Nat)) →
    let f : Form := { gForm [a] with cls := .irrev, home := true }
    ∀ kind ks dr sr ds ss, Issues f s → ownBlock (begun f s) s.cur (s.me.readG a.toNat) 64 64 rRD = .ok (kind, ks) →
      let z := settlePosted (begun f s) s.cur ks
      let v := viewOf z s.cur
      let blk := readPlaces z ks
      let dst := cbSrc blk
      let src := cbDst blk
      let len := blkNat blk 20 4
      let ctrl := blkNat blk 24 4
      segKind v dst = 5 → (fn = 1 → segKind v src = 5) → (fn = 0 → segKind v src = 2 ∨ segKind v src = 7) →
      segCheck z v dst len (if fn = 2 then rWR else 3) = .ok dr → (fn = 2 → sr = .places 5 []) →
      (fn ≠ 2 → segCheck z v src (if fn = 0 then 64 else len) rRD = .ok sr) →
      dst.toNat % 64 = 0 → (fn ≠ 2 → src.toNat % 64 = 0) →
      (ctrl / 64 % 2 = 1 → (wordOf ((blk.drop 32).take 8)).toNat % 16 = 0) →
      (fn = 0 → ctrl % 8 ≤ 2) → ctrl / 16 % 4 ≠ 3 → (fn = 1 → ctrl / 16 % 4 ≠ 2) →
      1 ≤ len → len ≤ (if fn = 0 then 64 else if fn = 1 then 65536 else 16777216) → len % 64 = 0 →
      xlate z v dst len rWR none dr = .ok ds → xlate z v src len rRD none sr = .ok ss →
      let lines := if fn = 1 then (linesOf ds).zip (linesOf ss) else (linesOf ds).map fun x => (x, x)
      let y := if fn = 0 then settlePosted z s.cur ss else z
      Yields i s { y with flights := y.flights ++ [.bank s.cur v.ctx fn (ctrl % 8) (ctrl / 16 % 4) lines (if fn = 0 then readPlaces y ss else [])
        (BitVec.ofNat 32 (blkNat blk 16 4)) src (ctrl / 64 % 2 == 1) (wordOf ((blk.drop 32).take 8)) v.segBase v.segLimit] } d.toNat 0) ∧
  (∀ (s : State) (n line : Nat) src x fn op ty lines srcLine a pat sv signal sb sl d sLine,
    s.flights[n]? = some (.bank src x fn op ty lines srcLine a pat sv signal sb sl) → lines[line]? = some (d, sLine) →
    let far := if dieOf s src.core = archDie d then [] else [(dieOf s src.core, 1)]
    let farSrc := if fn = 1 ∧ archDie sLine ≠ archDie d then [(archDie sLine, 1)] else []
    let paid := (spend s x (archDie d) 3 1 (bankWaiters s (archDie d))).bind fun z => inject z x (far ++ farSrc)
    (olderLine s n (archDie d) = true → exec (.bankLineUpdate n line) s = .next s) ∧
    (paid = none → exec (.bankLineUpdate n line) s = .next s) ∧
    (∀ y, olderLine s n (archDie d) = false → paid = some y → lineSpoilt y fn (d, sLine) = true →
      Moves (.bankLineUpdate n line) s (bankFail { y with flights := y.flights.eraseIdx n } src x d sv signal sb sl 6)) ∧
    (∀ y, olderLine s n (archDie d) = false → paid = some y → lineSpoilt y fn (d, sLine) = false →
      let z := bankOne y fn op ty a pat srcLine (d, sLine)
      Moves (.bankLineUpdate n line) s
        (if (lines.eraseIdx line).isEmpty then bankEnd { z with flights := z.flights.eraseIdx n } src x d sv signal sb sl
         else { z with flights := z.flights.set n (.bank src x fn op ty (lines.eraseIdx line) srcLine a pat sv signal sb sl) }))) ∧
  (∀ (y : State) fn op ty a pat srcLine d e, MemoryWf y → d + 64 ≤ 5 * 2 ^ 64 →
    let z := bankOne y fn op ty a pat srcLine (d, e)
    MemoryWf z ∧ (∀ q < 5 * 2 ^ 64, q < d ∨ d + 64 ≤ q → readPlace z q = readPlace y q) ∧
    readPlaces z (span d 64) = bankLine fn op ty a pat (readPlaces y (span d 64)) (if fn = 0 then srcLine else readPlaces y (span e 64))))

/-- The engine of a sett whose clock runs sends the chunk that its arbitration chooses, at the stop of a gang switch only of a
CPYC in its write phase, and does nothing where there is none or the sett is stopped. A chunk that fails gives the copy its
reason; one whose bytes the tokens do not cover waits. A version check finds the word equal to the expected one, adds 1 to it
and goes on to move, or finds it different and discards the copy, its handle carrying DISCARD. A written CPYC writes the version
word plus 2. A completed copy makes its handle full, writes its flag, decrements its signal object and leaves the queue; one
that failed leaves with its reason. -/
def Obligations.CopyProgress : Prop :=
  ∀ (s : State) (v : Nat),
    let may (c : Copy) : Bool := (settRuns s v || writing c) && !mustWait s c
    let view (c : Copy) : View := ⟨c.ctx, c.issuer.core, c.segBase, c.segLimit⟩
    (settClock s v = false → exec (.copyChunk v) s = .next s) ∧
    (settClock s v = true →
      (∀ z, serveCopy may (16 * (s.sett v).queue.length + 4) s v = some z → Moves (.copyChunk v) s z) ∧
      (serveCopy may (16 * (s.sett v).queue.length + 4) s v = none → exec (.copyChunk v) s = .next s)) ∧
    (∀ c,
      (∀ r, moveChunk s c c.next = .error (.reason r) → sendChunk s v c = some (putCopy s v { c with failed := some r, phase := .ending })) ∧
      (∀ z c' x, moveChunk s c c.next = .ok (z, c') → sendChunk s v c = some x →
        (spend z c.ctx (s.sett v).die 1 c.next (copyWaiters s (s.sett v).die)).isSome = true ∧
        (∀ q < 5 * 2 ^ 64, readPlace x q = readPlace z q)) ∧
      (∀ z c', moveChunk s c c.next = .ok (z, c') → spend z c.ctx (s.sett v).die 1 c.next (copyWaiters s (s.sett v).die) = none →
        sendChunk s v c = none)) ∧
    (∀ c ks, (s.sett v).queue.find? (fun c => c.phase == .check && !c.missing && c.failed.isNone) = some c → settRuns s v = true →
      engPlaces s (view c) (cbVerAddr c.blk) 8 rAMO (some (cbScope c.blk, false)) = .ok ks →
      let old := leNat (readPlaces s ks)
      let u := useAt s (view c) (cbVerAddr c.blk) 8
      (old = cbExpected c.blk → Moves (.cpycVersionCheck v) s
        (putCopy (writePlaces u ks (leBytes (old + 1) 8)) v { c with ver := some old, pos := 0, phase := .moving })) ∧
      let marked := if cbHV c.blk && c.current (u.sett v) then setHandleOf u v (cbHandle c.blk) ((u.sett v).handle (cbHandle c.blk) ||| 8) else u
      (old ≠ cbExpected c.blk → Moves (.cpycVersionCheck v) s (putCopy marked v { c with discarded := true, phase := .ending }))) ∧
    (∀ c, (s.sett v).queue.find? (fun c =>
        (c.phase == .ending && settRuns s v || c.phase == .closing && settClock s v) && !c.missing) = some c →
      (∀ r, c.failed = some r → Moves (.copyCompletion v) s (failCopy s v c r 4 true true)) ∧
      (∀ ks, c.failed = none → c.phase = .closing →
        engPlaces s (view c) (cbVerAddr c.blk) 8 rAMO (some (cbScope c.blk, false)) = .ok ks → Moves (.copyCompletion v) s
          (putCopy (writePlaces (useAt s (view c) (cbVerAddr c.blk) 8) ks (leBytes (c.ver.getD 0 + 2) 8)) v { c with phase := .ending })) ∧
      (∀ z, c.failed = none → c.phase = .ending → completeCopy s v c = some z → Moves (.copyCompletion v) s z)) ∧
    (∀ c f g, (if cbFV c.blk then engPlaces s (view c) (cbFlag c.blk) 4 rWR none = .ok f else f = []) →
      (cbSV c.blk = true → engPlaces s (view c) (cbSignal c.blk) 16 rAMO none = .ok g ∧
        (engPlaces s (view c) (cbSignal c.blk) 16 rAMO (some (attrScope (leNat (readPlaces s (g.drop 8))), false))).isOk = true) →
      let x := if cbHV c.blk && c.current (s.sett v) then setHandleOf s v (cbHandle c.blk)
        (withState ((s.sett v).handle (cbHandle c.blk)) hFull) else s
      let y := if cbFV c.blk then writePlaces (useAt x (view c) (cbFlag c.blk) 4) f (leBytes (cbFlagval c.blk) 4) else x
      let z := if cbSV c.blk then engineSignal y (view c) (cbSignal c.blk) false 1 none else y
      completeCopy s v c = some (retireCopy z v c (if c.discarded then 3 else 2) 0) ∧
      (∀ y ∈ ((retireCopy z v c (if c.discarded then 3 else 2) 0).sett v).queue, c.same y = false))

/-- A tile instruction, or QPUSH of the word it names, puts its command at the end of its queue with its thread, the queue's
next sequence number and its place among all pushes; it parks while 16 commands wait, raises ACC_OWNER with the first bank that
the thread does not hold, OPERAND_RANGE for a TMMA depth above 2^24 or a sparse A stream, and what the header of a sparse tile
calls for. ABAL and ABFR then wait for their command. QPOP takes the oldest completion word or parks; LSET writes a loop
register; TGEO gives the window's origin or the edge masks, of its thread's GGEO. -/
def Obligations.TileCommandPushes : Prop :=
  ∀ (st : BitVec 3) (d : BitVec 5) (q : BitVec 3) (b c : BitVec 6) (h n : BitVec 1) (r : BitVec 2) (e : BitVec 14) (e' : BitVec 13) (s : State),
    let core := s.cur.core
    let reading (rs : List (RegFile × Nat)) : Form := { reads := rs, cls := .irrev, home := true }
    let queue (z : State) := (z.core core).tile.queues.toList.getD q.toNat .reset
    let added (z : State) (c : TileCmd) : State :=
      let k := z.core core
      z.setCore core { k with tile := { k.tile with
        queues := k.tile.queues.setIfInBounds q.toNat { queue z with
          cmds := (queue z).cmds ++ [{ c with
            thr := s.cur.thr
            seq := (queue z).seq
            order := k.tile.pushes }]
          seq := ((queue z).seq + 1) % 65536 }
        pushes := k.tile.pushes + 1 } }
    let pushes (i : Instr) (f : Form) (c : TileCmd) (ends : State → Prop) : Prop :=
      Issues f s →
        let z := begun f s
        let stranger := (cmdBanks c).find? fun e => (z.core core).tile.ownerOf e != s.cur.thr
        let deep := c.op = .tmma ∧ bit c.val 35 = false ∧ 2 ^ 24 < field c.val 31 0
        let sparse := c.op = .tlda ∧ tdSp c.val = true
        (∀ e, stranger = some e → Raises i s cACC_OWNER (BitVec.ofNat 64 e)) ∧
        (stranger = none → (deep ∨ sparse) → Raises i s cOPERAND_RANGE c.val) ∧
        (∀ code v, stranger = none → c.op = .tspm → tspmCheck z s.cur c.val = .error (.trap code v) → Raises i s code v) ∧
        (stranger = none → ¬ deep → ¬ sparse → (c.op = .tspm → tspmCheck z s.cur c.val = .ok ()) →
          ((queue z).cmds.length < 16 → ends (added z c)) ∧
          (16 ≤ (queue z).cmds.length → exec i s = stopped (atIssue s) s.cur (.park false .reissue)))
    let val := s.me.readG d.toNat
    let g := reading [(.g, d.toNat)]
    let cmd (op : TileOp) (val : Word) (sat : Bool) : TileCmd := ⟨op, r.toNat, b.toNat, h.toNat, n == 1#1, val, [], 0, 0, sat, 0, 0⟩
    (q.toNat < 4 →
      pushes (.tlda st d q b h n r) g (cmd .tlda val false) (Passes (.tlda st d q b h n r) s) ∧
      pushes (.tldb st d q b h n r) g (cmd .tldb val false) (Passes (.tldb st d q b h n r) s) ∧
      pushes (.tmma st d q b h n r) g (cmd .tmma val false) (Passes (.tmma st d q b h n r) s) ∧
      pushes (.tspm st d q b h n r) g (cmd .tspm val false) (Passes (.tspm st d q b h n r) s) ∧
      pushes (.tzero st d q b h n r) (reading []) (cmd .tzero 0 false) (Passes (.tzero st d q b h n r) s) ∧
      pushes (.tldc st d q b h n r) g (cmd .tldc val false) (Passes (.tldc st d q b h n r) s) ∧
      pushes (.tstc st d q b h n r) g (cmd .tstc val s.me.satMod) (Passes (.tstc st d q b h n r) s) ∧
      pushes (.tgtha st d q b h n r) (reading [(.v, d.toNat)]) { cmd .tgtha 0 false with lanes := lanesOf (s.me.readV d.toNat) }
        (Passes (.tgtha st d q b h n r) s) ∧
      pushes (.abal st d q b c) (reading []) ⟨.abal, 0, b.toNat, 0, false, 0, [], c.toNat + 1, 0, false, 0, 0⟩
        (fun z => Sends (.abal st d q b c) s z false d.toNat) ∧
      (b.toNat + c.toNat + 1 ≤ 64 →
        pushes (.abfr st d q b c) (reading []) ⟨.abfr, 0, b.toNat, 0, false, 0, [], c.toNat + 1, 0, false, 0, 0⟩
          (fun z => Sends (.abfr st d q b c) s z false 0)) ∧
      (d.toNat % 2 = 0 →
        let f := reading [(.g, d.toNat), (.g, d.toNat + 1)]
        (qpushOp val = none → Issues f s → Raises (.qpush st d q e) s cOPERAND_RANGE val) ∧
        (∀ op, qpushOp val = some op → pushes (.qpush st d q e) f
          ⟨op, (val.extractLsb' 0 2).toNat, (val.extractLsb' 4 6).toNat, (val.extractLsb' 3 1).toNat, val.extractLsb' 2 1 == 1#1,
            s.me.readG (d.toNat + 1), [], 0, 0, s.me.satMod, 0, 0⟩ (Passes (.qpush st d q e) s)))) ∧
    (4 ≤ q.toNat → Issues (reading []) s →
      let z := begun (reading []) s
      let x := (z.core core).tile
      let tq := x.queues.toList.getD (q.toNat - 4) .reset
      (∀ w ws, tq.done = w :: ws → Yields (.qpop st d q e) s
        (orderStores (z.setTile core { x with queues := x.queues.setIfInBounds (q.toNat - 4) { tq with done := ws } }) s.cur) d.toNat w) ∧
      (tq.done = [] → exec (.qpop st d q e) s = stopped (atIssue s) s.cur (.park false .reissue))) ∧
    (Issues g s →
      let z := begun g s
      let w := tileWindow ((z.core core).ggeoOf s.cur.thr) (field val 15 0) (field val 31 16)
      Passes (.lset st d q e) s (z.setTile core { (z.core core).tile with
        loops := (z.core core).tile.loops.setIfInBounds q.toNat (val.setWidth 32) }) ∧
      Yields (.tgeoOrg st d q e') s z d.toNat (BitVec.ofNat 64 (min w.2.1 (2 ^ 32 - 1) * 2 ^ 32 + min w.1 (2 ^ 32 - 1))) ∧
      Yields (.tgeoMask st d q e') s z d.toNat (BitVec.ofNat 64 (w.2.2.2 * 65536 + w.2.2.1)))

/-- While its sett runs, the earliest waiting ABAL that finds its run of banks takes it: its thread owns the lowest free run and
is answered. Otherwise, with the engine free, the next command of the rotation that may begin leaves its queue and takes effect:
TLDA and TLDB arm a stream, TZERO fills a half with the semiring's identity, ABAL takes its run or waits for it, ABFR frees
banks and answers. A running command latches its next chunk of K positions, and the chunk that it has latched is added to its
accumulators even if its sett has stopped; so it is with a task. The oldest notifying command that has ended posts its word once
all before it have ended and there is room. -/
def Obligations.TileEngineSteps : Prop :=
  (∀ (c q b : Nat) (m : TileCmd) (s : State), settRuns s (settOf c) = true → waitingRun (s.core c) = some ((q, m), b) →
    let x := (s.core c).tile
    Moves (.tileCommandBegin c) s (takeRun s c q m b) ∧
    takeRun s c q m b = reply (endCommand (s.setTile c { setOwners x (span b m.n) m.thr with
      waiting := x.waiting.filter fun e => e.2.order != m.order }) c q m 0 0) ⟨c, m.thr⟩ (BitVec.ofNat 64 b) ∧
    (q, m) ∈ x.waiting ∧ b + m.n ≤ 64 ∧ (∀ i ∈ span b m.n, x.ownerOf i = 16)) ∧
  (∀ (c q : Nat) (m : TileCmd) (s : State), settRuns s (settOf c) = true → waitingRun (s.core c) = none →
    engineIdleFor s c = true → nextCommand s c = some (q, m) →
    let y := takeCommand s c q m
    let z := beginCommand y c q m
    let x := (y.core c).tile
    Moves (.tileCommandBegin c) s z ∧
    (∀ o ∈ ((y.core c).tile.queues.toList.getD q .reset).cmds, o.order ≠ m.order) ∧
    (m.op = .tlda → z = endCommand (setStream y c q true ⟨.rows, tdAddr m.val, tdLd m.val, tdMask m.val, []⟩) c q m 0 0) ∧
    (m.op = .tldb → z = endCommand (setStream y c q false
      ⟨if tdSp m.val then .sparse else .rows, tdAddr m.val, tdLd m.val, tdMask m.val, []⟩) c q m 0 0) ∧
    (m.op = .tzero → z = endCommand (y.setTile c { x with acc := fillHalf x.acc m.bank m.half (identityBits m.x) }) c q m 0 0) ∧
    (m.op = .abal → ∀ b, abalRun (y.core c) m = some b → z = takeRun y c q m b) ∧
    (m.op = .abal → abalRun (y.core c) m = none → z = y.setTile c { x with waiting := x.waiting ++ [(q, m)] }) ∧
    (m.op = .abfr → z = reply (endCommand (y.setTile c (setOwners x (span m.bank m.n) 16)) c q m 0 0) ⟨c, m.thr⟩ 0)) ∧
  (∀ (c : Nat) (r : TileRun) (s : State), settRuns s (settOf c) = true → t13First (s.core c) = false →
    (s.core c).resActive = false → (s.core c).tile.latch = none → (s.core c).tile.running = [r] →
    let x := (s.core c).tile
    Moves (.tileChunk c 0) s (commandChunk s c r) ∧
    (∀ p rows cols, denseLatch s (windowOf s ⟨c, r.cmd.thr⟩) r.cmd.x r.a r.b r.a.addr r.b.addr r.k r.chunk r.pairs = .ok (p, rows, cols) →
      commandChunk s c r = s.setTile c { x with latch := some ⟨r.cmd.order, none, p, rows, cols, gatherOf r.a⟩ }) ∧
    (∀ e, denseLatch s (windowOf s ⟨c, r.cmd.thr⟩) r.cmd.x r.a r.b r.a.addr r.b.addr r.k r.chunk r.pairs = .error e →
      commandChunk s c r = endCommand (s.setTile c { x with
        running := x.running.filter fun y => y.cmd.order != r.cmd.order }) c r.queue r.cmd r.flags e)) ∧
  (∀ (c : Nat) (l : Latch) (r : TileRun) (s : State), (s.core c).tile.latch = some l → l.task = none →
    ((s.core c).tile.running.find? fun r => r.cmd.order == l.order) = some r →
    let x := (s.core c).tile
    let others := x.running.filter fun y => y.cmd.order != r.cmd.order
    let q := tileChunk x.acc r.cmd.bank r.cmd.half r.cmd.x l.rows l.cols
    let x' := { x with acc := q.1, latch := none }
    Moves (.tileChunk c 0) s (commandChunk s c r) ∧
    (r.chunk + 1 < chunksOf (l.pairs.headD (0, 0)) r.cmd.x r.k → commandChunk s c r = s.setTile c { x' with
      running := others ++ [{ r with chunk := r.chunk + 1, pairs := l.pairs, flags := orFlags r.flags q.2 }] }) ∧
    (chunksOf (l.pairs.headD (0, 0)) r.cmd.x r.k ≤ r.chunk + 1 → commandChunk s c r =
      endCommand (s.setTile c { x' with running := others }) c r.queue r.cmd (orFlags r.flags q.2) 0)) ∧
  (∀ (c n u : Nat) (y : TileTask) (s : State), settRuns s (settOf c) = true → t13First (s.core c) = false → (s.core c).tile.running = [] →
    (s.core c).tile.latch = none → (runningTasks s c)[n]? = some (u, y) → y.finished = false →
    (y.chunk ≠ 0 ∨ y.tile = 0 ∨ nextCommand s c = none) →
    let x := (s.core y.core).tile
    Moves (.tileChunk c (n + 1)) s (taskChunk s u y) ∧
    (∀ p rows cols, y.chunk ≠ 0 → taskChunks s u y ≠ 0 → taskLatch s u y = .ok (p, rows, cols) → taskChunk s u y =
      putTask (s.setTile y.core { x with latch := some ⟨0, some (u, y.id), [p], rows, cols, []⟩ }) u { y with pair := some p })) ∧
  (∀ (c n u : Nat) (l : Latch) (y : TileTask) (s : State), (s.core c).tile.latch = some l → l.task = some (u, y.id) →
    (runningTasks s c)[n]? = some (u, y) →
    let a := addChunk s u y
    Moves (.tileChunk c (n + 1)) s (taskChunk s u y) ∧
    (y.chunk + 1 < taskChunks s u y → taskChunk s u y = putTask a.1 u { y with chunk := y.chunk + 1, flags := a.2 })) ∧
  (∀ (c q : Nat) (e : TileEnd) (w : Word) (s : State), q < 4 →
    let x := (s.core c).tile
    let tq := x.queues.toList.getD q .reset
    dueWord x q = some (e, w) → tq.done.length < 16 →
    Moves (.completionWordPost c q) s (s.setTile c { x with queues := x.queues.setIfInBounds q { tq with
      done := tq.done ++ [w]
      ended := tq.ended.filter fun y => e.order < y.order } }) ∧
    (∀ m ∈ tq.cmds, e.order ≤ m.order) ∧ (∀ r ∈ x.running, r.queue = q → e.order ≤ r.cmd.order) ∧
    (∀ y ∈ x.waiting, y.1 = q → e.order ≤ y.2.order) ∧ e ∈ tq.ended ∧ e.nt = true ∧
    (tq.ended = [e] → e.seq < 65536 →
      w.toNat = e.seq + (if e.cause = 0 then 0 else 65536) + e.flags % 256 * 2 ^ 24 + e.cause % 256 * 2 ^ 32))

/-- A record of 64 bytes that passes the checks of R243, with its count table for TGRP and a signal that may be reached, becomes
the last of its unit's tasks with the thread's segments, and its STATUS says that it waits; a record that fails raises
TILE_MALFORMED with the number of the field; with 256 tasks held by the holt's scheduler the instruction parks. The issuer's
posted stores to the record, and to its count table, are performed first. The scheduler dispatches a task that is ready, once it
has taken the tokens of its owner; a task whose tiles are done ends, and one that failed fails. -/
def Obligations.TileTasks : Prop :=
  (∀ (st : BitVec 3) (d : BitVec 5) (q : BitVec 3) (e : BitVec 14) (s : State) (i : Instr) (group : Bool),
    (i, group) ∈ ([(.ttask st d q e, false), (.tgrp st d q e, true)] : List (Instr × Bool)) →
    let f : Form := { gForm [d] with cls := .irrev, home := true }
    ∀ kind ks counts, Issues f s → ownBlock (begun f s) s.cur (s.me.readG d.toNat) 64 64 rRD = .ok (kind, ks) →
      let z := settlePosted (begun f s) s.cur ks
      let b := readPlaces z ks
      let v := viewOf z s.cur
      (group = true → countTable z s.cur b = .ok counts) → (group = false → counts = []) →
      (trSignal b ≠ 0 → ∃ k, segCheck z v (trSignal b) 16 rAMO = .ok k) →
      let bad := recordMalformed z s.cur b group
      let u := unitOf z s.cur
      let x := z.unit u
      (bad ≠ 0 → Raises i s cTILE_MALFORMED (BitVec.ofNat 64 bad)) ∧
      (bad = 0 → 256 ≤ holtTiles z u → exec i s = stopped (atIssue s) s.cur (.park false .reissue)) ∧
      (bad = 0 → holtTiles z u < 256 →
        let y : TileTask := ⟨nextTile z, b, group, counts, s.cur, ks.headD 0, v.segBase, v.segLimit, 0, false, false,
          if trPin b then (coreOfVc z (ctxOf z s.cur) (trPinvc b)).getD s.cur.core else s.cur.core, 0, 0, 0, none, 0, 0⟩
        Passes i s ((writeStatus z y 0 0 0).setUnit u { x with
          tasks := x.tasks ++ [y]
          nextTask := nextTile z + 1 }))) ∧
  (∀ (ctx vh c bank : Nat) (y : TileTask) (s z : State),
    let u := ctx * 2 ^ 16 + vh
    let die := dieOf s y.issuer.core
    chooseTask s u c bank = some (z, y) →
    Moves (.taskDispatch ctx vh c bank) s (dispatchTask z u y c bank) ∧
    (u, y) ∈ readyTasks s u ∧ taskReady s u y = true ∧
    spend s (trOwner y.rec_) die 0 (taskCost s u y) ((taskWaiters s die).filter (· != trOwner y.rec_)) = some z) ∧
  (∀ (c n u : Nat) (y : TileTask) (s : State), (runningTasks s c)[n]? = some (u, y) → settRuns s (settOf c) = true → y.finished = true →
    Moves (.taskCompletion c n) s (endTask s u y) ∧
    (y.cause = 0 → y.group = false → endTask s u y = taskSignal (finishTask (releaseBanks s y) u y) u y) ∧
    (y.cause ≠ 0 → endTask s u y = failTask s u y y.cause))

/-- RCALL sends an update call with its 96 argument bytes and waits for its version; with a full log it parks and .nb gives all
ones. RREAD fixes its target at first issue and parks; once the method has run it stores the 32 result bytes and gives version,
outcome and cause. RWAIT gives the outcome of a version that this die has applied and parks before. OBJNEW makes an object at
the lowest free number, all copies at version 0, charging the pool, or raises OBJ_MALFORMED with its reason. OBJDEL, which like
OBJNEW an away thread runs where it is, ends at once when every die has applied the tail and no call is under way, else it
parks. Absent objects, methods of the wrong kind and versions beyond the tail raise. -/
def Obligations.ReplayedObjects : Prop :=
  ∀ (st : BitVec 3) (d a b : BitVec 5) (s : State),
    let f : Form := { gForm [a, b] with cls := .irrev, home := true }
    let h : Form := { gForm [a, b] with home := true, keeps := true }
    let away : Form := { gForm [a] with cls := .irrev }
    let w := s.me.readG a.toNat
    let blockAddr := s.me.readG b.toNat
    let id := selObj w
    let v := selVersion w
    (∀ i nb, (i, nb) ∈ ([(.rcall st d a b, false), (.rcallNb st d a b, true)] : List (Instr × Bool)) → ∀ kind ks, Issues f s →
      let z := begun f s
      ownBlock z s.cur blockAddr 96 32 rRD = .ok (kind, ks) →
      (objOf z s.cur id false = none → Raises i s cOBJ_ABSENT w) ∧
      (∀ o, objOf z s.cur id false = some o →
        (o.method (selMethod w) true = none → Raises i s cOPERAND_RANGE w) ∧
        (o.method (selMethod w) true ≠ none → lastVersion ≤ o.tail → Raises i s cOPERAND_RANGE w) ∧
        (o.method (selMethod w) true ≠ none → o.tail < lastVersion →
          (o.full z = true → nb = true → Yields i s z d.toNat (BitVec.allOnes 64)) ∧
          (o.full z = true → nb = false → exec i s = stopped (atIssue s) s.cur (.park false .reissue)) ∧
          (∀ y args, o.full z = false → loadAt z s.cur kind ks = .ok (y, args) →
            let y := drainPosted y s.cur
            let x := ctxOf y s.cur
            Sends i s { y with flights := y.flights ++ [.append s.cur false id
              ⟨0, selMethod w, 0, vcIn y x s.cur.core, s.cur.thr, x, 0, args, 0, [], 0⟩ w] } false d.toNat)))) ∧
    (∀ i loc, (i, loc) ∈ ([(.rread st d a b, false), (.rreadLocal st d a b, true)] : List (Instr × Bool)) →
      ∀ kind ks, Issues h s →
      let z := begun h s
      let again := s.me.kept.filter fun r => r.chain == s.me.chainStart && r.obj == id && r.method == selMethod w
      ownBlock z s.cur blockAddr 128 32 3 = .ok (kind, ks) →
      (objOf z s.cur id true = none → Raises i s cOBJ_ABSENT w) ∧
      ∀ o, objOf z s.cur id false = some o →
      (o.method (selMethod w) false = none → Raises i s cOPERAND_RANGE w) ∧
      (o.method (selMethod w) false ≠ none →
      (again = none → o.tail < v → ∀ y args, loadAt z s.cur kind (ks.take 96) = .ok (y, args) →
        Raises i s cVERSION_RANGE (BitVec.ofNat 64 v)) ∧
      (again = none → v ≤ o.tail → ∀ y args, loadAt z s.cur kind (ks.take 96) = .ok (y, args) → Answers i s fun s' =>
        (∃ n, (s'.thread s.cur).run = .parkedEngine .scribeRead n) ∧ (s'.thread s.cur).kept = some ⟨s.me.chainStart, id, selMethod w,
          max v (if loc then (o.copy (dieOf z s.cur.core)).applied else o.tail), args, none⟩) ∧
      (∀ r n outcome cause bytes y, again = some r → r.done = some (n, outcome, cause, bytes) →
        storeAt z s.cur kind (ks.drop 96) bytes = .ok y →
        Yields i s (y.setThread s.cur ((y.thread s.cur).setKept none)) d.toNat (scribeStatus n outcome cause)))) ∧
    (∀ kind ks, Issues f s →
      let z := begun f s
      ownBlock z s.cur blockAddr 32 32 rWR = .ok (kind, ks) →
      (objOf z s.cur id true = none → Raises (.rwait st d a b) s cOBJ_ABSENT w) ∧
      ∀ o, objOf z s.cur id false = some o →
      let c := o.copy (dieOf z s.cur.core)
      let gives (bytes : List Byte) (x : Word) : Prop := ∀ y, storeAt z s.cur kind ks bytes = .ok y → Yields (.rwait st d a b) s y d.toNat x
      (o.tail < v → Raises (.rwait st d a b) s cVERSION_RANGE (BitVec.ofNat 64 v)) ∧
      (v ≤ o.tail → c.applied < v → exec (.rwait st d a b) s = stopped (atIssue s) s.cur (.park false (.version id))) ∧
      (v = 0 → gives (List.replicate 32 0) (scribeStatus 0 0 0)) ∧
      (∀ r, 0 < v → v ≤ c.applied → v ≤ o.tail → c.ring.find? (fun r => r.version == v) = some r →
        gives r.bytes (scribeStatus v r.outcome r.cause)) ∧
      (0 < v → v ≤ c.applied → v ≤ o.tail → c.ring.find? (fun r => r.version == v) = none →
        Yields (.rwait st d a b) s z d.toNat (scribeStatus v 2 0))) ∧
    (∀ hb blk init code n, Issues away s →
      let z := begun away s
      let x := ctxOf z s.cur
      anyBlock z s.cur w 64 64 = .ok hb → anyBlock z s.cur w (64 + 16 * blkNat hb 30 1) 64 = .ok blk →
      (∀ r, objHeaderReason z hb = some r → Raises (.objnew st d a b) s cOBJ_MALFORMED (BitVec.ofNat 64 r)) ∧
      (objHeaderReason z hb = none →
        (objMethodReason blk ((List.range (blkNat hb 30 1)).map (blockMethod blk)) = true →
          Raises (.objnew st d a b) s cOBJ_MALFORMED 4) ∧
        (objMethodReason blk ((List.range (blkNat hb 30 1)).map (blockMethod blk)) = false →
          (lowestFree (fun i => (z.objects.find? i).isSome) = none → Raises (.objnew st d a b) s cOBJ_MALFORMED 5) ∧
          (lowestFree (fun i => (z.objects.find? i).isSome) = some n → poolFree z x < objUse z blk →
            Raises (.objnew st d a b) s cOBJ_MALFORMED 6) ∧
        (lowestFree (fun i => (z.objects.find? i).isSome) = some n → objUse z blk ≤ poolFree z x →
        ((blkNat blk 8 8) % 2 ^ 64 = 0 → init = []) →
        ((blkNat blk 8 8) % 2 ^ 64 ≠ 0 → anyBlock z s.cur (BitVec.ofNat 64 (blkNat blk 8 8)) (blkNat blk 0 8) 1 = .ok init) →
        anyBlock z s.cur (BitVec.ofNat 64 (blkNat blk 16 8)) (blkNat blk 24 4) 1 = .ok code →
        let ia := BitVec.ofNat 64 (blkNat blk 8 8)
        let read := [(w, blk.length)] ++ (if ia = 0 then [] else [(ia, init.length)]) ++ [(BitVec.ofNat 64 (blkNat blk 16 8), code.length)]
        Yields (.objnew st d a b) s (takePool ((useBlocks z s.cur read).setObj n (newObj x blk init code (objUse z blk))) x (objUse z blk)) d.toNat
          (BitVec.ofNat 64 n))))) ∧
    (Issues away s → objOf (begun away s) s.cur id true = none → Raises (.objdel st d a b) s cOBJ_ABSENT w) ∧
    (∀ o, Issues away s →
      let z := begun away s
      objOf z s.cur id false = some o →
      (objDone z id o = true → Passes (.objdel st d a b) s (freeObj z id o)) ∧
      (objDone z id o = false → Answers (.objdel st d a b) s fun s' => s'.objects.find? id = some { o with closing := true } ∧
        ∃ n, (s'.thread s.cur).run = .parkedEngine (.deleting false id) n))

/-- CNEAR fixes its query at first issue and parks; once its search is done it stores its K results and gives the snapshot,
their number and the drift flag. CSTV encodes a vector and CDEL names a key; each sends its call to the log and waits for the
version. CVER reads the tail, the applied version, the oldest snapshot or the room left. CATNEW makes an empty Catalogue at the
lowest free number, or raises CAT_MALFORMED with its reason; CATDEL ends at once when no append and no search is left and every
die has applied the tail, else it parks. A bad element, a key of all ones, a full or absent Catalogue raise. -/
def Obligations.Catalogues : Prop :=
  ∀ (st : BitVec 3) (d a b : BitVec 5) (s : State),
    let g : Form := { gForm [a] with cls := .irrev, home := true }
    let h : Form := { gForm [a, b] with home := true, keeps := true }
    let r : Form := gForm [a, b]
    let c1 : Form := { gForm [a, b] with cls := .irrev }
    let c2 : Form := { gForm [a] with cls := .irrev }
    let w := s.me.readG a.toNat
    let key := s.me.readG b.toNat
    let named (z : State) (c : Cat) : Prop := catOf z s.cur (field w 7 0) false = some c
    let sends (i : Instr) (y : State) (store : Bool) (id : Nat) (key : Word) (codes : List Nat) (scale : Nat) : Prop :=
      let y := drainPosted y s.cur
      Sends i s { y with flights := y.flights ++ [.append s.cur true id (catCall y s.cur store key codes scale) w] } false d.toNat
    (∀ i loc, (i, loc) ∈ ([(.cnear st d a b, false), (.cnearLocal st d a b, true)] : List (Instr × Bool)) → ∀ hk ks, Issues h s →
      let z := begun h s
      let hb := readPlaces (settlePosted z s.cur ks) ks
      let k := blkNat hb 1 1
      ownBlock z s.cur w 64 64 3 = .ok (hk, ks) →
      (s.me.search = none → catOf z s.cur (blkNat hb 0 1) true = none → Raises i s cCAT_ABSENT w) ∧
      (∀ c o v, s.me.search = none → catOf z s.cur (blkNat hb 0 1) false = some c →
        (ownBlock z s.cur w (64 + 4 * c.dim) 64 3).isOk = true → searchBlockBad hb = some (o, v) →
        Raises i s cOPERAND_RANGE (BitVec.ofNat 64 (o + 65536 * v))) ∧
      (∀ c kind bs y bytes, s.me.search = none → s.me.keptSnap = none → catOf z s.cur (blkNat hb 0 1) false = some c →
        searchBlockBad hb = none → ownBlock z s.cur w (64 + 4 * c.dim + 16 * k) 64 3 = .ok (kind, bs) → loadAt z s.cur kind (bs.take (64 + 4 * c.dim)) = .ok (y, bytes) →
        let query := blockVector bytes c.dim
        (∀ n, badElement query = some n → Raises i s cVECTOR_VALUE (BitVec.ofNat 64 n)) ∧
        (badElement query = none → c.tail < key.toNat → Raises i s cVERSION_RANGE key) ∧
        (badElement query = none → key.toNat ≤ c.tail → Answers i s fun s' =>
          (∃ n, (s'.thread s.cur).run = .parkedEngine .search n) ∧ (s'.thread s.cur).search =
            some ⟨blkNat hb 0 1, key.toNat, loc, none, k, blkNat hb 2 2, blkNat hb 4 1 % 2 == 1, query, false, [], [], false, false⟩)) ∧
      (∀ q c kind bs y, s.me.search = some q → q.done = true → catOf z s.cur q.cat false = some c →
        ownBlock z s.cur w (64 + 4 * c.dim + 16 * q.k) 64 3 = .ok (kind, bs) →
        let es := (c.copy (dieOf z s.cur.core)).entries
        let ms := found es q (q.snap.getD 0)
        storeAt z s.cur kind ((bs.drop (64 + 4 * c.dim)).take (16 * q.k)) (resultBytes es ms q.k) = .ok y →
        Yields i s (y.setThread s.cur { (y.thread s.cur).setKeptSnap none with search := none }) d.toNat
          (searchStatus (q.snap.getD 0) ms.length q.drift))) ∧
    (∀ hk ks, Issues g s → ownBlock (begun g s) s.cur w 64 64 rRD = .ok (hk, ks) →
      let z := settlePosted (begun g s) s.cur ks
      catOf z s.cur (blkNat (readPlaces z ks) 0 1) true = none → Raises (.cstv st d a b) s cCAT_ABSENT w) ∧
    (∀ hk ks kind bs c y bytes, Issues g s →
      let z := settlePosted (begun g s) s.cur ks
      let id := blkNat (readPlaces z ks) 0 1
      let i : Instr := .cstv st d a b
      let key := BitVec.ofNat 64 (blkNat bytes 8 8)
      ownBlock (begun g s) s.cur w 64 64 rRD = .ok (hk, ks) → catOf z s.cur id false = some c → ownBlock z s.cur w (64 + 4 * c.dim) 64 rRD = .ok (kind, bs) →
      loadAt (settlePosted z s.cur bs) s.cur kind bs = .ok (y, bytes) →
      (key = BitVec.allOnes 64 → Raises i s cOPERAND_RANGE key) ∧
      (∀ n, key ≠ BitVec.allOnes 64 → encodeVector c.fmt c.metric (blockVector bytes c.dim) = .error n →
        Raises i s cVECTOR_VALUE (BitVec.ofNat 64 n)) ∧
      (∀ e, key ≠ BitVec.allOnes 64 → encodeVector c.fmt c.metric (blockVector bytes c.dim) = .ok e →
        (c.cap ≤ c.stored → Raises i s cCAT_FULL (BitVec.ofNat 64 c.cap)) ∧
        (c.stored < c.cap → lastVersion ≤ c.tail → Raises i s cOPERAND_RANGE w) ∧
        (c.stored < c.cap → c.tail < lastVersion → c.full y = true → exec i s = stopped (atIssue s) s.cur (.park false .reissue)) ∧
        (c.stored < c.cap → c.tail < lastVersion → c.full y = false → sends i y true id key e.1 e.2))) ∧
    (Issues c1 s → catOf (begun c1 s) s.cur (field w 7 0) true = none → Raises (.cdel st d a b) s cCAT_ABSENT w) ∧
    (∀ c, Issues c1 s → named (begun c1 s) c →
      (key = BitVec.allOnes 64 → Raises (.cdel st d a b) s cOPERAND_RANGE key) ∧
      (key ≠ BitVec.allOnes 64 → lastVersion ≤ c.tail → Raises (.cdel st d a b) s cOPERAND_RANGE w) ∧
      (key ≠ BitVec.allOnes 64 → c.tail < lastVersion → c.full (begun c1 s) = true →
        exec (.cdel st d a b) s = stopped (atIssue s) s.cur (.park false .reissue)) ∧
      (key ≠ BitVec.allOnes 64 → c.tail < lastVersion → c.full (begun c1 s) = false →
        sends (.cdel st d a b) (begun c1 s) false (field w 7 0) key [] 0)) ∧
    (∀ c, Issues r s → named (begun r s) c →
      let gives (x : Nat) : Prop := Yields (.cver st d a b) s (begun r s) d.toNat (BitVec.ofNat 64 x)
      (field key 1 0 = 0 → Yields (.cver st d a b) s
        ((begun r s).setCat (field w 7 0) (c.tell (homeTid (begun r s) s.cur) c.tail)) d.toNat (BitVec.ofNat 64 c.tail)) ∧
      (field key 1 0 = 1 → gives (c.copy (dieOf (begun r s) (homeTid (begun r s) s.cur).core)).applied) ∧
      (field key 1 0 = 2 → gives (oldestPinned (begun r s) (field w 7 0) c.tail)) ∧
      (field key 1 0 = 3 → gives (c.cap - c.stored))) ∧
    (Issues r s → catOf (begun r s) s.cur (field w 7 0) false = none → Raises (.cver st d a b) s cCAT_ABSENT w) ∧
    (∀ blk n cap, Issues c2 s →
      let z := begun c2 s
      let x := ctxOf z s.cur
      let per := entryUse z (blkNat blk 0 2) (blkNat blk 2 1) (blkNat blk 4 1)
      anyBlock z s.cur w 64 64 = .ok blk →
      (∀ e, catReason z blk = some e → Raises (.catnew st d a b) s cCAT_MALFORMED (BitVec.ofNat 64 e)) ∧
      (catReason z blk = none → lowestFree (fun i => (z.cats.find? i).isSome) = none → Raises (.catnew st d a b) s cCAT_MALFORMED 6) ∧
      (catReason z blk = none → lowestFree (fun i => (z.cats.find? i).isSome) = some n →
        catCapacity (poolFree z x) per (blkNat blk 12 4) = none → Raises (.catnew st d a b) s cCAT_MALFORMED 7) ∧
      (catReason z blk = none → lowestFree (fun i => (z.cats.find? i).isSome) = some n → catCapacity (poolFree z x) per (blkNat blk 12 4) = some cap →
        let use := Config.poolFixed + cap * per
        Yields (.catnew st d a b) s (takePool ((useBlocks z s.cur [(w, 64)]).setCat n (newCat x (dieOf z (homeTid z s.cur).core) blk cap use)) x use) d.toNat (BitVec.ofNat 64 n))) ∧
    (Issues c2 s → catOf (begun c2 s) s.cur (field w 7 0) true = none → Raises (.catdel st d a b) s cCAT_ABSENT w) ∧
    (∀ c, Issues c2 s → named (begun c2 s) c →
      let z := begun c2 s
      (catDone z (field w 7 0) c = true → Passes (.catdel st d a b) s (freeCat z (field w 7 0) c)) ∧
      (catDone z (field w 7 0) c = false → Answers (.catdel st d a b) s fun s' =>
        s'.cats.find? (field w 7 0) = some { c with closing := true } ∧
        ∃ n, (s'.thread s.cur).run = .parkedEngine (.deleting true (field w 7 0)) n))

/-- An append on its way takes the next version at the home die, while that die's clock runs, the log is not full (the model's
choice for a call on its way, log 85), no older call there goes first and its caller's tokens cover it, a flit too where it
crosses to another die, and the caller gets the version; of two in one cycle the one of the lower source number is first. For an
object or a Catalogue that is gone it raises OBJ_ABSENT or CAT_ABSENT. A die applies the entry after its applied version: the
copy takes the version and the state that the method leaves. A pending read runs once the local version has reached its target
and wakes its thread. A search of a Catalogue that is not closing is admitted, when a token covers it, at a snapshot no older
than the least version asked for, and in current mode no older than what the thread or a release before it has had returned, and
no newer than the tail (how much more is a free value, log 71), in local mode the local version; each pass is charged and wakes
the thread when the search is done. -/
def Obligations.LogsAndReplay : Prop :=
  (∀ (n : Nat) (src : Tid) (cat : Bool) (id : Nat) (e : LogEntry) (eval : Word) (s y y' : State) (home : Nat),
    s.flights[n]? = some (.append src cat id e eval) →
    let z := { s with flights := s.flights.eraseIdx n }
    let here := dieOf z (homeTid z src).core
    let paid := spend z (ctxOf z src) home 2 1 (scribeWaiters z home) = some y ∧
      (if here = home then y' = y else inject y (ctxOf z src) [(here, 1)] = some y')
    let at_ (last : Option (Nat × Nat)) : State := match last with
      | some (cyc, n) => if dieCycle y' home = cyc ∧ sourceOf y' (homeTid y' src) < n then advanceTo y' home (cyc + 1) else y'
      | none => y'
    (appendDie s cat id).any (fun d => !dieRuns s d) = false → olderAppend s n (appendDie s cat id) = false →
    (cat = false →
      (z.objects.find? id = none → Moves (.logAppend n) s (replyTrap z src cOBJ_ABSENT eval)) ∧
      (∀ o, z.objects.find? id = some o → lastVersion ≤ o.tail → Moves (.logAppend n) s (replyTrap z src cOPERAND_RANGE eval)) ∧
      (∀ o, z.objects.find? id = some o → o.tail < lastVersion → o.full z = false → o.home = home → paid →
        Moves (.logAppend n) s (reply ((at_ o.last).setObj id { o with
          tail := o.tail + 1
          log := o.log ++ [{ e with version := o.tail + 1 }]
          last := some (dieCycle (at_ o.last) home, sourceOf (at_ o.last) (homeTid (at_ o.last) src)) })
          src (BitVec.ofNat 64 (o.tail + 1))))) ∧
    (cat = true →
      (z.cats.find? id = none → Moves (.logAppend n) s (replyTrap z src cCAT_ABSENT eval)) ∧
      (∀ c, z.cats.find? id = some c → e.method = 0 → c.cap ≤ c.stored →
        Moves (.logAppend n) s (replyTrap z src cCAT_FULL (BitVec.ofNat 64 c.cap))) ∧
      (∀ c, z.cats.find? id = some c → (e.method = 0 → c.stored < c.cap) → c.tail < lastVersion → c.full z = false → c.home = home → paid →
        Moves (.logAppend n) s (reply ((at_ c.last).setCat id { c.tell (homeTid (at_ c.last) src) (c.tail + 1) with
          tail := c.tail + 1
          stored := if e.method = 0 then c.stored + 1 else c.stored
          log := c.log ++ [{ e with version := c.tail + 1 }]
          last := some (dieCycle (at_ c.last) home, sourceOf (at_ c.last) (homeTid (at_ c.last) src)) })
          src (BitVec.ofNat 64 (c.tail + 1)))))) ∧
  (∀ (id d : Nat) (o : Obj) (s : State), d < 4 → (enabledDies s).contains d = true → dieRuns s d = true → s.objects.find? id = some o →
    Moves (.entryApply false id d) s (reapObj (replayObj s id d o) id) ∧
    ∀ e m, o.log.find? (fun e => e.version == (o.copy d).applied + 1) = some e → o.methods[e.method]? = some m →
      let q := runMethod (field o.code 60 0) o.codeLen o.codeBytes o.size (o.copy d).state m e.version
        (callerWord e.callerVc e.callerThr e.callerCtx) e.args
      ∃ o', (replayObj s id d o).objects.find? id = some o' ∧ (o'.copy d).applied = e.version ∧ (o'.copy d).state = q.state ∧
        (∀ i < 4, i ≠ d → o'.copy i = o.copy i)) ∧
  (∀ (id d : Nat) (c : Cat) (s : State), (enabledDies s).contains d = true → dieRuns s d = true → s.cats.find? id = some c →
    Moves (.entryApply true id d) s (reapCat (replayCat s id d c) id)) ∧
  (∀ (c t : Nat) (k : KeptRead) (o : Obj) (m : Method) (s z : State),
    let id : Tid := ⟨c, t⟩
    let cp := o.copy (dieOf s c)
    let x := ctxOf s id
    pendingRead s id = some (k, o) → k.target ≤ cp.applied → dieRuns s (dieOf s c) = true → o.methods[k.method]? = some m →
    spend s x (dieOf s c) 2 1 (scribeWaiters s (dieOf s c)) = some z →
    let q := runMethod (field o.code 60 0) o.codeLen o.codeBytes o.size cp.state m cp.applied (callerWord (vcIn s x c) t x) k.args
    let y := chargeAlways z x (dieOf s c) 2 (q.words - 1)
    Moves (.rreadRun c t) s (wake (y.setThread id ((y.thread id).setKept (some { k with
      done := some (cp.applied, q.outcome, q.cause, q.result) }))) id)) ∧
  (∀ (c t : Nat) (q : Search) (k : Cat) (s : State),
    let id : Tid := ⟨c, t⟩
    pendingSearch s id = some (q, k) → dieRuns s (dieOf s c) = true →
    (q.snap = none → k.closing = false → spend s (ctxOf s id) (dieOf s c) 2 1 (scribeWaiters s (dieOf s c)) ≠ none →
      let seen := k.least (homeTid s id)
      let n := max q.least (if q.localMode then (k.copy (dieOf s c)).applied else seen + Config.tailSeen s.freeCount % (k.tail - seen + 1))
      let y := if q.localMode then s else s.setCat q.cat (k.tell (homeTid s id) n)
      Moves (.searchAdmission c t) s (y.setThread id { (s.thread id).setKeptSnap (some ⟨(s.thread id).chainStart, q.cat, n⟩) with
        search := some { q with snap := some n } })) ∧
    (∀ n z, q.snap = some n → n ≤ (k.copy (dieOf s c)).applied →
      let p := searchPass k (k.copy (dieOf s c)).entries n q
      spend s (ctxOf s id) (dieOf s c) 2 p.2 (scribeWaiters s (dieOf s c)) = some z →
      let y := z.setThread id { z.thread id with search := some p.1 }
      Moves (.searchStep c t) s (if p.1.done then wake y id else y)))

/-- CTXNEW makes the lowest free number a live child of the issuer, one deeper, with no setts, ranges, Archive or pool and the
budgets of a new context, and gives the number; a bad block raises CTX_MALFORMED with the first bad field, and a full table, a
depth of 8, 24 partitions or a lack of key slots CTX_LIMIT. CTXGRANT gives to a live child, CTXREVOKE tears a context down or
takes back, each after the thread's posted stores, and gD takes 0, of a teardown or a revocation of setts that must wait (for a
hint chain, an owed result, a reply, T13's tile commands) once it is done; a target outside, and one but the issuer for a flush,
raises CTX_DENIED. CTXSTAT reads a status value and gives 2 or 0 for a context that is dead. -/
def Obligations.ContextTree : Prop :=
  ∀ (st : BitVec 3) (d a b : BitVec 5) (s : State),
    let f : Form := { gForm [a] with cls := .irrev, home := true }
    let g : Form := { gForm [a, b] with cls := .irrev }
    let z := begun f s
    let x := ctxOf z s.cur
    let bad (i : Instr) (instr : Nat) (cs : List Check) : Prop := ∀ e, firstBad cs = some e → Raises i s cCTX_MALFORMED (malformedEval instr e)
    let outside (i : Instr) (y : Nat) : Prop := Raises i s cCTX_DENIED (BitVec.ofNat 64 (1 + 256 * y))
    (∀ blk, Issues f s → ctxBlock z s.cur a.toNat 64 = .ok blk →
      bad (.ctxnew st d a b) 2 (ctxnewChecks blk) ∧
      (firstBad (ctxnewChecks blk) = none →
        (freeContext z = none → Raises (.ctxnew st d a b) s cCTX_LIMIT 1) ∧
        (∀ id, freeContext z = some id →
          let child : Context := { childContext z x blk with keyGen := z.freeCount }
          let short := child.ownKey = true ∧ ((enabledDies z).any fun e => decide (keySlots ≤ (z.die e).keysUsed)) = true
          (8 ≤ (z.ctx x).depth → Raises (.ctxnew st d a b) s cCTX_LIMIT 2) ∧
          ((z.ctx x).depth < 8 → x = 0 → 24 ≤ depthCount z 1 → Raises (.ctxnew st d a b) s cCTX_LIMIT 3) ∧
          ((z.ctx x).depth < 8 → (x = 0 → depthCount z 1 < 24) →
            (short → Raises (.ctxnew st d a b) s cCTX_LIMIT 4) ∧
            (¬ short →
              let y := if child.ownKey then moveKeys z (· + 1) else z
              Yields (.ctxnew st d a b) s { y.setCtx id child with dead := (y.dead.erase id).filter fun e => e.2 != id } d.toNat
                (BitVec.ofNat 64 id) ∧
              child.parent = x ∧ child.depth = (z.ctx x).depth + 1 ∧ child.setts = [] ∧ child.ranges = [] ∧ child.archive = [] ∧
              child.pool = 0 ∧ child.hvc = blkNat blk 2 2 ∧ child.s1root = BitVec.ofNat 64 (blkNat blk 32 8)))))) ∧
    (∀ blk, Issues f s → ctxBlock z s.cur a.toNat 64 = .ok blk →
      let i : Instr := .ctxgrant st d a b
      let y := targetOf x (blkNat blk 0 2)
      let cs := kindChecks blk 5 ++ grantChecks blk
        (inSubtree z x y && y != x && (z.ctx y).parent == x && (z.ctx y).st == .live && !(z.ctx y).isRes)
      let mine := inSubtree z x y = true ∧ y ≠ x ∧ (z.ctx y).parent = x ∧ (z.ctx y).st = .live
      let grants (k : State → Nat → Nat → List Byte → Except Stop State) : Prop :=
        (∀ r, k (drainPosted z s.cur) x y blk = .ok r → Yields i s r d.toNat 0) ∧
        (∀ code e, k (drainPosted z s.cur) x y blk = .error (.trap code e) → Raises i s code e)
      bad i 3 cs ∧
      (firstBad cs = none → (¬ mine → outside i y) ∧
        (mine → (blkNat blk 2 1 = 0 → grants grantKind0) ∧ (blkNat blk 2 1 = 1 → grants grantKind1) ∧ (blkNat blk 2 1 = 2 → grants grantKind2) ∧
          (blkNat blk 2 1 = 3 → grants grantKind3) ∧ (blkNat blk 2 1 = 4 → grants grantKind4) ∧ (blkNat blk 2 1 = 5 → grants grantKind5)))) ∧
    (∀ blk, Issues f s → ctxBlock z s.cur a.toNat 64 = .ok blk →
      let i : Instr := .ctxrevoke st d a b
      let cs := kindChecks blk 4 ++ revokeChecks blk
      let y := targetOf x (blkNat blk 0 2)
      let p := drainPosted z s.cur
      let ends (q : State) (w : Teardown) : Prop :=
        let r := revokeStep w { q with teardowns := q.teardowns ++ [w] }
        (r.2 = true → Yields i s r.1 d.toNat 0) ∧ (r.2 = false → Sends i s r.1 false d.toNat)
      bad i 4 cs ∧
      (firstBad cs = none → blkNat blk 2 1 = 0 →
        (deadUnder p 9 x y = true → Yields i s p d.toNat 0) ∧
        (deadUnder p 9 x y = false → (inSubtree p x y = false ∨ y = x) → outside i y) ∧
        (deadUnder p 9 x y = false → inSubtree p x y = true → y ≠ x →
          (blkNat blk 8 1 = 0 → ends (beginTeardown p y) ⟨y, none, some s.cur, none, none⟩) ∧
          (blkNat blk 8 1 ≠ 0 → rangeAt (p.ctx x) (blkNat blk 16 8) = none → Raises i s cCTX_DENIED (BitVec.ofNat 64 (2 + 256 * y))) ∧
          (∀ r, blkNat blk 8 1 ≠ 0 → rangeAt (p.ctx x) (blkNat blk 16 8) = some r →
            ends (beginTeardown p y) ⟨y, some (r.dpa + (blkNat blk 16 8 - r.cpa)), some s.cur, none, none⟩))) ∧
      (firstBad cs = none → blkNat blk 2 1 ≠ 0 →
        let may := if blkNat blk 2 1 = 4 then blkNat blk 0 2 = 0 else inSubtree p x y = true ∧ y ≠ x
        let held := if (p.ctx y).isRes then (p.ctx y).resSetts else (p.ctx y).setts
        let n := blkNat blk 8 2
        (¬ may → outside i y) ∧
        (may → blkNat blk 2 1 = 2 → held.length < n → Raises i s cCTX_DENIED (BitVec.ofNat 64 (2 + 256 * y))) ∧
        (may → blkNat blk 2 1 = 2 → n ≤ held.length → ends p ⟨y, none, some s.cur, some ((lastN held n).map (·.2)), none⟩) ∧
        (∀ r, may → blkNat blk 2 1 ≠ 2 → revokeKind p y blk = .ok r → Yields i s r d.toNat 0) ∧
        (∀ code e, may → blkNat blk 2 1 ≠ 2 → revokeKind p y blk = .error (.trap code e) → Raises i s code e))) ∧
    (Issues g s →
      let z := begun g s
      let i : Instr := .ctxstat st d a b
      let w := s.me.readG b.toNat
      let x := ctxOf z s.cur
      let y := targetOf x (field (s.me.readG a.toNat) 9 0)
      let bad := 5 < field w 3 0 ∨ (0 < field w 3 0 ∧ field w 3 0 < 4 ∧ 4 < field w 6 4)
      (bad → Raises i s cOPERAND_RANGE w) ∧
      (¬ bad → (inSubtree z x y = true → Yields i s z d.toNat (statValue z y w)) ∧
        (inSubtree z x y = false → deadUnder z 9 x y = true → Yields i s z d.toNat (if field w 3 0 = 0 then 2 else 0)) ∧
        (inSubtree z x y = false → deadUnder z 9 x y = false → outside i y)))

/-- LNCH checks its record, finds a free core for every virtual core it asks for and the whole boot image in the context's
ranges, and binds the launch after the thread's posted stores, gD taking 0; a dead or stopping context gives 84 with the signal
marked, a core in use raises CORE_BUSY, a boot image outside the ranges CTX_DENIED. RESUME lets a thread held for the issuer go
on where it trapped, past its chain or at a new pc, with the general registers named, or sends the message up; gD takes 0, 1
when no such thread is held and 2 for a dead or stopping context; ACTION 3 of the root raises OPERAND_RANGE. WKDONE by T15
answers a miss with an entry, a repetition or a fault; gD takes 0, 1 for a record that cannot be installed, 2 for an unknown
miss. -/
def Obligations.LaunchesAndResumption : Prop :=
  ∀ (st : BitVec 3) (d a b : BitVec 5) (s : State),
    let f : Form := { gForm [a] with cls := .irrev, home := true }
    let h : Form := { gForm [a, b] with role := .t15, home := true }
    let z := begun f s
    let x := ctxOf z s.cur
    let p := drainPosted z s.cur
    (∀ blk, let f : Form := { gForm [a] with cls := .irrev }
      let z := begun f s
      let x := ctxOf z s.cur
      Issues f s → anyBlock z s.cur (s.me.readG a.toNat) 64 64 = .ok blk →
      let i : Instr := .lnch st d a b
      let p := drainPosted (useBlocks z s.cur [(s.me.readG a.toNat, 64)]) s.cur
      let y := targetOf x (blkNat blk 28 2)
      let c := z.ctx y
      let vs := (List.range (blkNat blk 14 2)).map (blkNat blk 12 2 + ·)
      let marked := signalError p (viewOf p s.cur) (BitVec.ofNat 64 (blkNat blk 48 8))
      let any : Context := { Context.bare with codeLen := 2 ^ 32, isRes := (blkNat blk 30 1).testBit 4 }
      (inSubtree z x y = false → deadUnder z 9 x y = true →
        (∀ e, firstBad (lnchChecks blk any) = some e → Raises i s cCTX_MALFORMED (malformedEval 1 e)) ∧
        (firstBad (lnchChecks blk any) = none → Yields i s marked d.toNat 84)) ∧
      (inSubtree z x y = false → deadUnder z 9 x y = false → Raises i s cCTX_DENIED (BitVec.ofNat 64 (1 + 256 * y))) ∧
      (inSubtree z x y = true → c.st = .stopping →
        (∀ e, firstBad (lnchChecks blk c) = some e → Raises i s cCTX_MALFORMED (malformedEval 1 e)) ∧
        (firstBad (lnchChecks blk c) = none → Yields i s marked d.toNat 84)) ∧
      (inSubtree z x y = true → c.st = .live →
        (∀ e, firstBad (lnchChecks blk c) = some e → Raises i s cCTX_MALFORMED (malformedEval 1 e)) ∧
        (firstBad (lnchChecks blk c) = none →
          (∀ v, vs.find? (fun v => (bindable z y c.isRes v).isNone) = some v → Raises i s cCORE_BUSY (BitVec.ofNat 64 v)) ∧
          (∀ ks : List Nat, vs.map (bindable z y c.isRes) = ks.map some →
            (heldPieces c c.bootPA (c.bootPA + c.bootLen)).foldl (fun n f => n + f.len) 0 < c.bootLen →
            Raises i s cCTX_DENIED (BitVec.ofNat 64 (4 + 256 * y))) ∧
          (∀ ks : List Nat, vs.map (bindable z y c.isRes) = ks.map some →
            c.bootLen ≤ (heldPieces c c.bootPA (c.bootPA + c.bootLen)).foldl (fun n f => n + f.len) 0 →
            Yields i s (bindLaunch p s.cur y blk ks) d.toNat 0)))) ∧
    (∀ blk, Issues f s → ctxBlock z s.cur a.toNat 128 = .ok blk →
      let i : Instr := .resume st d a b
      let y := targetOf x (blkNat blk 0 2)
      let act := blkNat blk 5 1
      (∀ e, firstBad (resumeChecks blk) = some e → Raises i s cCTX_MALFORMED (malformedEval 5 e)) ∧
      (firstBad (resumeChecks blk) = none → act = 3 → x = 0 → Raises i s cOPERAND_RANGE 3) ∧
      (firstBad (resumeChecks blk) = none → (act = 3 → x ≠ 0) →
        (inSubtree z x y = false → deadUnder z 9 x y = false → Raises i s cCTX_DENIED (BitVec.ofNat 64 (1 + 256 * y))) ∧
        (inSubtree p x y = false → deadUnder z 9 x y = true → Yields i s p d.toNat 2) ∧
        (inSubtree z x y = true → inSubtree p x y = true → (p.ctx y).st = .stopping → Yields i s p d.toNat 2) ∧
        (inSubtree z x y = true → inSubtree p x y = true → (p.ctx y).st = .live →
          (coreOfVc p y (blkNat blk 2 2) = none → Yields i s p d.toNat 1) ∧
          (∀ k, coreOfVc p y (blkNat blk 2 2) = some k →
            let t : Tid := ⟨k, blkNat blk 4 1⟩
            let gs := ((List.range 8).filter (blkNat blk 6 1).testBit).map fun j => (4 + j, BitVec.ofNat 64 (blkNat blk (32 + 8 * j) 8))
            let pc := if act = 0 then (p.thread t).epc else if act = 1 then chainAfter p t 16 (p.thread t).epc else BitVec.ofNat 64 (blkNat blk 16 8)
            ((p.thread t).run ≠ .held → Yields i s p d.toNat 1) ∧
            ((∀ n, (p.thread t).heldFor ≠ some (x, n)) → Yields i s p d.toNat 1) ∧
            (ctxOf p t ≠ y → Yields i s p d.toNat 1) ∧
            (∀ n, (p.thread t).run = .held → (p.thread t).heldFor = some (x, n) → ctxOf p t = y →
              (act = 3 → Yields i s (forwardHeld p t x n) d.toNat 0) ∧
              (act ≠ 3 → Yields i s (resumeThread p t pc gs) d.toNat 0)))))) ∧
    (Issues h s →
      let z := begun h s
      let i : Instr := .wkdone st d a b
      let w := s.me.readG a.toNat
      let code := field w 31 16
      let miss := (z.core s.cur.core).misses.find? fun m => m.id == field w 15 0
      (code ∉ [0, 1, cPAGE_FAULT, cXLATE_RIGHTS] → Raises i s cOPERAND_RANGE w) ∧
      (code ∈ [0, 1, cPAGE_FAULT, cXLATE_RIGHTS] → miss = none → Yields i s z d.toNat 2) ∧
      (∀ m, code ∈ [1, cPAGE_FAULT, cXLATE_RIGHTS] → miss = some m →
        Yields i s (answerMiss z s.cur.core m (if code = 1 then 0 else code)) d.toNat 0) ∧
      (∀ m kind ks, code = 0 → miss = some m → ownBlock z s.cur (s.me.readG b.toNat) 32 32 rRD = .ok (kind, ks) →
        let z := settlePosted z s.cur ks
        let r := readPlaces z ks
        let n := settOf s.cur.core
        (installEntry z m.ctx r m.cva = none → Yields i s (answerMiss z s.cur.core m cPAGE_FAULT) d.toNat 1) ∧
        (∀ e, installEntry z m.ctx r m.cva = some e →
          let y := if blkNat r 24 4 / 4096 % 2 = 1 then installRange z n e
            else z.setSett n { z.sett n with pageTlb := tlbInstall 512 (z.sett n).pageTlb e }
          Yields i s (answerMiss y s.cur.core m 0) d.toNat 0)))

/-- Of the messages for a handler that one context has named for a child the one of the highest seniority goes to the inbox of
the core that the handler has named once its launch runs there, its clock runs and there is room, with the header of its source
and kind 0x81; it is not delivered within its own tick; at the root a system call with no handler returns all ones, and another
message is reported and its context torn down. At a period's start every bucket and debt of every context takes its refilled
value. A host write of up to 64 bytes inside one line of host memory puts its bytes there. -/
def Obligations.ReflectionBudgetsAndHostWrites : Prop :=
  (∀ (n h : Nat) (held : Tid) (code : Nat) (async inh fwd : Bool) (epc eval : Word) (g : Nat) (gs : List Word) (x vc : Nat) (s : State),
    s.flights[n]? = some (.reflection h held code async inh fwd epc eval g gs x vc) → g < gts s →
    (∀ f ∈ s.flights, ∀ h' k c' a' i' f' e' v' g' gs' x' vc', f = .reflection h' k c' a' i' f' e' v' g' gs' x' vc' → reflectedTo s h' x' = reflectedTo s h x →
      ¬ (g' < g ∨ (g' = g ∧ sourceOf s k < sourceOf s held))) →
    let child := s.ctx (childToward s 9 h x)
    let z := { s with flights := s.flights.eraseIdx n }
    let body := reflectionBytes x vc held.thr code async inh fwd epc eval g gs
    (∀ k l launch, coreOfVc s h child.hvc = some k → (if child.hthr = 13 then (s.core k).resLaunch else (s.core k).launch) = some l →
      s.launches.find? l = some launch → launch.ctx = h → settClock s (settOf k) = true → (s.core k).inbox.length < inboxPlaces →
      let y := z.setCore k { z.core k with
        inbox := (z.core k).inbox ++ [⟨body, BitVec.ofNat 64 (vc + 65536 * held.thr + 2 ^ 24 * 0x81), child.hthr == 13⟩] }
      Moves (.reflectionMessage n) s (if child.hthr = 13 then wakeResident y k else y)) ∧
    (h = 0 → coreOfVc s h child.hvc = none → code = cSYSCALL →
      Moves (.reflectionMessage n) s (resumeThread z held epc [(4, BitVec.allOnes 64)])) ∧
    (h = 0 → coreOfVc s h child.hvc = none → code ≠ cSYSCALL →
      let q := beginTeardown { z with reports := z.reports ++ [body] } x
      Moves (.reflectionMessage n) s (teardownStep ⟨x, none, none, none, none⟩ { q with
        teardowns := q.teardowns ++ [⟨x, none, none, none, none⟩] }))) ∧
  (∀ (s : State),
    let z := advanceGts s s.refillAt
    let y := { z with
      contexts := z.contexts.map fun e => (e.1, refillContext z e.1 e.2)
      refillAt := z.refillAt + 8192 }
    Moves .budgetRefill s y ∧ s.refillAt ≤ gts z ∧ y.contexts.map (·.1) = z.contexts.map (·.1)) ∧
  (∀ (addr : Nat) (data : List Byte) (s : State), s.linkUp = true → Config.hostBase ≤ addr → addr % 64 + data.length ≤ 64 → addr < Config.fabricBase →
    let z := writePlaces s (span (outKey addr) data.length) data
    Moves (.cacheLineInvalidation addr data) s z ∧ (MemoryWf s → readPlaces z (span (outKey addr) data.length) = data))

/-- The root's slot of 64 bytes arms a switch. At its tick the outgoing partition enters its grace window; one that is switched
out already has nothing to save, and IN resumes. At the stop instant the posted stores of its threads are performed, every
thread that is not dormant stops with its results complete (inside a hint chain at the chain's end, on a die whose clock stands
when it restarts), and no running search and no miss record is kept; ordered tasks are undone once no thread of one stands in a
hint chain. What its routers hold goes to park buffers, its senders answered. A die that holds part of the partition reports
once nothing is under way and its clock runs; the last report commits, and IN resumes on the places that the slot's placement
names, or, where they do not hold it, on others (log 87); after the deadline an abort puts everything back and counts it. A
restore that cannot be made whole changes nothing but the report with the reason of Table 22.11. -/
def Obligations.GangSwitches : Prop :=
  (∀ (image : List Byte) (s : State), image.length = 64 → isPartition s (slotOf image).out = true →
    Moves (.switchSlotArm image) s { s with switches := s.switches ++ [slotOf image] } ∧
    (slotOf image).tick = blkNat image 0 8 ∧ (slotOf image).phase = 0) ∧
  (∀ (out : Nat) (w : Switch) (s : State), armedSwitch s out = some w → activeSwitch s out = none →
    let z := advanceGts s w.tick
    let y := mapThreads z (partThreads z out) fun th => { th with yielded := none }
    w.tick ≤ gts y ∧ w ∈ s.switches ∧ w.phase = 0 ∧
    (switchedOut s out = false → Moves (.switchTick out) s (putSwitch y w { w with
      tick := gts y
      phase := 1 })) ∧
    (switchedOut s out = true → Moves (.switchTick out) s (resumeIn (dropSwitch z w) w))) ∧
  (∀ (out : Nat) (w : Switch) (s : State), activeSwitch s out = some w → w.phase = 1 →
    let ts := partThreads s out
    let z := if ts.any (stillRuns s) then advanceGts s (w.tick + w.grace) else s
    let compact := (partCores z out).filter fun k => (z.core k).launch.isSome && compactCore (z.core k)
    let y := ts.foldl stopAtInstant z
    let y := undoWhenStill (((partCores y out).filter fun k => dieRuns y (dieOf y k)).foldl (fun y k => y.setCore k (withdrawMisses (y.core k))) y) out
    Moves (.stopInstant out) s (putSwitch y w { w with
      phase := 2
      stop := gts y
      compact := compact })) ∧
  (∀ (t : Tid) (s : State), t.thr < 16 → (stopAtInstant s t).thread t =
    if (s.thread t).chain.isSome || !dieRuns s (dieOf s t.core) then { s.thread t with stopped := (s.thread t).run != .dormant }
    else stopThread ((forgetMiss (drainPosted s t) t).thread t)) ∧
  (∀ (th : Thread), (stopThread th).stopped = (th.run != .dormant) ∧ (stopThread th).search = none ∧ (stopThread th).pc = th.pc ∧
    (stopThread th).pend = [] ∧ (stopThread th).latchD = none ∧ (stopThread th).keptSnap = th.keptSnap ∧
    (∀ n < 32, (stopThread th).finalG n = th.finalG n)) ∧
  (∀ (out : Nat) (w : Switch) (s : State), activeSwitch s out = some w → w.phase = 2 → w.flushed = false →
    let r := flushFlights (advanceGts s (w.stop + 2000)) out
    Moves (.parkBufferFlush out) s (putSwitch r.1 w { w with
      flushed := true
      parked := r.2 }) ∧ r.2.length = (s.flights.filter (parkable s out)).length) ∧
  (∀ (t : Tid) (k : Nat) (m : Msg) (s : State), parkFlight s (.msg t k m false) = (answer s t none, .msg t k m true)) ∧
  (∀ (out die : Nat) (w : Switch) (s : State), activeSwitch s out = some w → w.phase = 2 → quiet s out = true →
    (partDies s out).contains die = true → dieRuns s die = true → gts s ≤ w.stop + w.deadline → (s.flights.any (parkable s out)) = false →
    let w' := { w with reported := addNew w.reported [die] }
    let y := ((partThreads s out).filter fun t => dieOf s t.core == die).foldl stopHere s
    let y := ((partCores y out).filter fun k => dieOf y k == die).foldl (fun y k => y.setCore k (withdrawMisses (y.core k))) y
    let z := putSwitch (undoWhenStill y out) w w'
    Moves (.denSaveReport out die) s (if (partDies z out).all w'.reported.contains then resumeIn (commitSwitch z w') w' else z)) ∧
  (∀ (w : Switch) (s : State) (d : Den) (n : Nat), s.dens.zipIdx.find? (fun e => e.1.bySwitch && e.1.root == w.inn) = some (d, n) →
    ∃ places, resumeIn s w = tryRestore s n { d with fold := w.fold } places ∧
      ((List.range (denSetts s d).length).map (Config.placement w.place s.freeCount) = places ∨
        placesBad s (s.ctx d.root).parent (denSetts s d) ((List.range (denSetts s d).length).map (Config.placement w.place s.freeCount)) = true)) ∧
  (∀ (out : Nat) (w : Switch) (s : State), activeSwitch s out = some w → w.phase = 2 →
    let z := advanceGts s (w.stop + w.deadline)
    let y := mapThreads (undoWhenStill z out) (partThreads z out) releaseThread
    let c := y.ctx out
    let u := y.setCtx out { c with
      overruns := c.overruns + 1
      aborts := c.aborts + 1 }
    Moves (.switchAbort out) s (retimeSlots (dropSwitch { u with flights := w.parked ++ u.flights } w) out)) ∧
  (∀ (n : Nat) (places : List Nat) (d : Den) (s : State), s.dens[n]? = some d →
    (∀ r, restoreReason s d places = some r →
      Moves (.denRestore n places) s { s with reports := s.reports ++ [leBytes 0x55 1 ++ leBytes r 1] }) ∧
    (restoreReason s d places = none → Moves (.denRestore n places) s (restoreDen s n d places)))

/-- MARK writes a marker record while MARK is set and else does nothing. The pulse writes a sample record for each die at its
multiple of SAMPLEN, and the next is one SAMPLEN later. A ready thread whose chain matches an entry stops before it. RUN lets
every halted thread of a context go on, STEP one thread for one chain, HALT halts a context, by which every thread of it that is
not dormant is halted. The root writes the control block, which keeps only its defined bits, and the entries. A halted thread's
registers are read and written one by one. A soft error in a thread that is not dormant is a pending CORE_SOFT_ERROR. -/
def Obligations.Spoor : Prop :=
  (∀ (st : BitVec 3) (d a b : BitVec 5) (s : State), Issues (gForm [a, b]) s →
    let z := begun (gForm [a, b]) s
    Passes (.mark st d a b) s (markRecord z s.cur (s.me.readG a.toNat) (s.me.readG b.toNat)) ∧
    (bit (z.ctx (ctxOf z s.cur)).spoor 1 = false → Passes (.mark st d a b) s z)) ∧
  (∀ (ctx : Nat) (s : State),
    let n := field (s.ctx ctx).spoor 63 32
    let g := (s.ctx ctx).pulseAt
    let z := (List.range 4).foldl (fun z d => sampleRecord z ctx d g (coresOnDie z ctx d)) (advanceGts s g)
    isContext s ctx = true → bit (s.ctx ctx).spoor 3 = true → 1024 ≤ n → n % 1024 = 0 →
    Moves (.samplingPulse ctx) s (z.setCtx ctx { z.ctx ctx with pulseAt := g + n })) ∧
  (∀ (c t n : Nat) (s z : State), breakCheck s ⟨c, t⟩ = (z, some n) → (z.thread ⟨c, t⟩).run = .ready → (z.thread ⟨c, t⟩).halted = none →
    Moves (.breakpointMatch c t) s (breakStop z ⟨c, t⟩ n)) ∧
  (∀ (ctx : Nat) (s : State), isContext s ctx = true →
    let free (z : State) (t : Tid) : State := match (z.thread t).halted with
      | some n => unhalt (z.setThread t { z.thread t with passBreak := decide (n ≤ 8), passBrk := n == 8, stepOne := false }) t
      | none => z
    let z := (threadsOf s ctx).foldl free s
    Moves (.debugRun ctx) s (runRecord (settleHolds (z.setCtx ctx { z.ctx ctx with haltedAll := false })) ctx 1) ∧
    Moves (.debugHalt ctx) s (haltContext s ctx) ∧
    (∀ t ∈ threadsOf s ctx, t.thr < 16 → (s.thread t).run ≠ .dormant → ((haltContext s ctx).thread t).halted ≠ none)) ∧
  (∀ (c t : Nat) (s : State), (s.thread ⟨c, t⟩).halted ≠ none →
    Moves (.debugStep c t) s (unhalt (s.setThread ⟨c, t⟩ { s.thread ⟨c, t⟩ with passBreak := true, passBrk := (s.thread ⟨c, t⟩).halted == some 8, stepOne := true }) ⟨c, t⟩)) ∧
  (∀ (c t : Nat) (file : BitVec 2) (reg : BitVec 5) (x : Vec) (s : State), (s.thread ⟨c, t⟩).halted ≠ none →
    Moves (.debugRegisterAccess c t file reg (some x)) s (s.setThread ⟨c, t⟩ (debugWrite (s.thread ⟨c, t⟩) file.toNat reg.toNat x)) ∧
    Moves (.debugRegisterAccess c t file reg none) s
      { s with reports := s.reports ++ [leBytes (debugRead (s.thread ⟨c, t⟩) file.toNat reg.toNat).toNat 64] } ∧
    (file.toNat = 0 → (debugWrite (s.thread ⟨c, t⟩) 0 reg.toNat x).finalG reg.toNat = if reg.toNat = 0 then 0 else x.setWidth 64)) ∧
  (∀ (ctx index : Nat) (image : List Byte) (s : State), isContext s ctx = true →
    let x := s.ctx ctx
    let ring : Ring := ⟨blkNat image 0 8, blkNat image 8 8⟩
    (index < 8 → Moves (.spoorControlWrite ctx index image) s (s.setCtx ctx { x with bps := x.bps.setIfInBounds index (breakpointOf image) })) ∧
    (index = 8 → let w : Word := BitVec.ofNat 64 (blkNat image 0 8) &&& 0xFFFFFFFF000000FE
      let n := field w 63 32
      Moves (.spoorControlWrite ctx index image) s (settleHolds (s.setCtx ctx { x with
        spoor := w
        pulseAt := if n = field x.spoor 63 32 ∧ bit x.spoor 3 then x.pulseAt else (gts s / n + 1) * n }))) ∧
    (9 ≤ index → index < 13 → ring.len % 4096 = 0 → ring.len ≤ 2 ^ 30 → Moves (.spoorControlWrite ctx index image) s
      (s.setCtx ctx { x with rings := x.rings.setIfInBounds (index - 9) ring }))) ∧
  (∀ (c t : Nat) (file : BitVec 2) (reg : BitVec 5) (s : State), (s.thread ⟨c, t⟩).run ≠ .dormant →
    Moves (.coreSoftError c t file reg) s
      (pendTrap s ⟨c, t⟩ (srcThread s ⟨c, t⟩) cCORE_SOFT_ERROR (BitVec.ofNat 64 (reg.toNat + 32 * file.toNat))))

/-- A COLL whose block passes Table 23.8's checks and whose extents may be reached adds the issuer's contribution, its handle
filling and its deadline TIMEOUT periods of 1,024 ticks ahead; gD takes 0; a bad block raises COLL_MALFORMED and a handle in use
HANDLE_STATE. EGRS opens the clip if needed and is parked while the marker reads the planes; with them the marker holds the tile
and gD takes 0. EGFIN asks for the record; a condition of Table 23.11 raises EGRESS_STATE with the lowest reason that holds.
Where they disagree the collective fails with reason 2, and where a rank's port is down or its context is gone with reason 3;
with every rank's contribution there, their extents reached and their tokens paid, each rank completes; a passed deadline fails
the collective with reason 1; the marker takes the oldest tile while the link is up and no walker is asked about its DST, and a
record is written when no tile of its clip waits. -/
def Obligations.CollectivesAndEgress : Prop :=
  (∀ (st : BitVec 3) (d a b : BitVec 5) (s : State) (i : Instr) (form : Nat),
    (i, form) ∈ ([(.collAr st d a b, 0), (.collAg st d a b, 1), (.collRs st d a b, 2)] : List (Instr × Nat)) →
    let f : Form := { gForm [a] with cls := .irrev, home := true }
    let z := begun f s
    ∀ kind ks, Issues f s → ownBlock z s.cur (s.me.readG a.toNat) 64 64 rRD = .ok (kind, ks) →
      let z := settlePosted z s.cur ks
      let blk := readPlaces z ks
      let v := viewOf z s.cur
      let part := partOf z 9 (ctxOf z s.cur)
      let bad := collMalformed z s.cur v form blk
      let word (off : Nat) : Word := wordOf ((blk.drop off).take 8)
      let hv := (blkNat blk 6 1).testBit 0
      let sv := (blkNat blk 6 1).testBit 1
      let h := blkNat blk 7 1
      let n := settOf s.cur.core
      let old := (z.sett n).handle (h + resHandles s.cur)
      (bad ≠ 0 → Raises i s cCOLL_MALFORMED (BitVec.ofNat 64 bad)) ∧
      (∀ g, bad = 0 → groupOf z part (blkNat blk 0 2) = some g →
        extentCheck z v (word 16) (0, srcBytes form (blkNat blk 4 1) (blkNat blk 8 4) g.ranks.length) rRD = .ok () →
        extentCheck z v (word 24) (0, dstBytes form (blkNat blk 4 1) (blkNat blk 8 4) g.ranks.length) rWR = .ok () →
        (sv = true → ∃ k, objectCheck z v (word 32) 16 rAMO = .ok k) →
        (hv = true → hState old ≠ hFree → Raises i s cHANDLE_STATE (handleEval (h + vsettOf z s.cur % 1024 * 65536) (hState old))) ∧
        ((hv = true → hState old = hFree) →
          let y := if hv then setHandleOf z n (h + resHandles s.cur) (BitVec.ofNat 64 (field old 63 32 * 2 ^ 32 + hFilling)) else z
          let deadline := if blkNat blk 12 4 = 0 then none else some (gts y + 1024 * blkNat blk 12 4)
          let paused := if collHeld y part (blkNat blk 0 2) then some (gts y) else none
          Yields i s { y with contribs := y.contribs ++ [⟨part, blkNat blk 0 2, BitVec.ofNat 64 (blkNat blk 40 8), blkNat blk 2 2, form,
            blkNat blk 4 1, blkNat blk 5 1, blkNat blk 8 4, hv, sv, h, deadline, word 16, word 24, word 32, s.cur, v.segBase, v.segLimit, paused, dieOf y s.cur.core⟩] }
            d.toNat 0))) ∧
  (∀ (st : BitVec 3) (d a b : BitVec 5) (s : State),
    let f : Form := { gForm [a] with cls := .irrev, home := true }
    ∀ kind ks, Issues f s → ownBlock (begun f s) s.cur (s.me.readG a.toNat) 64 64 rRD = .ok (kind, ks) →
      let z := settlePosted (begun f s) s.cur ks
      let v := viewOf z s.cur
      let x := ctxOf z s.cur
      let part := partOf z 9 x
      let c := z.ctx part
      let blk := readPlaces z ks
      let open_ := clipOf c (egClip blk)
      (∀ planes dst k,
        let one := open_.isNone ∧ 16 ≤ c.clips.length
        let two := ∃ y, open_ = some y ∧ (egFrame blk < y.last ∨ y.fw ≠ egFW blk ∨ y.fh ≠ egFH blk)
        (one → Raises (.egrs st d a b) s cEGRESS_STATE 1) ∧
        (¬ one → two → Raises (.egrs st d a b) s cEGRESS_STATE 2) ∧
        (¬ one → ¬ two → egPlanes z v blk = none → Raises (.egrs st d a b) s cEGRESS_STATE 3) ∧
        (¬ one → ¬ two → egPlanes z v blk = some planes → egGeometry blk = false → Raises (.egrs st d a b) s cEGRESS_STATE 4) ∧
        (¬ one → ¬ two → egPlanes z v blk = some planes → egGeometry blk = true →
          hostPlaces z v (egAddr blk 48) (egTW blk * egTH blk * 3 / 2) = .ok none → Raises (.egrs st d a b) s cEGRESS_STATE 5) ∧
        (¬ one → ¬ two → egPlanes z v blk = some planes → egGeometry blk = true →
          hostPlaces z v (egAddr blk 48) (egTW blk * egTH blk * 3 / 2) = .ok (some dst) →
          (c.egEnable = false → Raises (.egrs st d a b) s cEGRESS_STATE 6) ∧
          (c.egEnable = true → (∃ y, open_ = some y ∧ y.failed = true) → Raises (.egrs st d a b) s cEGRESS_STATE 7)) ∧
        (¬ one → ¬ two → egPlanes z v blk = some planes → egGeometry blk = true →
          hostPlaces z v (egAddr blk 48) (egTW blk * egTH blk * 3 / 2) = .ok (some dst) → c.egEnable = true →
          (∀ y, open_ = some y → y.failed = false) → egSignalCheck z v (egAddr blk 56) = .ok k →
          let p := settlePosted z s.cur (planes.1 ++ planes.2.1 ++ planes.2.2)
          let c := p.ctx part
          let c' := match open_ with
            | some y => setClip c { y with last := egFrame blk }
            | none => { c with clips := c.clips ++ [⟨egClip blk, egFW blk, egFH blk, egFrame blk, 0, gts p, [], false⟩] }
          Sends (.egrs st d a b) s { p.setCtx part c' with flights := p.flights ++ [.planes s.cur x blk
            planes.1 planes.2.1 planes.2.2 (egAddr blk 48).toNat (egAddr blk 56) v.segBase v.segLimit] } false d.toNat)) ∧
      (∀ dst k y,
        ((open_ = none ∨ closing z part (egClip blk) = true) → Raises (.egfin st d a b) s cEGRESS_STATE 1) ∧
        (open_ = some y → closing z part (egClip blk) = false → hostPlaces z v (egAddr blk 48) 3520 = .ok none →
          Raises (.egfin st d a b) s cEGRESS_STATE 5) ∧
        (open_ = some y → closing z part (egClip blk) = false → hostPlaces z v (egAddr blk 48) 3520 = .ok (some dst) →
          (c.egEnable = false → Raises (.egfin st d a b) s cEGRESS_STATE 6) ∧
          (c.egEnable = true → y.failed = true → Raises (.egfin st d a b) s cEGRESS_STATE 7) ∧
          (c.egEnable = true → y.failed = false → egSignalCheck z v (egAddr blk 56) = .ok k →
            Yields (.egfin st d a b) s { z with flights := z.flights ++ [.egfin s.cur x (egClip blk) (egAddr blk 48).toNat (egAddr blk 56)
              v.segBase v.segLimit (gts z)] } d.toNat 0)))) ∧
  (∀ (part group rank : Nat) (seq : BitVec 64) (g : Group) (s : State), groupOf s part group = some g →
    let cs := gathered s g seq
    let n := g.ranks.length
    Moves (.collectiveCompletion part group seq) s (runCollective s g seq) ∧
    (s.collFails = [] → disagree cs = true → runCollective s g seq = failColl s g seq 2 fun _ => 2) ∧
    (s.collFails = [] → disagree cs = false → g.ranks.any (rankGone s) = true → runCollective s g seq = failColl s g seq 3 fun _ => 3) ∧
    (∀ srcs dsts y, s.collFails = [] → disagree cs = false → g.ranks.any (rankGone s) = false → n ≠ 0 → cs.length = n → collClocks s cs = true →
      (∀ c ∈ cs, asked s c.issuer.core c.miss = false) → collReach s n cs = .ok (srcs, dsts) → collTokens s g cs = some y →
      runCollective s g seq = (cs.zip dsts).foldl (fun s e => completeRank s srcs e) y) ∧
    (∀ c e, (gathered s g seq).length < g.ranks.length → c ∈ gathered s g seq → c.rank = rank → c.pausedAt = none → c.deadline = some e →
      e ≤ gts s → Moves (.collectiveTimeout part group rank seq) s (failColl s g seq 1 fun _ => 1))) ∧
  (∀ (n x dst : Nat) (t : Tid) (b : List Byte) (ys cbs crs : List Nat) (signal : Word) (sb sl : Vector Word 8) (s : State),
    s.flights[n]? = some (.planes t x b ys cbs crs dst signal sb sl) →
    (settClock s (settOf t.core) = true → planeRead n s = reply { s with flights := s.flights.eraseIdx n ++
      [.egress t x b (readPlaces s ys) (readPlaces s cbs) (readPlaces s crs) dst signal sb sl] } t 0) ∧
    (settClock s (settOf t.core) = false → planeRead n s = s)) ∧
  (∀ (f : Flight) (s : State), marks s f = true →
    (s.flights.find? (fun f => match f with | .egress _ _ _ _ _ _ _ _ _ _ => true | _ => false) = some f →
      Moves .egressTileMark s (markTile s f)) ∧
    (s.flights.find? (fun f => match f with | .egfin _ x n _ _ _ _ _ => !tileWaits s (partOf s 9 x) n | _ => false) = some f →
      Moves .clipRecord s (finishClip s f)))

/-- The root gives a partition its egress setting with a fresh key, its MSI-X window and its collective groups. A die asked for
an operating point steps to the slower of it and its cap; a relock ends at its target. GTS moves by one tick more or less, at
most once in 1,024 ticks. The governor caps a die one step lower where a temperature is too high, or where the part exceeds PLIM
and this die has the highest power, at most once in 1 ms; the refresh rate doubles above 85 degrees and is restored below 83;
above 115 degrees the package resets; PLIM is written within its range only. The host writes the ranges of device memory that
are visible to it while the link is up; after a retrain the host's writes made meanwhile arrive; a port that goes down is told
to the driver and fails the collectives that use it with reason 3; an attestation request is answered with a report. -/
def Obligations.PackageSteps : Prop :=
  (∀ (ctx strength base count group : Nat) (enable : Bool) (ranks : List (Nat × Nat × Nat)) (s : State), isPartition s ctx = true →
    (1 ≤ strength → strength ≤ 3 → Moves (.egressSettingWrite ctx strength enable) s (s.setCtx ctx { s.ctx ctx with
      egEnable := enable
      egStrength := strength
      keyGen := s.freeCount })) ∧
    (base + count ≤ 4096 → Moves (.msixWindowWrite ctx base count) s (s.setCtx ctx { s.ctx ctx with
      msixBase := base
      msixCount := count })) ∧
    (group < 65536 → 2 ≤ ranks.length → ranks.length ≤ 1024 →
      let z := { s with groups := (s.groups.filter fun g => !(g.part == ctx && g.group == group)) ++ [⟨ctx, group, ranks⟩] }
      Moves (.collectiveGroupDefine ctx group ranks) s z ∧ groupOf z ctx group = some ⟨ctx, group, ranks⟩)) ∧
  (∀ (die point dram junction power temp : Nat) (s : State), (s.die die).enabled = true →
    (point < 4 → Moves (.stepRequest die point) s (applyPoint (s.setDie die { s.die die with asked := point }) die)) ∧
    Moves (.thermalGovernor die dram junction power) s (govern s die dram junction power) ∧
    (let y := s.setDie die { s.die die with power := power }
     (95 < dram ∨ 105 < junction ∨ (s.plim < partPower y ∧ highestPower y die = true)) → (s.die die).cap < 3 → die < 4 →
      (∀ c, (s.die die).capAt = some c → c + 1000000 ≤ gts s) →
      govern s die dram junction power = applyPoint (y.setDie die { y.die die with
        coolSince := none
        cap := (s.die die).cap + 1
        capAt := some (gts s) }) die) ∧
    (let y := s.setDie die { s.die die with power := power }
     dram ≤ 95 → junction ≤ 105 → (s.plim < partPower y → highestPower y die = false) →
      (90 ≤ dram ∨ 100 ≤ junction ∨ s.plim ≤ partPower y) →
      govern s die dram junction power = y.setDie die { y.die die with coolSince := none }) ∧
    (85 < temp → Moves (.refreshDoubling die temp) s (s.setDie die { s.die die with refx2 := true })) ∧
    (temp < 83 → Moves (.refreshDoubling die temp) s (s.setDie die { s.die die with refx2 := false })) ∧
    (83 ≤ temp → temp ≤ 85 → Moves (.refreshDoubling die temp) s (s.setDie die (s.die die))) ∧
    (115 < temp → Moves (.thermalTrip die temp) s (packageReset s true))) ∧
  (∀ (die e p : Nat) (s : State), die < 4 →
    Moves (.relockEnd die) s (endRelock s die) ∧
    ((s.die die).relock = some (e, p) →
      ((endRelock s die).die die).point = p ∧ e ≤ (endRelock s die).now ∧
      ((s.die die).kept = none → ((endRelock s die).die die).relock = none))) ∧
  (∀ (add : Bool) (g : Nat) (s : State), s.lastSlew = some g → gts s < g + 1024 → exec (.timeMasterAlignment add) s = .next s) ∧
  (∀ (s : State), (∀ g, s.lastSlew = some g → g + 1024 ≤ gts s) →
    let y := { s with slewPlus := s.slewPlus + 1 }
    let z := advanceGts s (gts s + 1)
    let z := { z with slewMinus := z.slewMinus + 1 }
    Moves (.timeMasterAlignment true) s { y with lastSlew := some (gts y) } ∧
    Moves (.timeMasterAlignment false) s { z with lastSlew := some (gts z) } ∧ gts s ≤ gts y) ∧
  (∀ (watts : Nat) (s : State), s.form ≠ 0 → 600 ≤ watts → watts ≤ plimMax s.form → Moves (.plimWrite watts) s { s with plim := watts }) ∧
  (∀ (watts : Nat) (s : State), (s.form = 0 ∨ watts < 600 ∨ plimMax s.form < watts) → exec (.plimWrite watts) s = .next s) ∧
  (∀ (addr : Nat) (data nonce : List Byte) (s : State),
    (s.linkUp = true → addr + data.length ≤ 2 ^ 39 → (∀ a ∈ span addr data.length, a % 2 ^ 37 < dieDram (s.die (a / 2 ^ 37)) ∧ ∃ e ∈ s.hostVisible, e.1 ≤ a ∧ a < e.1 + e.2) →
      let z := writePlaces s (span (dramKey addr) data.length) data
      Moves (.hostMemoryAccess addr data) s z ∧ (MemoryWf s → readPlaces z (span (dramKey addr) data.length) = data)) ∧
    (nonce.length = 32 → Moves (.attestationRequest nonce) s { s with reports := s.reports ++ [attestation s nonce] } ∧
      (attestation s nonce).take 32 = nonce) ∧
    (s.linkUp = true → Moves .linkRetrain s { s with linkUp := false }) ∧
    (s.linkUp = false → Moves .linkRetrain s (s.hostWrites.foldl hostWrite { s with
      linkUp := true
      hostWrites := [] }))) ∧
  (∀ (port : Nat) (s : State), port < 12 →
    let z := { s with
      portsUp := s.portsUp &&& ~~~(BitVec.ofNat 12 (2 ^ port))
      reports := s.reports ++ [leBytes port 1] }
    Moves (.fabricPortDown port) s (failWhere z (fun g => g.ranks.any fun r => r.1 != ownPackage && Config.fabricRoute r.1 % 12 == port) 3
      fun _ => 3) ∧ z.portsUp.getLsbD port = false)

/-- A start of a package that does not run performs the start: cold where it is asked for or where COLDNEXT says so. It succeeds
when some stack survives, the link trains and the firmware verifies (both signatures of the image, each under a key whose digest
is fused, and its version); GTS is then 0, the survivors are numbered densely, and after a cold start COLDNEXT is clear and the
calibration kept, which a warm start restores; otherwise every core is in reset and the mailbox holds the step and the reason if
the link trained. A running package does not start again. A host reset puts the package in reset and keeps DRAM and host memory.
-/
def Obligations.StartsAndResets : Prop :=
  (∀ (s : State), s.power ≠ .running →
    Moves .coldStart s (start s true) ∧ Moves .warmStart s (start s s.coldNext)) ∧
  (∀ (s : State), s.power = .running → exec .coldStart s = .next s ∧ exec .warmStart s = .next s) ∧
  (∀ (cold : Bool) (s : State),
    let n := s.freeCount
    let z := start s cold
    let lost := if cold then (List.range 4).map (Config.channelsLost n) else s.calibration.getD ((List.range 4).map (Config.channelsLost n))
    let survives := ∃ d : Fin 4, (startDie s n d (lost.getD d 0)).enabled = true
    (survives → Config.linkFails n = false → imageLoads 0 = true →
      z.power = .running ∧ z.now = 0 ∧ gts z = 0 ∧ z.cores = [] ∧ z.flights = [] ∧ z.dram = s.dram ∧ z.outside = s.outside ∧
      (∀ d : Fin 4, z.die d = startDie s n d (lost.getD d 0)) ∧ (cold = true → z.coldNext = false ∧ z.calibration = some lost) ∧
      (cold = false → z.calibration = s.calibration) ∧
      (z.contexts.map (·.1)) = [0] ∧ ((z.ctx 0).setts.map (·.1)) = List.range (z.ctx 0).setts.length) ∧
    (survives → Config.linkFails n = true → z.power = .failed 4 2 ∧ z.mailbox = [] ∧ z.linkUp = false) ∧
    (survives → Config.linkFails n = false → imageLoads 0 = false → z.power = .failed 6 3 ∧ z.mailbox = [6, 3]) ∧
    (¬ survives → z.power = .failed 4 1 ∧ z.cores = [] ∧ (∀ d < 4, (z.die d).keysUsed = 0) ∧ (cold = false → z.coldNext = true))) ∧
  (∀ (s : State), Moves .hostReset s (packageReset s false) ∧
    (let z := packageReset s false
     z.power = .inReset ∧ z.cores = [] ∧ z.flights = [] ∧ z.launches = [] ∧ z.dram = s.dram ∧ z.archive = s.archive ∧ z.outside = s.outside ∧
     z.coldNext = s.coldNext))

/-- After reset every thread is dormant with pc 0, every register 0 but k0, which reads all ones, and no chain; GTS is 0; the
root holds all 576 setts, is of depth 0 and nothing is in flight; no message, barrier, handle or reservation is held; every
memory is in canonical form. The zero of a register that the spec gives no reset value is the model's choice of log entry 1. -/
def Obligations.ResetState : Prop :=
  (∀ (t : Tid), t.thr < 16 →
    let th := State.reset.thread t
    th.run = .dormant ∧ th.pc = 0 ∧ th.chain = none ∧ th.pend = [] ∧ th.fflags = 0 ∧ th.tctl = 0 ∧ th.cause = 0 ∧ th.epc = 0 ∧ th.asyncq = [] ∧
    (∀ n < 32, th.readG n = 0 ∧ th.readV n = 0) ∧ (∀ n < 8, th.readK n = if n = 0 then 0xFFFF else 0)) ∧
  gts State.reset = 0 ∧ State.reset.flights = [] ∧ State.reset.launches = [] ∧ State.reset.meth = none ∧
  (∀ c, (State.reset.core c).inbox = [] ∧ (State.reset.core c).launch = none) ∧
  (State.reset.ctx 0).setts.length = 576 ∧ (State.reset.ctx 0).depth = 0 ∧
  MemoryWf State.reset

/-- Call a state canonical when DRAM, the Archive, memory outside the package, every core's scratchpad, every sett's memory and
those held in a Den list their bytes in strictly rising order of address and list no byte that an unlisted address reads as.
From every canonical state a step that answers a next state gives a canonical state, so that equal memories stay equal data
whatever the machine runs. -/
def Obligations.MemoryStaysCanonical : Prop :=
  let canonical (s : State) : Prop :=
    s.dram.wf = true ∧ s.archive.wf = true ∧ s.outside.wf = true ∧
    (∀ e ∈ s.cores, e.2.spad.wf = true) ∧ (∀ e ∈ s.setts, e.2.mem.wf = true) ∧
    (∀ d ∈ s.dens, (∀ e ∈ d.cores, e.2.spad.wf = true) ∧ (∀ e ∈ d.setts, e.2.mem.wf = true))
  ∀ (s s' : State), canonical s → step s = .next s' → canonical s'
end

