-- ==== Sys2Proof/Laws/Map.lean ====
section
/-! SUPPORT. Laws of the sparse maps and of memory: a read after a write, and that every memory operation keeps the canonical
form. -/

namespace Sys2Proof

namespace KMap

variable {α : Type}

theorem find?_insert_self (m : KMap α) (i : Nat) (x : α) : (m.insert i x).find? i = some x := by
  induction m with
  | nil => simp [insert, find?]
  | cons e m ih =>
    obtain ⟨k, v⟩ := e
    simp only [insert]
    split
    · simp [find?]
    · split
      · simp [find?]
      · simp [find?, *]

theorem find?_insert_ne (m : KMap α) {i j : Nat} (x : α) (h : j ≠ i) : (m.insert i x).find? j = m.find? j := by
  induction m with
  | nil => simp only [insert, find?]; split <;> simp_all
  | cons e m ih =>
    obtain ⟨k, v⟩ := e
    simp only [insert]
    split
    · subst_vars; simp [find?, h]
    · split
      · simp only [find?]; split
        · exact absurd ‹_› h
        · split
          · have h1 : j ≠ k := by omega
            have h2 : j < k := by omega
            simp [h1, h2]
          · rfl
      · simp only [find?, ih]

@[simp] theorem getD_insert_self (m : KMap α) (i : Nat) (x d : α) : (m.insert i x).getD i d = x := by
  simp [getD, find?_insert_self]

theorem getD_insert_ne (m : KMap α) {i j : Nat} (x d : α) (h : j ≠ i) : (m.insert i x).getD j d = m.getD j d := by
  simp [getD, find?_insert_ne m x h]

theorem getD_insert (m : KMap α) (i j : Nat) (x d : α) : (m.insert i x).getD j d = if j = i then x else m.getD j d := by
  split
  · subst_vars; simp
  · exact getD_insert_ne m x d ‹_›

variable [DecidableEq α]

theorem wfFrom_mono {d : α} {a b : Nat} {m : KMap α} (h : a ≤ b) (w : wfFrom d b m = true) : wfFrom d a m = true := by
  cases m with
  | nil => rfl
  | cons e m =>
    simp only [wfFrom, Bool.and_eq_true, decide_eq_true_eq] at w ⊢
    exact ⟨⟨by omega, w.1.2⟩, w.2⟩

theorem wfFrom_insert {d : α} {lo i : Nat} {x : α} {m : KMap α} (w : wfFrom d lo m = true) (hx : x ≠ d) (hi : lo ≤ i) :
    wfFrom d lo (m.insert i x) = true := by
  induction m generalizing lo with
  | nil => simp [insert, wfFrom, hx, hi]
  | cons e m ih =>
    obtain ⟨k, v⟩ := e
    simp only [wfFrom, Bool.and_eq_true, decide_eq_true_eq] at w
    simp only [insert]
    split
    · subst_vars; simp [wfFrom, hx, hi, w.2]
    · split
      · simp [wfFrom, hx, hi, w.1.2, w.2]; omega
      · simp [wfFrom, w.1, ih w.2 (by omega)]

theorem wfFrom_erase {d : α} {lo i : Nat} {m : KMap α} (w : wfFrom d lo m = true) : wfFrom d lo (m.erase i) = true := by
  induction m generalizing lo with
  | nil => rfl
  | cons e m ih =>
    obtain ⟨k, v⟩ := e
    have w' := w
    simp only [wfFrom, Bool.and_eq_true, decide_eq_true_eq] at w
    simp only [erase]
    split
    · exact wfFrom_mono (by omega) w.2
    · split
      · exact w'
      · simp [wfFrom, w.1, ih w.2]

theorem wfFrom_put {d : α} {i : Nat} {x : α} {m : KMap α} (w : wfFrom d 0 m = true) : wfFrom d 0 (put d m i x) = true := by
  unfold put
  split
  · exact wfFrom_erase w
  · exact wfFrom_insert w ‹_› (Nat.zero_le _)

theorem find?_below {d : α} {lo i : Nat} {m : KMap α} (w : wfFrom d lo m = true) (h : i < lo) : m.find? i = none := by
  cases m with
  | nil => rfl
  | cons e m =>
    obtain ⟨k, v⟩ := e
    simp only [wfFrom, Bool.and_eq_true, decide_eq_true_eq] at w
    have h1 : i ≠ k := by omega
    have h2 : i < k := by omega
    simp [find?, h1, h2]

theorem find?_erase {d : α} {lo : Nat} {m : KMap α} (w : wfFrom d lo m = true) (i j : Nat) :
    (m.erase i).find? j = if j = i then none else m.find? j := by
  induction m generalizing lo with
  | nil => simp [erase, find?]
  | cons e m ih =>
    obtain ⟨k, v⟩ := e
    simp only [wfFrom, Bool.and_eq_true, decide_eq_true_eq] at w
    simp only [erase]
    split
    · subst_vars
      by_cases h : j = k
      · subst h; simp [find?_below w.2 (Nat.lt_succ_self j)]
      · simp only [find?, if_neg h]
        by_cases h2 : j < k
        · simp [h2, find?_below w.2 (Nat.lt_succ_of_lt h2)]
        · simp [h2]
    · split
      · by_cases h : j = i
        · subst h; simp [find?, *]
        · simp [h]
      · simp only [find?, ih w.2]
        by_cases h : j = i
        · subst h; simp [*]
        · simp [h]

theorem getD_put {d : α} {m : KMap α} (w : wfFrom d 0 m = true) (i j : Nat) (x : α) :
    (put d m i x).getD j d = if j = i then x else m.getD j d := by
  unfold put
  split
  · subst_vars
    simp only [getD, find?_erase w]
    split <;> simp
  · exact getD_insert m i j x d

end KMap

namespace Memory

theorem put_wf {m : Memory} (w : m.wf = true) (a : Nat) (b : Byte) : (m.put a b).wf = true := KMap.wfFrom_put w

theorem putBytes_wf {m : Memory} (w : m.wf = true) (a : Nat) (bs : List Byte) : (m.putBytes a bs).wf = true := by
  induction bs generalizing m a with
  | nil => exact w
  | cons b bs ih => exact ih (put_wf w a b) _

/-- A read after a write: the byte written at its address, every other byte as before. -/
theorem get_put {m : Memory} (w : m.wf = true) (a i : Nat) (b : Byte) : (m.put a b).get i = if i = a then b else m.get i :=
  KMap.getD_put w a i b

theorem get_putBytes_ne {m : Memory} (w : m.wf = true) (a i : Nat) (bs : List Byte) (h : i < a ∨ a + bs.length ≤ i) :
    (m.putBytes a bs).get i = m.get i := by
  induction bs generalizing m a with
  | nil => rfl
  | cons b bs ih =>
    simp only [List.length_cons] at h
    rw [putBytes, ih (put_wf w a b) (a + 1) (by omega), get_put w, if_neg (by omega)]

theorem get_putBytes {m : Memory} (w : m.wf = true) (a i : Nat) (bs : List Byte) (h : i < bs.length) :
    (m.putBytes a bs).get (a + i) = bs[i] := by
  induction bs generalizing m a i with
  | nil => exact absurd h (by simp)
  | cons b bs ih =>
    cases i with
    | zero => rw [putBytes, get_putBytes_ne (put_wf w a b) (a + 1) (a + 0) bs (by omega), get_put w]; simp
    | succ i =>
      have := ih (m := m.put a b) (put_wf w a b) (a + 1) i (by simpa using h)
      simp only [putBytes, List.getElem_cons_succ]
      rw [← this]; congr 1; omega

end Memory

end Sys2Proof
end

