-- ==== Sys2Proof/Laws/State.lean ====
section
/-! SUPPORT. What each update of the state leaves as it is: one lemma for each field, so that no proof unfolds an update. -/

namespace Sys2Proof.Machine

open Sys2Proof

@[simp] theorem setCore_power (s : State) (c : Nat) (x : VCore) : (s.setCore c x).power = s.power := rfl
@[simp] theorem setCore_now (s : State) (c : Nat) (x : VCore) : (s.setCore c x).now = s.now := rfl
@[simp] theorem setCore_slewPlus (s : State) (c : Nat) (x : VCore) : (s.setCore c x).slewPlus = s.slewPlus := rfl
@[simp] theorem setCore_slewMinus (s : State) (c : Nat) (x : VCore) : (s.setCore c x).slewMinus = s.slewMinus := rfl
@[simp] theorem setCore_lastSlew (s : State) (c : Nat) (x : VCore) : (s.setCore c x).lastSlew = s.lastSlew := rfl
@[simp] theorem setCore_dies (s : State) (c : Nat) (x : VCore) : (s.setCore c x).dies = s.dies := rfl
@[simp] theorem setCore_dram (s : State) (c : Nat) (x : VCore) : (s.setCore c x).dram = s.dram := rfl
@[simp] theorem setCore_archive (s : State) (c : Nat) (x : VCore) : (s.setCore c x).archive = s.archive := rfl
@[simp] theorem setCore_outside (s : State) (c : Nat) (x : VCore) : (s.setCore c x).outside = s.outside := rfl
@[simp] theorem setCore_setts (s : State) (c : Nat) (x : VCore) : (s.setCore c x).setts = s.setts := rfl
@[simp] theorem setCore_units (s : State) (c : Nat) (x : VCore) : (s.setCore c x).units = s.units := rfl
@[simp] theorem setCore_contexts (s : State) (c : Nat) (x : VCore) : (s.setCore c x).contexts = s.contexts := rfl
@[simp] theorem setCore_dead (s : State) (c : Nat) (x : VCore) : (s.setCore c x).dead = s.dead := rfl
@[simp] theorem setCore_launches (s : State) (c : Nat) (x : VCore) : (s.setCore c x).launches = s.launches := rfl
@[simp] theorem setCore_nextLaunch (s : State) (c : Nat) (x : VCore) : (s.setCore c x).nextLaunch = s.nextLaunch := rfl
@[simp] theorem setCore_objects (s : State) (c : Nat) (x : VCore) : (s.setCore c x).objects = s.objects := rfl
@[simp] theorem setCore_cats (s : State) (c : Nat) (x : VCore) : (s.setCore c x).cats = s.cats := rfl
@[simp] theorem setCore_flights (s : State) (c : Nat) (x : VCore) : (s.setCore c x).flights = s.flights := rfl
@[simp] theorem setCore_contribs (s : State) (c : Nat) (x : VCore) : (s.setCore c x).contribs = s.contribs := rfl
@[simp] theorem setCore_collFails (s : State) (c : Nat) (x : VCore) : (s.setCore c x).collFails = s.collFails := rfl
@[simp] theorem setCore_softErrors (s : State) (c : Nat) (x : VCore) : (s.setCore c x).softErrors = s.softErrors := rfl
@[simp] theorem setCore_pathErrors (s : State) (c : Nat) (x : VCore) : (s.setCore c x).pathErrors = s.pathErrors := rfl
@[simp] theorem setCore_signals (s : State) (c : Nat) (x : VCore) : (s.setCore c x).signals = s.signals := rfl
@[simp] theorem setCore_teardowns (s : State) (c : Nat) (x : VCore) : (s.setCore c x).teardowns = s.teardowns := rfl
@[simp] theorem setCore_groups (s : State) (c : Nat) (x : VCore) : (s.setCore c x).groups = s.groups := rfl
@[simp] theorem setCore_refillAt (s : State) (c : Nat) (x : VCore) : (s.setCore c x).refillAt = s.refillAt := rfl
@[simp] theorem setCore_switches (s : State) (c : Nat) (x : VCore) : (s.setCore c x).switches = s.switches := rfl
@[simp] theorem setCore_dens (s : State) (c : Nat) (x : VCore) : (s.setCore c x).dens = s.dens := rfl
@[simp] theorem setCore_msix (s : State) (c : Nat) (x : VCore) : (s.setCore c x).msix = s.msix := rfl
@[simp] theorem setCore_portsUp (s : State) (c : Nat) (x : VCore) : (s.setCore c x).portsUp = s.portsUp := rfl
@[simp] theorem setCore_portsTrained (s : State) (c : Nat) (x : VCore) : (s.setCore c x).portsTrained = s.portsTrained := rfl
@[simp] theorem setCore_linkUp (s : State) (c : Nat) (x : VCore) : (s.setCore c x).linkUp = s.linkUp := rfl
@[simp] theorem setCore_plim (s : State) (c : Nat) (x : VCore) : (s.setCore c x).plim = s.plim := rfl
@[simp] theorem setCore_form (s : State) (c : Nat) (x : VCore) : (s.setCore c x).form = s.form := rfl
@[simp] theorem setCore_lostSetts (s : State) (c : Nat) (x : VCore) : (s.setCore c x).lostSetts = s.lostSetts := rfl
@[simp] theorem setCore_lostBanks (s : State) (c : Nat) (x : VCore) : (s.setCore c x).lostBanks = s.lostBanks := rfl
@[simp] theorem setCore_hostWrites (s : State) (c : Nat) (x : VCore) : (s.setCore c x).hostWrites = s.hostWrites := rfl
@[simp] theorem setCore_hostVisible (s : State) (c : Nat) (x : VCore) : (s.setCore c x).hostVisible = s.hostVisible := rfl
@[simp] theorem setCore_coldNext (s : State) (c : Nat) (x : VCore) : (s.setCore c x).coldNext = s.coldNext := rfl
@[simp] theorem setCore_startKind (s : State) (c : Nat) (x : VCore) : (s.setCore c x).startKind = s.startKind := rfl
@[simp] theorem setCore_archTest (s : State) (c : Nat) (x : VCore) : (s.setCore c x).archTest = s.archTest := rfl
@[simp] theorem setCore_calibration (s : State) (c : Nat) (x : VCore) : (s.setCore c x).calibration = s.calibration := rfl
@[simp] theorem setCore_mailbox (s : State) (c : Nat) (x : VCore) : (s.setCore c x).mailbox = s.mailbox := rfl
@[simp] theorem setCore_reports (s : State) (c : Nat) (x : VCore) : (s.setCore c x).reports = s.reports := rfl
@[simp] theorem setCore_cur (s : State) (c : Nat) (x : VCore) : (s.setCore c x).cur = s.cur := rfl
@[simp] theorem setCore_agenda (s : State) (c : Nat) (x : VCore) : (s.setCore c x).agenda = s.agenda := rfl
@[simp] theorem setCore_freeCount (s : State) (c : Nat) (x : VCore) : (s.setCore c x).freeCount = s.freeCount := rfl
@[simp] theorem setCore_parkCount (s : State) (c : Nat) (x : VCore) : (s.setCore c x).parkCount = s.parkCount := rfl
@[simp] theorem setCore_turns (s : State) (c : Nat) (x : VCore) : (s.setCore c x).turns = s.turns := rfl
@[simp] theorem setCore_meth (s : State) (c : Nat) (x : VCore) : (s.setCore c x).meth = s.meth := rfl

@[simp] theorem setSett_power (s : State) (i : Nat) (x : Sett) : (s.setSett i x).power = s.power := rfl
@[simp] theorem setSett_now (s : State) (i : Nat) (x : Sett) : (s.setSett i x).now = s.now := rfl
@[simp] theorem setSett_slewPlus (s : State) (i : Nat) (x : Sett) : (s.setSett i x).slewPlus = s.slewPlus := rfl
@[simp] theorem setSett_slewMinus (s : State) (i : Nat) (x : Sett) : (s.setSett i x).slewMinus = s.slewMinus := rfl
@[simp] theorem setSett_lastSlew (s : State) (i : Nat) (x : Sett) : (s.setSett i x).lastSlew = s.lastSlew := rfl
@[simp] theorem setSett_dies (s : State) (i : Nat) (x : Sett) : (s.setSett i x).dies = s.dies := rfl
@[simp] theorem setSett_dram (s : State) (i : Nat) (x : Sett) : (s.setSett i x).dram = s.dram := rfl
@[simp] theorem setSett_archive (s : State) (i : Nat) (x : Sett) : (s.setSett i x).archive = s.archive := rfl
@[simp] theorem setSett_outside (s : State) (i : Nat) (x : Sett) : (s.setSett i x).outside = s.outside := rfl
@[simp] theorem setSett_cores (s : State) (i : Nat) (x : Sett) : (s.setSett i x).cores = s.cores := rfl
@[simp] theorem setSett_units (s : State) (i : Nat) (x : Sett) : (s.setSett i x).units = s.units := rfl
@[simp] theorem setSett_contexts (s : State) (i : Nat) (x : Sett) : (s.setSett i x).contexts = s.contexts := rfl
@[simp] theorem setSett_dead (s : State) (i : Nat) (x : Sett) : (s.setSett i x).dead = s.dead := rfl
@[simp] theorem setSett_launches (s : State) (i : Nat) (x : Sett) : (s.setSett i x).launches = s.launches := rfl
@[simp] theorem setSett_nextLaunch (s : State) (i : Nat) (x : Sett) : (s.setSett i x).nextLaunch = s.nextLaunch := rfl
@[simp] theorem setSett_objects (s : State) (i : Nat) (x : Sett) : (s.setSett i x).objects = s.objects := rfl
@[simp] theorem setSett_cats (s : State) (i : Nat) (x : Sett) : (s.setSett i x).cats = s.cats := rfl
@[simp] theorem setSett_flights (s : State) (i : Nat) (x : Sett) : (s.setSett i x).flights = s.flights := rfl
@[simp] theorem setSett_contribs (s : State) (i : Nat) (x : Sett) : (s.setSett i x).contribs = s.contribs := rfl
@[simp] theorem setSett_collFails (s : State) (i : Nat) (x : Sett) : (s.setSett i x).collFails = s.collFails := rfl
@[simp] theorem setSett_softErrors (s : State) (i : Nat) (x : Sett) : (s.setSett i x).softErrors = s.softErrors := rfl
@[simp] theorem setSett_pathErrors (s : State) (i : Nat) (x : Sett) : (s.setSett i x).pathErrors = s.pathErrors := rfl
@[simp] theorem setSett_signals (s : State) (i : Nat) (x : Sett) : (s.setSett i x).signals = s.signals := rfl
@[simp] theorem setSett_teardowns (s : State) (i : Nat) (x : Sett) : (s.setSett i x).teardowns = s.teardowns := rfl
@[simp] theorem setSett_groups (s : State) (i : Nat) (x : Sett) : (s.setSett i x).groups = s.groups := rfl
@[simp] theorem setSett_refillAt (s : State) (i : Nat) (x : Sett) : (s.setSett i x).refillAt = s.refillAt := rfl
@[simp] theorem setSett_switches (s : State) (i : Nat) (x : Sett) : (s.setSett i x).switches = s.switches := rfl
@[simp] theorem setSett_dens (s : State) (i : Nat) (x : Sett) : (s.setSett i x).dens = s.dens := rfl
@[simp] theorem setSett_msix (s : State) (i : Nat) (x : Sett) : (s.setSett i x).msix = s.msix := rfl
@[simp] theorem setSett_portsUp (s : State) (i : Nat) (x : Sett) : (s.setSett i x).portsUp = s.portsUp := rfl
@[simp] theorem setSett_portsTrained (s : State) (i : Nat) (x : Sett) : (s.setSett i x).portsTrained = s.portsTrained := rfl
@[simp] theorem setSett_linkUp (s : State) (i : Nat) (x : Sett) : (s.setSett i x).linkUp = s.linkUp := rfl
@[simp] theorem setSett_plim (s : State) (i : Nat) (x : Sett) : (s.setSett i x).plim = s.plim := rfl
@[simp] theorem setSett_form (s : State) (i : Nat) (x : Sett) : (s.setSett i x).form = s.form := rfl
@[simp] theorem setSett_lostSetts (s : State) (i : Nat) (x : Sett) : (s.setSett i x).lostSetts = s.lostSetts := rfl
@[simp] theorem setSett_lostBanks (s : State) (i : Nat) (x : Sett) : (s.setSett i x).lostBanks = s.lostBanks := rfl
@[simp] theorem setSett_hostWrites (s : State) (i : Nat) (x : Sett) : (s.setSett i x).hostWrites = s.hostWrites := rfl
@[simp] theorem setSett_hostVisible (s : State) (i : Nat) (x : Sett) : (s.setSett i x).hostVisible = s.hostVisible := rfl
@[simp] theorem setSett_coldNext (s : State) (i : Nat) (x : Sett) : (s.setSett i x).coldNext = s.coldNext := rfl
@[simp] theorem setSett_startKind (s : State) (i : Nat) (x : Sett) : (s.setSett i x).startKind = s.startKind := rfl
@[simp] theorem setSett_archTest (s : State) (i : Nat) (x : Sett) : (s.setSett i x).archTest = s.archTest := rfl
@[simp] theorem setSett_calibration (s : State) (i : Nat) (x : Sett) : (s.setSett i x).calibration = s.calibration := rfl
@[simp] theorem setSett_mailbox (s : State) (i : Nat) (x : Sett) : (s.setSett i x).mailbox = s.mailbox := rfl
@[simp] theorem setSett_reports (s : State) (i : Nat) (x : Sett) : (s.setSett i x).reports = s.reports := rfl
@[simp] theorem setSett_cur (s : State) (i : Nat) (x : Sett) : (s.setSett i x).cur = s.cur := rfl
@[simp] theorem setSett_agenda (s : State) (i : Nat) (x : Sett) : (s.setSett i x).agenda = s.agenda := rfl
@[simp] theorem setSett_freeCount (s : State) (i : Nat) (x : Sett) : (s.setSett i x).freeCount = s.freeCount := rfl
@[simp] theorem setSett_parkCount (s : State) (i : Nat) (x : Sett) : (s.setSett i x).parkCount = s.parkCount := rfl
@[simp] theorem setSett_turns (s : State) (i : Nat) (x : Sett) : (s.setSett i x).turns = s.turns := rfl
@[simp] theorem setSett_meth (s : State) (i : Nat) (x : Sett) : (s.setSett i x).meth = s.meth := rfl

@[simp] theorem setCtx_power (s : State) (i : Nat) (x : Context) : (s.setCtx i x).power = s.power := rfl
@[simp] theorem setCtx_now (s : State) (i : Nat) (x : Context) : (s.setCtx i x).now = s.now := rfl
@[simp] theorem setCtx_slewPlus (s : State) (i : Nat) (x : Context) : (s.setCtx i x).slewPlus = s.slewPlus := rfl
@[simp] theorem setCtx_slewMinus (s : State) (i : Nat) (x : Context) : (s.setCtx i x).slewMinus = s.slewMinus := rfl
@[simp] theorem setCtx_lastSlew (s : State) (i : Nat) (x : Context) : (s.setCtx i x).lastSlew = s.lastSlew := rfl
@[simp] theorem setCtx_dies (s : State) (i : Nat) (x : Context) : (s.setCtx i x).dies = s.dies := rfl
@[simp] theorem setCtx_dram (s : State) (i : Nat) (x : Context) : (s.setCtx i x).dram = s.dram := rfl
@[simp] theorem setCtx_archive (s : State) (i : Nat) (x : Context) : (s.setCtx i x).archive = s.archive := rfl
@[simp] theorem setCtx_outside (s : State) (i : Nat) (x : Context) : (s.setCtx i x).outside = s.outside := rfl
@[simp] theorem setCtx_cores (s : State) (i : Nat) (x : Context) : (s.setCtx i x).cores = s.cores := rfl
@[simp] theorem setCtx_setts (s : State) (i : Nat) (x : Context) : (s.setCtx i x).setts = s.setts := rfl
@[simp] theorem setCtx_units (s : State) (i : Nat) (x : Context) : (s.setCtx i x).units = s.units := rfl
@[simp] theorem setCtx_dead (s : State) (i : Nat) (x : Context) : (s.setCtx i x).dead = s.dead := rfl
@[simp] theorem setCtx_launches (s : State) (i : Nat) (x : Context) : (s.setCtx i x).launches = s.launches := rfl
@[simp] theorem setCtx_nextLaunch (s : State) (i : Nat) (x : Context) : (s.setCtx i x).nextLaunch = s.nextLaunch := rfl
@[simp] theorem setCtx_objects (s : State) (i : Nat) (x : Context) : (s.setCtx i x).objects = s.objects := rfl
@[simp] theorem setCtx_cats (s : State) (i : Nat) (x : Context) : (s.setCtx i x).cats = s.cats := rfl
@[simp] theorem setCtx_flights (s : State) (i : Nat) (x : Context) : (s.setCtx i x).flights = s.flights := rfl
@[simp] theorem setCtx_contribs (s : State) (i : Nat) (x : Context) : (s.setCtx i x).contribs = s.contribs := rfl
@[simp] theorem setCtx_collFails (s : State) (i : Nat) (x : Context) : (s.setCtx i x).collFails = s.collFails := rfl
@[simp] theorem setCtx_softErrors (s : State) (i : Nat) (x : Context) : (s.setCtx i x).softErrors = s.softErrors := rfl
@[simp] theorem setCtx_pathErrors (s : State) (i : Nat) (x : Context) : (s.setCtx i x).pathErrors = s.pathErrors := rfl
@[simp] theorem setCtx_signals (s : State) (i : Nat) (x : Context) : (s.setCtx i x).signals = s.signals := rfl
@[simp] theorem setCtx_teardowns (s : State) (i : Nat) (x : Context) : (s.setCtx i x).teardowns = s.teardowns := rfl
@[simp] theorem setCtx_groups (s : State) (i : Nat) (x : Context) : (s.setCtx i x).groups = s.groups := rfl
@[simp] theorem setCtx_refillAt (s : State) (i : Nat) (x : Context) : (s.setCtx i x).refillAt = s.refillAt := rfl
@[simp] theorem setCtx_switches (s : State) (i : Nat) (x : Context) : (s.setCtx i x).switches = s.switches := rfl
@[simp] theorem setCtx_dens (s : State) (i : Nat) (x : Context) : (s.setCtx i x).dens = s.dens := rfl
@[simp] theorem setCtx_msix (s : State) (i : Nat) (x : Context) : (s.setCtx i x).msix = s.msix := rfl
@[simp] theorem setCtx_portsUp (s : State) (i : Nat) (x : Context) : (s.setCtx i x).portsUp = s.portsUp := rfl
@[simp] theorem setCtx_portsTrained (s : State) (i : Nat) (x : Context) : (s.setCtx i x).portsTrained = s.portsTrained := rfl
@[simp] theorem setCtx_linkUp (s : State) (i : Nat) (x : Context) : (s.setCtx i x).linkUp = s.linkUp := rfl
@[simp] theorem setCtx_plim (s : State) (i : Nat) (x : Context) : (s.setCtx i x).plim = s.plim := rfl
@[simp] theorem setCtx_form (s : State) (i : Nat) (x : Context) : (s.setCtx i x).form = s.form := rfl
@[simp] theorem setCtx_lostSetts (s : State) (i : Nat) (x : Context) : (s.setCtx i x).lostSetts = s.lostSetts := rfl
@[simp] theorem setCtx_lostBanks (s : State) (i : Nat) (x : Context) : (s.setCtx i x).lostBanks = s.lostBanks := rfl
@[simp] theorem setCtx_hostWrites (s : State) (i : Nat) (x : Context) : (s.setCtx i x).hostWrites = s.hostWrites := rfl
@[simp] theorem setCtx_hostVisible (s : State) (i : Nat) (x : Context) : (s.setCtx i x).hostVisible = s.hostVisible := rfl
@[simp] theorem setCtx_coldNext (s : State) (i : Nat) (x : Context) : (s.setCtx i x).coldNext = s.coldNext := rfl
@[simp] theorem setCtx_startKind (s : State) (i : Nat) (x : Context) : (s.setCtx i x).startKind = s.startKind := rfl
@[simp] theorem setCtx_archTest (s : State) (i : Nat) (x : Context) : (s.setCtx i x).archTest = s.archTest := rfl
@[simp] theorem setCtx_calibration (s : State) (i : Nat) (x : Context) : (s.setCtx i x).calibration = s.calibration := rfl
@[simp] theorem setCtx_mailbox (s : State) (i : Nat) (x : Context) : (s.setCtx i x).mailbox = s.mailbox := rfl
@[simp] theorem setCtx_reports (s : State) (i : Nat) (x : Context) : (s.setCtx i x).reports = s.reports := rfl
@[simp] theorem setCtx_cur (s : State) (i : Nat) (x : Context) : (s.setCtx i x).cur = s.cur := rfl
@[simp] theorem setCtx_agenda (s : State) (i : Nat) (x : Context) : (s.setCtx i x).agenda = s.agenda := rfl
@[simp] theorem setCtx_freeCount (s : State) (i : Nat) (x : Context) : (s.setCtx i x).freeCount = s.freeCount := rfl
@[simp] theorem setCtx_parkCount (s : State) (i : Nat) (x : Context) : (s.setCtx i x).parkCount = s.parkCount := rfl
@[simp] theorem setCtx_turns (s : State) (i : Nat) (x : Context) : (s.setCtx i x).turns = s.turns := rfl
@[simp] theorem setCtx_meth (s : State) (i : Nat) (x : Context) : (s.setCtx i x).meth = s.meth := rfl

@[simp] theorem setUnit_power (s : State) (k : Nat) (x : HoltUnit) : (s.setUnit k x).power = s.power := rfl
@[simp] theorem setUnit_now (s : State) (k : Nat) (x : HoltUnit) : (s.setUnit k x).now = s.now := rfl
@[simp] theorem setUnit_slewPlus (s : State) (k : Nat) (x : HoltUnit) : (s.setUnit k x).slewPlus = s.slewPlus := rfl
@[simp] theorem setUnit_slewMinus (s : State) (k : Nat) (x : HoltUnit) : (s.setUnit k x).slewMinus = s.slewMinus := rfl
@[simp] theorem setUnit_lastSlew (s : State) (k : Nat) (x : HoltUnit) : (s.setUnit k x).lastSlew = s.lastSlew := rfl
@[simp] theorem setUnit_dies (s : State) (k : Nat) (x : HoltUnit) : (s.setUnit k x).dies = s.dies := rfl
@[simp] theorem setUnit_dram (s : State) (k : Nat) (x : HoltUnit) : (s.setUnit k x).dram = s.dram := rfl
@[simp] theorem setUnit_archive (s : State) (k : Nat) (x : HoltUnit) : (s.setUnit k x).archive = s.archive := rfl
@[simp] theorem setUnit_outside (s : State) (k : Nat) (x : HoltUnit) : (s.setUnit k x).outside = s.outside := rfl
@[simp] theorem setUnit_cores (s : State) (k : Nat) (x : HoltUnit) : (s.setUnit k x).cores = s.cores := rfl
@[simp] theorem setUnit_setts (s : State) (k : Nat) (x : HoltUnit) : (s.setUnit k x).setts = s.setts := rfl
@[simp] theorem setUnit_contexts (s : State) (k : Nat) (x : HoltUnit) : (s.setUnit k x).contexts = s.contexts := rfl
@[simp] theorem setUnit_dead (s : State) (k : Nat) (x : HoltUnit) : (s.setUnit k x).dead = s.dead := rfl
@[simp] theorem setUnit_launches (s : State) (k : Nat) (x : HoltUnit) : (s.setUnit k x).launches = s.launches := rfl
@[simp] theorem setUnit_nextLaunch (s : State) (k : Nat) (x : HoltUnit) : (s.setUnit k x).nextLaunch = s.nextLaunch := rfl
@[simp] theorem setUnit_objects (s : State) (k : Nat) (x : HoltUnit) : (s.setUnit k x).objects = s.objects := rfl
@[simp] theorem setUnit_cats (s : State) (k : Nat) (x : HoltUnit) : (s.setUnit k x).cats = s.cats := rfl
@[simp] theorem setUnit_flights (s : State) (k : Nat) (x : HoltUnit) : (s.setUnit k x).flights = s.flights := rfl
@[simp] theorem setUnit_contribs (s : State) (k : Nat) (x : HoltUnit) : (s.setUnit k x).contribs = s.contribs := rfl
@[simp] theorem setUnit_collFails (s : State) (k : Nat) (x : HoltUnit) : (s.setUnit k x).collFails = s.collFails := rfl
@[simp] theorem setUnit_softErrors (s : State) (k : Nat) (x : HoltUnit) : (s.setUnit k x).softErrors = s.softErrors := rfl
@[simp] theorem setUnit_pathErrors (s : State) (k : Nat) (x : HoltUnit) : (s.setUnit k x).pathErrors = s.pathErrors := rfl
@[simp] theorem setUnit_signals (s : State) (k : Nat) (x : HoltUnit) : (s.setUnit k x).signals = s.signals := rfl
@[simp] theorem setUnit_teardowns (s : State) (k : Nat) (x : HoltUnit) : (s.setUnit k x).teardowns = s.teardowns := rfl
@[simp] theorem setUnit_groups (s : State) (k : Nat) (x : HoltUnit) : (s.setUnit k x).groups = s.groups := rfl
@[simp] theorem setUnit_refillAt (s : State) (k : Nat) (x : HoltUnit) : (s.setUnit k x).refillAt = s.refillAt := rfl
@[simp] theorem setUnit_switches (s : State) (k : Nat) (x : HoltUnit) : (s.setUnit k x).switches = s.switches := rfl
@[simp] theorem setUnit_dens (s : State) (k : Nat) (x : HoltUnit) : (s.setUnit k x).dens = s.dens := rfl
@[simp] theorem setUnit_msix (s : State) (k : Nat) (x : HoltUnit) : (s.setUnit k x).msix = s.msix := rfl
@[simp] theorem setUnit_portsUp (s : State) (k : Nat) (x : HoltUnit) : (s.setUnit k x).portsUp = s.portsUp := rfl
@[simp] theorem setUnit_portsTrained (s : State) (k : Nat) (x : HoltUnit) : (s.setUnit k x).portsTrained = s.portsTrained := rfl
@[simp] theorem setUnit_linkUp (s : State) (k : Nat) (x : HoltUnit) : (s.setUnit k x).linkUp = s.linkUp := rfl
@[simp] theorem setUnit_plim (s : State) (k : Nat) (x : HoltUnit) : (s.setUnit k x).plim = s.plim := rfl
@[simp] theorem setUnit_form (s : State) (k : Nat) (x : HoltUnit) : (s.setUnit k x).form = s.form := rfl
@[simp] theorem setUnit_lostSetts (s : State) (k : Nat) (x : HoltUnit) : (s.setUnit k x).lostSetts = s.lostSetts := rfl
@[simp] theorem setUnit_lostBanks (s : State) (k : Nat) (x : HoltUnit) : (s.setUnit k x).lostBanks = s.lostBanks := rfl
@[simp] theorem setUnit_hostWrites (s : State) (k : Nat) (x : HoltUnit) : (s.setUnit k x).hostWrites = s.hostWrites := rfl
@[simp] theorem setUnit_hostVisible (s : State) (k : Nat) (x : HoltUnit) : (s.setUnit k x).hostVisible = s.hostVisible := rfl
@[simp] theorem setUnit_coldNext (s : State) (k : Nat) (x : HoltUnit) : (s.setUnit k x).coldNext = s.coldNext := rfl
@[simp] theorem setUnit_startKind (s : State) (k : Nat) (x : HoltUnit) : (s.setUnit k x).startKind = s.startKind := rfl
@[simp] theorem setUnit_archTest (s : State) (k : Nat) (x : HoltUnit) : (s.setUnit k x).archTest = s.archTest := rfl
@[simp] theorem setUnit_calibration (s : State) (k : Nat) (x : HoltUnit) : (s.setUnit k x).calibration = s.calibration := rfl
@[simp] theorem setUnit_mailbox (s : State) (k : Nat) (x : HoltUnit) : (s.setUnit k x).mailbox = s.mailbox := rfl
@[simp] theorem setUnit_reports (s : State) (k : Nat) (x : HoltUnit) : (s.setUnit k x).reports = s.reports := rfl
@[simp] theorem setUnit_cur (s : State) (k : Nat) (x : HoltUnit) : (s.setUnit k x).cur = s.cur := rfl
@[simp] theorem setUnit_agenda (s : State) (k : Nat) (x : HoltUnit) : (s.setUnit k x).agenda = s.agenda := rfl
@[simp] theorem setUnit_freeCount (s : State) (k : Nat) (x : HoltUnit) : (s.setUnit k x).freeCount = s.freeCount := rfl
@[simp] theorem setUnit_parkCount (s : State) (k : Nat) (x : HoltUnit) : (s.setUnit k x).parkCount = s.parkCount := rfl
@[simp] theorem setUnit_turns (s : State) (k : Nat) (x : HoltUnit) : (s.setUnit k x).turns = s.turns := rfl
@[simp] theorem setUnit_meth (s : State) (k : Nat) (x : HoltUnit) : (s.setUnit k x).meth = s.meth := rfl

@[simp] theorem setDie_power (s : State) (d : Nat) (x : Die) : (s.setDie d x).power = s.power := rfl
@[simp] theorem setDie_now (s : State) (d : Nat) (x : Die) : (s.setDie d x).now = s.now := rfl
@[simp] theorem setDie_slewPlus (s : State) (d : Nat) (x : Die) : (s.setDie d x).slewPlus = s.slewPlus := rfl
@[simp] theorem setDie_slewMinus (s : State) (d : Nat) (x : Die) : (s.setDie d x).slewMinus = s.slewMinus := rfl
@[simp] theorem setDie_lastSlew (s : State) (d : Nat) (x : Die) : (s.setDie d x).lastSlew = s.lastSlew := rfl
@[simp] theorem setDie_dram (s : State) (d : Nat) (x : Die) : (s.setDie d x).dram = s.dram := rfl
@[simp] theorem setDie_archive (s : State) (d : Nat) (x : Die) : (s.setDie d x).archive = s.archive := rfl
@[simp] theorem setDie_outside (s : State) (d : Nat) (x : Die) : (s.setDie d x).outside = s.outside := rfl
@[simp] theorem setDie_cores (s : State) (d : Nat) (x : Die) : (s.setDie d x).cores = s.cores := rfl
@[simp] theorem setDie_setts (s : State) (d : Nat) (x : Die) : (s.setDie d x).setts = s.setts := rfl
@[simp] theorem setDie_units (s : State) (d : Nat) (x : Die) : (s.setDie d x).units = s.units := rfl
@[simp] theorem setDie_contexts (s : State) (d : Nat) (x : Die) : (s.setDie d x).contexts = s.contexts := rfl
@[simp] theorem setDie_dead (s : State) (d : Nat) (x : Die) : (s.setDie d x).dead = s.dead := rfl
@[simp] theorem setDie_launches (s : State) (d : Nat) (x : Die) : (s.setDie d x).launches = s.launches := rfl
@[simp] theorem setDie_nextLaunch (s : State) (d : Nat) (x : Die) : (s.setDie d x).nextLaunch = s.nextLaunch := rfl
@[simp] theorem setDie_objects (s : State) (d : Nat) (x : Die) : (s.setDie d x).objects = s.objects := rfl
@[simp] theorem setDie_cats (s : State) (d : Nat) (x : Die) : (s.setDie d x).cats = s.cats := rfl
@[simp] theorem setDie_flights (s : State) (d : Nat) (x : Die) : (s.setDie d x).flights = s.flights := rfl
@[simp] theorem setDie_contribs (s : State) (d : Nat) (x : Die) : (s.setDie d x).contribs = s.contribs := rfl
@[simp] theorem setDie_collFails (s : State) (d : Nat) (x : Die) : (s.setDie d x).collFails = s.collFails := rfl
@[simp] theorem setDie_softErrors (s : State) (d : Nat) (x : Die) : (s.setDie d x).softErrors = s.softErrors := rfl
@[simp] theorem setDie_pathErrors (s : State) (d : Nat) (x : Die) : (s.setDie d x).pathErrors = s.pathErrors := rfl
@[simp] theorem setDie_signals (s : State) (d : Nat) (x : Die) : (s.setDie d x).signals = s.signals := rfl
@[simp] theorem setDie_teardowns (s : State) (d : Nat) (x : Die) : (s.setDie d x).teardowns = s.teardowns := rfl
@[simp] theorem setDie_groups (s : State) (d : Nat) (x : Die) : (s.setDie d x).groups = s.groups := rfl
@[simp] theorem setDie_refillAt (s : State) (d : Nat) (x : Die) : (s.setDie d x).refillAt = s.refillAt := rfl
@[simp] theorem setDie_switches (s : State) (d : Nat) (x : Die) : (s.setDie d x).switches = s.switches := rfl
@[simp] theorem setDie_dens (s : State) (d : Nat) (x : Die) : (s.setDie d x).dens = s.dens := rfl
@[simp] theorem setDie_msix (s : State) (d : Nat) (x : Die) : (s.setDie d x).msix = s.msix := rfl
@[simp] theorem setDie_portsUp (s : State) (d : Nat) (x : Die) : (s.setDie d x).portsUp = s.portsUp := rfl
@[simp] theorem setDie_portsTrained (s : State) (d : Nat) (x : Die) : (s.setDie d x).portsTrained = s.portsTrained := rfl
@[simp] theorem setDie_linkUp (s : State) (d : Nat) (x : Die) : (s.setDie d x).linkUp = s.linkUp := rfl
@[simp] theorem setDie_plim (s : State) (d : Nat) (x : Die) : (s.setDie d x).plim = s.plim := rfl
@[simp] theorem setDie_form (s : State) (d : Nat) (x : Die) : (s.setDie d x).form = s.form := rfl
@[simp] theorem setDie_lostSetts (s : State) (d : Nat) (x : Die) : (s.setDie d x).lostSetts = s.lostSetts := rfl
@[simp] theorem setDie_lostBanks (s : State) (d : Nat) (x : Die) : (s.setDie d x).lostBanks = s.lostBanks := rfl
@[simp] theorem setDie_hostWrites (s : State) (d : Nat) (x : Die) : (s.setDie d x).hostWrites = s.hostWrites := rfl
@[simp] theorem setDie_hostVisible (s : State) (d : Nat) (x : Die) : (s.setDie d x).hostVisible = s.hostVisible := rfl
@[simp] theorem setDie_coldNext (s : State) (d : Nat) (x : Die) : (s.setDie d x).coldNext = s.coldNext := rfl
@[simp] theorem setDie_startKind (s : State) (d : Nat) (x : Die) : (s.setDie d x).startKind = s.startKind := rfl
@[simp] theorem setDie_archTest (s : State) (d : Nat) (x : Die) : (s.setDie d x).archTest = s.archTest := rfl
@[simp] theorem setDie_calibration (s : State) (d : Nat) (x : Die) : (s.setDie d x).calibration = s.calibration := rfl
@[simp] theorem setDie_mailbox (s : State) (d : Nat) (x : Die) : (s.setDie d x).mailbox = s.mailbox := rfl
@[simp] theorem setDie_reports (s : State) (d : Nat) (x : Die) : (s.setDie d x).reports = s.reports := rfl
@[simp] theorem setDie_cur (s : State) (d : Nat) (x : Die) : (s.setDie d x).cur = s.cur := rfl
@[simp] theorem setDie_agenda (s : State) (d : Nat) (x : Die) : (s.setDie d x).agenda = s.agenda := rfl
@[simp] theorem setDie_freeCount (s : State) (d : Nat) (x : Die) : (s.setDie d x).freeCount = s.freeCount := rfl
@[simp] theorem setDie_parkCount (s : State) (d : Nat) (x : Die) : (s.setDie d x).parkCount = s.parkCount := rfl
@[simp] theorem setDie_turns (s : State) (d : Nat) (x : Die) : (s.setDie d x).turns = s.turns := rfl
@[simp] theorem setDie_meth (s : State) (d : Nat) (x : Die) : (s.setDie d x).meth = s.meth := rfl

@[simp] theorem lapse_power (s : State) : (lapse s).power = s.power := rfl
@[simp] theorem lapse_slewPlus (s : State) : (lapse s).slewPlus = s.slewPlus := rfl
@[simp] theorem lapse_slewMinus (s : State) : (lapse s).slewMinus = s.slewMinus := rfl
@[simp] theorem lapse_lastSlew (s : State) : (lapse s).lastSlew = s.lastSlew := rfl
@[simp] theorem lapse_dies (s : State) : (lapse s).dies = s.dies := rfl
@[simp] theorem lapse_dram (s : State) : (lapse s).dram = s.dram := rfl
@[simp] theorem lapse_archive (s : State) : (lapse s).archive = s.archive := rfl
@[simp] theorem lapse_outside (s : State) : (lapse s).outside = s.outside := rfl
@[simp] theorem lapse_cores (s : State) : (lapse s).cores = s.cores := rfl
@[simp] theorem lapse_setts (s : State) : (lapse s).setts = s.setts := rfl
@[simp] theorem lapse_units (s : State) : (lapse s).units = s.units := rfl
@[simp] theorem lapse_contexts (s : State) : (lapse s).contexts = s.contexts := rfl
@[simp] theorem lapse_dead (s : State) : (lapse s).dead = s.dead := rfl
@[simp] theorem lapse_launches (s : State) : (lapse s).launches = s.launches := rfl
@[simp] theorem lapse_nextLaunch (s : State) : (lapse s).nextLaunch = s.nextLaunch := rfl
@[simp] theorem lapse_objects (s : State) : (lapse s).objects = s.objects := rfl
@[simp] theorem lapse_cats (s : State) : (lapse s).cats = s.cats := rfl
@[simp] theorem lapse_flights (s : State) : (lapse s).flights = s.flights := rfl
@[simp] theorem lapse_contribs (s : State) : (lapse s).contribs = s.contribs := rfl
@[simp] theorem lapse_collFails (s : State) : (lapse s).collFails = s.collFails := rfl
@[simp] theorem lapse_softErrors (s : State) : (lapse s).softErrors = s.softErrors := rfl
@[simp] theorem lapse_pathErrors (s : State) : (lapse s).pathErrors = s.pathErrors := rfl
@[simp] theorem lapse_signals (s : State) : (lapse s).signals = s.signals := rfl
@[simp] theorem lapse_teardowns (s : State) : (lapse s).teardowns = s.teardowns := rfl
@[simp] theorem lapse_groups (s : State) : (lapse s).groups = s.groups := rfl
@[simp] theorem lapse_refillAt (s : State) : (lapse s).refillAt = s.refillAt := rfl
@[simp] theorem lapse_switches (s : State) : (lapse s).switches = s.switches := rfl
@[simp] theorem lapse_dens (s : State) : (lapse s).dens = s.dens := rfl
@[simp] theorem lapse_msix (s : State) : (lapse s).msix = s.msix := rfl
@[simp] theorem lapse_portsUp (s : State) : (lapse s).portsUp = s.portsUp := rfl
@[simp] theorem lapse_portsTrained (s : State) : (lapse s).portsTrained = s.portsTrained := rfl
@[simp] theorem lapse_linkUp (s : State) : (lapse s).linkUp = s.linkUp := rfl
@[simp] theorem lapse_plim (s : State) : (lapse s).plim = s.plim := rfl
@[simp] theorem lapse_form (s : State) : (lapse s).form = s.form := rfl
@[simp] theorem lapse_lostSetts (s : State) : (lapse s).lostSetts = s.lostSetts := rfl
@[simp] theorem lapse_lostBanks (s : State) : (lapse s).lostBanks = s.lostBanks := rfl
@[simp] theorem lapse_hostWrites (s : State) : (lapse s).hostWrites = s.hostWrites := rfl
@[simp] theorem lapse_hostVisible (s : State) : (lapse s).hostVisible = s.hostVisible := rfl
@[simp] theorem lapse_coldNext (s : State) : (lapse s).coldNext = s.coldNext := rfl
@[simp] theorem lapse_startKind (s : State) : (lapse s).startKind = s.startKind := rfl
@[simp] theorem lapse_archTest (s : State) : (lapse s).archTest = s.archTest := rfl
@[simp] theorem lapse_calibration (s : State) : (lapse s).calibration = s.calibration := rfl
@[simp] theorem lapse_mailbox (s : State) : (lapse s).mailbox = s.mailbox := rfl
@[simp] theorem lapse_reports (s : State) : (lapse s).reports = s.reports := rfl
@[simp] theorem lapse_cur (s : State) : (lapse s).cur = s.cur := rfl
@[simp] theorem lapse_agenda (s : State) : (lapse s).agenda = s.agenda := rfl
@[simp] theorem lapse_parkCount (s : State) : (lapse s).parkCount = s.parkCount := rfl
@[simp] theorem lapse_turns (s : State) : (lapse s).turns = s.turns := rfl
@[simp] theorem lapse_meth (s : State) : (lapse s).meth = s.meth := rfl

@[simp] theorem setThread_power (s : State) (t : Tid) (x : Thread) : (s.setThread t x).power = s.power := by
  unfold State.setThread; split <;> rfl
@[simp] theorem setThread_now (s : State) (t : Tid) (x : Thread) : (s.setThread t x).now = s.now := by
  unfold State.setThread; split <;> rfl
@[simp] theorem setThread_slewPlus (s : State) (t : Tid) (x : Thread) : (s.setThread t x).slewPlus = s.slewPlus := by
  unfold State.setThread; split <;> rfl
@[simp] theorem setThread_slewMinus (s : State) (t : Tid) (x : Thread) : (s.setThread t x).slewMinus = s.slewMinus := by
  unfold State.setThread; split <;> rfl
@[simp] theorem setThread_lastSlew (s : State) (t : Tid) (x : Thread) : (s.setThread t x).lastSlew = s.lastSlew := by
  unfold State.setThread; split <;> rfl
@[simp] theorem setThread_dies (s : State) (t : Tid) (x : Thread) : (s.setThread t x).dies = s.dies := by
  unfold State.setThread; split <;> rfl
@[simp] theorem setThread_dram (s : State) (t : Tid) (x : Thread) : (s.setThread t x).dram = s.dram := by
  unfold State.setThread; split <;> rfl
@[simp] theorem setThread_archive (s : State) (t : Tid) (x : Thread) : (s.setThread t x).archive = s.archive := by
  unfold State.setThread; split <;> rfl
@[simp] theorem setThread_outside (s : State) (t : Tid) (x : Thread) : (s.setThread t x).outside = s.outside := by
  unfold State.setThread; split <;> rfl
@[simp] theorem setThread_setts (s : State) (t : Tid) (x : Thread) : (s.setThread t x).setts = s.setts := by
  unfold State.setThread; split <;> rfl
@[simp] theorem setThread_units (s : State) (t : Tid) (x : Thread) : (s.setThread t x).units = s.units := by
  unfold State.setThread; split <;> rfl
@[simp] theorem setThread_contexts (s : State) (t : Tid) (x : Thread) : (s.setThread t x).contexts = s.contexts := by
  unfold State.setThread; split <;> rfl
@[simp] theorem setThread_dead (s : State) (t : Tid) (x : Thread) : (s.setThread t x).dead = s.dead := by
  unfold State.setThread; split <;> rfl
@[simp] theorem setThread_launches (s : State) (t : Tid) (x : Thread) : (s.setThread t x).launches = s.launches := by
  unfold State.setThread; split <;> rfl
@[simp] theorem setThread_nextLaunch (s : State) (t : Tid) (x : Thread) : (s.setThread t x).nextLaunch = s.nextLaunch := by
  unfold State.setThread; split <;> rfl
@[simp] theorem setThread_objects (s : State) (t : Tid) (x : Thread) : (s.setThread t x).objects = s.objects := by
  unfold State.setThread; split <;> rfl
@[simp] theorem setThread_cats (s : State) (t : Tid) (x : Thread) : (s.setThread t x).cats = s.cats := by
  unfold State.setThread; split <;> rfl
@[simp] theorem setThread_flights (s : State) (t : Tid) (x : Thread) : (s.setThread t x).flights = s.flights := by
  unfold State.setThread; split <;> rfl
@[simp] theorem setThread_contribs (s : State) (t : Tid) (x : Thread) : (s.setThread t x).contribs = s.contribs := by
  unfold State.setThread; split <;> rfl
@[simp] theorem setThread_collFails (s : State) (t : Tid) (x : Thread) : (s.setThread t x).collFails = s.collFails := by
  unfold State.setThread; split <;> rfl
@[simp] theorem setThread_softErrors (s : State) (t : Tid) (x : Thread) : (s.setThread t x).softErrors = s.softErrors := by
  unfold State.setThread; split <;> rfl
@[simp] theorem setThread_pathErrors (s : State) (t : Tid) (x : Thread) : (s.setThread t x).pathErrors = s.pathErrors := by
  unfold State.setThread; split <;> rfl
@[simp] theorem setThread_signals (s : State) (t : Tid) (x : Thread) : (s.setThread t x).signals = s.signals := by
  unfold State.setThread; split <;> rfl
@[simp] theorem setThread_teardowns (s : State) (t : Tid) (x : Thread) : (s.setThread t x).teardowns = s.teardowns := by
  unfold State.setThread; split <;> rfl
@[simp] theorem setThread_groups (s : State) (t : Tid) (x : Thread) : (s.setThread t x).groups = s.groups := by
  unfold State.setThread; split <;> rfl
@[simp] theorem setThread_refillAt (s : State) (t : Tid) (x : Thread) : (s.setThread t x).refillAt = s.refillAt := by
  unfold State.setThread; split <;> rfl
@[simp] theorem setThread_switches (s : State) (t : Tid) (x : Thread) : (s.setThread t x).switches = s.switches := by
  unfold State.setThread; split <;> rfl
@[simp] theorem setThread_dens (s : State) (t : Tid) (x : Thread) : (s.setThread t x).dens = s.dens := by
  unfold State.setThread; split <;> rfl
@[simp] theorem setThread_msix (s : State) (t : Tid) (x : Thread) : (s.setThread t x).msix = s.msix := by
  unfold State.setThread; split <;> rfl
@[simp] theorem setThread_portsUp (s : State) (t : Tid) (x : Thread) : (s.setThread t x).portsUp = s.portsUp := by
  unfold State.setThread; split <;> rfl
@[simp] theorem setThread_portsTrained (s : State) (t : Tid) (x : Thread) : (s.setThread t x).portsTrained = s.portsTrained := by
  unfold State.setThread; split <;> rfl
@[simp] theorem setThread_linkUp (s : State) (t : Tid) (x : Thread) : (s.setThread t x).linkUp = s.linkUp := by
  unfold State.setThread; split <;> rfl
@[simp] theorem setThread_plim (s : State) (t : Tid) (x : Thread) : (s.setThread t x).plim = s.plim := by
  unfold State.setThread; split <;> rfl
@[simp] theorem setThread_form (s : State) (t : Tid) (x : Thread) : (s.setThread t x).form = s.form := by
  unfold State.setThread; split <;> rfl
@[simp] theorem setThread_lostSetts (s : State) (t : Tid) (x : Thread) : (s.setThread t x).lostSetts = s.lostSetts := by
  unfold State.setThread; split <;> rfl
@[simp] theorem setThread_lostBanks (s : State) (t : Tid) (x : Thread) : (s.setThread t x).lostBanks = s.lostBanks := by
  unfold State.setThread; split <;> rfl
@[simp] theorem setThread_hostWrites (s : State) (t : Tid) (x : Thread) : (s.setThread t x).hostWrites = s.hostWrites := by
  unfold State.setThread; split <;> rfl
@[simp] theorem setThread_hostVisible (s : State) (t : Tid) (x : Thread) : (s.setThread t x).hostVisible = s.hostVisible := by
  unfold State.setThread; split <;> rfl
@[simp] theorem setThread_coldNext (s : State) (t : Tid) (x : Thread) : (s.setThread t x).coldNext = s.coldNext := by
  unfold State.setThread; split <;> rfl
@[simp] theorem setThread_startKind (s : State) (t : Tid) (x : Thread) : (s.setThread t x).startKind = s.startKind := by
  unfold State.setThread; split <;> rfl
@[simp] theorem setThread_archTest (s : State) (t : Tid) (x : Thread) : (s.setThread t x).archTest = s.archTest := by
  unfold State.setThread; split <;> rfl
@[simp] theorem setThread_calibration (s : State) (t : Tid) (x : Thread) : (s.setThread t x).calibration = s.calibration := by
  unfold State.setThread; split <;> rfl
@[simp] theorem setThread_mailbox (s : State) (t : Tid) (x : Thread) : (s.setThread t x).mailbox = s.mailbox := by
  unfold State.setThread; split <;> rfl
@[simp] theorem setThread_reports (s : State) (t : Tid) (x : Thread) : (s.setThread t x).reports = s.reports := by
  unfold State.setThread; split <;> rfl
@[simp] theorem setThread_cur (s : State) (t : Tid) (x : Thread) : (s.setThread t x).cur = s.cur := by
  unfold State.setThread; split <;> rfl
@[simp] theorem setThread_agenda (s : State) (t : Tid) (x : Thread) : (s.setThread t x).agenda = s.agenda := by
  unfold State.setThread; split <;> rfl
@[simp] theorem setThread_freeCount (s : State) (t : Tid) (x : Thread) : (s.setThread t x).freeCount = s.freeCount := by
  unfold State.setThread; split <;> rfl
@[simp] theorem setThread_parkCount (s : State) (t : Tid) (x : Thread) : (s.setThread t x).parkCount = s.parkCount := by
  unfold State.setThread; split <;> rfl
@[simp] theorem setThread_turns (s : State) (t : Tid) (x : Thread) : (s.setThread t x).turns = s.turns := by
  unfold State.setThread; split <;> rfl

@[simp] theorem setCore_core (s : State) (c d : Nat) (x : VCore) : (s.setCore c x).core d = if d = c then x else s.core d :=
  KMap.getD_insert _ _ _ _ _

@[simp] theorem setSett_sett (s : State) (i j : Nat) (x : Sett) : (s.setSett i x).sett j = if j = i then x else s.sett j := by
  simp only [State.sett, State.setSett, KMap.getD_insert]

@[simp] theorem setCtx_ctx (s : State) (i j : Nat) (x : Context) : (s.setCtx i x).ctx j = if j = i then x else s.ctx j :=
  KMap.getD_insert _ _ _ _ _

@[simp] theorem setUnit_unit (s : State) (i j : Nat) (x : HoltUnit) : (s.setUnit i x).unit j = if j = i then x else s.unit j :=
  KMap.getD_insert _ _ _ _ _

@[simp] theorem lapse_core (s : State) (c : Nat) : (lapse s).core c = s.core c := rfl
@[simp] theorem lapse_sett (s : State) (c : Nat) : (lapse s).sett c = s.sett c := rfl
@[simp] theorem lapse_ctx (s : State) (c : Nat) : (lapse s).ctx c = s.ctx c := rfl
@[simp] theorem lapse_unit (s : State) (c : Nat) : (lapse s).unit c = s.unit c := rfl
@[simp] theorem lapse_thread (s : State) (t : Tid) : (lapse s).thread t = s.thread t := rfl

@[simp] theorem setSett_core (s : State) (i c : Nat) (x : Sett) : (s.setSett i x).core c = s.core c := rfl
@[simp] theorem setSett_thread (s : State) (i : Nat) (x : Sett) (t : Tid) : (s.setSett i x).thread t = s.thread t := rfl
@[simp] theorem setCtx_core (s : State) (i c : Nat) (x : Context) : (s.setCtx i x).core c = s.core c := rfl
@[simp] theorem setCtx_thread (s : State) (i : Nat) (x : Context) (t : Tid) : (s.setCtx i x).thread t = s.thread t := rfl
@[simp] theorem setUnit_core (s : State) (i c : Nat) (x : HoltUnit) : (s.setUnit i x).core c = s.core c := rfl
@[simp] theorem setUnit_thread (s : State) (i : Nat) (x : HoltUnit) (t : Tid) : (s.setUnit i x).thread t = s.thread t := rfl
@[simp] theorem setCore_sett (s : State) (c i : Nat) (x : VCore) : (s.setCore c x).sett i = s.sett i := rfl
@[simp] theorem setCore_ctx (s : State) (c i : Nat) (x : VCore) : (s.setCore c x).ctx i = s.ctx i := rfl
@[simp] theorem setThread_sett (s : State) (t : Tid) (x : Thread) (i : Nat) : (s.setThread t x).sett i = s.sett i := by
  unfold State.setThread; split <;> rfl
@[simp] theorem setThread_ctx (s : State) (t : Tid) (x : Thread) (i : Nat) : (s.setThread t x).ctx i = s.ctx i := by
  unfold State.setThread; split <;> rfl
@[simp] theorem setThread_unit (s : State) (t : Tid) (x : Thread) (i : Nat) : (s.setThread t x).unit i = s.unit i := by
  unfold State.setThread; split <;> rfl

/-- The current thread reads back what was put there. -/
theorem setThread_thread (s : State) (t : Tid) (x : Thread) (h : t.thr < 16) : (s.setThread t x).thread t = x := by
  cases hm : s.meth with
  | some m => simp [State.setThread, State.thread, hm]
  | none =>
    simp [State.setThread, State.thread, hm, VCore.thread, VCore.setThread, Vector.toList_setIfInBounds, List.getD_eq_getElem?_getD, h]

theorem setThread_thread_ne (s : State) {t u : Tid} (x : Thread) (hm : s.meth = none) (h : u ≠ t) : (s.setThread t x).thread u = s.thread u := by
  unfold State.setThread State.thread
  rw [hm]
  simp only [setCore_meth, hm, setCore_core]
  split
  · rename_i hc
    have : u.thr ≠ t.thr := by
      rintro h2; exact h (by cases u; cases t; simp_all)
    rw [← hc]
    simp [VCore.thread, VCore.setThread, Vector.toList_setIfInBounds, List.getD_eq_getElem?_getD, Ne.symm this]
  · rfl

theorem setThread_meth_isSome (s : State) (t : Tid) (x : Thread) : (s.setThread t x).meth.isSome = s.meth.isSome := by
  unfold State.setThread; split <;> simp [*]

theorem setThread_meth_none {s : State} (h : s.meth = none) (t : Tid) (x : Thread) : (s.setThread t x).meth = none := by
  unfold State.setThread; rw [h]; exact h

end Sys2Proof.Machine
end

