-- ==== Sys2Proof/Laws/Thread.lean ====
section
/-! SUPPORT. Laws of a thread's registers: what producing, retiring and committing a result do to the values with which the
registers end (R39, R40). -/

namespace Sys2Proof.Machine

open Sys2Proof

theorem finalPend_append (f : RegFile) (i : Nat) (ps qs : List PendWrite) (x : Vec) :
    finalPend f i (ps ++ qs) x = finalPend f i qs (finalPend f i ps x) := by
  induction ps generalizing x with
  | nil => rfl
  | cons p ps ih => exact ih _

/-- Two register values that agree on the low `n` bits still do after the same results. -/
theorem finalPend_low {n : Nat} (f : RegFile) (i : Nat) (ps : List PendWrite) {x y : Vec} (h : x.setWidth n = y.setWidth n) :
    (finalPend f i ps x).setWidth n = (finalPend f i ps y).setWidth n := by
  induction ps generalizing x y with
  | nil => exact h
  | cons p ps ih =>
    refine ih ?_
    split
    · simp only [PendWrite.over, BitVec.setWidth_or, BitVec.setWidth_and, h]
    · exact h

theorem retire_pend (t : Thread) (p : PendWrite) : (t.retire p).pend = t.pend := by
  unfold Thread.retire; split <;> rfl

theorem retire_dist (t : Thread) (p : PendWrite) : (t.retire p).dist = t.dist := by
  unfold Thread.retire; split <;> rfl

/-- The bits of a register after one result is written. -/
theorem retire_file_g (t : Thread) (p : PendWrite) (i : Nat) (h : i < 32) :
    ((t.retire p).file .g i).setWidth 64 = (if p.file = .g ∧ p.idx = i then p.over (t.file .g i) else t.file .g i).setWidth 64 := by
  unfold Thread.retire
  cases hf : p.file <;> simp [Thread.file, Vector.toList_setIfInBounds, List.getD_eq_getElem?_getD, List.getElem?_set]
  by_cases hi : p.idx = i
  · subst hi; simp [h]
  · simp [hi]

theorem retire_file_v (t : Thread) (p : PendWrite) (i : Nat) (h : i < 32) :
    (t.retire p).file .v i = if p.file = .v ∧ p.idx = i then p.over (t.file .v i) else t.file .v i := by
  unfold Thread.retire
  cases hf : p.file <;> simp [Thread.file, Vector.toList_setIfInBounds, List.getD_eq_getElem?_getD, List.getElem?_set]
  by_cases hi : p.idx = i
  · subst hi; simp [h]
  · simp [hi]

theorem retire_file_k (t : Thread) (p : PendWrite) (i : Nat) (h : i < 8) :
    ((t.retire p).file .k i).setWidth 16 = (if p.file = .k ∧ p.idx = i then p.over (t.file .k i) else t.file .k i).setWidth 16 := by
  unfold Thread.retire
  cases hf : p.file <;> simp [Thread.file, Vector.toList_setIfInBounds, List.getD_eq_getElem?_getD, List.getElem?_set]
  by_cases hi : p.idx = i
  · subst hi; simp [h]
  · simp [hi]

theorem commitList_final (f : RegFile) (n i : Nat) (hf : ∀ (t : Thread) (p : PendWrite),
      ((t.retire p).file f i).setWidth n = (if p.file = f ∧ p.idx = i then p.over (t.file f i) else t.file f i).setWidth n)
    (ps : List PendWrite) (t : Thread) :
    (finalPend f i (commitList ps t).pend ((commitList ps t).file f i)).setWidth n = (finalPend f i ps (t.file f i)).setWidth n := by
  induction ps generalizing t with
  | nil => cases f <;> rfl
  | cons p ps ih =>
    simp only [commitList]
    split
    · rw [ih, finalPend]; exact finalPend_low f i ps (hf t p)
    · cases f <;> rfl

@[simp] theorem commit_finalG (t : Thread) (i : Nat) (h : i < 32) : t.commit.finalG i = t.finalG i := by
  unfold Thread.finalG Thread.commit
  split
  · rfl
  · exact commitList_final .g 64 i (fun t p => retire_file_g t p i h) t.pend t

@[simp] theorem commit_finalV (t : Thread) (i : Nat) (h : i < 32) : t.commit.finalV i = t.finalV i := by
  have := commitList_final .v 512 i (fun t p => by rw [retire_file_v t p i h]) t.pend t
  simpa [Thread.finalV, Thread.commit] using this

@[simp] theorem commit_finalK (t : Thread) (i : Nat) (h : i < 8) : t.commit.finalK i = t.finalK i := by
  unfold Thread.finalK Thread.commit
  split
  · rfl
  · exact commitList_final .k 16 i (fun t p => retire_file_k t p i h) t.pend t

theorem commitList_rest (ps : List PendWrite) (t : Thread) : (commitList ps t).rest = t.rest := by
  induction ps generalizing t with
  | nil => rfl
  | cons p ps ih =>
    simp only [commitList]
    split
    · rw [ih]; unfold Thread.retire; split <;> rfl
    · rfl

theorem commitList_same (ps : List PendWrite) (t : Thread) :
    (commitList ps t).pc = t.pc ∧ (commitList ps t).fflags = t.fflags ∧ (commitList ps t).latchD = t.latchD ∧
      (commitList ps t).latchA = t.latchA ∧ (commitList ps t).latchB = t.latchB ∧ (commitList ps t).readyAt = t.readyAt ∧
      (commitList ps t).dist = t.dist ∧ (commitList ps t).chain = t.chain ∧ (commitList ps t).run = t.run := by
  induction ps generalizing t with
  | nil => simp [commitList]
  | cons p ps ih =>
    simp only [commitList]
    split
    · rw [(ih _).1, (ih _).2.1, (ih _).2.2.1, (ih _).2.2.2.1, (ih _).2.2.2.2.1, (ih _).2.2.2.2.2.1, (ih _).2.2.2.2.2.2.1,
        (ih _).2.2.2.2.2.2.2.1, (ih _).2.2.2.2.2.2.2.2]
      unfold Thread.retire; split <;> simp
    · simp

@[simp] theorem commit_rest (t : Thread) : t.commit.rest = t.rest := commitList_rest _ _
@[simp] theorem commit_pc (t : Thread) : t.commit.pc = t.pc := (commitList_same _ _).1
@[simp] theorem commit_fflags (t : Thread) : t.commit.fflags = t.fflags := (commitList_same _ _).2.1
@[simp] theorem commit_latchD (t : Thread) : t.commit.latchD = t.latchD := (commitList_same _ _).2.2.1
@[simp] theorem commit_latchA (t : Thread) : t.commit.latchA = t.latchA := (commitList_same _ _).2.2.2.1
@[simp] theorem commit_latchB (t : Thread) : t.commit.latchB = t.latchB := (commitList_same _ _).2.2.2.2.1
@[simp] theorem commit_readyAt (t : Thread) : t.commit.readyAt = t.readyAt := (commitList_same _ _).2.2.2.2.2.1
@[simp] theorem commit_dist (t : Thread) : t.commit.dist = t.dist := (commitList_same _ _).2.2.2.2.2.2.1
@[simp] theorem commit_chain (t : Thread) : t.commit.chain = t.chain := (commitList_same _ _).2.2.2.2.2.2.2.1
@[simp] theorem commit_run (t : Thread) : t.commit.run = t.run := (commitList_same _ _).2.2.2.2.2.2.2.2

@[simp] theorem advance_finalG (t : Thread) (pc : Word) (n c i : Nat) (h : i < 32) : (t.advance pc n c).finalG i = t.finalG i := by
  rw [Thread.advance, commit_finalG _ _ h]; rfl
@[simp] theorem advance_finalV (t : Thread) (pc : Word) (n c i : Nat) (h : i < 32) : (t.advance pc n c).finalV i = t.finalV i := by
  rw [Thread.advance, commit_finalV _ _ h]; rfl
@[simp] theorem advance_finalK (t : Thread) (pc : Word) (n c i : Nat) (h : i < 8) : (t.advance pc n c).finalK i = t.finalK i := by
  rw [Thread.advance, commit_finalK _ _ h]; rfl
@[simp] theorem advance_rest (t : Thread) (pc : Word) (n c : Nat) : (t.advance pc n c).rest = t.rest := by
  rw [Thread.advance, commit_rest]; rfl
@[simp] theorem advance_pc (t : Thread) (pc : Word) (n c : Nat) : (t.advance pc n c).pc = pc := by
  rw [Thread.advance, commit_pc]
@[simp] theorem advance_fflags (t : Thread) (pc : Word) (n c : Nat) : (t.advance pc n c).fflags = t.fflags := by
  rw [Thread.advance, commit_fflags]
@[simp] theorem advance_latchD (t : Thread) (pc : Word) (n c : Nat) : (t.advance pc n c).latchD = t.latchD := by
  rw [Thread.advance, commit_latchD]
@[simp] theorem advance_latchA (t : Thread) (pc : Word) (n c : Nat) : (t.advance pc n c).latchA = t.latchA := by
  rw [Thread.advance, commit_latchA]
@[simp] theorem advance_latchB (t : Thread) (pc : Word) (n c : Nat) : (t.advance pc n c).latchB = t.latchB := by
  rw [Thread.advance, commit_latchB]

/-! ## When results are written (R38) -/

theorem finalPend_timed (f : RegFile) (i d c : Nat) (ps : List PendWrite) (x : Vec) :
    finalPend f i (ps.map fun p => if p.written = 0 then { p with written := c + (p.due - d) } else p) x = finalPend f i ps x := by
  induction ps generalizing x with
  | nil => rfl
  | cons p ps ih =>
    simp only [List.map_cons, finalPend, ih]
    by_cases h : p.written = 0
    · simp only [h, if_true]; rfl
    · simp only [h, if_false]

@[simp] theorem timed_finalG (t : Thread) (c i : Nat) : (t.timed c).finalG i = t.finalG i := by
  unfold Thread.finalG Thread.timed; rw [finalPend_timed]; rfl
@[simp] theorem timed_finalV (t : Thread) (c i : Nat) : (t.timed c).finalV i = t.finalV i := by
  unfold Thread.finalV Thread.timed; rw [finalPend_timed]; rfl
@[simp] theorem timed_finalK (t : Thread) (c i : Nat) : (t.timed c).finalK i = t.finalK i := by
  unfold Thread.finalK Thread.timed; rw [finalPend_timed]; rfl
@[simp] theorem timed_rest (t : Thread) (c : Nat) : (t.timed c).rest = t.rest := rfl
@[simp] theorem timed_pc (t : Thread) (c : Nat) : (t.timed c).pc = t.pc := rfl
@[simp] theorem timed_fflags (t : Thread) (c : Nat) : (t.timed c).fflags = t.fflags := rfl
@[simp] theorem timed_latchD (t : Thread) (c : Nat) : (t.timed c).latchD = t.latchD := rfl
@[simp] theorem timed_latchA (t : Thread) (c : Nat) : (t.timed c).latchA = t.latchA := rfl
@[simp] theorem timed_latchB (t : Thread) (c : Nat) : (t.timed c).latchB = t.latchB := rfl
@[simp] theorem timed_chainStart (t : Thread) (c : Nat) : (t.timed c).chainStart = t.chainStart := rfl

/-- The thread past an instruction that issued in cycle `c`, with what it is still owed (R42). -/
def Thread.passed (t : Thread) (pc : Word) (n c : Nat) (o : List Owed) : Thread := { (t.timed c).advance pc n c with owed := o }

@[simp] theorem passed_finalG (t : Thread) (pc : Word) (n c i : Nat) (o : List Owed) (h : i < 32) :
    (t.passed pc n c o).finalG i = t.finalG i := (advance_finalG _ pc n c i h).trans (timed_finalG t c i)
@[simp] theorem passed_finalV (t : Thread) (pc : Word) (n c i : Nat) (o : List Owed) (h : i < 32) :
    (t.passed pc n c o).finalV i = t.finalV i := (advance_finalV _ pc n c i h).trans (timed_finalV t c i)
@[simp] theorem passed_finalK (t : Thread) (pc : Word) (n c i : Nat) (o : List Owed) (h : i < 8) :
    (t.passed pc n c o).finalK i = t.finalK i := (advance_finalK _ pc n c i h).trans (timed_finalK t c i)
@[simp] theorem passed_rest (t : Thread) (pc : Word) (n c : Nat) (o : List Owed) : (t.passed pc n c o).rest = t.rest :=
  (advance_rest _ pc n c).trans (timed_rest t c)
@[simp] theorem passed_pc (t : Thread) (pc : Word) (n c : Nat) (o : List Owed) : (t.passed pc n c o).pc = pc :=
  advance_pc _ pc n c
@[simp] theorem passed_fflags (t : Thread) (pc : Word) (n c : Nat) (o : List Owed) : (t.passed pc n c o).fflags = t.fflags :=
  (advance_fflags _ pc n c).trans (timed_fflags t c)
@[simp] theorem passed_latchD (t : Thread) (pc : Word) (n c : Nat) (o : List Owed) : (t.passed pc n c o).latchD = t.latchD :=
  (advance_latchD _ pc n c).trans (timed_latchD t c)
@[simp] theorem passed_latchA (t : Thread) (pc : Word) (n c : Nat) (o : List Owed) : (t.passed pc n c o).latchA = t.latchA :=
  (advance_latchA _ pc n c).trans (timed_latchA t c)
@[simp] theorem passed_latchB (t : Thread) (pc : Word) (n c : Nat) (o : List Owed) : (t.passed pc n c o).latchB = t.latchB :=
  (advance_latchB _ pc n c).trans (timed_latchB t c)

/-! ## Results -/

theorem over_low {n : Nat} (h512 : n ≤ 512) (x : BitVec n) (y : Vec) (p : PendWrite) (hm : p.mask = (BitVec.allOnes n).setWidth 512)
    (hv : p.val = x.setWidth 512) : (p.over y).setWidth n = x := by
  rw [PendWrite.over, hm, hv]
  apply BitVec.eq_of_getLsbD_eq
  intro i h
  have h' : i < 512 := by omega
  simp only [BitVec.getLsbD_setWidth, BitVec.getLsbD_or, BitVec.getLsbD_and, BitVec.getLsbD_not, BitVec.getLsbD_allOnes]
  simp [h, h']

theorem maskG_ones : maskG = (BitVec.allOnes 64).setWidth 512 := by decide +kernel
theorem maskK_ones : maskK = (BitVec.allOnes 16).setWidth 512 := by decide +kernel

theorem over_g (x : Word) (y : Vec) (p : PendWrite) (hm : p.mask = maskG) (hv : p.val = x.setWidth 512) :
    (p.over y).setWidth 64 = x := over_low (by omega) x y p (hm.trans maskG_ones) hv

theorem over_k (x : Pred) (y : Vec) (p : PendWrite) (hm : p.mask = maskK) (hv : p.val = x.setWidth 512) :
    (p.over y).setWidth 16 = x := over_low (by omega) x y p (hm.trans maskK_ones) hv

/-- A produced result and the values with which the registers end. -/
theorem produce_file (t : Thread) (f : RegFile) (d : Nat) (m x : Vec) (l : Nat) (u : Producer) (e : RegFile) (i : Nat) :
    (t.produce f d m x l u).file e i = t.file e i := by
  unfold Thread.produce; split
  · rfl
  · cases e <;> rfl

theorem produce_pend (t : Thread) (f : RegFile) (d : Nat) (m x : Vec) (l : Nat) (u : Producer) (h : d ≠ 0 ∨ f = .v) :
    (t.produce f d m x l u).pend = t.pend ++ [⟨f, d, m, x, t.dist + l, u, 0⟩] := by
  unfold Thread.produce
  rw [if_neg (by rintro ⟨rfl, h2⟩; rcases h with h | h <;> contradiction)]

theorem produce_zero (t : Thread) (f : RegFile) (m x : Vec) (l : Nat) (u : Producer) (h : f ≠ .v) : t.produce f 0 m x l u = t := by
  simp [Thread.produce, h]

theorem produce_finalG_self (t : Thread) (d : Nat) (x : Word) (l : Nat) (u : Producer) (h : d ≠ 0) :
    (t.produce .g d maskG (x.setWidth 512) l u).finalG d = x := by
  rw [Thread.finalG, if_neg h, produce_pend _ _ _ _ _ _ _ (.inl h), finalPend_append]
  simp only [finalPend, and_self, if_true]
  exact over_g x _ _ rfl rfl

theorem produce_final_ne (t : Thread) (f : RegFile) (d : Nat) (m x : Vec) (l : Nat) (u : Producer) (e : RegFile) (i : Nat)
    (h : f ≠ e ∨ d ≠ i) (y : Vec) :
    finalPend e i (t.produce f d m x l u).pend y = finalPend e i t.pend y := by
  by_cases hz : d = 0 ∧ f ≠ .v
  · simp [Thread.produce, hz]
  · rw [produce_pend _ _ _ _ _ _ _ (by by_cases hd : d = 0 <;> simp_all), finalPend_append]
    simp only [finalPend]
    rw [if_neg (by rintro ⟨rfl, rfl⟩; simp at h)]

theorem produce_finalG_ne (t : Thread) (f : RegFile) (d : Nat) (m x : Vec) (l : Nat) (u : Producer) (i : Nat) (h : f ≠ .g ∨ d ≠ i) :
    (t.produce f d m x l u).finalG i = t.finalG i := by
  unfold Thread.finalG; rw [produce_final_ne _ _ _ _ _ _ _ _ _ h, produce_file]

theorem produce_finalV_ne (t : Thread) (f : RegFile) (d : Nat) (m x : Vec) (l : Nat) (u : Producer) (i : Nat) (h : f ≠ .v ∨ d ≠ i) :
    (t.produce f d m x l u).finalV i = t.finalV i := by
  unfold Thread.finalV; rw [produce_final_ne _ _ _ _ _ _ _ _ _ h, produce_file]

theorem produce_finalK_ne (t : Thread) (f : RegFile) (d : Nat) (m x : Vec) (l : Nat) (u : Producer) (i : Nat) (h : f ≠ .k ∨ d ≠ i) :
    (t.produce f d m x l u).finalK i = t.finalK i := by
  unfold Thread.finalK; rw [produce_final_ne _ _ _ _ _ _ _ _ _ h, produce_file]

theorem produce_finalV_self (t : Thread) (d : Nat) (m x : Vec) (l : Nat) (u : Producer) :
    (t.produce .v d m x l u).finalV d = (t.finalV d &&& ~~~m) ||| (x &&& m) := by
  unfold Thread.finalV
  rw [produce_pend _ _ _ _ _ _ _ (.inr rfl), finalPend_append, produce_file]
  simp [finalPend, PendWrite.over]

theorem putK_finalK_self (t : Thread) (d : Nat) (x : Pred) (l : Nat) (u : Producer) (h : d ≠ 0) : (t.putK d x l u).finalK d = x := by
  rw [Thread.putK, Thread.finalK, if_neg h, produce_pend _ _ _ _ _ _ _ (.inl h), finalPend_append]
  simp only [finalPend, and_self, if_true]
  exact over_k x _ _ rfl rfl

@[simp] theorem finalG_zero (t : Thread) : t.finalG 0 = 0 := by simp [Thread.finalG]
@[simp] theorem finalK_zero (t : Thread) : t.finalK 0 = 0xFFFF := by simp [Thread.finalK]

theorem aluG_finalG (t : Thread) (d : Nat) (x : Word) : (t.aluG d x).finalG d = if d = 0 then 0 else x := by
  split
  · subst_vars; simp
  · exact produce_finalG_self _ _ _ _ _ ‹_›

theorem putG_finalG (t : Thread) (d : Nat) (x : Word) : (t.putG d x).finalG d = if d = 0 then 0 else x := by
  split
  · subst_vars; simp
  · exact produce_finalG_self _ _ _ _ _ ‹_›

theorem putK_finalK (t : Thread) (d : Nat) (x : Pred) (l : Nat) (u : Producer) : (t.putK d x l u).finalK d = if d = 0 then 0xFFFF else x := by
  split
  · subst_vars; simp
  · exact putK_finalK_self _ _ _ _ _ ‹_›

/-- A produced result leaves everything of the thread but the pending results. -/
theorem produce_same (t : Thread) (f : RegFile) (d : Nat) (m x : Vec) (l : Nat) (u : Producer) :
    ∃ ps, t.produce f d m x l u = { t with pend := ps } := by
  unfold Thread.produce; split
  · exact ⟨t.pend, rfl⟩
  · exact ⟨_, rfl⟩

@[simp] theorem produce_rest (t : Thread) (f : RegFile) (d : Nat) (m x : Vec) (l : Nat) (u : Producer) : (t.produce f d m x l u).rest = t.rest := by
  obtain ⟨ps, h⟩ := produce_same t f d m x l u; rw [h]; rfl
@[simp] theorem produce_pc (t : Thread) (f : RegFile) (d : Nat) (m x : Vec) (l : Nat) (u : Producer) : (t.produce f d m x l u).pc = t.pc := by
  obtain ⟨ps, h⟩ := produce_same t f d m x l u; rw [h]
@[simp] theorem produce_fflags (t : Thread) (f : RegFile) (d : Nat) (m x : Vec) (l : Nat) (u : Producer) : (t.produce f d m x l u).fflags = t.fflags := by
  obtain ⟨ps, h⟩ := produce_same t f d m x l u; rw [h]
@[simp] theorem produce_latchD (t : Thread) (f : RegFile) (d : Nat) (m x : Vec) (l : Nat) (u : Producer) : (t.produce f d m x l u).latchD = t.latchD := by
  obtain ⟨ps, h⟩ := produce_same t f d m x l u; rw [h]
@[simp] theorem produce_latchA (t : Thread) (f : RegFile) (d : Nat) (m x : Vec) (l : Nat) (u : Producer) : (t.produce f d m x l u).latchA = t.latchA := by
  obtain ⟨ps, h⟩ := produce_same t f d m x l u; rw [h]
@[simp] theorem produce_latchB (t : Thread) (f : RegFile) (d : Nat) (m x : Vec) (l : Nat) (u : Producer) : (t.produce f d m x l u).latchB = t.latchB := by
  obtain ⟨ps, h⟩ := produce_same t f d m x l u; rw [h]

/-! ## What a search or read kept (R282, R297) -/

theorem dropKept_same (t : Thread) : ∃ a b c d, dropKept t = { t with snap0 := a, snap1 := b, kept0 := c, kept1 := d } := by
  unfold dropKept; split
  · exact ⟨t.snap0, none, t.kept0, none, rfl⟩
  · exact ⟨none, t.snap1, none, t.kept1, rfl⟩

/-! ## Completing every pending result (R41) -/

theorem foldl_retire (f : RegFile) (n i : Nat) (hf : ∀ (t : Thread) (p : PendWrite),
      ((t.retire p).file f i).setWidth n = (if p.file = f ∧ p.idx = i then p.over (t.file f i) else t.file f i).setWidth n)
    (ps : List PendWrite) (t : Thread) :
    ((ps.foldl Thread.retire t).file f i).setWidth n = (finalPend f i ps (t.file f i)).setWidth n := by
  induction ps generalizing t with
  | nil => rfl
  | cons p ps ih =>
    rw [List.foldl_cons, ih, finalPend]
    exact finalPend_low f i ps (hf t p)

theorem complete_file (t : Thread) (f : RegFile) (i : Nat) : t.complete.file f i = (t.pend.foldl Thread.retire t).file f i := by
  cases f <;> rfl

@[simp] theorem complete_pend (t : Thread) : t.complete.pend = [] := rfl

@[simp] theorem complete_readG (t : Thread) (i : Nat) (h : i < 32) : t.complete.readG i = t.finalG i := by
  unfold Thread.readG Thread.finalG Thread.read
  split
  · rfl
  · rw [complete_pend, foldPend, complete_file]; exact foldl_retire .g 64 i (fun t p => retire_file_g t p i h) _ _

@[simp] theorem complete_readV (t : Thread) (i : Nat) (h : i < 32) : t.complete.readV i = t.finalV i := by
  unfold Thread.readV Thread.finalV Thread.read
  rw [complete_pend, foldPend, complete_file]
  have := foldl_retire .v 512 i (fun t p => by rw [retire_file_v t p i h]) t.pend t
  simpa using this

@[simp] theorem complete_readK (t : Thread) (i : Nat) (h : i < 8) : t.complete.readK i = t.finalK i := by
  unfold Thread.readK Thread.finalK Thread.read
  split
  · rfl
  · rw [complete_pend, foldPend, complete_file]; exact foldl_retire .k 16 i (fun t p => retire_file_k t p i h) _ _

theorem complete_rest (t : Thread) : t.complete.rest = t.rest := by
  have h : ∀ (ps : List PendWrite) (t : Thread), (ps.foldl Thread.retire t).rest = t.rest := by
    intro ps
    induction ps with
    | nil => intro t; rfl
    | cons p ps ih =>
      intro t
      rw [List.foldl_cons, ih]
      unfold Thread.retire
      split <;> rfl
  have : t.complete.rest = (t.pend.foldl Thread.retire t).rest := rfl
  rw [this, h]

end Sys2Proof.Machine
end

