-- ==== Sys2Proof/Laws/Issue.lean ====
section
/-! SUPPORT. What the frame of an instruction does, said once: where an instruction issues and its body answers, what the next
state is; and what completing it leaves unchanged. -/

namespace Sys2Proof

open Machine

/-! ## Time -/

theorem setDie_eq (s : State) (d : Nat) (x : Die) : ∃ ds, s.setDie d x = { s with dies := ds } := ⟨_, rfl⟩

theorem endRelock_eq (s : State) (d : Nat) : ∃ n ds, endRelock s d = { s with now := n, dies := ds } := by
  unfold endRelock
  dsimp only
  split
  · exact ⟨s.now, s.dies, rfl⟩
  · exact ⟨_, _, rfl⟩

theorem settleClock_eq (s : State) (d : Nat) : ∃ n ds, settleClock s d = { s with now := n, dies := ds } := by
  obtain ⟨n, ds, h⟩ := endRelock_eq s d
  obtain ⟨n', ds', h'⟩ := endRelock_eq (endRelock s d) d
  exact ⟨n', ds', by rw [settleClock, h', h]⟩

theorem advanceTo_eq (s : State) (d c : Nat) : ∃ n ds, advanceTo s d c = { s with now := n, dies := ds } := by
  obtain ⟨n, ds, h⟩ := settleClock_eq s d
  unfold advanceTo
  rw [h]
  dsimp only
  split
  · exact ⟨s.now, s.dies, rfl⟩
  · split
    · exact ⟨n, ds, rfl⟩
    · exact ⟨_, ds, rfl⟩

/-- Waiting for the cycle of issue changes nothing but time. -/
theorem atIssue_eq (s : State) : ∃ n ds, atIssue s = { s with now := n, dies := ds } := by
  unfold atIssue
  split
  · exact ⟨s.now, s.dies, rfl⟩
  · exact advanceTo_eq _ _ _

theorem advanceGts_eq (s : State) (g : Nat) : ∃ n, advanceGts s g = { s with now := n } := by
  unfold advanceGts; split
  · exact ⟨s.now, rfl⟩
  · exact ⟨_, rfl⟩

@[simp] theorem atIssue_cur (s : State) : (atIssue s).cur = s.cur := by obtain ⟨n, ds, h⟩ := atIssue_eq s; rw [h]
@[simp] theorem atIssue_meth (s : State) : (atIssue s).meth = s.meth := by obtain ⟨n, ds, h⟩ := atIssue_eq s; rw [h]
@[simp] theorem atIssue_thread (s : State) (t : Tid) : (atIssue s).thread t = s.thread t := by
  obtain ⟨n, ds, h⟩ := atIssue_eq s; rw [h]; rfl
@[simp] theorem atIssue_core (s : State) (c : Nat) : (atIssue s).core c = s.core c := by
  obtain ⟨n, ds, h⟩ := atIssue_eq s; rw [h]; rfl
@[simp] theorem atIssue_sett (s : State) (c : Nat) : (atIssue s).sett c = s.sett c := by
  obtain ⟨n, ds, h⟩ := atIssue_eq s; rw [h]; rfl
@[simp] theorem atIssue_ctx (s : State) (c : Nat) : (atIssue s).ctx c = s.ctx c := by
  obtain ⟨n, ds, h⟩ := atIssue_eq s; rw [h]; rfl
@[simp] theorem atIssue_unit (s : State) (c : Nat) : (atIssue s).unit c = s.unit c := by
  obtain ⟨n, ds, h⟩ := atIssue_eq s; rw [h]; rfl
@[simp] theorem atIssue_rest (s : State) : (atIssue s).rest = s.rest := by
  obtain ⟨n, ds, h⟩ := atIssue_eq s; rw [h]; rfl
@[simp] theorem atIssue_taskOf (s : State) (t : Tid) : taskOf (atIssue s) t = taskOf s t := by
  obtain ⟨n, ds, h⟩ := atIssue_eq s; rw [h]; rfl
@[simp] theorem atIssue_ctxOf (s : State) (t : Tid) : ctxOf (atIssue s) t = ctxOf s t := by
  obtain ⟨n, ds, h⟩ := atIssue_eq s; rw [h]; rfl

/-! ## What it is to change only the current thread -/

theorem OnlyThread.refl (t : Tid) (s : State) : OnlyThread t s s := ⟨rfl, fun _ => rfl, fun _ _ _ => rfl, rfl⟩

theorem OnlyThread.meth_none {t : Tid} {a b : State} (h : OnlyThread t a b) (m : a.meth = none) : b.meth = none := by
  have := h.inMethod; rw [m] at this; simpa using this

theorem OnlyThread.trans {t : Tid} {a b c : State} (h : OnlyThread t a b) (k : OnlyThread t b c) : OnlyThread t a c :=
  ⟨k.rest.trans h.rest, fun x => (k.cores x).trans (h.cores x),
    fun m u hu => (k.threads (h.meth_none m) u hu).trans (h.threads m u hu), k.inMethod.trans h.inMethod⟩

theorem OnlyThread.cur {t : Tid} {a b : State} (h : OnlyThread t a b) : b.cur = a.cur := by
  have := congrArg State.cur h.rest; exact this

theorem onlyThread_atIssue (t : Tid) (s : State) : OnlyThread t s (atIssue s) :=
  ⟨by simp, fun c => by simp, fun _ t _ => by simp, by simp⟩

theorem onlyThread_lapse (t : Tid) (s : State) : OnlyThread t s (lapse s) := ⟨rfl, fun _ => rfl, fun _ _ _ => rfl, rfl⟩

theorem setThread_rest (s : State) (t : Tid) (x : Thread) : (s.setThread t x).rest = s.rest := by
  unfold State.setThread; split <;> rfl

theorem onlyThread_setThread (s : State) (t : Tid) (x : Thread) : OnlyThread t s (s.setThread t x) := by
  refine ⟨setThread_rest _ _ _, fun c => ?_, fun m t ht => setThread_thread_ne s x m ht, ?_⟩
  · unfold State.setThread; split
    · rfl
    · simp only [setCore_core]; split
      · subst_vars; rfl
      · rfl
  · unfold State.setThread; split
    · simp_all
    · rename_i h; simp [h]

theorem noteIssue_thread (s : State) (t u : Tid) (c : Nat) : (noteIssue s t c).thread u = s.thread u := by
  unfold noteIssue
  split
  · rfl
  · rename_i hm
    simp only [State.thread, setCore_meth, hm, setCore_core]
    split
    · rename_i h; rw [h]; rfl
    · rfl

@[simp] theorem noteIssue_meth (s : State) (t : Tid) (c : Nat) : (noteIssue s t c).meth = s.meth := by
  unfold noteIssue; split <;> simp [*]

@[simp] theorem noteIssue_cur (s : State) (t : Tid) (c : Nat) : (noteIssue s t c).cur = s.cur := by
  unfold noteIssue; split <;> simp

@[simp] theorem noteIssue_agenda (s : State) (t : Tid) (c : Nat) : (noteIssue s t c).agenda = s.agenda := by
  unfold noteIssue; split <;> simp

theorem onlyThread_noteIssue (s : State) (t : Tid) (c : Nat) : OnlyThread t s (noteIssue s t c) := by
  refine ⟨?_, fun d => ?_, fun _ u _ => noteIssue_thread s t u c, by simp⟩
  · unfold noteIssue; split <;> rfl
  · unfold noteIssue; split
    · rfl
    · simp only [setCore_core]; split
      · rename_i h; rw [h]; rfl
      · rfl

/-! ## The frame of an instruction -/

@[simp] theorem passOn_cur (s : State) (t : Tid) : (passOn s t).cur = s.cur := by unfold passOn; dsimp only; split <;> rfl
@[simp] theorem passOn_meth (s : State) (t : Tid) : (passOn s t).meth = s.meth := by unfold passOn; dsimp only; split <;> rfl
@[simp] theorem passOn_thread (s : State) (t u : Tid) : (passOn s t).thread u = s.thread u := by unfold passOn; dsimp only; split <;> rfl
@[simp] theorem passOn_core (s : State) (t : Tid) (c : Nat) : (passOn s t).core c = s.core c := by unfold passOn; dsimp only; split <;> rfl

/-- What passing on versions changes: the Catalogues alone. -/
theorem passOn_rest (s : State) (t : Tid) : { passOn s t with cats := s.cats } = s := by unfold passOn; dsimp only; split <;> rfl

/-- The state in which an instruction runs, before what it starts is ordered after its acquires. -/
def reached (f : Form) (s : State) : State := if f.keeps then atIssue s else (atIssue s).setThread s.cur (dropKept s.me)

theorem begun_eq (f : Form) (s : State) : begun f s = if f.cls = .irrev then passOn (reached f s) s.cur else reached f s := by
  unfold begun reached; simp [State.me]

theorem begun_cur (f : Form) (s : State) : (begun f s).cur = s.cur := by
  rw [begun_eq]; unfold reached; split <;> split <;> simp

theorem reached_meth_isSome (f : Form) (s : State) : (reached f s).meth.isSome = s.meth.isSome := by
  unfold reached; split
  · simp
  · rw [setThread_meth_isSome, atIssue_meth]

theorem begun_meth_isSome (f : Form) (s : State) : (begun f s).meth.isSome = s.meth.isSome := by
  rw [begun_eq]; split <;> simp [reached_meth_isSome]

theorem begun_meth_none (f : Form) (s : State) : (begun f s).meth = none ↔ s.meth = none := by
  have := begun_meth_isSome f s
  cases h : s.meth <;> simp_all [Option.isSome_iff_ne_none]

/-- In the state in which an instruction runs, the thread is as before but for what it kept. -/
theorem begun_me {f : Form} {s : State} (h : s.cur.thr < 16) : (begun f s).me = if f.keeps then s.me else dropKept s.me := by
  have hr : (reached f s).thread s.cur = if f.keeps then s.me else dropKept s.me := by
    unfold reached; split
    · simp [State.me]
    · exact setThread_thread _ _ _ h
  rw [State.me, begun_cur, begun_eq]
  split
  · rw [passOn_thread, hr]
  · exact hr

theorem begun_thread_ne {f : Form} {s : State} {t : Tid} (hm : s.meth = none) (ht : t ≠ s.cur) : (begun f s).thread t = s.thread t := by
  have hr : (reached f s).thread t = s.thread t := by
    unfold reached; split
    · simp
    · rw [setThread_thread_ne _ _ (by simpa using hm) ht, atIssue_thread]
  rw [begun_eq]
  split
  · rw [passOn_thread, hr]
  · exact hr

theorem onlyThread_reached (f : Form) (s : State) : OnlyThread s.cur s (reached f s) := by
  unfold reached
  split
  · exact onlyThread_atIssue _ s
  · exact (onlyThread_atIssue _ s).trans (onlyThread_setThread _ _ _)

theorem onlyThread_begun {f : Form} (hc : f.cls ≠ .irrev) (s : State) : OnlyThread s.cur s (begun f s) := by
  rw [begun_eq, if_neg hc]; exact onlyThread_reached f s

/-- R407: where an instruction issues, its body runs in the state `begun`. -/
theorem issueBody_runs {op : Op} {f : Form} {s : State} (hf : op.Has f) (hi : Issues f s) (body : Body) :
    issueBody op (atIssue s) s.cur body = body (begun f s) s.cur := by
  have hth : (atIssue s).thread s.cur = s.me := by simp [State.me]
  unfold issueBody
  dsimp only
  rw [hth]
  have h1 : (!op.legal || !(op.role.admits s.cur.thr || (atIssue s).meth.isSome)) = false := by
    rw [hf.legal, hf.role, atIssue_meth]
    rcases hi.role with h | h <;> simp [h]
  simp only [h1, Bool.false_eq_true, if_false]
  have h2 : (if s.me.chk then firstShort s.me (op.allReads s.me) else none) = none := by
    split
    · have := hi.inTime ‹_›
      rw [Op.allReads, hf.guarded, hf.reads]; exact this
    · rfl
  rw [h2]
  dsimp only
  have h3 : (op.guarded && !(s.me.readK s.me.predIx).getLsbD 0) = false := by
    rw [hf.guarded]
    cases hg : f.guarded
    · rfl
    · rw [hi.guard hg]; rfl
  simp only [h3, Bool.false_eq_true, if_false]
  have hz : (if op.cls == .irrev then passOn (if op.keeps then atIssue s else (atIssue s).setThread s.cur (dropKept s.me)) s.cur
      else if op.keeps then atIssue s else (atIssue s).setThread s.cur (dropKept s.me)) = begun f s := by
    rw [begun_eq, hf.keeps, hf.cls]; unfold reached
    cases f.cls <;> rfl
  rw [hz]
  have hgo : (if op.home && s.me.homeOf.isSome then (.error .goHome : Except Stop (State × Next)) else body (begun f s) s.cur) =
      body (begun f s) s.cur := by
    rw [hf.home]
    cases hh : f.home
    · rfl
    · rw [hi.home hh]; rfl
  have htask : s.meth = none → taskOf (begun f s) s.cur = taskOf s s.cur := by
    intro hm
    have hme := begun_me (f := f) hi.context
    have ht : ((begun f s).thread s.cur).task = (s.thread s.cur).task := by
      have : ((begun f s).me).task = s.me.task := by
        rw [hme]; split
        · rfl
        · obtain ⟨a, b, c, d, h⟩ := dropKept_same s.me; rw [h]
      rwa [State.me, begun_cur] at this
    have ho := onlyThread_reached f s
    have hp : ∀ {α : Type} (x : State → α), (∀ z c, x { z with cats := c } = x z) → x (begun f s) = x (reached f s) := by
      intro α x h
      rw [begun_eq]; split
      · have := h (passOn (reached f s) s.cur) (reached f s).cats
        rw [passOn_rest] at this; exact this.symm
      · rfl
    have hu : (begun f s).units = s.units := (hp State.units fun _ _ => rfl).trans (by have := congrArg State.units ho.rest; exact this)
    have hl : (begun f s).launches = s.launches := (hp State.launches fun _ _ => rfl).trans (by have := congrArg State.launches ho.rest; exact this)
    have hs : (begun f s).setts = s.setts := (hp State.setts fun _ _ => rfl).trans (by have := congrArg State.setts ho.rest; exact this)
    have hx : (begun f s).contexts = s.contexts := (hp State.contexts fun _ _ => rfl).trans (by have := congrArg State.contexts ho.rest; exact this)
    have hcl : ((begun f s).core s.cur.core).launch = (s.core s.cur.core).launch :=
      (hp (fun z => (z.core s.cur.core).launch) fun _ _ => rfl).trans (by have := congrArg VCore.launch (ho.cores s.cur.core); exact this)
    have hcr : ((begun f s).core s.cur.core).resLaunch = (s.core s.cur.core).resLaunch :=
      (hp (fun z => (z.core s.cur.core).resLaunch) fun _ _ => rfl).trans (by have := congrArg VCore.resLaunch (ho.cores s.cur.core); exact this)
    have hctx : ctxOf (begun f s) s.cur = ctxOf s s.cur := by
      unfold ctxOf State.sett; dsimp only; rw [hcl, hcr, hl, hs]
    have hvc : ∀ x c, vcIn (begun f s) x c = vcIn s x c := by
      intro x c; unfold vcIn vcOf State.ctx State.sett; rw [hx, hs]
    have hhome : homeTid (begun f s) s.cur = homeTid s s.cur := by
      have h : ((begun f s).thread s.cur).homeOf = s.me.homeOf := by
        have : ((begun f s).me).homeOf = s.me.homeOf := by
          rw [hme]; split
          · rfl
          · obtain ⟨a, b, c, d, h⟩ := dropKept_same s.me; rw [h]
        rwa [State.me, begun_cur] at this
      unfold homeTid; rw [h]; rfl
    unfold taskOf unitOf State.unit
    rw [ht, hhome, hctx, hvc, hu]
  cases hm : s.meth with
  | some m =>
    have : (begun f s).meth.isSome = true := by rw [begun_meth_isSome, hm]; rfl
    obtain ⟨m', hm'⟩ := Option.isSome_iff_exists.mp this
    rw [hm', hf.cls]
    cases f.cls <;> cases taskOf (begun f s) s.cur <;> simpa using hgo
  | none =>
    rw [(begun_meth_none f s).mpr hm, htask hm, hf.cls]
    cases hy : taskOf s s.cur with
    | none => cases f.cls <;> exact hgo
    | some y =>
      have := hi.task hm y hy
      cases hc : f.cls
      · exact hgo
      · have hp := this.2 hc
        -- a protected task runs an irrevocable instruction as it is
        by_cases hh : (op.home && s.me.homeOf.isSome) = true
        · rw [hf.home] at hh
          have : f.home = true := by revert hh; cases f.home <;> simp
          rw [hi.home this] at hh; simp at hh
        · simp [hp]
      · exact absurd hc this.1

/-- An instruction whose owed sources have arrived is eligible (R42). -/
theorem eligible {op : Op} {f : Form} {s : State} (hf : op.Has f) (h : Arrived f s) : ineligible op (atIssue s) s.cur = none := by
  unfold ineligible
  rw [atIssue_meth, atIssue_thread]
  cases hm : s.meth with
  | some m => rfl
  | none =>
    dsimp only
    obtain ⟨hp, hl⟩ := h hm
    rw [if_neg (by simp [hp]), Op.allReads, hf.guarded, hf.reads, hf.awaits]
    split
    · exact hl
    · rfl

/-- What an instruction that issues and whose body answers does. -/
theorem issue_runs {op : Op} {f : Form} {s : State} {body : Body} {z : State} {n : Next} (hf : op.Has f) (hi : Issues f s)
    (hb : body (begun f s) s.cur = .ok (z, n)) : issue op s body = .next (lapse (finish op z s.cur n)) := by
  unfold issue
  dsimp only
  rw [eligible hf hi.arrived, issueBody_runs hf hi, hb]

end Sys2Proof
end

