-- ==== Sys2Proof/Laws/Register.lean ====
section
/-! SUPPORT. Instructions that change registers of the current thread only: from the shape of the meaning to what it writes and
what it leaves, said once for each shape. -/

namespace Sys2Proof

open Machine

/-- Completing an instruction in sequence (R38, R39): the thread is past it, and nothing but time and the issue slot changes. -/
theorem finish_seq (op : Op) (z : State) {t : Tid} (h : t.thr < 16) :
    ∃ c o, OnlyThread t z (lapse (finish op z t .seq)) ∧
      (lapse (finish op z t .seq)).thread t = (z.thread t).passed ((z.thread t).pc + 4) op.stall c o := by
  have key : ∃ o, finish op z t .seq = (noteIssue z t (issueCycle z t + op.conflict)).setThread t
      ((z.thread t).passed ((z.thread t).pc + 4) op.stall (issueCycle z t + op.conflict) o) := by
    unfold finish
    dsimp only
    rw [noteIssue_thread]
    split
    · exact ⟨((z.thread t).timed (issueCycle z t + op.conflict)).advance ((z.thread t).pc + 4) op.stall (issueCycle z t + op.conflict) |>.owed, rfl⟩
    · exact ⟨_, rfl⟩
  obtain ⟨o, ho⟩ := key
  refine ⟨issueCycle z t + op.conflict, o, ?_, ?_⟩
  · rw [ho]
    exact ((onlyThread_noteIssue z t (issueCycle z t + op.conflict)).trans (onlyThread_setThread _ _ _)).trans (onlyThread_lapse _ _)
  · rw [ho, lapse_thread, setThread_thread _ _ _ h]

/-- Completing a jump (R123). -/
theorem finish_jump (op : Op) (z : State) {t : Tid} (pc : Word) (h : t.thr < 16) :
    ∃ c r, OnlyThread t z (lapse (finish op z t (.jump pc))) ∧
      (lapse (finish op z t (.jump pc))).thread t = (((z.thread t).timed c).advance (pc &&& ~~~3#64) op.stall c).readyFrom r := by
  refine ⟨issueCycle z t + op.conflict, issueCycle z t + op.conflict + 1 + max op.stall 2, ?_, ?_⟩
  · exact ((onlyThread_noteIssue z t (issueCycle z t + op.conflict)).trans (onlyThread_setThread _ _ _)).trans (onlyThread_lapse _ _)
  · unfold finish
    dsimp only
    rw [lapse_thread, setThread_thread _ _ _ h, noteIssue_thread]

/-- A value of a thread that does not depend on what a search or read kept. -/
def Plainly {α : Type} (x : Thread → α) : Prop := ∀ t a b c d, x { t with snap0 := a, snap1 := b, kept0 := c, kept1 := d } = x t

theorem Plainly.begun {α : Type} {x : Thread → α} (hx : Plainly x) {f : Form} {s : State} (h : s.cur.thr < 16) :
    x (begun f s).me = x s.me := by
  rw [begun_me h]; split
  · rfl
  · obtain ⟨a, b, c, d, e⟩ := dropKept_same s.me; rw [e]; exact hx _ _ _ _ _

theorem plainly_rest : Plainly Thread.rest := fun _ _ _ _ _ => rfl
theorem plainly_pc : Plainly Thread.pc := fun _ _ _ _ _ => rfl
theorem plainly_fflags : Plainly Thread.fflags := fun _ _ _ _ _ => rfl
theorem plainly_finalG (i : Nat) : Plainly (·.finalG i) := fun _ _ _ _ _ => rfl
theorem plainly_finalV (i : Nat) : Plainly (·.finalV i) := fun _ _ _ _ _ => rfl
theorem plainly_finalK (i : Nat) : Plainly (·.finalK i) := fun _ _ _ _ _ => rfl
theorem plainly_readG (i : Nat) : Plainly (·.readG i) := fun _ _ _ _ _ => rfl
theorem plainly_readV (i : Nat) : Plainly (·.readV i) := fun _ _ _ _ _ => rfl
theorem plainly_readK (i : Nat) : Plainly (·.readK i) := fun _ _ _ _ _ => rfl

/-- A body that changes the current thread only: the next state. -/
theorem regBody_runs {op : Op} {f : Form} {s : State} (g : Thread → Thread) (hf : op.Has f) (hc : f.cls ≠ .irrev) (hi : Issues f s) :
    ∃ s' c o, issue op s (regBody g) = .next s' ∧ OnlyThread s.cur s s' ∧
      s'.thread s.cur = (g (begun f s).me).passed ((g (begun f s).me).pc + 4) op.stall c o := by
  have hb : regBody g (begun f s) s.cur = .ok ((begun f s).setThread s.cur (g (begun f s).me), .seq) := by
    unfold regBody State.me; rw [begun_cur]
  obtain ⟨c, o, h1, h2⟩ := finish_seq op ((begun f s).setThread s.cur (g (begun f s).me)) hi.context
  refine ⟨_, c, o, issue_runs hf hi hb, ((onlyThread_begun hc s).trans (onlyThread_setThread _ _ _)).trans h1, ?_⟩
  rw [h2, setThread_thread _ _ _ hi.context]

/-- The same for a meaning whose effect on the thread is known field by field. -/
theorem regsOnly_of {op : Op} {f : Form} {s : State} {g : Thread → Thread} {gs vs ks : List Nat} {fl : Bool} (hf : op.Has f)
    (hc : f.cls ≠ .irrev) (hi : Issues f s)
    (hg : ∀ t, ∀ i < 32, i ∉ gs → (g t).finalG i = t.finalG i) (hv : ∀ t, ∀ i < 32, i ∉ vs → (g t).finalV i = t.finalV i)
    (hk : ∀ t, ∀ i < 8, i ∉ ks → (g t).finalK i = t.finalK i) (hr : ∀ t, (g t).rest = t.rest) (hpc : ∀ t, (g t).pc = t.pc)
    (hfl : fl = false → ∀ t, (g t).fflags = t.fflags)
    (hl : ∀ t, (g t).latchD = t.latchD ∧ (g t).latchA = t.latchA ∧ (g t).latchB = t.latchB) :
    ∃ s' c o, issue op s (regBody g) = .next s' ∧ RegsOnly s.cur s s' gs vs ks fl (s.me.pc + 4) ∧
      s'.thread s.cur = (g (begun f s).me).passed ((g (begun f s).me).pc + 4) op.stall c o := by
  obtain ⟨s', c, o, h1, h2, h4⟩ := regBody_runs g hf hc hi
  refine ⟨s', c, o, h1, ⟨h2, ⟨fun i h hn => ?_, fun i h hn => ?_, fun i h hn => ?_, ?_⟩, ?_, fun h => ?_, ?_⟩, h4⟩
  · rw [h4, passed_finalG _ _ _ _ _ _ h, hg _ i h hn]; exact (plainly_finalG i).begun hi.context
  · rw [h4, passed_finalV _ _ _ _ _ _ h, hv _ i h hn]; exact (plainly_finalV i).begun hi.context
  · rw [h4, passed_finalK _ _ _ _ _ _ h, hk _ i h hn]; exact (plainly_finalK i).begun hi.context
  · rw [h4, passed_rest, hr]; exact plainly_rest.begun hi.context
  · unfold SameLatches
    rw [h4, passed_latchD, passed_latchA, passed_latchB, (hl _).1, (hl _).2.1, (hl _).2.2]
    have hd : Plainly Thread.latchD := fun _ _ _ _ _ => rfl
    have ha : Plainly Thread.latchA := fun _ _ _ _ _ => rfl
    have hb : Plainly Thread.latchB := fun _ _ _ _ _ => rfl
    exact ⟨hd.begun hi.context, ha.begun hi.context, hb.begun hi.context⟩
  · rw [h4, passed_fflags, hfl h]; exact plainly_fflags.begun hi.context
  · rw [h4, passed_pc, hpc]
    have : (begun f s).me.pc = s.me.pc := plainly_pc.begun hi.context
    rw [this]

/-- A meaning that produces one g result. -/
theorem writesG_of {i : Instr} {op : Op} {f : Form} {d lat : Nat} {u : Producer} {x : Thread → Word}
    (he : ∀ s, exec i s = issue op s (regBody fun t => t.produce .g d maskG ((x t).setWidth 512) lat u)) (hf : op.Has f)
    (hc : f.cls ≠ .irrev) (hx : Plainly x) (hd : d < 32) : WritesG i f d x := by
  intro s hi
  obtain ⟨s', c, o, h1, h2, h3⟩ := regsOnly_of (gs := [d]) (vs := []) (ks := []) (fl := false) hf hc hi
    (g := fun t => t.produce .g d maskG ((x t).setWidth 512) lat u)
    (fun t i _ hn => produce_finalG_ne _ _ _ _ _ _ _ _ (.inr (by simpa [eq_comm] using hn)))
    (fun t i _ _ => produce_finalV_ne _ _ _ _ _ _ _ _ (.inl (by simp)))
    (fun t i _ _ => produce_finalK_ne _ _ _ _ _ _ _ _ (.inl (by simp)))
    (fun t => produce_rest _ _ _ _ _ _ _) (fun t => produce_pc _ _ _ _ _ _ _) (fun _ t => produce_fflags _ _ _ _ _ _ _)
    (fun t => ⟨produce_latchD _ _ _ _ _ _ _, produce_latchA _ _ _ _ _ _ _, produce_latchB _ _ _ _ _ _ _⟩)
  refine ⟨s', (he s).trans h1, ?_, h2⟩
  rw [h3, passed_finalG _ _ _ _ _ _ hd]
  by_cases h0 : d = 0
  · subst h0; simp
  · rw [produce_finalG_self _ _ _ _ _ h0, if_neg h0]; exact hx.begun hi.context

/-- A meaning that produces one predicate. -/
theorem writesK_of {i : Instr} {op : Op} {f : Form} {d lat : Nat} {u : Producer} {x : Thread → Pred}
    (he : ∀ s, exec i s = issue op s (regBody fun t => t.putK d (x t) lat u)) (hf : op.Has f)
    (hc : f.cls ≠ .irrev) (hx : Plainly x) (hd : d < 8) : WritesK i f d x := by
  intro s hi
  obtain ⟨s', c, o, h1, h2, h3⟩ := regsOnly_of (gs := []) (vs := []) (ks := [d]) (fl := false) hf hc hi
    (g := fun t => t.putK d (x t) lat u)
    (fun t i _ _ => produce_finalG_ne _ _ _ _ _ _ _ _ (.inl (by simp)))
    (fun t i _ _ => produce_finalV_ne _ _ _ _ _ _ _ _ (.inl (by simp)))
    (fun t i _ hn => produce_finalK_ne _ _ _ _ _ _ _ _ (.inr (by simpa [eq_comm] using hn)))
    (fun t => produce_rest _ _ _ _ _ _ _) (fun t => produce_pc _ _ _ _ _ _ _) (fun _ t => produce_fflags _ _ _ _ _ _ _)
    (fun t => ⟨produce_latchD _ _ _ _ _ _ _, produce_latchA _ _ _ _ _ _ _, produce_latchB _ _ _ _ _ _ _⟩)
  refine ⟨s', (he s).trans h1, ?_, h2⟩
  rw [h3, passed_finalK _ _ _ _ _ _ hd, putK_finalK, hx.begun hi.context]

/-! ## Instructions whose effect is a state `z` -/

/-- Completing in sequence changes no register. -/
theorem finish_seq_regsOnly (op : Op) (z : State) {t : Tid} (h : t.thr < 16) :
    RegsOnly t z (lapse (finish op z t .seq)) [] [] [] false ((z.thread t).pc + 4) := by
  obtain ⟨c, o, h1, h2⟩ := finish_seq op z h
  refine ⟨h1, ⟨fun i hi _ => ?_, fun i hi _ => ?_, fun i hi _ => ?_, ?_⟩, ?_, fun _ => ?_, ?_⟩ <;> first | (unfold SameLatches; rw [h2]; simp) | (rw [h2]; simp [hi]) | (rw [h2]; simp)

theorem passes_of {i : Instr} {op : Op} {f : Form} {s z : State} {body : Body} (he : exec i s = issue op s body) (hf : op.Has f)
    (hi : Issues f s) (hb : body (begun f s) s.cur = .ok (z, .seq)) : Passes i s z :=
  ⟨_, he.trans (issue_runs hf hi hb), finish_seq_regsOnly op z hi.context⟩

theorem yields_of {i : Instr} {op : Op} {f : Form} {s z : State} {body : Body} {d : Nat} {x : Word} (he : exec i s = issue op s body)
    (hf : op.Has f) (hi : Issues f s) (hd : d < 32)
    (hb : body (begun f s) s.cur = .ok (z.setThread s.cur ((z.thread s.cur).putG d x), .seq)) : Yields i s z d x := by
  have h := finish_seq_regsOnly op (z.setThread s.cur ((z.thread s.cur).putG d x)) hi.context
  have ht : (z.setThread s.cur ((z.thread s.cur).putG d x)).thread s.cur = (z.thread s.cur).putG d x := setThread_thread _ _ _ hi.context
  refine ⟨_, he.trans (issue_runs hf hi hb), ?_, (onlyThread_setThread _ _ _).trans h.only, ?_, ?_, fun _ => ?_, ?_⟩
  · rw [h.keeps.g d hd (by simp), ht, putG_finalG]
  · refine ⟨fun j hj hn => ?_, fun j hj hn => ?_, fun j hj hn => ?_, ?_⟩
    · rw [h.keeps.g j hj (by simp), ht]; exact produce_finalG_ne _ _ _ _ _ _ _ _ (.inr (by simpa [eq_comm] using hn))
    · rw [h.keeps.v j hj (by simp), ht]; exact produce_finalV_ne _ _ _ _ _ _ _ _ (.inl (by simp))
    · rw [h.keeps.k j hj (by simp), ht]; exact produce_finalK_ne _ _ _ _ _ _ _ _ (.inl (by simp))
    · rw [h.keeps.rest, ht]; exact produce_rest _ _ _ _ _ _ _
  · have := h.latches
    simp only [SameLatches, ht] at this ⊢
    simpa [Thread.putG] using this
  · rw [h.flags rfl, ht]; exact produce_fflags _ _ _ _ _ _ _
  · rw [h.pc, ht]; simp [Thread.putG]

theorem settles_of {i : Instr} {op : Op} {f : Form} {s z : State} {body : Body} (he : exec i s = issue op s body) (hf : op.Has f)
    (hi : Issues f s) (hb : body (begun f s) s.cur = .ok (z, .placed)) : Settles i s z := by
  refine ⟨_, he.trans (issue_runs hf hi hb), ?_, ?_⟩
  · exact (onlyThread_noteIssue z s.cur _).trans (onlyThread_lapse _ _)
  · unfold finish; dsimp only; rw [lapse_thread, noteIssue_thread]

theorem sends_of {i : Instr} {op : Op} {f : Form} {s z : State} {body : Body} {sync : Bool} {d : Nat} (he : exec i s = issue op s body)
    (hf : op.Has f) (hi : Issues f s) (hb : body (begun f s) s.cur = .ok (z, .sent sync d)) : Sends i s z sync d := by
  refine ⟨_, he.trans (issue_runs hf hi hb), ?_, ?_⟩
  · unfold finish
    dsimp only
    have h1 := onlyThread_noteIssue z s.cur (issueCycle z s.cur + op.conflict)
    refine h1.trans (OnlyThread.trans ?_ (onlyThread_lapse _ _))
    exact ⟨by rw [← setThread_rest (noteIssue z s.cur (issueCycle z s.cur + op.conflict)) s.cur _]; rfl,
      fun c => (onlyThread_setThread _ _ _).cores c, fun m u hu => (onlyThread_setThread _ _ _).threads m u hu,
      (onlyThread_setThread _ _ _).inMethod⟩
  · have hp : (noteIssue z s.cur (issueCycle z s.cur + op.conflict)).parkCount = z.parkCount := by
      unfold noteIssue; split <;> rfl
    have ht : ∀ (y : State) (n : Nat), State.thread { y with parkCount := n } s.cur = y.thread s.cur := fun _ _ => rfl
    unfold finish
    dsimp only
    rw [lapse_thread, ht, setThread_thread _ _ _ hi.context, noteIssue_thread, hp]
    refine ⟨rfl, fun n hn => ?_, ?_⟩
    · exact (advance_finalG _ _ _ _ _ hn).trans (timed_finalG _ _ _)
    · simp

/-! ## Instructions that pass without effect, and reads that are not in time -/

theorem skips_of {i : Instr} {f : Form} (he : ∀ s, ∃ op body, exec i s = issue op s body ∧ op.Has f) (hg : f.guarded = true) : Skips i f := by
  intro s ha ht hk
  obtain ⟨op, body, he, hf⟩ := he s
  have hb : issueBody op (atIssue s) s.cur body = .ok (reached { f with keeps := false } s, .seq) := by
    unfold issueBody
    dsimp only
    rw [atIssue_thread]
    have h1 : (!op.legal || !(op.role.admits s.cur.thr || (atIssue s).meth.isSome)) = false := by
      rw [hf.legal, hf.role, atIssue_meth]
      rcases ha.2.1 with h | h <;> simp [h]
    have h2 : (if (s.thread s.cur).chk then firstShort (s.thread s.cur) (op.allReads (s.thread s.cur)) else none) = none := by
      split
      · have := ht ‹_›
        unfold Op.allReads; rw [hf.guarded, hf.reads]; exact this
      · rfl
    simp only [h1, Bool.false_eq_true, if_false]
    rw [h2]
    dsimp only
    have h3 : (op.guarded && !((s.thread s.cur).readK (s.thread s.cur).predIx).getLsbD 0) = true := by
      rw [hf.guarded, hg]
      have : ((s.thread s.cur).readK (s.thread s.cur).predIx).getLsbD 0 = false := hk
      rw [this]; rfl
    rw [if_pos h3]
    rfl
  have h := finish_seq_regsOnly op (reached { f with keeps := false } s) ha.1
  have hme : (reached { f with keeps := false } s).thread s.cur = dropKept s.me := setThread_thread _ _ _ ha.1
  have hk : ∀ {α : Type} {x : Thread → α}, Plainly x → x (dropKept s.me) = x s.me := by
    intro α x hx; obtain ⟨a, b, c, d, e⟩ := dropKept_same s.me; rw [e]; exact hx _ _ _ _ _
  refine ⟨lapse (finish op (reached { f with keeps := false } s) s.cur .seq), ?_, (onlyThread_reached { f with keeps := false } s).trans h.only, ⟨fun j hj hn => ?_, fun j hj hn => ?_, fun j hj hn => ?_, ?_⟩, ?_, fun _ => ?_, ?_⟩
  · rw [he]; unfold issue; dsimp only; rw [eligible hf ha.2.2, hb]
  · rw [h.keeps.g j hj hn, hme]; exact hk (plainly_finalG j)
  · rw [h.keeps.v j hj hn, hme]; exact hk (plainly_finalV j)
  · rw [h.keeps.k j hj hn, hme]; exact hk (plainly_finalK j)
  · rw [h.keeps.rest, hme]; exact hk plainly_rest
  · have hl := h.latches
    unfold SameLatches at hl ⊢
    have hd : Plainly Thread.latchD := fun _ _ _ _ _ => rfl
    have hA : Plainly Thread.latchA := fun _ _ _ _ _ => rfl
    have hB : Plainly Thread.latchB := fun _ _ _ _ _ => rfl
    rw [hl.1, hl.2.1, hl.2.2, hme]
    exact ⟨hk hd, hk hA, hk hB⟩
  · rw [h.flags rfl, hme]; exact hk plainly_fflags
  · rw [h.pc, hme, hk plainly_pc]

theorem raises_short {i : Instr} {f : Form} {s : State} {e : Word} {op : Op} {body : Body} (he : exec i s = issue op s body) (hf : op.Has f)
    (hn : op.conflict = 0) (ha : Admits f s) (hc : s.me.chk = true) (hs : firstShort s.me (f.allReads s.me) = some e) : Raises i s cSTALL_SHORT e := by
  have hb : issueBody op (atIssue s) s.cur body = .error (.trap cSTALL_SHORT e) := by
    unfold issueBody
    dsimp only
    rw [atIssue_thread]
    have h1 : (!op.legal || !(op.role.admits s.cur.thr || (atIssue s).meth.isSome)) = false := by
      rw [hf.legal, hf.role, atIssue_meth]
      rcases ha.2.1 with h | h <;> simp [h]
    have h2 : (if (s.thread s.cur).chk then firstShort (s.thread s.cur) (op.allReads (s.thread s.cur)) else none) = some e := by
      have hc' : (s.thread s.cur).chk = true := hc
      rw [if_pos hc']
      unfold Op.allReads; rw [hf.guarded, hf.reads]; exact hs
    simp only [h1, Bool.false_eq_true, if_false]
    rw [h2]
  unfold Raises
  rw [he]; unfold issue; dsimp only; rw [eligible hf ha.2.2, hb, hn]; rfl

/-- An instruction whose source an interlocked producer owes waits (R42). -/
theorem waits_of {i : Instr} {op : Op} {f : Form} {body : Body} {s : State} (he : exec i s = issue op s body) (hf : op.Has f) :
    WaitsFor i f s := by
  intro due _ hm hr hp hl
  have : ineligible op (atIssue s) s.cur = some due := by
    unfold ineligible
    rw [atIssue_meth, hm]
    dsimp only
    rw [if_neg (by simp [hp]), hf.legal, hf.role, hr, atIssue_thread, Op.allReads, hf.guarded, hf.reads, hf.awaits]
    exact hl
  rw [he]; unfold issue; dsimp only; rw [this]
  unfold stopped; dsimp only
  rw [atIssue_thread]; rfl

theorem checks_of {i : Instr} {f : Form} (he : ∀ s, ∃ op body, exec i s = issue op s body ∧ op.Has f ∧ op.conflict = 0) : Checks i f := by
  intro s e ha hc hs
  obtain ⟨op, body, he, hf, hn⟩ := he s
  exact raises_short he hf hn ha hc hs

end Sys2Proof
end

