-- ==== Sys2Proof/Laws/Memory.lean ====
section
/-! SUPPORT. Reading and writing bytes by their place: a read after a write, and that every write keeps the canonical form of every
memory. -/

namespace Sys2Proof

open Machine

theorem core_setCore (s : State) (c d : Nat) (x : VCore) : (s.setCore c x).core d = if d = c then x else s.core d :=
  KMap.getD_insert _ _ _ _ _

theorem sett_setSett (s : State) (i j : Nat) (x : Sett) : (s.setSett i x).sett j = if j = i then x else s.sett j :=
  KMap.getD_insert _ _ _ _ _

/-- A place below this is a byte of a scratchpad, a sett, the Archive, DRAM or memory outside the package. -/
def ordinary : Nat := 5 * 2 ^ 64

theorem place_cases {k : Nat} (h : k < ordinary) :
    k / 2 ^ 64 = 0 ∨ k / 2 ^ 64 = 1 ∨ k / 2 ^ 64 = 2 ∨ k / 2 ^ 64 = 3 ∨ k / 2 ^ 64 = 4 := by
  unfold ordinary at h; omega

/-- R74: a write changes the one byte of its place. -/
theorem readPlace_writePlace {s : State} (w : MemoryWf s) {k q : Nat} (hk : k < ordinary) (hq : q < ordinary) (b : Byte) :
    readPlace (writePlace s k b) q = if q = k then b else readPlace s q := by
  unfold readPlace writePlace
  rcases place_cases hk with h | h | h | h | h <;> rcases place_cases hq with g | g | g | g | g <;> simp only [h, g]
  -- places of different memories: neither sees the other
  all_goals first
    | (rw [if_neg (show q ≠ k by rintro rfl; omega)]; done)
    | (rw [if_neg (show q ≠ k by rintro rfl; omega)]; rfl)
    | skip
  · rw [core_setCore]
    by_cases hc : q % 2 ^ 64 / 2 ^ 18 = k % 2 ^ 64 / 2 ^ 18
    · rw [if_pos hc]
      dsimp only
      rw [Memory.get_put (w.spads _)]
      by_cases ho : q % 2 ^ 64 % 2 ^ 18 = k % 2 ^ 64 % 2 ^ 18
      · rw [if_pos ho, if_pos (by omega)]
      · rw [if_neg ho, if_neg (by rintro rfl; exact ho rfl), hc]
    · rw [if_neg hc, if_neg (by rintro rfl; exact hc rfl)]
  · rw [sett_setSett]
    by_cases hc : q % 2 ^ 64 / 2 ^ 21 = k % 2 ^ 64 / 2 ^ 21
    · rw [if_pos hc]
      dsimp only
      rw [Memory.get_put (w.setts _)]
      by_cases ho : q % 2 ^ 64 % 2 ^ 21 = k % 2 ^ 64 % 2 ^ 21
      · rw [if_pos ho, if_pos (by omega)]
      · rw [if_neg ho, if_neg (by rintro rfl; exact ho rfl), hc]
    · rw [if_neg hc, if_neg (by rintro rfl; exact hc rfl)]
  · rw [Memory.get_put w.archive]
    by_cases ho : q % 2 ^ 64 = k % 2 ^ 64
    · rw [if_pos ho, if_pos (by omega)]
    · rw [if_neg ho, if_neg (by rintro rfl; exact ho rfl)]
  · rw [Memory.get_put w.dram]
    by_cases ho : q % 2 ^ 64 = k % 2 ^ 64
    · rw [if_pos ho, if_pos (by omega)]
    · rw [if_neg ho, if_neg (by rintro rfl; exact ho rfl)]
  · rw [Memory.get_put w.outside]
    by_cases ho : q % 2 ^ 64 = k % 2 ^ 64
    · rw [if_pos ho, if_pos (by omega)]
    · rw [if_neg ho, if_neg (by rintro rfl; exact ho rfl)]

/-- A write keeps the canonical form of every memory. -/
theorem writePlace_wf {s : State} (w : MemoryWf s) (k : Nat) (b : Byte) : MemoryWf (writePlace s k b) := by
  unfold writePlace
  dsimp only
  split
  · refine ⟨w.dram, w.archive, w.outside, fun c => ?_, w.setts⟩
    rw [core_setCore]; split
    · exact Memory.put_wf (w.spads _) _ _
    · exact w.spads c
  · refine ⟨w.dram, w.archive, w.outside, w.spads, fun i => ?_⟩
    rw [sett_setSett]; split
    · exact Memory.put_wf (w.setts _) _ _
    · exact w.setts i
  · exact ⟨w.dram, Memory.put_wf w.archive _ _, w.outside, w.spads, w.setts⟩
  · exact ⟨Memory.put_wf w.dram _ _, w.archive, w.outside, w.spads, w.setts⟩
  · exact ⟨w.dram, w.archive, Memory.put_wf w.outside _ _, w.spads, w.setts⟩
  · split
    · exact ⟨w.dram, w.archive, w.outside, w.spads, w.setts⟩
    · exact w

theorem writePlaces_wf {s : State} (w : MemoryWf s) (ks : List Nat) (bs : List Byte) : MemoryWf (writePlaces s ks bs) := by
  induction ks generalizing s bs with
  | nil => exact w
  | cons k ks ih =>
    cases bs with
    | nil => exact w
    | cons b bs => exact ih (writePlace_wf w k b) bs

/-- Every byte but those written reads as before. -/
theorem readPlace_writePlaces_ne {s : State} (w : MemoryWf s) {ks : List Nat} {q : Nat} (bs : List Byte) (hk : ∀ k ∈ ks, k < ordinary)
    (hq : q < ordinary) (h : q ∉ ks) : readPlace (writePlaces s ks bs) q = readPlace s q := by
  induction ks generalizing s bs with
  | nil => rfl
  | cons k ks ih =>
    cases bs with
    | nil => rfl
    | cons b bs =>
      simp only [List.mem_cons, not_or] at h
      rw [writePlaces, ih (writePlace_wf w k b) bs (fun x hx => hk x (by simp [hx])) h.2,
        readPlace_writePlace w (hk k (by simp)) hq, if_neg h.1]

/-- The bytes written are read back. -/
theorem readPlaces_writePlaces {s : State} (w : MemoryWf s) {ks : List Nat} {bs : List Byte} (hk : ∀ k ∈ ks, k < ordinary)
    (hn : ks.Nodup) (hl : bs.length = ks.length) : readPlaces (writePlaces s ks bs) ks = bs := by
  induction ks generalizing s bs with
  | nil => cases bs with
    | nil => rfl
    | cons b bs => simp at hl
  | cons k ks ih =>
    cases bs with
    | nil => simp at hl
    | cons b bs =>
      have hn' := List.nodup_cons.mp hn
      have hks : ∀ x ∈ ks, x < ordinary := fun x hx => hk x (by simp [hx])
      have h1 := ih (writePlace_wf w k b) hks hn'.2 (by simpa using hl)
      rw [writePlaces]
      show readPlace _ k :: readPlaces _ ks = _
      rw [h1, readPlace_writePlaces_ne (writePlace_wf w k b) bs hks (hk k (by simp)) hn'.1,
        readPlace_writePlace w (hk k (by simp)) (hk k (by simp)), if_pos rfl]

/-- A change of one thread, and time, leave every byte of memory. -/
theorem OnlyThread.readPlace {t : Tid} {s s' : State} (h : OnlyThread t s s') {q : Nat} (hq : q < ordinary) : readPlace s' q = readPlace s q := by
  have hd : s'.dram = s.dram := by have := congrArg State.dram h.rest; exact this
  have ha : s'.archive = s.archive := by have := congrArg State.archive h.rest; exact this
  have ho : s'.outside = s.outside := by have := congrArg State.outside h.rest; exact this
  have hs : s'.setts = s.setts := by have := congrArg State.setts h.rest; exact this
  have hc : ∀ c, (s'.core c).spad = (s.core c).spad := fun c => by have := congrArg VCore.spad (h.cores c); exact this
  unfold Machine.readPlace State.sett
  rcases place_cases hq with g | g | g | g | g <;> simp only [g]
  · rw [hc]
  · rw [hs]
  · rw [ha]
  · rw [hd]
  · rw [ho]

theorem OnlyThread.memoryWf {t : Tid} {s s' : State} (h : OnlyThread t s s') (w : MemoryWf s) : MemoryWf s' := by
  have hd : s'.dram = s.dram := by have := congrArg State.dram h.rest; exact this
  have ha : s'.archive = s.archive := by have := congrArg State.archive h.rest; exact this
  have ho : s'.outside = s.outside := by have := congrArg State.outside h.rest; exact this
  have hs : s'.setts = s.setts := by have := congrArg State.setts h.rest; exact this
  have hc : ∀ c, (s'.core c).spad = (s.core c).spad := fun c => by have := congrArg VCore.spad (h.cores c); exact this
  refine ⟨hd ▸ w.dram, ha ▸ w.archive, ho ▸ w.outside, fun c => (hc c).symm ▸ w.spads c, fun i => ?_⟩
  unfold State.sett; rw [hs]; exact w.setts i

/-! ## The order of a TLB's entries (R326) -/

/-- The use of translations changes the order of one sett's entries at most. -/
theorem useEntries_cases (s : State) (i x a n : Nat) : useEntries s i x a n = s ∨
    ∃ r p, useEntries s i x a n = s.setSett i { s.sett i with rangeTlb := r, pageTlb := p } := by
  unfold useEntries
  dsimp only
  split
  · exact .inl rfl
  · exact .inr ⟨_, _, rfl⟩

theorem useVia_cases (s : State) (t : Tid) (w : Via) (n : Nat) : useVia s t w n = s ∨
    ∃ i r p, useVia s t w n = s.setSett i { s.sett i with rangeTlb := r, pageTlb := p } := by
  unfold useVia
  split
  · rcases useEntries_cases s (settOf t.core) (ctxOf s t) _ n with h | ⟨r, p, h⟩
    · exact .inl h
    · exact .inr ⟨_, r, p, h⟩
  · exact .inl rfl

theorem useAt_cases (s : State) (v : View) (addr : Word) (n : Nat) : useAt s v addr n = s ∨
    ∃ i r p, useAt s v addr n = s.setSett i { s.sett i with rangeTlb := r, pageTlb := p } := by
  unfold useAt
  split
  · rcases useEntries_cases s (settOf v.core) v.ctx _ n with h | ⟨r, p, h⟩
    · exact .inl h
    · exact .inr ⟨_, r, p, h⟩
  · exact .inl rfl

/-- A change of a sett's TLBs leaves every byte. -/
theorem readPlace_setTlb (s : State) (i : Nat) (r p : List TlbEntry) (q : Nat) :
    readPlace (s.setSett i { s.sett i with rangeTlb := r, pageTlb := p }) q = readPlace s q := by
  unfold readPlace
  have h : ∀ j, ((s.setSett i { s.sett i with rangeTlb := r, pageTlb := p }).sett j).mem = (s.sett j).mem := by
    intro j; rw [sett_setSett]; split
    · rename_i h; rw [h]
    · rfl
  simp only [h]
  rfl

theorem memoryWf_setTlb {s : State} (w : MemoryWf s) (i : Nat) (r p : List TlbEntry) :
    MemoryWf (s.setSett i { s.sett i with rangeTlb := r, pageTlb := p }) := by
  refine ⟨w.dram, w.archive, w.outside, w.spads, fun j => ?_⟩
  rw [sett_setSett]; split
  · exact w.setts i
  · exact w.setts j

theorem readPlace_useVia (s : State) (t : Tid) (w : Via) (n q : Nat) : readPlace (useVia s t w n) q = readPlace s q := by
  rcases useVia_cases s t w n with h | ⟨i, r, p, h⟩ <;> rw [h]
  exact readPlace_setTlb s i r p q

theorem memoryWf_useVia {s : State} (h : MemoryWf s) (t : Tid) (w : Via) (n : Nat) : MemoryWf (useVia s t w n) := by
  rcases useVia_cases s t w n with e | ⟨i, r, p, e⟩ <;> rw [e]
  · exact h
  · exact memoryWf_setTlb h i r p

@[simp] theorem useVia_thread (s : State) (t u : Tid) (w : Via) (n : Nat) : (useVia s t w n).thread u = s.thread u := by
  rcases useVia_cases s t w n with h | ⟨i, r, p, h⟩ <;> rw [h]; rfl

@[simp] theorem useVia_core (s : State) (t : Tid) (w : Via) (n c : Nat) : (useVia s t w n).core c = s.core c := by
  rcases useVia_cases s t w n with h | ⟨i, r, p, h⟩ <;> rw [h]; rfl

@[simp] theorem useVia_meth (s : State) (t : Tid) (w : Via) (n : Nat) : (useVia s t w n).meth = s.meth := by
  rcases useVia_cases s t w n with h | ⟨i, r, p, h⟩ <;> rw [h]; rfl

@[simp] theorem useAt_thread (s : State) (v : View) (addr : Word) (n : Nat) (u : Tid) : (useAt s v addr n).thread u = s.thread u := by
  rcases useAt_cases s v addr n with h | ⟨i, r, p, h⟩ <;> rw [h]; rfl

@[simp] theorem useAt_core (s : State) (v : View) (addr : Word) (n c : Nat) : (useAt s v addr n).core c = s.core c := by
  rcases useAt_cases s v addr n with h | ⟨i, r, p, h⟩ <;> rw [h]; rfl

@[simp] theorem useAt_meth (s : State) (v : View) (addr : Word) (n : Nat) : (useAt s v addr n).meth = s.meth := by
  rcases useAt_cases s v addr n with h | ⟨i, r, p, h⟩ <;> rw [h]; rfl

/-- Where the places lie in no translated segment, nothing is used. -/
@[simp] theorem useVia_none (s : State) (t : Tid) (k n : Nat) : useVia s t ⟨k, none⟩ n = s := rfl

/-! ## Instructions that store -/

/-- A change of a core that leaves its threads leaves every thread. -/
theorem thread_setCore (s : State) (c : Nat) (x : VCore) (t : Tid) (h : x.threads = (s.core c).threads) : (s.setCore c x).thread t = s.thread t := by
  unfold State.thread
  have hm : (s.setCore c x).meth = s.meth := rfl
  rw [hm]
  cases s.meth with
  | some m => rfl
  | none =>
    dsimp only
    rw [core_setCore]
    split
    · rename_i e; unfold VCore.thread; rw [h, e]
    · rfl

theorem thread_writePlace {s : State} (k : Nat) (b : Byte) (t : Tid) (h : s.meth = none) : (writePlace s k b).thread t = s.thread t := by
  unfold writePlace
  dsimp only
  split
  · exact thread_setCore _ _ _ _ rfl
  · rfl
  · rfl
  · rfl
  · rfl
  · rw [h]

theorem meth_writePlace {s : State} (k : Nat) (b : Byte) (h : s.meth = none) : (writePlace s k b).meth = none := by
  unfold writePlace; dsimp only; split <;> first | exact h | (rw [h]; exact h)

theorem thread_writePlaces {s : State} (ks : List Nat) (bs : List Byte) (t : Tid) (h : s.meth = none) :
    (writePlaces s ks bs).thread t = s.thread t := by
  induction ks generalizing s bs with
  | nil => rfl
  | cons k ks ih =>
    cases bs with
    | nil => rfl
    | cons b bs => rw [writePlaces, ih bs (meth_writePlace k b h), thread_writePlace k b t h]

theorem length_leBytes (x n : Nat) : (leBytes x n).length = n := by
  induction n generalizing x with
  | zero => rfl
  | succ n ih => simp [leBytes, ih]

/-- Noting a store changes one thread only. -/
theorem onlyThread_noteStore (s : State) (t : Tid) (ks : List Nat) : OnlyThread t s (noteStore s t ks) := by
  unfold noteStore
  split
  · exact onlyThread_setThread _ _ _
  · exact OnlyThread.refl _ _

/-- A state reached by a change of one thread from bytes stored in `z`: what its memory reads as. -/
theorem stored_reads {t : Tid} {z s' : State} {ks : List Nat} {bs : List Byte} (h : OnlyThread t (writePlaces (noteStore z t ks) ks bs) s')
    (hl : bs.length = ks.length) (w : MemoryWf z) (hk : ∀ k ∈ ks, k < 5 * 2 ^ 64) :
    (∀ q < 5 * 2 ^ 64, q ∉ ks → readPlace s' q = readPlace z q) ∧ (ks.Nodup → readPlaces s' ks = bs) := by
  have w' := (onlyThread_noteStore z t ks).memoryWf w
  refine ⟨fun q hq hn => ?_, fun hn => ?_⟩
  · rw [h.readPlace hq, readPlace_writePlaces_ne w' bs hk hq hn]; exact (onlyThread_noteStore z t ks).readPlace hq
  · have : readPlaces s' ks = readPlaces (writePlaces (noteStore z t ks) ks bs) ks := by
      unfold readPlaces
      apply List.map_congr_left
      intro k hk'
      exact h.readPlace (hk k hk')
    rw [this]; exact readPlaces_writePlaces w' hk hn hl

theorem stores_of {i : Instr} {op : Op} {f : Form} {s z : State} {body : Body} {ks : List Nat} {bs : List Byte}
    (he : exec i s = issue op s body) (hf : op.Has f) (hi : Issues f s) (hl : bs.length = ks.length)
    (hb : body (begun f s) s.cur = .ok (writePlaces (noteStore z s.cur ks) ks bs, .seq)) : Stores i s z ks bs := by
  obtain ⟨s', h1, h2⟩ := passes_of he hf hi hb
  exact ⟨s', h1, h2, fun w hk => stored_reads h2.only hl w hk⟩

theorem storesAndYields_of {i : Instr} {op : Op} {f : Form} {s z : State} {body : Body} {ks : List Nat} {bs : List Byte} {d : Nat} {x : Word}
    (he : exec i s = issue op s body) (hf : op.Has f) (hi : Issues f s) (hl : bs.length = ks.length) (hd : d < 32)
    (hb : body (begun f s) s.cur = .ok ((writePlaces (noteStore z s.cur ks) ks bs).setThread s.cur
      (((writePlaces (noteStore z s.cur ks) ks bs).thread s.cur).putG d x), .seq)) :
    StoresAndYields i s z ks bs d x := by
  obtain ⟨s', h1, h2, h3⟩ := yields_of he hf hi hd hb
  exact ⟨s', h1, h2, h3, fun w hk => stored_reads h3.only hl w hk⟩

end Sys2Proof
end

