-- ==== Sys2Proof/Laws/Words.lean ====
section
/-! SUPPORT. What the decoder reads from each instruction's word, before R50's checks: one lemma for each instruction. -/

namespace Sys2Proof

set_option Elab.async false

theorem ext_lo {n m lo len : Nat} (x : BitVec n) (y : BitVec m) (h : lo + len ≤ m) : (x ++ y).extractLsb' lo len = y.extractLsb' lo len := by
  apply BitVec.eq_of_getLsbD_eq; intro i hi
  simp only [BitVec.getLsbD_extractLsb', BitVec.getLsbD_append]
  simp [show lo + i < m by omega]

theorem ext_hi {n m lo len : Nat} (x : BitVec n) (y : BitVec m) (h : m ≤ lo) : (x ++ y).extractLsb' lo len = x.extractLsb' (lo - m) len := by
  apply BitVec.eq_of_getLsbD_eq; intro i hi
  simp only [BitVec.getLsbD_extractLsb', BitVec.getLsbD_append]
  simp [show ¬ lo + i < m by omega, show lo + i - m = lo - m + i by omega]

theorem ext_join {n lo l m : Nat} {w : BitVec n} {p : BitVec l} {q : BitVec m} (hp : w.extractLsb' (lo + m) l = p) (hq : w.extractLsb' lo m = q) :
    w.extractLsb' lo (l + m) = p ++ q := by
  subst hp hq
  apply BitVec.eq_of_getLsbD_eq; intro i hi
  simp only [BitVec.getLsbD_extractLsb', BitVec.getLsbD_append]
  by_cases h : i < m
  · simp [h, hi]
  · simp [h, hi, show i - m < l by omega, show lo + m + (i - m) = lo + i by omega]

theorem ext_sub {n : Nat} {w : BitVec n} {lo : Nat} {y : BitVec 2} (h : w.extractLsb' lo 2 = y) : w.extractLsb' (lo + 1) 1 = y.extractLsb' 1 1 := by
  subst h
  apply BitVec.eq_of_getLsbD_eq; intro i hi
  simp only [BitVec.getLsbD_extractLsb']
  simp [hi, show 1 + i < 2 by omega, show lo + (1 + i) = lo + 1 + i by omega]

theorem bit_cases : ∀ x : BitVec 1, x = 0#1 ∨ x = 1#1 := by decide
theorem pair_cases : ∀ x : BitVec 2, x = 0#2 ∨ x = 1#2 ∨ x = 2#2 ∨ x = 3#2 := by decide

theorem ext_all {n : Nat} (x : BitVec n) : x.extractLsb' 0 n = x := by simp

theorem fields_0 (x0 : BitVec 7) (x1 : BitVec 3) (x2 : BitVec 5) (x3 : BitVec 5) (x4 : BitVec 5) (x5 : BitVec 7) {w : BitVec 32} (h : x0 ++ x1 ++ x2 ++ x3 ++ x4 ++ x5 = w) :
    w.extractLsb' 25 7 = x0 ∧ w.extractLsb' 22 3 = x1 ∧ w.extractLsb' 17 5 = x2 ∧ w.extractLsb' 12 5 = x3 ∧ w.extractLsb' 7 5 = x4 ∧ w.extractLsb' 0 7 = x5 := by
  subst h
  and_intros
  · rw [ext_hi, ext_hi, ext_hi, ext_hi, ext_hi, ext_all] <;> omega
  · rw [ext_hi, ext_hi, ext_hi, ext_hi, ext_lo, ext_all] <;> omega
  · rw [ext_hi, ext_hi, ext_hi, ext_lo, ext_all] <;> omega
  · rw [ext_hi, ext_hi, ext_lo, ext_all] <;> omega
  · rw [ext_hi, ext_lo, ext_all] <;> omega
  · rw [ext_lo, ext_all]; omega

theorem fields_1 (x0 : BitVec 7) (x1 : BitVec 3) (x2 : BitVec 2) (x3 : BitVec 3) (x4 : BitVec 5) (x5 : BitVec 5) (x6 : BitVec 7) {w : BitVec 32} (h : x0 ++ x1 ++ x2 ++ x3 ++ x4 ++ x5 ++ x6 = w) :
    w.extractLsb' 25 7 = x0 ∧ w.extractLsb' 22 3 = x1 ∧ w.extractLsb' 20 2 = x2 ∧ w.extractLsb' 17 3 = x3 ∧ w.extractLsb' 12 5 = x4 ∧ w.extractLsb' 7 5 = x5 ∧ w.extractLsb' 0 7 = x6 := by
  subst h
  and_intros
  · rw [ext_hi, ext_hi, ext_hi, ext_hi, ext_hi, ext_hi, ext_all] <;> omega
  · rw [ext_hi, ext_hi, ext_hi, ext_hi, ext_hi, ext_lo, ext_all] <;> omega
  · rw [ext_hi, ext_hi, ext_hi, ext_hi, ext_lo, ext_all] <;> omega
  · rw [ext_hi, ext_hi, ext_hi, ext_lo, ext_all] <;> omega
  · rw [ext_hi, ext_hi, ext_lo, ext_all] <;> omega
  · rw [ext_hi, ext_lo, ext_all] <;> omega
  · rw [ext_lo, ext_all]; omega

theorem fields_2 (x0 : BitVec 7) (x1 : BitVec 3) (x2 : BitVec 5) (x3 : BitVec 5) (x4 : BitVec 12) {w : BitVec 32} (h : x0 ++ x1 ++ x2 ++ x3 ++ x4 = w) :
    w.extractLsb' 25 7 = x0 ∧ w.extractLsb' 22 3 = x1 ∧ w.extractLsb' 17 5 = x2 ∧ w.extractLsb' 12 5 = x3 ∧ w.extractLsb' 0 12 = x4 := by
  subst h
  and_intros
  · rw [ext_hi, ext_hi, ext_hi, ext_hi, ext_all] <;> omega
  · rw [ext_hi, ext_hi, ext_hi, ext_lo, ext_all] <;> omega
  · rw [ext_hi, ext_hi, ext_lo, ext_all] <;> omega
  · rw [ext_hi, ext_lo, ext_all] <;> omega
  · rw [ext_lo, ext_all]; omega

theorem fields_3 (x0 : BitVec 7) (x1 : BitVec 3) (x2 : BitVec 2) (x3 : BitVec 3) (x4 : BitVec 5) (x5 : BitVec 12) {w : BitVec 32} (h : x0 ++ x1 ++ x2 ++ x3 ++ x4 ++ x5 = w) :
    w.extractLsb' 25 7 = x0 ∧ w.extractLsb' 22 3 = x1 ∧ w.extractLsb' 20 2 = x2 ∧ w.extractLsb' 17 3 = x3 ∧ w.extractLsb' 12 5 = x4 ∧ w.extractLsb' 0 12 = x5 := by
  subst h
  and_intros
  · rw [ext_hi, ext_hi, ext_hi, ext_hi, ext_hi, ext_all] <;> omega
  · rw [ext_hi, ext_hi, ext_hi, ext_hi, ext_lo, ext_all] <;> omega
  · rw [ext_hi, ext_hi, ext_hi, ext_lo, ext_all] <;> omega
  · rw [ext_hi, ext_hi, ext_lo, ext_all] <;> omega
  · rw [ext_hi, ext_lo, ext_all] <;> omega
  · rw [ext_lo, ext_all]; omega

theorem fields_4 (x0 : BitVec 7) (x1 : BitVec 3) (x2 : BitVec 3) (x3 : BitVec 1) (x4 : BitVec 18) {w : BitVec 32} (h : x0 ++ x1 ++ x2 ++ x3 ++ x4 = w) :
    w.extractLsb' 25 7 = x0 ∧ w.extractLsb' 22 3 = x1 ∧ w.extractLsb' 19 3 = x2 ∧ w.extractLsb' 18 1 = x3 ∧ w.extractLsb' 0 18 = x4 := by
  subst h
  and_intros
  · rw [ext_hi, ext_hi, ext_hi, ext_hi, ext_all] <;> omega
  · rw [ext_hi, ext_hi, ext_hi, ext_lo, ext_all] <;> omega
  · rw [ext_hi, ext_hi, ext_lo, ext_all] <;> omega
  · rw [ext_hi, ext_lo, ext_all] <;> omega
  · rw [ext_lo, ext_all]; omega

theorem fields_5 (x0 : BitVec 7) (x1 : BitVec 3) (x2 : BitVec 22) {w : BitVec 32} (h : x0 ++ x1 ++ x2 = w) :
    w.extractLsb' 25 7 = x0 ∧ w.extractLsb' 22 3 = x1 ∧ w.extractLsb' 0 22 = x2 := by
  subst h
  refine ⟨?_, ?_, ?_⟩
  · rw [ext_hi, ext_hi, ext_all] <;> omega
  · rw [ext_hi, ext_lo, ext_all] <;> omega
  · rw [ext_lo, ext_all]; omega

theorem fields_6 (x0 : BitVec 7) (x1 : BitVec 3) (x2 : BitVec 15) (x3 : BitVec 7) {w : BitVec 32} (h : x0 ++ x1 ++ x2 ++ x3 = w) :
    w.extractLsb' 25 7 = x0 ∧ w.extractLsb' 22 3 = x1 ∧ w.extractLsb' 7 15 = x2 ∧ w.extractLsb' 0 7 = x3 := by
  subst h
  refine ⟨?_, ?_, ?_, ?_⟩
  · rw [ext_hi, ext_hi, ext_hi, ext_all] <;> omega
  · rw [ext_hi, ext_hi, ext_lo, ext_all] <;> omega
  · rw [ext_hi, ext_lo, ext_all] <;> omega
  · rw [ext_lo, ext_all]; omega

theorem fields_7 (x0 : BitVec 7) (x1 : BitVec 3) (x2 : BitVec 5) (x3 : BitVec 5) (x4 : BitVec 2) (x5 : BitVec 10) {w : BitVec 32} (h : x0 ++ x1 ++ x2 ++ x3 ++ x4 ++ x5 = w) :
    w.extractLsb' 25 7 = x0 ∧ w.extractLsb' 22 3 = x1 ∧ w.extractLsb' 17 5 = x2 ∧ w.extractLsb' 12 5 = x3 ∧ w.extractLsb' 10 2 = x4 ∧ w.extractLsb' 0 10 = x5 := by
  subst h
  and_intros
  · rw [ext_hi, ext_hi, ext_hi, ext_hi, ext_hi, ext_all] <;> omega
  · rw [ext_hi, ext_hi, ext_hi, ext_hi, ext_lo, ext_all] <;> omega
  · rw [ext_hi, ext_hi, ext_hi, ext_lo, ext_all] <;> omega
  · rw [ext_hi, ext_hi, ext_lo, ext_all] <;> omega
  · rw [ext_hi, ext_lo, ext_all] <;> omega
  · rw [ext_lo, ext_all]; omega

theorem fields_8 (x0 : BitVec 7) (x1 : BitVec 3) (x2 : BitVec 5) (x3 : BitVec 5) (x4 : BitVec 3) (x5 : BitVec 2) (x6 : BitVec 3) (x7 : BitVec 4) {w : BitVec 32} (h : x0 ++ x1 ++ x2 ++ x3 ++ x4 ++ x5 ++ x6 ++ x7 = w) :
    w.extractLsb' 25 7 = x0 ∧ w.extractLsb' 22 3 = x1 ∧ w.extractLsb' 17 5 = x2 ∧ w.extractLsb' 12 5 = x3 ∧ w.extractLsb' 9 3 = x4 ∧ w.extractLsb' 7 2 = x5 ∧ w.extractLsb' 4 3 = x6 ∧ w.extractLsb' 0 4 = x7 := by
  subst h
  and_intros
  · rw [ext_hi, ext_hi, ext_hi, ext_hi, ext_hi, ext_hi, ext_hi, ext_all] <;> omega
  · rw [ext_hi, ext_hi, ext_hi, ext_hi, ext_hi, ext_hi, ext_lo, ext_all] <;> omega
  · rw [ext_hi, ext_hi, ext_hi, ext_hi, ext_hi, ext_lo, ext_all] <;> omega
  · rw [ext_hi, ext_hi, ext_hi, ext_hi, ext_lo, ext_all] <;> omega
  · rw [ext_hi, ext_hi, ext_hi, ext_lo, ext_all] <;> omega
  · rw [ext_hi, ext_hi, ext_lo, ext_all] <;> omega
  · rw [ext_hi, ext_lo, ext_all] <;> omega
  · rw [ext_lo, ext_all]; omega

theorem fields_9 (x0 : BitVec 7) (x1 : BitVec 3) (x2 : BitVec 5) (x3 : BitVec 5) (x4 : BitVec 5) (x5 : BitVec 3) (x6 : BitVec 1) (x7 : BitVec 1) (x8 : BitVec 2) {w : BitVec 32} (h : x0 ++ x1 ++ x2 ++ x3 ++ x4 ++ x5 ++ x6 ++ x7 ++ x8 = w) :
    w.extractLsb' 25 7 = x0 ∧ w.extractLsb' 22 3 = x1 ∧ w.extractLsb' 17 5 = x2 ∧ w.extractLsb' 12 5 = x3 ∧ w.extractLsb' 7 5 = x4 ∧ w.extractLsb' 4 3 = x5 ∧ w.extractLsb' 3 1 = x6 ∧ w.extractLsb' 2 1 = x7 ∧ w.extractLsb' 0 2 = x8 := by
  subst h
  and_intros
  · rw [ext_hi, ext_hi, ext_hi, ext_hi, ext_hi, ext_hi, ext_hi, ext_hi, ext_all] <;> omega
  · rw [ext_hi, ext_hi, ext_hi, ext_hi, ext_hi, ext_hi, ext_hi, ext_lo, ext_all] <;> omega
  · rw [ext_hi, ext_hi, ext_hi, ext_hi, ext_hi, ext_hi, ext_lo, ext_all] <;> omega
  · rw [ext_hi, ext_hi, ext_hi, ext_hi, ext_hi, ext_lo, ext_all] <;> omega
  · rw [ext_hi, ext_hi, ext_hi, ext_hi, ext_lo, ext_all] <;> omega
  · rw [ext_hi, ext_hi, ext_hi, ext_lo, ext_all] <;> omega
  · rw [ext_hi, ext_hi, ext_lo, ext_all] <;> omega
  · rw [ext_hi, ext_lo, ext_all] <;> omega
  · rw [ext_lo, ext_all]; omega

theorem fields_10 (x0 : BitVec 7) (x1 : BitVec 3) (x2 : BitVec 2) (x3 : BitVec 3) (x4 : BitVec 5) (x5 : BitVec 5) (x6 : BitVec 3) (x7 : BitVec 1) (x8 : BitVec 1) (x9 : BitVec 2) {w : BitVec 32} (h : x0 ++ x1 ++ x2 ++ x3 ++ x4 ++ x5 ++ x6 ++ x7 ++ x8 ++ x9 = w) :
    w.extractLsb' 25 7 = x0 ∧ w.extractLsb' 22 3 = x1 ∧ w.extractLsb' 20 2 = x2 ∧ w.extractLsb' 17 3 = x3 ∧ w.extractLsb' 12 5 = x4 ∧ w.extractLsb' 7 5 = x5 ∧ w.extractLsb' 4 3 = x6 ∧ w.extractLsb' 3 1 = x7 ∧ w.extractLsb' 2 1 = x8 ∧ w.extractLsb' 0 2 = x9 := by
  subst h
  and_intros
  · rw [ext_hi, ext_hi, ext_hi, ext_hi, ext_hi, ext_hi, ext_hi, ext_hi, ext_hi, ext_all] <;> omega
  · rw [ext_hi, ext_hi, ext_hi, ext_hi, ext_hi, ext_hi, ext_hi, ext_hi, ext_lo, ext_all] <;> omega
  · rw [ext_hi, ext_hi, ext_hi, ext_hi, ext_hi, ext_hi, ext_hi, ext_lo, ext_all] <;> omega
  · rw [ext_hi, ext_hi, ext_hi, ext_hi, ext_hi, ext_hi, ext_lo, ext_all] <;> omega
  · rw [ext_hi, ext_hi, ext_hi, ext_hi, ext_hi, ext_lo, ext_all] <;> omega
  · rw [ext_hi, ext_hi, ext_hi, ext_hi, ext_lo, ext_all] <;> omega
  · rw [ext_hi, ext_hi, ext_hi, ext_lo, ext_all] <;> omega
  · rw [ext_hi, ext_hi, ext_lo, ext_all] <;> omega
  · rw [ext_hi, ext_lo, ext_all] <;> omega
  · rw [ext_lo, ext_all]; omega

theorem fields_11 (x0 : BitVec 7) (x1 : BitVec 3) (x2 : BitVec 5) (x3 : BitVec 5) (x4 : BitVec 4) (x5 : BitVec 1) (x6 : BitVec 3) (x7 : BitVec 1) (x8 : BitVec 1) (x9 : BitVec 2) {w : BitVec 32} (h : x0 ++ x1 ++ x2 ++ x3 ++ x4 ++ x5 ++ x6 ++ x7 ++ x8 ++ x9 = w) :
    w.extractLsb' 25 7 = x0 ∧ w.extractLsb' 22 3 = x1 ∧ w.extractLsb' 17 5 = x2 ∧ w.extractLsb' 12 5 = x3 ∧ w.extractLsb' 8 4 = x4 ∧ w.extractLsb' 7 1 = x5 ∧ w.extractLsb' 4 3 = x6 ∧ w.extractLsb' 3 1 = x7 ∧ w.extractLsb' 2 1 = x8 ∧ w.extractLsb' 0 2 = x9 := by
  subst h
  and_intros
  · rw [ext_hi, ext_hi, ext_hi, ext_hi, ext_hi, ext_hi, ext_hi, ext_hi, ext_hi, ext_all] <;> omega
  · rw [ext_hi, ext_hi, ext_hi, ext_hi, ext_hi, ext_hi, ext_hi, ext_hi, ext_lo, ext_all] <;> omega
  · rw [ext_hi, ext_hi, ext_hi, ext_hi, ext_hi, ext_hi, ext_hi, ext_lo, ext_all] <;> omega
  · rw [ext_hi, ext_hi, ext_hi, ext_hi, ext_hi, ext_hi, ext_lo, ext_all] <;> omega
  · rw [ext_hi, ext_hi, ext_hi, ext_hi, ext_hi, ext_lo, ext_all] <;> omega
  · rw [ext_hi, ext_hi, ext_hi, ext_hi, ext_lo, ext_all] <;> omega
  · rw [ext_hi, ext_hi, ext_hi, ext_lo, ext_all] <;> omega
  · rw [ext_hi, ext_hi, ext_lo, ext_all] <;> omega
  · rw [ext_hi, ext_lo, ext_all] <;> omega
  · rw [ext_lo, ext_all]; omega

theorem fields_12 (x0 : BitVec 7) (x1 : BitVec 3) (x2 : BitVec 5) (x3 : BitVec 5) (x4 : BitVec 3) (x5 : BitVec 2) (x6 : BitVec 3) (x7 : BitVec 1) (x8 : BitVec 1) (x9 : BitVec 2) {w : BitVec 32} (h : x0 ++ x1 ++ x2 ++ x3 ++ x4 ++ x5 ++ x6 ++ x7 ++ x8 ++ x9 = w) :
    w.extractLsb' 25 7 = x0 ∧ w.extractLsb' 22 3 = x1 ∧ w.extractLsb' 17 5 = x2 ∧ w.extractLsb' 12 5 = x3 ∧ w.extractLsb' 9 3 = x4 ∧ w.extractLsb' 7 2 = x5 ∧ w.extractLsb' 4 3 = x6 ∧ w.extractLsb' 3 1 = x7 ∧ w.extractLsb' 2 1 = x8 ∧ w.extractLsb' 0 2 = x9 := by
  subst h
  and_intros
  · rw [ext_hi, ext_hi, ext_hi, ext_hi, ext_hi, ext_hi, ext_hi, ext_hi, ext_hi, ext_all] <;> omega
  · rw [ext_hi, ext_hi, ext_hi, ext_hi, ext_hi, ext_hi, ext_hi, ext_hi, ext_lo, ext_all] <;> omega
  · rw [ext_hi, ext_hi, ext_hi, ext_hi, ext_hi, ext_hi, ext_hi, ext_lo, ext_all] <;> omega
  · rw [ext_hi, ext_hi, ext_hi, ext_hi, ext_hi, ext_hi, ext_lo, ext_all] <;> omega
  · rw [ext_hi, ext_hi, ext_hi, ext_hi, ext_hi, ext_lo, ext_all] <;> omega
  · rw [ext_hi, ext_hi, ext_hi, ext_hi, ext_lo, ext_all] <;> omega
  · rw [ext_hi, ext_hi, ext_hi, ext_lo, ext_all] <;> omega
  · rw [ext_hi, ext_hi, ext_lo, ext_all] <;> omega
  · rw [ext_hi, ext_lo, ext_all] <;> omega
  · rw [ext_lo, ext_all]; omega

theorem fields_13 (x0 : BitVec 7) (x1 : BitVec 3) (x2 : BitVec 5) (x3 : BitVec 5) (x4 : BitVec 1) (x5 : BitVec 1) (x6 : BitVec 3) (x7 : BitVec 3) (x8 : BitVec 1) (x9 : BitVec 1) (x10 : BitVec 2) {w : BitVec 32} (h : x0 ++ x1 ++ x2 ++ x3 ++ x4 ++ x5 ++ x6 ++ x7 ++ x8 ++ x9 ++ x10 = w) :
    w.extractLsb' 25 7 = x0 ∧ w.extractLsb' 22 3 = x1 ∧ w.extractLsb' 17 5 = x2 ∧ w.extractLsb' 12 5 = x3 ∧ w.extractLsb' 11 1 = x4 ∧ w.extractLsb' 10 1 = x5 ∧ w.extractLsb' 7 3 = x6 ∧ w.extractLsb' 4 3 = x7 ∧ w.extractLsb' 3 1 = x8 ∧ w.extractLsb' 2 1 = x9 ∧ w.extractLsb' 0 2 = x10 := by
  subst h
  and_intros
  · rw [ext_hi, ext_hi, ext_hi, ext_hi, ext_hi, ext_hi, ext_hi, ext_hi, ext_hi, ext_hi, ext_all] <;> omega
  · rw [ext_hi, ext_hi, ext_hi, ext_hi, ext_hi, ext_hi, ext_hi, ext_hi, ext_hi, ext_lo, ext_all] <;> omega
  · rw [ext_hi, ext_hi, ext_hi, ext_hi, ext_hi, ext_hi, ext_hi, ext_hi, ext_lo, ext_all] <;> omega
  · rw [ext_hi, ext_hi, ext_hi, ext_hi, ext_hi, ext_hi, ext_hi, ext_lo, ext_all] <;> omega
  · rw [ext_hi, ext_hi, ext_hi, ext_hi, ext_hi, ext_hi, ext_lo, ext_all] <;> omega
  · rw [ext_hi, ext_hi, ext_hi, ext_hi, ext_hi, ext_lo, ext_all] <;> omega
  · rw [ext_hi, ext_hi, ext_hi, ext_hi, ext_lo, ext_all] <;> omega
  · rw [ext_hi, ext_hi, ext_hi, ext_lo, ext_all] <;> omega
  · rw [ext_hi, ext_hi, ext_lo, ext_all] <;> omega
  · rw [ext_hi, ext_lo, ext_all] <;> omega
  · rw [ext_lo, ext_all]; omega

theorem fields_14 (x0 : BitVec 7) (x1 : BitVec 3) (x2 : BitVec 5) (x3 : BitVec 5) (x4 : BitVec 3) (x5 : BitVec 9) {w : BitVec 32} (h : x0 ++ x1 ++ x2 ++ x3 ++ x4 ++ x5 = w) :
    w.extractLsb' 25 7 = x0 ∧ w.extractLsb' 22 3 = x1 ∧ w.extractLsb' 17 5 = x2 ∧ w.extractLsb' 12 5 = x3 ∧ w.extractLsb' 9 3 = x4 ∧ w.extractLsb' 0 9 = x5 := by
  subst h
  and_intros
  · rw [ext_hi, ext_hi, ext_hi, ext_hi, ext_hi, ext_all] <;> omega
  · rw [ext_hi, ext_hi, ext_hi, ext_hi, ext_lo, ext_all] <;> omega
  · rw [ext_hi, ext_hi, ext_hi, ext_lo, ext_all] <;> omega
  · rw [ext_hi, ext_hi, ext_lo, ext_all] <;> omega
  · rw [ext_hi, ext_lo, ext_all] <;> omega
  · rw [ext_lo, ext_all]; omega

theorem fields_15 (x0 : BitVec 7) (x1 : BitVec 3) (x2 : BitVec 5) (x3 : BitVec 5) (x4 : BitVec 1) (x5 : BitVec 4) (x6 : BitVec 3) (x7 : BitVec 1) (x8 : BitVec 1) (x9 : BitVec 2) {w : BitVec 32} (h : x0 ++ x1 ++ x2 ++ x3 ++ x4 ++ x5 ++ x6 ++ x7 ++ x8 ++ x9 = w) :
    w.extractLsb' 25 7 = x0 ∧ w.extractLsb' 22 3 = x1 ∧ w.extractLsb' 17 5 = x2 ∧ w.extractLsb' 12 5 = x3 ∧ w.extractLsb' 11 1 = x4 ∧ w.extractLsb' 7 4 = x5 ∧ w.extractLsb' 4 3 = x6 ∧ w.extractLsb' 3 1 = x7 ∧ w.extractLsb' 2 1 = x8 ∧ w.extractLsb' 0 2 = x9 := by
  subst h
  and_intros
  · rw [ext_hi, ext_hi, ext_hi, ext_hi, ext_hi, ext_hi, ext_hi, ext_hi, ext_hi, ext_all] <;> omega
  · rw [ext_hi, ext_hi, ext_hi, ext_hi, ext_hi, ext_hi, ext_hi, ext_hi, ext_lo, ext_all] <;> omega
  · rw [ext_hi, ext_hi, ext_hi, ext_hi, ext_hi, ext_hi, ext_hi, ext_lo, ext_all] <;> omega
  · rw [ext_hi, ext_hi, ext_hi, ext_hi, ext_hi, ext_hi, ext_lo, ext_all] <;> omega
  · rw [ext_hi, ext_hi, ext_hi, ext_hi, ext_hi, ext_lo, ext_all] <;> omega
  · rw [ext_hi, ext_hi, ext_hi, ext_hi, ext_lo, ext_all] <;> omega
  · rw [ext_hi, ext_hi, ext_hi, ext_lo, ext_all] <;> omega
  · rw [ext_hi, ext_hi, ext_lo, ext_all] <;> omega
  · rw [ext_hi, ext_lo, ext_all] <;> omega
  · rw [ext_lo, ext_all]; omega

theorem fields_16 (x0 : BitVec 7) (x1 : BitVec 3) (x2 : BitVec 5) (x3 : BitVec 3) (x4 : BitVec 14) {w : BitVec 32} (h : x0 ++ x1 ++ x2 ++ x3 ++ x4 = w) :
    w.extractLsb' 25 7 = x0 ∧ w.extractLsb' 22 3 = x1 ∧ w.extractLsb' 17 5 = x2 ∧ w.extractLsb' 14 3 = x3 ∧ w.extractLsb' 0 14 = x4 := by
  subst h
  and_intros
  · rw [ext_hi, ext_hi, ext_hi, ext_hi, ext_all] <;> omega
  · rw [ext_hi, ext_hi, ext_hi, ext_lo, ext_all] <;> omega
  · rw [ext_hi, ext_hi, ext_lo, ext_all] <;> omega
  · rw [ext_hi, ext_lo, ext_all] <;> omega
  · rw [ext_lo, ext_all]; omega

theorem fields_17 (x0 : BitVec 7) (x1 : BitVec 3) (x2 : BitVec 5) (x3 : BitVec 3) (x4 : BitVec 4) (x5 : BitVec 6) (x6 : BitVec 1) (x7 : BitVec 1) (x8 : BitVec 2) {w : BitVec 32} (h : x0 ++ x1 ++ x2 ++ x3 ++ x4 ++ x5 ++ x6 ++ x7 ++ x8 = w) :
    w.extractLsb' 25 7 = x0 ∧ w.extractLsb' 22 3 = x1 ∧ w.extractLsb' 17 5 = x2 ∧ w.extractLsb' 14 3 = x3 ∧ w.extractLsb' 10 4 = x4 ∧ w.extractLsb' 4 6 = x5 ∧ w.extractLsb' 3 1 = x6 ∧ w.extractLsb' 2 1 = x7 ∧ w.extractLsb' 0 2 = x8 := by
  subst h
  and_intros
  · rw [ext_hi, ext_hi, ext_hi, ext_hi, ext_hi, ext_hi, ext_hi, ext_hi, ext_all] <;> omega
  · rw [ext_hi, ext_hi, ext_hi, ext_hi, ext_hi, ext_hi, ext_hi, ext_lo, ext_all] <;> omega
  · rw [ext_hi, ext_hi, ext_hi, ext_hi, ext_hi, ext_hi, ext_lo, ext_all] <;> omega
  · rw [ext_hi, ext_hi, ext_hi, ext_hi, ext_hi, ext_lo, ext_all] <;> omega
  · rw [ext_hi, ext_hi, ext_hi, ext_hi, ext_lo, ext_all] <;> omega
  · rw [ext_hi, ext_hi, ext_hi, ext_lo, ext_all] <;> omega
  · rw [ext_hi, ext_hi, ext_lo, ext_all] <;> omega
  · rw [ext_hi, ext_lo, ext_all] <;> omega
  · rw [ext_lo, ext_all]; omega

theorem fields_18 (x0 : BitVec 7) (x1 : BitVec 3) (x2 : BitVec 5) (x3 : BitVec 3) (x4 : BitVec 2) (x5 : BitVec 6) (x6 : BitVec 6) {w : BitVec 32} (h : x0 ++ x1 ++ x2 ++ x3 ++ x4 ++ x5 ++ x6 = w) :
    w.extractLsb' 25 7 = x0 ∧ w.extractLsb' 22 3 = x1 ∧ w.extractLsb' 17 5 = x2 ∧ w.extractLsb' 14 3 = x3 ∧ w.extractLsb' 12 2 = x4 ∧ w.extractLsb' 6 6 = x5 ∧ w.extractLsb' 0 6 = x6 := by
  subst h
  and_intros
  · rw [ext_hi, ext_hi, ext_hi, ext_hi, ext_hi, ext_hi, ext_all] <;> omega
  · rw [ext_hi, ext_hi, ext_hi, ext_hi, ext_hi, ext_lo, ext_all] <;> omega
  · rw [ext_hi, ext_hi, ext_hi, ext_hi, ext_lo, ext_all] <;> omega
  · rw [ext_hi, ext_hi, ext_hi, ext_lo, ext_all] <;> omega
  · rw [ext_hi, ext_hi, ext_lo, ext_all] <;> omega
  · rw [ext_hi, ext_lo, ext_all] <;> omega
  · rw [ext_lo, ext_all]; omega

theorem fields_19 (x0 : BitVec 7) (x1 : BitVec 3) (x2 : BitVec 5) (x3 : BitVec 3) (x4 : BitVec 13) (x5 : BitVec 1) {w : BitVec 32} (h : x0 ++ x1 ++ x2 ++ x3 ++ x4 ++ x5 = w) :
    w.extractLsb' 25 7 = x0 ∧ w.extractLsb' 22 3 = x1 ∧ w.extractLsb' 17 5 = x2 ∧ w.extractLsb' 14 3 = x3 ∧ w.extractLsb' 1 13 = x4 ∧ w.extractLsb' 0 1 = x5 := by
  subst h
  and_intros
  · rw [ext_hi, ext_hi, ext_hi, ext_hi, ext_hi, ext_all] <;> omega
  · rw [ext_hi, ext_hi, ext_hi, ext_hi, ext_lo, ext_all] <;> omega
  · rw [ext_hi, ext_hi, ext_hi, ext_lo, ext_all] <;> omega
  · rw [ext_hi, ext_hi, ext_lo, ext_all] <;> omega
  · rw [ext_hi, ext_lo, ext_all] <;> omega
  · rw [ext_lo, ext_all]; omega

theorem fields_20 (x0 : BitVec 7) (x1 : BitVec 3) (x2 : BitVec 5) (x3 : BitVec 5) (x4 : BitVec 3) (x5 : BitVec 2) (x6 : BitVec 7) {w : BitVec 32} (h : x0 ++ x1 ++ x2 ++ x3 ++ x4 ++ x5 ++ x6 = w) :
    w.extractLsb' 25 7 = x0 ∧ w.extractLsb' 22 3 = x1 ∧ w.extractLsb' 17 5 = x2 ∧ w.extractLsb' 12 5 = x3 ∧ w.extractLsb' 9 3 = x4 ∧ w.extractLsb' 7 2 = x5 ∧ w.extractLsb' 0 7 = x6 := by
  subst h
  and_intros
  · rw [ext_hi, ext_hi, ext_hi, ext_hi, ext_hi, ext_hi, ext_all] <;> omega
  · rw [ext_hi, ext_hi, ext_hi, ext_hi, ext_hi, ext_lo, ext_all] <;> omega
  · rw [ext_hi, ext_hi, ext_hi, ext_hi, ext_lo, ext_all] <;> omega
  · rw [ext_hi, ext_hi, ext_hi, ext_lo, ext_all] <;> omega
  · rw [ext_hi, ext_hi, ext_lo, ext_all] <;> omega
  · rw [ext_hi, ext_lo, ext_all] <;> omega
  · rw [ext_lo, ext_all]; omega

theorem fields_21 (x0 : BitVec 7) (x1 : BitVec 25) {w : BitVec 32} (h : x0 ++ x1 = w) :
    w.extractLsb' 25 7 = x0 ∧ w.extractLsb' 0 25 = x1 := by
  subst h
  refine ⟨?_, ?_⟩
  · rw [ext_hi, ext_all]; omega
  · rw [ext_lo, ext_all]; omega

theorem fields_22 (x0 : BitVec 7) (x1 : BitVec 1) (x2 : BitVec 16) (x3 : BitVec 8) {w : BitVec 32} (h : x0 ++ x1 ++ x2 ++ x3 = w) :
    w.extractLsb' 25 7 = x0 ∧ w.extractLsb' 24 1 = x1 ∧ w.extractLsb' 8 16 = x2 ∧ w.extractLsb' 0 8 = x3 := by
  subst h
  refine ⟨?_, ?_, ?_, ?_⟩
  · rw [ext_hi, ext_hi, ext_hi, ext_all] <;> omega
  · rw [ext_hi, ext_hi, ext_lo, ext_all] <;> omega
  · rw [ext_hi, ext_lo, ext_all] <;> omega
  · rw [ext_lo, ext_all]; omega

theorem fields_23 (x0 : BitVec 7) (x1 : BitVec 1) (x2 : BitVec 20) (x3 : BitVec 4) {w : BitVec 32} (h : x0 ++ x1 ++ x2 ++ x3 = w) :
    w.extractLsb' 25 7 = x0 ∧ w.extractLsb' 24 1 = x1 ∧ w.extractLsb' 4 20 = x2 ∧ w.extractLsb' 0 4 = x3 := by
  subst h
  refine ⟨?_, ?_, ?_, ?_⟩
  · rw [ext_hi, ext_hi, ext_hi, ext_all] <;> omega
  · rw [ext_hi, ext_hi, ext_lo, ext_all] <;> omega
  · rw [ext_hi, ext_lo, ext_all] <;> omega
  · rw [ext_lo, ext_all]; omega

theorem fields_24 (x0 : BitVec 7) (x1 : BitVec 3) (x2 : BitVec 3) (x3 : BitVec 2) (x4 : BitVec 2) (x5 : BitVec 3) (x6 : BitVec 4) (x7 : BitVec 8) {w : BitVec 32} (h : x0 ++ x1 ++ x2 ++ x3 ++ x4 ++ x5 ++ x6 ++ x7 = w) :
    w.extractLsb' 25 7 = x0 ∧ w.extractLsb' 22 3 = x1 ∧ w.extractLsb' 19 3 = x2 ∧ w.extractLsb' 17 2 = x3 ∧ w.extractLsb' 15 2 = x4 ∧ w.extractLsb' 12 3 = x5 ∧ w.extractLsb' 8 4 = x6 ∧ w.extractLsb' 0 8 = x7 := by
  subst h
  and_intros
  · rw [ext_hi, ext_hi, ext_hi, ext_hi, ext_hi, ext_hi, ext_hi, ext_all] <;> omega
  · rw [ext_hi, ext_hi, ext_hi, ext_hi, ext_hi, ext_hi, ext_lo, ext_all] <;> omega
  · rw [ext_hi, ext_hi, ext_hi, ext_hi, ext_hi, ext_lo, ext_all] <;> omega
  · rw [ext_hi, ext_hi, ext_hi, ext_hi, ext_lo, ext_all] <;> omega
  · rw [ext_hi, ext_hi, ext_hi, ext_lo, ext_all] <;> omega
  · rw [ext_hi, ext_hi, ext_lo, ext_all] <;> omega
  · rw [ext_hi, ext_lo, ext_all] <;> omega
  · rw [ext_lo, ext_all]; omega

theorem raw_add (s : BitVec 3) (d : BitVec 5) (a : BitVec 5) (b : BitVec 5) :
    rawDecode (1#7 ++ s ++ d ++ a ++ b ++ 0#7) = .ok (.inl (.add s d a b)) := by
  generalize hw : (1#7 ++ s ++ d ++ a ++ b ++ 0#7) = wd
  obtain ⟨h0, f0, f1, f2, f3, h1⟩ := fields_0 _ _ _ _ _ _ hw
  have e : rawDecode wd = .ok (.inl (.add (wd.extractLsb' 22 3) (wd.extractLsb' 17 5) (wd.extractLsb' 12 5) (wd.extractLsb' 7 5))) := by
    unfold rawDecode decodeMajor01
    rw [h0, h1]
    rfl
  rw [e, f0, f1, f2, f3]

theorem raw_sub (s : BitVec 3) (d : BitVec 5) (a : BitVec 5) (b : BitVec 5) :
    rawDecode (1#7 ++ s ++ d ++ a ++ b ++ 1#7) = .ok (.inl (.sub s d a b)) := by
  generalize hw : (1#7 ++ s ++ d ++ a ++ b ++ 1#7) = wd
  obtain ⟨h0, f0, f1, f2, f3, h1⟩ := fields_0 _ _ _ _ _ _ hw
  have e : rawDecode wd = .ok (.inl (.sub (wd.extractLsb' 22 3) (wd.extractLsb' 17 5) (wd.extractLsb' 12 5) (wd.extractLsb' 7 5))) := by
    unfold rawDecode decodeMajor01
    rw [h0, h1]
    rfl
  rw [e, f0, f1, f2, f3]

theorem raw_and (s : BitVec 3) (d : BitVec 5) (a : BitVec 5) (b : BitVec 5) :
    rawDecode (1#7 ++ s ++ d ++ a ++ b ++ 2#7) = .ok (.inl (.and s d a b)) := by
  generalize hw : (1#7 ++ s ++ d ++ a ++ b ++ 2#7) = wd
  obtain ⟨h0, f0, f1, f2, f3, h1⟩ := fields_0 _ _ _ _ _ _ hw
  have e : rawDecode wd = .ok (.inl (.and (wd.extractLsb' 22 3) (wd.extractLsb' 17 5) (wd.extractLsb' 12 5) (wd.extractLsb' 7 5))) := by
    unfold rawDecode decodeMajor01
    rw [h0, h1]
    rfl
  rw [e, f0, f1, f2, f3]

theorem raw_or (s : BitVec 3) (d : BitVec 5) (a : BitVec 5) (b : BitVec 5) :
    rawDecode (1#7 ++ s ++ d ++ a ++ b ++ 3#7) = .ok (.inl (.or s d a b)) := by
  generalize hw : (1#7 ++ s ++ d ++ a ++ b ++ 3#7) = wd
  obtain ⟨h0, f0, f1, f2, f3, h1⟩ := fields_0 _ _ _ _ _ _ hw
  have e : rawDecode wd = .ok (.inl (.or (wd.extractLsb' 22 3) (wd.extractLsb' 17 5) (wd.extractLsb' 12 5) (wd.extractLsb' 7 5))) := by
    unfold rawDecode decodeMajor01
    rw [h0, h1]
    rfl
  rw [e, f0, f1, f2, f3]

theorem raw_xor (s : BitVec 3) (d : BitVec 5) (a : BitVec 5) (b : BitVec 5) :
    rawDecode (1#7 ++ s ++ d ++ a ++ b ++ 4#7) = .ok (.inl (.xor s d a b)) := by
  generalize hw : (1#7 ++ s ++ d ++ a ++ b ++ 4#7) = wd
  obtain ⟨h0, f0, f1, f2, f3, h1⟩ := fields_0 _ _ _ _ _ _ hw
  have e : rawDecode wd = .ok (.inl (.xor (wd.extractLsb' 22 3) (wd.extractLsb' 17 5) (wd.extractLsb' 12 5) (wd.extractLsb' 7 5))) := by
    unfold rawDecode decodeMajor01
    rw [h0, h1]
    rfl
  rw [e, f0, f1, f2, f3]

theorem raw_shl (s : BitVec 3) (d : BitVec 5) (a : BitVec 5) (b : BitVec 5) :
    rawDecode (1#7 ++ s ++ d ++ a ++ b ++ 5#7) = .ok (.inl (.shl s d a b)) := by
  generalize hw : (1#7 ++ s ++ d ++ a ++ b ++ 5#7) = wd
  obtain ⟨h0, f0, f1, f2, f3, h1⟩ := fields_0 _ _ _ _ _ _ hw
  have e : rawDecode wd = .ok (.inl (.shl (wd.extractLsb' 22 3) (wd.extractLsb' 17 5) (wd.extractLsb' 12 5) (wd.extractLsb' 7 5))) := by
    unfold rawDecode decodeMajor01
    rw [h0, h1]
    rfl
  rw [e, f0, f1, f2, f3]

theorem raw_shr (s : BitVec 3) (d : BitVec 5) (a : BitVec 5) (b : BitVec 5) :
    rawDecode (1#7 ++ s ++ d ++ a ++ b ++ 6#7) = .ok (.inl (.shr s d a b)) := by
  generalize hw : (1#7 ++ s ++ d ++ a ++ b ++ 6#7) = wd
  obtain ⟨h0, f0, f1, f2, f3, h1⟩ := fields_0 _ _ _ _ _ _ hw
  have e : rawDecode wd = .ok (.inl (.shr (wd.extractLsb' 22 3) (wd.extractLsb' 17 5) (wd.extractLsb' 12 5) (wd.extractLsb' 7 5))) := by
    unfold rawDecode decodeMajor01
    rw [h0, h1]
    rfl
  rw [e, f0, f1, f2, f3]

theorem raw_sar (s : BitVec 3) (d : BitVec 5) (a : BitVec 5) (b : BitVec 5) :
    rawDecode (1#7 ++ s ++ d ++ a ++ b ++ 7#7) = .ok (.inl (.sar s d a b)) := by
  generalize hw : (1#7 ++ s ++ d ++ a ++ b ++ 7#7) = wd
  obtain ⟨h0, f0, f1, f2, f3, h1⟩ := fields_0 _ _ _ _ _ _ hw
  have e : rawDecode wd = .ok (.inl (.sar (wd.extractLsb' 22 3) (wd.extractLsb' 17 5) (wd.extractLsb' 12 5) (wd.extractLsb' 7 5))) := by
    unfold rawDecode decodeMajor01
    rw [h0, h1]
    rfl
  rw [e, f0, f1, f2, f3]

theorem raw_min (s : BitVec 3) (d : BitVec 5) (a : BitVec 5) (b : BitVec 5) :
    rawDecode (1#7 ++ s ++ d ++ a ++ b ++ 8#7) = .ok (.inl (.min s d a b)) := by
  generalize hw : (1#7 ++ s ++ d ++ a ++ b ++ 8#7) = wd
  obtain ⟨h0, f0, f1, f2, f3, h1⟩ := fields_0 _ _ _ _ _ _ hw
  have e : rawDecode wd = .ok (.inl (.min (wd.extractLsb' 22 3) (wd.extractLsb' 17 5) (wd.extractLsb' 12 5) (wd.extractLsb' 7 5))) := by
    unfold rawDecode decodeMajor01
    rw [h0, h1]
    rfl
  rw [e, f0, f1, f2, f3]

theorem raw_minN (s : BitVec 3) (d : BitVec 5) (a : BitVec 5) (b : BitVec 5) :
    rawDecode (1#7 ++ s ++ d ++ a ++ b ++ 9#7) = .ok (.inl (.minN s d a b)) := by
  generalize hw : (1#7 ++ s ++ d ++ a ++ b ++ 9#7) = wd
  obtain ⟨h0, f0, f1, f2, f3, h1⟩ := fields_0 _ _ _ _ _ _ hw
  have e : rawDecode wd = .ok (.inl (.minN (wd.extractLsb' 22 3) (wd.extractLsb' 17 5) (wd.extractLsb' 12 5) (wd.extractLsb' 7 5))) := by
    unfold rawDecode decodeMajor01
    rw [h0, h1]
    rfl
  rw [e, f0, f1, f2, f3]

theorem raw_max (s : BitVec 3) (d : BitVec 5) (a : BitVec 5) (b : BitVec 5) :
    rawDecode (1#7 ++ s ++ d ++ a ++ b ++ 10#7) = .ok (.inl (.max s d a b)) := by
  generalize hw : (1#7 ++ s ++ d ++ a ++ b ++ 10#7) = wd
  obtain ⟨h0, f0, f1, f2, f3, h1⟩ := fields_0 _ _ _ _ _ _ hw
  have e : rawDecode wd = .ok (.inl (.max (wd.extractLsb' 22 3) (wd.extractLsb' 17 5) (wd.extractLsb' 12 5) (wd.extractLsb' 7 5))) := by
    unfold rawDecode decodeMajor01
    rw [h0, h1]
    rfl
  rw [e, f0, f1, f2, f3]

theorem raw_maxN (s : BitVec 3) (d : BitVec 5) (a : BitVec 5) (b : BitVec 5) :
    rawDecode (1#7 ++ s ++ d ++ a ++ b ++ 11#7) = .ok (.inl (.maxN s d a b)) := by
  generalize hw : (1#7 ++ s ++ d ++ a ++ b ++ 11#7) = wd
  obtain ⟨h0, f0, f1, f2, f3, h1⟩ := fields_0 _ _ _ _ _ _ hw
  have e : rawDecode wd = .ok (.inl (.maxN (wd.extractLsb' 22 3) (wd.extractLsb' 17 5) (wd.extractLsb' 12 5) (wd.extractLsb' 7 5))) := by
    unfold rawDecode decodeMajor01
    rw [h0, h1]
    rfl
  rw [e, f0, f1, f2, f3]

theorem raw_leaB (s : BitVec 3) (d : BitVec 5) (a : BitVec 5) (b : BitVec 5) :
    rawDecode (1#7 ++ s ++ d ++ a ++ b ++ 12#7) = .ok (.inl (.leaB s d a b)) := by
  generalize hw : (1#7 ++ s ++ d ++ a ++ b ++ 12#7) = wd
  obtain ⟨h0, f0, f1, f2, f3, h1⟩ := fields_0 _ _ _ _ _ _ hw
  have e : rawDecode wd = .ok (.inl (.leaB (wd.extractLsb' 22 3) (wd.extractLsb' 17 5) (wd.extractLsb' 12 5) (wd.extractLsb' 7 5))) := by
    unfold rawDecode decodeMajor01
    rw [h0, h1]
    rfl
  rw [e, f0, f1, f2, f3]

theorem raw_leaH (s : BitVec 3) (d : BitVec 5) (a : BitVec 5) (b : BitVec 5) :
    rawDecode (1#7 ++ s ++ d ++ a ++ b ++ 13#7) = .ok (.inl (.leaH s d a b)) := by
  generalize hw : (1#7 ++ s ++ d ++ a ++ b ++ 13#7) = wd
  obtain ⟨h0, f0, f1, f2, f3, h1⟩ := fields_0 _ _ _ _ _ _ hw
  have e : rawDecode wd = .ok (.inl (.leaH (wd.extractLsb' 22 3) (wd.extractLsb' 17 5) (wd.extractLsb' 12 5) (wd.extractLsb' 7 5))) := by
    unfold rawDecode decodeMajor01
    rw [h0, h1]
    rfl
  rw [e, f0, f1, f2, f3]

theorem raw_leaW (s : BitVec 3) (d : BitVec 5) (a : BitVec 5) (b : BitVec 5) :
    rawDecode (1#7 ++ s ++ d ++ a ++ b ++ 14#7) = .ok (.inl (.leaW s d a b)) := by
  generalize hw : (1#7 ++ s ++ d ++ a ++ b ++ 14#7) = wd
  obtain ⟨h0, f0, f1, f2, f3, h1⟩ := fields_0 _ _ _ _ _ _ hw
  have e : rawDecode wd = .ok (.inl (.leaW (wd.extractLsb' 22 3) (wd.extractLsb' 17 5) (wd.extractLsb' 12 5) (wd.extractLsb' 7 5))) := by
    unfold rawDecode decodeMajor01
    rw [h0, h1]
    rfl
  rw [e, f0, f1, f2, f3]

theorem raw_leaD (s : BitVec 3) (d : BitVec 5) (a : BitVec 5) (b : BitVec 5) :
    rawDecode (1#7 ++ s ++ d ++ a ++ b ++ 15#7) = .ok (.inl (.leaD s d a b)) := by
  generalize hw : (1#7 ++ s ++ d ++ a ++ b ++ 15#7) = wd
  obtain ⟨h0, f0, f1, f2, f3, h1⟩ := fields_0 _ _ _ _ _ _ hw
  have e : rawDecode wd = .ok (.inl (.leaD (wd.extractLsb' 22 3) (wd.extractLsb' 17 5) (wd.extractLsb' 12 5) (wd.extractLsb' 7 5))) := by
    unfold rawDecode decodeMajor01
    rw [h0, h1]
    rfl
  rw [e, f0, f1, f2, f3]

theorem raw_popc (s : BitVec 3) (d : BitVec 5) (a : BitVec 5) (b : BitVec 5) :
    rawDecode (1#7 ++ s ++ d ++ a ++ b ++ 16#7) = .ok (.inl (.popc s d a b)) := by
  generalize hw : (1#7 ++ s ++ d ++ a ++ b ++ 16#7) = wd
  obtain ⟨h0, f0, f1, f2, f3, h1⟩ := fields_0 _ _ _ _ _ _ hw
  have e : rawDecode wd = .ok (.inl (.popc (wd.extractLsb' 22 3) (wd.extractLsb' 17 5) (wd.extractLsb' 12 5) (wd.extractLsb' 7 5))) := by
    unfold rawDecode decodeMajor01
    rw [h0, h1]
    rfl
  rw [e, f0, f1, f2, f3]

theorem raw_clz (s : BitVec 3) (d : BitVec 5) (a : BitVec 5) (b : BitVec 5) :
    rawDecode (1#7 ++ s ++ d ++ a ++ b ++ 17#7) = .ok (.inl (.clz s d a b)) := by
  generalize hw : (1#7 ++ s ++ d ++ a ++ b ++ 17#7) = wd
  obtain ⟨h0, f0, f1, f2, f3, h1⟩ := fields_0 _ _ _ _ _ _ hw
  have e : rawDecode wd = .ok (.inl (.clz (wd.extractLsb' 22 3) (wd.extractLsb' 17 5) (wd.extractLsb' 12 5) (wd.extractLsb' 7 5))) := by
    unfold rawDecode decodeMajor01
    rw [h0, h1]
    rfl
  rw [e, f0, f1, f2, f3]

theorem raw_ctz (s : BitVec 3) (d : BitVec 5) (a : BitVec 5) (b : BitVec 5) :
    rawDecode (1#7 ++ s ++ d ++ a ++ b ++ 18#7) = .ok (.inl (.ctz s d a b)) := by
  generalize hw : (1#7 ++ s ++ d ++ a ++ b ++ 18#7) = wd
  obtain ⟨h0, f0, f1, f2, f3, h1⟩ := fields_0 _ _ _ _ _ _ hw
  have e : rawDecode wd = .ok (.inl (.ctz (wd.extractLsb' 22 3) (wd.extractLsb' 17 5) (wd.extractLsb' 12 5) (wd.extractLsb' 7 5))) := by
    unfold rawDecode decodeMajor01
    rw [h0, h1]
    rfl
  rw [e, f0, f1, f2, f3]

theorem raw_brev (s : BitVec 3) (d : BitVec 5) (a : BitVec 5) (b : BitVec 5) :
    rawDecode (1#7 ++ s ++ d ++ a ++ b ++ 19#7) = .ok (.inl (.brev s d a b)) := by
  generalize hw : (1#7 ++ s ++ d ++ a ++ b ++ 19#7) = wd
  obtain ⟨h0, f0, f1, f2, f3, h1⟩ := fields_0 _ _ _ _ _ _ hw
  have e : rawDecode wd = .ok (.inl (.brev (wd.extractLsb' 22 3) (wd.extractLsb' 17 5) (wd.extractLsb' 12 5) (wd.extractLsb' 7 5))) := by
    unfold rawDecode decodeMajor01
    rw [h0, h1]
    rfl
  rw [e, f0, f1, f2, f3]

theorem raw_bext (s : BitVec 3) (d : BitVec 5) (a : BitVec 5) (b : BitVec 5) :
    rawDecode (1#7 ++ s ++ d ++ a ++ b ++ 20#7) = .ok (.inl (.bext s d a b)) := by
  generalize hw : (1#7 ++ s ++ d ++ a ++ b ++ 20#7) = wd
  obtain ⟨h0, f0, f1, f2, f3, h1⟩ := fields_0 _ _ _ _ _ _ hw
  have e : rawDecode wd = .ok (.inl (.bext (wd.extractLsb' 22 3) (wd.extractLsb' 17 5) (wd.extractLsb' 12 5) (wd.extractLsb' 7 5))) := by
    unfold rawDecode decodeMajor01
    rw [h0, h1]
    rfl
  rw [e, f0, f1, f2, f3]

theorem raw_bins (s : BitVec 3) (d : BitVec 5) (a : BitVec 5) (b : BitVec 5) :
    rawDecode (1#7 ++ s ++ d ++ a ++ b ++ 21#7) = .ok (.inl (.bins s d a b)) := by
  generalize hw : (1#7 ++ s ++ d ++ a ++ b ++ 21#7) = wd
  obtain ⟨h0, f0, f1, f2, f3, h1⟩ := fields_0 _ _ _ _ _ _ hw
  have e : rawDecode wd = .ok (.inl (.bins (wd.extractLsb' 22 3) (wd.extractLsb' 17 5) (wd.extractLsb' 12 5) (wd.extractLsb' 7 5))) := by
    unfold rawDecode decodeMajor01
    rw [h0, h1]
    rfl
  rw [e, f0, f1, f2, f3]

theorem raw_sel (s : BitVec 3) (d : BitVec 5) (a : BitVec 5) (b : BitVec 5) :
    rawDecode (1#7 ++ s ++ d ++ a ++ b ++ 22#7) = .ok (.inl (.sel s d a b)) := by
  generalize hw : (1#7 ++ s ++ d ++ a ++ b ++ 22#7) = wd
  obtain ⟨h0, f0, f1, f2, f3, h1⟩ := fields_0 _ _ _ _ _ _ hw
  have e : rawDecode wd = .ok (.inl (.sel (wd.extractLsb' 22 3) (wd.extractLsb' 17 5) (wd.extractLsb' 12 5) (wd.extractLsb' 7 5))) := by
    unfold rawDecode decodeMajor01
    rw [h0, h1]
    rfl
  rw [e, f0, f1, f2, f3]

theorem raw_cmpEq (s : BitVec 3) (x : BitVec 2) (k : BitVec 3) (a : BitVec 5) (b : BitVec 5) :
    rawDecode (1#7 ++ s ++ x ++ k ++ a ++ b ++ 24#7) = .ok (.inl (.cmpEq s x k a b)) := by
  generalize hw : (1#7 ++ s ++ x ++ k ++ a ++ b ++ 24#7) = wd
  obtain ⟨h0, f0, f1, f2, f3, f4, h1⟩ := fields_1 _ _ _ _ _ _ _ hw
  have e : rawDecode wd = .ok (.inl (.cmpEq (wd.extractLsb' 22 3) (wd.extractLsb' 20 2) (wd.extractLsb' 17 3) (wd.extractLsb' 12 5) (wd.extractLsb' 7 5))) := by
    unfold rawDecode decodeMajor01
    rw [h0, h1]
    rfl
  rw [e, f0, f1, f2, f3, f4]

theorem raw_cmpNe (s : BitVec 3) (x : BitVec 2) (k : BitVec 3) (a : BitVec 5) (b : BitVec 5) :
    rawDecode (1#7 ++ s ++ x ++ k ++ a ++ b ++ 25#7) = .ok (.inl (.cmpNe s x k a b)) := by
  generalize hw : (1#7 ++ s ++ x ++ k ++ a ++ b ++ 25#7) = wd
  obtain ⟨h0, f0, f1, f2, f3, f4, h1⟩ := fields_1 _ _ _ _ _ _ _ hw
  have e : rawDecode wd = .ok (.inl (.cmpNe (wd.extractLsb' 22 3) (wd.extractLsb' 20 2) (wd.extractLsb' 17 3) (wd.extractLsb' 12 5) (wd.extractLsb' 7 5))) := by
    unfold rawDecode decodeMajor01
    rw [h0, h1]
    rfl
  rw [e, f0, f1, f2, f3, f4]

theorem raw_cmpLt (s : BitVec 3) (x : BitVec 2) (k : BitVec 3) (a : BitVec 5) (b : BitVec 5) :
    rawDecode (1#7 ++ s ++ x ++ k ++ a ++ b ++ 26#7) = .ok (.inl (.cmpLt s x k a b)) := by
  generalize hw : (1#7 ++ s ++ x ++ k ++ a ++ b ++ 26#7) = wd
  obtain ⟨h0, f0, f1, f2, f3, f4, h1⟩ := fields_1 _ _ _ _ _ _ _ hw
  have e : rawDecode wd = .ok (.inl (.cmpLt (wd.extractLsb' 22 3) (wd.extractLsb' 20 2) (wd.extractLsb' 17 3) (wd.extractLsb' 12 5) (wd.extractLsb' 7 5))) := by
    unfold rawDecode decodeMajor01
    rw [h0, h1]
    rfl
  rw [e, f0, f1, f2, f3, f4]

theorem raw_cmpLe (s : BitVec 3) (x : BitVec 2) (k : BitVec 3) (a : BitVec 5) (b : BitVec 5) :
    rawDecode (1#7 ++ s ++ x ++ k ++ a ++ b ++ 27#7) = .ok (.inl (.cmpLe s x k a b)) := by
  generalize hw : (1#7 ++ s ++ x ++ k ++ a ++ b ++ 27#7) = wd
  obtain ⟨h0, f0, f1, f2, f3, f4, h1⟩ := fields_1 _ _ _ _ _ _ _ hw
  have e : rawDecode wd = .ok (.inl (.cmpLe (wd.extractLsb' 22 3) (wd.extractLsb' 20 2) (wd.extractLsb' 17 3) (wd.extractLsb' 12 5) (wd.extractLsb' 7 5))) := by
    unfold rawDecode decodeMajor01
    rw [h0, h1]
    rfl
  rw [e, f0, f1, f2, f3, f4]

theorem raw_cmpLtn (s : BitVec 3) (x : BitVec 2) (k : BitVec 3) (a : BitVec 5) (b : BitVec 5) :
    rawDecode (1#7 ++ s ++ x ++ k ++ a ++ b ++ 28#7) = .ok (.inl (.cmpLtn s x k a b)) := by
  generalize hw : (1#7 ++ s ++ x ++ k ++ a ++ b ++ 28#7) = wd
  obtain ⟨h0, f0, f1, f2, f3, f4, h1⟩ := fields_1 _ _ _ _ _ _ _ hw
  have e : rawDecode wd = .ok (.inl (.cmpLtn (wd.extractLsb' 22 3) (wd.extractLsb' 20 2) (wd.extractLsb' 17 3) (wd.extractLsb' 12 5) (wd.extractLsb' 7 5))) := by
    unfold rawDecode decodeMajor01
    rw [h0, h1]
    rfl
  rw [e, f0, f1, f2, f3, f4]

theorem raw_cmpLen (s : BitVec 3) (x : BitVec 2) (k : BitVec 3) (a : BitVec 5) (b : BitVec 5) :
    rawDecode (1#7 ++ s ++ x ++ k ++ a ++ b ++ 29#7) = .ok (.inl (.cmpLen s x k a b)) := by
  generalize hw : (1#7 ++ s ++ x ++ k ++ a ++ b ++ 29#7) = wd
  obtain ⟨h0, f0, f1, f2, f3, f4, h1⟩ := fields_1 _ _ _ _ _ _ _ hw
  have e : rawDecode wd = .ok (.inl (.cmpLen (wd.extractLsb' 22 3) (wd.extractLsb' 20 2) (wd.extractLsb' 17 3) (wd.extractLsb' 12 5) (wd.extractLsb' 7 5))) := by
    unfold rawDecode decodeMajor01
    rw [h0, h1]
    rfl
  rw [e, f0, f1, f2, f3, f4]

theorem raw_mul (s : BitVec 3) (d : BitVec 5) (a : BitVec 5) (b : BitVec 5) :
    rawDecode (2#7 ++ s ++ d ++ a ++ b ++ 0#7) = .ok (.inl (.mul s d a b)) := by
  generalize hw : (2#7 ++ s ++ d ++ a ++ b ++ 0#7) = wd
  obtain ⟨h0, f0, f1, f2, f3, h1⟩ := fields_0 _ _ _ _ _ _ hw
  have e : rawDecode wd = .ok (.inl (.mul (wd.extractLsb' 22 3) (wd.extractLsb' 17 5) (wd.extractLsb' 12 5) (wd.extractLsb' 7 5))) := by
    unfold rawDecode decodeMajor02
    rw [h0, h1]
    rfl
  rw [e, f0, f1, f2, f3]

theorem raw_mulh (s : BitVec 3) (d : BitVec 5) (a : BitVec 5) (b : BitVec 5) :
    rawDecode (2#7 ++ s ++ d ++ a ++ b ++ 1#7) = .ok (.inl (.mulh s d a b)) := by
  generalize hw : (2#7 ++ s ++ d ++ a ++ b ++ 1#7) = wd
  obtain ⟨h0, f0, f1, f2, f3, h1⟩ := fields_0 _ _ _ _ _ _ hw
  have e : rawDecode wd = .ok (.inl (.mulh (wd.extractLsb' 22 3) (wd.extractLsb' 17 5) (wd.extractLsb' 12 5) (wd.extractLsb' 7 5))) := by
    unfold rawDecode decodeMajor02
    rw [h0, h1]
    rfl
  rw [e, f0, f1, f2, f3]

theorem raw_mulhN (s : BitVec 3) (d : BitVec 5) (a : BitVec 5) (b : BitVec 5) :
    rawDecode (2#7 ++ s ++ d ++ a ++ b ++ 2#7) = .ok (.inl (.mulhN s d a b)) := by
  generalize hw : (2#7 ++ s ++ d ++ a ++ b ++ 2#7) = wd
  obtain ⟨h0, f0, f1, f2, f3, h1⟩ := fields_0 _ _ _ _ _ _ hw
  have e : rawDecode wd = .ok (.inl (.mulhN (wd.extractLsb' 22 3) (wd.extractLsb' 17 5) (wd.extractLsb' 12 5) (wd.extractLsb' 7 5))) := by
    unfold rawDecode decodeMajor02
    rw [h0, h1]
    rfl
  rw [e, f0, f1, f2, f3]

theorem raw_div (s : BitVec 3) (d : BitVec 5) (a : BitVec 5) (b : BitVec 5) :
    rawDecode (2#7 ++ s ++ d ++ a ++ b ++ 4#7) = .ok (.inl (.div s d a b)) := by
  generalize hw : (2#7 ++ s ++ d ++ a ++ b ++ 4#7) = wd
  obtain ⟨h0, f0, f1, f2, f3, h1⟩ := fields_0 _ _ _ _ _ _ hw
  have e : rawDecode wd = .ok (.inl (.div (wd.extractLsb' 22 3) (wd.extractLsb' 17 5) (wd.extractLsb' 12 5) (wd.extractLsb' 7 5))) := by
    unfold rawDecode decodeMajor02
    rw [h0, h1]
    rfl
  rw [e, f0, f1, f2, f3]

theorem raw_divN (s : BitVec 3) (d : BitVec 5) (a : BitVec 5) (b : BitVec 5) :
    rawDecode (2#7 ++ s ++ d ++ a ++ b ++ 5#7) = .ok (.inl (.divN s d a b)) := by
  generalize hw : (2#7 ++ s ++ d ++ a ++ b ++ 5#7) = wd
  obtain ⟨h0, f0, f1, f2, f3, h1⟩ := fields_0 _ _ _ _ _ _ hw
  have e : rawDecode wd = .ok (.inl (.divN (wd.extractLsb' 22 3) (wd.extractLsb' 17 5) (wd.extractLsb' 12 5) (wd.extractLsb' 7 5))) := by
    unfold rawDecode decodeMajor02
    rw [h0, h1]
    rfl
  rw [e, f0, f1, f2, f3]

theorem raw_rem (s : BitVec 3) (d : BitVec 5) (a : BitVec 5) (b : BitVec 5) :
    rawDecode (2#7 ++ s ++ d ++ a ++ b ++ 6#7) = .ok (.inl (.rem s d a b)) := by
  generalize hw : (2#7 ++ s ++ d ++ a ++ b ++ 6#7) = wd
  obtain ⟨h0, f0, f1, f2, f3, h1⟩ := fields_0 _ _ _ _ _ _ hw
  have e : rawDecode wd = .ok (.inl (.rem (wd.extractLsb' 22 3) (wd.extractLsb' 17 5) (wd.extractLsb' 12 5) (wd.extractLsb' 7 5))) := by
    unfold rawDecode decodeMajor02
    rw [h0, h1]
    rfl
  rw [e, f0, f1, f2, f3]

theorem raw_remN (s : BitVec 3) (d : BitVec 5) (a : BitVec 5) (b : BitVec 5) :
    rawDecode (2#7 ++ s ++ d ++ a ++ b ++ 7#7) = .ok (.inl (.remN s d a b)) := by
  generalize hw : (2#7 ++ s ++ d ++ a ++ b ++ 7#7) = wd
  obtain ⟨h0, f0, f1, f2, f3, h1⟩ := fields_0 _ _ _ _ _ _ hw
  have e : rawDecode wd = .ok (.inl (.remN (wd.extractLsb' 22 3) (wd.extractLsb' 17 5) (wd.extractLsb' 12 5) (wd.extractLsb' 7 5))) := by
    unfold rawDecode decodeMajor02
    rw [h0, h1]
    rfl
  rw [e, f0, f1, f2, f3]

theorem raw_addi (s : BitVec 3) (d : BitVec 5) (a : BitVec 5) (i : BitVec 12) :
    rawDecode (3#7 ++ s ++ d ++ a ++ i) = .ok (.inl (.addi s d a i)) := by
  generalize hw : (3#7 ++ s ++ d ++ a ++ i) = wd
  obtain ⟨h0, f0, f1, f2, f3⟩ := fields_2 _ _ _ _ _ hw
  have e : rawDecode wd = .ok (.inl (.addi (wd.extractLsb' 22 3) (wd.extractLsb' 17 5) (wd.extractLsb' 12 5) (wd.extractLsb' 0 12))) := by
    unfold rawDecode
    rw [h0]
    rfl
  rw [e, f0, f1, f2, f3]

theorem raw_andi (s : BitVec 3) (d : BitVec 5) (a : BitVec 5) (i : BitVec 12) :
    rawDecode (4#7 ++ s ++ d ++ a ++ i) = .ok (.inl (.andi s d a i)) := by
  generalize hw : (4#7 ++ s ++ d ++ a ++ i) = wd
  obtain ⟨h0, f0, f1, f2, f3⟩ := fields_2 _ _ _ _ _ hw
  have e : rawDecode wd = .ok (.inl (.andi (wd.extractLsb' 22 3) (wd.extractLsb' 17 5) (wd.extractLsb' 12 5) (wd.extractLsb' 0 12))) := by
    unfold rawDecode
    rw [h0]
    rfl
  rw [e, f0, f1, f2, f3]

theorem raw_ori (s : BitVec 3) (d : BitVec 5) (a : BitVec 5) (i : BitVec 12) :
    rawDecode (5#7 ++ s ++ d ++ a ++ i) = .ok (.inl (.ori s d a i)) := by
  generalize hw : (5#7 ++ s ++ d ++ a ++ i) = wd
  obtain ⟨h0, f0, f1, f2, f3⟩ := fields_2 _ _ _ _ _ hw
  have e : rawDecode wd = .ok (.inl (.ori (wd.extractLsb' 22 3) (wd.extractLsb' 17 5) (wd.extractLsb' 12 5) (wd.extractLsb' 0 12))) := by
    unfold rawDecode
    rw [h0]
    rfl
  rw [e, f0, f1, f2, f3]

theorem raw_xori (s : BitVec 3) (d : BitVec 5) (a : BitVec 5) (i : BitVec 12) :
    rawDecode (6#7 ++ s ++ d ++ a ++ i) = .ok (.inl (.xori s d a i)) := by
  generalize hw : (6#7 ++ s ++ d ++ a ++ i) = wd
  obtain ⟨h0, f0, f1, f2, f3⟩ := fields_2 _ _ _ _ _ hw
  have e : rawDecode wd = .ok (.inl (.xori (wd.extractLsb' 22 3) (wd.extractLsb' 17 5) (wd.extractLsb' 12 5) (wd.extractLsb' 0 12))) := by
    unfold rawDecode
    rw [h0]
    rfl
  rw [e, f0, f1, f2, f3]

theorem raw_shli (s : BitVec 3) (d : BitVec 5) (a : BitVec 5) (i : BitVec 12) :
    rawDecode (7#7 ++ s ++ d ++ a ++ i) = .ok (.inl (.shli s d a i)) := by
  generalize hw : (7#7 ++ s ++ d ++ a ++ i) = wd
  obtain ⟨h0, f0, f1, f2, f3⟩ := fields_2 _ _ _ _ _ hw
  have e : rawDecode wd = .ok (.inl (.shli (wd.extractLsb' 22 3) (wd.extractLsb' 17 5) (wd.extractLsb' 12 5) (wd.extractLsb' 0 12))) := by
    unfold rawDecode
    rw [h0]
    rfl
  rw [e, f0, f1, f2, f3]

theorem raw_shri (s : BitVec 3) (d : BitVec 5) (a : BitVec 5) (i : BitVec 12) :
    rawDecode (8#7 ++ s ++ d ++ a ++ i) = .ok (.inl (.shri s d a i)) := by
  generalize hw : (8#7 ++ s ++ d ++ a ++ i) = wd
  obtain ⟨h0, f0, f1, f2, f3⟩ := fields_2 _ _ _ _ _ hw
  have e : rawDecode wd = .ok (.inl (.shri (wd.extractLsb' 22 3) (wd.extractLsb' 17 5) (wd.extractLsb' 12 5) (wd.extractLsb' 0 12))) := by
    unfold rawDecode
    rw [h0]
    rfl
  rw [e, f0, f1, f2, f3]

theorem raw_sari (s : BitVec 3) (d : BitVec 5) (a : BitVec 5) (i : BitVec 12) :
    rawDecode (9#7 ++ s ++ d ++ a ++ i) = .ok (.inl (.sari s d a i)) := by
  generalize hw : (9#7 ++ s ++ d ++ a ++ i) = wd
  obtain ⟨h0, f0, f1, f2, f3⟩ := fields_2 _ _ _ _ _ hw
  have e : rawDecode wd = .ok (.inl (.sari (wd.extractLsb' 22 3) (wd.extractLsb' 17 5) (wd.extractLsb' 12 5) (wd.extractLsb' 0 12))) := by
    unfold rawDecode
    rw [h0]
    rfl
  rw [e, f0, f1, f2, f3]

theorem raw_cmpiEq (s : BitVec 3) (k : BitVec 3) (a : BitVec 5) (i : BitVec 12) :
    rawDecode (10#7 ++ s ++ 0#2 ++ k ++ a ++ i) = .ok (.inl (.cmpiEq s k a i)) := by
  generalize hw : (10#7 ++ s ++ 0#2 ++ k ++ a ++ i) = wd
  obtain ⟨h0, f0, h1, f1, f2, f3⟩ := fields_3 _ _ _ _ _ _ hw
  have e : rawDecode wd = .ok (.inl (.cmpiEq (wd.extractLsb' 22 3) (wd.extractLsb' 17 3) (wd.extractLsb' 12 5) (wd.extractLsb' 0 12))) := by
    unfold rawDecode decodeMajor0A
    rw [h0, h1]
    rfl
  rw [e, f0, f1, f2, f3]

theorem raw_cmpiNe (s : BitVec 3) (k : BitVec 3) (a : BitVec 5) (i : BitVec 12) :
    rawDecode (10#7 ++ s ++ 1#2 ++ k ++ a ++ i) = .ok (.inl (.cmpiNe s k a i)) := by
  generalize hw : (10#7 ++ s ++ 1#2 ++ k ++ a ++ i) = wd
  obtain ⟨h0, f0, h1, f1, f2, f3⟩ := fields_3 _ _ _ _ _ _ hw
  have e : rawDecode wd = .ok (.inl (.cmpiNe (wd.extractLsb' 22 3) (wd.extractLsb' 17 3) (wd.extractLsb' 12 5) (wd.extractLsb' 0 12))) := by
    unfold rawDecode decodeMajor0A
    rw [h0, h1]
    rfl
  rw [e, f0, f1, f2, f3]

theorem raw_cmpiLt (s : BitVec 3) (k : BitVec 3) (a : BitVec 5) (i : BitVec 12) :
    rawDecode (10#7 ++ s ++ 2#2 ++ k ++ a ++ i) = .ok (.inl (.cmpiLt s k a i)) := by
  generalize hw : (10#7 ++ s ++ 2#2 ++ k ++ a ++ i) = wd
  obtain ⟨h0, f0, h1, f1, f2, f3⟩ := fields_3 _ _ _ _ _ _ hw
  have e : rawDecode wd = .ok (.inl (.cmpiLt (wd.extractLsb' 22 3) (wd.extractLsb' 17 3) (wd.extractLsb' 12 5) (wd.extractLsb' 0 12))) := by
    unfold rawDecode decodeMajor0A
    rw [h0, h1]
    rfl
  rw [e, f0, f1, f2, f3]

theorem raw_cmpiLtn (s : BitVec 3) (k : BitVec 3) (a : BitVec 5) (i : BitVec 12) :
    rawDecode (10#7 ++ s ++ 3#2 ++ k ++ a ++ i) = .ok (.inl (.cmpiLtn s k a i)) := by
  generalize hw : (10#7 ++ s ++ 3#2 ++ k ++ a ++ i) = wd
  obtain ⟨h0, f0, h1, f1, f2, f3⟩ := fields_3 _ _ _ _ _ _ hw
  have e : rawDecode wd = .ok (.inl (.cmpiLtn (wd.extractLsb' 22 3) (wd.extractLsb' 17 3) (wd.extractLsb' 12 5) (wd.extractLsb' 0 12))) := by
    unfold rawDecode decodeMajor0A
    rw [h0, h1]
    rfl
  rw [e, f0, f1, f2, f3]

theorem raw_br (s : BitVec 3) (k : BitVec 3) (n : BitVec 1) (o : BitVec 18) :
    rawDecode (16#7 ++ s ++ k ++ n ++ o) = .ok (.inl (.br s k n o)) := by
  generalize hw : (16#7 ++ s ++ k ++ n ++ o) = wd
  obtain ⟨h0, f0, f1, f2, f3⟩ := fields_4 _ _ _ _ _ hw
  have e : rawDecode wd = .ok (.inl (.br (wd.extractLsb' 22 3) (wd.extractLsb' 19 3) (wd.extractLsb' 18 1) (wd.extractLsb' 0 18))) := by
    unfold rawDecode
    rw [h0]
    rfl
  rw [e, f0, f1, f2, f3]

theorem raw_jmp (s : BitVec 3) (o : BitVec 22) :
    rawDecode (17#7 ++ s ++ o) = .ok (.inl (.jmp s o)) := by
  generalize hw : (17#7 ++ s ++ o) = wd
  obtain ⟨h0, f0, f1⟩ := fields_5 _ _ _ hw
  have e : rawDecode wd = .ok (.inl (.jmp (wd.extractLsb' 22 3) (wd.extractLsb' 0 22))) := by
    unfold rawDecode
    rw [h0]
    rfl
  rw [e, f0, f1]

theorem raw_call (s : BitVec 3) (o : BitVec 22) :
    rawDecode (18#7 ++ s ++ o) = .ok (.inl (.call s o)) := by
  generalize hw : (18#7 ++ s ++ o) = wd
  obtain ⟨h0, f0, f1⟩ := fields_5 _ _ _ hw
  have e : rawDecode wd = .ok (.inl (.call (wd.extractLsb' 22 3) (wd.extractLsb' 0 22))) := by
    unfold rawDecode
    rw [h0]
    rfl
  rw [e, f0, f1]

theorem raw_jmpr (s : BitVec 3) (d : BitVec 5) (a : BitVec 5) (b : BitVec 5) :
    rawDecode (19#7 ++ s ++ d ++ a ++ b ++ 0#7) = .ok (.inl (.jmpr s d a b)) := by
  generalize hw : (19#7 ++ s ++ d ++ a ++ b ++ 0#7) = wd
  obtain ⟨h0, f0, f1, f2, f3, h1⟩ := fields_0 _ _ _ _ _ _ hw
  have e : rawDecode wd = .ok (.inl (.jmpr (wd.extractLsb' 22 3) (wd.extractLsb' 17 5) (wd.extractLsb' 12 5) (wd.extractLsb' 7 5))) := by
    unfold rawDecode decodeMajor13
    rw [h0, h1]
    rfl
  rw [e, f0, f1, f2, f3]

theorem raw_callr (s : BitVec 3) (d : BitVec 5) (a : BitVec 5) (b : BitVec 5) :
    rawDecode (19#7 ++ s ++ d ++ a ++ b ++ 1#7) = .ok (.inl (.callr s d a b)) := by
  generalize hw : (19#7 ++ s ++ d ++ a ++ b ++ 1#7) = wd
  obtain ⟨h0, f0, f1, f2, f3, h1⟩ := fields_0 _ _ _ _ _ _ hw
  have e : rawDecode wd = .ok (.inl (.callr (wd.extractLsb' 22 3) (wd.extractLsb' 17 5) (wd.extractLsb' 12 5) (wd.extractLsb' 7 5))) := by
    unfold rawDecode decodeMajor13
    rw [h0, h1]
    rfl
  rw [e, f0, f1, f2, f3]

theorem raw_eret (s : BitVec 3) (d : BitVec 5) (a : BitVec 5) (b : BitVec 5) :
    rawDecode (24#7 ++ s ++ d ++ a ++ b ++ 0#7) = .ok (.inl (.eret s d a b)) := by
  generalize hw : (24#7 ++ s ++ d ++ a ++ b ++ 0#7) = wd
  obtain ⟨h0, f0, f1, f2, f3, h1⟩ := fields_0 _ _ _ _ _ _ hw
  have e : rawDecode wd = .ok (.inl (.eret (wd.extractLsb' 22 3) (wd.extractLsb' 17 5) (wd.extractLsb' 12 5) (wd.extractLsb' 7 5))) := by
    unfold rawDecode decodeMajor18
    rw [h0, h1]
    rfl
  rw [e, f0, f1, f2, f3]

theorem raw_idle (s : BitVec 3) (d : BitVec 5) (a : BitVec 5) (b : BitVec 5) :
    rawDecode (24#7 ++ s ++ d ++ a ++ b ++ 1#7) = .ok (.inl (.idle s d a b)) := by
  generalize hw : (24#7 ++ s ++ d ++ a ++ b ++ 1#7) = wd
  obtain ⟨h0, f0, f1, f2, f3, h1⟩ := fields_0 _ _ _ _ _ _ hw
  have e : rawDecode wd = .ok (.inl (.idle (wd.extractLsb' 22 3) (wd.extractLsb' 17 5) (wd.extractLsb' 12 5) (wd.extractLsb' 7 5))) := by
    unfold rawDecode decodeMajor18
    rw [h0, h1]
    rfl
  rw [e, f0, f1, f2, f3]

theorem raw_brk (s : BitVec 3) (e : BitVec 15) :
    rawDecode (24#7 ++ s ++ e ++ 2#7) = .ok (.inl (.brk s e)) := by
  generalize hw : (24#7 ++ s ++ e ++ 2#7) = wd
  obtain ⟨h0, f0, f1, h1⟩ := fields_6 _ _ _ _ hw
  have e : rawDecode wd = .ok (.inl (.brk (wd.extractLsb' 22 3) (wd.extractLsb' 7 15))) := by
    unfold rawDecode decodeMajor18
    rw [h0, h1]
    rfl
  rw [e, f0, f1]

theorem raw_mark (s : BitVec 3) (d : BitVec 5) (a : BitVec 5) (b : BitVec 5) :
    rawDecode (24#7 ++ s ++ d ++ a ++ b ++ 3#7) = .ok (.inl (.mark s d a b)) := by
  generalize hw : (24#7 ++ s ++ d ++ a ++ b ++ 3#7) = wd
  obtain ⟨h0, f0, f1, f2, f3, h1⟩ := fields_0 _ _ _ _ _ _ hw
  have e : rawDecode wd = .ok (.inl (.mark (wd.extractLsb' 22 3) (wd.extractLsb' 17 5) (wd.extractLsb' 12 5) (wd.extractLsb' 7 5))) := by
    unfold rawDecode decodeMajor18
    rw [h0, h1]
    rfl
  rw [e, f0, f1, f2, f3]

theorem raw_csrr (s : BitVec 3) (d : BitVec 5) (a : BitVec 5) (i : BitVec 12) :
    rawDecode (25#7 ++ s ++ d ++ a ++ i) = .ok (.inl (.csrr s d a i)) := by
  generalize hw : (25#7 ++ s ++ d ++ a ++ i) = wd
  obtain ⟨h0, f0, f1, f2, f3⟩ := fields_2 _ _ _ _ _ hw
  have e : rawDecode wd = .ok (.inl (.csrr (wd.extractLsb' 22 3) (wd.extractLsb' 17 5) (wd.extractLsb' 12 5) (wd.extractLsb' 0 12))) := by
    unfold rawDecode
    rw [h0]
    rfl
  rw [e, f0, f1, f2, f3]

theorem raw_csrw (s : BitVec 3) (d : BitVec 5) (a : BitVec 5) (i : BitVec 12) :
    rawDecode (26#7 ++ s ++ d ++ a ++ i) = .ok (.inl (.csrw s d a i)) := by
  generalize hw : (26#7 ++ s ++ d ++ a ++ i) = wd
  obtain ⟨h0, f0, f1, f2, f3⟩ := fields_2 _ _ _ _ _ hw
  have e : rawDecode wd = .ok (.inl (.csrw (wd.extractLsb' 22 3) (wd.extractLsb' 17 5) (wd.extractLsb' 12 5) (wd.extractLsb' 0 12))) := by
    unfold rawDecode
    rw [h0]
    rfl
  rw [e, f0, f1, f2, f3]

theorem raw_csrset (s : BitVec 3) (d : BitVec 5) (a : BitVec 5) (i : BitVec 12) :
    rawDecode (27#7 ++ s ++ d ++ a ++ i) = .ok (.inl (.csrset s d a i)) := by
  generalize hw : (27#7 ++ s ++ d ++ a ++ i) = wd
  obtain ⟨h0, f0, f1, f2, f3⟩ := fields_2 _ _ _ _ _ hw
  have e : rawDecode wd = .ok (.inl (.csrset (wd.extractLsb' 22 3) (wd.extractLsb' 17 5) (wd.extractLsb' 12 5) (wd.extractLsb' 0 12))) := by
    unfold rawDecode
    rw [h0]
    rfl
  rw [e, f0, f1, f2, f3]

theorem raw_csrclr (s : BitVec 3) (d : BitVec 5) (a : BitVec 5) (i : BitVec 12) :
    rawDecode (28#7 ++ s ++ d ++ a ++ i) = .ok (.inl (.csrclr s d a i)) := by
  generalize hw : (28#7 ++ s ++ d ++ a ++ i) = wd
  obtain ⟨h0, f0, f1, f2, f3⟩ := fields_2 _ _ _ _ _ hw
  have e : rawDecode wd = .ok (.inl (.csrclr (wd.extractLsb' 22 3) (wd.extractLsb' 17 5) (wd.extractLsb' 12 5) (wd.extractLsb' 0 12))) := by
    unfold rawDecode
    rw [h0]
    rfl
  rw [e, f0, f1, f2, f3]

theorem raw_sys (s : BitVec 3) (d : BitVec 5) (a : BitVec 5) (i : BitVec 12) :
    rawDecode (29#7 ++ s ++ d ++ a ++ i) = .ok (.inl (.sys s d a i)) := by
  generalize hw : (29#7 ++ s ++ d ++ a ++ i) = wd
  obtain ⟨h0, f0, f1, f2, f3⟩ := fields_2 _ _ _ _ _ hw
  have e : rawDecode wd = .ok (.inl (.sys (wd.extractLsb' 22 3) (wd.extractLsb' 17 5) (wd.extractLsb' 12 5) (wd.extractLsb' 0 12))) := by
    unfold rawDecode
    rw [h0]
    rfl
  rw [e, f0, f1, f2, f3]

theorem raw_trap (s : BitVec 3) (d : BitVec 5) (a : BitVec 5) (i : BitVec 12) :
    rawDecode (30#7 ++ s ++ d ++ a ++ i) = .ok (.inl (.trap s d a i)) := by
  generalize hw : (30#7 ++ s ++ d ++ a ++ i) = wd
  obtain ⟨h0, f0, f1, f2, f3⟩ := fields_2 _ _ _ _ _ hw
  have e : rawDecode wd = .ok (.inl (.trap (wd.extractLsb' 22 3) (wd.extractLsb' 17 5) (wd.extractLsb' 12 5) (wd.extractLsb' 0 12))) := by
    unfold rawDecode
    rw [h0]
    rfl
  rw [e, f0, f1, f2, f3]

theorem raw_ld (s : BitVec 3) (t : BitVec 5) (a : BitVec 5) (z : BitVec 2) (o : BitVec 10) :
    rawDecode (32#7 ++ s ++ t ++ a ++ z ++ o) = .ok (.inl (.ld s t a z o)) := by
  generalize hw : (32#7 ++ s ++ t ++ a ++ z ++ o) = wd
  obtain ⟨h0, f0, f1, f2, f3, f4⟩ := fields_7 _ _ _ _ _ _ hw
  have e : rawDecode wd = .ok (.inl (.ld (wd.extractLsb' 22 3) (wd.extractLsb' 17 5) (wd.extractLsb' 12 5) (wd.extractLsb' 10 2) (wd.extractLsb' 0 10))) := by
    unfold rawDecode
    rw [h0]
    rfl
  rw [e, f0, f1, f2, f3, f4]

theorem raw_st (s : BitVec 3) (t : BitVec 5) (a : BitVec 5) (z : BitVec 2) (o : BitVec 10) :
    rawDecode (33#7 ++ s ++ t ++ a ++ z ++ o) = .ok (.inl (.st s t a z o)) := by
  generalize hw : (33#7 ++ s ++ t ++ a ++ z ++ o) = wd
  obtain ⟨h0, f0, f1, f2, f3, f4⟩ := fields_7 _ _ _ _ _ _ hw
  have e : rawDecode wd = .ok (.inl (.st (wd.extractLsb' 22 3) (wd.extractLsb' 17 5) (wd.extractLsb' 12 5) (wd.extractLsb' 10 2) (wd.extractLsb' 0 10))) := by
    unfold rawDecode
    rw [h0]
    rfl
  rw [e, f0, f1, f2, f3, f4]

theorem raw_ldS (s : BitVec 3) (t : BitVec 5) (a : BitVec 5) (z : BitVec 2) (o : BitVec 10) :
    rawDecode (41#7 ++ s ++ t ++ a ++ z ++ o) = .ok (.inl (.ldS s t a z o)) := by
  generalize hw : (41#7 ++ s ++ t ++ a ++ z ++ o) = wd
  obtain ⟨h0, f0, f1, f2, f3, f4⟩ := fields_7 _ _ _ _ _ _ hw
  have e : rawDecode wd = .ok (.inl (.ldS (wd.extractLsb' 22 3) (wd.extractLsb' 17 5) (wd.extractLsb' 12 5) (wd.extractLsb' 10 2) (wd.extractLsb' 0 10))) := by
    unfold rawDecode
    rw [h0]
    rfl
  rw [e, f0, f1, f2, f3, f4]

theorem raw_pft (s : BitVec 3) (t : BitVec 5) (a : BitVec 5) (z : BitVec 2) (o : BitVec 10) :
    rawDecode (36#7 ++ s ++ t ++ a ++ z ++ o) = .ok (.inl (.pft s t a z o)) := by
  generalize hw : (36#7 ++ s ++ t ++ a ++ z ++ o) = wd
  obtain ⟨h0, f0, f1, f2, f3, f4⟩ := fields_7 _ _ _ _ _ _ hw
  have e : rawDecode wd = .ok (.inl (.pft (wd.extractLsb' 22 3) (wd.extractLsb' 17 5) (wd.extractLsb' 12 5) (wd.extractLsb' 10 2) (wd.extractLsb' 0 10))) := by
    unfold rawDecode
    rw [h0]
    rfl
  rw [e, f0, f1, f2, f3, f4]

theorem raw_ldo (s : BitVec 3) (t : BitVec 5) (a : BitVec 5) (z : BitVec 3) (r : BitVec 2) (c : BitVec 3) (u : BitVec 4) :
    rawDecode (34#7 ++ s ++ t ++ a ++ z ++ r ++ c ++ u) = .ok (.inl (.ldo s t a z r c u)) := by
  generalize hw : (34#7 ++ s ++ t ++ a ++ z ++ r ++ c ++ u) = wd
  obtain ⟨h0, f0, f1, f2, f3, f4, f5, f6⟩ := fields_8 _ _ _ _ _ _ _ _ hw
  have e : rawDecode wd = .ok (.inl (.ldo (wd.extractLsb' 22 3) (wd.extractLsb' 17 5) (wd.extractLsb' 12 5) (wd.extractLsb' 9 3) (wd.extractLsb' 7 2) (wd.extractLsb' 4 3) (wd.extractLsb' 0 4))) := by
    unfold rawDecode
    rw [h0]
    rfl
  rw [e, f0, f1, f2, f3, f4, f5, f6]

theorem raw_sto (s : BitVec 3) (t : BitVec 5) (a : BitVec 5) (z : BitVec 3) (r : BitVec 2) (c : BitVec 3) (u : BitVec 4) :
    rawDecode (35#7 ++ s ++ t ++ a ++ z ++ r ++ c ++ u) = .ok (.inl (.sto s t a z r c u)) := by
  generalize hw : (35#7 ++ s ++ t ++ a ++ z ++ r ++ c ++ u) = wd
  obtain ⟨h0, f0, f1, f2, f3, f4, f5, f6⟩ := fields_8 _ _ _ _ _ _ _ _ hw
  have e : rawDecode wd = .ok (.inl (.sto (wd.extractLsb' 22 3) (wd.extractLsb' 17 5) (wd.extractLsb' 12 5) (wd.extractLsb' 9 3) (wd.extractLsb' 7 2) (wd.extractLsb' 4 3) (wd.extractLsb' 0 4))) := by
    unfold rawDecode
    rw [h0]
    rfl
  rw [e, f0, f1, f2, f3, f4, f5, f6]

theorem raw_enter (s : BitVec 3) (d : BitVec 5) (a : BitVec 5) (i : BitVec 12) :
    rawDecode (37#7 ++ s ++ d ++ a ++ i) = .ok (.inl (.enter s d a i)) := by
  generalize hw : (37#7 ++ s ++ d ++ a ++ i) = wd
  obtain ⟨h0, f0, f1, f2, f3⟩ := fields_2 _ _ _ _ _ hw
  have e : rawDecode wd = .ok (.inl (.enter (wd.extractLsb' 22 3) (wd.extractLsb' 17 5) (wd.extractLsb' 12 5) (wd.extractLsb' 0 12))) := by
    unfold rawDecode
    rw [h0]
    rfl
  rw [e, f0, f1, f2, f3]

theorem raw_leave (s : BitVec 3) (d : BitVec 5) (a : BitVec 5) (i : BitVec 12) :
    rawDecode (38#7 ++ s ++ d ++ a ++ i) = .ok (.inl (.leave s d a i)) := by
  generalize hw : (38#7 ++ s ++ d ++ a ++ i) = wd
  obtain ⟨h0, f0, f1, f2, f3⟩ := fields_2 _ _ _ _ _ hw
  have e : rawDecode wd = .ok (.inl (.leave (wd.extractLsb' 22 3) (wd.extractLsb' 17 5) (wd.extractLsb' 12 5) (wd.extractLsb' 0 12))) := by
    unfold rawDecode
    rw [h0]
    rfl
  rw [e, f0, f1, f2, f3]

theorem raw_amoAdd (s : BitVec 3) (t : BitVec 5) (a : BitVec 5) (z : BitVec 3) (r : BitVec 2) (c : BitVec 3) :
    rawDecode (39#7 ++ s ++ t ++ a ++ z ++ r ++ c ++ 0#4) = .ok (.inl (.amoAdd s t a z r c)) := by
  generalize hw : (39#7 ++ s ++ t ++ a ++ z ++ r ++ c ++ 0#4) = wd
  obtain ⟨h0, f0, f1, f2, f3, f4, f5, h1⟩ := fields_8 _ _ _ _ _ _ _ _ hw
  have e : rawDecode wd = .ok (.inl (.amoAdd (wd.extractLsb' 22 3) (wd.extractLsb' 17 5) (wd.extractLsb' 12 5) (wd.extractLsb' 9 3) (wd.extractLsb' 7 2) (wd.extractLsb' 4 3))) := by
    unfold rawDecode decodeMajor27
    rw [h0, h1]
    rfl
  rw [e, f0, f1, f2, f3, f4, f5]

theorem raw_amoAnd (s : BitVec 3) (t : BitVec 5) (a : BitVec 5) (z : BitVec 3) (r : BitVec 2) (c : BitVec 3) :
    rawDecode (39#7 ++ s ++ t ++ a ++ z ++ r ++ c ++ 1#4) = .ok (.inl (.amoAnd s t a z r c)) := by
  generalize hw : (39#7 ++ s ++ t ++ a ++ z ++ r ++ c ++ 1#4) = wd
  obtain ⟨h0, f0, f1, f2, f3, f4, f5, h1⟩ := fields_8 _ _ _ _ _ _ _ _ hw
  have e : rawDecode wd = .ok (.inl (.amoAnd (wd.extractLsb' 22 3) (wd.extractLsb' 17 5) (wd.extractLsb' 12 5) (wd.extractLsb' 9 3) (wd.extractLsb' 7 2) (wd.extractLsb' 4 3))) := by
    unfold rawDecode decodeMajor27
    rw [h0, h1]
    rfl
  rw [e, f0, f1, f2, f3, f4, f5]

theorem raw_amoOr (s : BitVec 3) (t : BitVec 5) (a : BitVec 5) (z : BitVec 3) (r : BitVec 2) (c : BitVec 3) :
    rawDecode (39#7 ++ s ++ t ++ a ++ z ++ r ++ c ++ 2#4) = .ok (.inl (.amoOr s t a z r c)) := by
  generalize hw : (39#7 ++ s ++ t ++ a ++ z ++ r ++ c ++ 2#4) = wd
  obtain ⟨h0, f0, f1, f2, f3, f4, f5, h1⟩ := fields_8 _ _ _ _ _ _ _ _ hw
  have e : rawDecode wd = .ok (.inl (.amoOr (wd.extractLsb' 22 3) (wd.extractLsb' 17 5) (wd.extractLsb' 12 5) (wd.extractLsb' 9 3) (wd.extractLsb' 7 2) (wd.extractLsb' 4 3))) := by
    unfold rawDecode decodeMajor27
    rw [h0, h1]
    rfl
  rw [e, f0, f1, f2, f3, f4, f5]

theorem raw_amoXor (s : BitVec 3) (t : BitVec 5) (a : BitVec 5) (z : BitVec 3) (r : BitVec 2) (c : BitVec 3) :
    rawDecode (39#7 ++ s ++ t ++ a ++ z ++ r ++ c ++ 3#4) = .ok (.inl (.amoXor s t a z r c)) := by
  generalize hw : (39#7 ++ s ++ t ++ a ++ z ++ r ++ c ++ 3#4) = wd
  obtain ⟨h0, f0, f1, f2, f3, f4, f5, h1⟩ := fields_8 _ _ _ _ _ _ _ _ hw
  have e : rawDecode wd = .ok (.inl (.amoXor (wd.extractLsb' 22 3) (wd.extractLsb' 17 5) (wd.extractLsb' 12 5) (wd.extractLsb' 9 3) (wd.extractLsb' 7 2) (wd.extractLsb' 4 3))) := by
    unfold rawDecode decodeMajor27
    rw [h0, h1]
    rfl
  rw [e, f0, f1, f2, f3, f4, f5]

theorem raw_amoMin (s : BitVec 3) (t : BitVec 5) (a : BitVec 5) (z : BitVec 3) (r : BitVec 2) (c : BitVec 3) :
    rawDecode (39#7 ++ s ++ t ++ a ++ z ++ r ++ c ++ 4#4) = .ok (.inl (.amoMin s t a z r c)) := by
  generalize hw : (39#7 ++ s ++ t ++ a ++ z ++ r ++ c ++ 4#4) = wd
  obtain ⟨h0, f0, f1, f2, f3, f4, f5, h1⟩ := fields_8 _ _ _ _ _ _ _ _ hw
  have e : rawDecode wd = .ok (.inl (.amoMin (wd.extractLsb' 22 3) (wd.extractLsb' 17 5) (wd.extractLsb' 12 5) (wd.extractLsb' 9 3) (wd.extractLsb' 7 2) (wd.extractLsb' 4 3))) := by
    unfold rawDecode decodeMajor27
    rw [h0, h1]
    rfl
  rw [e, f0, f1, f2, f3, f4, f5]

theorem raw_amoMax (s : BitVec 3) (t : BitVec 5) (a : BitVec 5) (z : BitVec 3) (r : BitVec 2) (c : BitVec 3) :
    rawDecode (39#7 ++ s ++ t ++ a ++ z ++ r ++ c ++ 5#4) = .ok (.inl (.amoMax s t a z r c)) := by
  generalize hw : (39#7 ++ s ++ t ++ a ++ z ++ r ++ c ++ 5#4) = wd
  obtain ⟨h0, f0, f1, f2, f3, f4, f5, h1⟩ := fields_8 _ _ _ _ _ _ _ _ hw
  have e : rawDecode wd = .ok (.inl (.amoMax (wd.extractLsb' 22 3) (wd.extractLsb' 17 5) (wd.extractLsb' 12 5) (wd.extractLsb' 9 3) (wd.extractLsb' 7 2) (wd.extractLsb' 4 3))) := by
    unfold rawDecode decodeMajor27
    rw [h0, h1]
    rfl
  rw [e, f0, f1, f2, f3, f4, f5]

theorem raw_amoMinn (s : BitVec 3) (t : BitVec 5) (a : BitVec 5) (z : BitVec 3) (r : BitVec 2) (c : BitVec 3) :
    rawDecode (39#7 ++ s ++ t ++ a ++ z ++ r ++ c ++ 6#4) = .ok (.inl (.amoMinn s t a z r c)) := by
  generalize hw : (39#7 ++ s ++ t ++ a ++ z ++ r ++ c ++ 6#4) = wd
  obtain ⟨h0, f0, f1, f2, f3, f4, f5, h1⟩ := fields_8 _ _ _ _ _ _ _ _ hw
  have e : rawDecode wd = .ok (.inl (.amoMinn (wd.extractLsb' 22 3) (wd.extractLsb' 17 5) (wd.extractLsb' 12 5) (wd.extractLsb' 9 3) (wd.extractLsb' 7 2) (wd.extractLsb' 4 3))) := by
    unfold rawDecode decodeMajor27
    rw [h0, h1]
    rfl
  rw [e, f0, f1, f2, f3, f4, f5]

theorem raw_amoMaxn (s : BitVec 3) (t : BitVec 5) (a : BitVec 5) (z : BitVec 3) (r : BitVec 2) (c : BitVec 3) :
    rawDecode (39#7 ++ s ++ t ++ a ++ z ++ r ++ c ++ 7#4) = .ok (.inl (.amoMaxn s t a z r c)) := by
  generalize hw : (39#7 ++ s ++ t ++ a ++ z ++ r ++ c ++ 7#4) = wd
  obtain ⟨h0, f0, f1, f2, f3, f4, f5, h1⟩ := fields_8 _ _ _ _ _ _ _ _ hw
  have e : rawDecode wd = .ok (.inl (.amoMaxn (wd.extractLsb' 22 3) (wd.extractLsb' 17 5) (wd.extractLsb' 12 5) (wd.extractLsb' 9 3) (wd.extractLsb' 7 2) (wd.extractLsb' 4 3))) := by
    unfold rawDecode decodeMajor27
    rw [h0, h1]
    rfl
  rw [e, f0, f1, f2, f3, f4, f5]

theorem raw_amoSwap (s : BitVec 3) (t : BitVec 5) (a : BitVec 5) (z : BitVec 3) (r : BitVec 2) (c : BitVec 3) :
    rawDecode (39#7 ++ s ++ t ++ a ++ z ++ r ++ c ++ 8#4) = .ok (.inl (.amoSwap s t a z r c)) := by
  generalize hw : (39#7 ++ s ++ t ++ a ++ z ++ r ++ c ++ 8#4) = wd
  obtain ⟨h0, f0, f1, f2, f3, f4, f5, h1⟩ := fields_8 _ _ _ _ _ _ _ _ hw
  have e : rawDecode wd = .ok (.inl (.amoSwap (wd.extractLsb' 22 3) (wd.extractLsb' 17 5) (wd.extractLsb' 12 5) (wd.extractLsb' 9 3) (wd.extractLsb' 7 2) (wd.extractLsb' 4 3))) := by
    unfold rawDecode decodeMajor27
    rw [h0, h1]
    rfl
  rw [e, f0, f1, f2, f3, f4, f5]

theorem raw_amoFadd (s : BitVec 3) (t : BitVec 5) (a : BitVec 5) (z : BitVec 3) (r : BitVec 2) (c : BitVec 3) :
    rawDecode (39#7 ++ s ++ t ++ a ++ z ++ r ++ c ++ 9#4) = .ok (.inl (.amoFadd s t a z r c)) := by
  generalize hw : (39#7 ++ s ++ t ++ a ++ z ++ r ++ c ++ 9#4) = wd
  obtain ⟨h0, f0, f1, f2, f3, f4, f5, h1⟩ := fields_8 _ _ _ _ _ _ _ _ hw
  have e : rawDecode wd = .ok (.inl (.amoFadd (wd.extractLsb' 22 3) (wd.extractLsb' 17 5) (wd.extractLsb' 12 5) (wd.extractLsb' 9 3) (wd.extractLsb' 7 2) (wd.extractLsb' 4 3))) := by
    unfold rawDecode decodeMajor27
    rw [h0, h1]
    rfl
  rw [e, f0, f1, f2, f3, f4, f5]

theorem raw_cas (s : BitVec 3) (t : BitVec 5) (a : BitVec 5) (z : BitVec 3) (r : BitVec 2) (c : BitVec 3) :
    rawDecode (40#7 ++ s ++ t ++ a ++ z ++ r ++ c ++ 0#4) = .ok (.inl (.cas s t a z r c)) := by
  generalize hw : (40#7 ++ s ++ t ++ a ++ z ++ r ++ c ++ 0#4) = wd
  obtain ⟨h0, f0, f1, f2, f3, f4, f5, h1⟩ := fields_8 _ _ _ _ _ _ _ _ hw
  have e : rawDecode wd = .ok (.inl (.cas (wd.extractLsb' 22 3) (wd.extractLsb' 17 5) (wd.extractLsb' 12 5) (wd.extractLsb' 9 3) (wd.extractLsb' 7 2) (wd.extractLsb' 4 3))) := by
    unfold rawDecode decodeMajor28
    rw [h0, h1]
    rfl
  rw [e, f0, f1, f2, f3, f4, f5]

theorem raw_fenceLdld (s : BitVec 3) (t : BitVec 5) (a : BitVec 5) (r : BitVec 2) (c : BitVec 3) :
    rawDecode (48#7 ++ s ++ t ++ a ++ 0#3 ++ r ++ c ++ 0#4) = .ok (.inl (.fenceLdld s t a r c)) := by
  generalize hw : (48#7 ++ s ++ t ++ a ++ 0#3 ++ r ++ c ++ 0#4) = wd
  obtain ⟨h0, f0, f1, f2, h2, f3, f4, h1⟩ := fields_8 _ _ _ _ _ _ _ _ hw
  have e : rawDecode wd = .ok (.inl (.fenceLdld (wd.extractLsb' 22 3) (wd.extractLsb' 17 5) (wd.extractLsb' 12 5) (wd.extractLsb' 7 2) (wd.extractLsb' 4 3))) := by
    unfold rawDecode decodeMajor30
    rw [h0, h1, h2]
    rfl
  rw [e, f0, f1, f2, f3, f4]

theorem raw_fenceLdst (s : BitVec 3) (t : BitVec 5) (a : BitVec 5) (r : BitVec 2) (c : BitVec 3) :
    rawDecode (48#7 ++ s ++ t ++ a ++ 1#3 ++ r ++ c ++ 0#4) = .ok (.inl (.fenceLdst s t a r c)) := by
  generalize hw : (48#7 ++ s ++ t ++ a ++ 1#3 ++ r ++ c ++ 0#4) = wd
  obtain ⟨h0, f0, f1, f2, h2, f3, f4, h1⟩ := fields_8 _ _ _ _ _ _ _ _ hw
  have e : rawDecode wd = .ok (.inl (.fenceLdst (wd.extractLsb' 22 3) (wd.extractLsb' 17 5) (wd.extractLsb' 12 5) (wd.extractLsb' 7 2) (wd.extractLsb' 4 3))) := by
    unfold rawDecode decodeMajor30
    rw [h0, h1, h2]
    rfl
  rw [e, f0, f1, f2, f3, f4]

theorem raw_fenceStld (s : BitVec 3) (t : BitVec 5) (a : BitVec 5) (r : BitVec 2) (c : BitVec 3) :
    rawDecode (48#7 ++ s ++ t ++ a ++ 2#3 ++ r ++ c ++ 0#4) = .ok (.inl (.fenceStld s t a r c)) := by
  generalize hw : (48#7 ++ s ++ t ++ a ++ 2#3 ++ r ++ c ++ 0#4) = wd
  obtain ⟨h0, f0, f1, f2, h2, f3, f4, h1⟩ := fields_8 _ _ _ _ _ _ _ _ hw
  have e : rawDecode wd = .ok (.inl (.fenceStld (wd.extractLsb' 22 3) (wd.extractLsb' 17 5) (wd.extractLsb' 12 5) (wd.extractLsb' 7 2) (wd.extractLsb' 4 3))) := by
    unfold rawDecode decodeMajor30
    rw [h0, h1, h2]
    rfl
  rw [e, f0, f1, f2, f3, f4]

theorem raw_fenceStst (s : BitVec 3) (t : BitVec 5) (a : BitVec 5) (r : BitVec 2) (c : BitVec 3) :
    rawDecode (48#7 ++ s ++ t ++ a ++ 3#3 ++ r ++ c ++ 0#4) = .ok (.inl (.fenceStst s t a r c)) := by
  generalize hw : (48#7 ++ s ++ t ++ a ++ 3#3 ++ r ++ c ++ 0#4) = wd
  obtain ⟨h0, f0, f1, f2, h2, f3, f4, h1⟩ := fields_8 _ _ _ _ _ _ _ _ hw
  have e : rawDecode wd = .ok (.inl (.fenceStst (wd.extractLsb' 22 3) (wd.extractLsb' 17 5) (wd.extractLsb' 12 5) (wd.extractLsb' 7 2) (wd.extractLsb' 4 3))) := by
    unfold rawDecode decodeMajor30
    rw [h0, h1, h2]
    rfl
  rw [e, f0, f1, f2, f3, f4]

theorem raw_fenceAll (s : BitVec 3) (t : BitVec 5) (a : BitVec 5) (r : BitVec 2) (c : BitVec 3) :
    rawDecode (48#7 ++ s ++ t ++ a ++ 4#3 ++ r ++ c ++ 0#4) = .ok (.inl (.fenceAll s t a r c)) := by
  generalize hw : (48#7 ++ s ++ t ++ a ++ 4#3 ++ r ++ c ++ 0#4) = wd
  obtain ⟨h0, f0, f1, f2, h2, f3, f4, h1⟩ := fields_8 _ _ _ _ _ _ _ _ hw
  have e : rawDecode wd = .ok (.inl (.fenceAll (wd.extractLsb' 22 3) (wd.extractLsb' 17 5) (wd.extractLsb' 12 5) (wd.extractLsb' 7 2) (wd.extractLsb' 4 3))) := by
    unfold rawDecode decodeMajor30
    rw [h0, h1, h2]
    rfl
  rw [e, f0, f1, f2, f3, f4]

theorem raw_bari (s : BitVec 3) (d : BitVec 5) (a : BitVec 5) (b : BitVec 5) :
    rawDecode (49#7 ++ s ++ d ++ a ++ b ++ 0#7) = .ok (.inl (.bari s d a b)) := by
  generalize hw : (49#7 ++ s ++ d ++ a ++ b ++ 0#7) = wd
  obtain ⟨h0, f0, f1, f2, f3, h1⟩ := fields_0 _ _ _ _ _ _ hw
  have e : rawDecode wd = .ok (.inl (.bari (wd.extractLsb' 22 3) (wd.extractLsb' 17 5) (wd.extractLsb' 12 5) (wd.extractLsb' 7 5))) := by
    unfold rawDecode decodeMajor31
    rw [h0, h1]
    rfl
  rw [e, f0, f1, f2, f3]

theorem raw_bara (s : BitVec 3) (d : BitVec 5) (a : BitVec 5) (b : BitVec 5) :
    rawDecode (49#7 ++ s ++ d ++ a ++ b ++ 1#7) = .ok (.inl (.bara s d a b)) := by
  generalize hw : (49#7 ++ s ++ d ++ a ++ b ++ 1#7) = wd
  obtain ⟨h0, f0, f1, f2, f3, h1⟩ := fields_0 _ _ _ _ _ _ hw
  have e : rawDecode wd = .ok (.inl (.bara (wd.extractLsb' 22 3) (wd.extractLsb' 17 5) (wd.extractLsb' 12 5) (wd.extractLsb' 7 5))) := by
    unfold rawDecode decodeMajor31
    rw [h0, h1]
    rfl
  rw [e, f0, f1, f2, f3]

theorem raw_barw (s : BitVec 3) (d : BitVec 5) (a : BitVec 5) (b : BitVec 5) :
    rawDecode (49#7 ++ s ++ d ++ a ++ b ++ 2#7) = .ok (.inl (.barw s d a b)) := by
  generalize hw : (49#7 ++ s ++ d ++ a ++ b ++ 2#7) = wd
  obtain ⟨h0, f0, f1, f2, f3, h1⟩ := fields_0 _ _ _ _ _ _ hw
  have e : rawDecode wd = .ok (.inl (.barw (wd.extractLsb' 22 3) (wd.extractLsb' 17 5) (wd.extractLsb' 12 5) (wd.extractLsb' 7 5))) := by
    unfold rawDecode decodeMajor31
    rw [h0, h1]
    rfl
  rw [e, f0, f1, f2, f3]

theorem raw_waita (s : BitVec 3) (t : BitVec 5) (a : BitVec 5) (z : BitVec 3) (r : BitVec 2) (c : BitVec 3) :
    rawDecode (50#7 ++ s ++ t ++ a ++ z ++ r ++ c ++ 0#4) = .ok (.inl (.waita s t a z r c)) := by
  generalize hw : (50#7 ++ s ++ t ++ a ++ z ++ r ++ c ++ 0#4) = wd
  obtain ⟨h0, f0, f1, f2, f3, f4, f5, h1⟩ := fields_8 _ _ _ _ _ _ _ _ hw
  have e : rawDecode wd = .ok (.inl (.waita (wd.extractLsb' 22 3) (wd.extractLsb' 17 5) (wd.extractLsb' 12 5) (wd.extractLsb' 9 3) (wd.extractLsb' 7 2) (wd.extractLsb' 4 3))) := by
    unfold rawDecode decodeMajor32
    rw [h0, h1]
    rfl
  rw [e, f0, f1, f2, f3, f4, f5]

theorem raw_sigdec (s : BitVec 3) (d : BitVec 5) (a : BitVec 5) (b : BitVec 5) :
    rawDecode (51#7 ++ s ++ d ++ a ++ b ++ 0#7) = .ok (.inl (.sigdec s d a b)) := by
  generalize hw : (51#7 ++ s ++ d ++ a ++ b ++ 0#7) = wd
  obtain ⟨h0, f0, f1, f2, f3, h1⟩ := fields_0 _ _ _ _ _ _ hw
  have e : rawDecode wd = .ok (.inl (.sigdec (wd.extractLsb' 22 3) (wd.extractLsb' 17 5) (wd.extractLsb' 12 5) (wd.extractLsb' 7 5))) := by
    unfold rawDecode decodeMajor33
    rw [h0, h1]
    rfl
  rw [e, f0, f1, f2, f3]

theorem raw_sigwait (s : BitVec 3) (d : BitVec 5) (a : BitVec 5) (b : BitVec 5) :
    rawDecode (51#7 ++ s ++ d ++ a ++ b ++ 1#7) = .ok (.inl (.sigwait s d a b)) := by
  generalize hw : (51#7 ++ s ++ d ++ a ++ b ++ 1#7) = wd
  obtain ⟨h0, f0, f1, f2, f3, h1⟩ := fields_0 _ _ _ _ _ _ hw
  have e : rawDecode wd = .ok (.inl (.sigwait (wd.extractLsb' 22 3) (wd.extractLsb' 17 5) (wd.extractLsb' 12 5) (wd.extractLsb' 7 5))) := by
    unfold rawDecode decodeMajor33
    rw [h0, h1]
    rfl
  rw [e, f0, f1, f2, f3]

theorem raw_msend (s : BitVec 3) (d : BitVec 5) (a : BitVec 5) (b : BitVec 5) :
    rawDecode (52#7 ++ s ++ d ++ a ++ b ++ 0#7) = .ok (.inl (.msend s d a b)) := by
  generalize hw : (52#7 ++ s ++ d ++ a ++ b ++ 0#7) = wd
  obtain ⟨h0, f0, f1, f2, f3, h1⟩ := fields_0 _ _ _ _ _ _ hw
  have e : rawDecode wd = .ok (.inl (.msend (wd.extractLsb' 22 3) (wd.extractLsb' 17 5) (wd.extractLsb' 12 5) (wd.extractLsb' 7 5))) := by
    unfold rawDecode decodeMajor34
    rw [h0, h1]
    rfl
  rw [e, f0, f1, f2, f3]

theorem raw_mrecv (s : BitVec 3) (d : BitVec 5) (a : BitVec 5) (b : BitVec 5) :
    rawDecode (52#7 ++ s ++ d ++ a ++ b ++ 1#7) = .ok (.inl (.mrecv s d a b)) := by
  generalize hw : (52#7 ++ s ++ d ++ a ++ b ++ 1#7) = wd
  obtain ⟨h0, f0, f1, f2, f3, h1⟩ := fields_0 _ _ _ _ _ _ hw
  have e : rawDecode wd = .ok (.inl (.mrecv (wd.extractLsb' 22 3) (wd.extractLsb' 17 5) (wd.extractLsb' 12 5) (wd.extractLsb' 7 5))) := by
    unfold rawDecode decodeMajor34
    rw [h0, h1]
    rfl
  rw [e, f0, f1, f2, f3]

theorem raw_mpoll (s : BitVec 3) (d : BitVec 5) (a : BitVec 5) (b : BitVec 5) :
    rawDecode (52#7 ++ s ++ d ++ a ++ b ++ 2#7) = .ok (.inl (.mpoll s d a b)) := by
  generalize hw : (52#7 ++ s ++ d ++ a ++ b ++ 2#7) = wd
  obtain ⟨h0, f0, f1, f2, f3, h1⟩ := fields_0 _ _ _ _ _ _ hw
  have e : rawDecode wd = .ok (.inl (.mpoll (wd.extractLsb' 22 3) (wd.extractLsb' 17 5) (wd.extractLsb' 12 5) (wd.extractLsb' 7 5))) := by
    unfold rawDecode decodeMajor34
    rw [h0, h1]
    rfl
  rw [e, f0, f1, f2, f3]

theorem raw_pjack (s : BitVec 3) (d : BitVec 5) (a : BitVec 5) (b : BitVec 5) :
    rawDecode (52#7 ++ s ++ d ++ a ++ b ++ 3#7) = .ok (.inl (.pjack s d a b)) := by
  generalize hw : (52#7 ++ s ++ d ++ a ++ b ++ 3#7) = wd
  obtain ⟨h0, f0, f1, f2, f3, h1⟩ := fields_0 _ _ _ _ _ _ hw
  have e : rawDecode wd = .ok (.inl (.pjack (wd.extractLsb' 22 3) (wd.extractLsb' 17 5) (wd.extractLsb' 12 5) (wd.extractLsb' 7 5))) := by
    unfold rawDecode decodeMajor34
    rw [h0, h1]
    rfl
  rw [e, f0, f1, f2, f3]

theorem raw_psto (s : BitVec 3) (t : BitVec 5) (a : BitVec 5) (z : BitVec 3) (r : BitVec 2) (c : BitVec 3) :
    rawDecode (53#7 ++ s ++ t ++ a ++ z ++ r ++ c ++ 0#4) = .ok (.inl (.psto s t a z r c)) := by
  generalize hw : (53#7 ++ s ++ t ++ a ++ z ++ r ++ c ++ 0#4) = wd
  obtain ⟨h0, f0, f1, f2, f3, f4, f5, h1⟩ := fields_8 _ _ _ _ _ _ _ _ hw
  have e : rawDecode wd = .ok (.inl (.psto (wd.extractLsb' 22 3) (wd.extractLsb' 17 5) (wd.extractLsb' 12 5) (wd.extractLsb' 9 3) (wd.extractLsb' 7 2) (wd.extractLsb' 4 3))) := by
    unfold rawDecode decodeMajor35
    rw [h0, h1]
    rfl
  rw [e, f0, f1, f2, f3, f4, f5]

theorem raw_spawn (s : BitVec 3) (d : BitVec 5) (a : BitVec 5) (b : BitVec 5) :
    rawDecode (54#7 ++ s ++ d ++ a ++ b ++ 0#7) = .ok (.inl (.spawn s d a b)) := by
  generalize hw : (54#7 ++ s ++ d ++ a ++ b ++ 0#7) = wd
  obtain ⟨h0, f0, f1, f2, f3, h1⟩ := fields_0 _ _ _ _ _ _ hw
  have e : rawDecode wd = .ok (.inl (.spawn (wd.extractLsb' 22 3) (wd.extractLsb' 17 5) (wd.extractLsb' 12 5) (wd.extractLsb' 7 5))) := by
    unfold rawDecode decodeMajor36
    rw [h0, h1]
    rfl
  rw [e, f0, f1, f2, f3]

theorem raw_reap (s : BitVec 3) (d : BitVec 5) (a : BitVec 5) (b : BitVec 5) :
    rawDecode (54#7 ++ s ++ d ++ a ++ b ++ 1#7) = .ok (.inl (.reap s d a b)) := by
  generalize hw : (54#7 ++ s ++ d ++ a ++ b ++ 1#7) = wd
  obtain ⟨h0, f0, f1, f2, f3, h1⟩ := fields_0 _ _ _ _ _ _ hw
  have e : rawDecode wd = .ok (.inl (.reap (wd.extractLsb' 22 3) (wd.extractLsb' 17 5) (wd.extractLsb' 12 5) (wd.extractLsb' 7 5))) := by
    unfold rawDecode decodeMajor36
    rw [h0, h1]
    rfl
  rw [e, f0, f1, f2, f3]

theorem raw_yield (s : BitVec 3) (d : BitVec 5) (a : BitVec 5) (b : BitVec 5) :
    rawDecode (54#7 ++ s ++ d ++ a ++ b ++ 2#7) = .ok (.inl (.yield s d a b)) := by
  generalize hw : (54#7 ++ s ++ d ++ a ++ b ++ 2#7) = wd
  obtain ⟨h0, f0, f1, f2, f3, h1⟩ := fields_0 _ _ _ _ _ _ hw
  have e : rawDecode wd = .ok (.inl (.yield (wd.extractLsb' 22 3) (wd.extractLsb' 17 5) (wd.extractLsb' 12 5) (wd.extractLsb' 7 5))) := by
    unfold rawDecode decodeMajor36
    rw [h0, h1]
    rfl
  rw [e, f0, f1, f2, f3]

theorem raw_ypt (s : BitVec 3) (d : BitVec 5) (a : BitVec 5) (b : BitVec 5) :
    rawDecode (54#7 ++ s ++ d ++ a ++ b ++ 3#7) = .ok (.inl (.ypt s d a b)) := by
  generalize hw : (54#7 ++ s ++ d ++ a ++ b ++ 3#7) = wd
  obtain ⟨h0, f0, f1, f2, f3, h1⟩ := fields_0 _ _ _ _ _ _ hw
  have e : rawDecode wd = .ok (.inl (.ypt (wd.extractLsb' 22 3) (wd.extractLsb' 17 5) (wd.extractLsb' 12 5) (wd.extractLsb' 7 5))) := by
    unfold rawDecode decodeMajor36
    rw [h0, h1]
    rfl
  rw [e, f0, f1, f2, f3]

theorem raw_fork (s : BitVec 3) (d : BitVec 5) (a : BitVec 5) (b : BitVec 5) :
    rawDecode (55#7 ++ s ++ d ++ a ++ b ++ 0#7) = .ok (.inl (.fork s d a b)) := by
  generalize hw : (55#7 ++ s ++ d ++ a ++ b ++ 0#7) = wd
  obtain ⟨h0, f0, f1, f2, f3, h1⟩ := fields_0 _ _ _ _ _ _ hw
  have e : rawDecode wd = .ok (.inl (.fork (wd.extractLsb' 22 3) (wd.extractLsb' 17 5) (wd.extractLsb' 12 5) (wd.extractLsb' 7 5))) := by
    unfold rawDecode decodeMajor37
    rw [h0, h1]
    rfl
  rw [e, f0, f1, f2, f3]

theorem raw_join (s : BitVec 3) (d : BitVec 5) (a : BitVec 5) (b : BitVec 5) :
    rawDecode (55#7 ++ s ++ d ++ a ++ b ++ 1#7) = .ok (.inl (.join s d a b)) := by
  generalize hw : (55#7 ++ s ++ d ++ a ++ b ++ 1#7) = wd
  obtain ⟨h0, f0, f1, f2, f3, h1⟩ := fields_0 _ _ _ _ _ _ hw
  have e : rawDecode wd = .ok (.inl (.join (wd.extractLsb' 22 3) (wd.extractLsb' 17 5) (wd.extractLsb' 12 5) (wd.extractLsb' 7 5))) := by
    unfold rawDecode decodeMajor37
    rw [h0, h1]
    rfl
  rw [e, f0, f1, f2, f3]

theorem raw_tend (s : BitVec 3) (d : BitVec 5) (a : BitVec 5) (b : BitVec 5) :
    rawDecode (55#7 ++ s ++ d ++ a ++ b ++ 2#7) = .ok (.inl (.tend s d a b)) := by
  generalize hw : (55#7 ++ s ++ d ++ a ++ b ++ 2#7) = wd
  obtain ⟨h0, f0, f1, f2, f3, h1⟩ := fields_0 _ _ _ _ _ _ hw
  have e : rawDecode wd = .ok (.inl (.tend (wd.extractLsb' 22 3) (wd.extractLsb' 17 5) (wd.extractLsb' 12 5) (wd.extractLsb' 7 5))) := by
    unfold rawDecode decodeMajor37
    rw [h0, h1]
    rfl
  rw [e, f0, f1, f2, f3]

theorem raw_tspawn (s : BitVec 3) (d : BitVec 5) (a : BitVec 5) (b : BitVec 5) :
    rawDecode (55#7 ++ s ++ d ++ a ++ b ++ 3#7) = .ok (.inl (.tspawn s d a b)) := by
  generalize hw : (55#7 ++ s ++ d ++ a ++ b ++ 3#7) = wd
  obtain ⟨h0, f0, f1, f2, f3, h1⟩ := fields_0 _ _ _ _ _ _ hw
  have e : rawDecode wd = .ok (.inl (.tspawn (wd.extractLsb' 22 3) (wd.extractLsb' 17 5) (wd.extractLsb' 12 5) (wd.extractLsb' 7 5))) := by
    unfold rawDecode decodeMajor37
    rw [h0, h1]
    rfl
  rw [e, f0, f1, f2, f3]

theorem raw_tstamp (s : BitVec 3) (d : BitVec 5) (a : BitVec 5) (b : BitVec 5) :
    rawDecode (55#7 ++ s ++ d ++ a ++ b ++ 4#7) = .ok (.inl (.tstamp s d a b)) := by
  generalize hw : (55#7 ++ s ++ d ++ a ++ b ++ 4#7) = wd
  obtain ⟨h0, f0, f1, f2, f3, h1⟩ := fields_0 _ _ _ _ _ _ hw
  have e : rawDecode wd = .ok (.inl (.tstamp (wd.extractLsb' 22 3) (wd.extractLsb' 17 5) (wd.extractLsb' 12 5) (wd.extractLsb' 7 5))) := by
    unfold rawDecode decodeMajor37
    rw [h0, h1]
    rfl
  rw [e, f0, f1, f2, f3]

theorem raw_migr (s : BitVec 3) (d : BitVec 5) (a : BitVec 5) (b : BitVec 5) :
    rawDecode (56#7 ++ s ++ d ++ a ++ b ++ 0#7) = .ok (.inl (.migr s d a b)) := by
  generalize hw : (56#7 ++ s ++ d ++ a ++ b ++ 0#7) = wd
  obtain ⟨h0, f0, f1, f2, f3, h1⟩ := fields_0 _ _ _ _ _ _ hw
  have e : rawDecode wd = .ok (.inl (.migr (wd.extractLsb' 22 3) (wd.extractLsb' 17 5) (wd.extractLsb' 12 5) (wd.extractLsb' 7 5))) := by
    unfold rawDecode decodeMajor38
    rw [h0, h1]
    rfl
  rw [e, f0, f1, f2, f3]

theorem raw_homec (s : BitVec 3) (d : BitVec 5) (a : BitVec 5) (b : BitVec 5) :
    rawDecode (56#7 ++ s ++ d ++ a ++ b ++ 1#7) = .ok (.inl (.homec s d a b)) := by
  generalize hw : (56#7 ++ s ++ d ++ a ++ b ++ 1#7) = wd
  obtain ⟨h0, f0, f1, f2, f3, h1⟩ := fields_0 _ _ _ _ _ _ hw
  have e : rawDecode wd = .ok (.inl (.homec (wd.extractLsb' 22 3) (wd.extractLsb' 17 5) (wd.extractLsb' 12 5) (wd.extractLsb' 7 5))) := by
    unfold rawDecode decodeMajor38
    rw [h0, h1]
    rfl
  rw [e, f0, f1, f2, f3]

theorem raw_mbput (s : BitVec 3) (d : BitVec 5) (a : BitVec 5) (b : BitVec 5) :
    rawDecode (57#7 ++ s ++ d ++ a ++ b ++ 0#7) = .ok (.inl (.mbput s d a b)) := by
  generalize hw : (57#7 ++ s ++ d ++ a ++ b ++ 0#7) = wd
  obtain ⟨h0, f0, f1, f2, f3, h1⟩ := fields_0 _ _ _ _ _ _ hw
  have e : rawDecode wd = .ok (.inl (.mbput (wd.extractLsb' 22 3) (wd.extractLsb' 17 5) (wd.extractLsb' 12 5) (wd.extractLsb' 7 5))) := by
    unfold rawDecode decodeMajor39
    rw [h0, h1]
    rfl
  rw [e, f0, f1, f2, f3]

theorem raw_mbputRel (s : BitVec 3) (d : BitVec 5) (a : BitVec 5) (b : BitVec 5) :
    rawDecode (57#7 ++ s ++ d ++ a ++ b ++ 1#7) = .ok (.inl (.mbputRel s d a b)) := by
  generalize hw : (57#7 ++ s ++ d ++ a ++ b ++ 1#7) = wd
  obtain ⟨h0, f0, f1, f2, f3, h1⟩ := fields_0 _ _ _ _ _ _ hw
  have e : rawDecode wd = .ok (.inl (.mbputRel (wd.extractLsb' 22 3) (wd.extractLsb' 17 5) (wd.extractLsb' 12 5) (wd.extractLsb' 7 5))) := by
    unfold rawDecode decodeMajor39
    rw [h0, h1]
    rfl
  rw [e, f0, f1, f2, f3]

theorem raw_mbget (s : BitVec 3) (d : BitVec 5) (a : BitVec 5) (b : BitVec 5) :
    rawDecode (57#7 ++ s ++ d ++ a ++ b ++ 2#7) = .ok (.inl (.mbget s d a b)) := by
  generalize hw : (57#7 ++ s ++ d ++ a ++ b ++ 2#7) = wd
  obtain ⟨h0, f0, f1, f2, f3, h1⟩ := fields_0 _ _ _ _ _ _ hw
  have e : rawDecode wd = .ok (.inl (.mbget (wd.extractLsb' 22 3) (wd.extractLsb' 17 5) (wd.extractLsb' 12 5) (wd.extractLsb' 7 5))) := by
    unfold rawDecode decodeMajor39
    rw [h0, h1]
    rfl
  rw [e, f0, f1, f2, f3]

theorem raw_wkdone (s : BitVec 3) (d : BitVec 5) (a : BitVec 5) (b : BitVec 5) :
    rawDecode (58#7 ++ s ++ d ++ a ++ b ++ 0#7) = .ok (.inl (.wkdone s d a b)) := by
  generalize hw : (58#7 ++ s ++ d ++ a ++ b ++ 0#7) = wd
  obtain ⟨h0, f0, f1, f2, f3, h1⟩ := fields_0 _ _ _ _ _ _ hw
  have e : rawDecode wd = .ok (.inl (.wkdone (wd.extractLsb' 22 3) (wd.extractLsb' 17 5) (wd.extractLsb' 12 5) (wd.extractLsb' 7 5))) := by
    unfold rawDecode decodeMajor3A
    rw [h0, h1]
    rfl
  rw [e, f0, f1, f2, f3]

theorem raw_scld (s : BitVec 3) (d : BitVec 5) (a : BitVec 5) (b : BitVec 5) :
    rawDecode (59#7 ++ s ++ d ++ a ++ b ++ 0#7) = .ok (.inl (.scld s d a b)) := by
  generalize hw : (59#7 ++ s ++ d ++ a ++ b ++ 0#7) = wd
  obtain ⟨h0, f0, f1, f2, f3, h1⟩ := fields_0 _ _ _ _ _ _ hw
  have e : rawDecode wd = .ok (.inl (.scld (wd.extractLsb' 22 3) (wd.extractLsb' 17 5) (wd.extractLsb' 12 5) (wd.extractLsb' 7 5))) := by
    unfold rawDecode decodeMajor3B
    rw [h0, h1]
    rfl
  rw [e, f0, f1, f2, f3]

theorem raw_vadd (s : BitVec 3) (d : BitVec 5) (a : BitVec 5) (b : BitVec 5) (k : BitVec 3) (h : BitVec 1) (j : BitVec 1) (u : BitVec 2) :
    rawDecode (64#7 ++ s ++ d ++ a ++ b ++ k ++ h ++ j ++ u) = .ok (.inl (.vadd s d a b k h j u)) := by
  generalize hw : (64#7 ++ s ++ d ++ a ++ b ++ k ++ h ++ j ++ u) = wd
  obtain ⟨h0, f0, f1, f2, f3, f4, f5, f6, f7⟩ := fields_9 _ _ _ _ _ _ _ _ _ hw
  have e : rawDecode wd = .ok (.inl (.vadd (wd.extractLsb' 22 3) (wd.extractLsb' 17 5) (wd.extractLsb' 12 5) (wd.extractLsb' 7 5) (wd.extractLsb' 4 3) (wd.extractLsb' 3 1) (wd.extractLsb' 2 1) (wd.extractLsb' 0 2))) := by
    unfold rawDecode
    rw [h0]
    rfl
  rw [e, f0, f1, f2, f3, f4, f5, f6, f7]

theorem raw_vsub (s : BitVec 3) (d : BitVec 5) (a : BitVec 5) (b : BitVec 5) (k : BitVec 3) (h : BitVec 1) (j : BitVec 1) (u : BitVec 2) :
    rawDecode (65#7 ++ s ++ d ++ a ++ b ++ k ++ h ++ j ++ u) = .ok (.inl (.vsub s d a b k h j u)) := by
  generalize hw : (65#7 ++ s ++ d ++ a ++ b ++ k ++ h ++ j ++ u) = wd
  obtain ⟨h0, f0, f1, f2, f3, f4, f5, f6, f7⟩ := fields_9 _ _ _ _ _ _ _ _ _ hw
  have e : rawDecode wd = .ok (.inl (.vsub (wd.extractLsb' 22 3) (wd.extractLsb' 17 5) (wd.extractLsb' 12 5) (wd.extractLsb' 7 5) (wd.extractLsb' 4 3) (wd.extractLsb' 3 1) (wd.extractLsb' 2 1) (wd.extractLsb' 0 2))) := by
    unfold rawDecode
    rw [h0]
    rfl
  rw [e, f0, f1, f2, f3, f4, f5, f6, f7]

theorem raw_vmul (s : BitVec 3) (d : BitVec 5) (a : BitVec 5) (b : BitVec 5) (k : BitVec 3) (h : BitVec 1) (j : BitVec 1) (u : BitVec 2) :
    rawDecode (66#7 ++ s ++ d ++ a ++ b ++ k ++ h ++ j ++ u) = .ok (.inl (.vmul s d a b k h j u)) := by
  generalize hw : (66#7 ++ s ++ d ++ a ++ b ++ k ++ h ++ j ++ u) = wd
  obtain ⟨h0, f0, f1, f2, f3, f4, f5, f6, f7⟩ := fields_9 _ _ _ _ _ _ _ _ _ hw
  have e : rawDecode wd = .ok (.inl (.vmul (wd.extractLsb' 22 3) (wd.extractLsb' 17 5) (wd.extractLsb' 12 5) (wd.extractLsb' 7 5) (wd.extractLsb' 4 3) (wd.extractLsb' 3 1) (wd.extractLsb' 2 1) (wd.extractLsb' 0 2))) := by
    unfold rawDecode
    rw [h0]
    rfl
  rw [e, f0, f1, f2, f3, f4, f5, f6, f7]

theorem raw_vfma (s : BitVec 3) (d : BitVec 5) (a : BitVec 5) (b : BitVec 5) (k : BitVec 3) (h : BitVec 1) (j : BitVec 1) (u : BitVec 2) :
    rawDecode (67#7 ++ s ++ d ++ a ++ b ++ k ++ h ++ j ++ u) = .ok (.inl (.vfma s d a b k h j u)) := by
  generalize hw : (67#7 ++ s ++ d ++ a ++ b ++ k ++ h ++ j ++ u) = wd
  obtain ⟨h0, f0, f1, f2, f3, f4, f5, f6, f7⟩ := fields_9 _ _ _ _ _ _ _ _ _ hw
  have e : rawDecode wd = .ok (.inl (.vfma (wd.extractLsb' 22 3) (wd.extractLsb' 17 5) (wd.extractLsb' 12 5) (wd.extractLsb' 7 5) (wd.extractLsb' 4 3) (wd.extractLsb' 3 1) (wd.extractLsb' 2 1) (wd.extractLsb' 0 2))) := by
    unfold rawDecode
    rw [h0]
    rfl
  rw [e, f0, f1, f2, f3, f4, f5, f6, f7]

theorem raw_vfmab (s : BitVec 3) (d : BitVec 5) (a : BitVec 5) (b : BitVec 5) (l : BitVec 3) (h : BitVec 1) (j : BitVec 1) (u : BitVec 2) :
    rawDecode (68#7 ++ s ++ d ++ a ++ b ++ l ++ h ++ j ++ u) = .ok (.inl (.vfmab s d a b l h j u)) := by
  generalize hw : (68#7 ++ s ++ d ++ a ++ b ++ l ++ h ++ j ++ u) = wd
  obtain ⟨h0, f0, f1, f2, f3, f4, f5, f6, f7⟩ := fields_9 _ _ _ _ _ _ _ _ _ hw
  have e : rawDecode wd = .ok (.inl (.vfmab (wd.extractLsb' 22 3) (wd.extractLsb' 17 5) (wd.extractLsb' 12 5) (wd.extractLsb' 7 5) (wd.extractLsb' 4 3) (wd.extractLsb' 3 1) (wd.extractLsb' 2 1) (wd.extractLsb' 0 2))) := by
    unfold rawDecode
    rw [h0]
    rfl
  rw [e, f0, f1, f2, f3, f4, f5, f6, f7]

theorem raw_vmin (s : BitVec 3) (d : BitVec 5) (a : BitVec 5) (b : BitVec 5) (k : BitVec 3) (h : BitVec 1) (j : BitVec 1) (u : BitVec 2) :
    rawDecode (69#7 ++ s ++ d ++ a ++ b ++ k ++ h ++ j ++ u) = .ok (.inl (.vmin s d a b k h j u)) := by
  generalize hw : (69#7 ++ s ++ d ++ a ++ b ++ k ++ h ++ j ++ u) = wd
  obtain ⟨h0, f0, f1, f2, f3, f4, f5, f6, f7⟩ := fields_9 _ _ _ _ _ _ _ _ _ hw
  have e : rawDecode wd = .ok (.inl (.vmin (wd.extractLsb' 22 3) (wd.extractLsb' 17 5) (wd.extractLsb' 12 5) (wd.extractLsb' 7 5) (wd.extractLsb' 4 3) (wd.extractLsb' 3 1) (wd.extractLsb' 2 1) (wd.extractLsb' 0 2))) := by
    unfold rawDecode
    rw [h0]
    rfl
  rw [e, f0, f1, f2, f3, f4, f5, f6, f7]

theorem raw_vmax (s : BitVec 3) (d : BitVec 5) (a : BitVec 5) (b : BitVec 5) (k : BitVec 3) (h : BitVec 1) (j : BitVec 1) (u : BitVec 2) :
    rawDecode (70#7 ++ s ++ d ++ a ++ b ++ k ++ h ++ j ++ u) = .ok (.inl (.vmax s d a b k h j u)) := by
  generalize hw : (70#7 ++ s ++ d ++ a ++ b ++ k ++ h ++ j ++ u) = wd
  obtain ⟨h0, f0, f1, f2, f3, f4, f5, f6, f7⟩ := fields_9 _ _ _ _ _ _ _ _ _ hw
  have e : rawDecode wd = .ok (.inl (.vmax (wd.extractLsb' 22 3) (wd.extractLsb' 17 5) (wd.extractLsb' 12 5) (wd.extractLsb' 7 5) (wd.extractLsb' 4 3) (wd.extractLsb' 3 1) (wd.extractLsb' 2 1) (wd.extractLsb' 0 2))) := by
    unfold rawDecode
    rw [h0]
    rfl
  rw [e, f0, f1, f2, f3, f4, f5, f6, f7]

theorem raw_vand (s : BitVec 3) (d : BitVec 5) (a : BitVec 5) (b : BitVec 5) (k : BitVec 3) (h : BitVec 1) (j : BitVec 1) (u : BitVec 2) :
    rawDecode (71#7 ++ s ++ d ++ a ++ b ++ k ++ h ++ j ++ u) = .ok (.inl (.vand s d a b k h j u)) := by
  generalize hw : (71#7 ++ s ++ d ++ a ++ b ++ k ++ h ++ j ++ u) = wd
  obtain ⟨h0, f0, f1, f2, f3, f4, f5, f6, f7⟩ := fields_9 _ _ _ _ _ _ _ _ _ hw
  have e : rawDecode wd = .ok (.inl (.vand (wd.extractLsb' 22 3) (wd.extractLsb' 17 5) (wd.extractLsb' 12 5) (wd.extractLsb' 7 5) (wd.extractLsb' 4 3) (wd.extractLsb' 3 1) (wd.extractLsb' 2 1) (wd.extractLsb' 0 2))) := by
    unfold rawDecode
    rw [h0]
    rfl
  rw [e, f0, f1, f2, f3, f4, f5, f6, f7]

theorem raw_vor (s : BitVec 3) (d : BitVec 5) (a : BitVec 5) (b : BitVec 5) (k : BitVec 3) (h : BitVec 1) (j : BitVec 1) (u : BitVec 2) :
    rawDecode (72#7 ++ s ++ d ++ a ++ b ++ k ++ h ++ j ++ u) = .ok (.inl (.vor s d a b k h j u)) := by
  generalize hw : (72#7 ++ s ++ d ++ a ++ b ++ k ++ h ++ j ++ u) = wd
  obtain ⟨h0, f0, f1, f2, f3, f4, f5, f6, f7⟩ := fields_9 _ _ _ _ _ _ _ _ _ hw
  have e : rawDecode wd = .ok (.inl (.vor (wd.extractLsb' 22 3) (wd.extractLsb' 17 5) (wd.extractLsb' 12 5) (wd.extractLsb' 7 5) (wd.extractLsb' 4 3) (wd.extractLsb' 3 1) (wd.extractLsb' 2 1) (wd.extractLsb' 0 2))) := by
    unfold rawDecode
    rw [h0]
    rfl
  rw [e, f0, f1, f2, f3, f4, f5, f6, f7]

theorem raw_vxor (s : BitVec 3) (d : BitVec 5) (a : BitVec 5) (b : BitVec 5) (k : BitVec 3) (h : BitVec 1) (j : BitVec 1) (u : BitVec 2) :
    rawDecode (73#7 ++ s ++ d ++ a ++ b ++ k ++ h ++ j ++ u) = .ok (.inl (.vxor s d a b k h j u)) := by
  generalize hw : (73#7 ++ s ++ d ++ a ++ b ++ k ++ h ++ j ++ u) = wd
  obtain ⟨h0, f0, f1, f2, f3, f4, f5, f6, f7⟩ := fields_9 _ _ _ _ _ _ _ _ _ hw
  have e : rawDecode wd = .ok (.inl (.vxor (wd.extractLsb' 22 3) (wd.extractLsb' 17 5) (wd.extractLsb' 12 5) (wd.extractLsb' 7 5) (wd.extractLsb' 4 3) (wd.extractLsb' 3 1) (wd.extractLsb' 2 1) (wd.extractLsb' 0 2))) := by
    unfold rawDecode
    rw [h0]
    rfl
  rw [e, f0, f1, f2, f3, f4, f5, f6, f7]

theorem raw_vshl (s : BitVec 3) (d : BitVec 5) (a : BitVec 5) (b : BitVec 5) (k : BitVec 3) (h : BitVec 1) (j : BitVec 1) (u : BitVec 2) :
    rawDecode (74#7 ++ s ++ d ++ a ++ b ++ k ++ h ++ j ++ u) = .ok (.inl (.vshl s d a b k h j u)) := by
  generalize hw : (74#7 ++ s ++ d ++ a ++ b ++ k ++ h ++ j ++ u) = wd
  obtain ⟨h0, f0, f1, f2, f3, f4, f5, f6, f7⟩ := fields_9 _ _ _ _ _ _ _ _ _ hw
  have e : rawDecode wd = .ok (.inl (.vshl (wd.extractLsb' 22 3) (wd.extractLsb' 17 5) (wd.extractLsb' 12 5) (wd.extractLsb' 7 5) (wd.extractLsb' 4 3) (wd.extractLsb' 3 1) (wd.extractLsb' 2 1) (wd.extractLsb' 0 2))) := by
    unfold rawDecode
    rw [h0]
    rfl
  rw [e, f0, f1, f2, f3, f4, f5, f6, f7]

theorem raw_vshr (s : BitVec 3) (d : BitVec 5) (a : BitVec 5) (b : BitVec 5) (k : BitVec 3) (h : BitVec 1) (j : BitVec 1) (u : BitVec 2) :
    rawDecode (75#7 ++ s ++ d ++ a ++ b ++ k ++ h ++ j ++ u) = .ok (.inl (.vshr s d a b k h j u)) := by
  generalize hw : (75#7 ++ s ++ d ++ a ++ b ++ k ++ h ++ j ++ u) = wd
  obtain ⟨h0, f0, f1, f2, f3, f4, f5, f6, f7⟩ := fields_9 _ _ _ _ _ _ _ _ _ hw
  have e : rawDecode wd = .ok (.inl (.vshr (wd.extractLsb' 22 3) (wd.extractLsb' 17 5) (wd.extractLsb' 12 5) (wd.extractLsb' 7 5) (wd.extractLsb' 4 3) (wd.extractLsb' 3 1) (wd.extractLsb' 2 1) (wd.extractLsb' 0 2))) := by
    unfold rawDecode
    rw [h0]
    rfl
  rw [e, f0, f1, f2, f3, f4, f5, f6, f7]

theorem raw_vcmpEq (s : BitVec 3) (k : BitVec 3) (a : BitVec 5) (b : BitVec 5) (p : BitVec 3) (h : BitVec 1) (j : BitVec 1) (u : BitVec 2) :
    rawDecode (76#7 ++ s ++ 0#2 ++ k ++ a ++ b ++ p ++ h ++ j ++ u) = .ok (.inl (.vcmpEq s k a b p h j u)) := by
  generalize hw : (76#7 ++ s ++ 0#2 ++ k ++ a ++ b ++ p ++ h ++ j ++ u) = wd
  obtain ⟨h0, f0, h1, f1, f2, f3, f4, f5, f6, f7⟩ := fields_10 _ _ _ _ _ _ _ _ _ _ hw
  have e : rawDecode wd = .ok (.inl (.vcmpEq (wd.extractLsb' 22 3) (wd.extractLsb' 17 3) (wd.extractLsb' 12 5) (wd.extractLsb' 7 5) (wd.extractLsb' 4 3) (wd.extractLsb' 3 1) (wd.extractLsb' 2 1) (wd.extractLsb' 0 2))) := by
    unfold rawDecode decodeMajor4C
    rw [h0, h1]
    rfl
  rw [e, f0, f1, f2, f3, f4, f5, f6, f7]

theorem raw_vcmpNe (s : BitVec 3) (k : BitVec 3) (a : BitVec 5) (b : BitVec 5) (p : BitVec 3) (h : BitVec 1) (j : BitVec 1) (u : BitVec 2) :
    rawDecode (76#7 ++ s ++ 1#2 ++ k ++ a ++ b ++ p ++ h ++ j ++ u) = .ok (.inl (.vcmpNe s k a b p h j u)) := by
  generalize hw : (76#7 ++ s ++ 1#2 ++ k ++ a ++ b ++ p ++ h ++ j ++ u) = wd
  obtain ⟨h0, f0, h1, f1, f2, f3, f4, f5, f6, f7⟩ := fields_10 _ _ _ _ _ _ _ _ _ _ hw
  have e : rawDecode wd = .ok (.inl (.vcmpNe (wd.extractLsb' 22 3) (wd.extractLsb' 17 3) (wd.extractLsb' 12 5) (wd.extractLsb' 7 5) (wd.extractLsb' 4 3) (wd.extractLsb' 3 1) (wd.extractLsb' 2 1) (wd.extractLsb' 0 2))) := by
    unfold rawDecode decodeMajor4C
    rw [h0, h1]
    rfl
  rw [e, f0, f1, f2, f3, f4, f5, f6, f7]

theorem raw_vcmpLt (s : BitVec 3) (k : BitVec 3) (a : BitVec 5) (b : BitVec 5) (p : BitVec 3) (h : BitVec 1) (j : BitVec 1) (u : BitVec 2) :
    rawDecode (76#7 ++ s ++ 2#2 ++ k ++ a ++ b ++ p ++ h ++ j ++ u) = .ok (.inl (.vcmpLt s k a b p h j u)) := by
  generalize hw : (76#7 ++ s ++ 2#2 ++ k ++ a ++ b ++ p ++ h ++ j ++ u) = wd
  obtain ⟨h0, f0, h1, f1, f2, f3, f4, f5, f6, f7⟩ := fields_10 _ _ _ _ _ _ _ _ _ _ hw
  have e : rawDecode wd = .ok (.inl (.vcmpLt (wd.extractLsb' 22 3) (wd.extractLsb' 17 3) (wd.extractLsb' 12 5) (wd.extractLsb' 7 5) (wd.extractLsb' 4 3) (wd.extractLsb' 3 1) (wd.extractLsb' 2 1) (wd.extractLsb' 0 2))) := by
    unfold rawDecode decodeMajor4C
    rw [h0, h1]
    rfl
  rw [e, f0, f1, f2, f3, f4, f5, f6, f7]

theorem raw_vcmpLe (s : BitVec 3) (k : BitVec 3) (a : BitVec 5) (b : BitVec 5) (p : BitVec 3) (h : BitVec 1) (j : BitVec 1) (u : BitVec 2) :
    rawDecode (76#7 ++ s ++ 3#2 ++ k ++ a ++ b ++ p ++ h ++ j ++ u) = .ok (.inl (.vcmpLe s k a b p h j u)) := by
  generalize hw : (76#7 ++ s ++ 3#2 ++ k ++ a ++ b ++ p ++ h ++ j ++ u) = wd
  obtain ⟨h0, f0, h1, f1, f2, f3, f4, f5, f6, f7⟩ := fields_10 _ _ _ _ _ _ _ _ _ _ hw
  have e : rawDecode wd = .ok (.inl (.vcmpLe (wd.extractLsb' 22 3) (wd.extractLsb' 17 3) (wd.extractLsb' 12 5) (wd.extractLsb' 7 5) (wd.extractLsb' 4 3) (wd.extractLsb' 3 1) (wd.extractLsb' 2 1) (wd.extractLsb' 0 2))) := by
    unfold rawDecode decodeMajor4C
    rw [h0, h1]
    rfl
  rw [e, f0, f1, f2, f3, f4, f5, f6, f7]

theorem raw_vsel (s : BitVec 3) (d : BitVec 5) (a : BitVec 5) (b : BitVec 5) (k : BitVec 3) (h : BitVec 1) (j : BitVec 1) (u : BitVec 2) :
    rawDecode (77#7 ++ s ++ d ++ a ++ b ++ k ++ h ++ j ++ u) = .ok (.inl (.vsel s d a b k h j u)) := by
  generalize hw : (77#7 ++ s ++ d ++ a ++ b ++ k ++ h ++ j ++ u) = wd
  obtain ⟨h0, f0, f1, f2, f3, f4, f5, f6, f7⟩ := fields_9 _ _ _ _ _ _ _ _ _ hw
  have e : rawDecode wd = .ok (.inl (.vsel (wd.extractLsb' 22 3) (wd.extractLsb' 17 5) (wd.extractLsb' 12 5) (wd.extractLsb' 7 5) (wd.extractLsb' 4 3) (wd.extractLsb' 3 1) (wd.extractLsb' 2 1) (wd.extractLsb' 0 2))) := by
    unfold rawDecode
    rw [h0]
    rfl
  rw [e, f0, f1, f2, f3, f4, f5, f6, f7]

theorem raw_vabs (s : BitVec 3) (d : BitVec 5) (a : BitVec 5) (k : BitVec 3) (h : BitVec 1) (j : BitVec 1) (u : BitVec 2) :
    rawDecode (78#7 ++ s ++ d ++ a ++ 0#5 ++ k ++ h ++ j ++ u) = .ok (.inl (.vabs s d a k h j u)) := by
  generalize hw : (78#7 ++ s ++ d ++ a ++ 0#5 ++ k ++ h ++ j ++ u) = wd
  obtain ⟨h0, f0, f1, f2, h1, f3, f4, f5, f6⟩ := fields_9 _ _ _ _ _ _ _ _ _ hw
  have e : rawDecode wd = .ok (.inl (.vabs (wd.extractLsb' 22 3) (wd.extractLsb' 17 5) (wd.extractLsb' 12 5) (wd.extractLsb' 4 3) (wd.extractLsb' 3 1) (wd.extractLsb' 2 1) (wd.extractLsb' 0 2))) := by
    unfold rawDecode decodeMajor4E
    rw [h0, h1]
    rfl
  rw [e, f0, f1, f2, f3, f4, f5, f6]

theorem raw_vneg (s : BitVec 3) (d : BitVec 5) (a : BitVec 5) (k : BitVec 3) (h : BitVec 1) (j : BitVec 1) (u : BitVec 2) :
    rawDecode (78#7 ++ s ++ d ++ a ++ 1#5 ++ k ++ h ++ j ++ u) = .ok (.inl (.vneg s d a k h j u)) := by
  generalize hw : (78#7 ++ s ++ d ++ a ++ 1#5 ++ k ++ h ++ j ++ u) = wd
  obtain ⟨h0, f0, f1, f2, h1, f3, f4, f5, f6⟩ := fields_9 _ _ _ _ _ _ _ _ _ hw
  have e : rawDecode wd = .ok (.inl (.vneg (wd.extractLsb' 22 3) (wd.extractLsb' 17 5) (wd.extractLsb' 12 5) (wd.extractLsb' 4 3) (wd.extractLsb' 3 1) (wd.extractLsb' 2 1) (wd.extractLsb' 0 2))) := by
    unfold rawDecode decodeMajor4E
    rw [h0, h1]
    rfl
  rw [e, f0, f1, f2, f3, f4, f5, f6]

theorem raw_vrcp (s : BitVec 3) (d : BitVec 5) (a : BitVec 5) (k : BitVec 3) (h : BitVec 1) (j : BitVec 1) (u : BitVec 2) :
    rawDecode (78#7 ++ s ++ d ++ a ++ 2#5 ++ k ++ h ++ j ++ u) = .ok (.inl (.vrcp s d a k h j u)) := by
  generalize hw : (78#7 ++ s ++ d ++ a ++ 2#5 ++ k ++ h ++ j ++ u) = wd
  obtain ⟨h0, f0, f1, f2, h1, f3, f4, f5, f6⟩ := fields_9 _ _ _ _ _ _ _ _ _ hw
  have e : rawDecode wd = .ok (.inl (.vrcp (wd.extractLsb' 22 3) (wd.extractLsb' 17 5) (wd.extractLsb' 12 5) (wd.extractLsb' 4 3) (wd.extractLsb' 3 1) (wd.extractLsb' 2 1) (wd.extractLsb' 0 2))) := by
    unfold rawDecode decodeMajor4E
    rw [h0, h1]
    rfl
  rw [e, f0, f1, f2, f3, f4, f5, f6]

theorem raw_vrsq (s : BitVec 3) (d : BitVec 5) (a : BitVec 5) (k : BitVec 3) (h : BitVec 1) (j : BitVec 1) (u : BitVec 2) :
    rawDecode (78#7 ++ s ++ d ++ a ++ 3#5 ++ k ++ h ++ j ++ u) = .ok (.inl (.vrsq s d a k h j u)) := by
  generalize hw : (78#7 ++ s ++ d ++ a ++ 3#5 ++ k ++ h ++ j ++ u) = wd
  obtain ⟨h0, f0, f1, f2, h1, f3, f4, f5, f6⟩ := fields_9 _ _ _ _ _ _ _ _ _ hw
  have e : rawDecode wd = .ok (.inl (.vrsq (wd.extractLsb' 22 3) (wd.extractLsb' 17 5) (wd.extractLsb' 12 5) (wd.extractLsb' 4 3) (wd.extractLsb' 3 1) (wd.extractLsb' 2 1) (wd.extractLsb' 0 2))) := by
    unfold rawDecode decodeMajor4E
    rw [h0, h1]
    rfl
  rw [e, f0, f1, f2, f3, f4, f5, f6]

theorem raw_vexp2 (s : BitVec 3) (d : BitVec 5) (a : BitVec 5) (k : BitVec 3) (h : BitVec 1) (j : BitVec 1) (u : BitVec 2) :
    rawDecode (78#7 ++ s ++ d ++ a ++ 4#5 ++ k ++ h ++ j ++ u) = .ok (.inl (.vexp2 s d a k h j u)) := by
  generalize hw : (78#7 ++ s ++ d ++ a ++ 4#5 ++ k ++ h ++ j ++ u) = wd
  obtain ⟨h0, f0, f1, f2, h1, f3, f4, f5, f6⟩ := fields_9 _ _ _ _ _ _ _ _ _ hw
  have e : rawDecode wd = .ok (.inl (.vexp2 (wd.extractLsb' 22 3) (wd.extractLsb' 17 5) (wd.extractLsb' 12 5) (wd.extractLsb' 4 3) (wd.extractLsb' 3 1) (wd.extractLsb' 2 1) (wd.extractLsb' 0 2))) := by
    unfold rawDecode decodeMajor4E
    rw [h0, h1]
    rfl
  rw [e, f0, f1, f2, f3, f4, f5, f6]

theorem raw_vlog2 (s : BitVec 3) (d : BitVec 5) (a : BitVec 5) (k : BitVec 3) (h : BitVec 1) (j : BitVec 1) (u : BitVec 2) :
    rawDecode (78#7 ++ s ++ d ++ a ++ 5#5 ++ k ++ h ++ j ++ u) = .ok (.inl (.vlog2 s d a k h j u)) := by
  generalize hw : (78#7 ++ s ++ d ++ a ++ 5#5 ++ k ++ h ++ j ++ u) = wd
  obtain ⟨h0, f0, f1, f2, h1, f3, f4, f5, f6⟩ := fields_9 _ _ _ _ _ _ _ _ _ hw
  have e : rawDecode wd = .ok (.inl (.vlog2 (wd.extractLsb' 22 3) (wd.extractLsb' 17 5) (wd.extractLsb' 12 5) (wd.extractLsb' 4 3) (wd.extractLsb' 3 1) (wd.extractLsb' 2 1) (wd.extractLsb' 0 2))) := by
    unfold rawDecode decodeMajor4E
    rw [h0, h1]
    rfl
  rw [e, f0, f1, f2, f3, f4, f5, f6]

theorem raw_vcvtF2s (s : BitVec 3) (d : BitVec 5) (a : BitVec 5) (k : BitVec 3) (h : BitVec 1) (j : BitVec 1) (u : BitVec 2) :
    rawDecode (79#7 ++ s ++ d ++ a ++ 0#5 ++ k ++ h ++ j ++ u) = .ok (.inl (.vcvtF2s s d a k h j u)) := by
  generalize hw : (79#7 ++ s ++ d ++ a ++ 0#5 ++ k ++ h ++ j ++ u) = wd
  obtain ⟨h0, f0, f1, f2, h1, f3, f4, f5, f6⟩ := fields_9 _ _ _ _ _ _ _ _ _ hw
  have e : rawDecode wd = .ok (.inl (.vcvtF2s (wd.extractLsb' 22 3) (wd.extractLsb' 17 5) (wd.extractLsb' 12 5) (wd.extractLsb' 4 3) (wd.extractLsb' 3 1) (wd.extractLsb' 2 1) (wd.extractLsb' 0 2))) := by
    unfold rawDecode decodeMajor4F
    rw [h0]
    rw [h1]
    rfl
  rw [e, f0, f1, f2, f3, f4, f5, f6]

theorem raw_vcvtF2n (s : BitVec 3) (d : BitVec 5) (a : BitVec 5) (k : BitVec 3) (h : BitVec 1) (j : BitVec 1) (u : BitVec 2) :
    rawDecode (79#7 ++ s ++ d ++ a ++ 1#5 ++ k ++ h ++ j ++ u) = .ok (.inl (.vcvtF2n s d a k h j u)) := by
  generalize hw : (79#7 ++ s ++ d ++ a ++ 1#5 ++ k ++ h ++ j ++ u) = wd
  obtain ⟨h0, f0, f1, f2, h1, f3, f4, f5, f6⟩ := fields_9 _ _ _ _ _ _ _ _ _ hw
  have e : rawDecode wd = .ok (.inl (.vcvtF2n (wd.extractLsb' 22 3) (wd.extractLsb' 17 5) (wd.extractLsb' 12 5) (wd.extractLsb' 4 3) (wd.extractLsb' 3 1) (wd.extractLsb' 2 1) (wd.extractLsb' 0 2))) := by
    unfold rawDecode decodeMajor4F
    rw [h0]
    rw [h1]
    rfl
  rw [e, f0, f1, f2, f3, f4, f5, f6]

theorem raw_vcvtS2f (s : BitVec 3) (d : BitVec 5) (a : BitVec 5) (k : BitVec 3) (h : BitVec 1) (j : BitVec 1) (u : BitVec 2) :
    rawDecode (79#7 ++ s ++ d ++ a ++ 2#5 ++ k ++ h ++ j ++ u) = .ok (.inl (.vcvtS2f s d a k h j u)) := by
  generalize hw : (79#7 ++ s ++ d ++ a ++ 2#5 ++ k ++ h ++ j ++ u) = wd
  obtain ⟨h0, f0, f1, f2, h1, f3, f4, f5, f6⟩ := fields_9 _ _ _ _ _ _ _ _ _ hw
  have e : rawDecode wd = .ok (.inl (.vcvtS2f (wd.extractLsb' 22 3) (wd.extractLsb' 17 5) (wd.extractLsb' 12 5) (wd.extractLsb' 4 3) (wd.extractLsb' 3 1) (wd.extractLsb' 2 1) (wd.extractLsb' 0 2))) := by
    unfold rawDecode decodeMajor4F
    rw [h0]
    rw [h1]
    rfl
  rw [e, f0, f1, f2, f3, f4, f5, f6]

theorem raw_vcvtN2f (s : BitVec 3) (d : BitVec 5) (a : BitVec 5) (k : BitVec 3) (h : BitVec 1) (j : BitVec 1) (u : BitVec 2) :
    rawDecode (79#7 ++ s ++ d ++ a ++ 3#5 ++ k ++ h ++ j ++ u) = .ok (.inl (.vcvtN2f s d a k h j u)) := by
  generalize hw : (79#7 ++ s ++ d ++ a ++ 3#5 ++ k ++ h ++ j ++ u) = wd
  obtain ⟨h0, f0, f1, f2, h1, f3, f4, f5, f6⟩ := fields_9 _ _ _ _ _ _ _ _ _ hw
  have e : rawDecode wd = .ok (.inl (.vcvtN2f (wd.extractLsb' 22 3) (wd.extractLsb' 17 5) (wd.extractLsb' 12 5) (wd.extractLsb' 4 3) (wd.extractLsb' 3 1) (wd.extractLsb' 2 1) (wd.extractLsb' 0 2))) := by
    unfold rawDecode decodeMajor4F
    rw [h0]
    rw [h1]
    rfl
  rw [e, f0, f1, f2, f3, f4, f5, f6]

theorem raw_vcvtF2b (s : BitVec 3) (d : BitVec 5) (a : BitVec 5) (w : BitVec 1) (k : BitVec 3) (h : BitVec 1) (j : BitVec 1) (u : BitVec 2) :
    rawDecode (79#7 ++ s ++ d ++ a ++ 2#4 ++ w ++ k ++ h ++ j ++ u) = .ok (.inl (.vcvtF2b s d a w k h j u)) := by
  generalize hw : (79#7 ++ s ++ d ++ a ++ 2#4 ++ w ++ k ++ h ++ j ++ u) = wd
  obtain ⟨h0, f0, f1, f2, h1, f3, f4, f5, f6, f7⟩ := fields_11 _ _ _ _ _ _ _ _ _ _ hw
  have e : rawDecode wd = .ok (.inl (.vcvtF2b (wd.extractLsb' 22 3) (wd.extractLsb' 17 5) (wd.extractLsb' 12 5) (wd.extractLsb' 7 1) (wd.extractLsb' 4 3) (wd.extractLsb' 3 1) (wd.extractLsb' 2 1) (wd.extractLsb' 0 2))) := by
    unfold rawDecode decodeMajor4F
    rw [h0]
    rw [ext_join h1 f3, h1]
    obtain rfl | rfl := bit_cases w <;> rfl
  rw [e, f0, f1, f2, f3, f4, f5, f6, f7]

theorem raw_vcvtF2h (s : BitVec 3) (d : BitVec 5) (a : BitVec 5) (w : BitVec 1) (k : BitVec 3) (h : BitVec 1) (j : BitVec 1) (u : BitVec 2) :
    rawDecode (79#7 ++ s ++ d ++ a ++ 3#4 ++ w ++ k ++ h ++ j ++ u) = .ok (.inl (.vcvtF2h s d a w k h j u)) := by
  generalize hw : (79#7 ++ s ++ d ++ a ++ 3#4 ++ w ++ k ++ h ++ j ++ u) = wd
  obtain ⟨h0, f0, f1, f2, h1, f3, f4, f5, f6, f7⟩ := fields_11 _ _ _ _ _ _ _ _ _ _ hw
  have e : rawDecode wd = .ok (.inl (.vcvtF2h (wd.extractLsb' 22 3) (wd.extractLsb' 17 5) (wd.extractLsb' 12 5) (wd.extractLsb' 7 1) (wd.extractLsb' 4 3) (wd.extractLsb' 3 1) (wd.extractLsb' 2 1) (wd.extractLsb' 0 2))) := by
    unfold rawDecode decodeMajor4F
    rw [h0]
    rw [ext_join h1 f3, h1]
    obtain rfl | rfl := bit_cases w <;> rfl
  rw [e, f0, f1, f2, f3, f4, f5, f6, f7]

theorem raw_vcvtB2f (s : BitVec 3) (d : BitVec 5) (a : BitVec 5) (w : BitVec 1) (k : BitVec 3) (h : BitVec 1) (j : BitVec 1) (u : BitVec 2) :
    rawDecode (79#7 ++ s ++ d ++ a ++ 4#4 ++ w ++ k ++ h ++ j ++ u) = .ok (.inl (.vcvtB2f s d a w k h j u)) := by
  generalize hw : (79#7 ++ s ++ d ++ a ++ 4#4 ++ w ++ k ++ h ++ j ++ u) = wd
  obtain ⟨h0, f0, f1, f2, h1, f3, f4, f5, f6, f7⟩ := fields_11 _ _ _ _ _ _ _ _ _ _ hw
  have e : rawDecode wd = .ok (.inl (.vcvtB2f (wd.extractLsb' 22 3) (wd.extractLsb' 17 5) (wd.extractLsb' 12 5) (wd.extractLsb' 7 1) (wd.extractLsb' 4 3) (wd.extractLsb' 3 1) (wd.extractLsb' 2 1) (wd.extractLsb' 0 2))) := by
    unfold rawDecode decodeMajor4F
    rw [h0]
    rw [ext_join h1 f3, h1]
    obtain rfl | rfl := bit_cases w <;> rfl
  rw [e, f0, f1, f2, f3, f4, f5, f6, f7]

theorem raw_vcvtH2f (s : BitVec 3) (d : BitVec 5) (a : BitVec 5) (w : BitVec 1) (k : BitVec 3) (h : BitVec 1) (j : BitVec 1) (u : BitVec 2) :
    rawDecode (79#7 ++ s ++ d ++ a ++ 5#4 ++ w ++ k ++ h ++ j ++ u) = .ok (.inl (.vcvtH2f s d a w k h j u)) := by
  generalize hw : (79#7 ++ s ++ d ++ a ++ 5#4 ++ w ++ k ++ h ++ j ++ u) = wd
  obtain ⟨h0, f0, f1, f2, h1, f3, f4, f5, f6, f7⟩ := fields_11 _ _ _ _ _ _ _ _ _ _ hw
  have e : rawDecode wd = .ok (.inl (.vcvtH2f (wd.extractLsb' 22 3) (wd.extractLsb' 17 5) (wd.extractLsb' 12 5) (wd.extractLsb' 7 1) (wd.extractLsb' 4 3) (wd.extractLsb' 3 1) (wd.extractLsb' 2 1) (wd.extractLsb' 0 2))) := by
    unfold rawDecode decodeMajor4F
    rw [h0]
    rw [ext_join h1 f3, h1]
    obtain rfl | rfl := bit_cases w <;> rfl
  rw [e, f0, f1, f2, f3, f4, f5, f6, f7]

theorem raw_vcvtF2e4 (s : BitVec 3) (d : BitVec 5) (a : BitVec 5) (y : BitVec 2) (k : BitVec 3) (h : BitVec 1) (j : BitVec 1) (u : BitVec 2) :
    rawDecode (79#7 ++ s ++ d ++ a ++ 3#3 ++ y ++ k ++ h ++ j ++ u) = .ok (.inl (.vcvtF2e4 s d a y k h j u)) := by
  generalize hw : (79#7 ++ s ++ d ++ a ++ 3#3 ++ y ++ k ++ h ++ j ++ u) = wd
  obtain ⟨h0, f0, f1, f2, h1, f3, f4, f5, f6, f7⟩ := fields_12 _ _ _ _ _ _ _ _ _ _ hw
  have e : rawDecode wd = .ok (.inl (.vcvtF2e4 (wd.extractLsb' 22 3) (wd.extractLsb' 17 5) (wd.extractLsb' 12 5) (wd.extractLsb' 7 2) (wd.extractLsb' 4 3) (wd.extractLsb' 3 1) (wd.extractLsb' 2 1) (wd.extractLsb' 0 2))) := by
    unfold rawDecode decodeMajor4F
    rw [h0]
    have q : wd.extractLsb' 8 1 = y.extractLsb' 1 1 := ext_sub f3
    rw [ext_join h1 f3, ext_join h1 q, h1]
    obtain rfl | rfl | rfl | rfl := pair_cases y <;> rfl
  rw [e, f0, f1, f2, f3, f4, f5, f6, f7]

theorem raw_vcvtF2e5 (s : BitVec 3) (d : BitVec 5) (a : BitVec 5) (y : BitVec 2) (k : BitVec 3) (h : BitVec 1) (j : BitVec 1) (u : BitVec 2) :
    rawDecode (79#7 ++ s ++ d ++ a ++ 4#3 ++ y ++ k ++ h ++ j ++ u) = .ok (.inl (.vcvtF2e5 s d a y k h j u)) := by
  generalize hw : (79#7 ++ s ++ d ++ a ++ 4#3 ++ y ++ k ++ h ++ j ++ u) = wd
  obtain ⟨h0, f0, f1, f2, h1, f3, f4, f5, f6, f7⟩ := fields_12 _ _ _ _ _ _ _ _ _ _ hw
  have e : rawDecode wd = .ok (.inl (.vcvtF2e5 (wd.extractLsb' 22 3) (wd.extractLsb' 17 5) (wd.extractLsb' 12 5) (wd.extractLsb' 7 2) (wd.extractLsb' 4 3) (wd.extractLsb' 3 1) (wd.extractLsb' 2 1) (wd.extractLsb' 0 2))) := by
    unfold rawDecode decodeMajor4F
    rw [h0]
    have q : wd.extractLsb' 8 1 = y.extractLsb' 1 1 := ext_sub f3
    rw [ext_join h1 f3, ext_join h1 q, h1]
    obtain rfl | rfl | rfl | rfl := pair_cases y <;> rfl
  rw [e, f0, f1, f2, f3, f4, f5, f6, f7]

theorem raw_vcvtE4f (s : BitVec 3) (d : BitVec 5) (a : BitVec 5) (y : BitVec 2) (k : BitVec 3) (h : BitVec 1) (j : BitVec 1) (u : BitVec 2) :
    rawDecode (79#7 ++ s ++ d ++ a ++ 5#3 ++ y ++ k ++ h ++ j ++ u) = .ok (.inl (.vcvtE4f s d a y k h j u)) := by
  generalize hw : (79#7 ++ s ++ d ++ a ++ 5#3 ++ y ++ k ++ h ++ j ++ u) = wd
  obtain ⟨h0, f0, f1, f2, h1, f3, f4, f5, f6, f7⟩ := fields_12 _ _ _ _ _ _ _ _ _ _ hw
  have e : rawDecode wd = .ok (.inl (.vcvtE4f (wd.extractLsb' 22 3) (wd.extractLsb' 17 5) (wd.extractLsb' 12 5) (wd.extractLsb' 7 2) (wd.extractLsb' 4 3) (wd.extractLsb' 3 1) (wd.extractLsb' 2 1) (wd.extractLsb' 0 2))) := by
    unfold rawDecode decodeMajor4F
    rw [h0]
    have q : wd.extractLsb' 8 1 = y.extractLsb' 1 1 := ext_sub f3
    rw [ext_join h1 f3, ext_join h1 q, h1]
    obtain rfl | rfl | rfl | rfl := pair_cases y <;> rfl
  rw [e, f0, f1, f2, f3, f4, f5, f6, f7]

theorem raw_vcvtE5f (s : BitVec 3) (d : BitVec 5) (a : BitVec 5) (y : BitVec 2) (k : BitVec 3) (h : BitVec 1) (j : BitVec 1) (u : BitVec 2) :
    rawDecode (79#7 ++ s ++ d ++ a ++ 6#3 ++ y ++ k ++ h ++ j ++ u) = .ok (.inl (.vcvtE5f s d a y k h j u)) := by
  generalize hw : (79#7 ++ s ++ d ++ a ++ 6#3 ++ y ++ k ++ h ++ j ++ u) = wd
  obtain ⟨h0, f0, f1, f2, h1, f3, f4, f5, f6, f7⟩ := fields_12 _ _ _ _ _ _ _ _ _ _ hw
  have e : rawDecode wd = .ok (.inl (.vcvtE5f (wd.extractLsb' 22 3) (wd.extractLsb' 17 5) (wd.extractLsb' 12 5) (wd.extractLsb' 7 2) (wd.extractLsb' 4 3) (wd.extractLsb' 3 1) (wd.extractLsb' 2 1) (wd.extractLsb' 0 2))) := by
    unfold rawDecode decodeMajor4F
    rw [h0]
    have q : wd.extractLsb' 8 1 = y.extractLsb' 1 1 := ext_sub f3
    rw [ext_join h1 f3, ext_join h1 q, h1]
    obtain rfl | rfl | rfl | rfl := pair_cases y <;> rfl
  rw [e, f0, f1, f2, f3, f4, f5, f6, f7]

theorem raw_vredSum (s : BitVec 3) (d : BitVec 5) (a : BitVec 5) (x : BitVec 1) (k : BitVec 3) (h : BitVec 1) (j : BitVec 1) (u : BitVec 2) :
    rawDecode (80#7 ++ s ++ d ++ a ++ 0#1 ++ x ++ 0#3 ++ k ++ h ++ j ++ u) = .ok (.inl (.vredSum s d a x k h j u)) := by
  generalize hw : (80#7 ++ s ++ d ++ a ++ 0#1 ++ x ++ 0#3 ++ k ++ h ++ j ++ u) = wd
  obtain ⟨h0, f0, f1, f2, h2, f3, h1, f4, f5, f6, f7⟩ := fields_13 _ _ _ _ _ _ _ _ _ _ _ hw
  have e : rawDecode wd = .ok (.inl (.vredSum (wd.extractLsb' 22 3) (wd.extractLsb' 17 5) (wd.extractLsb' 12 5) (wd.extractLsb' 10 1) (wd.extractLsb' 4 3) (wd.extractLsb' 3 1) (wd.extractLsb' 2 1) (wd.extractLsb' 0 2))) := by
    unfold rawDecode decodeMajor50
    rw [h0, h1, h2]
    rfl
  rw [e, f0, f1, f2, f3, f4, f5, f6, f7]

theorem raw_vredMin (s : BitVec 3) (d : BitVec 5) (a : BitVec 5) (x : BitVec 1) (k : BitVec 3) (h : BitVec 1) (j : BitVec 1) (u : BitVec 2) :
    rawDecode (80#7 ++ s ++ d ++ a ++ 0#1 ++ x ++ 1#3 ++ k ++ h ++ j ++ u) = .ok (.inl (.vredMin s d a x k h j u)) := by
  generalize hw : (80#7 ++ s ++ d ++ a ++ 0#1 ++ x ++ 1#3 ++ k ++ h ++ j ++ u) = wd
  obtain ⟨h0, f0, f1, f2, h2, f3, h1, f4, f5, f6, f7⟩ := fields_13 _ _ _ _ _ _ _ _ _ _ _ hw
  have e : rawDecode wd = .ok (.inl (.vredMin (wd.extractLsb' 22 3) (wd.extractLsb' 17 5) (wd.extractLsb' 12 5) (wd.extractLsb' 10 1) (wd.extractLsb' 4 3) (wd.extractLsb' 3 1) (wd.extractLsb' 2 1) (wd.extractLsb' 0 2))) := by
    unfold rawDecode decodeMajor50
    rw [h0, h1, h2]
    rfl
  rw [e, f0, f1, f2, f3, f4, f5, f6, f7]

theorem raw_vredMax (s : BitVec 3) (d : BitVec 5) (a : BitVec 5) (x : BitVec 1) (k : BitVec 3) (h : BitVec 1) (j : BitVec 1) (u : BitVec 2) :
    rawDecode (80#7 ++ s ++ d ++ a ++ 0#1 ++ x ++ 2#3 ++ k ++ h ++ j ++ u) = .ok (.inl (.vredMax s d a x k h j u)) := by
  generalize hw : (80#7 ++ s ++ d ++ a ++ 0#1 ++ x ++ 2#3 ++ k ++ h ++ j ++ u) = wd
  obtain ⟨h0, f0, f1, f2, h2, f3, h1, f4, f5, f6, f7⟩ := fields_13 _ _ _ _ _ _ _ _ _ _ _ hw
  have e : rawDecode wd = .ok (.inl (.vredMax (wd.extractLsb' 22 3) (wd.extractLsb' 17 5) (wd.extractLsb' 12 5) (wd.extractLsb' 10 1) (wd.extractLsb' 4 3) (wd.extractLsb' 3 1) (wd.extractLsb' 2 1) (wd.extractLsb' 0 2))) := by
    unfold rawDecode decodeMajor50
    rw [h0, h1, h2]
    rfl
  rw [e, f0, f1, f2, f3, f4, f5, f6, f7]

theorem raw_vredAnd (s : BitVec 3) (d : BitVec 5) (a : BitVec 5) (x : BitVec 1) (k : BitVec 3) (h : BitVec 1) (j : BitVec 1) (u : BitVec 2) :
    rawDecode (80#7 ++ s ++ d ++ a ++ 0#1 ++ x ++ 3#3 ++ k ++ h ++ j ++ u) = .ok (.inl (.vredAnd s d a x k h j u)) := by
  generalize hw : (80#7 ++ s ++ d ++ a ++ 0#1 ++ x ++ 3#3 ++ k ++ h ++ j ++ u) = wd
  obtain ⟨h0, f0, f1, f2, h2, f3, h1, f4, f5, f6, f7⟩ := fields_13 _ _ _ _ _ _ _ _ _ _ _ hw
  have e : rawDecode wd = .ok (.inl (.vredAnd (wd.extractLsb' 22 3) (wd.extractLsb' 17 5) (wd.extractLsb' 12 5) (wd.extractLsb' 10 1) (wd.extractLsb' 4 3) (wd.extractLsb' 3 1) (wd.extractLsb' 2 1) (wd.extractLsb' 0 2))) := by
    unfold rawDecode decodeMajor50
    rw [h0, h1, h2]
    rfl
  rw [e, f0, f1, f2, f3, f4, f5, f6, f7]

theorem raw_vredOr (s : BitVec 3) (d : BitVec 5) (a : BitVec 5) (x : BitVec 1) (k : BitVec 3) (h : BitVec 1) (j : BitVec 1) (u : BitVec 2) :
    rawDecode (80#7 ++ s ++ d ++ a ++ 0#1 ++ x ++ 4#3 ++ k ++ h ++ j ++ u) = .ok (.inl (.vredOr s d a x k h j u)) := by
  generalize hw : (80#7 ++ s ++ d ++ a ++ 0#1 ++ x ++ 4#3 ++ k ++ h ++ j ++ u) = wd
  obtain ⟨h0, f0, f1, f2, h2, f3, h1, f4, f5, f6, f7⟩ := fields_13 _ _ _ _ _ _ _ _ _ _ _ hw
  have e : rawDecode wd = .ok (.inl (.vredOr (wd.extractLsb' 22 3) (wd.extractLsb' 17 5) (wd.extractLsb' 12 5) (wd.extractLsb' 10 1) (wd.extractLsb' 4 3) (wd.extractLsb' 3 1) (wd.extractLsb' 2 1) (wd.extractLsb' 0 2))) := by
    unfold rawDecode decodeMajor50
    rw [h0, h1, h2]
    rfl
  rw [e, f0, f1, f2, f3, f4, f5, f6, f7]

theorem raw_vredXor (s : BitVec 3) (d : BitVec 5) (a : BitVec 5) (x : BitVec 1) (k : BitVec 3) (h : BitVec 1) (j : BitVec 1) (u : BitVec 2) :
    rawDecode (80#7 ++ s ++ d ++ a ++ 0#1 ++ x ++ 5#3 ++ k ++ h ++ j ++ u) = .ok (.inl (.vredXor s d a x k h j u)) := by
  generalize hw : (80#7 ++ s ++ d ++ a ++ 0#1 ++ x ++ 5#3 ++ k ++ h ++ j ++ u) = wd
  obtain ⟨h0, f0, f1, f2, h2, f3, h1, f4, f5, f6, f7⟩ := fields_13 _ _ _ _ _ _ _ _ _ _ _ hw
  have e : rawDecode wd = .ok (.inl (.vredXor (wd.extractLsb' 22 3) (wd.extractLsb' 17 5) (wd.extractLsb' 12 5) (wd.extractLsb' 10 1) (wd.extractLsb' 4 3) (wd.extractLsb' 3 1) (wd.extractLsb' 2 1) (wd.extractLsb' 0 2))) := by
    unfold rawDecode decodeMajor50
    rw [h0, h1, h2]
    rfl
  rw [e, f0, f1, f2, f3, f4, f5, f6, f7]

theorem raw_vscanSum (s : BitVec 3) (d : BitVec 5) (a : BitVec 5) (x : BitVec 1) (k : BitVec 3) (h : BitVec 1) (j : BitVec 1) (u : BitVec 2) :
    rawDecode (80#7 ++ s ++ d ++ a ++ 1#1 ++ x ++ 0#3 ++ k ++ h ++ j ++ u) = .ok (.inl (.vscanSum s d a x k h j u)) := by
  generalize hw : (80#7 ++ s ++ d ++ a ++ 1#1 ++ x ++ 0#3 ++ k ++ h ++ j ++ u) = wd
  obtain ⟨h0, f0, f1, f2, h2, f3, h1, f4, f5, f6, f7⟩ := fields_13 _ _ _ _ _ _ _ _ _ _ _ hw
  have e : rawDecode wd = .ok (.inl (.vscanSum (wd.extractLsb' 22 3) (wd.extractLsb' 17 5) (wd.extractLsb' 12 5) (wd.extractLsb' 10 1) (wd.extractLsb' 4 3) (wd.extractLsb' 3 1) (wd.extractLsb' 2 1) (wd.extractLsb' 0 2))) := by
    unfold rawDecode decodeMajor50
    rw [h0, h1, h2]
    rfl
  rw [e, f0, f1, f2, f3, f4, f5, f6, f7]

theorem raw_vscanMin (s : BitVec 3) (d : BitVec 5) (a : BitVec 5) (x : BitVec 1) (k : BitVec 3) (h : BitVec 1) (j : BitVec 1) (u : BitVec 2) :
    rawDecode (80#7 ++ s ++ d ++ a ++ 1#1 ++ x ++ 1#3 ++ k ++ h ++ j ++ u) = .ok (.inl (.vscanMin s d a x k h j u)) := by
  generalize hw : (80#7 ++ s ++ d ++ a ++ 1#1 ++ x ++ 1#3 ++ k ++ h ++ j ++ u) = wd
  obtain ⟨h0, f0, f1, f2, h2, f3, h1, f4, f5, f6, f7⟩ := fields_13 _ _ _ _ _ _ _ _ _ _ _ hw
  have e : rawDecode wd = .ok (.inl (.vscanMin (wd.extractLsb' 22 3) (wd.extractLsb' 17 5) (wd.extractLsb' 12 5) (wd.extractLsb' 10 1) (wd.extractLsb' 4 3) (wd.extractLsb' 3 1) (wd.extractLsb' 2 1) (wd.extractLsb' 0 2))) := by
    unfold rawDecode decodeMajor50
    rw [h0, h1, h2]
    rfl
  rw [e, f0, f1, f2, f3, f4, f5, f6, f7]

theorem raw_vscanMax (s : BitVec 3) (d : BitVec 5) (a : BitVec 5) (x : BitVec 1) (k : BitVec 3) (h : BitVec 1) (j : BitVec 1) (u : BitVec 2) :
    rawDecode (80#7 ++ s ++ d ++ a ++ 1#1 ++ x ++ 2#3 ++ k ++ h ++ j ++ u) = .ok (.inl (.vscanMax s d a x k h j u)) := by
  generalize hw : (80#7 ++ s ++ d ++ a ++ 1#1 ++ x ++ 2#3 ++ k ++ h ++ j ++ u) = wd
  obtain ⟨h0, f0, f1, f2, h2, f3, h1, f4, f5, f6, f7⟩ := fields_13 _ _ _ _ _ _ _ _ _ _ _ hw
  have e : rawDecode wd = .ok (.inl (.vscanMax (wd.extractLsb' 22 3) (wd.extractLsb' 17 5) (wd.extractLsb' 12 5) (wd.extractLsb' 10 1) (wd.extractLsb' 4 3) (wd.extractLsb' 3 1) (wd.extractLsb' 2 1) (wd.extractLsb' 0 2))) := by
    unfold rawDecode decodeMajor50
    rw [h0, h1, h2]
    rfl
  rw [e, f0, f1, f2, f3, f4, f5, f6, f7]

theorem raw_vscanAnd (s : BitVec 3) (d : BitVec 5) (a : BitVec 5) (x : BitVec 1) (k : BitVec 3) (h : BitVec 1) (j : BitVec 1) (u : BitVec 2) :
    rawDecode (80#7 ++ s ++ d ++ a ++ 1#1 ++ x ++ 3#3 ++ k ++ h ++ j ++ u) = .ok (.inl (.vscanAnd s d a x k h j u)) := by
  generalize hw : (80#7 ++ s ++ d ++ a ++ 1#1 ++ x ++ 3#3 ++ k ++ h ++ j ++ u) = wd
  obtain ⟨h0, f0, f1, f2, h2, f3, h1, f4, f5, f6, f7⟩ := fields_13 _ _ _ _ _ _ _ _ _ _ _ hw
  have e : rawDecode wd = .ok (.inl (.vscanAnd (wd.extractLsb' 22 3) (wd.extractLsb' 17 5) (wd.extractLsb' 12 5) (wd.extractLsb' 10 1) (wd.extractLsb' 4 3) (wd.extractLsb' 3 1) (wd.extractLsb' 2 1) (wd.extractLsb' 0 2))) := by
    unfold rawDecode decodeMajor50
    rw [h0, h1, h2]
    rfl
  rw [e, f0, f1, f2, f3, f4, f5, f6, f7]

theorem raw_vscanOr (s : BitVec 3) (d : BitVec 5) (a : BitVec 5) (x : BitVec 1) (k : BitVec 3) (h : BitVec 1) (j : BitVec 1) (u : BitVec 2) :
    rawDecode (80#7 ++ s ++ d ++ a ++ 1#1 ++ x ++ 4#3 ++ k ++ h ++ j ++ u) = .ok (.inl (.vscanOr s d a x k h j u)) := by
  generalize hw : (80#7 ++ s ++ d ++ a ++ 1#1 ++ x ++ 4#3 ++ k ++ h ++ j ++ u) = wd
  obtain ⟨h0, f0, f1, f2, h2, f3, h1, f4, f5, f6, f7⟩ := fields_13 _ _ _ _ _ _ _ _ _ _ _ hw
  have e : rawDecode wd = .ok (.inl (.vscanOr (wd.extractLsb' 22 3) (wd.extractLsb' 17 5) (wd.extractLsb' 12 5) (wd.extractLsb' 10 1) (wd.extractLsb' 4 3) (wd.extractLsb' 3 1) (wd.extractLsb' 2 1) (wd.extractLsb' 0 2))) := by
    unfold rawDecode decodeMajor50
    rw [h0, h1, h2]
    rfl
  rw [e, f0, f1, f2, f3, f4, f5, f6, f7]

theorem raw_vscanXor (s : BitVec 3) (d : BitVec 5) (a : BitVec 5) (x : BitVec 1) (k : BitVec 3) (h : BitVec 1) (j : BitVec 1) (u : BitVec 2) :
    rawDecode (80#7 ++ s ++ d ++ a ++ 1#1 ++ x ++ 5#3 ++ k ++ h ++ j ++ u) = .ok (.inl (.vscanXor s d a x k h j u)) := by
  generalize hw : (80#7 ++ s ++ d ++ a ++ 1#1 ++ x ++ 5#3 ++ k ++ h ++ j ++ u) = wd
  obtain ⟨h0, f0, f1, f2, h2, f3, h1, f4, f5, f6, f7⟩ := fields_13 _ _ _ _ _ _ _ _ _ _ _ hw
  have e : rawDecode wd = .ok (.inl (.vscanXor (wd.extractLsb' 22 3) (wd.extractLsb' 17 5) (wd.extractLsb' 12 5) (wd.extractLsb' 10 1) (wd.extractLsb' 4 3) (wd.extractLsb' 3 1) (wd.extractLsb' 2 1) (wd.extractLsb' 0 2))) := by
    unfold rawDecode decodeMajor50
    rw [h0, h1, h2]
    rfl
  rw [e, f0, f1, f2, f3, f4, f5, f6, f7]

theorem raw_kand (s : BitVec 3) (d : BitVec 5) (a : BitVec 5) (b : BitVec 5) :
    rawDecode (81#7 ++ s ++ d ++ a ++ b ++ 0#7) = .ok (.inl (.kand s d a b)) := by
  generalize hw : (81#7 ++ s ++ d ++ a ++ b ++ 0#7) = wd
  obtain ⟨h0, f0, f1, f2, f3, h1⟩ := fields_0 _ _ _ _ _ _ hw
  have e : rawDecode wd = .ok (.inl (.kand (wd.extractLsb' 22 3) (wd.extractLsb' 17 5) (wd.extractLsb' 12 5) (wd.extractLsb' 7 5))) := by
    unfold rawDecode decodeMajor51
    rw [h0, h1]
    rfl
  rw [e, f0, f1, f2, f3]

theorem raw_kor (s : BitVec 3) (d : BitVec 5) (a : BitVec 5) (b : BitVec 5) :
    rawDecode (81#7 ++ s ++ d ++ a ++ b ++ 1#7) = .ok (.inl (.kor s d a b)) := by
  generalize hw : (81#7 ++ s ++ d ++ a ++ b ++ 1#7) = wd
  obtain ⟨h0, f0, f1, f2, f3, h1⟩ := fields_0 _ _ _ _ _ _ hw
  have e : rawDecode wd = .ok (.inl (.kor (wd.extractLsb' 22 3) (wd.extractLsb' 17 5) (wd.extractLsb' 12 5) (wd.extractLsb' 7 5))) := by
    unfold rawDecode decodeMajor51
    rw [h0, h1]
    rfl
  rw [e, f0, f1, f2, f3]

theorem raw_kxor (s : BitVec 3) (d : BitVec 5) (a : BitVec 5) (b : BitVec 5) :
    rawDecode (81#7 ++ s ++ d ++ a ++ b ++ 2#7) = .ok (.inl (.kxor s d a b)) := by
  generalize hw : (81#7 ++ s ++ d ++ a ++ b ++ 2#7) = wd
  obtain ⟨h0, f0, f1, f2, f3, h1⟩ := fields_0 _ _ _ _ _ _ hw
  have e : rawDecode wd = .ok (.inl (.kxor (wd.extractLsb' 22 3) (wd.extractLsb' 17 5) (wd.extractLsb' 12 5) (wd.extractLsb' 7 5))) := by
    unfold rawDecode decodeMajor51
    rw [h0, h1]
    rfl
  rw [e, f0, f1, f2, f3]

theorem raw_knot (s : BitVec 3) (d : BitVec 5) (a : BitVec 5) (b : BitVec 5) :
    rawDecode (81#7 ++ s ++ d ++ a ++ b ++ 3#7) = .ok (.inl (.knot s d a b)) := by
  generalize hw : (81#7 ++ s ++ d ++ a ++ b ++ 3#7) = wd
  obtain ⟨h0, f0, f1, f2, f3, h1⟩ := fields_0 _ _ _ _ _ _ hw
  have e : rawDecode wd = .ok (.inl (.knot (wd.extractLsb' 22 3) (wd.extractLsb' 17 5) (wd.extractLsb' 12 5) (wd.extractLsb' 7 5))) := by
    unfold rawDecode decodeMajor51
    rw [h0, h1]
    rfl
  rw [e, f0, f1, f2, f3]

theorem raw_kmovK (s : BitVec 3) (d : BitVec 5) (a : BitVec 5) (x : BitVec 3) :
    rawDecode (81#7 ++ s ++ d ++ a ++ x ++ 4#9) = .ok (.inl (.kmovK s d a x)) := by
  generalize hw : (81#7 ++ s ++ d ++ a ++ x ++ 4#9) = wd
  obtain ⟨h0, f0, f1, f2, f3, g⟩ := fields_14 _ _ _ _ _ _ hw
  have h1 : wd.extractLsb' 0 7 = 4#7 := by subst hw; rw [ext_lo _ _ (by omega)]; rfl
  have e : rawDecode wd = .ok (.inl (.kmovK (wd.extractLsb' 22 3) (wd.extractLsb' 17 5) (wd.extractLsb' 12 5) (wd.extractLsb' 9 3))) := by
    unfold rawDecode decodeMajor51
    rw [h0, h1]
    rw [g]
    rfl
  rw [e, f0, f1, f2, f3]

theorem raw_kmovFromG (s : BitVec 3) (d : BitVec 5) (a : BitVec 5) (x : BitVec 3) :
    rawDecode (81#7 ++ s ++ d ++ a ++ x ++ 132#9) = .ok (.inl (.kmovFromG s d a x)) := by
  generalize hw : (81#7 ++ s ++ d ++ a ++ x ++ 132#9) = wd
  obtain ⟨h0, f0, f1, f2, f3, g⟩ := fields_14 _ _ _ _ _ _ hw
  have h1 : wd.extractLsb' 0 7 = 4#7 := by subst hw; rw [ext_lo _ _ (by omega)]; rfl
  have e : rawDecode wd = .ok (.inl (.kmovFromG (wd.extractLsb' 22 3) (wd.extractLsb' 17 5) (wd.extractLsb' 12 5) (wd.extractLsb' 9 3))) := by
    unfold rawDecode decodeMajor51
    rw [h0, h1]
    rw [g]
    rfl
  rw [e, f0, f1, f2, f3]

theorem raw_kmovToG (s : BitVec 3) (d : BitVec 5) (a : BitVec 5) (x : BitVec 3) :
    rawDecode (81#7 ++ s ++ d ++ a ++ x ++ 260#9) = .ok (.inl (.kmovToG s d a x)) := by
  generalize hw : (81#7 ++ s ++ d ++ a ++ x ++ 260#9) = wd
  obtain ⟨h0, f0, f1, f2, f3, g⟩ := fields_14 _ _ _ _ _ _ hw
  have h1 : wd.extractLsb' 0 7 = 4#7 := by subst hw; rw [ext_lo _ _ (by omega)]; rfl
  have e : rawDecode wd = .ok (.inl (.kmovToG (wd.extractLsb' 22 3) (wd.extractLsb' 17 5) (wd.extractLsb' 12 5) (wd.extractLsb' 9 3))) := by
    unfold rawDecode decodeMajor51
    rw [h0, h1]
    rw [g]
    rfl
  rw [e, f0, f1, f2, f3]

theorem raw_kpack (s : BitVec 3) (d : BitVec 5) (a : BitVec 5) (b : BitVec 5) :
    rawDecode (81#7 ++ s ++ d ++ a ++ b ++ 5#7) = .ok (.inl (.kpack s d a b)) := by
  generalize hw : (81#7 ++ s ++ d ++ a ++ b ++ 5#7) = wd
  obtain ⟨h0, f0, f1, f2, f3, h1⟩ := fields_0 _ _ _ _ _ _ hw
  have g : ∀ x : BitVec 9, x.extractLsb' 0 7 ≠ 5#7 → wd.extractLsb' 0 9 ≠ x := by
    intro x hx h; exact hx (by rw [← h, ← h1]; apply BitVec.eq_of_getLsbD_eq; intro i hi; simp [hi])
  have e : rawDecode wd = .ok (.inl (.kpack (wd.extractLsb' 22 3) (wd.extractLsb' 17 5) (wd.extractLsb' 12 5) (wd.extractLsb' 7 5))) := by
    unfold rawDecode decodeMajor51
    rw [h0, h1]
    rw [if_neg (g 4#9 (by decide)), if_neg (g 132#9 (by decide)), if_neg (g 260#9 (by decide))]
    rfl
  rw [e, f0, f1, f2, f3]

theorem raw_kunpk (s : BitVec 3) (d : BitVec 5) (a : BitVec 5) (b : BitVec 5) :
    rawDecode (81#7 ++ s ++ d ++ a ++ b ++ 6#7) = .ok (.inl (.kunpk s d a b)) := by
  generalize hw : (81#7 ++ s ++ d ++ a ++ b ++ 6#7) = wd
  obtain ⟨h0, f0, f1, f2, f3, h1⟩ := fields_0 _ _ _ _ _ _ hw
  have g : ∀ x : BitVec 9, x.extractLsb' 0 7 ≠ 6#7 → wd.extractLsb' 0 9 ≠ x := by
    intro x hx h; exact hx (by rw [← h, ← h1]; apply BitVec.eq_of_getLsbD_eq; intro i hi; simp [hi])
  have e : rawDecode wd = .ok (.inl (.kunpk (wd.extractLsb' 22 3) (wd.extractLsb' 17 5) (wd.extractLsb' 12 5) (wd.extractLsb' 7 5))) := by
    unfold rawDecode decodeMajor51
    rw [h0, h1]
    rw [if_neg (g 4#9 (by decide)), if_neg (g 132#9 (by decide)), if_neg (g 260#9 (by decide))]
    rfl
  rw [e, f0, f1, f2, f3]

theorem raw_kpopc (s : BitVec 3) (d : BitVec 5) (a : BitVec 5) (b : BitVec 5) :
    rawDecode (81#7 ++ s ++ d ++ a ++ b ++ 7#7) = .ok (.inl (.kpopc s d a b)) := by
  generalize hw : (81#7 ++ s ++ d ++ a ++ b ++ 7#7) = wd
  obtain ⟨h0, f0, f1, f2, f3, h1⟩ := fields_0 _ _ _ _ _ _ hw
  have g : ∀ x : BitVec 9, x.extractLsb' 0 7 ≠ 7#7 → wd.extractLsb' 0 9 ≠ x := by
    intro x hx h; exact hx (by rw [← h, ← h1]; apply BitVec.eq_of_getLsbD_eq; intro i hi; simp [hi])
  have e : rawDecode wd = .ok (.inl (.kpopc (wd.extractLsb' 22 3) (wd.extractLsb' 17 5) (wd.extractLsb' 12 5) (wd.extractLsb' 7 5))) := by
    unfold rawDecode decodeMajor51
    rw [h0, h1]
    rw [if_neg (g 4#9 (by decide)), if_neg (g 132#9 (by decide)), if_neg (g 260#9 (by decide))]
    rfl
  rw [e, f0, f1, f2, f3]

theorem raw_vperm (s : BitVec 3) (d : BitVec 5) (a : BitVec 5) (b : BitVec 5) (k : BitVec 3) (h : BitVec 1) (j : BitVec 1) (u : BitVec 2) :
    rawDecode (82#7 ++ s ++ d ++ a ++ b ++ k ++ h ++ j ++ u) = .ok (.inl (.vperm s d a b k h j u)) := by
  generalize hw : (82#7 ++ s ++ d ++ a ++ b ++ k ++ h ++ j ++ u) = wd
  obtain ⟨h0, f0, f1, f2, f3, f4, f5, f6, f7⟩ := fields_9 _ _ _ _ _ _ _ _ _ hw
  have e : rawDecode wd = .ok (.inl (.vperm (wd.extractLsb' 22 3) (wd.extractLsb' 17 5) (wd.extractLsb' 12 5) (wd.extractLsb' 7 5) (wd.extractLsb' 4 3) (wd.extractLsb' 3 1) (wd.extractLsb' 2 1) (wd.extractLsb' 0 2))) := by
    unfold rawDecode
    rw [h0]
    rfl
  rw [e, f0, f1, f2, f3, f4, f5, f6, f7]

theorem raw_vrot (s : BitVec 3) (d : BitVec 5) (a : BitVec 5) (x : BitVec 1) (n : BitVec 4) (k : BitVec 3) (h : BitVec 1) (j : BitVec 1) (u : BitVec 2) :
    rawDecode (83#7 ++ s ++ d ++ a ++ x ++ n ++ k ++ h ++ j ++ u) = .ok (.inl (.vrot s d a x n k h j u)) := by
  generalize hw : (83#7 ++ s ++ d ++ a ++ x ++ n ++ k ++ h ++ j ++ u) = wd
  obtain ⟨h0, f0, f1, f2, f3, f4, f5, f6, f7, f8⟩ := fields_15 _ _ _ _ _ _ _ _ _ _ hw
  have e : rawDecode wd = .ok (.inl (.vrot (wd.extractLsb' 22 3) (wd.extractLsb' 17 5) (wd.extractLsb' 12 5) (wd.extractLsb' 11 1) (wd.extractLsb' 7 4) (wd.extractLsb' 4 3) (wd.extractLsb' 3 1) (wd.extractLsb' 2 1) (wd.extractLsb' 0 2))) := by
    unfold rawDecode
    rw [h0]
    rfl
  rw [e, f0, f1, f2, f3, f4, f5, f6, f7, f8]

theorem raw_vqnt (s : BitVec 3) (d : BitVec 5) (a : BitVec 5) (b : BitVec 5) (k : BitVec 3) (h : BitVec 1) (j : BitVec 1) :
    rawDecode (84#7 ++ s ++ d ++ a ++ b ++ k ++ h ++ j ++ 0#2) = .ok (.inl (.vqnt s d a b k h j)) := by
  generalize hw : (84#7 ++ s ++ d ++ a ++ b ++ k ++ h ++ j ++ 0#2) = wd
  obtain ⟨h0, f0, f1, f2, f3, f4, f5, f6, h1⟩ := fields_9 _ _ _ _ _ _ _ _ _ hw
  have e : rawDecode wd = .ok (.inl (.vqnt (wd.extractLsb' 22 3) (wd.extractLsb' 17 5) (wd.extractLsb' 12 5) (wd.extractLsb' 7 5) (wd.extractLsb' 4 3) (wd.extractLsb' 3 1) (wd.extractLsb' 2 1))) := by
    unfold rawDecode decodeMajor54
    rw [h0, h1]
    rfl
  rw [e, f0, f1, f2, f3, f4, f5, f6]

theorem raw_vdq (s : BitVec 3) (d : BitVec 5) (a : BitVec 5) (b : BitVec 5) (k : BitVec 3) (h : BitVec 1) (j : BitVec 1) :
    rawDecode (84#7 ++ s ++ d ++ a ++ b ++ k ++ h ++ j ++ 1#2) = .ok (.inl (.vdq s d a b k h j)) := by
  generalize hw : (84#7 ++ s ++ d ++ a ++ b ++ k ++ h ++ j ++ 1#2) = wd
  obtain ⟨h0, f0, f1, f2, f3, f4, f5, f6, h1⟩ := fields_9 _ _ _ _ _ _ _ _ _ hw
  have e : rawDecode wd = .ok (.inl (.vdq (wd.extractLsb' 22 3) (wd.extractLsb' 17 5) (wd.extractLsb' 12 5) (wd.extractLsb' 7 5) (wd.extractLsb' 4 3) (wd.extractLsb' 3 1) (wd.extractLsb' 2 1))) := by
    unfold rawDecode decodeMajor54
    rw [h0, h1]
    rfl
  rw [e, f0, f1, f2, f3, f4, f5, f6]

theorem raw_vlane (s : BitVec 3) (d : BitVec 5) (a : BitVec 5) (x : BitVec 1) (l : BitVec 4) (k : BitVec 3) (h : BitVec 1) (j : BitVec 1) :
    rawDecode (85#7 ++ s ++ d ++ a ++ x ++ l ++ k ++ h ++ j ++ 0#2) = .ok (.inl (.vlane s d a x l k h j)) := by
  generalize hw : (85#7 ++ s ++ d ++ a ++ x ++ l ++ k ++ h ++ j ++ 0#2) = wd
  obtain ⟨h0, f0, f1, f2, f3, f4, f5, f6, f7, h1⟩ := fields_15 _ _ _ _ _ _ _ _ _ _ hw
  have e : rawDecode wd = .ok (.inl (.vlane (wd.extractLsb' 22 3) (wd.extractLsb' 17 5) (wd.extractLsb' 12 5) (wd.extractLsb' 11 1) (wd.extractLsb' 7 4) (wd.extractLsb' 4 3) (wd.extractLsb' 3 1) (wd.extractLsb' 2 1))) := by
    unfold rawDecode decodeMajor55
    rw [h0, h1]
    rfl
  rw [e, f0, f1, f2, f3, f4, f5, f6, f7]

theorem raw_vins (s : BitVec 3) (d : BitVec 5) (a : BitVec 5) (x : BitVec 1) (l : BitVec 4) (k : BitVec 3) (h : BitVec 1) (j : BitVec 1) :
    rawDecode (85#7 ++ s ++ d ++ a ++ x ++ l ++ k ++ h ++ j ++ 1#2) = .ok (.inl (.vins s d a x l k h j)) := by
  generalize hw : (85#7 ++ s ++ d ++ a ++ x ++ l ++ k ++ h ++ j ++ 1#2) = wd
  obtain ⟨h0, f0, f1, f2, f3, f4, f5, f6, f7, h1⟩ := fields_15 _ _ _ _ _ _ _ _ _ _ hw
  have e : rawDecode wd = .ok (.inl (.vins (wd.extractLsb' 22 3) (wd.extractLsb' 17 5) (wd.extractLsb' 12 5) (wd.extractLsb' 11 1) (wd.extractLsb' 7 4) (wd.extractLsb' 4 3) (wd.extractLsb' 3 1) (wd.extractLsb' 2 1))) := by
    unfold rawDecode decodeMajor55
    rw [h0, h1]
    rfl
  rw [e, f0, f1, f2, f3, f4, f5, f6, f7]

theorem raw_vld (s : BitVec 3) (d : BitVec 5) (a : BitVec 5) (b : BitVec 5) (k : BitVec 3) (h : BitVec 1) (j : BitVec 1) :
    rawDecode (86#7 ++ s ++ d ++ a ++ b ++ k ++ h ++ j ++ 0#2) = .ok (.inl (.vld s d a b k h j)) := by
  generalize hw : (86#7 ++ s ++ d ++ a ++ b ++ k ++ h ++ j ++ 0#2) = wd
  obtain ⟨h0, f0, f1, f2, f3, f4, f5, f6, h1⟩ := fields_9 _ _ _ _ _ _ _ _ _ hw
  have e : rawDecode wd = .ok (.inl (.vld (wd.extractLsb' 22 3) (wd.extractLsb' 17 5) (wd.extractLsb' 12 5) (wd.extractLsb' 7 5) (wd.extractLsb' 4 3) (wd.extractLsb' 3 1) (wd.extractLsb' 2 1))) := by
    unfold rawDecode decodeMajor56
    rw [h0, h1]
    rfl
  rw [e, f0, f1, f2, f3, f4, f5, f6]

theorem raw_vst (s : BitVec 3) (d : BitVec 5) (a : BitVec 5) (b : BitVec 5) (k : BitVec 3) (h : BitVec 1) (j : BitVec 1) :
    rawDecode (86#7 ++ s ++ d ++ a ++ b ++ k ++ h ++ j ++ 1#2) = .ok (.inl (.vst s d a b k h j)) := by
  generalize hw : (86#7 ++ s ++ d ++ a ++ b ++ k ++ h ++ j ++ 1#2) = wd
  obtain ⟨h0, f0, f1, f2, f3, f4, f5, f6, h1⟩ := fields_9 _ _ _ _ _ _ _ _ _ hw
  have e : rawDecode wd = .ok (.inl (.vst (wd.extractLsb' 22 3) (wd.extractLsb' 17 5) (wd.extractLsb' 12 5) (wd.extractLsb' 7 5) (wd.extractLsb' 4 3) (wd.extractLsb' 3 1) (wd.extractLsb' 2 1))) := by
    unfold rawDecode decodeMajor56
    rw [h0, h1]
    rfl
  rw [e, f0, f1, f2, f3, f4, f5, f6]

theorem raw_vlds (s : BitVec 3) (d : BitVec 5) (a : BitVec 5) (b : BitVec 5) (k : BitVec 3) (h : BitVec 1) (j : BitVec 1) :
    rawDecode (86#7 ++ s ++ d ++ a ++ b ++ k ++ h ++ j ++ 2#2) = .ok (.inl (.vlds s d a b k h j)) := by
  generalize hw : (86#7 ++ s ++ d ++ a ++ b ++ k ++ h ++ j ++ 2#2) = wd
  obtain ⟨h0, f0, f1, f2, f3, f4, f5, f6, h1⟩ := fields_9 _ _ _ _ _ _ _ _ _ hw
  have e : rawDecode wd = .ok (.inl (.vlds (wd.extractLsb' 22 3) (wd.extractLsb' 17 5) (wd.extractLsb' 12 5) (wd.extractLsb' 7 5) (wd.extractLsb' 4 3) (wd.extractLsb' 3 1) (wd.extractLsb' 2 1))) := by
    unfold rawDecode decodeMajor56
    rw [h0, h1]
    rfl
  rw [e, f0, f1, f2, f3, f4, f5, f6]

theorem raw_vsts (s : BitVec 3) (d : BitVec 5) (a : BitVec 5) (b : BitVec 5) (k : BitVec 3) (h : BitVec 1) (j : BitVec 1) :
    rawDecode (86#7 ++ s ++ d ++ a ++ b ++ k ++ h ++ j ++ 3#2) = .ok (.inl (.vsts s d a b k h j)) := by
  generalize hw : (86#7 ++ s ++ d ++ a ++ b ++ k ++ h ++ j ++ 3#2) = wd
  obtain ⟨h0, f0, f1, f2, f3, f4, f5, f6, h1⟩ := fields_9 _ _ _ _ _ _ _ _ _ hw
  have e : rawDecode wd = .ok (.inl (.vsts (wd.extractLsb' 22 3) (wd.extractLsb' 17 5) (wd.extractLsb' 12 5) (wd.extractLsb' 7 5) (wd.extractLsb' 4 3) (wd.extractLsb' 3 1) (wd.extractLsb' 2 1))) := by
    unfold rawDecode decodeMajor56
    rw [h0, h1]
    rfl
  rw [e, f0, f1, f2, f3, f4, f5, f6]

theorem raw_vgth (s : BitVec 3) (d : BitVec 5) (a : BitVec 5) (b : BitVec 5) (k : BitVec 3) (h : BitVec 1) (j : BitVec 1) :
    rawDecode (87#7 ++ s ++ d ++ a ++ b ++ k ++ h ++ j ++ 0#2) = .ok (.inl (.vgth s d a b k h j)) := by
  generalize hw : (87#7 ++ s ++ d ++ a ++ b ++ k ++ h ++ j ++ 0#2) = wd
  obtain ⟨h0, f0, f1, f2, f3, f4, f5, f6, h1⟩ := fields_9 _ _ _ _ _ _ _ _ _ hw
  have e : rawDecode wd = .ok (.inl (.vgth (wd.extractLsb' 22 3) (wd.extractLsb' 17 5) (wd.extractLsb' 12 5) (wd.extractLsb' 7 5) (wd.extractLsb' 4 3) (wd.extractLsb' 3 1) (wd.extractLsb' 2 1))) := by
    unfold rawDecode decodeMajor57
    rw [h0, h1]
    rfl
  rw [e, f0, f1, f2, f3, f4, f5, f6]

theorem raw_vsct (s : BitVec 3) (d : BitVec 5) (a : BitVec 5) (b : BitVec 5) (k : BitVec 3) (h : BitVec 1) (j : BitVec 1) :
    rawDecode (87#7 ++ s ++ d ++ a ++ b ++ k ++ h ++ j ++ 1#2) = .ok (.inl (.vsct s d a b k h j)) := by
  generalize hw : (87#7 ++ s ++ d ++ a ++ b ++ k ++ h ++ j ++ 1#2) = wd
  obtain ⟨h0, f0, f1, f2, f3, f4, f5, f6, h1⟩ := fields_9 _ _ _ _ _ _ _ _ _ hw
  have e : rawDecode wd = .ok (.inl (.vsct (wd.extractLsb' 22 3) (wd.extractLsb' 17 5) (wd.extractLsb' 12 5) (wd.extractLsb' 7 5) (wd.extractLsb' 4 3) (wd.extractLsb' 3 1) (wd.extractLsb' 2 1))) := by
    unfold rawDecode decodeMajor57
    rw [h0, h1]
    rfl
  rw [e, f0, f1, f2, f3, f4, f5, f6]

theorem raw_vbcst (s : BitVec 3) (d : BitVec 5) (a : BitVec 5) (b : BitVec 5) (k : BitVec 3) (h : BitVec 1) (j : BitVec 1) :
    rawDecode (87#7 ++ s ++ d ++ a ++ b ++ k ++ h ++ j ++ 2#2) = .ok (.inl (.vbcst s d a b k h j)) := by
  generalize hw : (87#7 ++ s ++ d ++ a ++ b ++ k ++ h ++ j ++ 2#2) = wd
  obtain ⟨h0, f0, f1, f2, f3, f4, f5, f6, h1⟩ := fields_9 _ _ _ _ _ _ _ _ _ hw
  have e : rawDecode wd = .ok (.inl (.vbcst (wd.extractLsb' 22 3) (wd.extractLsb' 17 5) (wd.extractLsb' 12 5) (wd.extractLsb' 7 5) (wd.extractLsb' 4 3) (wd.extractLsb' 3 1) (wd.extractLsb' 2 1))) := by
    unfold rawDecode decodeMajor57
    rw [h0, h1]
    rfl
  rw [e, f0, f1, f2, f3, f4, f5, f6]

theorem raw_qpush (s : BitVec 3) (d : BitVec 5) (q : BitVec 3) (e : BitVec 14) :
    rawDecode (88#7 ++ s ++ d ++ q ++ e) = .ok (.inl (.qpush s d q e)) := by
  generalize hw : (88#7 ++ s ++ d ++ q ++ e) = wd
  obtain ⟨h0, f0, f1, f2, f3⟩ := fields_16 _ _ _ _ _ hw
  have e : rawDecode wd = .ok (.inl (.qpush (wd.extractLsb' 22 3) (wd.extractLsb' 17 5) (wd.extractLsb' 14 3) (wd.extractLsb' 0 14))) := by
    unfold rawDecode
    rw [h0]
    rfl
  rw [e, f0, f1, f2, f3]

theorem raw_qpop (s : BitVec 3) (d : BitVec 5) (q : BitVec 3) (e : BitVec 14) :
    rawDecode (89#7 ++ s ++ d ++ q ++ e) = .ok (.inl (.qpop s d q e)) := by
  generalize hw : (89#7 ++ s ++ d ++ q ++ e) = wd
  obtain ⟨h0, f0, f1, f2, f3⟩ := fields_16 _ _ _ _ _ hw
  have e : rawDecode wd = .ok (.inl (.qpop (wd.extractLsb' 22 3) (wd.extractLsb' 17 5) (wd.extractLsb' 14 3) (wd.extractLsb' 0 14))) := by
    unfold rawDecode
    rw [h0]
    rfl
  rw [e, f0, f1, f2, f3]

theorem raw_tlda (s : BitVec 3) (d : BitVec 5) (q : BitVec 3) (b : BitVec 6) (h : BitVec 1) (n : BitVec 1) (r : BitVec 2) :
    rawDecode (90#7 ++ s ++ d ++ q ++ 0#4 ++ b ++ h ++ n ++ r) = .ok (.inl (.tlda s d q b h n r)) := by
  generalize hw : (90#7 ++ s ++ d ++ q ++ 0#4 ++ b ++ h ++ n ++ r) = wd
  obtain ⟨h0, f0, f1, f2, h1, f3, f4, f5, f6⟩ := fields_17 _ _ _ _ _ _ _ _ _ hw
  have e : rawDecode wd = .ok (.inl (.tlda (wd.extractLsb' 22 3) (wd.extractLsb' 17 5) (wd.extractLsb' 14 3) (wd.extractLsb' 4 6) (wd.extractLsb' 3 1) (wd.extractLsb' 2 1) (wd.extractLsb' 0 2))) := by
    unfold rawDecode decodeMajor5A
    rw [h0, h1]
    rfl
  rw [e, f0, f1, f2, f3, f4, f5, f6]

theorem raw_tldb (s : BitVec 3) (d : BitVec 5) (q : BitVec 3) (b : BitVec 6) (h : BitVec 1) (n : BitVec 1) (r : BitVec 2) :
    rawDecode (90#7 ++ s ++ d ++ q ++ 1#4 ++ b ++ h ++ n ++ r) = .ok (.inl (.tldb s d q b h n r)) := by
  generalize hw : (90#7 ++ s ++ d ++ q ++ 1#4 ++ b ++ h ++ n ++ r) = wd
  obtain ⟨h0, f0, f1, f2, h1, f3, f4, f5, f6⟩ := fields_17 _ _ _ _ _ _ _ _ _ hw
  have e : rawDecode wd = .ok (.inl (.tldb (wd.extractLsb' 22 3) (wd.extractLsb' 17 5) (wd.extractLsb' 14 3) (wd.extractLsb' 4 6) (wd.extractLsb' 3 1) (wd.extractLsb' 2 1) (wd.extractLsb' 0 2))) := by
    unfold rawDecode decodeMajor5A
    rw [h0, h1]
    rfl
  rw [e, f0, f1, f2, f3, f4, f5, f6]

theorem raw_tgtha (s : BitVec 3) (d : BitVec 5) (q : BitVec 3) (b : BitVec 6) (h : BitVec 1) (n : BitVec 1) (r : BitVec 2) :
    rawDecode (90#7 ++ s ++ d ++ q ++ 2#4 ++ b ++ h ++ n ++ r) = .ok (.inl (.tgtha s d q b h n r)) := by
  generalize hw : (90#7 ++ s ++ d ++ q ++ 2#4 ++ b ++ h ++ n ++ r) = wd
  obtain ⟨h0, f0, f1, f2, h1, f3, f4, f5, f6⟩ := fields_17 _ _ _ _ _ _ _ _ _ hw
  have e : rawDecode wd = .ok (.inl (.tgtha (wd.extractLsb' 22 3) (wd.extractLsb' 17 5) (wd.extractLsb' 14 3) (wd.extractLsb' 4 6) (wd.extractLsb' 3 1) (wd.extractLsb' 2 1) (wd.extractLsb' 0 2))) := by
    unfold rawDecode decodeMajor5A
    rw [h0, h1]
    rfl
  rw [e, f0, f1, f2, f3, f4, f5, f6]

theorem raw_tmma (s : BitVec 3) (d : BitVec 5) (q : BitVec 3) (b : BitVec 6) (h : BitVec 1) (n : BitVec 1) (r : BitVec 2) :
    rawDecode (90#7 ++ s ++ d ++ q ++ 3#4 ++ b ++ h ++ n ++ r) = .ok (.inl (.tmma s d q b h n r)) := by
  generalize hw : (90#7 ++ s ++ d ++ q ++ 3#4 ++ b ++ h ++ n ++ r) = wd
  obtain ⟨h0, f0, f1, f2, h1, f3, f4, f5, f6⟩ := fields_17 _ _ _ _ _ _ _ _ _ hw
  have e : rawDecode wd = .ok (.inl (.tmma (wd.extractLsb' 22 3) (wd.extractLsb' 17 5) (wd.extractLsb' 14 3) (wd.extractLsb' 4 6) (wd.extractLsb' 3 1) (wd.extractLsb' 2 1) (wd.extractLsb' 0 2))) := by
    unfold rawDecode decodeMajor5A
    rw [h0, h1]
    rfl
  rw [e, f0, f1, f2, f3, f4, f5, f6]

theorem raw_tspm (s : BitVec 3) (d : BitVec 5) (q : BitVec 3) (b : BitVec 6) (h : BitVec 1) (n : BitVec 1) (r : BitVec 2) :
    rawDecode (90#7 ++ s ++ d ++ q ++ 4#4 ++ b ++ h ++ n ++ r) = .ok (.inl (.tspm s d q b h n r)) := by
  generalize hw : (90#7 ++ s ++ d ++ q ++ 4#4 ++ b ++ h ++ n ++ r) = wd
  obtain ⟨h0, f0, f1, f2, h1, f3, f4, f5, f6⟩ := fields_17 _ _ _ _ _ _ _ _ _ hw
  have e : rawDecode wd = .ok (.inl (.tspm (wd.extractLsb' 22 3) (wd.extractLsb' 17 5) (wd.extractLsb' 14 3) (wd.extractLsb' 4 6) (wd.extractLsb' 3 1) (wd.extractLsb' 2 1) (wd.extractLsb' 0 2))) := by
    unfold rawDecode decodeMajor5A
    rw [h0, h1]
    rfl
  rw [e, f0, f1, f2, f3, f4, f5, f6]

theorem raw_tzero (s : BitVec 3) (d : BitVec 5) (q : BitVec 3) (b : BitVec 6) (h : BitVec 1) (n : BitVec 1) (r : BitVec 2) :
    rawDecode (90#7 ++ s ++ d ++ q ++ 5#4 ++ b ++ h ++ n ++ r) = .ok (.inl (.tzero s d q b h n r)) := by
  generalize hw : (90#7 ++ s ++ d ++ q ++ 5#4 ++ b ++ h ++ n ++ r) = wd
  obtain ⟨h0, f0, f1, f2, h1, f3, f4, f5, f6⟩ := fields_17 _ _ _ _ _ _ _ _ _ hw
  have e : rawDecode wd = .ok (.inl (.tzero (wd.extractLsb' 22 3) (wd.extractLsb' 17 5) (wd.extractLsb' 14 3) (wd.extractLsb' 4 6) (wd.extractLsb' 3 1) (wd.extractLsb' 2 1) (wd.extractLsb' 0 2))) := by
    unfold rawDecode decodeMajor5A
    rw [h0, h1]
    rfl
  rw [e, f0, f1, f2, f3, f4, f5, f6]

theorem raw_tldc (s : BitVec 3) (d : BitVec 5) (q : BitVec 3) (b : BitVec 6) (h : BitVec 1) (n : BitVec 1) (r : BitVec 2) :
    rawDecode (90#7 ++ s ++ d ++ q ++ 6#4 ++ b ++ h ++ n ++ r) = .ok (.inl (.tldc s d q b h n r)) := by
  generalize hw : (90#7 ++ s ++ d ++ q ++ 6#4 ++ b ++ h ++ n ++ r) = wd
  obtain ⟨h0, f0, f1, f2, h1, f3, f4, f5, f6⟩ := fields_17 _ _ _ _ _ _ _ _ _ hw
  have e : rawDecode wd = .ok (.inl (.tldc (wd.extractLsb' 22 3) (wd.extractLsb' 17 5) (wd.extractLsb' 14 3) (wd.extractLsb' 4 6) (wd.extractLsb' 3 1) (wd.extractLsb' 2 1) (wd.extractLsb' 0 2))) := by
    unfold rawDecode decodeMajor5A
    rw [h0, h1]
    rfl
  rw [e, f0, f1, f2, f3, f4, f5, f6]

theorem raw_tstc (s : BitVec 3) (d : BitVec 5) (q : BitVec 3) (b : BitVec 6) (h : BitVec 1) (n : BitVec 1) (r : BitVec 2) :
    rawDecode (90#7 ++ s ++ d ++ q ++ 7#4 ++ b ++ h ++ n ++ r) = .ok (.inl (.tstc s d q b h n r)) := by
  generalize hw : (90#7 ++ s ++ d ++ q ++ 7#4 ++ b ++ h ++ n ++ r) = wd
  obtain ⟨h0, f0, f1, f2, h1, f3, f4, f5, f6⟩ := fields_17 _ _ _ _ _ _ _ _ _ hw
  have e : rawDecode wd = .ok (.inl (.tstc (wd.extractLsb' 22 3) (wd.extractLsb' 17 5) (wd.extractLsb' 14 3) (wd.extractLsb' 4 6) (wd.extractLsb' 3 1) (wd.extractLsb' 2 1) (wd.extractLsb' 0 2))) := by
    unfold rawDecode decodeMajor5A
    rw [h0, h1]
    rfl
  rw [e, f0, f1, f2, f3, f4, f5, f6]

theorem raw_abal (s : BitVec 3) (d : BitVec 5) (q : BitVec 3) (f : BitVec 6) (c : BitVec 6) :
    rawDecode (91#7 ++ s ++ d ++ q ++ 0#2 ++ f ++ c) = .ok (.inl (.abal s d q f c)) := by
  generalize hw : (91#7 ++ s ++ d ++ q ++ 0#2 ++ f ++ c) = wd
  obtain ⟨h0, f0, f1, f2, h1, f3, f4⟩ := fields_18 _ _ _ _ _ _ _ hw
  have e : rawDecode wd = .ok (.inl (.abal (wd.extractLsb' 22 3) (wd.extractLsb' 17 5) (wd.extractLsb' 14 3) (wd.extractLsb' 6 6) (wd.extractLsb' 0 6))) := by
    unfold rawDecode decodeMajor5B
    rw [h0, h1]
    rfl
  rw [e, f0, f1, f2, f3, f4]

theorem raw_abfr (s : BitVec 3) (d : BitVec 5) (q : BitVec 3) (f : BitVec 6) (c : BitVec 6) :
    rawDecode (91#7 ++ s ++ d ++ q ++ 1#2 ++ f ++ c) = .ok (.inl (.abfr s d q f c)) := by
  generalize hw : (91#7 ++ s ++ d ++ q ++ 1#2 ++ f ++ c) = wd
  obtain ⟨h0, f0, f1, f2, h1, f3, f4⟩ := fields_18 _ _ _ _ _ _ _ hw
  have e : rawDecode wd = .ok (.inl (.abfr (wd.extractLsb' 22 3) (wd.extractLsb' 17 5) (wd.extractLsb' 14 3) (wd.extractLsb' 6 6) (wd.extractLsb' 0 6))) := by
    unfold rawDecode decodeMajor5B
    rw [h0, h1]
    rfl
  rw [e, f0, f1, f2, f3, f4]

theorem raw_lset (s : BitVec 3) (d : BitVec 5) (q : BitVec 3) (e : BitVec 14) :
    rawDecode (92#7 ++ s ++ d ++ q ++ e) = .ok (.inl (.lset s d q e)) := by
  generalize hw : (92#7 ++ s ++ d ++ q ++ e) = wd
  obtain ⟨h0, f0, f1, f2, f3⟩ := fields_16 _ _ _ _ _ hw
  have e : rawDecode wd = .ok (.inl (.lset (wd.extractLsb' 22 3) (wd.extractLsb' 17 5) (wd.extractLsb' 14 3) (wd.extractLsb' 0 14))) := by
    unfold rawDecode
    rw [h0]
    rfl
  rw [e, f0, f1, f2, f3]

theorem raw_tgeoOrg (s : BitVec 3) (d : BitVec 5) (q : BitVec 3) (e : BitVec 13) :
    rawDecode (93#7 ++ s ++ d ++ q ++ e ++ 0#1) = .ok (.inl (.tgeoOrg s d q e)) := by
  generalize hw : (93#7 ++ s ++ d ++ q ++ e ++ 0#1) = wd
  obtain ⟨h0, f0, f1, f2, f3, h1⟩ := fields_19 _ _ _ _ _ _ hw
  have e : rawDecode wd = .ok (.inl (.tgeoOrg (wd.extractLsb' 22 3) (wd.extractLsb' 17 5) (wd.extractLsb' 14 3) (wd.extractLsb' 1 13))) := by
    unfold rawDecode decodeMajor5D
    rw [h0, h1]
    rfl
  rw [e, f0, f1, f2, f3]

theorem raw_tgeoMask (s : BitVec 3) (d : BitVec 5) (q : BitVec 3) (e : BitVec 13) :
    rawDecode (93#7 ++ s ++ d ++ q ++ e ++ 1#1) = .ok (.inl (.tgeoMask s d q e)) := by
  generalize hw : (93#7 ++ s ++ d ++ q ++ e ++ 1#1) = wd
  obtain ⟨h0, f0, f1, f2, f3, h1⟩ := fields_19 _ _ _ _ _ _ hw
  have e : rawDecode wd = .ok (.inl (.tgeoMask (wd.extractLsb' 22 3) (wd.extractLsb' 17 5) (wd.extractLsb' 14 3) (wd.extractLsb' 1 13))) := by
    unfold rawDecode decodeMajor5D
    rw [h0, h1]
    rfl
  rw [e, f0, f1, f2, f3]

theorem raw_ttask (s : BitVec 3) (d : BitVec 5) (q : BitVec 3) (e : BitVec 14) :
    rawDecode (94#7 ++ s ++ d ++ q ++ e) = .ok (.inl (.ttask s d q e)) := by
  generalize hw : (94#7 ++ s ++ d ++ q ++ e) = wd
  obtain ⟨h0, f0, f1, f2, f3⟩ := fields_16 _ _ _ _ _ hw
  have e : rawDecode wd = .ok (.inl (.ttask (wd.extractLsb' 22 3) (wd.extractLsb' 17 5) (wd.extractLsb' 14 3) (wd.extractLsb' 0 14))) := by
    unfold rawDecode
    rw [h0]
    rfl
  rw [e, f0, f1, f2, f3]

theorem raw_tgrp (s : BitVec 3) (d : BitVec 5) (q : BitVec 3) (e : BitVec 14) :
    rawDecode (95#7 ++ s ++ d ++ q ++ e) = .ok (.inl (.tgrp s d q e)) := by
  generalize hw : (95#7 ++ s ++ d ++ q ++ e) = wd
  obtain ⟨h0, f0, f1, f2, f3⟩ := fields_16 _ _ _ _ _ hw
  have e : rawDecode wd = .ok (.inl (.tgrp (wd.extractLsb' 22 3) (wd.extractLsb' 17 5) (wd.extractLsb' 14 3) (wd.extractLsb' 0 14))) := by
    unfold rawDecode
    rw [h0]
    rfl
  rw [e, f0, f1, f2, f3]

theorem raw_cpy (s : BitVec 3) (d : BitVec 5) (a : BitVec 5) (b : BitVec 5) :
    rawDecode (96#7 ++ s ++ d ++ a ++ b ++ 0#7) = .ok (.inl (.cpy s d a b)) := by
  generalize hw : (96#7 ++ s ++ d ++ a ++ b ++ 0#7) = wd
  obtain ⟨h0, f0, f1, f2, f3, h1⟩ := fields_0 _ _ _ _ _ _ hw
  have e : rawDecode wd = .ok (.inl (.cpy (wd.extractLsb' 22 3) (wd.extractLsb' 17 5) (wd.extractLsb' 12 5) (wd.extractLsb' 7 5))) := by
    unfold rawDecode decodeMajor60
    rw [h0, h1]
    rfl
  rw [e, f0, f1, f2, f3]

theorem raw_cpyNb (s : BitVec 3) (d : BitVec 5) (a : BitVec 5) (b : BitVec 5) :
    rawDecode (96#7 ++ s ++ d ++ a ++ b ++ 1#7) = .ok (.inl (.cpyNb s d a b)) := by
  generalize hw : (96#7 ++ s ++ d ++ a ++ b ++ 1#7) = wd
  obtain ⟨h0, f0, f1, f2, f3, h1⟩ := fields_0 _ _ _ _ _ _ hw
  have e : rawDecode wd = .ok (.inl (.cpyNb (wd.extractLsb' 22 3) (wd.extractLsb' 17 5) (wd.extractLsb' 12 5) (wd.extractLsb' 7 5))) := by
    unfold rawDecode decodeMajor60
    rw [h0, h1]
    rfl
  rw [e, f0, f1, f2, f3]

theorem raw_cpyc (s : BitVec 3) (d : BitVec 5) (a : BitVec 5) (b : BitVec 5) :
    rawDecode (96#7 ++ s ++ d ++ a ++ b ++ 2#7) = .ok (.inl (.cpyc s d a b)) := by
  generalize hw : (96#7 ++ s ++ d ++ a ++ b ++ 2#7) = wd
  obtain ⟨h0, f0, f1, f2, f3, h1⟩ := fields_0 _ _ _ _ _ _ hw
  have e : rawDecode wd = .ok (.inl (.cpyc (wd.extractLsb' 22 3) (wd.extractLsb' 17 5) (wd.extractLsb' 12 5) (wd.extractLsb' 7 5))) := by
    unfold rawDecode decodeMajor60
    rw [h0, h1]
    rfl
  rw [e, f0, f1, f2, f3]

theorem raw_cpycNb (s : BitVec 3) (d : BitVec 5) (a : BitVec 5) (b : BitVec 5) :
    rawDecode (96#7 ++ s ++ d ++ a ++ b ++ 3#7) = .ok (.inl (.cpycNb s d a b)) := by
  generalize hw : (96#7 ++ s ++ d ++ a ++ b ++ 3#7) = wd
  obtain ⟨h0, f0, f1, f2, f3, h1⟩ := fields_0 _ _ _ _ _ _ hw
  have e : rawDecode wd = .ok (.inl (.cpycNb (wd.extractLsb' 22 3) (wd.extractLsb' 17 5) (wd.extractLsb' 12 5) (wd.extractLsb' 7 5))) := by
    unfold rawDecode decodeMajor60
    rw [h0, h1]
    rfl
  rw [e, f0, f1, f2, f3]

theorem raw_cpyst (s : BitVec 3) (d : BitVec 5) (a : BitVec 5) (b : BitVec 5) :
    rawDecode (96#7 ++ s ++ d ++ a ++ b ++ 4#7) = .ok (.inl (.cpyst s d a b)) := by
  generalize hw : (96#7 ++ s ++ d ++ a ++ b ++ 4#7) = wd
  obtain ⟨h0, f0, f1, f2, f3, h1⟩ := fields_0 _ _ _ _ _ _ hw
  have e : rawDecode wd = .ok (.inl (.cpyst (wd.extractLsb' 22 3) (wd.extractLsb' 17 5) (wd.extractLsb' 12 5) (wd.extractLsb' 7 5))) := by
    unfold rawDecode decodeMajor60
    rw [h0, h1]
    rfl
  rw [e, f0, f1, f2, f3]

theorem raw_hwait (s : BitVec 3) (d : BitVec 5) (a : BitVec 5) (x : BitVec 3) (m : BitVec 2) :
    rawDecode (97#7 ++ s ++ d ++ a ++ x ++ m ++ 0#7) = .ok (.inl (.hwait s d a x m)) := by
  generalize hw : (97#7 ++ s ++ d ++ a ++ x ++ m ++ 0#7) = wd
  obtain ⟨h0, f0, f1, f2, f3, f4, h1⟩ := fields_20 _ _ _ _ _ _ _ hw
  have e : rawDecode wd = .ok (.inl (.hwait (wd.extractLsb' 22 3) (wd.extractLsb' 17 5) (wd.extractLsb' 12 5) (wd.extractLsb' 9 3) (wd.extractLsb' 7 2))) := by
    unfold rawDecode decodeMajor61
    rw [h0, h1]
    rfl
  rw [e, f0, f1, f2, f3, f4]

theorem raw_hacq (s : BitVec 3) (d : BitVec 5) (a : BitVec 5) (b : BitVec 5) :
    rawDecode (97#7 ++ s ++ d ++ a ++ b ++ 1#7) = .ok (.inl (.hacq s d a b)) := by
  generalize hw : (97#7 ++ s ++ d ++ a ++ b ++ 1#7) = wd
  obtain ⟨h0, f0, f1, f2, f3, h1⟩ := fields_0 _ _ _ _ _ _ hw
  have e : rawDecode wd = .ok (.inl (.hacq (wd.extractLsb' 22 3) (wd.extractLsb' 17 5) (wd.extractLsb' 12 5) (wd.extractLsb' 7 5))) := by
    unfold rawDecode decodeMajor61
    rw [h0, h1]
    rfl
  rw [e, f0, f1, f2, f3]

theorem raw_hrel (s : BitVec 3) (d : BitVec 5) (a : BitVec 5) (b : BitVec 5) :
    rawDecode (97#7 ++ s ++ d ++ a ++ b ++ 2#7) = .ok (.inl (.hrel s d a b)) := by
  generalize hw : (97#7 ++ s ++ d ++ a ++ b ++ 2#7) = wd
  obtain ⟨h0, f0, f1, f2, f3, h1⟩ := fields_0 _ _ _ _ _ _ hw
  have e : rawDecode wd = .ok (.inl (.hrel (wd.extractLsb' 22 3) (wd.extractLsb' 17 5) (wd.extractLsb' 12 5) (wd.extractLsb' 7 5))) := by
    unfold rawDecode decodeMajor61
    rw [h0, h1]
    rfl
  rw [e, f0, f1, f2, f3]

theorem raw_hstat (s : BitVec 3) (d : BitVec 5) (a : BitVec 5) (b : BitVec 5) :
    rawDecode (97#7 ++ s ++ d ++ a ++ b ++ 3#7) = .ok (.inl (.hstat s d a b)) := by
  generalize hw : (97#7 ++ s ++ d ++ a ++ b ++ 3#7) = wd
  obtain ⟨h0, f0, f1, f2, f3, h1⟩ := fields_0 _ _ _ _ _ _ hw
  have e : rawDecode wd = .ok (.inl (.hstat (wd.extractLsb' 22 3) (wd.extractLsb' 17 5) (wd.extractLsb' 12 5) (wd.extractLsb' 7 5))) := by
    unfold rawDecode decodeMajor61
    rw [h0, h1]
    rfl
  rw [e, f0, f1, f2, f3]

theorem raw_aopAdd (s : BitVec 3) (t : BitVec 5) (a : BitVec 5) (z : BitVec 3) (r : BitVec 2) (c : BitVec 3) :
    rawDecode (98#7 ++ s ++ t ++ a ++ z ++ r ++ c ++ 0#4) = .ok (.inl (.aopAdd s t a z r c)) := by
  generalize hw : (98#7 ++ s ++ t ++ a ++ z ++ r ++ c ++ 0#4) = wd
  obtain ⟨h0, f0, f1, f2, f3, f4, f5, h1⟩ := fields_8 _ _ _ _ _ _ _ _ hw
  have e : rawDecode wd = .ok (.inl (.aopAdd (wd.extractLsb' 22 3) (wd.extractLsb' 17 5) (wd.extractLsb' 12 5) (wd.extractLsb' 9 3) (wd.extractLsb' 7 2) (wd.extractLsb' 4 3))) := by
    unfold rawDecode decodeMajor62
    rw [h0, h1]
    rfl
  rw [e, f0, f1, f2, f3, f4, f5]

theorem raw_aopAnd (s : BitVec 3) (t : BitVec 5) (a : BitVec 5) (z : BitVec 3) (r : BitVec 2) (c : BitVec 3) :
    rawDecode (98#7 ++ s ++ t ++ a ++ z ++ r ++ c ++ 1#4) = .ok (.inl (.aopAnd s t a z r c)) := by
  generalize hw : (98#7 ++ s ++ t ++ a ++ z ++ r ++ c ++ 1#4) = wd
  obtain ⟨h0, f0, f1, f2, f3, f4, f5, h1⟩ := fields_8 _ _ _ _ _ _ _ _ hw
  have e : rawDecode wd = .ok (.inl (.aopAnd (wd.extractLsb' 22 3) (wd.extractLsb' 17 5) (wd.extractLsb' 12 5) (wd.extractLsb' 9 3) (wd.extractLsb' 7 2) (wd.extractLsb' 4 3))) := by
    unfold rawDecode decodeMajor62
    rw [h0, h1]
    rfl
  rw [e, f0, f1, f2, f3, f4, f5]

theorem raw_aopOr (s : BitVec 3) (t : BitVec 5) (a : BitVec 5) (z : BitVec 3) (r : BitVec 2) (c : BitVec 3) :
    rawDecode (98#7 ++ s ++ t ++ a ++ z ++ r ++ c ++ 2#4) = .ok (.inl (.aopOr s t a z r c)) := by
  generalize hw : (98#7 ++ s ++ t ++ a ++ z ++ r ++ c ++ 2#4) = wd
  obtain ⟨h0, f0, f1, f2, f3, f4, f5, h1⟩ := fields_8 _ _ _ _ _ _ _ _ hw
  have e : rawDecode wd = .ok (.inl (.aopOr (wd.extractLsb' 22 3) (wd.extractLsb' 17 5) (wd.extractLsb' 12 5) (wd.extractLsb' 9 3) (wd.extractLsb' 7 2) (wd.extractLsb' 4 3))) := by
    unfold rawDecode decodeMajor62
    rw [h0, h1]
    rfl
  rw [e, f0, f1, f2, f3, f4, f5]

theorem raw_aopXor (s : BitVec 3) (t : BitVec 5) (a : BitVec 5) (z : BitVec 3) (r : BitVec 2) (c : BitVec 3) :
    rawDecode (98#7 ++ s ++ t ++ a ++ z ++ r ++ c ++ 3#4) = .ok (.inl (.aopXor s t a z r c)) := by
  generalize hw : (98#7 ++ s ++ t ++ a ++ z ++ r ++ c ++ 3#4) = wd
  obtain ⟨h0, f0, f1, f2, f3, f4, f5, h1⟩ := fields_8 _ _ _ _ _ _ _ _ hw
  have e : rawDecode wd = .ok (.inl (.aopXor (wd.extractLsb' 22 3) (wd.extractLsb' 17 5) (wd.extractLsb' 12 5) (wd.extractLsb' 9 3) (wd.extractLsb' 7 2) (wd.extractLsb' 4 3))) := by
    unfold rawDecode decodeMajor62
    rw [h0, h1]
    rfl
  rw [e, f0, f1, f2, f3, f4, f5]

theorem raw_aopMin (s : BitVec 3) (t : BitVec 5) (a : BitVec 5) (z : BitVec 3) (r : BitVec 2) (c : BitVec 3) :
    rawDecode (98#7 ++ s ++ t ++ a ++ z ++ r ++ c ++ 4#4) = .ok (.inl (.aopMin s t a z r c)) := by
  generalize hw : (98#7 ++ s ++ t ++ a ++ z ++ r ++ c ++ 4#4) = wd
  obtain ⟨h0, f0, f1, f2, f3, f4, f5, h1⟩ := fields_8 _ _ _ _ _ _ _ _ hw
  have e : rawDecode wd = .ok (.inl (.aopMin (wd.extractLsb' 22 3) (wd.extractLsb' 17 5) (wd.extractLsb' 12 5) (wd.extractLsb' 9 3) (wd.extractLsb' 7 2) (wd.extractLsb' 4 3))) := by
    unfold rawDecode decodeMajor62
    rw [h0, h1]
    rfl
  rw [e, f0, f1, f2, f3, f4, f5]

theorem raw_aopMax (s : BitVec 3) (t : BitVec 5) (a : BitVec 5) (z : BitVec 3) (r : BitVec 2) (c : BitVec 3) :
    rawDecode (98#7 ++ s ++ t ++ a ++ z ++ r ++ c ++ 5#4) = .ok (.inl (.aopMax s t a z r c)) := by
  generalize hw : (98#7 ++ s ++ t ++ a ++ z ++ r ++ c ++ 5#4) = wd
  obtain ⟨h0, f0, f1, f2, f3, f4, f5, h1⟩ := fields_8 _ _ _ _ _ _ _ _ hw
  have e : rawDecode wd = .ok (.inl (.aopMax (wd.extractLsb' 22 3) (wd.extractLsb' 17 5) (wd.extractLsb' 12 5) (wd.extractLsb' 9 3) (wd.extractLsb' 7 2) (wd.extractLsb' 4 3))) := by
    unfold rawDecode decodeMajor62
    rw [h0, h1]
    rfl
  rw [e, f0, f1, f2, f3, f4, f5]

theorem raw_aopMinn (s : BitVec 3) (t : BitVec 5) (a : BitVec 5) (z : BitVec 3) (r : BitVec 2) (c : BitVec 3) :
    rawDecode (98#7 ++ s ++ t ++ a ++ z ++ r ++ c ++ 6#4) = .ok (.inl (.aopMinn s t a z r c)) := by
  generalize hw : (98#7 ++ s ++ t ++ a ++ z ++ r ++ c ++ 6#4) = wd
  obtain ⟨h0, f0, f1, f2, f3, f4, f5, h1⟩ := fields_8 _ _ _ _ _ _ _ _ hw
  have e : rawDecode wd = .ok (.inl (.aopMinn (wd.extractLsb' 22 3) (wd.extractLsb' 17 5) (wd.extractLsb' 12 5) (wd.extractLsb' 9 3) (wd.extractLsb' 7 2) (wd.extractLsb' 4 3))) := by
    unfold rawDecode decodeMajor62
    rw [h0, h1]
    rfl
  rw [e, f0, f1, f2, f3, f4, f5]

theorem raw_aopMaxn (s : BitVec 3) (t : BitVec 5) (a : BitVec 5) (z : BitVec 3) (r : BitVec 2) (c : BitVec 3) :
    rawDecode (98#7 ++ s ++ t ++ a ++ z ++ r ++ c ++ 7#4) = .ok (.inl (.aopMaxn s t a z r c)) := by
  generalize hw : (98#7 ++ s ++ t ++ a ++ z ++ r ++ c ++ 7#4) = wd
  obtain ⟨h0, f0, f1, f2, f3, f4, f5, h1⟩ := fields_8 _ _ _ _ _ _ _ _ hw
  have e : rawDecode wd = .ok (.inl (.aopMaxn (wd.extractLsb' 22 3) (wd.extractLsb' 17 5) (wd.extractLsb' 12 5) (wd.extractLsb' 9 3) (wd.extractLsb' 7 2) (wd.extractLsb' 4 3))) := by
    unfold rawDecode decodeMajor62
    rw [h0, h1]
    rfl
  rw [e, f0, f1, f2, f3, f4, f5]

theorem raw_aopSwap (s : BitVec 3) (t : BitVec 5) (a : BitVec 5) (z : BitVec 3) (r : BitVec 2) (c : BitVec 3) :
    rawDecode (98#7 ++ s ++ t ++ a ++ z ++ r ++ c ++ 8#4) = .ok (.inl (.aopSwap s t a z r c)) := by
  generalize hw : (98#7 ++ s ++ t ++ a ++ z ++ r ++ c ++ 8#4) = wd
  obtain ⟨h0, f0, f1, f2, f3, f4, f5, h1⟩ := fields_8 _ _ _ _ _ _ _ _ hw
  have e : rawDecode wd = .ok (.inl (.aopSwap (wd.extractLsb' 22 3) (wd.extractLsb' 17 5) (wd.extractLsb' 12 5) (wd.extractLsb' 9 3) (wd.extractLsb' 7 2) (wd.extractLsb' 4 3))) := by
    unfold rawDecode decodeMajor62
    rw [h0, h1]
    rfl
  rw [e, f0, f1, f2, f3, f4, f5]

theorem raw_aopFadd (s : BitVec 3) (t : BitVec 5) (a : BitVec 5) (z : BitVec 3) (r : BitVec 2) (c : BitVec 3) :
    rawDecode (98#7 ++ s ++ t ++ a ++ z ++ r ++ c ++ 9#4) = .ok (.inl (.aopFadd s t a z r c)) := by
  generalize hw : (98#7 ++ s ++ t ++ a ++ z ++ r ++ c ++ 9#4) = wd
  obtain ⟨h0, f0, f1, f2, f3, f4, f5, h1⟩ := fields_8 _ _ _ _ _ _ _ _ hw
  have e : rawDecode wd = .ok (.inl (.aopFadd (wd.extractLsb' 22 3) (wd.extractLsb' 17 5) (wd.extractLsb' 12 5) (wd.extractLsb' 9 3) (wd.extractLsb' 7 2) (wd.extractLsb' 4 3))) := by
    unfold rawDecode decodeMajor62
    rw [h0, h1]
    rfl
  rw [e, f0, f1, f2, f3, f4, f5]

theorem raw_aopFaddBf16 (s : BitVec 3) (t : BitVec 5) (a : BitVec 5) (z : BitVec 3) (r : BitVec 2) (c : BitVec 3) :
    rawDecode (98#7 ++ s ++ t ++ a ++ z ++ r ++ c ++ 10#4) = .ok (.inl (.aopFaddBf16 s t a z r c)) := by
  generalize hw : (98#7 ++ s ++ t ++ a ++ z ++ r ++ c ++ 10#4) = wd
  obtain ⟨h0, f0, f1, f2, f3, f4, f5, h1⟩ := fields_8 _ _ _ _ _ _ _ _ hw
  have e : rawDecode wd = .ok (.inl (.aopFaddBf16 (wd.extractLsb' 22 3) (wd.extractLsb' 17 5) (wd.extractLsb' 12 5) (wd.extractLsb' 9 3) (wd.extractLsb' 7 2) (wd.extractLsb' 4 3))) := by
    unfold rawDecode decodeMajor62
    rw [h0, h1]
    rfl
  rw [e, f0, f1, f2, f3, f4, f5]

theorem raw_ared (s : BitVec 3) (d : BitVec 5) (a : BitVec 5) (b : BitVec 5) :
    rawDecode (99#7 ++ s ++ d ++ a ++ b ++ 0#7) = .ok (.inl (.ared s d a b)) := by
  generalize hw : (99#7 ++ s ++ d ++ a ++ b ++ 0#7) = wd
  obtain ⟨h0, f0, f1, f2, f3, h1⟩ := fields_0 _ _ _ _ _ _ hw
  have e : rawDecode wd = .ok (.inl (.ared (wd.extractLsb' 22 3) (wd.extractLsb' 17 5) (wd.extractLsb' 12 5) (wd.extractLsb' 7 5))) := by
    unfold rawDecode decodeMajor63
    rw [h0, h1]
    rfl
  rw [e, f0, f1, f2, f3]

theorem raw_axpy (s : BitVec 3) (d : BitVec 5) (a : BitVec 5) (b : BitVec 5) :
    rawDecode (99#7 ++ s ++ d ++ a ++ b ++ 1#7) = .ok (.inl (.axpy s d a b)) := by
  generalize hw : (99#7 ++ s ++ d ++ a ++ b ++ 1#7) = wd
  obtain ⟨h0, f0, f1, f2, f3, h1⟩ := fields_0 _ _ _ _ _ _ hw
  have e : rawDecode wd = .ok (.inl (.axpy (wd.extractLsb' 22 3) (wd.extractLsb' 17 5) (wd.extractLsb' 12 5) (wd.extractLsb' 7 5))) := by
    unfold rawDecode decodeMajor63
    rw [h0, h1]
    rfl
  rw [e, f0, f1, f2, f3]

theorem raw_afill (s : BitVec 3) (d : BitVec 5) (a : BitVec 5) (b : BitVec 5) :
    rawDecode (99#7 ++ s ++ d ++ a ++ b ++ 2#7) = .ok (.inl (.afill s d a b)) := by
  generalize hw : (99#7 ++ s ++ d ++ a ++ b ++ 2#7) = wd
  obtain ⟨h0, f0, f1, f2, f3, h1⟩ := fields_0 _ _ _ _ _ _ hw
  have e : rawDecode wd = .ok (.inl (.afill (wd.extractLsb' 22 3) (wd.extractLsb' 17 5) (wd.extractLsb' 12 5) (wd.extractLsb' 7 5))) := by
    unfold rawDecode decodeMajor63
    rw [h0, h1]
    rfl
  rw [e, f0, f1, f2, f3]

theorem raw_collAr (s : BitVec 3) (d : BitVec 5) (a : BitVec 5) (b : BitVec 5) :
    rawDecode (100#7 ++ s ++ d ++ a ++ b ++ 0#7) = .ok (.inl (.collAr s d a b)) := by
  generalize hw : (100#7 ++ s ++ d ++ a ++ b ++ 0#7) = wd
  obtain ⟨h0, f0, f1, f2, f3, h1⟩ := fields_0 _ _ _ _ _ _ hw
  have e : rawDecode wd = .ok (.inl (.collAr (wd.extractLsb' 22 3) (wd.extractLsb' 17 5) (wd.extractLsb' 12 5) (wd.extractLsb' 7 5))) := by
    unfold rawDecode decodeMajor64
    rw [h0, h1]
    rfl
  rw [e, f0, f1, f2, f3]

theorem raw_collAg (s : BitVec 3) (d : BitVec 5) (a : BitVec 5) (b : BitVec 5) :
    rawDecode (100#7 ++ s ++ d ++ a ++ b ++ 1#7) = .ok (.inl (.collAg s d a b)) := by
  generalize hw : (100#7 ++ s ++ d ++ a ++ b ++ 1#7) = wd
  obtain ⟨h0, f0, f1, f2, f3, h1⟩ := fields_0 _ _ _ _ _ _ hw
  have e : rawDecode wd = .ok (.inl (.collAg (wd.extractLsb' 22 3) (wd.extractLsb' 17 5) (wd.extractLsb' 12 5) (wd.extractLsb' 7 5))) := by
    unfold rawDecode decodeMajor64
    rw [h0, h1]
    rfl
  rw [e, f0, f1, f2, f3]

theorem raw_collRs (s : BitVec 3) (d : BitVec 5) (a : BitVec 5) (b : BitVec 5) :
    rawDecode (100#7 ++ s ++ d ++ a ++ b ++ 2#7) = .ok (.inl (.collRs s d a b)) := by
  generalize hw : (100#7 ++ s ++ d ++ a ++ b ++ 2#7) = wd
  obtain ⟨h0, f0, f1, f2, f3, h1⟩ := fields_0 _ _ _ _ _ _ hw
  have e : rawDecode wd = .ok (.inl (.collRs (wd.extractLsb' 22 3) (wd.extractLsb' 17 5) (wd.extractLsb' 12 5) (wd.extractLsb' 7 5))) := by
    unfold rawDecode decodeMajor64
    rw [h0, h1]
    rfl
  rw [e, f0, f1, f2, f3]

theorem raw_cnear (s : BitVec 3) (d : BitVec 5) (a : BitVec 5) (b : BitVec 5) :
    rawDecode (104#7 ++ s ++ d ++ a ++ b ++ 0#7) = .ok (.inl (.cnear s d a b)) := by
  generalize hw : (104#7 ++ s ++ d ++ a ++ b ++ 0#7) = wd
  obtain ⟨h0, f0, f1, f2, f3, h1⟩ := fields_0 _ _ _ _ _ _ hw
  have e : rawDecode wd = .ok (.inl (.cnear (wd.extractLsb' 22 3) (wd.extractLsb' 17 5) (wd.extractLsb' 12 5) (wd.extractLsb' 7 5))) := by
    unfold rawDecode decodeMajor68
    rw [h0, h1]
    rfl
  rw [e, f0, f1, f2, f3]

theorem raw_cnearLocal (s : BitVec 3) (d : BitVec 5) (a : BitVec 5) (b : BitVec 5) :
    rawDecode (104#7 ++ s ++ d ++ a ++ b ++ 1#7) = .ok (.inl (.cnearLocal s d a b)) := by
  generalize hw : (104#7 ++ s ++ d ++ a ++ b ++ 1#7) = wd
  obtain ⟨h0, f0, f1, f2, f3, h1⟩ := fields_0 _ _ _ _ _ _ hw
  have e : rawDecode wd = .ok (.inl (.cnearLocal (wd.extractLsb' 22 3) (wd.extractLsb' 17 5) (wd.extractLsb' 12 5) (wd.extractLsb' 7 5))) := by
    unfold rawDecode decodeMajor68
    rw [h0, h1]
    rfl
  rw [e, f0, f1, f2, f3]

theorem raw_cstv (s : BitVec 3) (d : BitVec 5) (a : BitVec 5) (b : BitVec 5) :
    rawDecode (104#7 ++ s ++ d ++ a ++ b ++ 2#7) = .ok (.inl (.cstv s d a b)) := by
  generalize hw : (104#7 ++ s ++ d ++ a ++ b ++ 2#7) = wd
  obtain ⟨h0, f0, f1, f2, f3, h1⟩ := fields_0 _ _ _ _ _ _ hw
  have e : rawDecode wd = .ok (.inl (.cstv (wd.extractLsb' 22 3) (wd.extractLsb' 17 5) (wd.extractLsb' 12 5) (wd.extractLsb' 7 5))) := by
    unfold rawDecode decodeMajor68
    rw [h0, h1]
    rfl
  rw [e, f0, f1, f2, f3]

theorem raw_cdel (s : BitVec 3) (d : BitVec 5) (a : BitVec 5) (b : BitVec 5) :
    rawDecode (104#7 ++ s ++ d ++ a ++ b ++ 3#7) = .ok (.inl (.cdel s d a b)) := by
  generalize hw : (104#7 ++ s ++ d ++ a ++ b ++ 3#7) = wd
  obtain ⟨h0, f0, f1, f2, f3, h1⟩ := fields_0 _ _ _ _ _ _ hw
  have e : rawDecode wd = .ok (.inl (.cdel (wd.extractLsb' 22 3) (wd.extractLsb' 17 5) (wd.extractLsb' 12 5) (wd.extractLsb' 7 5))) := by
    unfold rawDecode decodeMajor68
    rw [h0, h1]
    rfl
  rw [e, f0, f1, f2, f3]

theorem raw_cver (s : BitVec 3) (d : BitVec 5) (a : BitVec 5) (b : BitVec 5) :
    rawDecode (104#7 ++ s ++ d ++ a ++ b ++ 4#7) = .ok (.inl (.cver s d a b)) := by
  generalize hw : (104#7 ++ s ++ d ++ a ++ b ++ 4#7) = wd
  obtain ⟨h0, f0, f1, f2, f3, h1⟩ := fields_0 _ _ _ _ _ _ hw
  have e : rawDecode wd = .ok (.inl (.cver (wd.extractLsb' 22 3) (wd.extractLsb' 17 5) (wd.extractLsb' 12 5) (wd.extractLsb' 7 5))) := by
    unfold rawDecode decodeMajor68
    rw [h0, h1]
    rfl
  rw [e, f0, f1, f2, f3]

theorem raw_catnew (s : BitVec 3) (d : BitVec 5) (a : BitVec 5) (b : BitVec 5) :
    rawDecode (105#7 ++ s ++ d ++ a ++ b ++ 0#7) = .ok (.inl (.catnew s d a b)) := by
  generalize hw : (105#7 ++ s ++ d ++ a ++ b ++ 0#7) = wd
  obtain ⟨h0, f0, f1, f2, f3, h1⟩ := fields_0 _ _ _ _ _ _ hw
  have e : rawDecode wd = .ok (.inl (.catnew (wd.extractLsb' 22 3) (wd.extractLsb' 17 5) (wd.extractLsb' 12 5) (wd.extractLsb' 7 5))) := by
    unfold rawDecode decodeMajor69
    rw [h0, h1]
    rfl
  rw [e, f0, f1, f2, f3]

theorem raw_catdel (s : BitVec 3) (d : BitVec 5) (a : BitVec 5) (b : BitVec 5) :
    rawDecode (105#7 ++ s ++ d ++ a ++ b ++ 1#7) = .ok (.inl (.catdel s d a b)) := by
  generalize hw : (105#7 ++ s ++ d ++ a ++ b ++ 1#7) = wd
  obtain ⟨h0, f0, f1, f2, f3, h1⟩ := fields_0 _ _ _ _ _ _ hw
  have e : rawDecode wd = .ok (.inl (.catdel (wd.extractLsb' 22 3) (wd.extractLsb' 17 5) (wd.extractLsb' 12 5) (wd.extractLsb' 7 5))) := by
    unfold rawDecode decodeMajor69
    rw [h0, h1]
    rfl
  rw [e, f0, f1, f2, f3]

theorem raw_rcall (s : BitVec 3) (d : BitVec 5) (a : BitVec 5) (b : BitVec 5) :
    rawDecode (106#7 ++ s ++ d ++ a ++ b ++ 0#7) = .ok (.inl (.rcall s d a b)) := by
  generalize hw : (106#7 ++ s ++ d ++ a ++ b ++ 0#7) = wd
  obtain ⟨h0, f0, f1, f2, f3, h1⟩ := fields_0 _ _ _ _ _ _ hw
  have e : rawDecode wd = .ok (.inl (.rcall (wd.extractLsb' 22 3) (wd.extractLsb' 17 5) (wd.extractLsb' 12 5) (wd.extractLsb' 7 5))) := by
    unfold rawDecode decodeMajor6A
    rw [h0, h1]
    rfl
  rw [e, f0, f1, f2, f3]

theorem raw_rcallNb (s : BitVec 3) (d : BitVec 5) (a : BitVec 5) (b : BitVec 5) :
    rawDecode (106#7 ++ s ++ d ++ a ++ b ++ 1#7) = .ok (.inl (.rcallNb s d a b)) := by
  generalize hw : (106#7 ++ s ++ d ++ a ++ b ++ 1#7) = wd
  obtain ⟨h0, f0, f1, f2, f3, h1⟩ := fields_0 _ _ _ _ _ _ hw
  have e : rawDecode wd = .ok (.inl (.rcallNb (wd.extractLsb' 22 3) (wd.extractLsb' 17 5) (wd.extractLsb' 12 5) (wd.extractLsb' 7 5))) := by
    unfold rawDecode decodeMajor6A
    rw [h0, h1]
    rfl
  rw [e, f0, f1, f2, f3]

theorem raw_rread (s : BitVec 3) (d : BitVec 5) (a : BitVec 5) (b : BitVec 5) :
    rawDecode (106#7 ++ s ++ d ++ a ++ b ++ 2#7) = .ok (.inl (.rread s d a b)) := by
  generalize hw : (106#7 ++ s ++ d ++ a ++ b ++ 2#7) = wd
  obtain ⟨h0, f0, f1, f2, f3, h1⟩ := fields_0 _ _ _ _ _ _ hw
  have e : rawDecode wd = .ok (.inl (.rread (wd.extractLsb' 22 3) (wd.extractLsb' 17 5) (wd.extractLsb' 12 5) (wd.extractLsb' 7 5))) := by
    unfold rawDecode decodeMajor6A
    rw [h0, h1]
    rfl
  rw [e, f0, f1, f2, f3]

theorem raw_rreadLocal (s : BitVec 3) (d : BitVec 5) (a : BitVec 5) (b : BitVec 5) :
    rawDecode (106#7 ++ s ++ d ++ a ++ b ++ 3#7) = .ok (.inl (.rreadLocal s d a b)) := by
  generalize hw : (106#7 ++ s ++ d ++ a ++ b ++ 3#7) = wd
  obtain ⟨h0, f0, f1, f2, f3, h1⟩ := fields_0 _ _ _ _ _ _ hw
  have e : rawDecode wd = .ok (.inl (.rreadLocal (wd.extractLsb' 22 3) (wd.extractLsb' 17 5) (wd.extractLsb' 12 5) (wd.extractLsb' 7 5))) := by
    unfold rawDecode decodeMajor6A
    rw [h0, h1]
    rfl
  rw [e, f0, f1, f2, f3]

theorem raw_rwait (s : BitVec 3) (d : BitVec 5) (a : BitVec 5) (b : BitVec 5) :
    rawDecode (106#7 ++ s ++ d ++ a ++ b ++ 4#7) = .ok (.inl (.rwait s d a b)) := by
  generalize hw : (106#7 ++ s ++ d ++ a ++ b ++ 4#7) = wd
  obtain ⟨h0, f0, f1, f2, f3, h1⟩ := fields_0 _ _ _ _ _ _ hw
  have e : rawDecode wd = .ok (.inl (.rwait (wd.extractLsb' 22 3) (wd.extractLsb' 17 5) (wd.extractLsb' 12 5) (wd.extractLsb' 7 5))) := by
    unfold rawDecode decodeMajor6A
    rw [h0, h1]
    rfl
  rw [e, f0, f1, f2, f3]

theorem raw_objnew (s : BitVec 3) (d : BitVec 5) (a : BitVec 5) (b : BitVec 5) :
    rawDecode (107#7 ++ s ++ d ++ a ++ b ++ 0#7) = .ok (.inl (.objnew s d a b)) := by
  generalize hw : (107#7 ++ s ++ d ++ a ++ b ++ 0#7) = wd
  obtain ⟨h0, f0, f1, f2, f3, h1⟩ := fields_0 _ _ _ _ _ _ hw
  have e : rawDecode wd = .ok (.inl (.objnew (wd.extractLsb' 22 3) (wd.extractLsb' 17 5) (wd.extractLsb' 12 5) (wd.extractLsb' 7 5))) := by
    unfold rawDecode decodeMajor6B
    rw [h0, h1]
    rfl
  rw [e, f0, f1, f2, f3]

theorem raw_objdel (s : BitVec 3) (d : BitVec 5) (a : BitVec 5) (b : BitVec 5) :
    rawDecode (107#7 ++ s ++ d ++ a ++ b ++ 1#7) = .ok (.inl (.objdel s d a b)) := by
  generalize hw : (107#7 ++ s ++ d ++ a ++ b ++ 1#7) = wd
  obtain ⟨h0, f0, f1, f2, f3, h1⟩ := fields_0 _ _ _ _ _ _ hw
  have e : rawDecode wd = .ok (.inl (.objdel (wd.extractLsb' 22 3) (wd.extractLsb' 17 5) (wd.extractLsb' 12 5) (wd.extractLsb' 7 5))) := by
    unfold rawDecode decodeMajor6B
    rw [h0, h1]
    rfl
  rw [e, f0, f1, f2, f3]

theorem raw_himm (p : BitVec 25) :
    rawDecode (112#7 ++ p) = .ok (.inl (.himm p)) := by
  generalize hw : (112#7 ++ p) = wd
  obtain ⟨h0, f0⟩ := fields_21 _ _ hw
  have e : rawDecode wd = .ok (.inl (.himm (wd.extractLsb' 0 25))) := by
    unfold rawDecode
    rw [h0]
    rfl
  rw [e, f0]

theorem raw_hsch (x : BitVec 16) (n : BitVec 8) :
    rawDecode (113#7 ++ 0#1 ++ x ++ n) = .ok (.inl (.hsch x n)) := by
  generalize hw : (113#7 ++ 0#1 ++ x ++ n) = wd
  obtain ⟨h0, h1, f0, f1⟩ := fields_22 _ _ _ _ hw
  have e : rawDecode wd = .ok (.inl (.hsch (wd.extractLsb' 8 16) (wd.extractLsb' 0 8))) := by
    unfold rawDecode decodeMajor71
    rw [h0, h1]
    rfl
  rw [e, f0, f1]

theorem raw_hschIdle (x : BitVec 20) (u : BitVec 4) :
    rawDecode (113#7 ++ 1#1 ++ x ++ u) = .ok (.inl (.hschIdle x u)) := by
  generalize hw : (113#7 ++ 1#1 ++ x ++ u) = wd
  obtain ⟨h0, h1, f0, f1⟩ := fields_23 _ _ _ _ hw
  have e : rawDecode wd = .ok (.inl (.hschIdle (wd.extractLsb' 4 20) (wd.extractLsb' 0 4))) := by
    unfold rawDecode decodeMajor71
    rw [h0, h1]
    rfl
  rw [e, f0, f1]

theorem raw_hmod (p : BitVec 3) (r : BitVec 3) (t : BitVec 2) (c : BitVec 2) (o : BitVec 3) (s : BitVec 4) (x : BitVec 8) :
    rawDecode (114#7 ++ p ++ r ++ t ++ c ++ o ++ s ++ x) = .ok (.inl (.hmod p r t c o s x)) := by
  generalize hw : (114#7 ++ p ++ r ++ t ++ c ++ o ++ s ++ x) = wd
  obtain ⟨h0, f0, f1, f2, f3, f4, f5, f6⟩ := fields_24 _ _ _ _ _ _ _ _ hw
  have e : rawDecode wd = .ok (.inl (.hmod (wd.extractLsb' 22 3) (wd.extractLsb' 19 3) (wd.extractLsb' 17 2) (wd.extractLsb' 15 2) (wd.extractLsb' 12 3) (wd.extractLsb' 8 4) (wd.extractLsb' 0 8))) := by
    unfold rawDecode
    rw [h0]
    rfl
  rw [e, f0, f1, f2, f3, f4, f5, f6]

theorem raw_egrs (s : BitVec 3) (d : BitVec 5) (a : BitVec 5) (b : BitVec 5) :
    rawDecode (101#7 ++ s ++ d ++ a ++ b ++ 0#7) = .ok (.inr (.egrs s d a b)) := by
  generalize hw : (101#7 ++ s ++ d ++ a ++ b ++ 0#7) = wd
  obtain ⟨h0, f0, f1, f2, f3, h1⟩ := fields_0 _ _ _ _ _ _ hw
  have e : rawDecode wd = .ok (.inr (.egrs (wd.extractLsb' 22 3) (wd.extractLsb' 17 5) (wd.extractLsb' 12 5) (wd.extractLsb' 7 5))) := by
    unfold rawDecode decodeMajor65
    rw [h0, h1]
    rfl
  rw [e, f0, f1, f2, f3]

theorem raw_egfin (s : BitVec 3) (d : BitVec 5) (a : BitVec 5) (b : BitVec 5) :
    rawDecode (101#7 ++ s ++ d ++ a ++ b ++ 1#7) = .ok (.inr (.egfin s d a b)) := by
  generalize hw : (101#7 ++ s ++ d ++ a ++ b ++ 1#7) = wd
  obtain ⟨h0, f0, f1, f2, f3, h1⟩ := fields_0 _ _ _ _ _ _ hw
  have e : rawDecode wd = .ok (.inr (.egfin (wd.extractLsb' 22 3) (wd.extractLsb' 17 5) (wd.extractLsb' 12 5) (wd.extractLsb' 7 5))) := by
    unfold rawDecode decodeMajor65
    rw [h0, h1]
    rfl
  rw [e, f0, f1, f2, f3]

theorem raw_ctxnew (s : BitVec 3) (d : BitVec 5) (a : BitVec 5) (b : BitVec 5) :
    rawDecode (108#7 ++ s ++ d ++ a ++ b ++ 0#7) = .ok (.inr (.ctxnew s d a b)) := by
  generalize hw : (108#7 ++ s ++ d ++ a ++ b ++ 0#7) = wd
  obtain ⟨h0, f0, f1, f2, f3, h1⟩ := fields_0 _ _ _ _ _ _ hw
  have e : rawDecode wd = .ok (.inr (.ctxnew (wd.extractLsb' 22 3) (wd.extractLsb' 17 5) (wd.extractLsb' 12 5) (wd.extractLsb' 7 5))) := by
    unfold rawDecode decodeMajor6C
    rw [h0, h1]
    rfl
  rw [e, f0, f1, f2, f3]

theorem raw_ctxgrant (s : BitVec 3) (d : BitVec 5) (a : BitVec 5) (b : BitVec 5) :
    rawDecode (108#7 ++ s ++ d ++ a ++ b ++ 1#7) = .ok (.inr (.ctxgrant s d a b)) := by
  generalize hw : (108#7 ++ s ++ d ++ a ++ b ++ 1#7) = wd
  obtain ⟨h0, f0, f1, f2, f3, h1⟩ := fields_0 _ _ _ _ _ _ hw
  have e : rawDecode wd = .ok (.inr (.ctxgrant (wd.extractLsb' 22 3) (wd.extractLsb' 17 5) (wd.extractLsb' 12 5) (wd.extractLsb' 7 5))) := by
    unfold rawDecode decodeMajor6C
    rw [h0, h1]
    rfl
  rw [e, f0, f1, f2, f3]

theorem raw_ctxrevoke (s : BitVec 3) (d : BitVec 5) (a : BitVec 5) (b : BitVec 5) :
    rawDecode (108#7 ++ s ++ d ++ a ++ b ++ 2#7) = .ok (.inr (.ctxrevoke s d a b)) := by
  generalize hw : (108#7 ++ s ++ d ++ a ++ b ++ 2#7) = wd
  obtain ⟨h0, f0, f1, f2, f3, h1⟩ := fields_0 _ _ _ _ _ _ hw
  have e : rawDecode wd = .ok (.inr (.ctxrevoke (wd.extractLsb' 22 3) (wd.extractLsb' 17 5) (wd.extractLsb' 12 5) (wd.extractLsb' 7 5))) := by
    unfold rawDecode decodeMajor6C
    rw [h0, h1]
    rfl
  rw [e, f0, f1, f2, f3]

theorem raw_ctxstat (s : BitVec 3) (d : BitVec 5) (a : BitVec 5) (b : BitVec 5) :
    rawDecode (108#7 ++ s ++ d ++ a ++ b ++ 3#7) = .ok (.inr (.ctxstat s d a b)) := by
  generalize hw : (108#7 ++ s ++ d ++ a ++ b ++ 3#7) = wd
  obtain ⟨h0, f0, f1, f2, f3, h1⟩ := fields_0 _ _ _ _ _ _ hw
  have e : rawDecode wd = .ok (.inr (.ctxstat (wd.extractLsb' 22 3) (wd.extractLsb' 17 5) (wd.extractLsb' 12 5) (wd.extractLsb' 7 5))) := by
    unfold rawDecode decodeMajor6C
    rw [h0, h1]
    rfl
  rw [e, f0, f1, f2, f3]

theorem raw_resume (s : BitVec 3) (d : BitVec 5) (a : BitVec 5) (b : BitVec 5) :
    rawDecode (109#7 ++ s ++ d ++ a ++ b ++ 0#7) = .ok (.inr (.resume s d a b)) := by
  generalize hw : (109#7 ++ s ++ d ++ a ++ b ++ 0#7) = wd
  obtain ⟨h0, f0, f1, f2, f3, h1⟩ := fields_0 _ _ _ _ _ _ hw
  have e : rawDecode wd = .ok (.inr (.resume (wd.extractLsb' 22 3) (wd.extractLsb' 17 5) (wd.extractLsb' 12 5) (wd.extractLsb' 7 5))) := by
    unfold rawDecode decodeMajor6D
    rw [h0, h1]
    rfl
  rw [e, f0, f1, f2, f3]

theorem raw_lnch (s : BitVec 3) (d : BitVec 5) (a : BitVec 5) (b : BitVec 5) :
    rawDecode (110#7 ++ s ++ d ++ a ++ b ++ 0#7) = .ok (.inr (.lnch s d a b)) := by
  generalize hw : (110#7 ++ s ++ d ++ a ++ b ++ 0#7) = wd
  obtain ⟨h0, f0, f1, f2, f3, h1⟩ := fields_0 _ _ _ _ _ _ hw
  have e : rawDecode wd = .ok (.inr (.lnch (wd.extractLsb' 22 3) (wd.extractLsb' 17 5) (wd.extractLsb' 12 5) (wd.extractLsb' 7 5))) := by
    unfold rawDecode decodeMajor6E
    rw [h0, h1]
    rfl
  rw [e, f0, f1, f2, f3]

theorem raw_hnop (x : BitVec 25) :
    rawDecode (115#7 ++ x) = .ok (.inr (.hnop x)) := by
  generalize hw : (115#7 ++ x) = wd
  obtain ⟨h0, f0⟩ := fields_21 _ _ hw
  have e : rawDecode wd = .ok (.inr (.hnop (wd.extractLsb' 0 25))) := by
    unfold rawDecode
    rw [h0]
    rfl
  rw [e, f0]

theorem raw_reservedHint (maj : BitVec 7) (p : BitVec 25) (h : 0x74 ≤ maj.toNat ∧ maj.toNat ≤ 0x7E) :
    rawDecode (maj ++ p) = .ok (.inr (.reservedHint maj p)) := by
  generalize hw : (maj ++ p) = w
  have h0 : w.extractLsb' 25 7 = maj := by subst hw; rw [ext_hi, ext_all]; omega
  have f1 : w.extractLsb' 0 25 = p := by subst hw; rw [ext_lo, ext_all]; omega
  have e : rawDecode w = .ok (.inr (.reservedHint (w.extractLsb' 25 7) (w.extractLsb' 0 25))) := by
    unfold rawDecode
    obtain ⟨a, b⟩ := h
    have hc : (w.extractLsb' 25 7).toNat = maj.toNat := by rw [h0]
    rw [hc]
    generalize maj.toNat = n at a b
    interval_cases n <;> rfl
  rw [e, h0, f1]

end Sys2Proof
end

