-- ==== Sys2Proof/Laws/PerInstr.lean ====
section
/-! SUPPORT. The family `Words`: the word of a well-formed instruction is read back as the instruction, field by field. -/

namespace Sys2Proof.Laws.Words

open Sys2Proof

set_option Elab.async false

/-- The word that the encoder gives a well-formed instruction is one that the decoder reads, to the same instruction. -/
def Statement (i : Instr) : Prop :=
  ∀ w, encode i = some w → i.wellFormed = true → ∃ f, rawDecode w = .ok f ∧ f.toInstr = i ∧ f.wellFormed = true

theorem add (s : BitVec 3) (d : BitVec 5) (a : BitVec 5) (b : BitVec 5) : Statement (.add s d a b) := by
  intro w h hw
  cases h
  exact ⟨_, raw_add s d a b, rfl, hw⟩
theorem sub (s : BitVec 3) (d : BitVec 5) (a : BitVec 5) (b : BitVec 5) : Statement (.sub s d a b) := by
  intro w h hw
  cases h
  exact ⟨_, raw_sub s d a b, rfl, hw⟩
theorem and (s : BitVec 3) (d : BitVec 5) (a : BitVec 5) (b : BitVec 5) : Statement (.and s d a b) := by
  intro w h hw
  cases h
  exact ⟨_, raw_and s d a b, rfl, hw⟩
theorem or (s : BitVec 3) (d : BitVec 5) (a : BitVec 5) (b : BitVec 5) : Statement (.or s d a b) := by
  intro w h hw
  cases h
  exact ⟨_, raw_or s d a b, rfl, hw⟩
theorem xor (s : BitVec 3) (d : BitVec 5) (a : BitVec 5) (b : BitVec 5) : Statement (.xor s d a b) := by
  intro w h hw
  cases h
  exact ⟨_, raw_xor s d a b, rfl, hw⟩
theorem shl (s : BitVec 3) (d : BitVec 5) (a : BitVec 5) (b : BitVec 5) : Statement (.shl s d a b) := by
  intro w h hw
  cases h
  exact ⟨_, raw_shl s d a b, rfl, hw⟩
theorem shr (s : BitVec 3) (d : BitVec 5) (a : BitVec 5) (b : BitVec 5) : Statement (.shr s d a b) := by
  intro w h hw
  cases h
  exact ⟨_, raw_shr s d a b, rfl, hw⟩
theorem sar (s : BitVec 3) (d : BitVec 5) (a : BitVec 5) (b : BitVec 5) : Statement (.sar s d a b) := by
  intro w h hw
  cases h
  exact ⟨_, raw_sar s d a b, rfl, hw⟩
theorem min (s : BitVec 3) (d : BitVec 5) (a : BitVec 5) (b : BitVec 5) : Statement (.min s d a b) := by
  intro w h hw
  cases h
  exact ⟨_, raw_min s d a b, rfl, hw⟩
theorem minN (s : BitVec 3) (d : BitVec 5) (a : BitVec 5) (b : BitVec 5) : Statement (.minN s d a b) := by
  intro w h hw
  cases h
  exact ⟨_, raw_minN s d a b, rfl, hw⟩
theorem max (s : BitVec 3) (d : BitVec 5) (a : BitVec 5) (b : BitVec 5) : Statement (.max s d a b) := by
  intro w h hw
  cases h
  exact ⟨_, raw_max s d a b, rfl, hw⟩
theorem maxN (s : BitVec 3) (d : BitVec 5) (a : BitVec 5) (b : BitVec 5) : Statement (.maxN s d a b) := by
  intro w h hw
  cases h
  exact ⟨_, raw_maxN s d a b, rfl, hw⟩
theorem leaB (s : BitVec 3) (d : BitVec 5) (a : BitVec 5) (b : BitVec 5) : Statement (.leaB s d a b) := by
  intro w h hw
  cases h
  exact ⟨_, raw_leaB s d a b, rfl, hw⟩
theorem leaH (s : BitVec 3) (d : BitVec 5) (a : BitVec 5) (b : BitVec 5) : Statement (.leaH s d a b) := by
  intro w h hw
  cases h
  exact ⟨_, raw_leaH s d a b, rfl, hw⟩
theorem leaW (s : BitVec 3) (d : BitVec 5) (a : BitVec 5) (b : BitVec 5) : Statement (.leaW s d a b) := by
  intro w h hw
  cases h
  exact ⟨_, raw_leaW s d a b, rfl, hw⟩
theorem leaD (s : BitVec 3) (d : BitVec 5) (a : BitVec 5) (b : BitVec 5) : Statement (.leaD s d a b) := by
  intro w h hw
  cases h
  exact ⟨_, raw_leaD s d a b, rfl, hw⟩
theorem popc (s : BitVec 3) (d : BitVec 5) (a : BitVec 5) (b : BitVec 5) : Statement (.popc s d a b) := by
  intro w h hw
  cases h
  exact ⟨_, raw_popc s d a b, rfl, hw⟩
theorem clz (s : BitVec 3) (d : BitVec 5) (a : BitVec 5) (b : BitVec 5) : Statement (.clz s d a b) := by
  intro w h hw
  cases h
  exact ⟨_, raw_clz s d a b, rfl, hw⟩
theorem ctz (s : BitVec 3) (d : BitVec 5) (a : BitVec 5) (b : BitVec 5) : Statement (.ctz s d a b) := by
  intro w h hw
  cases h
  exact ⟨_, raw_ctz s d a b, rfl, hw⟩
theorem brev (s : BitVec 3) (d : BitVec 5) (a : BitVec 5) (b : BitVec 5) : Statement (.brev s d a b) := by
  intro w h hw
  cases h
  exact ⟨_, raw_brev s d a b, rfl, hw⟩
theorem bext (s : BitVec 3) (d : BitVec 5) (a : BitVec 5) (b : BitVec 5) : Statement (.bext s d a b) := by
  intro w h hw
  cases h
  exact ⟨_, raw_bext s d a b, rfl, hw⟩
theorem bins (s : BitVec 3) (d : BitVec 5) (a : BitVec 5) (b : BitVec 5) : Statement (.bins s d a b) := by
  intro w h hw
  cases h
  exact ⟨_, raw_bins s d a b, rfl, hw⟩
theorem sel (s : BitVec 3) (d : BitVec 5) (a : BitVec 5) (b : BitVec 5) : Statement (.sel s d a b) := by
  intro w h hw
  cases h
  exact ⟨_, raw_sel s d a b, rfl, hw⟩
theorem cmpEq (s : BitVec 3) (x : BitVec 2) (k : BitVec 3) (a : BitVec 5) (b : BitVec 5) : Statement (.cmpEq s x k a b) := by
  intro w h hw
  cases h
  exact ⟨_, raw_cmpEq s x k a b, rfl, hw⟩
theorem cmpNe (s : BitVec 3) (x : BitVec 2) (k : BitVec 3) (a : BitVec 5) (b : BitVec 5) : Statement (.cmpNe s x k a b) := by
  intro w h hw
  cases h
  exact ⟨_, raw_cmpNe s x k a b, rfl, hw⟩
theorem cmpLt (s : BitVec 3) (x : BitVec 2) (k : BitVec 3) (a : BitVec 5) (b : BitVec 5) : Statement (.cmpLt s x k a b) := by
  intro w h hw
  cases h
  exact ⟨_, raw_cmpLt s x k a b, rfl, hw⟩
theorem cmpLe (s : BitVec 3) (x : BitVec 2) (k : BitVec 3) (a : BitVec 5) (b : BitVec 5) : Statement (.cmpLe s x k a b) := by
  intro w h hw
  cases h
  exact ⟨_, raw_cmpLe s x k a b, rfl, hw⟩
theorem cmpLtn (s : BitVec 3) (x : BitVec 2) (k : BitVec 3) (a : BitVec 5) (b : BitVec 5) : Statement (.cmpLtn s x k a b) := by
  intro w h hw
  cases h
  exact ⟨_, raw_cmpLtn s x k a b, rfl, hw⟩
theorem cmpLen (s : BitVec 3) (x : BitVec 2) (k : BitVec 3) (a : BitVec 5) (b : BitVec 5) : Statement (.cmpLen s x k a b) := by
  intro w h hw
  cases h
  exact ⟨_, raw_cmpLen s x k a b, rfl, hw⟩
theorem mul (s : BitVec 3) (d : BitVec 5) (a : BitVec 5) (b : BitVec 5) : Statement (.mul s d a b) := by
  intro w h hw
  cases h
  exact ⟨_, raw_mul s d a b, rfl, hw⟩
theorem mulh (s : BitVec 3) (d : BitVec 5) (a : BitVec 5) (b : BitVec 5) : Statement (.mulh s d a b) := by
  intro w h hw
  cases h
  exact ⟨_, raw_mulh s d a b, rfl, hw⟩
theorem mulhN (s : BitVec 3) (d : BitVec 5) (a : BitVec 5) (b : BitVec 5) : Statement (.mulhN s d a b) := by
  intro w h hw
  cases h
  exact ⟨_, raw_mulhN s d a b, rfl, hw⟩
theorem div (s : BitVec 3) (d : BitVec 5) (a : BitVec 5) (b : BitVec 5) : Statement (.div s d a b) := by
  intro w h hw
  cases h
  exact ⟨_, raw_div s d a b, rfl, hw⟩
theorem divN (s : BitVec 3) (d : BitVec 5) (a : BitVec 5) (b : BitVec 5) : Statement (.divN s d a b) := by
  intro w h hw
  cases h
  exact ⟨_, raw_divN s d a b, rfl, hw⟩
theorem rem (s : BitVec 3) (d : BitVec 5) (a : BitVec 5) (b : BitVec 5) : Statement (.rem s d a b) := by
  intro w h hw
  cases h
  exact ⟨_, raw_rem s d a b, rfl, hw⟩
theorem remN (s : BitVec 3) (d : BitVec 5) (a : BitVec 5) (b : BitVec 5) : Statement (.remN s d a b) := by
  intro w h hw
  cases h
  exact ⟨_, raw_remN s d a b, rfl, hw⟩
theorem addi (s : BitVec 3) (d : BitVec 5) (a : BitVec 5) (i : BitVec 12) : Statement (.addi s d a i) := by
  intro w h hw
  cases h
  exact ⟨_, raw_addi s d a i, rfl, hw⟩
theorem andi (s : BitVec 3) (d : BitVec 5) (a : BitVec 5) (i : BitVec 12) : Statement (.andi s d a i) := by
  intro w h hw
  cases h
  exact ⟨_, raw_andi s d a i, rfl, hw⟩
theorem ori (s : BitVec 3) (d : BitVec 5) (a : BitVec 5) (i : BitVec 12) : Statement (.ori s d a i) := by
  intro w h hw
  cases h
  exact ⟨_, raw_ori s d a i, rfl, hw⟩
theorem xori (s : BitVec 3) (d : BitVec 5) (a : BitVec 5) (i : BitVec 12) : Statement (.xori s d a i) := by
  intro w h hw
  cases h
  exact ⟨_, raw_xori s d a i, rfl, hw⟩
theorem shli (s : BitVec 3) (d : BitVec 5) (a : BitVec 5) (i : BitVec 12) : Statement (.shli s d a i) := by
  intro w h hw
  cases h
  exact ⟨_, raw_shli s d a i, rfl, hw⟩
theorem shri (s : BitVec 3) (d : BitVec 5) (a : BitVec 5) (i : BitVec 12) : Statement (.shri s d a i) := by
  intro w h hw
  cases h
  exact ⟨_, raw_shri s d a i, rfl, hw⟩
theorem sari (s : BitVec 3) (d : BitVec 5) (a : BitVec 5) (i : BitVec 12) : Statement (.sari s d a i) := by
  intro w h hw
  cases h
  exact ⟨_, raw_sari s d a i, rfl, hw⟩
theorem cmpiEq (s : BitVec 3) (k : BitVec 3) (a : BitVec 5) (i : BitVec 12) : Statement (.cmpiEq s k a i) := by
  intro w h hw
  cases h
  exact ⟨_, raw_cmpiEq s k a i, rfl, hw⟩
theorem cmpiNe (s : BitVec 3) (k : BitVec 3) (a : BitVec 5) (i : BitVec 12) : Statement (.cmpiNe s k a i) := by
  intro w h hw
  cases h
  exact ⟨_, raw_cmpiNe s k a i, rfl, hw⟩
theorem cmpiLt (s : BitVec 3) (k : BitVec 3) (a : BitVec 5) (i : BitVec 12) : Statement (.cmpiLt s k a i) := by
  intro w h hw
  cases h
  exact ⟨_, raw_cmpiLt s k a i, rfl, hw⟩
theorem cmpiLtn (s : BitVec 3) (k : BitVec 3) (a : BitVec 5) (i : BitVec 12) : Statement (.cmpiLtn s k a i) := by
  intro w h hw
  cases h
  exact ⟨_, raw_cmpiLtn s k a i, rfl, hw⟩
theorem br (s : BitVec 3) (k : BitVec 3) (n : BitVec 1) (o : BitVec 18) : Statement (.br s k n o) := by
  intro w h hw
  cases h
  exact ⟨_, raw_br s k n o, rfl, hw⟩
theorem jmp (s : BitVec 3) (o : BitVec 22) : Statement (.jmp s o) := by
  intro w h hw
  cases h
  exact ⟨_, raw_jmp s o, rfl, hw⟩
theorem call (s : BitVec 3) (o : BitVec 22) : Statement (.call s o) := by
  intro w h hw
  cases h
  exact ⟨_, raw_call s o, rfl, hw⟩
theorem jmpr (s : BitVec 3) (d : BitVec 5) (a : BitVec 5) (b : BitVec 5) : Statement (.jmpr s d a b) := by
  intro w h hw
  cases h
  exact ⟨_, raw_jmpr s d a b, rfl, hw⟩
theorem callr (s : BitVec 3) (d : BitVec 5) (a : BitVec 5) (b : BitVec 5) : Statement (.callr s d a b) := by
  intro w h hw
  cases h
  exact ⟨_, raw_callr s d a b, rfl, hw⟩
theorem eret (s : BitVec 3) (d : BitVec 5) (a : BitVec 5) (b : BitVec 5) : Statement (.eret s d a b) := by
  intro w h hw
  cases h
  exact ⟨_, raw_eret s d a b, rfl, hw⟩
theorem idle (s : BitVec 3) (d : BitVec 5) (a : BitVec 5) (b : BitVec 5) : Statement (.idle s d a b) := by
  intro w h hw
  cases h
  exact ⟨_, raw_idle s d a b, rfl, hw⟩
theorem brk (s : BitVec 3) (e : BitVec 15) : Statement (.brk s e) := by
  intro w h hw
  cases h
  exact ⟨_, raw_brk s e, rfl, hw⟩
theorem mark (s : BitVec 3) (d : BitVec 5) (a : BitVec 5) (b : BitVec 5) : Statement (.mark s d a b) := by
  intro w h hw
  cases h
  exact ⟨_, raw_mark s d a b, rfl, hw⟩
theorem csrr (s : BitVec 3) (d : BitVec 5) (a : BitVec 5) (i : BitVec 12) : Statement (.csrr s d a i) := by
  intro w h hw
  cases h
  exact ⟨_, raw_csrr s d a i, rfl, hw⟩
theorem csrw (s : BitVec 3) (d : BitVec 5) (a : BitVec 5) (i : BitVec 12) : Statement (.csrw s d a i) := by
  intro w h hw
  cases h
  exact ⟨_, raw_csrw s d a i, rfl, hw⟩
theorem csrset (s : BitVec 3) (d : BitVec 5) (a : BitVec 5) (i : BitVec 12) : Statement (.csrset s d a i) := by
  intro w h hw
  cases h
  exact ⟨_, raw_csrset s d a i, rfl, hw⟩
theorem csrclr (s : BitVec 3) (d : BitVec 5) (a : BitVec 5) (i : BitVec 12) : Statement (.csrclr s d a i) := by
  intro w h hw
  cases h
  exact ⟨_, raw_csrclr s d a i, rfl, hw⟩
theorem sys (s : BitVec 3) (d : BitVec 5) (a : BitVec 5) (i : BitVec 12) : Statement (.sys s d a i) := by
  intro w h hw
  cases h
  exact ⟨_, raw_sys s d a i, rfl, hw⟩
theorem trap (s : BitVec 3) (d : BitVec 5) (a : BitVec 5) (i : BitVec 12) : Statement (.trap s d a i) := by
  intro w h hw
  cases h
  exact ⟨_, raw_trap s d a i, rfl, hw⟩
theorem ld (s : BitVec 3) (t : BitVec 5) (a : BitVec 5) (z : BitVec 2) (o : BitVec 10) : Statement (.ld s t a z o) := by
  intro w h hw
  cases h
  exact ⟨_, raw_ld s t a z o, rfl, hw⟩
theorem st (s : BitVec 3) (t : BitVec 5) (a : BitVec 5) (z : BitVec 2) (o : BitVec 10) : Statement (.st s t a z o) := by
  intro w h hw
  cases h
  exact ⟨_, raw_st s t a z o, rfl, hw⟩
theorem ldS (s : BitVec 3) (t : BitVec 5) (a : BitVec 5) (z : BitVec 2) (o : BitVec 10) : Statement (.ldS s t a z o) := by
  intro w h hw
  cases h
  exact ⟨_, raw_ldS s t a z o, rfl, hw⟩
theorem pft (s : BitVec 3) (t : BitVec 5) (a : BitVec 5) (z : BitVec 2) (o : BitVec 10) : Statement (.pft s t a z o) := by
  intro w h hw
  cases h
  exact ⟨_, raw_pft s t a z o, rfl, hw⟩
theorem ldo (s : BitVec 3) (t : BitVec 5) (a : BitVec 5) (z : BitVec 3) (r : BitVec 2) (c : BitVec 3) (u : BitVec 4) : Statement (.ldo s t a z r c u) := by
  intro w h hw
  cases h
  exact ⟨_, raw_ldo s t a z r c u, rfl, hw⟩
theorem sto (s : BitVec 3) (t : BitVec 5) (a : BitVec 5) (z : BitVec 3) (r : BitVec 2) (c : BitVec 3) (u : BitVec 4) : Statement (.sto s t a z r c u) := by
  intro w h hw
  cases h
  exact ⟨_, raw_sto s t a z r c u, rfl, hw⟩
theorem enter (s : BitVec 3) (d : BitVec 5) (a : BitVec 5) (i : BitVec 12) : Statement (.enter s d a i) := by
  intro w h hw
  cases h
  exact ⟨_, raw_enter s d a i, rfl, hw⟩
theorem leave (s : BitVec 3) (d : BitVec 5) (a : BitVec 5) (i : BitVec 12) : Statement (.leave s d a i) := by
  intro w h hw
  cases h
  exact ⟨_, raw_leave s d a i, rfl, hw⟩
theorem amoAdd (s : BitVec 3) (t : BitVec 5) (a : BitVec 5) (z : BitVec 3) (r : BitVec 2) (c : BitVec 3) : Statement (.amoAdd s t a z r c) := by
  intro w h hw
  cases h
  exact ⟨_, raw_amoAdd s t a z r c, rfl, hw⟩
theorem amoAnd (s : BitVec 3) (t : BitVec 5) (a : BitVec 5) (z : BitVec 3) (r : BitVec 2) (c : BitVec 3) : Statement (.amoAnd s t a z r c) := by
  intro w h hw
  cases h
  exact ⟨_, raw_amoAnd s t a z r c, rfl, hw⟩
theorem amoOr (s : BitVec 3) (t : BitVec 5) (a : BitVec 5) (z : BitVec 3) (r : BitVec 2) (c : BitVec 3) : Statement (.amoOr s t a z r c) := by
  intro w h hw
  cases h
  exact ⟨_, raw_amoOr s t a z r c, rfl, hw⟩
theorem amoXor (s : BitVec 3) (t : BitVec 5) (a : BitVec 5) (z : BitVec 3) (r : BitVec 2) (c : BitVec 3) : Statement (.amoXor s t a z r c) := by
  intro w h hw
  cases h
  exact ⟨_, raw_amoXor s t a z r c, rfl, hw⟩
theorem amoMin (s : BitVec 3) (t : BitVec 5) (a : BitVec 5) (z : BitVec 3) (r : BitVec 2) (c : BitVec 3) : Statement (.amoMin s t a z r c) := by
  intro w h hw
  cases h
  exact ⟨_, raw_amoMin s t a z r c, rfl, hw⟩
theorem amoMax (s : BitVec 3) (t : BitVec 5) (a : BitVec 5) (z : BitVec 3) (r : BitVec 2) (c : BitVec 3) : Statement (.amoMax s t a z r c) := by
  intro w h hw
  cases h
  exact ⟨_, raw_amoMax s t a z r c, rfl, hw⟩
theorem amoMinn (s : BitVec 3) (t : BitVec 5) (a : BitVec 5) (z : BitVec 3) (r : BitVec 2) (c : BitVec 3) : Statement (.amoMinn s t a z r c) := by
  intro w h hw
  cases h
  exact ⟨_, raw_amoMinn s t a z r c, rfl, hw⟩
theorem amoMaxn (s : BitVec 3) (t : BitVec 5) (a : BitVec 5) (z : BitVec 3) (r : BitVec 2) (c : BitVec 3) : Statement (.amoMaxn s t a z r c) := by
  intro w h hw
  cases h
  exact ⟨_, raw_amoMaxn s t a z r c, rfl, hw⟩
theorem amoSwap (s : BitVec 3) (t : BitVec 5) (a : BitVec 5) (z : BitVec 3) (r : BitVec 2) (c : BitVec 3) : Statement (.amoSwap s t a z r c) := by
  intro w h hw
  cases h
  exact ⟨_, raw_amoSwap s t a z r c, rfl, hw⟩
theorem amoFadd (s : BitVec 3) (t : BitVec 5) (a : BitVec 5) (z : BitVec 3) (r : BitVec 2) (c : BitVec 3) : Statement (.amoFadd s t a z r c) := by
  intro w h hw
  cases h
  exact ⟨_, raw_amoFadd s t a z r c, rfl, hw⟩
theorem cas (s : BitVec 3) (t : BitVec 5) (a : BitVec 5) (z : BitVec 3) (r : BitVec 2) (c : BitVec 3) : Statement (.cas s t a z r c) := by
  intro w h hw
  cases h
  exact ⟨_, raw_cas s t a z r c, rfl, hw⟩
theorem fenceLdld (s : BitVec 3) (t : BitVec 5) (a : BitVec 5) (r : BitVec 2) (c : BitVec 3) : Statement (.fenceLdld s t a r c) := by
  intro w h hw
  cases h
  exact ⟨_, raw_fenceLdld s t a r c, rfl, hw⟩
theorem fenceLdst (s : BitVec 3) (t : BitVec 5) (a : BitVec 5) (r : BitVec 2) (c : BitVec 3) : Statement (.fenceLdst s t a r c) := by
  intro w h hw
  cases h
  exact ⟨_, raw_fenceLdst s t a r c, rfl, hw⟩
theorem fenceStld (s : BitVec 3) (t : BitVec 5) (a : BitVec 5) (r : BitVec 2) (c : BitVec 3) : Statement (.fenceStld s t a r c) := by
  intro w h hw
  cases h
  exact ⟨_, raw_fenceStld s t a r c, rfl, hw⟩
theorem fenceStst (s : BitVec 3) (t : BitVec 5) (a : BitVec 5) (r : BitVec 2) (c : BitVec 3) : Statement (.fenceStst s t a r c) := by
  intro w h hw
  cases h
  exact ⟨_, raw_fenceStst s t a r c, rfl, hw⟩
theorem fenceAll (s : BitVec 3) (t : BitVec 5) (a : BitVec 5) (r : BitVec 2) (c : BitVec 3) : Statement (.fenceAll s t a r c) := by
  intro w h hw
  cases h
  exact ⟨_, raw_fenceAll s t a r c, rfl, hw⟩
theorem bari (s : BitVec 3) (d : BitVec 5) (a : BitVec 5) (b : BitVec 5) : Statement (.bari s d a b) := by
  intro w h hw
  cases h
  exact ⟨_, raw_bari s d a b, rfl, hw⟩
theorem bara (s : BitVec 3) (d : BitVec 5) (a : BitVec 5) (b : BitVec 5) : Statement (.bara s d a b) := by
  intro w h hw
  cases h
  exact ⟨_, raw_bara s d a b, rfl, hw⟩
theorem barw (s : BitVec 3) (d : BitVec 5) (a : BitVec 5) (b : BitVec 5) : Statement (.barw s d a b) := by
  intro w h hw
  cases h
  exact ⟨_, raw_barw s d a b, rfl, hw⟩
theorem waita (s : BitVec 3) (t : BitVec 5) (a : BitVec 5) (z : BitVec 3) (r : BitVec 2) (c : BitVec 3) : Statement (.waita s t a z r c) := by
  intro w h hw
  cases h
  exact ⟨_, raw_waita s t a z r c, rfl, hw⟩
theorem sigdec (s : BitVec 3) (d : BitVec 5) (a : BitVec 5) (b : BitVec 5) : Statement (.sigdec s d a b) := by
  intro w h hw
  cases h
  exact ⟨_, raw_sigdec s d a b, rfl, hw⟩
theorem sigwait (s : BitVec 3) (d : BitVec 5) (a : BitVec 5) (b : BitVec 5) : Statement (.sigwait s d a b) := by
  intro w h hw
  cases h
  exact ⟨_, raw_sigwait s d a b, rfl, hw⟩
theorem msend (s : BitVec 3) (d : BitVec 5) (a : BitVec 5) (b : BitVec 5) : Statement (.msend s d a b) := by
  intro w h hw
  cases h
  exact ⟨_, raw_msend s d a b, rfl, hw⟩
theorem mrecv (s : BitVec 3) (d : BitVec 5) (a : BitVec 5) (b : BitVec 5) : Statement (.mrecv s d a b) := by
  intro w h hw
  cases h
  exact ⟨_, raw_mrecv s d a b, rfl, hw⟩
theorem mpoll (s : BitVec 3) (d : BitVec 5) (a : BitVec 5) (b : BitVec 5) : Statement (.mpoll s d a b) := by
  intro w h hw
  cases h
  exact ⟨_, raw_mpoll s d a b, rfl, hw⟩
theorem pjack (s : BitVec 3) (d : BitVec 5) (a : BitVec 5) (b : BitVec 5) : Statement (.pjack s d a b) := by
  intro w h hw
  cases h
  exact ⟨_, raw_pjack s d a b, rfl, hw⟩
theorem psto (s : BitVec 3) (t : BitVec 5) (a : BitVec 5) (z : BitVec 3) (r : BitVec 2) (c : BitVec 3) : Statement (.psto s t a z r c) := by
  intro w h hw
  cases h
  exact ⟨_, raw_psto s t a z r c, rfl, hw⟩
theorem spawn (s : BitVec 3) (d : BitVec 5) (a : BitVec 5) (b : BitVec 5) : Statement (.spawn s d a b) := by
  intro w h hw
  cases h
  exact ⟨_, raw_spawn s d a b, rfl, hw⟩
theorem reap (s : BitVec 3) (d : BitVec 5) (a : BitVec 5) (b : BitVec 5) : Statement (.reap s d a b) := by
  intro w h hw
  cases h
  exact ⟨_, raw_reap s d a b, rfl, hw⟩
theorem yield (s : BitVec 3) (d : BitVec 5) (a : BitVec 5) (b : BitVec 5) : Statement (.yield s d a b) := by
  intro w h hw
  cases h
  exact ⟨_, raw_yield s d a b, rfl, hw⟩
theorem ypt (s : BitVec 3) (d : BitVec 5) (a : BitVec 5) (b : BitVec 5) : Statement (.ypt s d a b) := by
  intro w h hw
  cases h
  exact ⟨_, raw_ypt s d a b, rfl, hw⟩
theorem fork (s : BitVec 3) (d : BitVec 5) (a : BitVec 5) (b : BitVec 5) : Statement (.fork s d a b) := by
  intro w h hw
  cases h
  exact ⟨_, raw_fork s d a b, rfl, hw⟩
theorem join (s : BitVec 3) (d : BitVec 5) (a : BitVec 5) (b : BitVec 5) : Statement (.join s d a b) := by
  intro w h hw
  cases h
  exact ⟨_, raw_join s d a b, rfl, hw⟩
theorem tend (s : BitVec 3) (d : BitVec 5) (a : BitVec 5) (b : BitVec 5) : Statement (.tend s d a b) := by
  intro w h hw
  cases h
  exact ⟨_, raw_tend s d a b, rfl, hw⟩
theorem tspawn (s : BitVec 3) (d : BitVec 5) (a : BitVec 5) (b : BitVec 5) : Statement (.tspawn s d a b) := by
  intro w h hw
  cases h
  exact ⟨_, raw_tspawn s d a b, rfl, hw⟩
theorem tstamp (s : BitVec 3) (d : BitVec 5) (a : BitVec 5) (b : BitVec 5) : Statement (.tstamp s d a b) := by
  intro w h hw
  cases h
  exact ⟨_, raw_tstamp s d a b, rfl, hw⟩
theorem migr (s : BitVec 3) (d : BitVec 5) (a : BitVec 5) (b : BitVec 5) : Statement (.migr s d a b) := by
  intro w h hw
  cases h
  exact ⟨_, raw_migr s d a b, rfl, hw⟩
theorem homec (s : BitVec 3) (d : BitVec 5) (a : BitVec 5) (b : BitVec 5) : Statement (.homec s d a b) := by
  intro w h hw
  cases h
  exact ⟨_, raw_homec s d a b, rfl, hw⟩
theorem mbput (s : BitVec 3) (d : BitVec 5) (a : BitVec 5) (b : BitVec 5) : Statement (.mbput s d a b) := by
  intro w h hw
  cases h
  exact ⟨_, raw_mbput s d a b, rfl, hw⟩
theorem mbputRel (s : BitVec 3) (d : BitVec 5) (a : BitVec 5) (b : BitVec 5) : Statement (.mbputRel s d a b) := by
  intro w h hw
  cases h
  exact ⟨_, raw_mbputRel s d a b, rfl, hw⟩
theorem mbget (s : BitVec 3) (d : BitVec 5) (a : BitVec 5) (b : BitVec 5) : Statement (.mbget s d a b) := by
  intro w h hw
  cases h
  exact ⟨_, raw_mbget s d a b, rfl, hw⟩
theorem wkdone (s : BitVec 3) (d : BitVec 5) (a : BitVec 5) (b : BitVec 5) : Statement (.wkdone s d a b) := by
  intro w h hw
  cases h
  exact ⟨_, raw_wkdone s d a b, rfl, hw⟩
theorem scld (s : BitVec 3) (d : BitVec 5) (a : BitVec 5) (b : BitVec 5) : Statement (.scld s d a b) := by
  intro w h hw
  cases h
  exact ⟨_, raw_scld s d a b, rfl, hw⟩
theorem vadd (s : BitVec 3) (d : BitVec 5) (a : BitVec 5) (b : BitVec 5) (k : BitVec 3) (h : BitVec 1) (j : BitVec 1) (u : BitVec 2) : Statement (.vadd s d a b k h j u) := by
  intro w h hw
  cases h
  exact ⟨_, raw_vadd s d a b k h j u, rfl, hw⟩
theorem vsub (s : BitVec 3) (d : BitVec 5) (a : BitVec 5) (b : BitVec 5) (k : BitVec 3) (h : BitVec 1) (j : BitVec 1) (u : BitVec 2) : Statement (.vsub s d a b k h j u) := by
  intro w h hw
  cases h
  exact ⟨_, raw_vsub s d a b k h j u, rfl, hw⟩
theorem vmul (s : BitVec 3) (d : BitVec 5) (a : BitVec 5) (b : BitVec 5) (k : BitVec 3) (h : BitVec 1) (j : BitVec 1) (u : BitVec 2) : Statement (.vmul s d a b k h j u) := by
  intro w h hw
  cases h
  exact ⟨_, raw_vmul s d a b k h j u, rfl, hw⟩
theorem vfma (s : BitVec 3) (d : BitVec 5) (a : BitVec 5) (b : BitVec 5) (k : BitVec 3) (h : BitVec 1) (j : BitVec 1) (u : BitVec 2) : Statement (.vfma s d a b k h j u) := by
  intro w h hw
  cases h
  exact ⟨_, raw_vfma s d a b k h j u, rfl, hw⟩
theorem vfmab (s : BitVec 3) (d : BitVec 5) (a : BitVec 5) (b : BitVec 5) (l : BitVec 3) (h : BitVec 1) (j : BitVec 1) (u : BitVec 2) : Statement (.vfmab s d a b l h j u) := by
  intro w h hw
  cases h
  exact ⟨_, raw_vfmab s d a b l h j u, rfl, hw⟩
theorem vmin (s : BitVec 3) (d : BitVec 5) (a : BitVec 5) (b : BitVec 5) (k : BitVec 3) (h : BitVec 1) (j : BitVec 1) (u : BitVec 2) : Statement (.vmin s d a b k h j u) := by
  intro w h hw
  cases h
  exact ⟨_, raw_vmin s d a b k h j u, rfl, hw⟩
theorem vmax (s : BitVec 3) (d : BitVec 5) (a : BitVec 5) (b : BitVec 5) (k : BitVec 3) (h : BitVec 1) (j : BitVec 1) (u : BitVec 2) : Statement (.vmax s d a b k h j u) := by
  intro w h hw
  cases h
  exact ⟨_, raw_vmax s d a b k h j u, rfl, hw⟩
theorem vand (s : BitVec 3) (d : BitVec 5) (a : BitVec 5) (b : BitVec 5) (k : BitVec 3) (h : BitVec 1) (j : BitVec 1) (u : BitVec 2) : Statement (.vand s d a b k h j u) := by
  intro w h hw
  cases h
  exact ⟨_, raw_vand s d a b k h j u, rfl, hw⟩
theorem vor (s : BitVec 3) (d : BitVec 5) (a : BitVec 5) (b : BitVec 5) (k : BitVec 3) (h : BitVec 1) (j : BitVec 1) (u : BitVec 2) : Statement (.vor s d a b k h j u) := by
  intro w h hw
  cases h
  exact ⟨_, raw_vor s d a b k h j u, rfl, hw⟩
theorem vxor (s : BitVec 3) (d : BitVec 5) (a : BitVec 5) (b : BitVec 5) (k : BitVec 3) (h : BitVec 1) (j : BitVec 1) (u : BitVec 2) : Statement (.vxor s d a b k h j u) := by
  intro w h hw
  cases h
  exact ⟨_, raw_vxor s d a b k h j u, rfl, hw⟩
theorem vshl (s : BitVec 3) (d : BitVec 5) (a : BitVec 5) (b : BitVec 5) (k : BitVec 3) (h : BitVec 1) (j : BitVec 1) (u : BitVec 2) : Statement (.vshl s d a b k h j u) := by
  intro w h hw
  cases h
  exact ⟨_, raw_vshl s d a b k h j u, rfl, hw⟩
theorem vshr (s : BitVec 3) (d : BitVec 5) (a : BitVec 5) (b : BitVec 5) (k : BitVec 3) (h : BitVec 1) (j : BitVec 1) (u : BitVec 2) : Statement (.vshr s d a b k h j u) := by
  intro w h hw
  cases h
  exact ⟨_, raw_vshr s d a b k h j u, rfl, hw⟩
theorem vcmpEq (s : BitVec 3) (k : BitVec 3) (a : BitVec 5) (b : BitVec 5) (p : BitVec 3) (h : BitVec 1) (j : BitVec 1) (u : BitVec 2) : Statement (.vcmpEq s k a b p h j u) := by
  intro w h hw
  cases h
  exact ⟨_, raw_vcmpEq s k a b p h j u, rfl, hw⟩
theorem vcmpNe (s : BitVec 3) (k : BitVec 3) (a : BitVec 5) (b : BitVec 5) (p : BitVec 3) (h : BitVec 1) (j : BitVec 1) (u : BitVec 2) : Statement (.vcmpNe s k a b p h j u) := by
  intro w h hw
  cases h
  exact ⟨_, raw_vcmpNe s k a b p h j u, rfl, hw⟩
theorem vcmpLt (s : BitVec 3) (k : BitVec 3) (a : BitVec 5) (b : BitVec 5) (p : BitVec 3) (h : BitVec 1) (j : BitVec 1) (u : BitVec 2) : Statement (.vcmpLt s k a b p h j u) := by
  intro w h hw
  cases h
  exact ⟨_, raw_vcmpLt s k a b p h j u, rfl, hw⟩
theorem vcmpLe (s : BitVec 3) (k : BitVec 3) (a : BitVec 5) (b : BitVec 5) (p : BitVec 3) (h : BitVec 1) (j : BitVec 1) (u : BitVec 2) : Statement (.vcmpLe s k a b p h j u) := by
  intro w h hw
  cases h
  exact ⟨_, raw_vcmpLe s k a b p h j u, rfl, hw⟩
theorem vsel (s : BitVec 3) (d : BitVec 5) (a : BitVec 5) (b : BitVec 5) (k : BitVec 3) (h : BitVec 1) (j : BitVec 1) (u : BitVec 2) : Statement (.vsel s d a b k h j u) := by
  intro w h hw
  cases h
  exact ⟨_, raw_vsel s d a b k h j u, rfl, hw⟩
theorem vabs (s : BitVec 3) (d : BitVec 5) (a : BitVec 5) (k : BitVec 3) (h : BitVec 1) (j : BitVec 1) (u : BitVec 2) : Statement (.vabs s d a k h j u) := by
  intro w h hw
  cases h
  exact ⟨_, raw_vabs s d a k h j u, rfl, hw⟩
theorem vneg (s : BitVec 3) (d : BitVec 5) (a : BitVec 5) (k : BitVec 3) (h : BitVec 1) (j : BitVec 1) (u : BitVec 2) : Statement (.vneg s d a k h j u) := by
  intro w h hw
  cases h
  exact ⟨_, raw_vneg s d a k h j u, rfl, hw⟩
theorem vrcp (s : BitVec 3) (d : BitVec 5) (a : BitVec 5) (k : BitVec 3) (h : BitVec 1) (j : BitVec 1) (u : BitVec 2) : Statement (.vrcp s d a k h j u) := by
  intro w h hw
  cases h
  exact ⟨_, raw_vrcp s d a k h j u, rfl, hw⟩
theorem vrsq (s : BitVec 3) (d : BitVec 5) (a : BitVec 5) (k : BitVec 3) (h : BitVec 1) (j : BitVec 1) (u : BitVec 2) : Statement (.vrsq s d a k h j u) := by
  intro w h hw
  cases h
  exact ⟨_, raw_vrsq s d a k h j u, rfl, hw⟩
theorem vexp2 (s : BitVec 3) (d : BitVec 5) (a : BitVec 5) (k : BitVec 3) (h : BitVec 1) (j : BitVec 1) (u : BitVec 2) : Statement (.vexp2 s d a k h j u) := by
  intro w h hw
  cases h
  exact ⟨_, raw_vexp2 s d a k h j u, rfl, hw⟩
theorem vlog2 (s : BitVec 3) (d : BitVec 5) (a : BitVec 5) (k : BitVec 3) (h : BitVec 1) (j : BitVec 1) (u : BitVec 2) : Statement (.vlog2 s d a k h j u) := by
  intro w h hw
  cases h
  exact ⟨_, raw_vlog2 s d a k h j u, rfl, hw⟩
theorem vcvtF2s (s : BitVec 3) (d : BitVec 5) (a : BitVec 5) (k : BitVec 3) (h : BitVec 1) (j : BitVec 1) (u : BitVec 2) : Statement (.vcvtF2s s d a k h j u) := by
  intro w h hw
  cases h
  exact ⟨_, raw_vcvtF2s s d a k h j u, rfl, hw⟩
theorem vcvtF2n (s : BitVec 3) (d : BitVec 5) (a : BitVec 5) (k : BitVec 3) (h : BitVec 1) (j : BitVec 1) (u : BitVec 2) : Statement (.vcvtF2n s d a k h j u) := by
  intro w h hw
  cases h
  exact ⟨_, raw_vcvtF2n s d a k h j u, rfl, hw⟩
theorem vcvtS2f (s : BitVec 3) (d : BitVec 5) (a : BitVec 5) (k : BitVec 3) (h : BitVec 1) (j : BitVec 1) (u : BitVec 2) : Statement (.vcvtS2f s d a k h j u) := by
  intro w h hw
  cases h
  exact ⟨_, raw_vcvtS2f s d a k h j u, rfl, hw⟩
theorem vcvtN2f (s : BitVec 3) (d : BitVec 5) (a : BitVec 5) (k : BitVec 3) (h : BitVec 1) (j : BitVec 1) (u : BitVec 2) : Statement (.vcvtN2f s d a k h j u) := by
  intro w h hw
  cases h
  exact ⟨_, raw_vcvtN2f s d a k h j u, rfl, hw⟩
theorem vcvtF2b (s : BitVec 3) (d : BitVec 5) (a : BitVec 5) (w : BitVec 1) (k : BitVec 3) (h : BitVec 1) (j : BitVec 1) (u : BitVec 2) : Statement (.vcvtF2b s d a w k h j u) := by
  intro w h hw
  cases h
  exact ⟨_, raw_vcvtF2b s d a w k h j u, rfl, hw⟩
theorem vcvtF2h (s : BitVec 3) (d : BitVec 5) (a : BitVec 5) (w : BitVec 1) (k : BitVec 3) (h : BitVec 1) (j : BitVec 1) (u : BitVec 2) : Statement (.vcvtF2h s d a w k h j u) := by
  intro w h hw
  cases h
  exact ⟨_, raw_vcvtF2h s d a w k h j u, rfl, hw⟩
theorem vcvtB2f (s : BitVec 3) (d : BitVec 5) (a : BitVec 5) (w : BitVec 1) (k : BitVec 3) (h : BitVec 1) (j : BitVec 1) (u : BitVec 2) : Statement (.vcvtB2f s d a w k h j u) := by
  intro w h hw
  cases h
  exact ⟨_, raw_vcvtB2f s d a w k h j u, rfl, hw⟩
theorem vcvtH2f (s : BitVec 3) (d : BitVec 5) (a : BitVec 5) (w : BitVec 1) (k : BitVec 3) (h : BitVec 1) (j : BitVec 1) (u : BitVec 2) : Statement (.vcvtH2f s d a w k h j u) := by
  intro w h hw
  cases h
  exact ⟨_, raw_vcvtH2f s d a w k h j u, rfl, hw⟩
theorem vcvtF2e4 (s : BitVec 3) (d : BitVec 5) (a : BitVec 5) (y : BitVec 2) (k : BitVec 3) (h : BitVec 1) (j : BitVec 1) (u : BitVec 2) : Statement (.vcvtF2e4 s d a y k h j u) := by
  intro w h hw
  cases h
  exact ⟨_, raw_vcvtF2e4 s d a y k h j u, rfl, hw⟩
theorem vcvtF2e5 (s : BitVec 3) (d : BitVec 5) (a : BitVec 5) (y : BitVec 2) (k : BitVec 3) (h : BitVec 1) (j : BitVec 1) (u : BitVec 2) : Statement (.vcvtF2e5 s d a y k h j u) := by
  intro w h hw
  cases h
  exact ⟨_, raw_vcvtF2e5 s d a y k h j u, rfl, hw⟩
theorem vcvtE4f (s : BitVec 3) (d : BitVec 5) (a : BitVec 5) (y : BitVec 2) (k : BitVec 3) (h : BitVec 1) (j : BitVec 1) (u : BitVec 2) : Statement (.vcvtE4f s d a y k h j u) := by
  intro w h hw
  cases h
  exact ⟨_, raw_vcvtE4f s d a y k h j u, rfl, hw⟩
theorem vcvtE5f (s : BitVec 3) (d : BitVec 5) (a : BitVec 5) (y : BitVec 2) (k : BitVec 3) (h : BitVec 1) (j : BitVec 1) (u : BitVec 2) : Statement (.vcvtE5f s d a y k h j u) := by
  intro w h hw
  cases h
  exact ⟨_, raw_vcvtE5f s d a y k h j u, rfl, hw⟩
theorem vredSum (s : BitVec 3) (d : BitVec 5) (a : BitVec 5) (x : BitVec 1) (k : BitVec 3) (h : BitVec 1) (j : BitVec 1) (u : BitVec 2) : Statement (.vredSum s d a x k h j u) := by
  intro w h hw
  cases h
  exact ⟨_, raw_vredSum s d a x k h j u, rfl, hw⟩
theorem vredMin (s : BitVec 3) (d : BitVec 5) (a : BitVec 5) (x : BitVec 1) (k : BitVec 3) (h : BitVec 1) (j : BitVec 1) (u : BitVec 2) : Statement (.vredMin s d a x k h j u) := by
  intro w h hw
  cases h
  exact ⟨_, raw_vredMin s d a x k h j u, rfl, hw⟩
theorem vredMax (s : BitVec 3) (d : BitVec 5) (a : BitVec 5) (x : BitVec 1) (k : BitVec 3) (h : BitVec 1) (j : BitVec 1) (u : BitVec 2) : Statement (.vredMax s d a x k h j u) := by
  intro w h hw
  cases h
  exact ⟨_, raw_vredMax s d a x k h j u, rfl, hw⟩
theorem vredAnd (s : BitVec 3) (d : BitVec 5) (a : BitVec 5) (x : BitVec 1) (k : BitVec 3) (h : BitVec 1) (j : BitVec 1) (u : BitVec 2) : Statement (.vredAnd s d a x k h j u) := by
  intro w h hw
  cases h
  exact ⟨_, raw_vredAnd s d a x k h j u, rfl, hw⟩
theorem vredOr (s : BitVec 3) (d : BitVec 5) (a : BitVec 5) (x : BitVec 1) (k : BitVec 3) (h : BitVec 1) (j : BitVec 1) (u : BitVec 2) : Statement (.vredOr s d a x k h j u) := by
  intro w h hw
  cases h
  exact ⟨_, raw_vredOr s d a x k h j u, rfl, hw⟩
theorem vredXor (s : BitVec 3) (d : BitVec 5) (a : BitVec 5) (x : BitVec 1) (k : BitVec 3) (h : BitVec 1) (j : BitVec 1) (u : BitVec 2) : Statement (.vredXor s d a x k h j u) := by
  intro w h hw
  cases h
  exact ⟨_, raw_vredXor s d a x k h j u, rfl, hw⟩
theorem vscanSum (s : BitVec 3) (d : BitVec 5) (a : BitVec 5) (x : BitVec 1) (k : BitVec 3) (h : BitVec 1) (j : BitVec 1) (u : BitVec 2) : Statement (.vscanSum s d a x k h j u) := by
  intro w h hw
  cases h
  exact ⟨_, raw_vscanSum s d a x k h j u, rfl, hw⟩
theorem vscanMin (s : BitVec 3) (d : BitVec 5) (a : BitVec 5) (x : BitVec 1) (k : BitVec 3) (h : BitVec 1) (j : BitVec 1) (u : BitVec 2) : Statement (.vscanMin s d a x k h j u) := by
  intro w h hw
  cases h
  exact ⟨_, raw_vscanMin s d a x k h j u, rfl, hw⟩
theorem vscanMax (s : BitVec 3) (d : BitVec 5) (a : BitVec 5) (x : BitVec 1) (k : BitVec 3) (h : BitVec 1) (j : BitVec 1) (u : BitVec 2) : Statement (.vscanMax s d a x k h j u) := by
  intro w h hw
  cases h
  exact ⟨_, raw_vscanMax s d a x k h j u, rfl, hw⟩
theorem vscanAnd (s : BitVec 3) (d : BitVec 5) (a : BitVec 5) (x : BitVec 1) (k : BitVec 3) (h : BitVec 1) (j : BitVec 1) (u : BitVec 2) : Statement (.vscanAnd s d a x k h j u) := by
  intro w h hw
  cases h
  exact ⟨_, raw_vscanAnd s d a x k h j u, rfl, hw⟩
theorem vscanOr (s : BitVec 3) (d : BitVec 5) (a : BitVec 5) (x : BitVec 1) (k : BitVec 3) (h : BitVec 1) (j : BitVec 1) (u : BitVec 2) : Statement (.vscanOr s d a x k h j u) := by
  intro w h hw
  cases h
  exact ⟨_, raw_vscanOr s d a x k h j u, rfl, hw⟩
theorem vscanXor (s : BitVec 3) (d : BitVec 5) (a : BitVec 5) (x : BitVec 1) (k : BitVec 3) (h : BitVec 1) (j : BitVec 1) (u : BitVec 2) : Statement (.vscanXor s d a x k h j u) := by
  intro w h hw
  cases h
  exact ⟨_, raw_vscanXor s d a x k h j u, rfl, hw⟩
theorem kand (s : BitVec 3) (d : BitVec 5) (a : BitVec 5) (b : BitVec 5) : Statement (.kand s d a b) := by
  intro w h hw
  cases h
  exact ⟨_, raw_kand s d a b, rfl, hw⟩
theorem kor (s : BitVec 3) (d : BitVec 5) (a : BitVec 5) (b : BitVec 5) : Statement (.kor s d a b) := by
  intro w h hw
  cases h
  exact ⟨_, raw_kor s d a b, rfl, hw⟩
theorem kxor (s : BitVec 3) (d : BitVec 5) (a : BitVec 5) (b : BitVec 5) : Statement (.kxor s d a b) := by
  intro w h hw
  cases h
  exact ⟨_, raw_kxor s d a b, rfl, hw⟩
theorem knot (s : BitVec 3) (d : BitVec 5) (a : BitVec 5) (b : BitVec 5) : Statement (.knot s d a b) := by
  intro w h hw
  cases h
  exact ⟨_, raw_knot s d a b, rfl, hw⟩
theorem kmovK (s : BitVec 3) (d : BitVec 5) (a : BitVec 5) (x : BitVec 3) : Statement (.kmovK s d a x) := by
  intro w h hw
  cases h
  exact ⟨_, raw_kmovK s d a x, rfl, hw⟩
theorem kmovFromG (s : BitVec 3) (d : BitVec 5) (a : BitVec 5) (x : BitVec 3) : Statement (.kmovFromG s d a x) := by
  intro w h hw
  cases h
  exact ⟨_, raw_kmovFromG s d a x, rfl, hw⟩
theorem kmovToG (s : BitVec 3) (d : BitVec 5) (a : BitVec 5) (x : BitVec 3) : Statement (.kmovToG s d a x) := by
  intro w h hw
  cases h
  exact ⟨_, raw_kmovToG s d a x, rfl, hw⟩
theorem kpack (s : BitVec 3) (d : BitVec 5) (a : BitVec 5) (b : BitVec 5) : Statement (.kpack s d a b) := by
  intro w h hw
  cases h
  exact ⟨_, raw_kpack s d a b, rfl, hw⟩
theorem kunpk (s : BitVec 3) (d : BitVec 5) (a : BitVec 5) (b : BitVec 5) : Statement (.kunpk s d a b) := by
  intro w h hw
  cases h
  exact ⟨_, raw_kunpk s d a b, rfl, hw⟩
theorem kpopc (s : BitVec 3) (d : BitVec 5) (a : BitVec 5) (b : BitVec 5) : Statement (.kpopc s d a b) := by
  intro w h hw
  cases h
  exact ⟨_, raw_kpopc s d a b, rfl, hw⟩
theorem vperm (s : BitVec 3) (d : BitVec 5) (a : BitVec 5) (b : BitVec 5) (k : BitVec 3) (h : BitVec 1) (j : BitVec 1) (u : BitVec 2) : Statement (.vperm s d a b k h j u) := by
  intro w h hw
  cases h
  exact ⟨_, raw_vperm s d a b k h j u, rfl, hw⟩
theorem vrot (s : BitVec 3) (d : BitVec 5) (a : BitVec 5) (x : BitVec 1) (n : BitVec 4) (k : BitVec 3) (h : BitVec 1) (j : BitVec 1) (u : BitVec 2) : Statement (.vrot s d a x n k h j u) := by
  intro w h hw
  cases h
  exact ⟨_, raw_vrot s d a x n k h j u, rfl, hw⟩
theorem vqnt (s : BitVec 3) (d : BitVec 5) (a : BitVec 5) (b : BitVec 5) (k : BitVec 3) (h : BitVec 1) (j : BitVec 1) : Statement (.vqnt s d a b k h j) := by
  intro w h hw
  cases h
  exact ⟨_, raw_vqnt s d a b k h j, rfl, hw⟩
theorem vdq (s : BitVec 3) (d : BitVec 5) (a : BitVec 5) (b : BitVec 5) (k : BitVec 3) (h : BitVec 1) (j : BitVec 1) : Statement (.vdq s d a b k h j) := by
  intro w h hw
  cases h
  exact ⟨_, raw_vdq s d a b k h j, rfl, hw⟩
theorem vlane (s : BitVec 3) (d : BitVec 5) (a : BitVec 5) (x : BitVec 1) (l : BitVec 4) (k : BitVec 3) (h : BitVec 1) (j : BitVec 1) : Statement (.vlane s d a x l k h j) := by
  intro w h hw
  cases h
  exact ⟨_, raw_vlane s d a x l k h j, rfl, hw⟩
theorem vins (s : BitVec 3) (d : BitVec 5) (a : BitVec 5) (x : BitVec 1) (l : BitVec 4) (k : BitVec 3) (h : BitVec 1) (j : BitVec 1) : Statement (.vins s d a x l k h j) := by
  intro w h hw
  cases h
  exact ⟨_, raw_vins s d a x l k h j, rfl, hw⟩
theorem vld (s : BitVec 3) (d : BitVec 5) (a : BitVec 5) (b : BitVec 5) (k : BitVec 3) (h : BitVec 1) (j : BitVec 1) : Statement (.vld s d a b k h j) := by
  intro w h hw
  cases h
  exact ⟨_, raw_vld s d a b k h j, rfl, hw⟩
theorem vst (s : BitVec 3) (d : BitVec 5) (a : BitVec 5) (b : BitVec 5) (k : BitVec 3) (h : BitVec 1) (j : BitVec 1) : Statement (.vst s d a b k h j) := by
  intro w h hw
  cases h
  exact ⟨_, raw_vst s d a b k h j, rfl, hw⟩
theorem vlds (s : BitVec 3) (d : BitVec 5) (a : BitVec 5) (b : BitVec 5) (k : BitVec 3) (h : BitVec 1) (j : BitVec 1) : Statement (.vlds s d a b k h j) := by
  intro w h hw
  cases h
  exact ⟨_, raw_vlds s d a b k h j, rfl, hw⟩
theorem vsts (s : BitVec 3) (d : BitVec 5) (a : BitVec 5) (b : BitVec 5) (k : BitVec 3) (h : BitVec 1) (j : BitVec 1) : Statement (.vsts s d a b k h j) := by
  intro w h hw
  cases h
  exact ⟨_, raw_vsts s d a b k h j, rfl, hw⟩
theorem vgth (s : BitVec 3) (d : BitVec 5) (a : BitVec 5) (b : BitVec 5) (k : BitVec 3) (h : BitVec 1) (j : BitVec 1) : Statement (.vgth s d a b k h j) := by
  intro w h hw
  cases h
  exact ⟨_, raw_vgth s d a b k h j, rfl, hw⟩
theorem vsct (s : BitVec 3) (d : BitVec 5) (a : BitVec 5) (b : BitVec 5) (k : BitVec 3) (h : BitVec 1) (j : BitVec 1) : Statement (.vsct s d a b k h j) := by
  intro w h hw
  cases h
  exact ⟨_, raw_vsct s d a b k h j, rfl, hw⟩
theorem vbcst (s : BitVec 3) (d : BitVec 5) (a : BitVec 5) (b : BitVec 5) (k : BitVec 3) (h : BitVec 1) (j : BitVec 1) : Statement (.vbcst s d a b k h j) := by
  intro w h hw
  cases h
  exact ⟨_, raw_vbcst s d a b k h j, rfl, hw⟩
theorem qpush (s : BitVec 3) (d : BitVec 5) (q : BitVec 3) (e : BitVec 14) : Statement (.qpush s d q e) := by
  intro w h hw
  cases h
  exact ⟨_, raw_qpush s d q e, rfl, hw⟩
theorem qpop (s : BitVec 3) (d : BitVec 5) (q : BitVec 3) (e : BitVec 14) : Statement (.qpop s d q e) := by
  intro w h hw
  cases h
  exact ⟨_, raw_qpop s d q e, rfl, hw⟩
theorem tlda (s : BitVec 3) (d : BitVec 5) (q : BitVec 3) (b : BitVec 6) (h : BitVec 1) (n : BitVec 1) (r : BitVec 2) : Statement (.tlda s d q b h n r) := by
  intro w h hw
  cases h
  exact ⟨_, raw_tlda s d q b h n r, rfl, hw⟩
theorem tldb (s : BitVec 3) (d : BitVec 5) (q : BitVec 3) (b : BitVec 6) (h : BitVec 1) (n : BitVec 1) (r : BitVec 2) : Statement (.tldb s d q b h n r) := by
  intro w h hw
  cases h
  exact ⟨_, raw_tldb s d q b h n r, rfl, hw⟩
theorem tgtha (s : BitVec 3) (d : BitVec 5) (q : BitVec 3) (b : BitVec 6) (h : BitVec 1) (n : BitVec 1) (r : BitVec 2) : Statement (.tgtha s d q b h n r) := by
  intro w h hw
  cases h
  exact ⟨_, raw_tgtha s d q b h n r, rfl, hw⟩
theorem tmma (s : BitVec 3) (d : BitVec 5) (q : BitVec 3) (b : BitVec 6) (h : BitVec 1) (n : BitVec 1) (r : BitVec 2) : Statement (.tmma s d q b h n r) := by
  intro w h hw
  cases h
  exact ⟨_, raw_tmma s d q b h n r, rfl, hw⟩
theorem tspm (s : BitVec 3) (d : BitVec 5) (q : BitVec 3) (b : BitVec 6) (h : BitVec 1) (n : BitVec 1) (r : BitVec 2) : Statement (.tspm s d q b h n r) := by
  intro w h hw
  cases h
  exact ⟨_, raw_tspm s d q b h n r, rfl, hw⟩
theorem tzero (s : BitVec 3) (d : BitVec 5) (q : BitVec 3) (b : BitVec 6) (h : BitVec 1) (n : BitVec 1) (r : BitVec 2) : Statement (.tzero s d q b h n r) := by
  intro w h hw
  cases h
  exact ⟨_, raw_tzero s d q b h n r, rfl, hw⟩
theorem tldc (s : BitVec 3) (d : BitVec 5) (q : BitVec 3) (b : BitVec 6) (h : BitVec 1) (n : BitVec 1) (r : BitVec 2) : Statement (.tldc s d q b h n r) := by
  intro w h hw
  cases h
  exact ⟨_, raw_tldc s d q b h n r, rfl, hw⟩
theorem tstc (s : BitVec 3) (d : BitVec 5) (q : BitVec 3) (b : BitVec 6) (h : BitVec 1) (n : BitVec 1) (r : BitVec 2) : Statement (.tstc s d q b h n r) := by
  intro w h hw
  cases h
  exact ⟨_, raw_tstc s d q b h n r, rfl, hw⟩
theorem abal (s : BitVec 3) (d : BitVec 5) (q : BitVec 3) (f : BitVec 6) (c : BitVec 6) : Statement (.abal s d q f c) := by
  intro w h hw
  cases h
  exact ⟨_, raw_abal s d q f c, rfl, hw⟩
theorem abfr (s : BitVec 3) (d : BitVec 5) (q : BitVec 3) (f : BitVec 6) (c : BitVec 6) : Statement (.abfr s d q f c) := by
  intro w h hw
  cases h
  exact ⟨_, raw_abfr s d q f c, rfl, hw⟩
theorem lset (s : BitVec 3) (d : BitVec 5) (q : BitVec 3) (e : BitVec 14) : Statement (.lset s d q e) := by
  intro w h hw
  cases h
  exact ⟨_, raw_lset s d q e, rfl, hw⟩
theorem tgeoOrg (s : BitVec 3) (d : BitVec 5) (q : BitVec 3) (e : BitVec 13) : Statement (.tgeoOrg s d q e) := by
  intro w h hw
  cases h
  exact ⟨_, raw_tgeoOrg s d q e, rfl, hw⟩
theorem tgeoMask (s : BitVec 3) (d : BitVec 5) (q : BitVec 3) (e : BitVec 13) : Statement (.tgeoMask s d q e) := by
  intro w h hw
  cases h
  exact ⟨_, raw_tgeoMask s d q e, rfl, hw⟩
theorem ttask (s : BitVec 3) (d : BitVec 5) (q : BitVec 3) (e : BitVec 14) : Statement (.ttask s d q e) := by
  intro w h hw
  cases h
  exact ⟨_, raw_ttask s d q e, rfl, hw⟩
theorem tgrp (s : BitVec 3) (d : BitVec 5) (q : BitVec 3) (e : BitVec 14) : Statement (.tgrp s d q e) := by
  intro w h hw
  cases h
  exact ⟨_, raw_tgrp s d q e, rfl, hw⟩
theorem cpy (s : BitVec 3) (d : BitVec 5) (a : BitVec 5) (b : BitVec 5) : Statement (.cpy s d a b) := by
  intro w h hw
  cases h
  exact ⟨_, raw_cpy s d a b, rfl, hw⟩
theorem cpyNb (s : BitVec 3) (d : BitVec 5) (a : BitVec 5) (b : BitVec 5) : Statement (.cpyNb s d a b) := by
  intro w h hw
  cases h
  exact ⟨_, raw_cpyNb s d a b, rfl, hw⟩
theorem cpyc (s : BitVec 3) (d : BitVec 5) (a : BitVec 5) (b : BitVec 5) : Statement (.cpyc s d a b) := by
  intro w h hw
  cases h
  exact ⟨_, raw_cpyc s d a b, rfl, hw⟩
theorem cpycNb (s : BitVec 3) (d : BitVec 5) (a : BitVec 5) (b : BitVec 5) : Statement (.cpycNb s d a b) := by
  intro w h hw
  cases h
  exact ⟨_, raw_cpycNb s d a b, rfl, hw⟩
theorem cpyst (s : BitVec 3) (d : BitVec 5) (a : BitVec 5) (b : BitVec 5) : Statement (.cpyst s d a b) := by
  intro w h hw
  cases h
  exact ⟨_, raw_cpyst s d a b, rfl, hw⟩
theorem hwait (s : BitVec 3) (d : BitVec 5) (a : BitVec 5) (x : BitVec 3) (m : BitVec 2) : Statement (.hwait s d a x m) := by
  intro w h hw
  cases h
  exact ⟨_, raw_hwait s d a x m, rfl, hw⟩
theorem hacq (s : BitVec 3) (d : BitVec 5) (a : BitVec 5) (b : BitVec 5) : Statement (.hacq s d a b) := by
  intro w h hw
  cases h
  exact ⟨_, raw_hacq s d a b, rfl, hw⟩
theorem hrel (s : BitVec 3) (d : BitVec 5) (a : BitVec 5) (b : BitVec 5) : Statement (.hrel s d a b) := by
  intro w h hw
  cases h
  exact ⟨_, raw_hrel s d a b, rfl, hw⟩
theorem hstat (s : BitVec 3) (d : BitVec 5) (a : BitVec 5) (b : BitVec 5) : Statement (.hstat s d a b) := by
  intro w h hw
  cases h
  exact ⟨_, raw_hstat s d a b, rfl, hw⟩
theorem aopAdd (s : BitVec 3) (t : BitVec 5) (a : BitVec 5) (z : BitVec 3) (r : BitVec 2) (c : BitVec 3) : Statement (.aopAdd s t a z r c) := by
  intro w h hw
  cases h
  exact ⟨_, raw_aopAdd s t a z r c, rfl, hw⟩
theorem aopAnd (s : BitVec 3) (t : BitVec 5) (a : BitVec 5) (z : BitVec 3) (r : BitVec 2) (c : BitVec 3) : Statement (.aopAnd s t a z r c) := by
  intro w h hw
  cases h
  exact ⟨_, raw_aopAnd s t a z r c, rfl, hw⟩
theorem aopOr (s : BitVec 3) (t : BitVec 5) (a : BitVec 5) (z : BitVec 3) (r : BitVec 2) (c : BitVec 3) : Statement (.aopOr s t a z r c) := by
  intro w h hw
  cases h
  exact ⟨_, raw_aopOr s t a z r c, rfl, hw⟩
theorem aopXor (s : BitVec 3) (t : BitVec 5) (a : BitVec 5) (z : BitVec 3) (r : BitVec 2) (c : BitVec 3) : Statement (.aopXor s t a z r c) := by
  intro w h hw
  cases h
  exact ⟨_, raw_aopXor s t a z r c, rfl, hw⟩
theorem aopMin (s : BitVec 3) (t : BitVec 5) (a : BitVec 5) (z : BitVec 3) (r : BitVec 2) (c : BitVec 3) : Statement (.aopMin s t a z r c) := by
  intro w h hw
  cases h
  exact ⟨_, raw_aopMin s t a z r c, rfl, hw⟩
theorem aopMax (s : BitVec 3) (t : BitVec 5) (a : BitVec 5) (z : BitVec 3) (r : BitVec 2) (c : BitVec 3) : Statement (.aopMax s t a z r c) := by
  intro w h hw
  cases h
  exact ⟨_, raw_aopMax s t a z r c, rfl, hw⟩
theorem aopMinn (s : BitVec 3) (t : BitVec 5) (a : BitVec 5) (z : BitVec 3) (r : BitVec 2) (c : BitVec 3) : Statement (.aopMinn s t a z r c) := by
  intro w h hw
  cases h
  exact ⟨_, raw_aopMinn s t a z r c, rfl, hw⟩
theorem aopMaxn (s : BitVec 3) (t : BitVec 5) (a : BitVec 5) (z : BitVec 3) (r : BitVec 2) (c : BitVec 3) : Statement (.aopMaxn s t a z r c) := by
  intro w h hw
  cases h
  exact ⟨_, raw_aopMaxn s t a z r c, rfl, hw⟩
theorem aopSwap (s : BitVec 3) (t : BitVec 5) (a : BitVec 5) (z : BitVec 3) (r : BitVec 2) (c : BitVec 3) : Statement (.aopSwap s t a z r c) := by
  intro w h hw
  cases h
  exact ⟨_, raw_aopSwap s t a z r c, rfl, hw⟩
theorem aopFadd (s : BitVec 3) (t : BitVec 5) (a : BitVec 5) (z : BitVec 3) (r : BitVec 2) (c : BitVec 3) : Statement (.aopFadd s t a z r c) := by
  intro w h hw
  cases h
  exact ⟨_, raw_aopFadd s t a z r c, rfl, hw⟩
theorem aopFaddBf16 (s : BitVec 3) (t : BitVec 5) (a : BitVec 5) (z : BitVec 3) (r : BitVec 2) (c : BitVec 3) : Statement (.aopFaddBf16 s t a z r c) := by
  intro w h hw
  cases h
  exact ⟨_, raw_aopFaddBf16 s t a z r c, rfl, hw⟩
theorem ared (s : BitVec 3) (d : BitVec 5) (a : BitVec 5) (b : BitVec 5) : Statement (.ared s d a b) := by
  intro w h hw
  cases h
  exact ⟨_, raw_ared s d a b, rfl, hw⟩
theorem axpy (s : BitVec 3) (d : BitVec 5) (a : BitVec 5) (b : BitVec 5) : Statement (.axpy s d a b) := by
  intro w h hw
  cases h
  exact ⟨_, raw_axpy s d a b, rfl, hw⟩
theorem afill (s : BitVec 3) (d : BitVec 5) (a : BitVec 5) (b : BitVec 5) : Statement (.afill s d a b) := by
  intro w h hw
  cases h
  exact ⟨_, raw_afill s d a b, rfl, hw⟩
theorem collAr (s : BitVec 3) (d : BitVec 5) (a : BitVec 5) (b : BitVec 5) : Statement (.collAr s d a b) := by
  intro w h hw
  cases h
  exact ⟨_, raw_collAr s d a b, rfl, hw⟩
theorem collAg (s : BitVec 3) (d : BitVec 5) (a : BitVec 5) (b : BitVec 5) : Statement (.collAg s d a b) := by
  intro w h hw
  cases h
  exact ⟨_, raw_collAg s d a b, rfl, hw⟩
theorem collRs (s : BitVec 3) (d : BitVec 5) (a : BitVec 5) (b : BitVec 5) : Statement (.collRs s d a b) := by
  intro w h hw
  cases h
  exact ⟨_, raw_collRs s d a b, rfl, hw⟩
theorem cnear (s : BitVec 3) (d : BitVec 5) (a : BitVec 5) (b : BitVec 5) : Statement (.cnear s d a b) := by
  intro w h hw
  cases h
  exact ⟨_, raw_cnear s d a b, rfl, hw⟩
theorem cnearLocal (s : BitVec 3) (d : BitVec 5) (a : BitVec 5) (b : BitVec 5) : Statement (.cnearLocal s d a b) := by
  intro w h hw
  cases h
  exact ⟨_, raw_cnearLocal s d a b, rfl, hw⟩
theorem cstv (s : BitVec 3) (d : BitVec 5) (a : BitVec 5) (b : BitVec 5) : Statement (.cstv s d a b) := by
  intro w h hw
  cases h
  exact ⟨_, raw_cstv s d a b, rfl, hw⟩
theorem cdel (s : BitVec 3) (d : BitVec 5) (a : BitVec 5) (b : BitVec 5) : Statement (.cdel s d a b) := by
  intro w h hw
  cases h
  exact ⟨_, raw_cdel s d a b, rfl, hw⟩
theorem cver (s : BitVec 3) (d : BitVec 5) (a : BitVec 5) (b : BitVec 5) : Statement (.cver s d a b) := by
  intro w h hw
  cases h
  exact ⟨_, raw_cver s d a b, rfl, hw⟩
theorem catnew (s : BitVec 3) (d : BitVec 5) (a : BitVec 5) (b : BitVec 5) : Statement (.catnew s d a b) := by
  intro w h hw
  cases h
  exact ⟨_, raw_catnew s d a b, rfl, hw⟩
theorem catdel (s : BitVec 3) (d : BitVec 5) (a : BitVec 5) (b : BitVec 5) : Statement (.catdel s d a b) := by
  intro w h hw
  cases h
  exact ⟨_, raw_catdel s d a b, rfl, hw⟩
theorem rcall (s : BitVec 3) (d : BitVec 5) (a : BitVec 5) (b : BitVec 5) : Statement (.rcall s d a b) := by
  intro w h hw
  cases h
  exact ⟨_, raw_rcall s d a b, rfl, hw⟩
theorem rcallNb (s : BitVec 3) (d : BitVec 5) (a : BitVec 5) (b : BitVec 5) : Statement (.rcallNb s d a b) := by
  intro w h hw
  cases h
  exact ⟨_, raw_rcallNb s d a b, rfl, hw⟩
theorem rread (s : BitVec 3) (d : BitVec 5) (a : BitVec 5) (b : BitVec 5) : Statement (.rread s d a b) := by
  intro w h hw
  cases h
  exact ⟨_, raw_rread s d a b, rfl, hw⟩
theorem rreadLocal (s : BitVec 3) (d : BitVec 5) (a : BitVec 5) (b : BitVec 5) : Statement (.rreadLocal s d a b) := by
  intro w h hw
  cases h
  exact ⟨_, raw_rreadLocal s d a b, rfl, hw⟩
theorem rwait (s : BitVec 3) (d : BitVec 5) (a : BitVec 5) (b : BitVec 5) : Statement (.rwait s d a b) := by
  intro w h hw
  cases h
  exact ⟨_, raw_rwait s d a b, rfl, hw⟩
theorem objnew (s : BitVec 3) (d : BitVec 5) (a : BitVec 5) (b : BitVec 5) : Statement (.objnew s d a b) := by
  intro w h hw
  cases h
  exact ⟨_, raw_objnew s d a b, rfl, hw⟩
theorem objdel (s : BitVec 3) (d : BitVec 5) (a : BitVec 5) (b : BitVec 5) : Statement (.objdel s d a b) := by
  intro w h hw
  cases h
  exact ⟨_, raw_objdel s d a b, rfl, hw⟩
theorem himm (p : BitVec 25) : Statement (.himm p) := by
  intro w h hw
  cases h
  exact ⟨_, raw_himm p, rfl, hw⟩
theorem hsch (x : BitVec 16) (n : BitVec 8) : Statement (.hsch x n) := by
  intro w h hw
  cases h
  exact ⟨_, raw_hsch x n, rfl, hw⟩
theorem hschIdle (x : BitVec 20) (u : BitVec 4) : Statement (.hschIdle x u) := by
  intro w h hw
  cases h
  exact ⟨_, raw_hschIdle x u, rfl, hw⟩
theorem hmod (p : BitVec 3) (r : BitVec 3) (t : BitVec 2) (c : BitVec 2) (o : BitVec 3) (s : BitVec 4) (x : BitVec 8) : Statement (.hmod p r t c o s x) := by
  intro w h hw
  cases h
  exact ⟨_, raw_hmod p r t c o s x, rfl, hw⟩
theorem egrs (s : BitVec 3) (d : BitVec 5) (a : BitVec 5) (b : BitVec 5) : Statement (.egrs s d a b) := by
  intro w h hw
  cases h
  exact ⟨_, raw_egrs s d a b, rfl, rfl⟩
theorem egfin (s : BitVec 3) (d : BitVec 5) (a : BitVec 5) (b : BitVec 5) : Statement (.egfin s d a b) := by
  intro w h hw
  cases h
  exact ⟨_, raw_egfin s d a b, rfl, rfl⟩
theorem ctxnew (s : BitVec 3) (d : BitVec 5) (a : BitVec 5) (b : BitVec 5) : Statement (.ctxnew s d a b) := by
  intro w h hw
  cases h
  exact ⟨_, raw_ctxnew s d a b, rfl, rfl⟩
theorem ctxgrant (s : BitVec 3) (d : BitVec 5) (a : BitVec 5) (b : BitVec 5) : Statement (.ctxgrant s d a b) := by
  intro w h hw
  cases h
  exact ⟨_, raw_ctxgrant s d a b, rfl, rfl⟩
theorem ctxrevoke (s : BitVec 3) (d : BitVec 5) (a : BitVec 5) (b : BitVec 5) : Statement (.ctxrevoke s d a b) := by
  intro w h hw
  cases h
  exact ⟨_, raw_ctxrevoke s d a b, rfl, rfl⟩
theorem ctxstat (s : BitVec 3) (d : BitVec 5) (a : BitVec 5) (b : BitVec 5) : Statement (.ctxstat s d a b) := by
  intro w h hw
  cases h
  exact ⟨_, raw_ctxstat s d a b, rfl, rfl⟩
theorem resume (s : BitVec 3) (d : BitVec 5) (a : BitVec 5) (b : BitVec 5) : Statement (.resume s d a b) := by
  intro w h hw
  cases h
  exact ⟨_, raw_resume s d a b, rfl, rfl⟩
theorem lnch (s : BitVec 3) (d : BitVec 5) (a : BitVec 5) (b : BitVec 5) : Statement (.lnch s d a b) := by
  intro w h hw
  cases h
  exact ⟨_, raw_lnch s d a b, rfl, rfl⟩
theorem hnop (x : BitVec 25) : Statement (.hnop x) := by
  intro w h hw
  cases h
  exact ⟨_, raw_hnop x, rfl, rfl⟩
theorem reservedHint (maj : BitVec 7) (p : BitVec 25) : Statement (.reservedHint maj p) := by
  intro w h hw
  obtain rfl : maj ++ p = w := by simpa [encode] using h
  exact ⟨_, raw_reservedHint maj p (by simpa [Instr.wellFormed] using hw), rfl, rfl⟩
theorem illegalInstr (w : BitVec 32) : Statement (.illegalInstr w) := by
  intro w h; exact absurd h (by simp [encode])
theorem asynchronousTrap (c : Nat) (t : Nat) : Statement (.asynchronousTrap c t) := by
  intro w h; exact absurd h (by simp [encode])
theorem reflectionMessage (n : Nat) : Statement (.reflectionMessage n) := by
  intro w h; exact absurd h (by simp [encode])
theorem stallExpiry (c : Nat) (t : Nat) : Statement (.stallExpiry c t) := by
  intro w h; exact absurd h (by simp [encode])
theorem hschWaitExpiry (c : Nat) (t : Nat) : Statement (.hschWaitExpiry c t) := by
  intro w h; exact absurd h (by simp [encode])
theorem interlockedValueWrite (c : Nat) (t : Nat) : Statement (.interlockedValueWrite c t) := by
  intro w h; exact absurd h (by simp [encode])
theorem lineWake (c : Nat) (t : Nat) : Statement (.lineWake c t) := by
  intro w h; exact absurd h (by simp [encode])
theorem cacheLineInvalidation (addr : Nat) (data : List (BitVec 8)) : Statement (.cacheLineInvalidation addr data) := by
  intro w h; exact absurd h (by simp [encode])
theorem idleTimeWake (c : Nat) (t : Nat) : Statement (.idleTimeWake c t) := by
  intro w h; exact absurd h (by simp [encode])
theorem barrierArrival (n : Nat) : Statement (.barrierArrival n) := by
  intro w h; exact absurd h (by simp [encode])
theorem barrierReply (n : Nat) : Statement (.barrierReply n) := by
  intro w h; exact absurd h (by simp [encode])
theorem messageArrival (n : Nat) : Statement (.messageArrival n) := by
  intro w h; exact absurd h (by simp [encode])
theorem scaleMessage (n : Nat) : Statement (.scaleMessage n) := by
  intro w h; exact absurd h (by simp [encode])
theorem postedStoreApply (n : Nat) : Statement (.postedStoreApply n) := by
  intro w h; exact absurd h (by simp [encode])
theorem migrationArrival (n : Nat) : Statement (.migrationArrival n) := by
  intro w h; exact absurd h (by simp [encode])
theorem migrationReturn (c : Nat) (t : Nat) : Statement (.migrationReturn c t) := by
  intro w h; exact absurd h (by simp [encode])
theorem recompute (ctx : Nat) (vh : Nat) : Statement (.recompute ctx vh) := by
  intro w h; exact absurd h (by simp [encode])
theorem copyChunk (v : Nat) : Statement (.copyChunk v) := by
  intro w h; exact absurd h (by simp [encode])
theorem cpycVersionCheck (v : Nat) : Statement (.cpycVersionCheck v) := by
  intro w h; exact absurd h (by simp [encode])
theorem copyCompletion (v : Nat) : Statement (.copyCompletion v) := by
  intro w h; exact absurd h (by simp [encode])
theorem bankLineUpdate (n : Nat) (line : Nat) : Statement (.bankLineUpdate n line) := by
  intro w h; exact absurd h (by simp [encode])
theorem tileCommandBegin (c : Nat) : Statement (.tileCommandBegin c) := by
  intro w h; exact absurd h (by simp [encode])
theorem tileChunk (c : Nat) (n : Nat) : Statement (.tileChunk c n) := by
  intro w h; exact absurd h (by simp [encode])
theorem completionWordPost (c : Nat) (q : Nat) : Statement (.completionWordPost c q) := by
  intro w h; exact absurd h (by simp [encode])
theorem taskDispatch (ctx : Nat) (vh : Nat) (c : Nat) (bank : Nat) : Statement (.taskDispatch ctx vh c bank) := by
  intro w h; exact absurd h (by simp [encode])
theorem taskCompletion (c : Nat) (n : Nat) : Statement (.taskCompletion c n) := by
  intro w h; exact absurd h (by simp [encode])
theorem logAppend (n : Nat) : Statement (.logAppend n) := by
  intro w h; exact absurd h (by simp [encode])
theorem entryApply (cat : Bool) (id : Nat) (die : Nat) : Statement (.entryApply cat id die) := by
  intro w h; exact absurd h (by simp [encode])
theorem rreadRun (c : Nat) (t : Nat) : Statement (.rreadRun c t) := by
  intro w h; exact absurd h (by simp [encode])
theorem searchAdmission (c : Nat) (t : Nat) : Statement (.searchAdmission c t) := by
  intro w h; exact absurd h (by simp [encode])
theorem searchStep (c : Nat) (t : Nat) : Statement (.searchStep c t) := by
  intro w h; exact absurd h (by simp [encode])
theorem budgetRefill : Statement (.budgetRefill) := by
  intro w h; exact absurd h (by simp [encode])
theorem switchSlotArm (image : List (BitVec 8)) : Statement (.switchSlotArm image) := by
  intro w h; exact absurd h (by simp [encode])
theorem switchTick (out : Nat) : Statement (.switchTick out) := by
  intro w h; exact absurd h (by simp [encode])
theorem stopInstant (out : Nat) : Statement (.stopInstant out) := by
  intro w h; exact absurd h (by simp [encode])
theorem parkBufferFlush (out : Nat) : Statement (.parkBufferFlush out) := by
  intro w h; exact absurd h (by simp [encode])
theorem denSaveReport (out : Nat) (die : Nat) : Statement (.denSaveReport out die) := by
  intro w h; exact absurd h (by simp [encode])
theorem switchAbort (out : Nat) : Statement (.switchAbort out) := by
  intro w h; exact absurd h (by simp [encode])
theorem denRestore (n : Nat) (places : List Nat) : Statement (.denRestore n places) := by
  intro w h; exact absurd h (by simp [encode])
theorem stepRequest (die : Nat) (point : Nat) : Statement (.stepRequest die point) := by
  intro w h; exact absurd h (by simp [encode])
theorem relockEnd (die : Nat) : Statement (.relockEnd die) := by
  intro w h; exact absurd h (by simp [encode])
theorem thermalGovernor (die : Nat) (dramTemp : Nat) (junctionTemp : Nat) (power : Nat) : Statement (.thermalGovernor die dramTemp junctionTemp power) := by
  intro w h; exact absurd h (by simp [encode])
theorem refreshDoubling (die : Nat) (temp : Nat) : Statement (.refreshDoubling die temp) := by
  intro w h; exact absurd h (by simp [encode])
theorem thermalTrip (die : Nat) (temp : Nat) : Statement (.thermalTrip die temp) := by
  intro w h; exact absurd h (by simp [encode])
theorem plimWrite (watts : Nat) : Statement (.plimWrite watts) := by
  intro w h; exact absurd h (by simp [encode])
theorem linkRetrain : Statement (.linkRetrain) := by
  intro w h; exact absurd h (by simp [encode])
theorem fabricPortDown (port : Nat) : Statement (.fabricPortDown port) := by
  intro w h; exact absurd h (by simp [encode])
theorem hostMemoryAccess (addr : Nat) (data : List (BitVec 8)) : Statement (.hostMemoryAccess addr data) := by
  intro w h; exact absurd h (by simp [encode])
theorem attestationRequest (nonce : List (BitVec 8)) : Statement (.attestationRequest nonce) := by
  intro w h; exact absurd h (by simp [encode])
theorem collectiveCompletion (part : Nat) (group : Nat) (seq : BitVec 64) : Statement (.collectiveCompletion part group seq) := by
  intro w h; exact absurd h (by simp [encode])
theorem collectiveTimeout (part : Nat) (group : Nat) (rank : Nat) (seq : BitVec 64) : Statement (.collectiveTimeout part group rank seq) := by
  intro w h; exact absurd h (by simp [encode])
theorem egressTileMark : Statement (.egressTileMark) := by
  intro w h; exact absurd h (by simp [encode])
theorem clipRecord : Statement (.clipRecord) := by
  intro w h; exact absurd h (by simp [encode])
theorem samplingPulse (ctx : Nat) : Statement (.samplingPulse ctx) := by
  intro w h; exact absurd h (by simp [encode])
theorem breakpointMatch (c : Nat) (t : Nat) : Statement (.breakpointMatch c t) := by
  intro w h; exact absurd h (by simp [encode])
theorem debugRun (ctx : Nat) : Statement (.debugRun ctx) := by
  intro w h; exact absurd h (by simp [encode])
theorem debugStep (c : Nat) (t : Nat) : Statement (.debugStep c t) := by
  intro w h; exact absurd h (by simp [encode])
theorem debugHalt (ctx : Nat) : Statement (.debugHalt ctx) := by
  intro w h; exact absurd h (by simp [encode])
theorem spoorControlWrite (ctx : Nat) (index : Nat) (image : List (BitVec 8)) : Statement (.spoorControlWrite ctx index image) := by
  intro w h; exact absurd h (by simp [encode])
theorem coldStart : Statement (.coldStart) := by
  intro w h; exact absurd h (by simp [encode])
theorem warmStart : Statement (.warmStart) := by
  intro w h; exact absurd h (by simp [encode])
theorem scWindowClose : Statement (.scWindowClose) := by
  intro w h; exact absurd h (by simp [encode])
theorem timeMasterAlignment (add : Bool) : Statement (.timeMasterAlignment add) := by
  intro w h; exact absurd h (by simp [encode])
theorem coreSoftError (c : Nat) (t : Nat) (file : BitVec 2) (reg : BitVec 5) : Statement (.coreSoftError c t file reg) := by
  intro w h; exact absurd h (by simp [encode])
theorem debugRegisterAccess (c : Nat) (t : Nat) (file : BitVec 2) (reg : BitVec 5) (value : Option (BitVec 512)) : Statement (.debugRegisterAccess c t file reg value) := by
  intro w h; exact absurd h (by simp [encode])
theorem egressSettingWrite (ctx : Nat) (strength : Nat) (enable : Bool) : Statement (.egressSettingWrite ctx strength enable) := by
  intro w h; exact absurd h (by simp [encode])
theorem collectiveGroupDefine (ctx : Nat) (group : Nat) (ranks : List (Nat × Nat × Nat)) : Statement (.collectiveGroupDefine ctx group ranks) := by
  intro w h; exact absurd h (by simp [encode])
theorem msixWindowWrite (ctx : Nat) (base : Nat) (count : Nat) : Statement (.msixWindowWrite ctx base count) := by
  intro w h; exact absurd h (by simp [encode])
theorem hostReset : Statement (.hostReset) := by
  intro w h; exact absurd h (by simp [encode])

end Sys2Proof.Laws.Words
end

