-- ==== Sys2Proof/Laws/Vector.lean ====
section
/-! SUPPORT. Lanes, and vector instructions that change registers only: from the shape of the meaning to what it writes, said
once for each shape (R97, R98, R165). -/

namespace Sys2Proof

open Machine

/-! ## Lanes -/

theorem getLsbD_lane (v : Vec) (i j : Nat) : (lane v i).getLsbD j = (decide (j < 32) && v.getLsbD (32 * i + j)) := by
  unfold lane; rw [BitVec.getLsbD_extractLsb']

theorem lane_ofLanes (ls : List (BitVec 32)) (i : Nat) (hi : i < 16) : lane (ofLanes ls) i = ls.getD i 0 := by
  induction ls generalizing i with
  | nil => simp [ofLanes, lane]
  | cons x xs ih =>
    apply BitVec.eq_of_getLsbD_eq
    intro j hj
    rw [getLsbD_lane]
    have he : ofLanes (x :: xs) = (ofLanes xs <<< 32) ||| x.setWidth 512 := rfl
    rw [he, BitVec.getLsbD_or, BitVec.getLsbD_shiftLeft, BitVec.getLsbD_setWidth]
    cases i with
    | zero => simp [hj, show j < 512 by omega]
    | succ k =>
      have := ih k (by omega)
      have h2 : (ofLanes xs).getLsbD (32 * k + j) = (xs.getD k 0).getLsbD j := by
        rw [← this, getLsbD_lane]; simp [hj]
      rw [show 32 * (k + 1) + j - 32 = 32 * k + j by omega, h2]
      have : ¬ 32 * (k + 1) + j < 32 := by omega
      simp [hj, show 32 * (k + 1) + j < 512 by omega, this, BitVec.getLsbD_of_ge x (32 * (k + 1) + j) (by omega)]

/-- The mask of a list of lane numbers. -/
theorem getLsbD_laneMaskL (p : Nat → Bool) (xs : List Nat) (i j : Nat) (hj : j < 32) (hi : i < 16) :
    (xs.foldr (fun i acc => ((acc : Vec) <<< 32) ||| (if p i then (0xFFFFFFFF : Vec) else 0)) 0).getLsbD (32 * i + j) =
      ((xs[i]?).map p).getD false := by
  induction xs generalizing i with
  | nil => exact BitVec.getLsbD_zero
  | cons x xs ih =>
    rw [List.foldr_cons, BitVec.getLsbD_or, BitVec.getLsbD_shiftLeft]
    have hm : ∀ k, k < 512 → (if p x then (0xFFFFFFFF : Vec) else 0).getLsbD k = (p x && decide (k < 32)) := by
      intro k hk
      split
      · have h : (0xFFFFFFFF : Vec) = (BitVec.allOnes 32).setWidth 512 := by decide +kernel
        rw [h, BitVec.getLsbD_setWidth, BitVec.getLsbD_allOnes]; simp [hk, ‹p x = true›]
      · rw [Bool.eq_false_iff.mpr ‹¬p x = true›]; exact BitVec.getLsbD_zero
    cases i with
    | zero => rw [hm _ (by omega)]; simp [hj]
    | succ k =>
      rw [hm _ (by omega), show 32 * (k + 1) + j - 32 = 32 * k + j by omega, ih k (by omega)]
      simp [show ¬ 32 * (k + 1) + j < 32 by omega, show 32 * (k + 1) + j < 512 by omega]

theorem getLsbD_laneMask (p : Pred) (i j : Nat) (hj : j < 32) (hi : i < 16) : (laneMask p).getLsbD (32 * i + j) = p.getLsbD i := by
  unfold laneMask
  rw [getLsbD_laneMaskL _ _ _ _ hj hi, List.getElem?_range hi]
  rfl

/-- A lane of two vectors joined under a mask. -/
theorem lane_merge (p : Pred) (x y : Vec) (i : Nat) (hi : i < 16) :
    lane ((y &&& ~~~laneMask p) ||| (x &&& laneMask p)) i = if p.getLsbD i then lane x i else lane y i := by
  apply BitVec.eq_of_getLsbD_eq
  intro j hj
  rw [getLsbD_lane, BitVec.getLsbD_or, BitVec.getLsbD_and, BitVec.getLsbD_and, BitVec.getLsbD_not, getLsbD_laneMask p i j hj hi]
  have : 32 * i + j < 512 := by omega
  cases h : p.getLsbD i
  · rw [if_neg (by simp), getLsbD_lane]; simp [hj, this]
  · rw [if_pos rfl, getLsbD_lane]; simp [hj, this]

/-! ## The frame of a vector instruction on registers -/

theorem OnlyThread.symm {t : Tid} {a b : State} (h : OnlyThread t a b) : OnlyThread t b a :=
  ⟨h.rest.symm, fun c => (h.cores c).symm, fun m u hu => (h.threads (by
    have := h.inMethod; rw [m] at this; simpa using this.symm) u hu).symm, h.inMethod.symm⟩

/-- A value of a thread that depends neither on what a search or read kept nor on the hold latches. -/
def Barely {α : Type} (x : Thread → α) : Prop :=
  ∀ t a b c d e f g, x { t with snap0 := a, snap1 := b, kept0 := c, kept1 := d, latchD := e, latchA := f, latchB := g } = x t

theorem Barely.plainly {α : Type} {x : Thread → α} (h : Barely x) : Plainly x := fun t a b c d => h t a b c d t.latchD t.latchA t.latchB

theorem Barely.load {α : Type} {x : Thread → α} (h : Barely x) (p : VPos) (t : Thread) : x (p.load t) = x t :=
  h t t.snap0 t.snap1 t.kept0 t.kept1 _ _ _

theorem plainly_valD (p : VPos) : Plainly p.valD := fun _ _ _ _ _ => rfl
theorem plainly_valA (p : VPos) : Plainly p.valA := fun _ _ _ _ _ => rfl
theorem plainly_valB (p : VPos) : Plainly p.valB := fun _ _ _ _ _ => rfl

theorem addFlags_finalG (t : Thread) (n i : Nat) : (addFlags t n).finalG i = t.finalG i := rfl
theorem addFlags_finalV (t : Thread) (n i : Nat) : (addFlags t n).finalV i = t.finalV i := rfl
theorem addFlags_finalK (t : Thread) (n i : Nat) : (addFlags t n).finalK i = t.finalK i := rfl

/-- The form of a vector operation. -/
theorem vop_has (w : BitVec 32) (st : BitVec 3) (p : VPos) (extra : List (RegFile × Nat)) (s : State) :
    (vop w st p extra true (s.thread s.cur)).Has (p.form extra s) := ⟨rfl, rfl, rfl, rfl, rfl, rfl, rfl, rfl⟩

/-- A vector meaning whose effect on the thread is known field by field: `h` follows the load of the latches. -/
theorem vregs_of {op : Op} {f : Form} {s : State} {p : VPos} {g : Thread → Thread} {gs vs ks : List Nat} {fl : Bool} (hf : op.Has f)
    (hc : f.cls ≠ .irrev) (hi : Issues f s)
    (hg : ∀ t, ∀ i < 32, i ∉ gs → (g t).finalG i = t.finalG i) (hv : ∀ t, ∀ i < 32, i ∉ vs → (g t).finalV i = t.finalV i)
    (hk : ∀ t, ∀ i < 8, i ∉ ks → (g t).finalK i = t.finalK i) (hr : ∀ t, (g t).rest = t.rest) (hpc : ∀ t, (g t).pc = t.pc)
    (hfl : fl = false → ∀ t, (g t).fflags = t.fflags)
    (hl : ∀ t, (g t).latchD = (p.load t).latchD ∧ (g t).latchA = (p.load t).latchA ∧ (g t).latchB = (p.load t).latchB) :
    ∃ s' c o, issue op s (regBody g) = .next s' ∧ RegsOnly s.cur (latched p s) s' gs vs ks fl (s.me.pc + 4) ∧
      s'.thread s.cur = (g (begun f s).me).passed ((g (begun f s).me).pc + 4) op.stall c o := by
  obtain ⟨s', c, o, h1, h2, h4⟩ := regBody_runs g hf hc hi
  have ht : (latched p s).thread s.cur = p.load s.me := setThread_thread _ _ _ hi.context
  have hpl : ∀ {α : Type} {x : Thread → α}, Barely x → x (begun f s).me = x ((latched p s).thread s.cur) := by
    intro α x hx
    rw [ht, hx.load, hx.plainly.begun hi.context]
  refine ⟨s', c, o, h1, ⟨(onlyThread_setThread _ _ _).symm.trans h2, ⟨fun i h hn => ?_, fun i h hn => ?_, fun i h hn => ?_, ?_⟩, ?_, fun h => ?_, ?_⟩, h4⟩
  · rw [h4, passed_finalG _ _ _ _ _ _ h, hg _ i h hn]; exact hpl (x := (·.finalG i)) (fun _ _ _ _ _ _ _ _ => rfl)
  · rw [h4, passed_finalV _ _ _ _ _ _ h, hv _ i h hn]; exact hpl (x := (·.finalV i)) (fun _ _ _ _ _ _ _ _ => rfl)
  · rw [h4, passed_finalK _ _ _ _ _ _ h, hk _ i h hn]; exact hpl (x := (·.finalK i)) (fun _ _ _ _ _ _ _ _ => rfl)
  · rw [h4, passed_rest, hr]; exact hpl (x := Thread.rest) (fun _ _ _ _ _ _ _ _ => rfl)
  · unfold SameLatches
    rw [h4, passed_latchD, passed_latchA, passed_latchB, (hl _).1, (hl _).2.1, (hl _).2.2, ht]
    have hd : Plainly fun t => (p.load t).latchD := fun _ _ _ _ _ => rfl
    have ha : Plainly fun t => (p.load t).latchA := fun _ _ _ _ _ => rfl
    have hb : Plainly fun t => (p.load t).latchB := fun _ _ _ _ _ => rfl
    exact ⟨hd.begun hi.context, ha.begun hi.context, hb.begun hi.context⟩
  · rw [h4, passed_fflags, hfl h]; exact hpl (x := Thread.fflags) (fun _ _ _ _ _ _ _ _ => rfl)
  · rw [h4, passed_pc, hpc]
    have : (begun f s).me.pc = s.me.pc := plainly_pc.begun hi.context
    rw [this]

/-- A meaning that writes active lanes. -/
theorem writesLanes_of {i : Instr} {p : VPos} {extra : List (RegFile × Nat)} {d : BitVec 5} {k : Thread → Pred} {lat : Nat} {u : Producer}
    {x : Thread → Vec → Vec → Vec → Nat → Nat × Nat} {w : BitVec 32} {st : BitVec 3}
    (he : ∀ s, exec i s = issueV w st p extra true s fun t D A B => t.putLanes d.toNat (k t) (mapLanes (k t) (x t D A B)) lat u)
    (hk : Barely k) (hx : Barely x) : WritesLanes i p extra d.toNat k x := by
  intro s hi
  obtain ⟨s', c, o, h1, h2, h3⟩ := vregs_of (p := p) (gs := []) (vs := [d.toNat]) (ks := []) (fl := true) (vop_has w st p extra s) (by simp [VPos.form]) hi
    (g := fun t => (p.load t).putLanes d.toNat (k (p.load t)) (mapLanes (k (p.load t)) (x (p.load t) (p.valD t) (p.valA t) (p.valB t))) lat u)
    (fun t i _ _ => (produce_finalG_ne _ _ _ _ _ _ _ _ (.inl (by simp))).trans rfl)
    (fun t i _ hn => (produce_finalV_ne _ _ _ _ _ _ _ _ (.inr (by simpa [eq_comm] using hn))).trans rfl)
    (fun t i _ _ => (produce_finalK_ne _ _ _ _ _ _ _ _ (.inl (by simp))).trans rfl)
    (fun t => (produce_rest _ _ _ _ _ _ _).trans rfl) (fun t => (produce_pc _ _ _ _ _ _ _).trans rfl) (fun h => by simp at h)
    (fun t => ⟨produce_latchD _ _ _ _ _ _ _, produce_latchA _ _ _ _ _ _ _, produce_latchB _ _ _ _ _ _ _⟩)
  have e1 : k (begun (p.form extra s) s).me = k s.me := hk.plainly.begun hi.context
  have e2 : x (begun (p.form extra s) s).me = x s.me := hx.plainly.begun hi.context
  have e3 := (plainly_valD p).begun (f := p.form extra s) hi.context
  have e4 := (plainly_valA p).begun (f := p.form extra s) hi.context
  have e5 := (plainly_valB p).begun (f := p.form extra s) hi.context
  refine ⟨s', (he s).trans h1, fun l hl => ?_, ?_, h2⟩
  · rw [h3, passed_finalV _ _ _ _ _ _ d.isLt]
    unfold Thread.putLanes
    rw [addFlags_finalV, produce_finalV_self, lane_merge _ _ _ _ hl, hk.load, hx.load, e1, e2, e3, e4, e5]
    have e6 : (p.load (begun (p.form extra s) s).me).finalV d.toNat = s.me.finalV d.toNat :=
      (plainly_finalV d.toNat).begun (f := p.form extra s) hi.context
    rw [e6]
    unfold mapLanes
    rw [lane_ofLanes _ _ hl]
    simp [hl]
  · rw [h3, passed_fflags]
    unfold Thread.putLanes
    rw [hk.load, hx.load, e1, e2, e3, e4, e5]
    have e6 : ∀ t : Thread, ∀ n, (addFlags t n).fflags = t.fflags ||| BitVec.ofNat 64 (n % 256) := fun _ _ => rfl
    rw [e6, e6, produce_fflags]
    have e7 : (p.load (begun (p.form extra s) s).me).fflags = s.me.fflags := plainly_fflags.begun (f := p.form extra s) hi.context
    rw [e7]
    have e8 : ∀ (q : Pred) (g : Nat → Nat × Nat), (mapLanes q g).2 = laneFlags q fun l => (g l).2 := by
      intro q g
      unfold mapLanes laneFlags
      dsimp only
      have : ∀ (xs : List Nat) (a : Nat), (∀ i ∈ xs, i < 16) →
          xs.foldl (fun acc i => if q.getLsbD i then orFlags acc ((((List.range 16).map g).getD i (0, 0)).2) else acc) a =
          xs.foldl (fun acc i => if q.getLsbD i then orFlags acc (g i).2 else acc) a := by
        intro xs
        induction xs with
        | nil => intros; rfl
        | cons y ys ih =>
          intro a hy
          have hy16 : y < 16 := hy y (by simp)
          simp only [List.foldl_cons]
          rw [ih _ (fun i hi => hy i (by simp [hi]))]
          have : ((List.range 16).map g).getD y (0, 0) = g y := by simp [hy16]
          rw [this]
      exact this _ _ (by simp)
    rw [e8]

/-- A meaning that writes a whole vector register. -/
theorem writesV_of {i : Instr} {p : VPos} {extra : List (RegFile × Nat)} {d : BitVec 5} {lat : Nat} {u : Producer}
    {x : Thread → Vec → Vec → Vec → Vec} {fl : Thread → Vec → Vec → Vec → Nat} {w : BitVec 32} {st : BitVec 3}
    (he : ∀ s, exec i s = issueV w st p extra true s fun t D A B => addFlags (t.produce .v d.toNat maskV (x t D A B) lat u) (fl t D A B))
    (hx : Barely x) (hfl : Barely fl) : WritesV i p extra d.toNat x fl := by
  intro s hi
  obtain ⟨s', c, o, h1, h2, h3⟩ := vregs_of (p := p) (gs := []) (vs := [d.toNat]) (ks := []) (fl := true) (vop_has w st p extra s) (by simp [VPos.form]) hi
    (g := fun t => addFlags ((p.load t).produce .v d.toNat maskV (x (p.load t) (p.valD t) (p.valA t) (p.valB t)) lat u)
      (fl (p.load t) (p.valD t) (p.valA t) (p.valB t)))
    (fun t i _ _ => (produce_finalG_ne _ _ _ _ _ _ _ _ (.inl (by simp))).trans rfl)
    (fun t i _ hn => (produce_finalV_ne _ _ _ _ _ _ _ _ (.inr (by simpa [eq_comm] using hn))).trans rfl)
    (fun t i _ _ => (produce_finalK_ne _ _ _ _ _ _ _ _ (.inl (by simp))).trans rfl)
    (fun t => (produce_rest _ _ _ _ _ _ _).trans rfl) (fun t => (produce_pc _ _ _ _ _ _ _).trans rfl) (fun h => by simp at h)
    (fun t => ⟨produce_latchD _ _ _ _ _ _ _, produce_latchA _ _ _ _ _ _ _, produce_latchB _ _ _ _ _ _ _⟩)
  have e1 : fl (begun (p.form extra s) s).me = fl s.me := hfl.plainly.begun hi.context
  have e2 : x (begun (p.form extra s) s).me = x s.me := hx.plainly.begun hi.context
  have e3 := (plainly_valD p).begun (f := p.form extra s) hi.context
  have e4 := (plainly_valA p).begun (f := p.form extra s) hi.context
  have e5 := (plainly_valB p).begun (f := p.form extra s) hi.context
  refine ⟨s', (he s).trans h1, ?_, ?_, h2⟩
  · rw [h3, passed_finalV _ _ _ _ _ _ d.isLt, addFlags_finalV, produce_finalV_self, hx.load, e2, e3, e4, e5, maskV, BitVec.and_allOnes]
    apply BitVec.eq_of_getLsbD_eq
    intro j hj
    rw [BitVec.getLsbD_or, BitVec.getLsbD_and, BitVec.getLsbD_not, BitVec.getLsbD_allOnes]
    simp [hj]
  · rw [h3, passed_fflags]
    have e6 : ∀ t : Thread, ∀ n, (addFlags t n).fflags = t.fflags ||| BitVec.ofNat 64 (n % 256) := fun _ _ => rfl
    rw [e6, e6, produce_fflags, hfl.load, e1, e3, e4, e5]
    have e7 : (p.load (begun (p.form extra s) s).me).fflags = s.me.fflags := plainly_fflags.begun (f := p.form extra s) hi.context
    rw [e7]

/-- The bits of a predicate made from a test on lanes. -/
theorem getLsbD_predOf (f : Nat → Bool) (l : Nat) (hl : l < 16) : (predOf f).getLsbD l = f l := by
  have : ∀ (xs : List Nat) (l : Nat), l < 16 →
      (xs.foldr (fun i acc => ((acc : Pred) <<< 1) ||| (if f i then 1 else 0)) 0).getLsbD l = ((xs[l]?).map f).getD false := by
    intro xs
    induction xs with
    | nil => intro l _; simp
    | cons x xs ih =>
      intro l hl
      rw [List.foldr_cons, BitVec.getLsbD_or, BitVec.getLsbD_shiftLeft]
      cases l with
      | zero => cases h : f x <;> simp [h]
      | succ k =>
        rw [show k + 1 - 1 = k by omega, ih k (by omega)]
        cases f x <;> simp [hl]
  unfold predOf
  rw [this _ _ hl, List.getElem?_range hl]
  rfl

/-- A vector compare. -/
theorem writesVK_of {i : Instr} {p : VPos} {extra : List (RegFile × Nat)} {d : BitVec 3} {lat : Nat} {u : Producer}
    {x : Thread → Vec → Vec → Nat → Bool} {w : BitVec 32} {st : BitVec 3}
    (he : ∀ s, exec i s = issueV w st p extra true s fun t _ A B => t.putK d.toNat (predOf (x t A B)) lat u) (hx : Barely x) :
    WritesVK i p extra d.toNat x := by
  intro s hi
  have hd : d.toNat < 8 := d.isLt
  obtain ⟨s', c, o, h1, h2, h3⟩ := vregs_of (p := p) (gs := []) (vs := []) (ks := [d.toNat]) (fl := false) (vop_has w st p extra s) (by simp [VPos.form]) hi
    (g := fun t => (p.load t).putK d.toNat (predOf (x (p.load t) (p.valA t) (p.valB t))) lat u)
    (fun t i _ _ => (produce_finalG_ne _ _ _ _ _ _ _ _ (.inl (by simp))).trans rfl)
    (fun t i _ _ => (produce_finalV_ne _ _ _ _ _ _ _ _ (.inl (by simp))).trans rfl)
    (fun t i _ hn => (produce_finalK_ne _ _ _ _ _ _ _ _ (.inr (by simpa [eq_comm] using hn))).trans rfl)
    (fun t => (produce_rest _ _ _ _ _ _ _).trans rfl) (fun t => (produce_pc _ _ _ _ _ _ _).trans rfl)
    (fun _ t => (produce_fflags _ _ _ _ _ _ _).trans rfl)
    (fun t => ⟨produce_latchD _ _ _ _ _ _ _, produce_latchA _ _ _ _ _ _ _, produce_latchB _ _ _ _ _ _ _⟩)
  have e2 : x (begun (p.form extra s) s).me = x s.me := hx.plainly.begun hi.context
  have e4 := (plainly_valA p).begun (f := p.form extra s) hi.context
  have e5 := (plainly_valB p).begun (f := p.form extra s) hi.context
  refine ⟨s', (he s).trans h1, fun l hl => ?_, h2⟩
  rw [h3, passed_finalK _ _ _ _ _ _ hd, putK_finalK, hx.load, e2, e4, e5]
  split
  · have : (0xFFFF : Pred) = BitVec.allOnes 16 := by decide
    rw [this, BitVec.getLsbD_allOnes]; simp [hl]
  · exact getLsbD_predOf _ _ hl

end Sys2Proof
end

