-- ==== Sys2Proof/Tests/Slice0.lean ====
section
/-! SUPPORT. Tests: words of the spec's tables decoded, an ill-formed term for each check of WellFormed, single steps, and a state
that meets the hypotheses of each statement. -/

set_option maxRecDepth 4000
set_option Elab.async false

namespace Sys2Proof.Tests

open Sys2Proof Sys2Proof.Machine

/-! ## Words written out in the spec -/

/-- Table 7.7. -/
theorem test_decode_scalar :
    decodeWord 0x06000000 = .ok (.addi 0 0 0 0) ∧ decodeWord 0x02085003 = .ok (.or 0 4 5 0) ∧
    decodeWord 0x320C0006 = .ok (.csrr 0 6 0 6) ∧ decodeWord 0x30000000 = .ok (.eret 0 0 0 0) ∧
    decodeWord 0x30000001 = .ok (.idle 0 0 0 0) ∧ decodeWord 0x30000382 = .ok (.brk 0 7) ∧
    decodeWord 0x3A000005 = .ok (.sys 0 0 0 5) ∧ decodeWord 0x3C000000 = .ok (.trap 0 0 0 0) :=
  ⟨rfl, rfl, rfl, rfl, rfl, rfl, rfl, rfl⟩

/-- 24_prog_crossdie.md: a hint, a compare and a guarded branch. -/
theorem test_decode_branches :
    decodeWord 0x064A5FFF = .ok (.addi 1 5 5 0xFFF) ∧ decodeWord 0x14525000 = .ok (.cmpiNe 1 1 5 0) ∧
    decodeWord 0x208BFFFE = .ok (.br 2 1 0 0x3FFFE) := ⟨rfl, rfl, rfl⟩

/-- Table 8.5. -/
theorem test_decode_memory :
    decodeWord 0x40064804 = .ok (.ld 0 3 4 2 4) ∧ decodeWord 0x420A2FF8 = .ok (.st 0 5 2 3 0x3F8) ∧
    decodeWord 0x460A6540 = .ok (.sto 0 5 6 2 2 4 0) ∧ decodeWord 0x4E0B4450 = .ok (.amoAdd 0 5 20 2 0 5) ∧
    decodeWord 0x60000820 = .ok (.fenceAll 0 0 0 0 2) ∧ decodeWord 0x640164A0 = .ok (.waita 0 0 22 2 1 2) ∧
    decodeWord 0x72008001 = .ok (.mbputRel 0 0 8 0) ∧ decodeWord 0x72100002 = .ok (.mbget 0 8 0 0) ∧
    decodeWord 0x4A000002 = .ok (.enter 0 0 0 2) ∧ decodeWord 0x6E000002 = .ok (.tend 0 0 0 0) :=
  ⟨rfl, rfl, rfl, rfl, rfl, rfl, rfl, rfl, rfl, rfl⟩

/-- Table 9.11. -/
theorem test_decode_vector :
    decodeWord 0x868C1108 = .ok (.vfma 2 6 1 2 0 1 0 0) ∧ decodeWord 0x8002218D = .ok (.vadd 0 1 2 3 0 1 1 1) ∧
    decodeWord 0x982642A0 = .ok (.vcmpLt 0 3 4 5 2 0 0 0) ∧ decodeWord 0x88200220 = .ok (.vfmab 0 16 0 4 2 0 0 0) ∧
    decodeWord 0x9E022200 = .ok (.vcvtF2b 0 1 2 0 0 0 0 0) ∧ decodeWord 0xA0069000 = .ok (.vredSum 0 3 9 0 0 0 0 0) ∧
    decodeWord 0xAC024100 = .ok (.vld 0 1 4 2 0 0 0) ∧ decodeWord 0xAE045380 = .ok (.vgth 0 2 5 7 0 0 0) ∧
    decodeWord 0xA8180200 = .ok (.vqnt 0 12 0 4 0 0 0) ∧ decodeWord 0xA2100005 = .ok (.kpack 0 8 0 0) :=
  ⟨rfl, rfl, rfl, rfl, rfl, rfl, rfl, rfl, rfl, rfl⟩

/-- Tables 12.2 and 14.11, and R355's YPT. -/
theorem test_decode_tasks_copies :
    decodeWord 0x6E0C8483 = .ok (.tspawn 0 6 8 9) ∧ decodeWord 0x6E0EA004 = .ok (.tstamp 0 7 10 0) ∧
    decodeWord 0x6C014A83 = .ok (.ypt 0 0 20 21) ∧
    decodeWord 0xC0008000 = .ok (.cpy 0 0 8 0) ∧ decodeWord 0xC00C8001 = .ok (.cpyNb 0 6 8 0) ∧
    decodeWord 0xC00C8002 = .ok (.cpyc 0 6 8 0) ∧ decodeWord 0xC00E9004 = .ok (.cpyst 0 7 9 0) ∧
    decodeWord 0xC2009100 = .ok (.hwait 0 0 9 0 2) ∧ decodeWord 0xC20C9001 = .ok (.hacq 0 6 9 0) ∧
    decodeWord 0xC2009002 = .ok (.hrel 0 0 9 0) ∧ decodeWord 0xC40B444A = .ok (.aopFaddBf16 0 5 20 2 0 4) ∧
    decodeWord 0xC6008000 = .ok (.ared 0 0 8 0) :=
  ⟨rfl, rfl, rfl, rfl, rfl, rfl, rfl, rfl, rfl, rfl, rfl, rfl⟩

/-- Table 16.8. -/
theorem test_decode_tile :
    decodeWord 0xB6280000 = .ok (.abal 0 20 0 0 0) ∧ decodeWord 0xBA2A0001 = .ok (.tgeoMask 0 21 0 0) ∧
    decodeWord 0xB42C0000 = .ok (.tlda 0 22 0 0 0 0 0) ∧ decodeWord 0xB42E0400 = .ok (.tldb 0 23 0 0 0 0 0) ∧
    decodeWord 0xB4001400 = .ok (.tzero 0 0 0 0 0 0 0) ∧ decodeWord 0xB4360C00 = .ok (.tmma 0 27 0 0 0 0 0) ∧
    decodeWord 0xB4321C04 = .ok (.tstc 0 25 0 0 0 1 0) ∧ decodeWord 0xB2390000 = .ok (.qpop 0 28 4 0) ∧
    decodeWord 0xB6001000 = .ok (.abfr 0 0 0 0 0) ∧ decodeWord 0xB40A0800 = .ok (.tgtha 0 5 0 0 0 0 0) ∧
    decodeWord 0xB812C000 = .ok (.lset 0 9 3 0) ∧ decodeWord 0xB0144000 = .ok (.qpush 0 10 1 0) ∧
    decodeWord 0xBC100000 = .ok (.ttask 0 8 0 0) :=
  ⟨rfl, rfl, rfl, rfl, rfl, rfl, rfl, rfl, rfl, rfl, rfl, rfl, rfl⟩

/-- Tables 18.10 and 19.6. -/
theorem test_decode_scribe_catalogue :
    decodeWord 0xD62B4000 = .ok (.objnew 0 21 20 0) ∧ decodeWord 0xD40D5B80 = .ok (.rcall 0 6 21 23) ∧
    decodeWord 0xD40D5B81 = .ok (.rcallNb 0 6 21 23) ∧ decodeWord 0xD4128C04 = .ok (.rwait 0 9 8 24) ∧
    decodeWord 0xD416AC82 = .ok (.rread 0 11 10 25) ∧ decodeWord 0xD416AC83 = .ok (.rreadLocal 0 11 10 25) ∧
    decodeWord 0xD6015001 = .ok (.objdel 0 0 21 0) ∧ decodeWord 0xD00C8000 = .ok (.cnear 0 6 8 0) ∧
    decodeWord 0xD00C8481 = .ok (.cnearLocal 0 6 8 9) ∧ decodeWord 0xD00C8002 = .ok (.cstv 0 6 8 0) ∧
    decodeWord 0xD00F4B03 = .ok (.cdel 0 7 20 22) ∧ decodeWord 0xD00F4B84 = .ok (.cver 0 7 20 23) ∧
    decodeWord 0xD2298000 = .ok (.catnew 0 20 24 0) ∧ decodeWord 0xD2014001 = .ok (.catdel 0 0 20 0) :=
  ⟨rfl, rfl, rfl, rfl, rfl, rfl, rfl, rfl, rfl, rfl, rfl, rfl, rfl, rfl⟩

/-- Tables 21.17 and 23.13. -/
theorem test_decode_context_package :
    decodeWord 0xD80C8000 = .ok (.ctxnew 0 6 8 0) ∧ decodeWord 0xD80C8001 = .ok (.ctxgrant 0 6 8 0) ∧
    decodeWord 0xD80C8002 = .ok (.ctxrevoke 0 6 8 0) ∧ decodeWord 0xD80E9503 = .ok (.ctxstat 0 7 9 10) ∧
    decodeWord 0xDA0C8000 = .ok (.resume 0 6 8 0) ∧ decodeWord 0xDC0C8000 = .ok (.lnch 0 6 8 0) ∧
    decodeWord 0x740C9500 = .ok (.wkdone 0 6 9 10) ∧ decodeWord 0xC80C8000 = .ok (.collAr 0 6 8 0) ∧
    decodeWord 0xC80C8001 = .ok (.collAg 0 6 8 0) ∧ decodeWord 0xC8008002 = .ok (.collRs 0 0 8 0) ∧
    decodeWord 0xCA008000 = .ok (.egrs 0 0 8 0) ∧ decodeWord 0xCA0C8001 = .ok (.egfin 0 6 8 0) :=
  ⟨rfl, rfl, rfl, rfl, rfl, rfl, rfl, rfl, rfl, rfl, rfl, rfl⟩

/-- The all-zero word is no instruction (R50). -/
theorem test_decode_zero_refused : (decodeWord 0).toOption = none := rfl

/-! ## An ill-formed term for each check of WellFormed -/

theorem test_illformed_memory :
    (Instr.ldo 0 1 2 4 1 0 0).wellFormed = false ∧ (Instr.ldo 0 1 2 3 2 0 0).wellFormed = false ∧
    (Instr.ldo 0 1 2 3 0 7 0).wellFormed = false ∧ (Instr.ldo 0 1 2 3 0 0 3).wellFormed = false ∧
    (Instr.sto 0 1 2 3 1 0 0).wellFormed = false ∧ (Instr.amoAdd 0 1 2 1 0 0).wellFormed = false ∧
    (Instr.amoFadd 0 1 2 3 0 0).wellFormed = false ∧ (Instr.aopFaddBf16 0 1 2 3 0 0).wellFormed = false ∧
    (Instr.cas 0 31 2 3 0 0).wellFormed = false ∧ (Instr.waita 0 1 2 3 2 0).wellFormed = false ∧
    (Instr.psto 0 1 2 3 1 0).wellFormed = false ∧ (Instr.fenceAll 0 0 0 0 7).wellFormed = false := by decide

theorem test_illformed_vector :
    (Instr.vshl 0 1 2 3 0 0 0 0).wellFormed = false ∧ (Instr.vcmpEq 0 1 2 3 0 0 0 3).wellFormed = false ∧
    (Instr.vabs 0 1 2 0 0 0 2).wellFormed = false ∧ (Instr.vrcp 0 1 2 0 0 0 1).wellFormed = false ∧
    (Instr.vredSum 0 1 2 0 0 0 0 3).wellFormed = false ∧ (Instr.vqnt 0 1 2 3 0 0 0).wellFormed = false ∧
    (Instr.vdq 0 1 2 3 0 0 0).wellFormed = false := by decide

theorem test_illformed_rest :
    (Instr.qpush 0 1 0 0).wellFormed = false ∧ (Instr.qpush 0 2 4 0).wellFormed = false ∧ (Instr.qpop 0 1 3 0).wellFormed = false ∧
    (Instr.tlda 0 1 4 0 0 0 0).wellFormed = false ∧ (Instr.abal 0 1 4 0 0).wellFormed = false ∧
    (Instr.abfr 0 0 0 63 1).wellFormed = false ∧ (Instr.hschIdle 0 4).wellFormed = false ∧
    (Instr.hmod 0 5 0 0 0 0 0).wellFormed = false ∧ (Instr.hmod 0 0 3 0 0 0 0).wellFormed = false ∧
    (Instr.hmod 0 0 0 0 5 0 0).wellFormed = false ∧ (Instr.hmod 0 0 0 0 0 8 0).wellFormed = false ∧
    (Instr.reservedHint 0x73 0).wellFormed = false := by decide

/-! ## A laboratory: one core of a launch of context 1 -/

/-- Thread `t` of core 0 of a launch of context 1 with general registers as listed and the segments of Table 6.7: segment 1 its
own scratchpad, 3 the sett, 4 an Archive allotment of 64 KiB, 5 global memory, 7 a stack of 4 KiB. -/
def lab (t : Nat) (gs : List (Nat × Word)) : State :=
  let s := State.reset.withFetchWord 32 0
  let s := { s with
    cur := ⟨0, t⟩
    agenda := []
    contexts := s.contexts.insert 1 { bootContext with
      archive := [⟨0, 65536, none⟩]
      pool := 2 ^ 30
      budgets := Vector.replicate 20 { (Context.bare.budget 0) with rate := 1000, bucket := 1000 } } }
  let s := s.setSett 0 { s.sett 0 with shelves := Vector.replicate 32 1 }
  s.setThread ⟨0, t⟩ { launchThread s 1 0x100 65536 4096 false 0 0 0 with
    g := gs.foldl (fun v e => v.setIfInBounds e.1 e.2) (Vector.replicate 32 0) }

/-- The laboratory's state with one of its parts changed. -/
def labCore (t : Nat) (gs : List (Nat × Word)) (f : VCore → VCore) : State := (lab t gs).setCore 0 (f ((lab t gs).core 0))
def labThread (t : Nat) (gs : List (Nat × Word)) (f : Thread → Thread) : State := (lab t gs).setThread ⟨0, t⟩ (f (lab t gs).me)

/-- Offset `n` of the own scratchpad, the sett, the Archive and the stack. -/
def own (n : Nat) : Word := BitVec.ofNat 64 (2 ^ 61 + n)
def inSett (n : Nat) : Word := BitVec.ofNat 64 (3 * 2 ^ 61 + n)
def inArchive (n : Nat) : Word := BitVec.ofNat 64 (4 * 2 ^ 61 + n)

/-- Bytes of the own scratchpad from an offset. -/
def withSpad (s : State) (off : Nat) (bs : List Byte) : State :=
  let c := s.core 0
  s.setCore 0 { c with spad := c.spad.putBytes off bs }

def stateOf : Out → State
  | .next s => s
  | _ => State.reset

def gAfter (o : Out) (t n : Nat) : Word := ((stateOf o).thread ⟨0, t⟩).finalG n
def vAfter (o : Out) (t n l : Nat) : BitVec 32 := lane (((stateOf o).thread ⟨0, t⟩).finalV n) l
def kAfter (o : Out) (t n : Nat) : Pred := ((stateOf o).thread ⟨0, t⟩).finalK n

/-! ## Single steps, with results from the spec's text -/

/-- R114: the sum of all ones and 1 wraps to 0. -/
theorem test_add_wraps : gAfter (exec (.add 0 3 1 2) (lab 0 [(1, 0xFFFFFFFFFFFFFFFF), (2, 1)])) 0 3 = 0 := by decide +kernel
/-- R114: subtraction, in the order a − b. -/
theorem test_sub_order : gAfter (exec (.sub 0 3 1 2) (lab 0 [(1, 1), (2, 2)])) 0 3 = 0xFFFFFFFFFFFFFFFF := by decide +kernel
/-- R114: a shift amount of 64 is 0; SAR keeps the sign. -/
theorem test_shifts : gAfter (exec (.shl 0 3 1 2) (lab 0 [(1, 5), (2, 64)])) 0 3 = 5 ∧
    gAfter (exec (.sar 0 3 1 2) (lab 0 [(1, 0x8000000000000000), (2, 63)])) 0 3 = 0xFFFFFFFFFFFFFFFF := by decide +kernel
/-- R118: division truncates; by zero it gives all ones. -/
theorem test_divide : gAfter (exec (.div 0 3 1 2) (lab 0 [(1, 0xFFFFFFFFFFFFFFF9), (2, 2)])) 0 3 = 0xFFFFFFFFFFFFFFFD ∧
    gAfter (exec (.div 0 3 1 2) (lab 0 [(1, 7), (2, 0)])) 0 3 = 0xFFFFFFFFFFFFFFFF ∧
    gAfter (exec (.rem 0 3 1 2) (lab 0 [(1, 0xFFFFFFFFFFFFFFF9), (2, 2)])) 0 3 = 0xFFFFFFFFFFFFFFFF := by decide +kernel
/-- R118: MULH is the signed high half. -/
theorem test_mulh : gAfter (exec (.mulh 0 3 1 2) (lab 0 [(1, 0xFFFFFFFFFFFFFFFF), (2, 2)])) 0 3 = 0xFFFFFFFFFFFFFFFF := by decide +kernel
/-- R114: a write to g0 is discarded. -/
theorem test_g0 : gAfter (exec (.add 0 0 1 2) (lab 0 [(1, 3), (2, 4)])) 0 0 = 0 := by decide +kernel
/-- R116: signed and unsigned order differ. -/
theorem test_compare : kAfter (exec (.cmpLt 0 0 1 1 2) (lab 0 [(1, 0xFFFFFFFFFFFFFFFF), (2, 1)])) 0 1 = 0xFFFF ∧
    kAfter (exec (.cmpLtn 0 0 1 1 2) (lab 0 [(1, 0xFFFFFFFFFFFFFFFF), (2, 1)])) 0 1 = 0 := by decide +kernel
/-- R137: little-endian bytes, zero- and sign-extended. -/
theorem test_loads :
    gAfter (exec (.ld 0 3 1 1 1) (withSpad (lab 0 [(1, own 62)]) 64 [0x34, 0x92])) 0 3 = 0x9234 ∧
    gAfter (exec (.ldS 0 3 1 1 1) (withSpad (lab 0 [(1, own 62)]) 64 [0x34, 0x92])) 0 3 = 0xFFFFFFFFFFFF9234 := by decide +kernel
/-- R137: a store keeps its neighbours. -/
theorem test_store : readPlaces (stateOf (exec (.st 0 2 1 1 0) (withSpad (lab 0 [(1, own 64), (2, 0xABCD)]) 63 [1, 2, 3, 4]))) [63, 64, 65, 66] =
    [1, 0xCD, 0xAB, 4] := by decide +kernel
/-- R143: AMO.ADD gives the old value and stores the sum. -/
theorem test_amo : gAfter (exec (.amoAdd 0 2 1 2 0 0) (withSpad (lab 0 [(1, own 64), (2, 5)]) 64 [0xFF, 0xFF, 0xFF, 0xFF])) 0 2 = 0xFFFFFFFF ∧
    readPlaces (stateOf (exec (.amoAdd 0 2 1 2 0 0) (withSpad (lab 0 [(1, own 64), (2, 5)]) 64 [0xFF, 0xFF, 0xFF, 0xFF]))) [64, 65, 66, 67] =
      [4, 0, 0, 0] := by decide +kernel
/-- R101: beyond the limit of the stack segment an access raises SEG_LIMIT, with no handler a reflection. -/
theorem test_fault_held : (stateOf (exec (.ld 0 3 1 0 0) (lab 0 [(1, BitVec.ofNat 64 (7 * 2 ^ 61 + 4096))]))).me.cause.toNat % 256 = cSEG_LIMIT ∧
    (stateOf (exec (.ld 0 3 1 0 0) (lab 0 [(1, BitVec.ofNat 64 (7 * 2 ^ 61 + 4096))]))).me.run = .held := by decide +kernel
/-- R108: with a handler and the class not reflected the thread goes to TVEC with INH 1, EPC the chain. -/
theorem test_trap_entry :
    let s := stateOf (exec (.trap 0 0 0 9) (labThread 0 [] fun t => { t with tvec := 0x200 }))
    s.me.pc = 0x200 ∧ s.me.epc = 0x104 ∧ s.me.eval = 9 ∧ s.me.inh = true ∧ s.me.cause.toNat = cSOFT_TRAP := by decide +kernel
/-- R127: ERET goes to EPC and clears INH. -/
theorem test_eret :
    let s := stateOf (exec (.eret 0 0 0 0) (labThread 0 [] fun t => { t with epc := 0x300, tctl := 0x10 }))
    s.me.pc = 0x300 ∧ s.me.inh = false := by decide +kernel
/-- R142: ENTER moves g2 up by n and traps beyond the stack's limit. -/
theorem test_enter : gAfter (exec (.enter 0 0 0 2) (lab 0 [(2, 0xE000000000000000)])) 0 2 = 0xE000000000000080 ∧
    (stateOf (exec (.enter 0 0 0 65) (lab 0 [(2, 0xE000000000000000)]))).me.cause.toNat % 256 = cSTACK_LIMIT := by decide +kernel
/-- R168: lanes do not carry into each other; a lane whose predicate bit is 0 stays. -/
theorem test_vector_lanes :
    let s := labThread 0 [] fun t => { t with
      v := (t.v.setIfInBounds 1 (BitVec.allOnes 512)).setIfInBounds 2 (BitVec.ofNat 512 1)
      k := t.k.setIfInBounds 1 1 }
    vAfter (exec (.vadd 0 3 1 2 1 0 0 1) s) 0 3 0 = 0 ∧ vAfter (exec (.vadd 0 3 1 2 1 0 0 1) s) 0 3 1 = 0 ∧
    vAfter (exec (.vadd 0 3 1 2 0 0 0 1) s) 0 3 1 = 0xFFFFFFFF := by decide +kernel
/-- R168, R55: 1.0 + 1.0 and 1.0 × −2.0 in FP32. -/
theorem test_vector_float :
    let s := labThread 0 [] fun t => { t with
      v := (t.v.setIfInBounds 1 (BitVec.ofNat 512 0x3F800000)).setIfInBounds 2 (BitVec.ofNat 512 0xC0000000) }
    vAfter (exec (.vadd 0 3 1 1 0 0 0 0) s) 0 3 0 = 0x40000000 ∧ vAfter (exec (.vmul 0 3 1 2 0 0 0 0) s) 0 3 0 = 0xC0000000 := by decide +kernel
/-- R130: TID reads the thread's number; a write to a read-only register raises ILLEGAL_INSTR. -/
theorem test_csr : gAfter (exec (.csrr 0 3 0 8) (lab 5 [])) 5 3 = 5 ∧
    (stateOf (exec (.csrw 0 3 1 8) (lab 5 []))).me.cause.toNat % 256 = cILLEGAL := by decide +kernel
/-- R136: off10 is scaled by the size and signed. -/
theorem test_offset_scaled :
    gAfter (exec (.ld 0 3 1 3 0x3F8) (withSpad (lab 0 [(1, own 128)]) 64 [7])) 0 3 = 7 := by decide +kernel
/-- R154: MBPUT fills the register and MBGET empties it. -/
theorem test_mailbox :
    ((stateOf (exec (.mbput 0 3 1 0) (lab 0 [(1, 42)]))).core 0).mb.toList.getD 3 none = some 42 ∧
    gAfter (exec (.mbget 0 5 3 0) (labCore 0 [] fun c => { c with mb := c.mb.setIfInBounds 3 (some 9) })) 0 5 = 9 := by decide +kernel
/-- R44, R45: HIMM lies above the immediate of the instruction of its chain. -/
theorem test_himm : gAfter (exec (.addi 0 3 0 0x89A) (labThread 0 [] fun t => { t with chain := some ⟨0xFC, 0, none, [1]⟩ })) 0 3 = 0x189A := by decide +kernel
/-- R12: SPAWN by a work thread raises ILLEGAL_INSTR. -/
theorem test_role : (stateOf (exec (.spawn 0 0 1 2) (lab 3 []))).me.cause.toNat % 256 = cILLEGAL := by decide +kernel
/-- R263: LSET writes the low 32 bits into the loop register. -/
theorem test_lset : ((stateOf (exec (.lset 0 1 3 0) (lab 0 [(1, 0x1FFFFFFFF)]))).core 0).tile.loops.toList.getD 3 0 = 0xFFFFFFFF := by decide +kernel
/-- R405: PLIM within 600 to 2,100 on an OZN-3. -/
theorem test_plim : (stateOf (exec (.plimWrite 2100) { State.reset with form := 3 })).plim = 2100 ∧
    (stateOf (exec (.plimWrite 2101) { State.reset with form := 3, plim := 1000 })).plim = 1000 := by decide +kernel

/-! ## Witnesses: a state and operands that meet the hypotheses of each statement -/

/-- A computable form of `Arrived`. -/
def arrivedB (f : Form) (s : State) : Bool :=
  s.meth.isSome || (!postedWaits (atIssue s) s.cur && (lateRead s.me (issueCycle (atIssue s) s.cur) (f.waitsFor s.me) (f.allReads s.me)).isNone)

theorem arrived_of {f : Form} {s : State} (h : arrivedB f s = true) : Arrived f s := by
  intro hm
  simpa [arrivedB, hm] using h

/-- A computable form of `Admits`. -/
def admitsB (f : Form) (s : State) : Bool :=
  decide (s.cur.thr < 16) && (f.role.admits s.cur.thr || s.meth.isSome) && arrivedB f s

theorem admits_of {f : Form} {s : State} (h : admitsB f s = true) : Admits f s := by
  simp only [admitsB, Bool.and_eq_true, decide_eq_true_eq, Bool.or_eq_true] at h
  exact ⟨h.1.1, h.1.2, arrived_of h.2⟩

/-- A computable form of `Issues`. -/
def issuesB (f : Form) (s : State) : Bool :=
  admitsB f s && (!s.me.chk || (firstShort s.me (f.allReads s.me)).isNone) && (!f.guarded || (s.me.readK s.me.predIx).getLsbD 0) &&
    (match taskOf s s.cur with | some y => f.cls != .forbid && (f.cls != .irrev || y.prot) | none => true) &&
    (!f.home || s.me.homeOf.isNone)

theorem issues_of {f : Form} {s : State} (h : issuesB f s = true) : Issues f s := by
  simp only [issuesB, Bool.and_eq_true, Bool.or_eq_true, Bool.not_eq_true', Option.isNone_iff_eq_none] at h
  obtain ⟨⟨⟨⟨h1, h2⟩, h3⟩, h4⟩, h5⟩ := h
  obtain ⟨ha, hr, hv⟩ := admits_of h1
  refine ⟨ha, hr, hv, fun hc => h2.resolve_left (by simp [hc]), fun hg => h3.resolve_left (by simp [hg]), fun _ y hy => ?_,
    fun hh => h5.resolve_left (by simp [hh])⟩
  rw [hy] at h4
  simp only [Bool.and_eq_true, bne_iff_ne, Bool.or_eq_true] at h4
  exact ⟨h4.1, fun hc => h4.2.resolve_left (by simp [hc])⟩

/-- Each form issues in the state beside it. -/
def AllIssue (ps : List (Form × State)) : Prop := ∀ p ∈ ps, Issues p.1 p.2

theorem allIssue_of {ps : List (Form × State)} (h : (ps.all fun p => issuesB p.1 p.2) = true) : AllIssue ps :=
  fun p hp => issues_of (List.all_eq_true.mp h p hp)

/-- An access is tracked as each pair says (a read, a write), and the journal of a method has room. -/
def trackedB (y : State) (t : Tid) (kind : Via) (ks : List Nat) : List (Bool × Bool) → Bool
  | [] => (methJournal y ks).toOption.isSome
  | (rd, wr) :: m => match track y t kind ks rd wr with
    | .ok z => trackedB z t kind ks m
    | .error _ => false

/-- The check of an access and its tracking succeed, with as many bytes as asked for. -/
def reachB (y : State) (t : Tid) (addr : Word) (size need : Nat) (align : Bool) (atom : Option (Nat × Bool)) (m : List (Bool × Bool)) : Bool :=
  match access y t addr size need align atom with
  | .ok (kind, ks) => ks.length == size && trackedB y t kind ks m
  | .error _ => false

theorem reach_of {y : State} {t : Tid} {addr : Word} {size need : Nat} {align : Bool} {atom : Option (Nat × Bool)} {rd wr : Bool}
    (h : reachB y t addr size need align atom [(rd, wr)] = true) :
    ∃ kind ks z z', ks.length = size ∧ Reaches y t addr size need align atom rd wr kind ks z ∧ methJournal z ks = .ok z' := by
  unfold reachB at h
  split at h
  next kind ks e =>
    simp only [Bool.and_eq_true, beq_iff_eq, trackedB] at h
    obtain ⟨h1, h2⟩ := h
    split at h2
    next z ht =>
      cases hj : methJournal z ks with
      | error x => rw [hj] at h2; cases h2
      | ok z' => exact ⟨kind, ks, z, z', h1, ⟨e, ht⟩, hj⟩
    next => cases h2
  next => cases h

/-- Whether a check of an instruction lets it go on. -/
def holdsB {α : Type} (x : Except Stop α) : Bool := match x with | .ok _ => true | .error _ => false

/-- Thread 1 runs an ordered task, protected or not. -/
def inTask (p : Bool) : State :=
  let s := labThread 1 [(1, own 64), (2, 8)] fun t => { t with task := .ordered 5 0 }
  let u := s.unit (unitOf s s.cur)
  s.setUnit (unitOf s s.cur) { u with domain := { u.domain with tasks := [⟨5, 0, ⟨0, 0, 0, 0, 0⟩, none, .running, p, 0, 1, 0, [], [], []⟩] } }

/-- Sett 0 with one of its parts changed. -/
def labSett (s : State) (f : Sett → Sett) : State := s.setSett 0 (f (s.sett 0))

/-- Fields of a block in the own scratchpad: offset in the block, value and size. -/
def withBlock (s : State) (off : Nat) (es : List (Nat × Nat × Nat)) : State := es.foldl (fun s e => withSpad s (off + e.1) (leBytes e.2.1 e.2.2)) s

/-- The thread's read-modify-write of 8 bytes at an address, at home (R194). -/
def rmwB (z : State) (t : Tid) (addr : Word) (scope : Nat) (g : Nat → Option Nat) : Bool :=
  match accessHere z t addr 8 rAMO true (some (scope, false)) with
  | .ok k => holdsB (rmwAt z t k 8 g)
  | .error _ => false

/-- g1 is owed until cycle 1000. -/
def owedRead : State := labThread 0 [] fun t => { t with owed := [⟨.g, 1, 1000, .no⟩] }

theorem getD_all {α : Type} {p : α → Bool} {d : α} : ∀ {m : KMap α}, (m.all fun e => p e.2) = true → p d = true → ∀ i, p (m.getD i d) = true
  | [], _, hd, _ => hd
  | (k, v) :: m, h, hd, i => by
    simp only [List.all_cons, Bool.and_eq_true] at h
    have := getD_all (m := m) h.2 hd i
    simp only [KMap.getD, KMap.find?] at this ⊢
    repeat' split
    all_goals first | exact h.1 | exact hd | exact this

/-- A computable form of `MemoryWf`. -/
theorem memoryWf_of {s : State} (h : (s.dram.wf && s.archive.wf && s.outside.wf && (s.cores.all fun e => e.2.spad.wf) &&
    (s.setts.all fun e => e.2.mem.wf)) = true) : MemoryWf s := by
  simp only [Bool.and_eq_true] at h
  exact ⟨h.1.1.1.1, h.1.1.1.2, h.1.1.2, getD_all (p := fun c : VCore => c.spad.wf) h.1.2 rfl, fun i => getD_all (p := fun x : Sett => x.mem.wf) h.2 rfl i⟩

/-- The memory of the laboratory is in canonical form, and lists a byte of it. -/
theorem witness_memory : MemoryWf (withSpad (lab 0 []) 64 [5]) ∧ (readPlaces (withSpad (lab 0 []) 64 [5]) [64] = [5] ∧ (span 64 8).Nodup) :=
  ⟨memoryWf_of (by decide +kernel), by decide +kernel⟩

/-- A copy of one row of 64 bytes within the own scratchpad, with CTRL. -/
def copyBlock (s : State) (ctrl : Nat) : State :=
  withBlock s 64 [(0, (own 256).toNat, 8), (8, (own 512).toNat, 8), (16, 64, 4), (20, 1, 2), (22, 1, 2), (40, ctrl, 4)]

/-- That copy in the queue, in one of its phases. -/
def labCopy (s : State) (p : CopyPhase) : Copy :=
  ⟨0, 0, 1, ⟨0, 14⟩, readPlaces s (span 64 64), false, 0, 0, s.me.segBase, s.me.segLimit, false, p, 0, 0, 0, none, [], false, 0, false, none, []⟩

theorem witness_DecodeEncode : encode (.add 2 4 4 24) = some 0x02884C00 ∧ (Instr.add 2 4 4 24).wellFormed = true := ⟨rfl, rfl⟩

theorem witness_EncodeDecode : decodeWord 0x02884C00 = .ok (.add 2 4 4 24) := rfl

theorem witness_StepRunsDecoded :
    let s : State := { State.reset.withFetchWord 32 0x06060005 with agenda := [.thread ⟨0, 0⟩] }
    let a : State := { s with agenda := [] }
    let z := residentSlot { endYield a ⟨0, 0⟩ with cur := ⟨0, 0⟩ } 0
    (gts s < s.refillAt ∧ (z.thread ⟨0, 0⟩).owedTrap = none ∧ mayIssue a ⟨0, 0⟩ = true ∧ asyncReady z ⟨0, 0⟩ = false ∧ (z.thread ⟨0, 0⟩).homeOf = none ∧ (z.thread ⟨0, 0⟩).stepOne = false ∧
      (breakCheck z ⟨0, 0⟩).2 = none) ∧
    fetchWord (breakCheck z ⟨0, 0⟩).1 ⟨0, 0⟩ = .ok 0x06060005 ∧ decodeWord 0x06060005 = .ok (.addi 0 3 0 5) :=
  ⟨by decide +kernel, by decide +kernel, rfl⟩

theorem witness_UnallocatedWordsRaise : (∃ e, decodeWord 0 = .error e) ∧ Unheld (lab 0 []) ∧ Unheld (lab 3 []) ∧
    ((Instr.hmod 0 5 0 0 0 0 0).wellFormed = false ∧ (Instr.hschIdle 0 4).wellFormed = false ∧ (lab 0 []).me.inh = false ∧
      Role.admits .t0 (lab 3 []).cur.thr = false ∧ (lab 3 []).meth = none ∧
      (lab 0 []).cur.thr < 16 ∧ (lab 0 []).meth = none ∧ (lab 0 []).me.homeOf = none ∧ taskOf (lab 0 []) ⟨0, 0⟩ = none ∧
      lateRead (lab 0 []).me (issueCycle (atIssue (lab 0 [])) ⟨0, 0⟩) .slow [] = none) :=
  ⟨⟨_, rfl⟩, fun _ => by decide +kernel, fun _ => by decide +kernel, by decide +kernel⟩

/-- The current thread's guard is k1, which is false. -/
def falseGuard : State := labThread 0 [] fun t => { t with chain := some ⟨0xFC, 0, some (BitVec.ofNat 25 (2 ^ 22)), []⟩ }

theorem witness_FalseGuardPasses : Admits (gForm [1, 2]) falseGuard ∧ Admits { cls := .irrev, awaits := .slow } falseGuard ∧
    (falseGuard.me.chk = false ∧ (falseGuard.me.readK falseGuard.me.predIx).getLsbD 0 = false) :=
  ⟨admits_of (by decide +kernel), admits_of (by decide +kernel), by decide +kernel⟩

/-- g1 and v1 are still to be written two slots later, and TCTL.CHK is 1. -/
def shortRead : State := labThread 0 [] fun t => { t with
  tctl := 1
  dist := 5
  pend := [⟨.g, 1, BitVec.allOnes 512, 0, 7, .vec, 0⟩, ⟨.v, 1, BitVec.allOnes 512, 0, 7, .vec, 0⟩] }

theorem witness_ShortReadsRaise :
    let p : VPos := { a := some 1, b := some 2 }
    Admits (gForm [1, 2]) shortRead ∧ Arrived (p.form [(.k, 0)] shortRead) shortRead ∧
    (shortRead.me.chk = true ∧ firstShort shortRead.me ((gForm [1, 2]).allReads shortRead.me) = some (BitVec.ofNat 64 (1 + 256 * 2)) ∧
      firstShort shortRead.me (p.form [(.k, 0)] shortRead).reads = some (BitVec.ofNat 64 (1 + 32 + 256 * 2)) ∧
      shortfall .g 1 5 shortRead.me.pend = some 2 ∧ owedRead.cur.thr < 16 ∧ owedRead.meth = none ∧ owedRead.me.ordMod ≠ 2 ∧
      postedWaits (atIssue owedRead) owedRead.cur = false ∧
      lateRead owedRead.me (issueCycle (atIssue owedRead) owedRead.cur) .none ((gForm [1]).allReads owedRead.me) = some 1000 ∧
      (owedRead.me.owed.map (·.due)).min? = some 1000) :=
  ⟨admits_of (by decide +kernel), arrived_of (by decide +kernel), by decide +kernel⟩

theorem witness_TrapEntry :
    let s := labThread 0 [] fun t => { t with tvec := 0x200 }
    let s' := labThread 0 [] fun t => { t with tctl := 0x10 }
    s.meth = none ∧ ctxOf s ⟨0, 0⟩ ≠ 0 ∧ (s.thread ⟨0, 0⟩).inh = false ∧ (s.thread ⟨0, 0⟩).tvec >>> 2 ≠ 0 ∧
    (s.ctx (ctxOf s ⟨0, 0⟩)).reflect.getLsbD (cILLEGAL / 16) = false ∧ cILLEGAL ≠ cSYSCALL ∧ cILLEGAL ≠ cDOUBLE_TRAP ∧ cILLEGAL < 256 ∧
    ctxOf s' ⟨0, 0⟩ ≠ 0 ∧ s'.meth = none ∧ (s'.thread ⟨0, 0⟩).inh = true := by decide +kernel

theorem witness_EretReturns :
    let s := labThread 0 [] fun t => { t with epc := 0x300, tctl := 0x10 }
    Issues { home := true, awaits := .divide } s ∧ s.me.inh = true := ⟨issues_of (by decide +kernel), by decide +kernel⟩

/-- The register operands of integer, field, move, compare and predicate instructions. -/
theorem witness_IntegerArithmetic : AllIssue [(gForm [1, 2], lab 0 []), (gForm [1], lab 0 []), (gForm [3, 1, 2], lab 0 [])] :=
  allIssue_of (by decide +kernel)

theorem witness_BitFields : AllIssue [(gForm [1, 2], lab 0 []), (gForm [3, 1, 2], lab 0 [])] := allIssue_of (by decide +kernel)

/-- No HIMM, one and two of them before an instruction. -/
theorem witness_Immediates : Issues (gForm [1]) (lab 0 []) ∧
    ((lab 0 []).me.himm = [] ∧ (labThread 0 [] fun t => { t with chain := some ⟨0xFC, 0, none, [1]⟩ }).me.himm = [1] ∧
      (labThread 0 [] fun t => { t with chain := some ⟨0xF8, 0, none, [2, 1]⟩ }).me.himm = [2, 1]) :=
  ⟨issues_of (by decide +kernel), by decide +kernel⟩

theorem witness_ComparesAndPredicates : AllIssue [(gForm [1, 2], lab 0 []), (gForm [1], lab 0 []), (kForm [1, 2], lab 0 []),
    (kForm [1], lab 0 []), (kForm (List.range 8), lab 0 []), ({ reads := [(.v, 1)] }, lab 0 [])] := allIssue_of (by decide +kernel)

/-- A divisor of 0 and one of −1 for the most negative number. -/
theorem witness_MultiplyDivide : AllIssue [(gForm [1, 2], lab 0 [(1, 7)]),
    (gForm [1, 2], lab 0 [(1, 0x8000000000000000), (2, BitVec.allOnes 64)])] ∧ (lab 0 [(1, 7)]).me.readG 2 = 0 :=
  ⟨allIssue_of (by decide +kernel), by decide +kernel⟩

theorem witness_BranchTaken : AllIssue [({ kForm [1] with guarded := false }, lab 0 []), ({ kForm [0] with guarded := false }, lab 0 [])] ∧
    (lab 0 []).me.pc.toNat % 4 = 0 := ⟨allIssue_of (by decide +kernel), by decide +kernel⟩

theorem witness_JumpsAndCalls : AllIssue [(gForm [], lab 0 []), (gForm [1], lab 0 [(1, 0x203)])] ∧ (lab 0 [(1, 0x203)]).me.pc.toNat % 4 = 0 :=
  ⟨allIssue_of (by decide +kernel), by decide +kernel⟩

/-- The SC window of a waiting access has closed (R81). -/
def windowClosed : State := labThread 0 [] fun t => { t with scGo := true }

theorem witness_HintsFencesPrefetch : AllIssue [({}, windowClosed), (gForm [1], lab 0 [])] ∧ OrderOpen windowClosed 3 ∧
    ((lab 0 []).cur.thr < 16 ∧ (Instr.hmod 0 0 0 0 0 0 0).wellFormed = true ∧ tileHolds ((atIssue (lab 0 [])).core 0).tile 0 = false) :=
  ⟨allIssue_of (by decide +kernel), fun _ => .inr (by decide +kernel), by decide +kernel⟩

theorem witness_ControlRegisterReads :
    AllIssue [({ home := true, awaits := csrAwaits 8 }, lab 0 []), ({ home := false, awaits := csrAwaits 6 }, lab 0 [])] ∧
    (csrAddr (lab 0 []).me 8 = 8 ∧ csrExists 8 = true ∧ csrAddr (lab 0 []).me 6 = 6 ∧ csrExists 6 = true ∧
      csrAddr (lab 0 []).me 7 = 7 ∧ csrExists 7 = false) :=
  ⟨allIssue_of (by decide +kernel), by decide +kernel⟩

/-- TVEC takes a value; SHFMT0 refuses 9 for its format and takes 8; TID is read-only. -/
theorem witness_ControlRegisterWrites :
    let f : Form := { gForm [1] with home := true, awaits := csrAwaits 4 }
    let g : Form := { gForm [1] with cls := .irrev, home := true, awaits := csrAwaits 0x20 }
    AllIssue [(f, lab 0 [(1, 0x207)]), (g, lab 0 [(1, 9)]), (g, lab 0 [(1, 8)])] ∧
    ((csrWrite (begun f (lab 0 [(1, 0x207)])) ⟨0, 0⟩ 4 0x207).isSome = true ∧ (csrWrite (begun g (lab 0 [(1, 9)])) ⟨0, 0⟩ 0x20 9).isNone = true ∧
      (csrWrite (begun g (lab 0 [(1, 8)])) ⟨0, 0⟩ 0x20 8).isSome = true ∧
      (csrWrite (lab 0 []) ⟨0, 0⟩ 0x2F 8).isSome = true ∧ (csrWrite (lab 0 []) ⟨0, 0⟩ 0x4E 0).isSome = true ∧
      (csrWrite (lab 0 []) ⟨0, 0⟩ 0x41 (BitVec.allOnes 64)).isSome = true ∧ csrRO 8 = true ∧ (lab 0 []).meth = none) :=
  ⟨allIssue_of (by decide +kernel), by decide +kernel⟩

/-- Break stops armed for context 1. -/
def breakArmed (p : Bool) : State :=
  let s := labThread 0 [] fun t => { t with passBreak := p }
  s.setCtx 1 { s.ctx 1 with spoor := 0x20 }

/-- Thread 1 of core 0, away from its home, thread 0 of core 8. -/
def awayThread : State := labThread 1 [] fun t => { t with homeOf := some ⟨8, 0⟩ }

theorem witness_SystemCalls :
    let f : Form := { cls := .irrev }
    AllIssue [({ f with awaits := .slow }, lab 0 []), ({ f with awaits := .slow }, awayThread), (f, lab 0 []), (f, breakArmed true), (f, breakArmed false),
      (f, labThread 0 [] fun t => { t with passBrk := true })] ∧
    Admits { awaits := .slow } (inTask false) ∧ Admits {} (inTask false) ∧
    ((labThread 0 [] fun t => { t with passBrk := true }).me.passBrk = true ∧ (lab 0 []).me.passBrk = false ∧ (lab 0 []).me.homeOf = none ∧ awayThread.me.homeOf = some ⟨8, 0⟩ ∧
      (bit ((begun f (lab 0 [])).ctx (ctxOf (begun f (lab 0 [])) ⟨0, 0⟩)).spoor 5 = false ∧ (lab 0 []).meth = none ∧
        lateRead (lab 0 []).me (issueCycle (atIssue (lab 0 [])) ⟨0, 0⟩) .slow [] = none) ∧
      bit ((begun f (breakArmed true)).ctx (ctxOf (begun f (breakArmed true)) ⟨0, 0⟩)).spoor 5 = true ∧
      (breakArmed true).me.passBreak = true ∧ (breakArmed false).me.passBreak = false ∧
      bit ((begun f (breakArmed false)).ctx (ctxOf (begun f (breakArmed false)) ⟨0, 0⟩)).spoor 5 = true ∧
      (inTask false).meth = none ∧ (inTask false).me.chk = false ∧ ((inTask false).me.readK (inTask false).me.predIx).getLsbD 0 = true ∧
      ((taskOf (begun {} (inTask false)) ⟨0, 1⟩).map (·.prot)) = some false) :=
  ⟨allIssue_of (by decide +kernel), admits_of (by decide +kernel), admits_of (by decide +kernel), by decide +kernel⟩

/-- A pending trap; two threads of one core announced SC accesses. -/
theorem witness_TrapsAndWindows :
    let x : AsyncTrap := ⟨0, 0, cCORE_SOFT_ERROR, 0⟩
    let s := labThread 0 [] fun t => { t with asyncq := [x] }
    asyncReady s ⟨0, 0⟩ = true ∧ (s.thread ⟨0, 0⟩).asyncq = [x] ∧ asyncReady (lab 0 []) ⟨0, 0⟩ = false ∧
    (s.thread ⟨0, 0⟩).homeOf = none ∧ (s.thread ⟨0, 0⟩).asyncq.length < 8 ∧
    (s.thread ⟨0, 0⟩).asyncq.Pairwise (fun a b => asyncLe a b = true) ∧ scWaiting (lab 0 []) = [] ∧
    ((scWaiting (labThread 0 [] fun t => { t with run := .parkedSync (.window 3 1) 0 })).map (·.1)).min? = some 3 := by decide +kernel

/-- An aligned and an unaligned load of a mapped byte, one whose check fails by its alignment and one by its segment. -/
theorem witness_Loads :
    let s := lab 0 [(1, own 64)]
    let y := begun (gForm [1]) s
    Issues (gForm [1]) s ∧ OrderOpen s s.me.ordMod ∧
    (s.me.ordMod = 0 ∧ reachB y s.cur (own 64) 8 rRD false none [(true, false)] = true ∧
      reachB y s.cur (own 64) 8 rRD true none [(true, false)] = true ∧ (Instr.ldo 0 3 1 3 1 0 0).wellFormed = true ∧
      holdsB (access y s.cur (own 65) 8 rRD true none) = false ∧ holdsB (access y s.cur 0x1000 8 rRD false none) = false) :=
  ⟨issues_of (by decide +kernel), (fun h => absurd h (by decide +kernel)), by decide +kernel⟩

/-- HMOD's ORD names an acquire or a release: a load's forbidden order is a release, a store's an acquire. -/
theorem witness_orders : (labThread 0 [] fun t => { t with chain := some ⟨0xFC, 0, some (BitVec.ofNat 25 (2 * 2 ^ 12)), []⟩ }).me.ordMod = 1 ∧
    (labThread 0 [] fun t => { t with chain := some ⟨0xFC, 0, some (BitVec.ofNat 25 (3 * 2 ^ 12)), []⟩ }).me.ordMod = 2 := by decide +kernel

theorem witness_StoresWriteBytes :
    let s := lab 0 [(1, own 64), (2, 5)]
    let y := begun (gForm [2, 1]) s
    Issues (gForm [2, 1]) s ∧ OrderOpen s s.me.ordMod ∧ OrderOpen s 2 ∧
    (s.me.ordMod = 0 ∧ (Instr.sto 0 2 1 3 2 0 0).wellFormed = true ∧ reachB y s.cur (own 64) 8 rWR true none [(false, true)] = true ∧
      reachB y s.cur (own 65) 8 rWR false none [(false, true)] = true ∧ drainPosted y s.cur = y ∧
      holdsB (access y s.cur (own 65) 8 rWR true none) = false ∧ holdsB (access y s.cur 0x1000 8 rWR false none) = false) :=
  ⟨issues_of (by decide +kernel), (fun h => absurd h (by decide +kernel)), (fun h => by cases h), by decide +kernel⟩

/-- CAS on a word that differs from gT and on one that equals it. -/
theorem witness_Atomics :
    let s := lab 0 [(1, own 64), (2, 5)]
    let fc : Form := { reads := [(.g, 2), (.g, 3), (.g, 1)] }
    let y := begun (gForm [2, 1]) s
    let z := begun fc s
    AllIssue [(gForm [2, 1], s), (fc, s)] ∧ OrderOpen s 0 ∧
    ((Instr.amoAdd 0 2 1 3 0 0).wellFormed = true ∧
      reachB y s.cur (own 64) 8 rAMO true (some (awayScope y s.cur 0, false)) [(true, false), (true, true)] = true ∧
      (Instr.cas 0 2 1 3 0 0).wellFormed = true ∧
      reachB z s.cur (own 64) 8 rAMO true (some (awayScope z s.cur 0, false)) [(true, false), (true, true)] = true ∧
      holdsB (track z s.cur ⟨2, none⟩ (span 64 8) true true false) = true ∧ leNat (readPlaces z (span 64 8)) = 0 ∧ leNat (readPlaces (withSpad z 64 [5]) (span 64 8)) = 5) :=
  ⟨allIssue_of (by decide +kernel), (fun h => by cases h), by decide +kernel⟩

/-- g2 at the start of the stack segment: ENTER by 64 units of 64 bytes reaches its limit of 4,096; 65 units pass it; LEAVE by 0 and
by 1; a stack segment that is not there. -/
theorem witness_StackFrames :
    let f : Form := { reads := [(.g, 2)] }
    let s := lab 0 [(2, 0xE000000000000000)]
    let none_ := labThread 0 [(2, 0xE000000000000000)] fun t => { t with segBase := Vector.replicate 8 0 }
    AllIssue [(f, s), (f, none_)] ∧
    (s.me.himm = [] ∧ (s.me.readG 2).toNat / 2 ^ 61 = 7 ∧ segKind (viewOf (begun f s) s.cur) 0xE000000000000000 = 7 ∧
      field ((viewOf (begun f s) s.cur).segLimit.toList.getD 7 0) 47 0 = 4096 ∧ (s.me.readG 2).toNat % 2 ^ 61 = 0 ∧
      none_.meth = none ∧ segKind (viewOf (begun f none_) s.cur) 0xE000000000000000 = 0) :=
  ⟨allIssue_of (by decide +kernel), by decide +kernel⟩

/-- WAITA on a word that differs from gT and on one that equals it; a signal object at 0 and at 5; checks that fail. -/
theorem witness_WaitsOnMemory :
    let s := lab 0 [(1, own 64), (2, 3)]
    let fw : Form := { gForm [2, 1] with cls := .irrev }
    let f : Form := { gForm [1] with cls := .irrev }
    let fd : Form := { gForm [1, 2] with cls := .irrev }
    let sc (f : Form) (n : Nat) (b : Bool) : Option (Nat × Bool) := some (awayScope (begun f s) s.cur n, b)
    AllIssue [(fw, s), (f, s), (fd, s)] ∧ OrderOpen s 1 ∧
    ((Instr.waita 0 2 1 3 1 0).wellFormed = true ∧ reachB (begun fw s) s.cur (own 64) 8 rRD true (sc fw 0 true) [(true, false)] = true ∧
      holdsB (access (begun fw s) s.cur (own 65) 8 rRD true (sc fw 0 true)) = false ∧
      leNat (readPlaces s (span 64 8)) = 0 ∧ leNat (readPlaces (withSpad s 64 [3]) (span 64 8)) = 3 ∧
      (access (begun f s) s.cur (own 64) 16 rRD true none).toOption = some (⟨2, none⟩, span 64 16) ∧
      (access (begun f s) s.cur (own 64) 16 rRD true (sc f (attrScope 0) true)).toOption = some (⟨2, none⟩, span 64 16) ∧
      trackedB (begun f s) s.cur ⟨2, none⟩ (span 64 8) [(true, false)] = true ∧
      holdsB (access (begun f s) s.cur (own 72) 16 rRD true none) = false ∧
      (access (begun fd s) s.cur (own 64) 16 rAMO true none).toOption = some (⟨2, none⟩, span 64 16) ∧
      (access (begun fd s) s.cur (own 64) 16 rAMO true (sc fd (attrScope 0) false)).toOption = some (⟨2, none⟩, span 64 16) ∧
      trackedB (drainPosted (begun fd s) s.cur) s.cur ⟨2, none⟩ (span 64 8) [(true, true)] = true ∧
      holdsB (access (begun fd s) s.cur (own 72) 16 rAMO true none) = false) :=
  ⟨allIssue_of (by decide +kernel), (fun h => by cases h), by decide +kernel⟩

/-- Empty and full mailbox registers. -/
theorem witness_MailAndRegisters_registers :
    let s := lab 0 [(1, own 64)]
    let f : Form := { gForm [1] with cls := .irrev, home := true }
    let g : Form := { cls := .irrev, home := true }
    let full := labCore 0 [(1, own 64)] fun c => { c with mb := c.mb.setIfInBounds 3 (some 9) }
    AllIssue [(f, s), (f, full), (g, full), (g, s)] ∧
    (s.meth = none ∧ ((begun f s).core 0).mb.toList.getD 3 none = none ∧ isFirst (begun f s) s.cur (.mail true 3) = true ∧
      ((drainPosted (begun f s) s.cur).core 0).thread 0 = ((begun f s).core 0).thread 0 ∧
      (((begun f full).core 0).mb.toList.getD 3 none).isSome = true ∧ ((begun g full).core 0).mb.toList.getD 3 none = some 9 ∧
      isFirst (begun g full) full.cur (.mail false 3) = true ∧ ((begun g s).core 0).mb.toList.getD 3 none = none) :=
  ⟨allIssue_of (by decide +kernel), by decide +kernel⟩

/-- A message of a type below 0x80 to core 0, a core outside the domain, a scale message of no entry, one of 12 and of 13; a message
waiting and none; flights that land in an inbox with room and in a full one. -/
theorem witness_MailAndRegisters_messages :
    let s := lab 0 [(1, own 64), (2, 0)]
    let f : Form := { gForm [1, 2] with cls := .irrev, home := true }
    let g : Form := { gForm [1] with cls := .irrev, home := true }
    let m : Msg := ⟨List.replicate 64 0, 0, false⟩
    let waits := labCore 0 [(1, own 64)] fun c => { c with inbox := [m] }
    let x := settlePosted (begun f s) s.cur (span 64 64)
    let scale (n : Nat) := begun f (withSpad (lab 0 [(1, own 64), (2, 0x800000)]) 65 [BitVec.ofNat 8 n])
    let at_ (fl : Flight) (n : Nat) : State := { labCore 0 [] (fun c => { c with inbox := List.replicate n m }) with flights := [fl] }
    AllIssue [(f, s), (g, s), (g, waits), ({ home := true }, s), (f, lab 0 [(1, own 64), (2, 0x800000)]), (f, lab 0 [(1, own 64), (2, 0x810000)])] ∧
    ((ownBlock (begun f s) s.cur (own 64) 64 64 rRD).toOption = some (⟨2, none⟩, span 64 64) ∧ (destVcs 0).mapM (destCore x s.cur) = some [0] ∧
      trackedB x s.cur ⟨2, none⟩ (span 64 64) [(true, false)] = true ∧ (destVcs 5).mapM (destCore x s.cur) = none ∧
      (0x810000 : Word).toNat / 65536 % 256 = 0x81 ∧ (0x800000 : Word).toNat / 65536 % 256 = 0x80 ∧
      [0, 12, 13].all (fun n => blkNat (readPlaces (settlePosted (scale n) ⟨0, 0⟩ (span 64 64)) (span 64 64)) 1 1 == n) = true ∧
      (ownBlock (begun g s) s.cur (own 64) 64 64 rWR).toOption = some (⟨2, none⟩, span 64 64) ∧ popMessage ((begun g s).core 0) 0 = none ∧
      (popMessage ((begun g waits).core 0) 0).map (fun r => (r.1, decide (r.1.length = 64),
        trackedB ((begun g waits).setCore 0 r.2.2) ⟨0, 0⟩ ⟨2, none⟩ (span 64 64) [(false, true)])) = some (m.body, true, true) ∧
      isFirst (begun g waits) waits.cur (.recv (msgClass 0)) = true ∧
      (at_ (.msg ⟨0, 0⟩ 0 m false) 63).flights[0]? = some (.msg ⟨0, 0⟩ 0 m false) ∧       parkedAhead (at_ (.msg ⟨0, 0⟩ 0 m false) 63) 0 0 = false ∧ ((at_ (.msg ⟨0, 0⟩ 0 m false) 63).core 0).inbox.length = 63 ∧
      ((at_ (.msg ⟨0, 0⟩ 0 m false) 64).core 0).inbox.length = 64 ∧ parkedAhead (at_ (.scale ⟨0, 0⟩ 0 m.body false) 0) 0 0 = false ∧
      awaitsClock (at_ (.msg ⟨0, 0⟩ 0 m false) 63) ⟨0, 0⟩ 0 false = false ∧ awaitsClock (at_ (.scale ⟨0, 0⟩ 0 m.body false) 0) ⟨0, 0⟩ 0 false = false) :=
  ⟨allIssue_of (by decide +kernel), by decide +kernel⟩

/-- A posted store to the sett, aligned and not, and with the journal full; an entry refused; a store in flight. -/
theorem witness_PostedStoresMigrationScales_stores :
    let s := lab 3 [(1, inSett 64), (2, 7)]
    let f : Form := { gForm [2, 1] with cls := .irrev, home := true }
    let g : Form := { gForm [1] with cls := .irrev, home := true }
    let full := labCore 3 [(1, inSett 64)] fun c => { c with journal := Vector.replicate 32 ⟨true, false, 3, 0⟩ }
    let refused := labCore 3 [] fun c => { c with journal := c.journal.setIfInBounds 0 ⟨true, true, 3, 64⟩ }
    let v := viewOf (begun f s) s.cur
    let free (y : State) (i : Nat) : Bool := !((y.core 0).journal.toList.getD i ⟨false, false, 0, 0⟩).busy
    let entry (y : State) := (y.core 0).journal.toList.getD 0 ⟨false, false, 0, 0⟩
    let places (a : Word) : Bool := match segCheck (begun f s) v a 8 rWR with
      | .ok r => (match postedPlaces (begun f s) v a 8 r with | .ok (_ :: _) => true | _ => false)
      | _ => false
    let at_ : State := { s with flights := [.psto ⟨0, 3⟩ 0 1 (2 ^ 64 + 64) 0 8 7 false 0 none] }
    AllIssue [(f, s), (f, full), (g, refused), (g, s)] ∧
    ((Instr.psto 0 2 1 3 0 0).wellFormed = true ∧ segKind v (inSett 64) = 4 ∧ places (inSett 64) = true ∧ places (inSett 65) = true ∧
      (inSett 64).toNat % 8 = 0 ∧ (inSett 65).toNat % 8 ≠ 0 ∧ (List.range 32).find? (free (begun f s)) = some 0 ∧
      (List.range 32).find? (free (begun f full)) = none ∧
      ((entry (begun g refused)).busy && (entry (begun g refused)).refused && (entry (begun g refused)).thr == 3) = true ∧
      (entry (begun g s)).busy = false ∧ at_.flights.take 0 = [] ∧ settClock at_ 0 = true ∧
      insideChain at_ (unitOf at_ ⟨0, 3⟩) (postedHits at_ ⟨0, 3⟩ (2 ^ 64 + 64) 8 none) = false) :=
  ⟨allIssue_of (by decide +kernel), by decide +kernel⟩

/-- MIGR on a work thread; HOMEC at home and away; SCLD of one block, of none and of too many; a packet whose context holds the core and
one whose context does not; a trap pending at the home of an away thread. -/
theorem witness_PostedStoresMigrationScales_migration :
    let s := lab 3 [(1, own 0), (2, 0x10000)]
    let f : Form := { gForm [1, 2] with cls := .irrev, home := true }
    let away := labThread 3 [] fun t => { t with homeOf := some ⟨8, 1⟩ }
    let called := away.setThread ⟨8, 1⟩ { away.thread ⟨8, 1⟩ with asyncq := [⟨0, 0, cCORE_SOFT_ERROR, 0⟩] }
    let two (a b : Nat) : Bool := match accessHere (begun f s) s.cur (own 0) a rRD false none, accessHere (begun f s) s.cur (own 0 + 256) b rRD false none with
      | .ok x, .ok y => trackedB (begun f s) s.cur x.1 x.2 [(true, false)] && trackedB (begun f s) s.cur y.1 y.2 [(true, false)]
      | _, _ => false
    AllIssue [({ gForm [1] with role := .work, cls := .forbid }, s), ({}, s), ({ awaits := .slow }, away), (f, s), (f, lab 3 [(2, 0)]),
      (f, lab 3 [(2, 0x10FF)])] ∧
    (s.me.homeOf = none ∧ away.me.homeOf = some ⟨8, 1⟩ ∧ two 1 4 = true ∧ (0x10000 : Word).toNat / 65536 % 512 = 1 ∧
      (((s.ctx (ctxOf s ⟨0, 3⟩)).setts.any fun p => p.2 == settOf 0) = true) ∧
      ((List.range 12).find? (fun i => (s.thread ⟨0, i + 1⟩).run == .dormant)).isSome = true ∧
      ((s.ctx (ctxOf s ⟨0, 3⟩)).setts.any fun p => p.2 == settOf 4600) = false ∧
      (called.thread ⟨0, 3⟩).homeOf = some ⟨8, 1⟩ ∧ (called.thread ⟨0, 3⟩).chain = none ∧ (called.thread ⟨0, 3⟩).inh = false ∧
      (called.thread ⟨8, 1⟩).asyncq ≠ [] ∧ (called.thread ⟨0, 3⟩).halted = none ∧ awaitsReply (called.thread ⟨0, 3⟩) = false ∧
      stopWaits called ⟨0, 3⟩ .goHome = none ∧ dieRuns s (dieOf s 0) = true) :=
  ⟨allIssue_of (by decide +kernel), by decide +kernel⟩

/-- A barrier of the own core with no arrivals and with one; a barrier of a core outside the domain; an arrival and a reply in flight. -/
theorem witness_Barriers :
    let s := lab 0 [(1, 3), (2, 2)]
    let f : Form := { gForm [1, 2] with cls := .irrev, home := true }
    let at_ (x : Flight) : State := { labCore 0 [] (fun c => c.setBar 3 ⟨2, 1, 0⟩) with flights := [x] }
    AllIssue [(f, s), ({ gForm [1] with cls := .irrev, home := true }, s)] ∧
    (vcIn (begun f s) (ctxOf (begun f s) s.cur) 0 = 0 ∧ destCore (begun f s) s.cur 0 = some 0 ∧ (((begun f s).core 0).bar 3).arrived = 0 ∧
      (((begun f s).core 0).bar 3).phase = 0 ∧ destCore (begun f s) s.cur 5 = none ∧ (2 : Word).toNat % 65536 ≠ 0 ∧ (65536 : Word).toNat % 65536 = 0 ∧
      (at_ (.barArrive ⟨0, 0⟩ 0 3)).flights[0]? = some (.barArrive ⟨0, 0⟩ 0 3) ∧ ((at_ (.barArrive ⟨0, 0⟩ 0 3)).core 0).bar 3 = ⟨2, 1, 0⟩ ∧
      (at_ (.barReply ⟨0, 0⟩ true 3 0)).flights[0]? = some (.barReply ⟨0, 0⟩ true 3 0) ∧
      settClock (at_ (.barReply ⟨0, 0⟩ true 3 0)) 0 = true) :=
  ⟨allIssue_of (by decide +kernel), by decide +kernel⟩

/-- A record in the scratchpad and a dormant, a running and an idle work thread, the last with and without banks. -/
theorem witness_SpawnAndReap :
    let s := lab 0 [(1, 3), (2, own 64)]
    let f : Form := { gForm [1, 2] with role := .t0, cls := .irrev }
    let g : Form := { gForm [1] with role := .t0, cls := .irrev }
    let three (r : Run) := s.setThread ⟨0, 3⟩ { s.thread ⟨0, 3⟩ with run := r }
    let held (r : Run) := (three r).setTile 0 { ((three r).core 0).tile with owner := Vector.replicate 64 3 }
    let tn (z : State) (f : Form) := ((begun f z).core 0).thread 3
    let idle : Run := .idle false none
    AllIssue [(f, s), (f, three .ready), (g, s), (g, three idle), (g, held idle), (g, three .idleAlways), (g, held .idleAlways), (g, three .ready),
      (f, lab 0 [(1, 13)]), (g, lab 0 [(1, 13)])] ∧
    (s.meth = none ∧ bit ((begun f s).core 0).stdom 3 = false ∧ (ownBlock (begun f s) s.cur (own 64) 32 32 rRD).toOption = some (⟨2, none⟩, span 64 32) ∧
      (tn s f).run = .dormant ∧ (tn (three .ready) f).run = .ready ∧ (tn (three idle) g).run = idle ∧ (tn (three idle) g).inh = false ∧
      bankHeld ((begun g (three idle)).core 0) 3 = 0 ∧ bankHeld ((begun g (held idle)).core 0) 3 ≠ 0 ∧
      (tn (three .idleAlways) g).run = .idleAlways ∧ (tn (three .idleAlways) g).inh = false ∧ bankHeld ((begun g (three .idleAlways)).core 0) 3 = 0 ∧
      bankHeld ((begun g (held .idleAlways)).core 0) 3 ≠ 0) :=
  ⟨allIssue_of (by decide +kernel), by decide +kernel⟩

/-- FORK with and without a counter, with one that cannot be reached, and on a full deque; JOIN at 0 and above; TEND of a task with and
without a counter, of an ordered task, and with banks held; a deque with a record and an empty one. -/
theorem witness_TasksAndSearch :
    let s := lab 3 [(1, own 64), (2, own 128)]
    let f : Form := { gForm [1, 2] with role := .work, cls := .forbid, home := true }
    let g : Form := { gForm [1] with role := .work, cls := .forbid }
    let h : Form := { role := .work, home := true }
    let r : TaskRec := ⟨0x200, 1, 2, 3, 0⟩
    let task (k : Word) := labThread 3 [] fun t => { t with task := .task k }
    let holds := (task 0).setTile 0 { ((task 0).core 0).tile with owner := Vector.replicate 64 3 }
    let full := labCore 3 [(1, own 64)] fun c => { c with deque := List.replicate 256 r }
    let y := settlePosted (begun f s) s.cur (span 64 32)
    let z := drainPosted y s.cur
    let dec (k : Word) : Bool := rmwB (drainPosted (begun h (task k)) ⟨0, 3⟩) ⟨0, 3⟩ k (domainScope ((begun h (task k)).core 0)) fun x => some ((x + 2 ^ 64 - 1) % 2 ^ 64)
    AllIssue [(f, s), (f, full), (g, s), (h, task 0), (h, task (own 64)), (h, task (own 65)), (h, inTask true), (h, holds)] ∧
    ((ownBlock (begun f s) s.cur (own 64) 32 32 rRD).toOption = some (⟨2, none⟩, span 64 32) ∧ (y.core 0).deque.length < 256 + (y.core 0).ovfl ∧
      rmwB z s.cur (own 128) (domainScope (y.core 0)) (fun x => some ((x + 1) % 2 ^ 64)) = true ∧
      holdsB (accessHere z s.cur (own 129) 8 rAMO true (some (domainScope (y.core 0), false))) = false ∧
      ((settlePosted (begun f full) full.cur (span 64 32)).core 0).deque.length = 256 ∧ ((settlePosted (begun f full) full.cur (span 64 32)).core 0).ovfl = 0 ∧
      reachB (begun g s) s.cur (own 64) 8 rRD true none [(true, false)] = true ∧
      leNat (readPlaces s (span 64 8)) = 0 ∧ leNat (readPlaces (withSpad s 64 [2]) (span 64 8)) = 2 ∧
      (task 0).me.task = .task 0 ∧ bankHeld ((begun h (task 0)).core 0) 3 = 0 ∧ bankHeld ((begun h holds).core 0) 3 ≠ 0 ∧
      dec (own 64) = true ∧ dec (own 65) = false ∧ (inTask true).me.task = .ordered 5 0 ∧ bankHeld ((begun h (inTask true)).core 0) 1 = 0 ∧
      ((labCore 3 [] fun c => { c with deque := [r] }).core 0).deque = [] ++ [r] ∧
      (s.core 0).deque = [] ∧ orderedFor s ⟨0, 3⟩ = none ∧ (steal s ((stealOrder s ⟨0, 3⟩).drop 1)).isNone = true) :=
  ⟨allIssue_of (by decide +kernel), by decide +kernel⟩

/-- TSPAWN outside a task at and below the floor of the domain, inside one at its parent's timestamp and above it; TSTAMP. -/
theorem witness_OrderedTasks :
    let s := lab 1 [(1, own 64), (2, 8)]
    let f : Form := { gForm [1, 2] with role := .work, home := true }
    let g : Form := { gForm [1] with role := .work }
    let floor (n : Nat) := let u := s.unit (unitOf s s.cur); s.setUnit (unitOf s s.cur) { u with domain := { u.domain with floor := n } }
    let z (s : State) := settlePosted (begun f s) s.cur (span 64 32)
    let migs := labThread 1 [] fun t => { t with tctl := 0x40 }
    AllIssue [(f, s), (f, inTask false), (f, migs), (g, s), (g, inTask false)] ∧
    (s.me.mig = false ∧ (ownBlock (begun f s) s.cur (own 64) 32 32 rRD).toOption = some (⟨2, none⟩, span 64 32) ∧
      (taskOf (z s) s.cur).isNone = true ∧ ((z (floor 8)).unit (unitOf (z (floor 8)) s.cur)).domain.floor = 8 ∧
      ((z (floor 9)).unit (unitOf (z (floor 9)) s.cur)).domain.floor = 9 ∧ holtTasks (z s) (unitOf (z s) s.cur) < 3840 ∧
      ((taskOf (z (inTask false)) ⟨0, 1⟩).map (·.ts)) = some 5 ∧ migs.me.mig = true ∧
      (own 64).toNat % 4 = 0 ∧ (own 67).toNat % 4 = 3 ∧ unitHolt s (1 * 2 ^ 16 + 0) = some 0 ∧ (s.die 0).relock = none ∧
      ({ s with dies := s.dies.setIfInBounds 0 { s.die 0 with relock := some (9, 0) } }.die 0).relock ≠ none ∧
      (oldest (((inTask false).unit (unitOf (inTask false) ⟨0, 1⟩)).domain.tasks.filter fun y => y.st != .finished)).isSome = true) :=
  ⟨allIssue_of (by decide +kernel), by decide +kernel⟩

/-- IDLE with a condition that holds, with none selected by T0 and by a work thread, and with one that does not hold; YPT in and out of
a grace window; waits of each kind. -/
theorem witness_IdleYieldAndWaits :
    let f : Form := { gForm [1, 2] with home := true }
    let s := lab 0 [(1, 4)]
    let stays := lab 0 []
    let works := lab 3 []
    let later := lab 0 [(1, 4), (2, 1000)]
    let grace := { lab 0 [] with switches := [⟨0, 1, 1, false, 100, 1000, 0, 0, 1, 0, [], false, [], []⟩] }
    let runs (r : Run) := (labThread 0 [] fun t => { t with run := r }).thread ⟨0, 0⟩
    AllIssue [(f, s), (f, stays), (f, works), (f, later), ({}, s), (gForm [1, 2], s), (gForm [1, 2], grace)] ∧
    ((4 &&& idleRole 0) &&& idleHolds (begun f s) s.cur 0 ≠ 0 ∧ (0 &&& idleRole 0) = 0 ∧ stays.me.asyncq.isEmpty = true ∧
      (List.range 12).all (fun i => ((begun f stays).thread ⟨0, i + 1⟩).run == .dormant) = true ∧ works.cur.thr ≠ 0 ∧
      (4 &&& idleRole 0) &&& idleHolds (begun f later) later.cur 1000 = 0 ∧ (4 &&& idleRole 0) ≠ 0 ∧
      inGrace (begun (gForm [1, 2]) s) s.cur = false ∧ inGrace (begun (gForm [1, 2]) grace) grace.cur = true ∧
      speculative (begun (gForm [1, 2]) grace) grace.cur = false ∧ (s.thread ⟨0, 0⟩).run = .ready ∧ tileHolds (s.core 0).tile 0 = false ∧
      (runs (.parkedEngine .tileIdle 4)).run = .parkedEngine .tileIdle 4 ∧ (owedRead.thread ⟨0, 0⟩).owed.map (·.due) = [1000] ∧
      (runs (.idle true (some 9))).run = .idle true (some 9) ∧ (runs (.idle false none)).halted = none ∧ (runs (.idle false none)).stopped = false ∧
      displaced (s.core 0) 0 = false ∧ dieRuns s (dieOf s 0) = true ∧ (runs (.parkedSync .reissue 4)).run = .parkedSync .reissue 4) :=
  ⟨allIssue_of (by decide +kernel), by decide +kernel⟩

/-- A vector instruction with two sources from registers, and with source a from its latch. -/
theorem witness_vectors :
    let p : VPos := { a := some 1, b := some 2 }
    let held := labThread 0 [] fun t => { t with latchA := some 5 }
    let ph : VPos := { a := some 1, b := some 2, ha := true }
    AllIssue [(p.form [(.k, 1)] (lab 0 []), lab 0 []), (ph.form [(.k, 1)] held, held)] ∧ ph.valA held.me = 5 :=
  ⟨allIssue_of (by decide +kernel), by decide +kernel⟩

/-- The forms of the lane-wise instructions: two sources, three, one, one with the destination. -/
theorem witness_VectorIntegerLanes :
    let p : VPos := { a := some 1, b := some 2 }
    let s := lab 0 []
    AllIssue [(p.form [(.k, 1)] s, s), (({ p with d := some 3 } : VPos).form [(.k, 1)] s, s), (({ a := some 1 } : VPos).form [(.k, 1)] s, s)] :=
  allIssue_of (by decide +kernel)

theorem witness_VectorFloatLanes :
    let p : VPos := { a := some 1, b := some 2 }
    let s := lab 0 []
    AllIssue [(p.form [(.k, 1)] s, s), (({ p with d := some 3 } : VPos).form [] s, s)] := allIssue_of (by decide +kernel)

theorem witness_VectorCompareSelect : Issues (({ a := some 1, b := some 1 } : VPos).form [(.k, 0)] (lab 0 [])) (lab 0 []) := issues_of (by decide +kernel)

theorem witness_VectorFunctionsAndConversions :
    let p : VPos := { a := some 1 }
    let s := lab 0 []
    AllIssue [(p.form [(.k, 1)] s, s), (({ p with d := some 3 } : VPos).form [(.k, 1)] s, s)] := allIssue_of (by decide +kernel)

theorem witness_VectorReductionsAndScans : Issues (({ a := some 1 } : VPos).form [(.k, 1)] (lab 0 [])) (lab 0 []) := issues_of (by decide +kernel)

theorem witness_VectorLaneMovement :
    let s := lab 0 []
    AllIssue [(({} : VPos).form [(.g, 1), (.k, 1)] s, s), (({ a := some 4, b := some 2, more := [5, 6, 7] } : VPos).form [] s, s),
      (({ a := some 8 } : VPos).form [] s, s)] := allIssue_of (by decide +kernel)

/-- No lane active, lanes that pass and lanes that fail: loads, stores and gathers of the own scratchpad, in format 0 and in mq4. -/
theorem witness_VectorMemory :
    let idle := lab 0 [(1, own 64), (2, 4)]
    let s := labThread 0 [(1, own 64), (2, 4)] fun t => { t with k := t.k.setIfInBounds 1 0x8001 }
    let bad := labThread 0 [(1, 0x100000)] fun t => { t with k := t.k.setIfInBounds 1 1 }
    let one : List (RegFile × Nat) := [(.g, 1), (.k, 1)]
    let two : List (RegFile × Nat) := [(.g, 1), (.g, 2), (.k, 1)]
    let z := latched {} (begun (({} : VPos).form one s) s)
    let f := shfmtAt z (viewOf z s.cur) (own 64)
    let c := consecutive (own 64) (f % 16) (s.me.readK 1)
    let q := scattered z (viewOf z s.cur) (s.me.readK 1) (fun i => own 64 + BitVec.ofNat 64 (4 * i))
    let done (x : Except Stop (List (Via × List Nat))) (rd wr : Bool) : Bool := match x with
      | .ok ks => (match vecTrack z s.cur ks rd wr with | .ok y => (methJournal y (ks.map (·.2)).flatten).toOption.isSome | _ => false)
      | _ => false
    let mq := z.setCore 0 ({ z.core 0 with shfmt := (z.core 0).shfmt.setIfInBounds 0 7 }.setScale 2 0x0100000000)
    AllIssue [(({} : VPos).form one idle, idle), (({} : VPos).form two idle, idle), (({ d := some 3 } : VPos).form one idle, idle),
      (({ d := some 3 } : VPos).form two idle, idle), (({ b := some 2 } : VPos).form one idle, idle), (({ b := some 2, d := some 3 } : VPos).form one idle, idle),
      (({} : VPos).form one s, s), (({} : VPos).form one bad, bad)] ∧
    (activeLanes (idle.me.readK 1) = [] ∧ activeLanes (s.me.readK 1) = [0, 15] ∧ holdsB (vldBody 3 1 (vAddr 1 2) z s.cur) = true ∧
      f % 16 ≠ 7 ∧ done (vecCheck z s.cur rRD c.1 c.2) true false = true ∧ done (vecCheck z s.cur rWR c.1 c.2) false true = true ∧
      done (scatterCheck z s.cur rRD q.1 q.2) true false = true ∧ done (scatterCheck z s.cur rWR q.1 q.2) false true = true ∧
      shfmtAt mq (viewOf mq s.cur) (own 64) % 16 = 7 ∧ holdsB (mq4Entry mq (viewOf mq s.cur) (own 64) 7) = true ∧
      holdsB (vldBody 3 1 (vAddr 1 2) (latched {} (begun (({} : VPos).form one bad) bad)) bad.cur) = false) :=
  ⟨allIssue_of (by decide +kernel), by decide +kernel⟩

theorem witness_CopyIssueAndStatus :
    let f : Form := { gForm [1] with role := .t14, cls := .irrev, home := true }
    let s := copyBlock (lab 14 [(1, own 64)]) 4
    let full := labSett s fun x => { x with queue := List.replicate 128 (labCopy s .moving) }
    let used := labSett s fun x => x.setHandle 0 2
    let z (s : State) := settlePosted (begun f s) s.cur (span 64 64)
    let blk := readPlaces (z s) (span 64 64)
    let cond := withBlock (copyBlock (lab 14 [(1, own 64)]) 0) 64 [(24, (own 1024).toNat, 8)]
    AllIssue [(f, s), (f, full), (f, used), (f, cond), ({ gForm [1] with cls := .irrev }, s)] ∧
    ((ownBlock (begun f s) s.cur (own 64) 64 64 rRD true).toOption = some (⟨2, none⟩, span 64 64) ∧ (copyChecks (z s) s.cur blk false).isOk = true ∧
      cbHV blk = true ∧ hState (((z s).sett 0).handle 0) = hFree ∧ ((z s).sett 0).queue.length < 128 ∧ 128 ≤ ((z full).sett 0).queue.length ∧
      hState (((z used).sett 0).handle 0) ≠ hFree ∧ (copyChecks (z cond) s.cur (readPlaces (z cond) (span 64 64)) true).isOk = true ∧
      cbHV (readPlaces (z cond) (span 64 64)) = false) :=
  ⟨allIssue_of (by decide +kernel), by decide +kernel⟩

/-- Handle 5 of the own sett, free, full and draining; a reference to another launch's sett. -/
theorem witness_Handles :
    let f : Form := { gForm [1] with cls := .irrev }
    let s (n : Nat) := labSett (lab 14 [(1, 5)]) fun x => x.setHandle 5 (BitVec.ofNat 64 n)
    let far := lab 14 [(1, 0x3FF0005)]
    AllIssue [(f, s 2), (f, s 3), (f, far), (gForm [1], s 0), (gForm [1], far)] ∧
    ((handleRef (begun f (s 2)) (s 2).cur 5).toOption = some (0, 5) ∧ (((begun f (s 2)).sett 0).handle 5).toNat % 4 = 2 ∧
      (((begun f (s 3)).sett 0).handle 5).toNat % 4 = 3 ∧ (((begun f (s 0)).sett 0).handle 5).toNat % 4 = 0 ∧
      (handleRef (begun f far) far.cur 0x3FF0005).isOk = false ∧ KMap.wfFrom 0 0 ((s 2).sett 0).handles = true) :=
  ⟨allIssue_of (by decide +kernel), by decide +kernel⟩

/-- A fill of one line of the Archive allotment. -/
def fillBlock (s : State) : State := withBlock s 64 [(0, (inArchive 64).toNat, 8), (20, 64, 4)]

/-- AOP.ADD on a word of the Archive, with tokens and without. -/
theorem witness_Banks_word :
    let f : Form := { gForm [2, 1] with cls := .irrev }
    let s := lab 0 [(1, inArchive 64), (2, 3)]
    let poor := let s := lab 0 [(1, inArchive 64)]; s.setCtx 1 { s.ctx 1 with budgets := Vector.replicate 20 { (Context.bare.budget 0) with bucket := 0 } }
    let y := begun f s
    let at_ (y : State) := access y s.cur (inArchive 64) 8 rAMO true (some (0, false))
    AllIssue [(f, s), (f, poor), (f, lab 0 [(1, own 64)])] ∧ OrderOpen s 0 ∧
    (holdsB (segCheck y (viewOf y s.cur) (own 64) 8 rAMO) = true ∧ holdsB (segCheck y (viewOf y s.cur) (inArchive 65536) 8 rAMO) = false ∧
      (Instr.aopAdd 0 2 1 3 0 0).wellFormed = true ∧ segKind (viewOf y s.cur) (inArchive 64) = 5 ∧ segKind (viewOf y s.cur) (own 64) ≠ 5 ∧
      (match at_ y with
        | .ok (kind, ks) => ks.length == 8 && (match (spend y (ctxOf y s.cur) (archDie (ks.headD 0)) 3 1 (bankWaiters y (archDie (ks.headD 0)))).bind fun q =>
            inject q (ctxOf q s.cur) (if dieOf y s.cur.core = archDie (ks.headD 0) then [] else [(dieOf y s.cur.core, 1)]) with
          | some q => (access q s.cur (inArchive 64) 8 rAMO true (some (awayScope q s.cur 0, false))).toOption == some (kind, ks) &&
              trackedB q s.cur kind ks [(true, false), (true, true)]
          | none => false)
        | .error _ => false) = true ∧
      (match at_ (begun f poor) with
        | .ok (_, ks) => (spend (begun f poor) (ctxOf (begun f poor) poor.cur) (archDie (ks.headD 0)) 3 1
            (bankWaiters (begun f poor) (archDie (ks.headD 0)))).isNone
        | .error _ => false) = true) :=
  ⟨allIssue_of (by decide +kernel), (fun h => by cases h), by decide +kernel⟩

/-- AFILL of one line; a line under way, of an issuer that can pay. -/
theorem witness_Banks_lines :
    let g : Form := { gForm [1] with cls := .irrev, home := true }
    let b := fillBlock (lab 0 [(1, own 64)])
    let z := settlePosted (begun g b) b.cur (span 64 64)
    let blk := readPlaces z (span 64 64)
    let v := viewOf z b.cur
    let fl : Flight := .bank ⟨0, 0⟩ 1 2 0 0 [(2 ^ 65 + 64, 2 ^ 65 + 64)] [] 0 0 false 0 b.me.segBase b.me.segLimit
    let s := { b with flights := [fl] }
    Issues g b ∧ MemoryWf b ∧
    ((ownBlock (begun g b) b.cur (own 64) 64 64 rRD).toOption = some (⟨2, none⟩, span 64 64) ∧ cbSrc blk = inArchive 64 ∧ segKind v (inArchive 64) = 5 ∧
      (match segCheck z v (inArchive 64) 64 rWR with
        | .ok dr => holdsB (xlate z v (inArchive 64) 64 rWR none dr)
        | .error _ => false) = true ∧
      holdsB (xlate z v 0 64 rRD none (.places 5 [])) = true ∧ blkNat blk 20 4 = 64 ∧ blkNat blk 24 4 = 0 ∧
      s.flights[0]? = some fl ∧ ((spend s 1 (archDie (2 ^ 65 + 64)) 3 1 (bankWaiters s (archDie (2 ^ 65 + 64)))).bind fun z =>
        inject z 1 (if dieOf s 0 = archDie (2 ^ 65 + 64) then [] else [(dieOf s 0, 1)])).isSome = true ∧
      olderLine s 0 (archDie (2 ^ 65 + 64)) = false ∧ lineSpoilt s 2 (2 ^ 65 + 64, 2 ^ 65 + 64) = false ∧
      olderLine { s with flights := [fl, fl] } 1 (archDie (2 ^ 65 + 64)) = true ∧
      lineSpoilt { s with pathErrors := [2 ^ 65 + 64] } 2 (2 ^ 65 + 64, 2 ^ 65 + 64) = true) :=
  ⟨issues_of (by decide +kernel), memoryWf_of (by decide +kernel), by decide +kernel⟩

/-- A sett with no copy, with one that moves, one in its version check, one that ends, one that writes its version and one that failed;
a sett whose clock is stopped. -/
theorem witness_CopyProgress :
    let s := copyBlock (lab 14 [(1, own 64)]) 0
    let q (c : Copy) : State := labSett s fun x => { x with queue := [c] }
    let c := labCopy s
    let ends (s : State) (c : Copy) : Bool := (c.phase == .ending && settRuns s 0 || c.phase == .closing && settClock s 0) && !c.missing
    let shut : Copy := { c .closing with cond := true, ver := some 0 }
    let view (c : Copy) : View := ⟨c.ctx, c.issuer.core, c.segBase, c.segLimit⟩
    settClock { s with dies := s.dies.setIfInBounds 0 { s.die 0 with relock := some (9, 0) } } 0 = false ∧ settClock s 0 = true ∧ settRuns s 0 = true ∧
    (serveCopy (fun c => (settRuns s 0 || writing c) && !mustWait s c) 4 s 0).isNone = true ∧
    (serveCopy (fun d => (settRuns (q (c .moving)) 0 || writing d) && !mustWait (q (c .moving)) d) 20 (q (c .moving)) 0).isSome = true ∧
    (match moveChunk (q (c .moving)) (c .moving) (c .moving).next with
      | .ok (z, d) => (spend z d.ctx ((q (c .moving)).sett 0).die 1 (c .moving).next (copyWaiters (q (c .moving)) 0)).isSome
      | .error _ => false) = true ∧
    ((q (c .check)).sett 0).queue.find? (fun c => c.phase == .check && !c.missing && c.failed.isNone) = some (c .check) ∧
    (engPlaces s (view (c .check)) (own 1024) 8 rAMO (some (0, false))).isOk = true ∧
    ((q (c .ending)).sett 0).queue.find? (ends (q (c .ending))) = some (c .ending) ∧ (c .ending).failed = none ∧
    ((q { c .ending with failed := some 1 }).sett 0).queue.find? (ends (q { c .ending with failed := some 1 })) = some { c .ending with failed := some 1 } ∧
    ((q shut).sett 0).queue.find? (ends (q shut)) = some shut ∧ shut.failed = none ∧ shut.phase = .closing ∧
    cbFV (c .ending).blk = false ∧ cbSV (c .ending).blk = false ∧ (completeCopy (q (c .ending)) 0 (c .ending)).isSome = true := by decide +kernel

/-- A thread of the launch that holds every bank, another that holds none; a depth above 2^24; a sparse A stream; a full queue; a
queue with a word. -/
theorem witness_TileCommandPushes :
    let f : Form := { reads := [(.g, 3)], cls := .irrev, home := true }
    let f0 : Form := { reads := [], cls := .irrev, home := true }
    let s (v : Word) := let s := lab 2 [(3, v)]; s.setTile 0 { (s.core 0).tile with owner := Vector.replicate 64 2 }
    let c (op : TileOp) (v : Word) : TileCmd := ⟨op, 0, 5, 0, false, v, [], 0, 0, false, 0, 0⟩
    let stranger (z : State) (c : TileCmd) := (cmdBanks c).find? fun e => (z.core 0).tile.ownerOf e != 2
    let full := (s 0).setTile 0 { ((s 0).core 0).tile with queues := Vector.replicate 4 ⟨List.replicate 16 (c .tzero 0), 0, .unset, .unset, [], [9]⟩ }
    let queue (z : State) (n : Nat) := ((begun f0 z).core 0).tile.queues.toList.getD n .reset
    AllIssue [(f, s 1), (f, lab 2 []), (f, s (2 ^ 24 + 1)), (f0, full), ({ reads := [(.g, 2), (.g, 3)], cls := .irrev, home := true }, s 0), (f0, s 0),
      ({ reads := [(.v, 3)], cls := .irrev, home := true }, s 0)] ∧
    (stranger (begun f (s 1)) (c .tmma 1) = none ∧ stranger (begun f (lab 2 [])) (c .tmma 1) = some 5 ∧
      2 ^ 24 < field (2 ^ 24 + 1) 31 0 ∧ bit (2 ^ 24 + 1) 35 = false ∧ tdSp (BitVec.ofNat 64 (2 ^ 56)) = true ∧
      (queue (s 1) 3).cmds.length < 16 ∧ 16 ≤ (queue full 3).cmds.length ∧
      (tspmCheck (begun f (s 0)) ⟨0, 2⟩ 0).isOk = true ∧ (tspmCheck (begun f (s 0)) ⟨0, 2⟩ 0xFFFFFF).isOk = false ∧
      qpushOp 0 = none ∧ qpushOp (BitVec.ofNat 64 (0x5A * 2 ^ 25 + 5 * 2 ^ 10)) = some .tzero ∧
      (queue full 0).done = [9] ∧ (queue (s 0) 0).done = []) :=
  ⟨allIssue_of (by decide +kernel), by decide +kernel⟩

/-- A record of one output tile, its status place and a queue of records. -/
def recordBlock (s : State) : State := withBlock s 64 [(4, 1, 2), (6, 1, 2), (8, 16, 4), (44, 1, 2)]

def tileTask (s : State) : TileTask :=
  ⟨0, readPlaces s (span 64 64), false, [], ⟨0, 0⟩, 64, s.me.segBase, s.me.segLimit, 0, true, false, 0, 0, 0, 0, none, 0, 0⟩

def labUnit (s : State) (ts : List TileTask) : State := s.setUnit (unitOf s s.cur) { s.unit (unitOf s s.cur) with tasks := ts }

/-- An ABAL that waits for its run; a TZERO and an ABAL at the head of queue 1; a TMMA that runs, with and without a latched chunk; a task
that runs, with and without one; a word that is due. -/
theorem witness_TileEngineSteps :
    let m : TileCmd := ⟨.tzero, 0, 5, 0, true, 0, [], 0, 0, false, 0, 0⟩
    let ab : TileCmd := { m with op := .abal, n := 4 }
    let s := lab 0 []
    let tile (f : Tile → Tile) : State := s.setTile 0 (f (s.core 0).tile)
    let q (x : TileQueue) (own : Nat) : State := tile fun t => { t with queues := t.queues.setIfInBounds 1 x, owner := Vector.replicate 64 own }
    let e : TileEnd := ⟨0, 0, 0, true, 0, 0, []⟩
    let r : TileRun := ⟨0, { m with op := .tmma }, 64, 0, .unset, .unset, [], 0⟩
    let l (task : Option (Nat × Nat)) : Latch := ⟨0, task, [(0, 0)], [], [], []⟩
    let runs (x : Option Latch) := (tile fun t => { t with running := [r], latch := x }).setCore 0
      { (tile fun t => { t with running := [r], latch := x }).core 0 with shfmt := Vector.replicate 16 3 }
    let waits := tile fun t => { t with waiting := [(1, ab)], owner := Vector.replicate 64 16 }
    let u := unitOf s ⟨0, 0⟩
    let y := { tileTask (recordBlock (lab 0 [(1, own 64)])) with running := true }
    let tasks (x : Option Latch) := labUnit (tile fun t => { t with latch := x }) [y]
    let latch (z : State) := (denseLatch z (windowOf z ⟨0, 0⟩) r.cmd.x r.a r.b r.a.addr r.b.addr r.k r.chunk r.pairs).isOk
    settRuns s (settOf 0) = true ∧ waitingRun (waits.core 0) = some ((1, ab), 0) ∧ settRuns waits (settOf 0) = true ∧
    (waitingRun ((q ⟨[m], 1, .unset, .unset, [], []⟩ 0).core 0) = none ∧ engineIdleFor (q ⟨[m], 1, .unset, .unset, [], []⟩ 0) 0 = true ∧
      nextCommand (q ⟨[m], 1, .unset, .unset, [], []⟩ 0) 0 = some (1, m) ∧ nextCommand (q ⟨[ab], 1, .unset, .unset, [], []⟩ 0) 0 = some (1, ab)) ∧
    ((abalRun ((q ⟨[ab], 1, .unset, .unset, [], []⟩ 16).core 0) ab).isSome = true ∧ (abalRun ((q ⟨[ab], 1, .unset, .unset, [], []⟩ 0).core 0) ab).isNone = true) ∧
    (t13First ((runs none).core 0) = false ∧ ((runs none).core 0).resActive = false ∧ ((runs none).core 0).tile.latch = none ∧
      ((runs none).core 0).tile.running = [r] ∧ latch (runs none) = true) ∧
    (((runs (some (l none))).core 0).tile.latch = some (l none) ∧ (l none).task = none ∧
      (((runs (some (l none))).core 0).tile.running.find? fun r => r.cmd.order == (l none).order) = some r ∧ r.chunk + 1 < chunksOf ((l none).pairs.headD (0, 0)) r.cmd.x r.k ∧
      chunksOf ((l none).pairs.headD (0, 0)) r.cmd.x 1 ≤ r.chunk + 1) ∧
    (t13First ((tasks none).core 0) = false ∧ ((tasks none).core 0).tile.running = [] ∧ ((tasks none).core 0).tile.latch = none ∧
      (runningTasks (tasks none) 0)[0]? = some (u, y) ∧ y.finished = false ∧ y.tile = 0 ∧
      ((tasks (some (l (some (u, 0))))).core 0).tile.latch = some (l (some (u, 0))) ∧ (runningTasks (tasks (some (l (some (u, 0))))) 0)[0]? = some (u, y)) ∧
    ((dueWord ((q ⟨[], 1, .unset, .unset, [e], []⟩ 0).core 0).tile 1).map (·.1) = some e ∧
      (((q ⟨[], 1, .unset, .unset, [e], []⟩ 0).core 0).tile.queues.toList.getD 1 .reset).ended = [e]) := by decide +kernel

theorem witness_TileTasks :
    let f : Form := { gForm [1] with cls := .irrev, home := true }
    let s := recordBlock (lab 0 [(1, own 64)])
    let empty := lab 0 [(1, own 64)]
    let y := tileTask s
    let full := labUnit s (List.replicate 256 y)
    let one := labUnit s [y]
    let u := unitOf s s.cur
    let runs (n cause : Nat) := labUnit s [{ y with running := true, tile := n, cause := cause }]
    let z (s : State) := settlePosted (begun f s) s.cur (span 64 64)
    let b (s : State) := readPlaces (z s) (span 64 64)
    AllIssue [(f, s), (f, empty), (f, full)] ∧
    ((ownBlock (begun f s) s.cur (own 64) 64 64 rRD).toOption = some (⟨2, none⟩, span 64 64) ∧ recordMalformed (z s) s.cur (b s) false = 0 ∧
      trSignal (b s) = 0 ∧ recordMalformed (z empty) s.cur (b empty) false = 1 ∧ holtTiles (z s) (unitOf (z s) s.cur) < 256 ∧
      256 ≤ holtTiles (z full) (unitOf (z full) full.cur) ∧ (countTable (z s) s.cur (b s)).toOption = some [] ∧
      (chooseTask one u 0 0).isSome = true ∧ (runningTasks (runs 1 0) 0).map (·.2.finished) = [true] ∧
      (runningTasks (runs 0 0x26) 0).map (·.2.finished) = [true] ∧ settRuns (runs 1 0) (settOf 0) = true) :=
  ⟨allIssue_of (by decide +kernel), by decide +kernel⟩

/-- Object 0 of context 1 with an update and a read method, two versions on, one of them applied on every die. -/
def labObj : Obj := ⟨1, 0, 64, false, 0, 8, [], [⟨0, 10, true, true⟩, ⟨4, 10, false, true⟩], 2, [⟨1, 0, 0, 0, 0, 1, 0, List.replicate 96 0, 0, [], 0⟩,
  ⟨2, 0, 0, 0, 0, 1, 0, List.replicate 96 0, 0, [], 0⟩], Vector.replicate 4 ⟨1, [], [⟨1, 0, 0, List.replicate 32 0⟩]⟩, false, 0, none⟩

def withObj (s : State) (o : Obj) : State := s.setObj 0 o

/-- Update calls: of an object that is there, that is gone, with a full log, at the last version, of a read method. -/
theorem witness_ReplayedObjects_calls :
    let f : Form := { gForm [1, 2] with cls := .irrev, home := true }
    let bare := lab 0 [(1, 0x10000), (2, own 64)]
    let s := withObj bare labObj
    let z := begun f s
    AllIssue [(f, s), (f, bare)] ∧
    ((ownBlock z s.cur (own 64) 96 32 rRD).toOption = some (⟨2, none⟩, span 64 96) ∧ objOf (begun f bare) bare.cur 0 false = none ∧ selObj 0x10000 = 0 ∧
      selMethod 0x10000 = 0 ∧ objOf z s.cur 0 false = some labObj ∧ (labObj.method 0 true).isSome = true ∧ labObj.method 1 true = none ∧
      labObj.tail < lastVersion ∧ ({ labObj with tail := lastVersion } : Obj).tail = lastVersion ∧ labObj.full z = false ∧
      ({ labObj with tail := 70000 } : Obj).full z = true ∧ (loadAt z s.cur ⟨2, none⟩ (span 64 96)).isOk = true) :=
  ⟨allIssue_of (by decide +kernel), by decide +kernel⟩

/-- A read at its first issue, of a version beyond the tail, of an update method, and once it has run. -/
theorem witness_ReplayedObjects_reads :
    let h : Form := { gForm [1, 2] with home := true, keeps := true }
    let bare := lab 0 [(1, 0x10100), (2, own 64)]
    let reading := withObj bare labObj
    let k : KeptRead := ⟨0x100, 0, 1, 1, List.replicate 96 0, some (1, 1, 0, List.replicate 32 0)⟩
    let done := reading.setThread ⟨0, 0⟩ (reading.me.setKept (some k))
    let again (s : State) := s.me.kept.filter fun r => r.chain == s.me.chainStart && r.obj == 0 && r.method == 1
    AllIssue [(h, reading), (h, bare), (h, done)] ∧
    ((ownBlock (begun h reading) reading.cur (own 64) 128 32 3).toOption = some (⟨2, none⟩, span 64 128) ∧ again reading = none ∧ again done = some k ∧
      objOf (begun h bare) bare.cur 0 true = none ∧ objOf (begun h reading) reading.cur 0 false = some labObj ∧ labObj.method 0 false = none ∧
      (labObj.method 1 false).isSome = true ∧ selVersion 0x10100 ≤ labObj.tail ∧ labObj.tail < selVersion 0x30100 ∧
      (loadAt (begun h reading) reading.cur ⟨2, none⟩ ((span 64 128).take 96)).isOk = true ∧
      (storeAt (begun h done) done.cur ⟨2, none⟩ ((span 64 128).drop 96) (List.replicate 32 0)).isOk = true) :=
  ⟨allIssue_of (by decide +kernel), by decide +kernel⟩

/-- Waits for version 0, 1, 2 and 3, a deletion that ends at once and one that does not, and of an object that is gone. -/
theorem witness_ReplayedObjects_waits :
    let f : Form := { gForm [1, 2] with cls := .irrev, home := true }
    let away : Form := { gForm [1] with cls := .irrev }
    let bare := lab 0 [(1, 0x10000), (2, own 64)]
    let s := withObj bare labObj
    let z := begun f s
    let still := { labObj with tail := 1, log := labObj.log.take 1 }
    AllIssue [(f, s), (f, bare), (away, s), (away, bare)] ∧
    ((ownBlock z s.cur (own 64) 32 32 rWR).toOption = some (⟨2, none⟩, span 64 32) ∧ objOf z s.cur 0 false = some labObj ∧ (labObj.copy 0).applied = 1 ∧
      labObj.tail = 2 ∧ selVersion 0x10000 = 1 ∧ selVersion 0x20000 = 2 ∧ selVersion 0x30000 = 3 ∧ selVersion 0 = 0 ∧
      (storeAt z s.cur ⟨2, none⟩ (span 64 32) (List.replicate 32 0)).isOk = true ∧ ((labObj.copy 0).ring.find? (fun r => r.version == 1)).isSome = true ∧
      (({ labObj with copies := Vector.replicate 4 ⟨1, [], []⟩ } : Obj).copy 0).ring = [] ∧
      objOf (begun away bare) bare.cur 0 true = none ∧ objOf (begun away s) s.cur 0 false = some labObj ∧ objDone (begun away s) 0 labObj = false ∧
      objOf (begun away (withObj bare still)) bare.cur 0 false = some still ∧ objDone (begun away (withObj bare still)) 0 still = true) :=
  ⟨allIssue_of (by decide +kernel), by decide +kernel⟩

/-- Context 1's pool made large enough for the model's free sizes (log 9). -/
def rich (s : State) : State := s.setCtx 1 { s.ctx 1 with pool := Config.poolFixed + 2 ^ 30 }

/-- The block of an object of 64 bytes with one method of two words; a bad size. -/
def objBlock (s : State) (size : Nat) : State :=
  withBlock s 64 [(0, size, 8), (16, (own 512).toNat, 8), (24, 8, 4), (30, 1, 1), (64, (own 512).toNat, 8), (72, 10, 4), (76, 0x81, 1)]

/-- A good block, a bad header, a bad method; no object number free. -/
theorem witness_ReplayedObjects_new :
    let g : Form := { gForm [1] with cls := .irrev }
    let s := rich (objBlock (lab 0 [(1, own 64)]) 64)
    let z := begun g s
    let blk := readPlaces z (span 64 80)
    let worse := readPlaces (withBlock s 64 [(64, (own 4096).toNat, 8)]) (span 64 80)
    Issues g s ∧
    ((anyBlock z s.cur (own 64) 64 64).toOption = some (readPlaces z (span 64 64)) ∧ objHeaderReason z (readPlaces z (span 64 64)) = none ∧
      blkNat (readPlaces z (span 64 64)) 30 1 = 1 ∧ (anyBlock z s.cur (own 64) 80 64).toOption = some blk ∧
      objMethodReason blk [blockMethod blk 0] = false ∧ objMethodReason worse [blockMethod worse 0] = true ∧
      lowestFree (fun i => (z.objects.find? i).isSome) = some 0 ∧ lowestFree (fun _ => true) = none ∧
      (anyBlock z s.cur (own 512) 8 1).toOption = some (List.replicate 8 0) ∧ blkNat blk 8 8 = 0 ∧
      (objHeaderReason z (readPlaces (objBlock (lab 0 []) 63) (span 64 64))).isSome = true) :=
  ⟨issues_of (by decide +kernel), by decide +kernel⟩

set_option maxRecDepth 100000 in
theorem witness_ReplayedObjects_pool :
    let g : Form := { gForm [1] with cls := .irrev }
    let s := rich (objBlock (lab 0 [(1, own 64)]) 64)
    let z := begun g s
    objUse z (readPlaces z (span 64 80)) ≤ poolFree z 1 := by
  intro g s z
  have hp : partOf z 9 1 = 1 := by decide +kernel
  have hu : (z.ctx 1).poolUsed = 0 := by decide +kernel
  have hc : (z.ctx 1).pool = Config.poolFixed + 2 ^ 30 := by with_unfolding_all rfl
  have h2 : (enabledDies z).length * (blkNat (readPlaces z (span 64 80)) 0 8 + blkNat (readPlaces z (span 64 80)) 24 4) ≤ 2 ^ 30 := by decide +kernel
  have hs : stagedPool z 1 = 0 := by decide +kernel
  simp only [poolFree, hp, hu, hc, hs, objUse]; omega

/-- Catalogue 0 of context 1: 16 elements of FP32, room for 4 vectors, one of them stored. -/
def labCat : Cat := ⟨1, 0, 16, 0, 0, 8, 8, 0x3F800000, 4, 1, 1, [], 1, [], Vector.replicate 4 ⟨1, []⟩, false, 0, none⟩

def withCat (s : State) (c : Cat) : State := s.setCat 0 c

/-- A query of two results, for version 1, with a NaN in it, and a finished one; blocks and Catalogues that fail. -/
theorem witness_Catalogues_search :
    let h : Form := { gForm [1, 2] with home := true, keeps := true }
    let bare := lab 0 [(1, own 64), (2, 1)]
    let s := withBlock (withCat bare labCat) 64 [(1, 1, 1), (2, 1, 2)]
    let z := begun h s
    let q : Search := ⟨0, 0, false, some 1, 1, 1, false, List.replicate 16 0, true, [], [], false, true⟩
    let done := s.setThread ⟨0, 0⟩ { s.me with search := some q }
    let nan := withBlock s 64 [(64, 0x7FC00000, 4)]
    let hb (s : State) := readPlaces (settlePosted (begun h s) s.cur (span 64 64)) (span 64 64)
    AllIssue [(h, s), (h, bare), (h, done)] ∧
    ((ownBlock z s.cur (own 64) 64 64 3).toOption = some (⟨2, none⟩, span 64 64) ∧ catOf z s.cur 0 false = some labCat ∧
      catOf (begun h bare) bare.cur 0 true = none ∧ blkNat (hb s) 1 1 = 1 ∧ searchBlockBad (hb s) = none ∧ (searchBlockBad (hb (withCat bare labCat))).isSome = true ∧
      (ownBlock z s.cur (own 64) (64 + 4 * 16 + 16) 64 3).toOption = some (⟨2, none⟩, span 64 144) ∧ s.me.search = none ∧ s.me.keptSnap = none ∧
      (loadAt z s.cur ⟨2, none⟩ ((span 64 144).take 128)).isOk = true ∧ badElement (blockVector (readPlaces s (span 64 128)) 16) = none ∧
      badElement (blockVector (readPlaces nan (span 64 128)) 16) = some 0 ∧
      (ownBlock z s.cur (own 64) (64 + 4 * 16) 64 3).isOk = true ∧ labCat.tail = 1 ∧ q.done = true ∧
      (storeAt (begun h done) done.cur ⟨2, none⟩ (span 192 16) (resultBytes [] (found [] q 1) 1)).isOk = true) :=
  ⟨allIssue_of (by decide +kernel), by decide +kernel⟩

/-- CSTV of a good vector, of one with a NaN, under the key of all ones; full Catalogues and logs, the last version. -/
theorem witness_Catalogues_store :
    let g : Form := { gForm [1] with cls := .irrev, home := true }
    let s (key : Nat) := withBlock (withCat (lab 0 [(1, own 64)]) labCat) 64 [(8, key, 8)]
    let z := settlePosted (begun g (s 7)) ⟨0, 0⟩ (span 64 64)
    let y := settlePosted z ⟨0, 0⟩ (span 64 128)
    let nan := withBlock (s 7) 64 [(64, 0x7FC00000, 4)]
    let key (s : State) : Word := BitVec.ofNat 64 (blkNat (readPlaces s (span 64 128)) 8 8)
    AllIssue [(g, s 7), (g, lab 0 [(1, own 64)])] ∧
    ((ownBlock (begun g (s 7)) ⟨0, 0⟩ (own 64) 64 64 rRD).toOption = some (⟨2, none⟩, span 64 64) ∧ catOf z ⟨0, 0⟩ 0 false = some labCat ∧
      catOf (lab 0 []) ⟨0, 0⟩ 0 true = none ∧ (ownBlock z ⟨0, 0⟩ (own 64) 128 64 rRD).toOption = some (⟨2, none⟩, span 64 128) ∧
      (loadAt y ⟨0, 0⟩ ⟨2, none⟩ (span 64 128)).isOk = true ∧ key y = 7 ∧ key (s (2 ^ 64 - 1)) = BitVec.allOnes 64 ∧
      (encodeVector 0 0 (blockVector (readPlaces y (span 64 128)) 16)).isOk = true ∧
      (encodeVector 0 0 (blockVector (readPlaces nan (span 64 128)) 16)).isOk = false ∧ labCat.stored < labCat.cap ∧ labCat.tail < lastVersion ∧
      labCat.full y = false ∧ ({ labCat with tail := 70000 } : Cat).full y = true) :=
  ⟨allIssue_of (by decide +kernel), by decide +kernel⟩

/-- CDEL, CVER and CATDEL of a Catalogue that is there and of one that is gone; a deletion that must wait. -/
theorem witness_Catalogues_named :
    let c1 : Form := { gForm [1, 2] with cls := .irrev }
    let r : Form := gForm [1, 2]
    let c2 : Form := { gForm [1] with cls := .irrev }
    let s := withCat (lab 0 [(1, 0), (2, 7)]) labCat
    let gone := withCat (lab 0 [(1, 1), (2, 7)]) labCat
    AllIssue [(c1, s), (r, s), (c2, s), (c1, gone), (r, gone), (c2, gone)] ∧
    (catOf (begun c1 s) s.cur 0 false = some labCat ∧ catOf (begun c1 gone) gone.cur 1 true = none ∧ catOf (begun r s) s.cur 0 false = some labCat ∧
      catOf (begun r gone) gone.cur 1 false = none ∧ catOf (begun c2 s) s.cur 0 false = some labCat ∧ labCat.full (begun c1 s) = false ∧
      ({ labCat with tail := 70000 } : Cat).full (begun c1 s) = true ∧ catDone (begun c2 s) 0 labCat = true ∧
      catDone (begun c2 s) 0 { labCat with tail := 2 } = false) :=
  ⟨allIssue_of (by decide +kernel), by decide +kernel⟩

/-- A block of CATNEW that passes, and one with 15 elements; no number free. -/
theorem witness_Catalogues_new :
    let g : Form := { gForm [1] with cls := .irrev }
    let s (n : Nat) := withBlock (lab 0 [(1, own 64)]) 64 [(0, n, 2), (4, 8, 1), (6, 8, 2), (8, 0x3F800000, 4), (12, 1, 4)]
    Issues g (s 16) ∧
    ((anyBlock (begun g (s 16)) (s 16).cur (own 64) 64 64).toOption = some (readPlaces (s 16) (span 64 64)) ∧
      catReason (begun g (s 16)) (readPlaces (s 16) (span 64 64)) = none ∧ catReason (begun g (s 15)) (readPlaces (s 15) (span 64 64)) = some 1 ∧
      lowestFree (fun i => ((begun g (s 16)).cats.find? i).isSome) = some 0) :=
  ⟨issues_of (by decide +kernel), by decide +kernel⟩

/-- Whatever the sizes of the free pool, some pool holds one entry, and an empty pool holds none. -/
theorem witness_Catalogues_capacity (per : Nat) : catCapacity (Config.poolFixed + per) per 1 = some 1 := by
  simp only [catCapacity]; split <;> simp_all

/-- An append in flight to an object and to a Catalogue, to one that is gone, to one at its last version or full; a copy behind its log;
a read and a search that wait. -/
theorem witness_LogsAndReplay :
    let e : LogEntry := ⟨0, 0, 0, 0, 0, 1, 0, List.replicate 96 0, 0, [], 0⟩
    let a (cat : Bool) : Flight := .append ⟨0, 0⟩ cat 0 e 0
    let at_ (cat : Bool) : State := { withCat (withObj (lab 0 []) labObj) labCat with flights := [a cat] }
    let s := { at_ false with flights := [] }
    let k : KeptRead := ⟨0x100, 0, 1, 1, List.replicate 96 0, none⟩
    let reads := withObj (labThread 0 [] fun t => { t with run := .parkedEngine .scribeRead 0, kept0 := some k }) labObj
    let q (n : Option Nat) : Search := ⟨0, 0, false, n, 1, 1, false, List.replicate 16 0, false, [], [], false, false⟩
    let finds (n : Option Nat) := withCat (labThread 0 [] fun t => { t with run := .parkedEngine .search 0, search := some (q n) }) labCat
    let paid (s : State) (n : Nat) (ws : List Nat) : Bool := (spend s (ctxOf s ⟨0, 0⟩) 0 2 n ws).isSome
    (at_ false).flights[0]? = some (a false) ∧ (at_ true).flights[0]? = some (a true) ∧
    (lab 0 []).objects.find? 0 = none ∧ (lab 0 []).cats.find? 0 = none ∧ s.objects.find? 0 = some labObj ∧ labObj.tail < lastVersion ∧
    labObj.home = 0 ∧ labObj.last = none ∧ dieOf s (homeTid s ⟨0, 0⟩).core = 0 ∧ paid s 1 (scribeWaiters s 0) = true ∧
    s.cats.find? 0 = some labCat ∧ labCat.home = 0 ∧ labCat.stored < labCat.cap ∧ labCat.tail < lastVersion ∧ (enabledDies s).contains 0 = true ∧
    (labObj.log.find? fun e => e.version == (labObj.copy 0).applied + 1).map (·.method) = some 0 ∧ (labObj.methods[0]?).isSome = true ∧
    pendingRead reads ⟨0, 0⟩ = some (k, labObj) ∧ k.target ≤ (labObj.copy (dieOf reads 0)).applied ∧ (labObj.methods[1]?).isSome = true ∧
    paid reads 1 (scribeWaiters reads (dieOf reads 0)) = true ∧ pendingSearch (finds none) ⟨0, 0⟩ = some (q none, labCat) ∧ labCat.closing = false ∧
    paid (finds none) 1 (scribeWaiters (finds none) 0) = true ∧ pendingSearch (finds (some 1)) ⟨0, 0⟩ = some (q (some 1), labCat) ∧
    1 ≤ (labCat.copy (dieOf (finds none) 0)).applied ∧
    paid (finds (some 1)) (searchPass labCat (labCat.copy 0).entries 1 (q (some 1))).2 (scribeWaiters (finds (some 1)) 0) = true ∧
    (appendDie (at_ false) false 0).any (fun d => !dieRuns (at_ false) d) = false ∧ olderAppend (at_ false) 0 (appendDie (at_ false) false 0) = false ∧
    (appendDie (at_ true) true 0).any (fun d => !dieRuns (at_ true) d) = false ∧ olderAppend (at_ true) 0 (appendDie (at_ true) true 0) = false ∧
    labObj.full s = false ∧ labCat.full s = false ∧ dieRuns s 0 = true ∧ dieOf reads 0 = 0 ∧ dieRuns reads 0 = true := by decide +kernel

/-- Context 2, a child of context 1, context 4, one that is being torn down, and context 3, which was one and is dead. -/
def family (s : State) : State :=
  let child : Context := { bootContext with parent := 1, depth := 2, setts := [], ranges := [] }
  { s with contexts := (s.contexts.insert 2 child).insert 4 { child with st := .stopping }, dead := [(3, 1)] }

/-- CTXNEW with a block that passes and with a bad one; a full depth. -/
theorem witness_ContextTree_new :
    let f : Form := { gForm [1] with cls := .irrev, home := true }
    let blk (es : List (Nat × Nat × Nat)) := withBlock (family (lab 0 [(1, own 64)])) 64 es
    let new := blk [(16, 4, 4), (24, 4096, 8)]
    let z := begun f new
    let b (s : State) := readPlaces (begun f s) (span 64 64)
    AllIssue [(f, new), (f, blk [])] ∧
    ((ctxBlock z new.cur 1 64).toOption = some (b new) ∧ firstBad (ctxnewChecks (b new)) = none ∧
      (firstBad (ctxnewChecks (b (blk [])))).isSome = true ∧ freeContext z = some 3 ∧ ctxOf z new.cur = 1 ∧ (z.ctx 1).depth < 8 ∧
      (childContext z 1 (b new)).ownKey = false ∧
      8 ≤ (({ z with contexts := z.contexts.insert 1 { z.ctx 1 with depth := 8 } } : State).ctx 1).depth) :=
  ⟨allIssue_of (by decide +kernel), by decide +kernel⟩

/-- A grant to the child, to a context outside and to one that stops. -/
theorem witness_ContextTree_grant :
    let f : Form := { gForm [1] with cls := .irrev, home := true }
    let grant (n : Nat) := withBlock (family (lab 0 [(1, own 64)])) 64 [(0, n, 2), (2, 2, 1), (16, 65536, 8)]
    let z (n : Nat) := begun f (grant n)
    let b (n : Nat) := readPlaces (z n) (span 64 64)
    let granted (k : State → Nat → Nat → List Byte → Except Stop State) : Bool := (k (drainPosted (z 2) ⟨0, 0⟩) 1 2 (b 2)).isOk
    AllIssue [(f, grant 2), (f, grant 9), (f, grant 4)] ∧
    ((ctxBlock (z 2) ⟨0, 0⟩ 1 64).toOption = some (b 2) ∧ firstBad (kindChecks (b 2) 5 ++ grantChecks (b 2) true) = none ∧
      targetOf 1 (blkNat (b 2) 0 2) = 2 ∧ inSubtree (z 2) 1 2 = true ∧ ((z 2).ctx 2).parent = 1 ∧ ((z 2).ctx 2).st = .live ∧
      inSubtree (z 9) 1 9 = false ∧ ((z 4).ctx 4).st = .stopping ∧ granted grantKind2 = true ∧ blkNat (b 2) 2 1 = 2) :=
  ⟨allIssue_of (by decide +kernel), by decide +kernel⟩

/-- A teardown of the child with nothing of it running and while a thread of it stands in a hint chain; of the dead context, of one
outside; with a Den in a range the issuer holds and in one it does not; a return of pool memory. -/
theorem witness_ContextTree_revoke :
    let f : Form := { gForm [1] with cls := .irrev, home := true }
    let blk (es : List (Nat × Nat × Nat)) := withBlock (family (lab 0 [(1, own 64)])) 64 es
    let tear (n : Nat) := blk [(0, n, 2)]
    let saved (a : Nat) := blk [(0, 2, 2), (8, 1, 1), (16, a, 8)]
    let other := blk [(0, 2, 2), (2, 1, 1)]
    let setts := blk [(0, 2, 2), (2, 2, 1)]
    let flush := blk [(2, 4, 1)]
    let starts (q : State) (w : Teardown) : Bool := (revokeStep w { q with teardowns := q.teardowns ++ [w] }).2
    let p (s : State) := drainPosted (begun f s) s.cur
    let b (s : State) := readPlaces (begun f s) (span 64 64)
    let good (s : State) : Bool := (firstBad (kindChecks (b s) 4 ++ revokeChecks (b s))).isNone
    let chained :=
      let z := tear 2
      let z := match z.launches with | (_, l) :: _ => { z with launches := z.launches.insert 77 { l with ctx := 2 } } | [] => z
      let z := z.setCore 8 { z.core 8 with launch := some 77 }
      z.setThread ⟨8, 0⟩ { z.thread ⟨8, 0⟩ with run := .ready, chain := some ⟨0x100, 0, none, [1]⟩ }
    AllIssue [(f, tear 2), (f, chained), (f, tear 3), (f, tear 9), (f, tear 0), (f, saved 0), (f, saved (2 ^ 37)), (f, other), (f, setts), (f, flush)] ∧
    ((ctxBlock (begun f (tear 2)) ⟨0, 0⟩ 1 64).toOption = some (b (tear 2)) ∧ good (tear 2) = true ∧
      deadUnder (p (tear 2)) 9 1 2 = false ∧ deadUnder (p (tear 3)) 9 1 3 = true ∧ inSubtree (p (tear 2)) 1 2 = true ∧
      inSubtree (p (tear 9)) 1 9 = false ∧ deadUnder (p (tear 9)) 9 1 9 = false ∧ targetOf 1 0 = 1 ∧
      starts (beginTeardown (p (tear 2)) 2) ⟨2, none, some ⟨0, 0⟩, none, none⟩ = true ∧
      starts (beginTeardown (p chained) 2) ⟨2, none, some ⟨0, 0⟩, none, none⟩ = false ∧
      starts (p setts) ⟨2, none, some ⟨0, 0⟩, some [], none⟩ = true ∧ ((p setts).ctx 2).setts = [] ∧ (p flush).ctx 2 = (p setts).ctx 2 ∧
      good setts = true ∧ good flush = true ∧ blkNat (b setts) 2 1 = 2 ∧ blkNat (b flush) 2 1 = 4 ∧ blkNat (b flush) 0 2 = 0 ∧
      (revokeKind (p flush) 1 (b flush)).isOk = true ∧
      good (saved 0) = true ∧ blkNat (b (saved 0)) 8 1 = 1 ∧ (rangeAt ((p (saved (2 ^ 37))).ctx 1) (2 ^ 37)).isNone = true ∧
      good other = true ∧ (revokeKind (p other) 2 (b other)).isOk = true) :=
  ⟨allIssue_of (by decide +kernel), by decide +kernel⟩

/-- CTXSTAT of a context of the subtree, of a dead one and of one outside, with a selector that exists and one that does not. -/
theorem witness_ContextTree_stat :
    let g : Form := { gForm [1, 2] with cls := .irrev }
    let s := family (lab 0 [(1, 2), (2, 0)])
    AllIssue [(g, s), (g, family (lab 0 [(1, 3)])), (g, family (lab 0 [(1, 9)])), (g, family (lab 0 [(1, 2), (2, 6)]))] ∧
    (field (0 : Word) 3 0 = 0 ∧ 5 < field (6 : Word) 3 0 ∧ inSubtree (begun g s) 1 2 = true ∧ inSubtree (begun g s) 1 3 = false ∧
      deadUnder (begun g s) 9 1 3 = true ∧ deadUnder (begun g s) 9 1 9 = false) :=
  ⟨allIssue_of (by decide +kernel), by decide +kernel⟩

/-- A launch on a second sett of context 1; a core in use; a boot image outside the ranges; targets dead, stopping and outside. -/
theorem witness_LaunchesAndResumption_launch :
    let f : Form := { gForm [1] with cls := .irrev }
    let s := family (lab 0 [(1, own 64)])
    let s := s.setCtx 1 { s.ctx 1 with setts := [(0, 0), (1, 1)] }
    let blk (v y : Nat) := withBlock s 64 [(4, 0xFFFFFFFF, 4), (8, 0xFFFFFFFF, 4), (12, v, 2), (14, 1, 2), (16, 1, 2), (18, 1, 2), (28, y, 2)]
    let z (v y : Nat) := begun f (blk v y)
    let b (v y : Nat) := readPlaces (z v y) (span 64 64)
    let any : Context := { Context.bare with codeLen := 2 ^ 32, isRes := (blkNat (b 8 3) 30 1).testBit 4 }
    let held (c : Context) := (heldPieces c c.bootPA (c.bootPA + c.bootLen)).foldl (fun n f => n + f.len) 0
    let outside : Context := { (z 8 1).ctx 1 with bootLen := 2 ^ 40 }
    AllIssue [(f, blk 8 1), (f, blk 0 1), (f, blk 8 3), (f, blk 8 4), (f, blk 8 9), (f, s)] ∧
    ((anyBlock (z 8 1) ⟨0, 0⟩ (own 64) 64 64).toOption = some (b 8 1) ∧ inSubtree (z 8 1) 1 (targetOf 1 1) = true ∧ ((z 8 1).ctx 1).st = .live ∧
      firstBad (lnchChecks (b 8 1) ((z 8 1).ctx 1)) = none ∧ (firstBad (lnchChecks (readPlaces (begun f s) (span 64 64)) ((z 8 1).ctx 1))).isSome = true ∧
      bindable (z 8 1) 1 false 8 = some 8 ∧ bindable (z 0 1) 1 false 0 = none ∧ ((z 8 1).ctx 1).bootLen ≤ held ((z 8 1).ctx 1) ∧
      held outside < outside.bootLen ∧
      inSubtree (z 8 3) 1 3 = false ∧ deadUnder (z 8 3) 9 1 3 = true ∧ firstBad (lnchChecks (b 8 3) any) = none ∧
      inSubtree (z 8 4) 1 4 = true ∧ ((z 8 4).ctx 4).st = .stopping ∧ deadUnder (z 8 9) 9 1 9 = false ∧ inSubtree (z 8 9) 1 9 = false) :=
  ⟨allIssue_of (by decide +kernel), by decide +kernel⟩

/-- RESUME of a held thread, of one held for another handler, of one that runs, of a context that is dead or stops; ACTION 3 by context 1
and by the root. -/
theorem witness_LaunchesAndResumption_resume :
    let f : Form := { gForm [1] with cls := .irrev, home := true }
    let s := family (lab 0 [(1, own 64)])
    let three (r : Run) (n : Nat) (es : List (Nat × Nat × Nat)) := withBlock (s.setThread ⟨0, 3⟩ { s.thread ⟨0, 3⟩ with run := r, heldFor := some (n, 7) }) 64 es
    let held := three .held 1 [(0, 1, 2), (4, 3, 1)]
    let aim (y act : Nat) := three .held 1 [(0, y, 2), (4, 3, 1), (5, act, 1)]
    let root := let z := aim 0 3; { z with launches := z.launches.map fun e => (e.1, { e.2 with ctx := 0 }) }
    let p (s : State) := drainPosted (begun f s) s.cur
    let b (s : State) := readPlaces (begun f s) (span 64 128)
    AllIssue [(f, held), (f, aim 1 3), (f, aim 3 0), (f, aim 4 0), (f, aim 9 0), (f, root)] ∧
    ((ctxBlock (begun f held) held.cur 1 128).toOption = some (b held) ∧ firstBad (resumeChecks (b held)) = none ∧
      firstBad (resumeChecks (b (aim 1 3))) = none ∧ coreOfVc (p held) 1 0 = some 0 ∧ coreOfVc (p held) 1 100 = none ∧
      ((p held).ctx 1).st = .live ∧ ((p held).thread ⟨0, 3⟩).run = .held ∧ ((p held).thread ⟨0, 3⟩).heldFor = some (1, 7) ∧ ctxOf (p held) ⟨0, 3⟩ = 1 ∧
      ((three .held 0 []).thread ⟨0, 3⟩).heldFor = some (0, 7) ∧ ((three .ready 1 []).thread ⟨0, 3⟩).run = .ready ∧
      inSubtree (p (aim 3 0)) 1 3 = false ∧ deadUnder (begun f (aim 3 0)) 9 1 3 = true ∧ inSubtree (p (aim 4 0)) 1 4 = true ∧
      ((p (aim 4 0)).ctx 4).st = .stopping ∧ deadUnder (begun f (aim 9 0)) 9 1 9 = false ∧
      firstBad (resumeChecks (b root)) = none ∧ blkNat (b root) 5 1 = 3 ∧ ctxOf (begun f root) root.cur = 0) :=
  ⟨allIssue_of (by decide +kernel), by decide +kernel⟩

/-- WKDONE of a miss with a record that installs and with one that does not, of no miss, and with a bad code. -/
theorem witness_LaunchesAndResumption_walk :
    let h : Form := { gForm [1, 2] with role := .t15, home := true }
    let m : MissRec := ⟨5, 0, 1, 0, 8, 64, 64, 0, .thread⟩
    let walker (w : Nat) := let z := lab 15 [(1, BitVec.ofNat 64 w), (2, own 64)]; z.setCore 0 { z.core 0 with misses := [m] }
    let e := withBlock (walker 5) 64 [(16, 4096, 8), (24, 15, 4)]
    let z (s : State) := settlePosted (begun h s) s.cur (span 64 32)
    let codes := [0, 1, cPAGE_FAULT, cXLATE_RIGHTS]
    AllIssue [(h, walker 5), (h, walker 6), (h, walker 0x20005), (h, e)] ∧
    (((begun h (walker 5)).core 0).misses.find? (fun m => m.id == field 5 15 0) = some m ∧ field (5 : Word) 31 16 ∈ codes ∧
      ((begun h (walker 6)).core 0).misses.find? (fun m => m.id == field 6 15 0) = none ∧ field (0x20005 : Word) 31 16 ∉ codes ∧
      (ownBlock (begun h (walker 5)) ⟨0, 15⟩ (own 64) 32 32 rRD).toOption = some (⟨2, none⟩, span 64 32) ∧
      installEntry (z (walker 5)) 1 (readPlaces (z (walker 5)) (span 64 32)) 64 = none ∧
      (installEntry (z e) 1 (readPlaces (z e) (span 64 32)) 64).isSome = true) :=
  ⟨allIssue_of (by decide +kernel), by decide +kernel⟩

/-- A reflection for context 1, whose child 2 names T0 of core 0; a system call and another trap for the root, whose child names no core. -/
theorem witness_ReflectionBudgetsAndHostWrites :
    let fl (h x code : Nat) : Flight := .reflection h ⟨0, 0⟩ code false false false 0 0 0 [] x 0
    let s := advanceGts (family (lab 0 [])) 5
    let at_ (f : Flight) : State := { s with flights := [f] }
    let child := s.ctx (childToward s 9 1 2)
    (at_ (fl 1 2 1)).flights[0]? = some (fl 1 2 1) ∧ 0 < gts (at_ (fl 1 2 1)) ∧ childToward s 9 1 2 = 2 ∧ coreOfVc s 1 child.hvc = some 0 ∧
    child.hthr = 0 ∧ ((s.core 0).launch.bind s.launches.find?).map (·.ctx) = some 1 ∧ settClock s (settOf 0) = true ∧
    (s.core 0).inbox.length < inboxPlaces ∧ childToward s 9 0 1 = 1 ∧
    coreOfVc s 0 ({ s.ctx 1 with hvc := 8191 } : Context).hvc = none ∧ cSYSCALL ≠ cILLEGAL ∧
    s.linkUp = true ∧ Config.hostBase ≤ 2 ^ 41 ∧ 2 ^ 41 % 64 + 64 ≤ 64 ∧ 2 ^ 41 < Config.fabricBase := by decide +kernel

/-- A switch of partition 1 that is armed, in its grace window and stopped; one whose die has not reported; a Den that cannot be restored. -/
theorem witness_GangSwitches :
    let s := lab 0 []
    let w (n : Nat) : Switch := ⟨100, 1, 1, false, 100, 100000, 0, 0, n, 0, [], false, [], []⟩
    let at_ (n : Nat) : State := { s with switches := [w n] }
    let den : Den := ⟨1, true, 0, [], 1, false, [], [], [], [], [], []⟩
    let parted := labSett (at_ 2) fun x => { x with part := 1 }
    (List.replicate 64 (0 : Byte)).length = 64 ∧ isPartition { s with contexts := s.contexts.insert 0 { s.ctx 0 with depth := 1 } } (slotOf (List.replicate 64 0)).out = true ∧
    armedSwitch (at_ 0) 1 = some (w 0) ∧ activeSwitch (at_ 0) 1 = none ∧ switchedOut (at_ 0) 1 = false ∧ switchedOut { at_ 0 with dens := [den] } 1 = true ∧
    ({ at_ 0 with dens := [den] }.dens.zipIdx.find? fun e => e.1.bySwitch && e.1.root == (w 0).inn) = some (den, 0) ∧ dieRuns parted 0 = true ∧
    activeSwitch (at_ 1) 1 = some (w 1) ∧ activeSwitch (at_ 2) 1 = some (w 2) ∧ (w 2).flushed = false ∧
    quiet parted 1 = true ∧ (partDies parted 1).contains 0 = true ∧ gts parted ≤ (w 2).stop + (w 2).deadline ∧ parted.flights.any (parkable parted 1) = false ∧
    (restoreReason { s with dens := [den] } den []).isSome = true := by decide +kernel

/-- MARK with its switch off; a pulse that is due, an entry that matches the ready thread, a halted thread. -/
theorem witness_Spoor :
    let s := lab 0 []
    let pulse := s.setCtx 1 { s.ctx 1 with spoor := BitVec.ofNat 64 (1024 * 2 ^ 32 + 8) }
    let stops := s.setCtx 1 { s.ctx 1 with spoor := 0x20, bps := (s.ctx 1).bps.setIfInBounds 0 ⟨0x100, 0, 8192, 0xFFFF, 0x80, 0, 0, 0⟩ }
    let halted := labThread 0 [] fun t => { t with halted := some 10 }
    Issues (gForm [1, 2]) s ∧
    (bit ((begun (gForm [1, 2]) s).ctx (ctxOf (begun (gForm [1, 2]) s) s.cur)).spoor 1 = false ∧
      isContext pulse 1 = true ∧ bit (pulse.ctx 1).spoor 3 = true ∧ field (pulse.ctx 1).spoor 63 32 = 1024 ∧
      (breakCheck stops ⟨0, 0⟩).2 = some 0 ∧ ((breakCheck stops ⟨0, 0⟩).1.thread ⟨0, 0⟩).run = .ready ∧
      ((breakCheck stops ⟨0, 0⟩).1.thread ⟨0, 0⟩).halted = none ∧ (halted.thread ⟨0, 0⟩).halted ≠ none ∧ (s.thread ⟨0, 0⟩).run ≠ .dormant ∧
      (threadsOf s 1).contains ⟨0, 0⟩ = true) :=
  ⟨issues_of (by decide +kernel), by decide +kernel⟩

/-- A rank's contribution of 16 FP32 elements in the sett. -/
def labContrib (s : State) (rank op : Nat) : Contrib :=
  ⟨1, 0, 0, rank, 0, 0, op, 16, false, false, 0, some 0, inSett 64, inSett 256, 0, ⟨0, 0⟩, s.me.segBase, s.me.segLimit, none, 0⟩

/-- An all-reduce with its group of two ranks on one die; both contributions there, agreeing and not; a passed deadline. -/
theorem witness_CollectivesAndEgress_coll :
    let f : Form := { gForm [1] with cls := .irrev, home := true }
    let gr : Group := ⟨1, 0, [(0, 0, 1), (0, 0, 2)]⟩
    let s := withBlock { lab 0 [(1, own 64)] with groups := [gr] } 64 [(8, 16, 4), (12, 1, 4), (16, (inSett 64).toNat, 8), (24, (inSett 256).toNat, 8)]
    let z := settlePosted (begun f s) s.cur (span 64 64)
    let v := viewOf z s.cur
    let blk := readPlaces z (span 64 64)
    let late := { s with contribs := [labContrib s 0 0] }
    let both (op : Nat) := { s with contribs := [labContrib s 0 0, labContrib s 1 op] }
    let all := gathered (both 0) gr 0
    AllIssue [(f, s), (f, lab 0 [(1, own 64)])] ∧
    ((ownBlock (begun f s) s.cur (own 64) 64 64 rRD).toOption = some (⟨2, none⟩, span 64 64) ∧ collMalformed z s.cur v 0 blk = 0 ∧
      collMalformed (begun f (lab 0 [])) s.cur v 0 blk = 1 ∧ groupOf z (partOf z 9 1) 0 = some gr ∧
      (extentCheck z v (inSett 64) (0, srcBytes 0 0 16 2) rRD).isOk = true ∧ (extentCheck z v (inSett 256) (0, dstBytes 0 0 16 2) rWR).isOk = true ∧
      hState ((z.sett 0).handle 0) = hFree ∧ groupOf late 1 0 = some gr ∧ gathered late gr 0 = [labContrib s 0 0] ∧
      (labContrib s 0 0).deadline = some 0 ∧ (labContrib s 0 0).pausedAt = none ∧ 0 ≤ gts late ∧ late.collFails = [] ∧
      disagree (gathered (both 1) gr 0) = true ∧ disagree all = false ∧ gr.ranks.any (rankGone (both 0)) = true ∧
      gr.ranks.any (rankGone { both 0 with contexts := (both 0).contexts.insert 2 ((both 0).ctx 1) }) = false ∧ all.length = 2 ∧ collClocks (both 0) all = true ∧
      (all.all fun c => !asked (both 0) c.issuer.core c.miss) = true ∧ (collReach (both 0) 2 all).isOk = true ∧ (collTokens (both 0) gr all).isSome = true) :=
  ⟨allIssue_of (by decide +kernel), by decide +kernel⟩

/-- A tile of 16 by 16 whose planes lie in protected shelves and whose destination is host memory. -/
def egressLab (es : List (Nat × Nat × Nat)) : State :=
  let s := labCore 0 [(1, own 64)] fun c => { c with shfmt := c.shfmt.setIfInBounds 1 8 }
  let s := labSett s fun x => { x with rangeTlb := [⟨1, 0, 2 ^ 20, Config.hostBase, 15, 7, 0, 0, false⟩] }
  let s := s.setCtx 1 { s.ctx 1 with egEnable := true }
  withBlock s 64 ([(8, 16, 2), (10, 16, 2), (16, 16, 2), (18, 16, 2), (24, (own 0x4000).toNat, 8), (32, (own 0x4100).toNat, 8), (40, (own 0x4140).toNat, 8),
    (48, 5 * 2 ^ 61, 8)] ++ es)

/-- A clip that is not open, one that is open and one that has failed; 16 open ones; planes, a geometry and a destination that fail; a tile
and a record for the marker. -/
theorem witness_CollectivesAndEgress_clip :
    let f : Form := { gForm [1] with cls := .irrev, home := true }
    let s := egressLab []
    let z (s : State) := settlePosted (begun f s) s.cur (span 64 64)
    let v := viewOf (z s) s.cur
    let blk := readPlaces (z s) (span 64 64)
    let clip (n : Nat) (b : Bool) : Clip := ⟨n, 16, 16, 0, 1, 0, [], b⟩
    let opened (b : Bool) := s.setCtx 1 { s.ctx 1 with clips := [clip 0 b] }
    let many := s.setCtx 1 { s.ctx 1 with clips := (List.range 16).map fun n => clip (n + 1) false }
    let goes (a : Word) (n : Nat) : Option Bool := (hostPlaces (z s) v a n).toOption.map (·.isSome)
    let eg : Flight := .egress ⟨0, 0⟩ 1 blk [] [] [] (5 * 2 ^ 61) 0 s.me.segBase s.me.segLimit
    let fin : Flight := .egfin ⟨0, 0⟩ 1 0 (5 * 2 ^ 61) 0 s.me.segBase s.me.segLimit 0
    let flies (e : Flight) : State := { s with flights := [e] }
    AllIssue [(f, s), (f, many), (f, opened false), (f, opened true), (f, egressLab [(24, 0, 8)]), (f, egressLab [(16, 15, 2)])] ∧
    ((ownBlock (begun f s) s.cur (own 64) 64 64 rRD).toOption = some (⟨2, none⟩, span 64 64) ∧ clipOf ((z s).ctx 1) (egClip blk) = none ∧
      ((z s).ctx 1).clips.length < 16 ∧ (egPlanes (z s) v blk).isSome = true ∧ egGeometry blk = true ∧
      goes (egAddr blk 48) (egTW blk * egTH blk * 3 / 2) = some true ∧ goes (egAddr blk 48) 3520 = some true ∧ goes (own 64) 384 = some false ∧
      ((z s).ctx 1).egEnable = true ∧ (egSignalCheck (z s) v (egAddr blk 56)).isOk = true ∧ partOf (z s) 9 (ctxOf (z s) s.cur) = 1 ∧
      16 ≤ ((z many).ctx 1).clips.length ∧ clipOf ((z many).ctx 1) 0 = none ∧ clipOf ((z (opened false)).ctx 1) 0 = some (clip 0 false) ∧
      clipOf ((z (opened true)).ctx 1) 0 = some (clip 0 true) ∧ closing (z (opened false)) 1 0 = false ∧
      egPlanes (z (egressLab [(24, 0, 8)])) v (readPlaces (egressLab [(24, 0, 8)]) (span 64 64)) = none ∧
      egGeometry (readPlaces (egressLab [(16, 15, 2)]) (span 64 64)) = false ∧ marks (flies eg) eg = true ∧ marks (flies fin) fin = true ∧
      tileWaits (flies fin) 1 0 = false ∧ settClock s (settOf 0) = true ∧
      (flies (.planes ⟨0, 0⟩ 1 blk [] [] [] 0 0 s.me.segBase s.me.segLimit)).flights[0]? = some (.planes ⟨0, 0⟩ 1 blk [] [] [] 0 0 s.me.segBase s.me.segLimit)) :=
  ⟨allIssue_of (by decide +kernel), by decide +kernel⟩

/-- A partition, a die that runs, one that is hot and one that relocks; slews that are due and not; host writes and a port. -/
theorem witness_PackageSteps :
    let s := lab 0 []
    isPartition s 1 = true ∧ (s.die 0).enabled = true ∧ s.lastSlew = none ∧ gts { s with lastSlew := some 5 } < 5 + 1024 ∧
    ((s.die 0).cap < 3 ∧ (s.die 0).capAt = none ∧ 95 < 96 ∧ 105 < 106) ∧
    (let y := s.setDie 0 { s.die 0 with power := 4000 }
     s.plim < partPower y ∧ highestPower y 0 = true ∧ highestPower y 1 = false ∧ s.plim ≤ partPower y) ∧
    ({ s with form := 3 } : State).form ≠ 0 ∧ 600 ≤ plimMax 3 ∧ plimMax 3 = 2100 ∧ plimMax 4 = 2800 ∧ s.linkUp = true ∧
    (∀ a ∈ span 0 64, a % 2 ^ 37 < dieDram (s.die (a / 2 ^ 37)) ∧ ∃ e ∈ [(0, 64)], e.1 ≤ a ∧ a < e.1 + e.2) ∧
    ({ s with hostVisible := [(0, 64)] } : State).hostVisible = [(0, 64)] ∧ ({ s with linkUp := false } : State).linkUp = false ∧ (List.replicate 32 (0 : Byte)).length = 32 ∧
    ({ s with dies := s.dies.setIfInBounds 0 { s.die 0 with relock := some (9, 2) } }.die 0).relock = some (9, 2) ∧
    ({ s with dies := s.dies.setIfInBounds 0 { s.die 0 with relock := some (9, 2) } }.die 0).kept = none := by decide +kernel

/-- A package in reset, and one that runs; what a start finds falls under exactly one of its clauses, whatever the free outcomes. -/
theorem witness_StartsAndResets (n : Nat) (survives : Prop) : (packageReset State.reset false).power ≠ .running ∧ State.reset.power = .running ∧
    ((survives ∧ Config.linkFails n = false ∧ imageLoads 0 = true) ∨ (survives ∧ Config.linkFails n = true) ∨
      (survives ∧ Config.linkFails n = false ∧ imageLoads 0 = false) ∨ ¬ survives) := by
  refine ⟨by decide +kernel, by decide +kernel, ?_⟩
  by_cases h : survives <;> cases Config.linkFails n <;> cases imageLoads 0 <;> simp [h]

theorem witness_ResetState : (⟨0, 15⟩ : Tid).thr < 16 := by decide

theorem witness_MemoryStaysCanonical :
    let s := State.reset.withFetchWord 32 0x06060005
    s.dram.wf = true ∧ s.archive.wf = true ∧ s.outside.wf = true ∧ (s.cores.all fun e => e.2.spad.wf) = true ∧ (s.setts.all fun e => e.2.mem.wf) = true ∧
    s.dens = [] ∧ (match step s with | .next _ => true | _ => false) = true := by decide +kernel

end Sys2Proof.Tests
end

/-! # The statements of chapter 03: words, hints, control registers -/

namespace Sys2Proof.Laws.Words

/-- The laws of the single instructions together, in the order of the opcode table: the decoder reads back the word of every
well-formed instruction. -/
theorem statement_all (i : Instr) : Statement i :=
  i.casesOn
    add sub and or xor shl shr sar min minN max maxN leaB leaH leaW leaD popc clz ctz brev bext bins sel cmpEq cmpNe cmpLt cmpLe
    cmpLtn cmpLen mul mulh mulhN div divN rem remN addi andi ori xori shli shri sari cmpiEq cmpiNe cmpiLt cmpiLtn br jmp call jmpr
    callr eret idle brk mark csrr csrw csrset csrclr sys trap ld st ldS pft ldo sto enter leave amoAdd amoAnd amoOr amoXor amoMin
    amoMax amoMinn amoMaxn amoSwap amoFadd cas fenceLdld fenceLdst fenceStld fenceStst fenceAll bari bara barw waita sigdec sigwait
    msend mrecv mpoll pjack psto spawn reap yield ypt fork join tend tspawn tstamp migr homec mbput mbputRel mbget wkdone scld vadd
    vsub vmul vfma vfmab vmin vmax vand vor vxor vshl vshr vcmpEq vcmpNe vcmpLt vcmpLe vsel vabs vneg vrcp vrsq vexp2 vlog2 vcvtF2s
    vcvtF2n vcvtS2f vcvtN2f vcvtF2b vcvtF2h vcvtB2f vcvtH2f vcvtF2e4 vcvtF2e5 vcvtE4f vcvtE5f vredSum vredMin vredMax vredAnd vredOr
    vredXor vscanSum vscanMin vscanMax vscanAnd vscanOr vscanXor kand kor kxor knot kmovK kmovFromG kmovToG kpack kunpk kpopc vperm
    vrot vqnt vdq vlane vins vld vst vlds vsts vgth vsct vbcst qpush qpop tlda tldb tgtha tmma tspm tzero tldc tstc abal abfr lset
    tgeoOrg tgeoMask ttask tgrp cpy cpyNb cpyc cpycNb cpyst hwait hacq hrel hstat aopAdd aopAnd aopOr aopXor aopMin aopMax aopMinn
    aopMaxn aopSwap aopFadd aopFaddBf16 ared axpy afill collAr collAg collRs cnear cnearLocal cstv cdel cver catnew catdel rcall
    rcallNb rread rreadLocal rwait objnew objdel himm hsch hschIdle hmod egrs egfin ctxnew ctxgrant ctxrevoke ctxstat resume lnch hnop
    reservedHint illegalInstr asynchronousTrap reflectionMessage stallExpiry hschWaitExpiry interlockedValueWrite lineWake
    cacheLineInvalidation idleTimeWake barrierArrival barrierReply messageArrival scaleMessage postedStoreApply migrationArrival
    migrationReturn recompute copyChunk cpycVersionCheck copyCompletion bankLineUpdate tileCommandBegin tileChunk completionWordPost
    taskDispatch taskCompletion logAppend entryApply rreadRun searchAdmission searchStep budgetRefill switchSlotArm switchTick
    stopInstant parkBufferFlush denSaveReport switchAbort denRestore stepRequest relockEnd thermalGovernor refreshDoubling thermalTrip
    plimWrite linkRetrain fabricPortDown hostMemoryAccess attestationRequest collectiveCompletion collectiveTimeout egressTileMark
    clipRecord samplingPulse breakpointMatch debugRun debugStep debugHalt spoorControlWrite coldStart warmStart scWindowClose
    timeMasterAlignment coreSoftError debugRegisterAccess egressSettingWrite collectiveGroupDefine msixWindowWrite hostReset

end Sys2Proof.Laws.Words

namespace Sys2Proof

/-! ## A word is its fields (R34)

`fields_0` to `fields_24` read the fields of a word; these are their converses, one for each layout, named after R34's formats
and the instructions that divide a field further. -/

section Words

variable {w : BitVec 32} {f : Fetched}

/-- Two neighbouring fields of a word, laid side by side, are one field. -/
theorem ext_glue {n hi lo l m : Nat} {w : BitVec n} {p : BitVec l} {q : BitVec m} (h : hi = lo + m) (hp : w.extractLsb' hi l = p)
    (hq : w.extractLsb' lo m = q) : w.extractLsb' lo (l + m) = p ++ q := by
  subst h; exact ext_join hp hq

/-- The arm of a chain of tests that answered. -/
theorem eq_of_ite_eq_some {α : Type} {c : Prop} [Decidable c] {a f : α} {o : Option α} (h : (if c then some a else o) = some f) :
    (c ∧ a = f) ∨ o = some f := by
  split at h
  · exact .inl ⟨‹c›, Option.some.inj h⟩
  · exact .inr h

theorem word_A {x0 : BitVec 7} {x1 : BitVec 3} {x2 x3 x4 : BitVec 5} {x5 : BitVec 7}
    (h0 : w.extractLsb' 25 7 = x0) (h1 : w.extractLsb' 22 3 = x1) (h2 : w.extractLsb' 17 5 = x2) (h3 : w.extractLsb' 12 5 = x3)
    (h4 : w.extractLsb' 7 5 = x4) (h5 : w.extractLsb' 0 7 = x5) :
    x0 ++ x1 ++ x2 ++ x3 ++ x4 ++ x5 = w :=
  (ext_glue rfl (ext_glue rfl (ext_glue rfl (ext_glue rfl (ext_glue rfl h0 h1) h2) h3) h4) h5).symm.trans (ext_all w)

theorem word_cmp {x0 : BitVec 7} {x1 : BitVec 3} {x2 : BitVec 2} {x3 : BitVec 3} {x4 x5 : BitVec 5} {x6 : BitVec 7}
    (h0 : w.extractLsb' 25 7 = x0) (h1 : w.extractLsb' 22 3 = x1) (h2 : w.extractLsb' 20 2 = x2) (h3 : w.extractLsb' 17 3 = x3)
    (h4 : w.extractLsb' 12 5 = x4) (h5 : w.extractLsb' 7 5 = x5) (h6 : w.extractLsb' 0 7 = x6) :
    x0 ++ x1 ++ x2 ++ x3 ++ x4 ++ x5 ++ x6 = w :=
  (ext_glue rfl (ext_glue rfl (ext_glue rfl (ext_glue rfl (ext_glue rfl (ext_glue rfl h0 h1) h2) h3) h4) h5) h6).symm.trans (ext_all w)

theorem word_I {x0 : BitVec 7} {x1 : BitVec 3} {x2 x3 : BitVec 5} {x4 : BitVec 12}
    (h0 : w.extractLsb' 25 7 = x0) (h1 : w.extractLsb' 22 3 = x1) (h2 : w.extractLsb' 17 5 = x2) (h3 : w.extractLsb' 12 5 = x3)
    (h4 : w.extractLsb' 0 12 = x4) :
    x0 ++ x1 ++ x2 ++ x3 ++ x4 = w :=
  (ext_glue rfl (ext_glue rfl (ext_glue rfl (ext_glue rfl h0 h1) h2) h3) h4).symm.trans (ext_all w)

theorem word_cmpi {x0 : BitVec 7} {x1 : BitVec 3} {x2 : BitVec 2} {x3 : BitVec 3} {x4 : BitVec 5} {x5 : BitVec 12}
    (h0 : w.extractLsb' 25 7 = x0) (h1 : w.extractLsb' 22 3 = x1) (h2 : w.extractLsb' 20 2 = x2) (h3 : w.extractLsb' 17 3 = x3)
    (h4 : w.extractLsb' 12 5 = x4) (h5 : w.extractLsb' 0 12 = x5) :
    x0 ++ x1 ++ x2 ++ x3 ++ x4 ++ x5 = w :=
  (ext_glue rfl (ext_glue rfl (ext_glue rfl (ext_glue rfl (ext_glue rfl h0 h1) h2) h3) h4) h5).symm.trans (ext_all w)

theorem word_B {x0 : BitVec 7} {x1 x2 : BitVec 3} {x3 : BitVec 1} {x4 : BitVec 18}
    (h0 : w.extractLsb' 25 7 = x0) (h1 : w.extractLsb' 22 3 = x1) (h2 : w.extractLsb' 19 3 = x2) (h3 : w.extractLsb' 18 1 = x3)
    (h4 : w.extractLsb' 0 18 = x4) :
    x0 ++ x1 ++ x2 ++ x3 ++ x4 = w :=
  (ext_glue rfl (ext_glue rfl (ext_glue rfl (ext_glue rfl h0 h1) h2) h3) h4).symm.trans (ext_all w)

theorem word_J {x0 : BitVec 7} {x1 : BitVec 3} {x2 : BitVec 22}
    (h0 : w.extractLsb' 25 7 = x0) (h1 : w.extractLsb' 22 3 = x1) (h2 : w.extractLsb' 0 22 = x2) :
    x0 ++ x1 ++ x2 = w :=
  (ext_glue rfl (ext_glue rfl h0 h1) h2).symm.trans (ext_all w)

theorem word_brk {x0 : BitVec 7} {x1 : BitVec 3} {x2 : BitVec 15} {x3 : BitVec 7}
    (h0 : w.extractLsb' 25 7 = x0) (h1 : w.extractLsb' 22 3 = x1) (h2 : w.extractLsb' 7 15 = x2) (h3 : w.extractLsb' 0 7 = x3) :
    x0 ++ x1 ++ x2 ++ x3 = w :=
  (ext_glue rfl (ext_glue rfl (ext_glue rfl h0 h1) h2) h3).symm.trans (ext_all w)

theorem word_M {x0 : BitVec 7} {x1 : BitVec 3} {x2 x3 : BitVec 5} {x4 : BitVec 2} {x5 : BitVec 10}
    (h0 : w.extractLsb' 25 7 = x0) (h1 : w.extractLsb' 22 3 = x1) (h2 : w.extractLsb' 17 5 = x2) (h3 : w.extractLsb' 12 5 = x3)
    (h4 : w.extractLsb' 10 2 = x4) (h5 : w.extractLsb' 0 10 = x5) :
    x0 ++ x1 ++ x2 ++ x3 ++ x4 ++ x5 = w :=
  (ext_glue rfl (ext_glue rfl (ext_glue rfl (ext_glue rfl (ext_glue rfl h0 h1) h2) h3) h4) h5).symm.trans (ext_all w)

theorem word_MO {x0 : BitVec 7} {x1 : BitVec 3} {x2 x3 : BitVec 5} {x4 : BitVec 3} {x5 : BitVec 2} {x6 : BitVec 3} {x7 : BitVec 4}
    (h0 : w.extractLsb' 25 7 = x0) (h1 : w.extractLsb' 22 3 = x1) (h2 : w.extractLsb' 17 5 = x2) (h3 : w.extractLsb' 12 5 = x3)
    (h4 : w.extractLsb' 9 3 = x4) (h5 : w.extractLsb' 7 2 = x5) (h6 : w.extractLsb' 4 3 = x6) (h7 : w.extractLsb' 0 4 = x7) :
    x0 ++ x1 ++ x2 ++ x3 ++ x4 ++ x5 ++ x6 ++ x7 = w :=
  (ext_glue rfl (ext_glue rfl (ext_glue rfl (ext_glue rfl (ext_glue rfl (ext_glue rfl (ext_glue rfl h0 h1) h2) h3) h4) h5) h6)
      h7).symm.trans (ext_all w)

theorem word_V {x0 : BitVec 7} {x1 : BitVec 3} {x2 x3 x4 : BitVec 5} {x5 : BitVec 3} {x6 x7 : BitVec 1} {x8 : BitVec 2}
    (h0 : w.extractLsb' 25 7 = x0) (h1 : w.extractLsb' 22 3 = x1) (h2 : w.extractLsb' 17 5 = x2) (h3 : w.extractLsb' 12 5 = x3)
    (h4 : w.extractLsb' 7 5 = x4) (h5 : w.extractLsb' 4 3 = x5) (h6 : w.extractLsb' 3 1 = x6) (h7 : w.extractLsb' 2 1 = x7)
    (h8 : w.extractLsb' 0 2 = x8) :
    x0 ++ x1 ++ x2 ++ x3 ++ x4 ++ x5 ++ x6 ++ x7 ++ x8 = w :=
  (ext_glue rfl (ext_glue rfl (ext_glue rfl (ext_glue rfl (ext_glue rfl (ext_glue rfl (ext_glue rfl (ext_glue rfl h0 h1) h2) h3) h4) h5)
      h6) h7) h8).symm.trans (ext_all w)

theorem word_vcmp {x0 : BitVec 7} {x1 : BitVec 3} {x2 : BitVec 2} {x3 : BitVec 3} {x4 x5 : BitVec 5} {x6 : BitVec 3} {x7 x8 : BitVec 1}
    {x9 : BitVec 2}
    (h0 : w.extractLsb' 25 7 = x0) (h1 : w.extractLsb' 22 3 = x1) (h2 : w.extractLsb' 20 2 = x2) (h3 : w.extractLsb' 17 3 = x3)
    (h4 : w.extractLsb' 12 5 = x4) (h5 : w.extractLsb' 7 5 = x5) (h6 : w.extractLsb' 4 3 = x6) (h7 : w.extractLsb' 3 1 = x7)
    (h8 : w.extractLsb' 2 1 = x8) (h9 : w.extractLsb' 0 2 = x9) :
    x0 ++ x1 ++ x2 ++ x3 ++ x4 ++ x5 ++ x6 ++ x7 ++ x8 ++ x9 = w :=
  (ext_glue rfl (ext_glue rfl (ext_glue rfl (ext_glue rfl (ext_glue rfl (ext_glue rfl (ext_glue rfl (ext_glue rfl (ext_glue rfl h0 h1)
      h2) h3) h4) h5) h6) h7) h8) h9).symm.trans (ext_all w)

theorem word_half {x0 : BitVec 7} {x1 : BitVec 3} {x2 x3 : BitVec 5} {x4 : BitVec 4} {x5 : BitVec 1} {x6 : BitVec 3} {x7 x8 : BitVec 1}
    {x9 : BitVec 2}
    (h0 : w.extractLsb' 25 7 = x0) (h1 : w.extractLsb' 22 3 = x1) (h2 : w.extractLsb' 17 5 = x2) (h3 : w.extractLsb' 12 5 = x3)
    (h4 : w.extractLsb' 8 4 = x4) (h5 : w.extractLsb' 7 1 = x5) (h6 : w.extractLsb' 4 3 = x6) (h7 : w.extractLsb' 3 1 = x7)
    (h8 : w.extractLsb' 2 1 = x8) (h9 : w.extractLsb' 0 2 = x9) :
    x0 ++ x1 ++ x2 ++ x3 ++ x4 ++ x5 ++ x6 ++ x7 ++ x8 ++ x9 = w :=
  (ext_glue rfl (ext_glue rfl (ext_glue rfl (ext_glue rfl (ext_glue rfl (ext_glue rfl (ext_glue rfl (ext_glue rfl (ext_glue rfl h0 h1)
      h2) h3) h4) h5) h6) h7) h8) h9).symm.trans (ext_all w)

theorem word_quarter {x0 : BitVec 7} {x1 : BitVec 3} {x2 x3 : BitVec 5} {x4 : BitVec 3} {x5 : BitVec 2} {x6 : BitVec 3} {x7 x8 : BitVec
    1} {x9 : BitVec 2}
    (h0 : w.extractLsb' 25 7 = x0) (h1 : w.extractLsb' 22 3 = x1) (h2 : w.extractLsb' 17 5 = x2) (h3 : w.extractLsb' 12 5 = x3)
    (h4 : w.extractLsb' 9 3 = x4) (h5 : w.extractLsb' 7 2 = x5) (h6 : w.extractLsb' 4 3 = x6) (h7 : w.extractLsb' 3 1 = x7)
    (h8 : w.extractLsb' 2 1 = x8) (h9 : w.extractLsb' 0 2 = x9) :
    x0 ++ x1 ++ x2 ++ x3 ++ x4 ++ x5 ++ x6 ++ x7 ++ x8 ++ x9 = w :=
  (ext_glue rfl (ext_glue rfl (ext_glue rfl (ext_glue rfl (ext_glue rfl (ext_glue rfl (ext_glue rfl (ext_glue rfl (ext_glue rfl h0 h1)
      h2) h3) h4) h5) h6) h7) h8) h9).symm.trans (ext_all w)

theorem word_vred {x0 : BitVec 7} {x1 : BitVec 3} {x2 x3 : BitVec 5} {x4 x5 : BitVec 1} {x6 x7 : BitVec 3} {x8 x9 : BitVec 1} {x10 :
    BitVec 2}
    (h0 : w.extractLsb' 25 7 = x0) (h1 : w.extractLsb' 22 3 = x1) (h2 : w.extractLsb' 17 5 = x2) (h3 : w.extractLsb' 12 5 = x3)
    (h4 : w.extractLsb' 11 1 = x4) (h5 : w.extractLsb' 10 1 = x5) (h6 : w.extractLsb' 7 3 = x6) (h7 : w.extractLsb' 4 3 = x7)
    (h8 : w.extractLsb' 3 1 = x8) (h9 : w.extractLsb' 2 1 = x9) (h10 : w.extractLsb' 0 2 = x10) :
    x0 ++ x1 ++ x2 ++ x3 ++ x4 ++ x5 ++ x6 ++ x7 ++ x8 ++ x9 ++ x10 = w :=
  (ext_glue rfl (ext_glue rfl (ext_glue rfl (ext_glue rfl (ext_glue rfl (ext_glue rfl (ext_glue rfl (ext_glue rfl (ext_glue rfl (ext_glue
      rfl h0 h1) h2) h3) h4) h5) h6) h7) h8) h9) h10).symm.trans (ext_all w)

theorem word_kmov {x0 : BitVec 7} {x1 : BitVec 3} {x2 x3 : BitVec 5} {x4 : BitVec 3} {x5 : BitVec 9}
    (h0 : w.extractLsb' 25 7 = x0) (h1 : w.extractLsb' 22 3 = x1) (h2 : w.extractLsb' 17 5 = x2) (h3 : w.extractLsb' 12 5 = x3)
    (h4 : w.extractLsb' 9 3 = x4) (h5 : w.extractLsb' 0 9 = x5) :
    x0 ++ x1 ++ x2 ++ x3 ++ x4 ++ x5 = w :=
  (ext_glue rfl (ext_glue rfl (ext_glue rfl (ext_glue rfl (ext_glue rfl h0 h1) h2) h3) h4) h5).symm.trans (ext_all w)

theorem word_vrot {x0 : BitVec 7} {x1 : BitVec 3} {x2 x3 : BitVec 5} {x4 : BitVec 1} {x5 : BitVec 4} {x6 : BitVec 3} {x7 x8 : BitVec 1}
    {x9 : BitVec 2}
    (h0 : w.extractLsb' 25 7 = x0) (h1 : w.extractLsb' 22 3 = x1) (h2 : w.extractLsb' 17 5 = x2) (h3 : w.extractLsb' 12 5 = x3)
    (h4 : w.extractLsb' 11 1 = x4) (h5 : w.extractLsb' 7 4 = x5) (h6 : w.extractLsb' 4 3 = x6) (h7 : w.extractLsb' 3 1 = x7)
    (h8 : w.extractLsb' 2 1 = x8) (h9 : w.extractLsb' 0 2 = x9) :
    x0 ++ x1 ++ x2 ++ x3 ++ x4 ++ x5 ++ x6 ++ x7 ++ x8 ++ x9 = w :=
  (ext_glue rfl (ext_glue rfl (ext_glue rfl (ext_glue rfl (ext_glue rfl (ext_glue rfl (ext_glue rfl (ext_glue rfl (ext_glue rfl h0 h1)
      h2) h3) h4) h5) h6) h7) h8) h9).symm.trans (ext_all w)

theorem word_Q {x0 : BitVec 7} {x1 : BitVec 3} {x2 : BitVec 5} {x3 : BitVec 3} {x4 : BitVec 14}
    (h0 : w.extractLsb' 25 7 = x0) (h1 : w.extractLsb' 22 3 = x1) (h2 : w.extractLsb' 17 5 = x2) (h3 : w.extractLsb' 14 3 = x3)
    (h4 : w.extractLsb' 0 14 = x4) :
    x0 ++ x1 ++ x2 ++ x3 ++ x4 = w :=
  (ext_glue rfl (ext_glue rfl (ext_glue rfl (ext_glue rfl h0 h1) h2) h3) h4).symm.trans (ext_all w)

theorem word_tile {x0 : BitVec 7} {x1 : BitVec 3} {x2 : BitVec 5} {x3 : BitVec 3} {x4 : BitVec 4} {x5 : BitVec 6} {x6 x7 : BitVec 1} {x8
    : BitVec 2}
    (h0 : w.extractLsb' 25 7 = x0) (h1 : w.extractLsb' 22 3 = x1) (h2 : w.extractLsb' 17 5 = x2) (h3 : w.extractLsb' 14 3 = x3)
    (h4 : w.extractLsb' 10 4 = x4) (h5 : w.extractLsb' 4 6 = x5) (h6 : w.extractLsb' 3 1 = x6) (h7 : w.extractLsb' 2 1 = x7)
    (h8 : w.extractLsb' 0 2 = x8) :
    x0 ++ x1 ++ x2 ++ x3 ++ x4 ++ x5 ++ x6 ++ x7 ++ x8 = w :=
  (ext_glue rfl (ext_glue rfl (ext_glue rfl (ext_glue rfl (ext_glue rfl (ext_glue rfl (ext_glue rfl (ext_glue rfl h0 h1) h2) h3) h4) h5)
      h6) h7) h8).symm.trans (ext_all w)

theorem word_bank {x0 : BitVec 7} {x1 : BitVec 3} {x2 : BitVec 5} {x3 : BitVec 3} {x4 : BitVec 2} {x5 x6 : BitVec 6}
    (h0 : w.extractLsb' 25 7 = x0) (h1 : w.extractLsb' 22 3 = x1) (h2 : w.extractLsb' 17 5 = x2) (h3 : w.extractLsb' 14 3 = x3)
    (h4 : w.extractLsb' 12 2 = x4) (h5 : w.extractLsb' 6 6 = x5) (h6 : w.extractLsb' 0 6 = x6) :
    x0 ++ x1 ++ x2 ++ x3 ++ x4 ++ x5 ++ x6 = w :=
  (ext_glue rfl (ext_glue rfl (ext_glue rfl (ext_glue rfl (ext_glue rfl (ext_glue rfl h0 h1) h2) h3) h4) h5) h6).symm.trans (ext_all w)

theorem word_tgeo {x0 : BitVec 7} {x1 : BitVec 3} {x2 : BitVec 5} {x3 : BitVec 3} {x4 : BitVec 13} {x5 : BitVec 1}
    (h0 : w.extractLsb' 25 7 = x0) (h1 : w.extractLsb' 22 3 = x1) (h2 : w.extractLsb' 17 5 = x2) (h3 : w.extractLsb' 14 3 = x3)
    (h4 : w.extractLsb' 1 13 = x4) (h5 : w.extractLsb' 0 1 = x5) :
    x0 ++ x1 ++ x2 ++ x3 ++ x4 ++ x5 = w :=
  (ext_glue rfl (ext_glue rfl (ext_glue rfl (ext_glue rfl (ext_glue rfl h0 h1) h2) h3) h4) h5).symm.trans (ext_all w)

theorem word_hwait {x0 : BitVec 7} {x1 : BitVec 3} {x2 x3 : BitVec 5} {x4 : BitVec 3} {x5 : BitVec 2} {x6 : BitVec 7}
    (h0 : w.extractLsb' 25 7 = x0) (h1 : w.extractLsb' 22 3 = x1) (h2 : w.extractLsb' 17 5 = x2) (h3 : w.extractLsb' 12 5 = x3)
    (h4 : w.extractLsb' 9 3 = x4) (h5 : w.extractLsb' 7 2 = x5) (h6 : w.extractLsb' 0 7 = x6) :
    x0 ++ x1 ++ x2 ++ x3 ++ x4 ++ x5 ++ x6 = w :=
  (ext_glue rfl (ext_glue rfl (ext_glue rfl (ext_glue rfl (ext_glue rfl (ext_glue rfl h0 h1) h2) h3) h4) h5) h6).symm.trans (ext_all w)

theorem word_H {x0 : BitVec 7} {x1 : BitVec 25}
    (h0 : w.extractLsb' 25 7 = x0) (h1 : w.extractLsb' 0 25 = x1) :
    x0 ++ x1 = w :=
  (ext_glue rfl h0 h1).symm.trans (ext_all w)

theorem word_hsch {x0 : BitVec 7} {x1 : BitVec 1} {x2 : BitVec 16} {x3 : BitVec 8}
    (h0 : w.extractLsb' 25 7 = x0) (h1 : w.extractLsb' 24 1 = x1) (h2 : w.extractLsb' 8 16 = x2) (h3 : w.extractLsb' 0 8 = x3) :
    x0 ++ x1 ++ x2 ++ x3 = w :=
  (ext_glue rfl (ext_glue rfl (ext_glue rfl h0 h1) h2) h3).symm.trans (ext_all w)

theorem word_idle {x0 : BitVec 7} {x1 : BitVec 1} {x2 : BitVec 20} {x3 : BitVec 4}
    (h0 : w.extractLsb' 25 7 = x0) (h1 : w.extractLsb' 24 1 = x1) (h2 : w.extractLsb' 4 20 = x2) (h3 : w.extractLsb' 0 4 = x3) :
    x0 ++ x1 ++ x2 ++ x3 = w :=
  (ext_glue rfl (ext_glue rfl (ext_glue rfl h0 h1) h2) h3).symm.trans (ext_all w)

theorem word_hmod {x0 : BitVec 7} {x1 x2 : BitVec 3} {x3 x4 : BitVec 2} {x5 : BitVec 3} {x6 : BitVec 4} {x7 : BitVec 8}
    (h0 : w.extractLsb' 25 7 = x0) (h1 : w.extractLsb' 22 3 = x1) (h2 : w.extractLsb' 19 3 = x2) (h3 : w.extractLsb' 17 2 = x3)
    (h4 : w.extractLsb' 15 2 = x4) (h5 : w.extractLsb' 12 3 = x5) (h6 : w.extractLsb' 8 4 = x6) (h7 : w.extractLsb' 0 8 = x7) :
    x0 ++ x1 ++ x2 ++ x3 ++ x4 ++ x5 ++ x6 ++ x7 = w :=
  (ext_glue rfl (ext_glue rfl (ext_glue rfl (ext_glue rfl (ext_glue rfl (ext_glue rfl (ext_glue rfl h0 h1) h2) h3) h4) h5) h6)
      h7).symm.trans (ext_all w)

/-! ## What the decoder reads stands for its word -/

/-- What was read from the word `w` stands for it: its own word is `w`, and R50's checks mean the same before and after it is named. -/
def Fetched.StandsFor (f : Fetched) (w : BitVec 32) : Prop :=
  encode f.toInstr = some w ∧ (f.wellFormed = true → f.toInstr.wellFormed = true)

theorem wellFormed_reservedHint {maj : BitVec 7} {p : BitVec 25} :
    (Instr.reservedHint maj p).wellFormed = true ↔ 0x74 ≤ maj.toNat ∧ maj.toNat ≤ 0x7E := by
  simp [Instr.wellFormed]

theorem standsFor_decodeMajor01 (hm : w.extractLsb' 25 7 = 1#7) (h : decodeMajor01 w = some f) : f.StandsFor w := by
  unfold decodeMajor01 at h
  split at h <;> cases h
  iterate 23 exact ⟨congrArg some (word_A hm rfl rfl rfl rfl (BitVec.eq_of_toNat_eq ‹_›)), id⟩
  iterate 6 exact ⟨congrArg some (word_cmp hm rfl rfl rfl rfl rfl (BitVec.eq_of_toNat_eq ‹_›)), id⟩

theorem standsFor_decodeMajor02 (hm : w.extractLsb' 25 7 = 2#7) (h : decodeMajor02 w = some f) : f.StandsFor w := by
  unfold decodeMajor02 at h
  split at h <;> cases h
  all_goals exact ⟨congrArg some (word_A hm rfl rfl rfl rfl (BitVec.eq_of_toNat_eq ‹_›)), id⟩

theorem standsFor_decodeMajor0A (hm : w.extractLsb' 25 7 = 10#7) (h : decodeMajor0A w = some f) : f.StandsFor w := by
  unfold decodeMajor0A at h
  split at h <;> cases h
  all_goals exact ⟨congrArg some (word_cmpi hm rfl (BitVec.eq_of_toNat_eq ‹_›) rfl rfl rfl), id⟩

theorem standsFor_decodeMajor13 (hm : w.extractLsb' 25 7 = 19#7) (h : decodeMajor13 w = some f) : f.StandsFor w := by
  unfold decodeMajor13 at h
  split at h <;> cases h
  all_goals exact ⟨congrArg some (word_A hm rfl rfl rfl rfl (BitVec.eq_of_toNat_eq ‹_›)), id⟩

theorem standsFor_decodeMajor18 (hm : w.extractLsb' 25 7 = 24#7) (h : decodeMajor18 w = some f) : f.StandsFor w := by
  unfold decodeMajor18 at h
  split at h <;> cases h
  iterate 2 exact ⟨congrArg some (word_A hm rfl rfl rfl rfl (BitVec.eq_of_toNat_eq ‹_›)), id⟩
  exact ⟨congrArg some (word_brk hm rfl rfl (BitVec.eq_of_toNat_eq ‹_›)), id⟩
  exact ⟨congrArg some (word_A hm rfl rfl rfl rfl (BitVec.eq_of_toNat_eq ‹_›)), id⟩

theorem standsFor_decodeMajor27 (hm : w.extractLsb' 25 7 = 39#7) (h : decodeMajor27 w = some f) : f.StandsFor w := by
  unfold decodeMajor27 at h
  split at h <;> cases h
  all_goals exact ⟨congrArg some (word_MO hm rfl rfl rfl rfl rfl rfl (BitVec.eq_of_toNat_eq ‹_›)), id⟩

theorem standsFor_decodeMajor28 (hm : w.extractLsb' 25 7 = 40#7) (h : decodeMajor28 w = some f) : f.StandsFor w := by
  unfold decodeMajor28 at h
  split at h <;> cases h
  all_goals exact ⟨congrArg some (word_MO hm rfl rfl rfl rfl rfl rfl (BitVec.eq_of_toNat_eq ‹_›)), id⟩

theorem standsFor_decodeMajor30 (hm : w.extractLsb' 25 7 = 48#7) (h : decodeMajor30 w = some f) : f.StandsFor w := by
  unfold decodeMajor30 at h
  iterate 5
    obtain ⟨hc, rfl⟩ | h := eq_of_ite_eq_some h
    · exact ⟨congrArg some (word_MO hm rfl rfl rfl hc.2 rfl rfl hc.1), id⟩
  cases h

theorem standsFor_decodeMajor31 (hm : w.extractLsb' 25 7 = 49#7) (h : decodeMajor31 w = some f) : f.StandsFor w := by
  unfold decodeMajor31 at h
  split at h <;> cases h
  all_goals exact ⟨congrArg some (word_A hm rfl rfl rfl rfl (BitVec.eq_of_toNat_eq ‹_›)), id⟩

theorem standsFor_decodeMajor32 (hm : w.extractLsb' 25 7 = 50#7) (h : decodeMajor32 w = some f) : f.StandsFor w := by
  unfold decodeMajor32 at h
  split at h <;> cases h
  all_goals exact ⟨congrArg some (word_MO hm rfl rfl rfl rfl rfl rfl (BitVec.eq_of_toNat_eq ‹_›)), id⟩

theorem standsFor_decodeMajor33 (hm : w.extractLsb' 25 7 = 51#7) (h : decodeMajor33 w = some f) : f.StandsFor w := by
  unfold decodeMajor33 at h
  split at h <;> cases h
  all_goals exact ⟨congrArg some (word_A hm rfl rfl rfl rfl (BitVec.eq_of_toNat_eq ‹_›)), id⟩

theorem standsFor_decodeMajor34 (hm : w.extractLsb' 25 7 = 52#7) (h : decodeMajor34 w = some f) : f.StandsFor w := by
  unfold decodeMajor34 at h
  split at h <;> cases h
  all_goals exact ⟨congrArg some (word_A hm rfl rfl rfl rfl (BitVec.eq_of_toNat_eq ‹_›)), id⟩

theorem standsFor_decodeMajor35 (hm : w.extractLsb' 25 7 = 53#7) (h : decodeMajor35 w = some f) : f.StandsFor w := by
  unfold decodeMajor35 at h
  split at h <;> cases h
  all_goals exact ⟨congrArg some (word_MO hm rfl rfl rfl rfl rfl rfl (BitVec.eq_of_toNat_eq ‹_›)), id⟩

theorem standsFor_decodeMajor36 (hm : w.extractLsb' 25 7 = 54#7) (h : decodeMajor36 w = some f) : f.StandsFor w := by
  unfold decodeMajor36 at h
  split at h <;> cases h
  all_goals exact ⟨congrArg some (word_A hm rfl rfl rfl rfl (BitVec.eq_of_toNat_eq ‹_›)), id⟩

theorem standsFor_decodeMajor37 (hm : w.extractLsb' 25 7 = 55#7) (h : decodeMajor37 w = some f) : f.StandsFor w := by
  unfold decodeMajor37 at h
  split at h <;> cases h
  all_goals exact ⟨congrArg some (word_A hm rfl rfl rfl rfl (BitVec.eq_of_toNat_eq ‹_›)), id⟩

theorem standsFor_decodeMajor38 (hm : w.extractLsb' 25 7 = 56#7) (h : decodeMajor38 w = some f) : f.StandsFor w := by
  unfold decodeMajor38 at h
  split at h <;> cases h
  all_goals exact ⟨congrArg some (word_A hm rfl rfl rfl rfl (BitVec.eq_of_toNat_eq ‹_›)), id⟩

theorem standsFor_decodeMajor39 (hm : w.extractLsb' 25 7 = 57#7) (h : decodeMajor39 w = some f) : f.StandsFor w := by
  unfold decodeMajor39 at h
  split at h <;> cases h
  all_goals exact ⟨congrArg some (word_A hm rfl rfl rfl rfl (BitVec.eq_of_toNat_eq ‹_›)), id⟩

theorem standsFor_decodeMajor3A (hm : w.extractLsb' 25 7 = 58#7) (h : decodeMajor3A w = some f) : f.StandsFor w := by
  unfold decodeMajor3A at h
  split at h <;> cases h
  all_goals exact ⟨congrArg some (word_A hm rfl rfl rfl rfl (BitVec.eq_of_toNat_eq ‹_›)), id⟩

theorem standsFor_decodeMajor3B (hm : w.extractLsb' 25 7 = 59#7) (h : decodeMajor3B w = some f) : f.StandsFor w := by
  unfold decodeMajor3B at h
  split at h <;> cases h
  all_goals exact ⟨congrArg some (word_A hm rfl rfl rfl rfl (BitVec.eq_of_toNat_eq ‹_›)), id⟩

theorem standsFor_decodeMajor4C (hm : w.extractLsb' 25 7 = 76#7) (h : decodeMajor4C w = some f) : f.StandsFor w := by
  unfold decodeMajor4C at h
  split at h <;> cases h
  all_goals exact ⟨congrArg some (word_vcmp hm rfl (BitVec.eq_of_toNat_eq ‹_›) rfl rfl rfl rfl rfl rfl rfl), id⟩

theorem standsFor_decodeMajor4E (hm : w.extractLsb' 25 7 = 78#7) (h : decodeMajor4E w = some f) : f.StandsFor w := by
  unfold decodeMajor4E at h
  split at h <;> cases h
  all_goals exact ⟨congrArg some (word_V hm rfl rfl rfl (BitVec.eq_of_toNat_eq ‹_›) rfl rfl rfl rfl), id⟩

theorem standsFor_decodeMajor4F (hm : w.extractLsb' 25 7 = 79#7) (h : decodeMajor4F w = some f) : f.StandsFor w := by
  unfold decodeMajor4F at h
  iterate 4
    obtain ⟨hc, rfl⟩ | h := eq_of_ite_eq_some h
    · exact ⟨congrArg some (word_V hm rfl rfl rfl hc rfl rfl rfl rfl), id⟩
  iterate 4
    obtain ⟨hc, rfl⟩ | h := eq_of_ite_eq_some h
    · exact ⟨congrArg some (word_half hm rfl rfl rfl hc rfl rfl rfl rfl rfl), id⟩
  iterate 4
    obtain ⟨hc, rfl⟩ | h := eq_of_ite_eq_some h
    · exact ⟨congrArg some (word_quarter hm rfl rfl rfl hc rfl rfl rfl rfl rfl), id⟩
  cases h

theorem standsFor_decodeMajor50 (hm : w.extractLsb' 25 7 = 80#7) (h : decodeMajor50 w = some f) : f.StandsFor w := by
  unfold decodeMajor50 at h
  iterate 12
    obtain ⟨hc, rfl⟩ | h := eq_of_ite_eq_some h
    · exact ⟨congrArg some (word_vred hm rfl rfl rfl hc.2 rfl hc.1 rfl rfl rfl rfl), id⟩
  cases h

theorem standsFor_decodeMajor51 (hm : w.extractLsb' 25 7 = 81#7) (h : decodeMajor51 w = some f) : f.StandsFor w := by
  unfold decodeMajor51 at h
  iterate 4
    obtain ⟨hc, rfl⟩ | h := eq_of_ite_eq_some h
    · exact ⟨congrArg some (word_A hm rfl rfl rfl rfl hc), id⟩
  iterate 3
    obtain ⟨hc, rfl⟩ | h := eq_of_ite_eq_some h
    · exact ⟨congrArg some (word_kmov hm rfl rfl rfl rfl hc), id⟩
  iterate 3
    obtain ⟨hc, rfl⟩ | h := eq_of_ite_eq_some h
    · exact ⟨congrArg some (word_A hm rfl rfl rfl rfl hc), id⟩
  cases h

theorem standsFor_decodeMajor54 (hm : w.extractLsb' 25 7 = 84#7) (h : decodeMajor54 w = some f) : f.StandsFor w := by
  unfold decodeMajor54 at h
  split at h <;> cases h
  all_goals exact ⟨congrArg some (word_V hm rfl rfl rfl rfl rfl rfl rfl (BitVec.eq_of_toNat_eq ‹_›)), id⟩

theorem standsFor_decodeMajor55 (hm : w.extractLsb' 25 7 = 85#7) (h : decodeMajor55 w = some f) : f.StandsFor w := by
  unfold decodeMajor55 at h
  split at h <;> cases h
  all_goals exact ⟨congrArg some (word_vrot hm rfl rfl rfl rfl rfl rfl rfl rfl (BitVec.eq_of_toNat_eq ‹_›)), id⟩

theorem standsFor_decodeMajor56 (hm : w.extractLsb' 25 7 = 86#7) (h : decodeMajor56 w = some f) : f.StandsFor w := by
  unfold decodeMajor56 at h
  split at h <;> cases h
  all_goals exact ⟨congrArg some (word_V hm rfl rfl rfl rfl rfl rfl rfl (BitVec.eq_of_toNat_eq ‹_›)), id⟩

theorem standsFor_decodeMajor57 (hm : w.extractLsb' 25 7 = 87#7) (h : decodeMajor57 w = some f) : f.StandsFor w := by
  unfold decodeMajor57 at h
  split at h <;> cases h
  all_goals exact ⟨congrArg some (word_V hm rfl rfl rfl rfl rfl rfl rfl (BitVec.eq_of_toNat_eq ‹_›)), id⟩

theorem standsFor_decodeMajor5A (hm : w.extractLsb' 25 7 = 90#7) (h : decodeMajor5A w = some f) : f.StandsFor w := by
  unfold decodeMajor5A at h
  split at h <;> cases h
  all_goals exact ⟨congrArg some (word_tile hm rfl rfl rfl (BitVec.eq_of_toNat_eq ‹_›) rfl rfl rfl rfl), id⟩

theorem standsFor_decodeMajor5B (hm : w.extractLsb' 25 7 = 91#7) (h : decodeMajor5B w = some f) : f.StandsFor w := by
  unfold decodeMajor5B at h
  split at h <;> cases h
  all_goals exact ⟨congrArg some (word_bank hm rfl rfl rfl (BitVec.eq_of_toNat_eq ‹_›) rfl rfl), id⟩

theorem standsFor_decodeMajor5D (hm : w.extractLsb' 25 7 = 93#7) (h : decodeMajor5D w = some f) : f.StandsFor w := by
  unfold decodeMajor5D at h
  split at h <;> cases h
  all_goals exact ⟨congrArg some (word_tgeo hm rfl rfl rfl rfl (BitVec.eq_of_toNat_eq ‹_›)), id⟩

theorem standsFor_decodeMajor60 (hm : w.extractLsb' 25 7 = 96#7) (h : decodeMajor60 w = some f) : f.StandsFor w := by
  unfold decodeMajor60 at h
  split at h <;> cases h
  all_goals exact ⟨congrArg some (word_A hm rfl rfl rfl rfl (BitVec.eq_of_toNat_eq ‹_›)), id⟩

theorem standsFor_decodeMajor61 (hm : w.extractLsb' 25 7 = 97#7) (h : decodeMajor61 w = some f) : f.StandsFor w := by
  unfold decodeMajor61 at h
  split at h <;> cases h
  exact ⟨congrArg some (word_hwait hm rfl rfl rfl rfl rfl (BitVec.eq_of_toNat_eq ‹_›)), id⟩
  iterate 3 exact ⟨congrArg some (word_A hm rfl rfl rfl rfl (BitVec.eq_of_toNat_eq ‹_›)), id⟩

theorem standsFor_decodeMajor62 (hm : w.extractLsb' 25 7 = 98#7) (h : decodeMajor62 w = some f) : f.StandsFor w := by
  unfold decodeMajor62 at h
  split at h <;> cases h
  all_goals exact ⟨congrArg some (word_MO hm rfl rfl rfl rfl rfl rfl (BitVec.eq_of_toNat_eq ‹_›)), id⟩

theorem standsFor_decodeMajor63 (hm : w.extractLsb' 25 7 = 99#7) (h : decodeMajor63 w = some f) : f.StandsFor w := by
  unfold decodeMajor63 at h
  split at h <;> cases h
  all_goals exact ⟨congrArg some (word_A hm rfl rfl rfl rfl (BitVec.eq_of_toNat_eq ‹_›)), id⟩

theorem standsFor_decodeMajor64 (hm : w.extractLsb' 25 7 = 100#7) (h : decodeMajor64 w = some f) : f.StandsFor w := by
  unfold decodeMajor64 at h
  split at h <;> cases h
  all_goals exact ⟨congrArg some (word_A hm rfl rfl rfl rfl (BitVec.eq_of_toNat_eq ‹_›)), id⟩

theorem standsFor_decodeMajor65 (hm : w.extractLsb' 25 7 = 101#7) (h : decodeMajor65 w = some f) : f.StandsFor w := by
  unfold decodeMajor65 at h
  split at h <;> cases h
  all_goals exact ⟨congrArg some (word_A hm rfl rfl rfl rfl (BitVec.eq_of_toNat_eq ‹_›)), fun _ => rfl⟩

theorem standsFor_decodeMajor68 (hm : w.extractLsb' 25 7 = 104#7) (h : decodeMajor68 w = some f) : f.StandsFor w := by
  unfold decodeMajor68 at h
  split at h <;> cases h
  all_goals exact ⟨congrArg some (word_A hm rfl rfl rfl rfl (BitVec.eq_of_toNat_eq ‹_›)), id⟩

theorem standsFor_decodeMajor69 (hm : w.extractLsb' 25 7 = 105#7) (h : decodeMajor69 w = some f) : f.StandsFor w := by
  unfold decodeMajor69 at h
  split at h <;> cases h
  all_goals exact ⟨congrArg some (word_A hm rfl rfl rfl rfl (BitVec.eq_of_toNat_eq ‹_›)), id⟩

theorem standsFor_decodeMajor6A (hm : w.extractLsb' 25 7 = 106#7) (h : decodeMajor6A w = some f) : f.StandsFor w := by
  unfold decodeMajor6A at h
  split at h <;> cases h
  all_goals exact ⟨congrArg some (word_A hm rfl rfl rfl rfl (BitVec.eq_of_toNat_eq ‹_›)), id⟩

theorem standsFor_decodeMajor6B (hm : w.extractLsb' 25 7 = 107#7) (h : decodeMajor6B w = some f) : f.StandsFor w := by
  unfold decodeMajor6B at h
  split at h <;> cases h
  all_goals exact ⟨congrArg some (word_A hm rfl rfl rfl rfl (BitVec.eq_of_toNat_eq ‹_›)), id⟩

theorem standsFor_decodeMajor6C (hm : w.extractLsb' 25 7 = 108#7) (h : decodeMajor6C w = some f) : f.StandsFor w := by
  unfold decodeMajor6C at h
  split at h <;> cases h
  all_goals exact ⟨congrArg some (word_A hm rfl rfl rfl rfl (BitVec.eq_of_toNat_eq ‹_›)), fun _ => rfl⟩

theorem standsFor_decodeMajor6D (hm : w.extractLsb' 25 7 = 109#7) (h : decodeMajor6D w = some f) : f.StandsFor w := by
  unfold decodeMajor6D at h
  split at h <;> cases h
  all_goals exact ⟨congrArg some (word_A hm rfl rfl rfl rfl (BitVec.eq_of_toNat_eq ‹_›)), fun _ => rfl⟩

theorem standsFor_decodeMajor6E (hm : w.extractLsb' 25 7 = 110#7) (h : decodeMajor6E w = some f) : f.StandsFor w := by
  unfold decodeMajor6E at h
  split at h <;> cases h
  all_goals exact ⟨congrArg some (word_A hm rfl rfl rfl rfl (BitVec.eq_of_toNat_eq ‹_›)), fun _ => rfl⟩

theorem standsFor_decodeMajor71 (hm : w.extractLsb' 25 7 = 113#7) (h : decodeMajor71 w = some f) : f.StandsFor w := by
  unfold decodeMajor71 at h
  split at h <;> cases h
  exact ⟨congrArg some (word_hsch hm (BitVec.eq_of_toNat_eq ‹_›) rfl rfl), id⟩
  exact ⟨congrArg some (word_idle hm (BitVec.eq_of_toNat_eq ‹_›) rfl rfl), id⟩

theorem standsFor_rawDecode (h : rawDecode w = .ok f) : f.StandsFor w := by
  unfold rawDecode at h
  extract_lets pick at h
  have picked : ∀ o g, pick o = .ok g → o = some g := by
    intro o g hg
    cases o with
    | none => cases hg
    | some i => exact congrArg some (Except.ok.inj hg)
  split at h
  · exact standsFor_decodeMajor01 (BitVec.eq_of_toNat_eq ‹_›) (picked _ _ h)
  · exact standsFor_decodeMajor02 (BitVec.eq_of_toNat_eq ‹_›) (picked _ _ h)
  iterate 7
    · cases h; exact ⟨congrArg some (word_I (BitVec.eq_of_toNat_eq ‹_›) rfl rfl rfl rfl), id⟩
  · exact standsFor_decodeMajor0A (BitVec.eq_of_toNat_eq ‹_›) (picked _ _ h)
  · cases h; exact ⟨congrArg some (word_B (BitVec.eq_of_toNat_eq ‹_›) rfl rfl rfl rfl), id⟩
  iterate 2
    · cases h; exact ⟨congrArg some (word_J (BitVec.eq_of_toNat_eq ‹_›) rfl rfl), id⟩
  · exact standsFor_decodeMajor13 (BitVec.eq_of_toNat_eq ‹_›) (picked _ _ h)
  · exact standsFor_decodeMajor18 (BitVec.eq_of_toNat_eq ‹_›) (picked _ _ h)
  iterate 6
    · cases h; exact ⟨congrArg some (word_I (BitVec.eq_of_toNat_eq ‹_›) rfl rfl rfl rfl), id⟩
  iterate 2
    · cases h; exact ⟨congrArg some (word_M (BitVec.eq_of_toNat_eq ‹_›) rfl rfl rfl rfl rfl), id⟩
  iterate 2
    · cases h; exact ⟨congrArg some (word_MO (BitVec.eq_of_toNat_eq ‹_›) rfl rfl rfl rfl rfl rfl rfl), id⟩
  · cases h; exact ⟨congrArg some (word_M (BitVec.eq_of_toNat_eq ‹_›) rfl rfl rfl rfl rfl), id⟩
  iterate 2
    · cases h; exact ⟨congrArg some (word_I (BitVec.eq_of_toNat_eq ‹_›) rfl rfl rfl rfl), id⟩
  · exact standsFor_decodeMajor27 (BitVec.eq_of_toNat_eq ‹_›) (picked _ _ h)
  · exact standsFor_decodeMajor28 (BitVec.eq_of_toNat_eq ‹_›) (picked _ _ h)
  · cases h; exact ⟨congrArg some (word_M (BitVec.eq_of_toNat_eq ‹_›) rfl rfl rfl rfl rfl), id⟩
  · exact standsFor_decodeMajor30 (BitVec.eq_of_toNat_eq ‹_›) (picked _ _ h)
  · exact standsFor_decodeMajor31 (BitVec.eq_of_toNat_eq ‹_›) (picked _ _ h)
  · exact standsFor_decodeMajor32 (BitVec.eq_of_toNat_eq ‹_›) (picked _ _ h)
  · exact standsFor_decodeMajor33 (BitVec.eq_of_toNat_eq ‹_›) (picked _ _ h)
  · exact standsFor_decodeMajor34 (BitVec.eq_of_toNat_eq ‹_›) (picked _ _ h)
  · exact standsFor_decodeMajor35 (BitVec.eq_of_toNat_eq ‹_›) (picked _ _ h)
  · exact standsFor_decodeMajor36 (BitVec.eq_of_toNat_eq ‹_›) (picked _ _ h)
  · exact standsFor_decodeMajor37 (BitVec.eq_of_toNat_eq ‹_›) (picked _ _ h)
  · exact standsFor_decodeMajor38 (BitVec.eq_of_toNat_eq ‹_›) (picked _ _ h)
  · exact standsFor_decodeMajor39 (BitVec.eq_of_toNat_eq ‹_›) (picked _ _ h)
  · exact standsFor_decodeMajor3A (BitVec.eq_of_toNat_eq ‹_›) (picked _ _ h)
  · exact standsFor_decodeMajor3B (BitVec.eq_of_toNat_eq ‹_›) (picked _ _ h)
  iterate 12
    · cases h; exact ⟨congrArg some (word_V (BitVec.eq_of_toNat_eq ‹_›) rfl rfl rfl rfl rfl rfl rfl rfl), id⟩
  · exact standsFor_decodeMajor4C (BitVec.eq_of_toNat_eq ‹_›) (picked _ _ h)
  · cases h; exact ⟨congrArg some (word_V (BitVec.eq_of_toNat_eq ‹_›) rfl rfl rfl rfl rfl rfl rfl rfl), id⟩
  · exact standsFor_decodeMajor4E (BitVec.eq_of_toNat_eq ‹_›) (picked _ _ h)
  · exact standsFor_decodeMajor4F (BitVec.eq_of_toNat_eq ‹_›) (picked _ _ h)
  · exact standsFor_decodeMajor50 (BitVec.eq_of_toNat_eq ‹_›) (picked _ _ h)
  · exact standsFor_decodeMajor51 (BitVec.eq_of_toNat_eq ‹_›) (picked _ _ h)
  · cases h; exact ⟨congrArg some (word_V (BitVec.eq_of_toNat_eq ‹_›) rfl rfl rfl rfl rfl rfl rfl rfl), id⟩
  · cases h; exact ⟨congrArg some (word_vrot (BitVec.eq_of_toNat_eq ‹_›) rfl rfl rfl rfl rfl rfl rfl rfl rfl), id⟩
  · exact standsFor_decodeMajor54 (BitVec.eq_of_toNat_eq ‹_›) (picked _ _ h)
  · exact standsFor_decodeMajor55 (BitVec.eq_of_toNat_eq ‹_›) (picked _ _ h)
  · exact standsFor_decodeMajor56 (BitVec.eq_of_toNat_eq ‹_›) (picked _ _ h)
  · exact standsFor_decodeMajor57 (BitVec.eq_of_toNat_eq ‹_›) (picked _ _ h)
  iterate 2
    · cases h; exact ⟨congrArg some (word_Q (BitVec.eq_of_toNat_eq ‹_›) rfl rfl rfl rfl), id⟩
  · exact standsFor_decodeMajor5A (BitVec.eq_of_toNat_eq ‹_›) (picked _ _ h)
  · exact standsFor_decodeMajor5B (BitVec.eq_of_toNat_eq ‹_›) (picked _ _ h)
  · cases h; exact ⟨congrArg some (word_Q (BitVec.eq_of_toNat_eq ‹_›) rfl rfl rfl rfl), id⟩
  · exact standsFor_decodeMajor5D (BitVec.eq_of_toNat_eq ‹_›) (picked _ _ h)
  iterate 2
    · cases h; exact ⟨congrArg some (word_Q (BitVec.eq_of_toNat_eq ‹_›) rfl rfl rfl rfl), id⟩
  · exact standsFor_decodeMajor60 (BitVec.eq_of_toNat_eq ‹_›) (picked _ _ h)
  · exact standsFor_decodeMajor61 (BitVec.eq_of_toNat_eq ‹_›) (picked _ _ h)
  · exact standsFor_decodeMajor62 (BitVec.eq_of_toNat_eq ‹_›) (picked _ _ h)
  · exact standsFor_decodeMajor63 (BitVec.eq_of_toNat_eq ‹_›) (picked _ _ h)
  · exact standsFor_decodeMajor64 (BitVec.eq_of_toNat_eq ‹_›) (picked _ _ h)
  · exact standsFor_decodeMajor65 (BitVec.eq_of_toNat_eq ‹_›) (picked _ _ h)
  · exact standsFor_decodeMajor68 (BitVec.eq_of_toNat_eq ‹_›) (picked _ _ h)
  · exact standsFor_decodeMajor69 (BitVec.eq_of_toNat_eq ‹_›) (picked _ _ h)
  · exact standsFor_decodeMajor6A (BitVec.eq_of_toNat_eq ‹_›) (picked _ _ h)
  · exact standsFor_decodeMajor6B (BitVec.eq_of_toNat_eq ‹_›) (picked _ _ h)
  · exact standsFor_decodeMajor6C (BitVec.eq_of_toNat_eq ‹_›) (picked _ _ h)
  · exact standsFor_decodeMajor6D (BitVec.eq_of_toNat_eq ‹_›) (picked _ _ h)
  · exact standsFor_decodeMajor6E (BitVec.eq_of_toNat_eq ‹_›) (picked _ _ h)
  · cases h; exact ⟨congrArg some (word_H (BitVec.eq_of_toNat_eq ‹_›) rfl), id⟩
  · exact standsFor_decodeMajor71 (BitVec.eq_of_toNat_eq ‹_›) (picked _ _ h)
  · cases h; exact ⟨congrArg some (word_hmod (BitVec.eq_of_toNat_eq ‹_›) rfl rfl rfl rfl rfl rfl rfl), id⟩
  · cases h; exact ⟨congrArg some (word_H (BitVec.eq_of_toNat_eq ‹_›) rfl), fun _ => rfl⟩
  iterate 11
    · cases h; exact ⟨congrArg some (word_H rfl rfl), fun _ => wellFormed_reservedHint.mpr (by omega)⟩
  · cases h

/-- What `decodeWord` answers: what was read from the word, where R50's checks pass, under its name. -/
theorem decodeWord_eq_ok {w : BitVec 32} {i : Instr} :
    decodeWord w = .ok i ↔ ∃ f, rawDecode w = .ok f ∧ f.wellFormed = true ∧ f.toInstr = i := by
  unfold decodeWord decodeFetched
  cases rawDecode w with
  | error e => simp
  | ok f => cases hw : f.wellFormed <;> simp [hw]

end Words

/-- Settles O2: the decoder reads back, field by field, the word of each instruction. -/
theorem decodeEncode : Obligations.DecodeEncode := by
  unfold Obligations.DecodeEncode
  intro i w he hw
  obtain ⟨f, hr, hi, hf⟩ := Laws.Words.statement_all i w he hw
  exact decodeWord_eq_ok.mpr ⟨f, hr, hf, hi⟩

/-- Settles O3: what the decoder reads stands for the word it was read from. -/
theorem encodeDecode : Obligations.EncodeDecode := by
  unfold Obligations.EncodeDecode
  intro w i h
  obtain ⟨f, hr, hw, rfl⟩ := decodeWord_eq_ok.mp h
  exact ⟨(standsFor_rawDecode hr).2 hw, (standsFor_rawDecode hr).1⟩

/-- Settles O1: each word is the one that `encode` gives the instruction of the table. -/
theorem wordsReadBack : Obligations.WordsReadBack := by
  unfold Obligations.WordsReadBack
  and_intros
  all_goals exact decodeEncode _ _ rfl rfl

end Sys2Proof

namespace Sys2Proof

open Machine

/-! ## Instructions that stop at their issue (R407) -/

section Stops

variable {op : Op} {f : Form} {s : State} {body : Body}

@[simp] theorem conflictEnd_zero (s : State) (t : Tid) : conflictEnd 0 s t = s := if_pos (.inl rfl)

/-- An instruction that is not allocated where it stands waits for no register. -/
theorem ineligible_of_illegal (hu : Unheld s) (hl : op.legal = false ∨ (op.role.admits s.cur.thr = false ∧ s.meth = none)) :
    ineligible op (atIssue s) s.cur = none := by
  unfold ineligible
  rw [atIssue_meth]
  cases hm : s.meth with
  | some m => rfl
  | none =>
    have hn : (op.legal && op.role.admits s.cur.thr) = false := by
      rcases hl with h | ⟨h, -⟩ <;> simp [h]
    simp [hu hm, hn]

/-- R50: an instruction that is not allocated where it stands, or is reserved to another role, raises ILLEGAL_INSTR. -/
theorem issue_illegal (hu : Unheld s) (hl : op.legal = false ∨ (op.role.admits s.cur.thr = false ∧ s.meth = none)) :
    issue op s body = stopped (conflictEnd op.conflict (atIssue s) s.cur) s.cur (.trap cILLEGAL (op.word.setWidth 64)) := by
  have hb : issueBody op (atIssue s) s.cur body = .error (.trap cILLEGAL (op.word.setWidth 64)) := by
    unfold issueBody
    refine if_pos ?_
    rcases hl with h | ⟨h, hm⟩
    · simp [h]
    · simp [h, hm]
  unfold issue
  dsimp only
  rw [ineligible_of_illegal hu hl, hb]

/-- The same for an instruction without register-bank conflicts. -/
theorem raises_illegal {i : Instr} (he : exec i s = issue op s body) (hn : op.conflict = 0) (hu : Unheld s) (hl : op.legal = false) :
    Raises i s cILLEGAL (op.word.setWidth 64) := by
  unfold Raises
  rw [he, issue_illegal hu (.inl hl), hn, conflictEnd_zero]

/-- An instruction that issues and whose body stops. -/
theorem issue_stops {e : Stop} (hf : op.Has f) (hi : Issues f s) (hb : body (begun f s) s.cur = .error e) :
    issue op s body = stopped (conflictEnd op.conflict (atIssue s) s.cur) s.cur e := by
  unfold issue
  dsimp only
  rw [eligible hf hi.arrived, issueBody_runs hf hi, hb]

/-- R43: a read that is not in time, whatever the guard and however many register-bank conflicts there are. -/
theorem issue_short {e : Word} (hf : op.Has f) (ha : Admits f s) (hc : s.me.chk = true)
    (hs : firstShort s.me (f.allReads s.me) = some e) :
    issue op s body = stopped (conflictEnd op.conflict (atIssue s) s.cur) s.cur (.trap cSTALL_SHORT e) := by
  obtain ⟨-, hrole, harr⟩ := ha
  have hlegal : (!op.legal || !(op.role.admits s.cur.thr || (atIssue s).meth.isSome)) = false := by
    rw [hf.legal, hf.role, atIssue_meth]
    rcases hrole with h | h <;> simp [h]
  have hth : (atIssue s).thread s.cur = s.me := atIssue_thread s s.cur
  have hshort : (if s.me.chk then firstShort s.me (op.allReads s.me) else none) = some e := by
    rw [if_pos hc, Op.allReads, hf.guarded, hf.reads]
    exact hs
  have hb : issueBody op (atIssue s) s.cur body = .error (.trap cSTALL_SHORT e) := by
    unfold issueBody
    simp only [hlegal, hth, Bool.false_eq_true, if_false]
    rw [hshort]
  unfold issue
  dsimp only
  rw [eligible hf harr, hb]

end Stops

/-! ## Reads before the result (R42, R43) -/

theorem firstShort_cons {t : Thread} {f : RegFile} {i n : Nat} (rs : List (RegFile × Nat)) (h0 : i ≠ 0 ∨ f = .v)
    (h : shortfall f i t.dist t.pend = some n) : firstShort t ((f, i) :: rs) = some (stallEval f i n) := by
  have hz : ¬ (i = 0 ∧ f ≠ .v) := by
    rintro ⟨rfl, hf⟩
    rcases h0 with h | h <;> contradiction
  rw [firstShort, if_neg hz, h]

/-- Settles O7: the frame of an instruction checks its reads, the guard first, before it looks at the guard's value. -/
theorem shortReadsRaise : Obligations.ShortReadsRaise := by
  unfold Obligations.ShortReadsRaise
  refine ⟨fun st k d a b m n o i f h => ?_, fun st k d a b h j u s e => ?_, fun t f i n rs h0 h => firstShort_cons rs h0 h,
    fun st k d a b m n o i f s h => ?_, fun st d a z q s ho => ?_⟩
  · simp only [List.mem_cons, Prod.mk.injEq, List.not_mem_nil, or_false] at h
    rcases h with ⟨rfl, rfl⟩ | ⟨rfl, rfl⟩ | ⟨rfl, rfl⟩ | ⟨rfl, rfl⟩ | ⟨rfl, rfl⟩ | ⟨rfl, rfl⟩ | ⟨rfl, rfl⟩ | ⟨rfl, rfl⟩ | ⟨rfl, rfl⟩
    all_goals exact checks_of fun s => ⟨_, _, rfl, ⟨rfl, rfl, rfl, rfl, rfl, rfl, rfl, rfl⟩, rfl⟩
  · intro p ht ha hc hs
    exact issue_short (vop_has _ st p [(.k, k.toNat)] s) ⟨ht, .inl rfl, ha⟩ hc hs
  · simp only [List.mem_cons, Prod.mk.injEq, List.not_mem_nil, or_false] at h
    rcases h with ⟨rfl, rfl⟩ | ⟨rfl, rfl⟩ | ⟨rfl, rfl⟩ | ⟨rfl, rfl⟩ | ⟨rfl, rfl⟩ | ⟨rfl, rfl⟩ | ⟨rfl, rfl⟩
    all_goals exact waits_of rfl ⟨rfl, rfl, rfl, rfl, rfl, rfl, rfl, rfl⟩
  · have hl : decide ((s.thread s.cur).ordMod ≠ 2) = true := decide_eq_true ho
    exact ⟨waits_of rfl ⟨hl, rfl, rfl, rfl, rfl, rfl, rfl, rfl⟩, waits_of rfl ⟨hl, rfl, rfl, rfl, rfl, rfl, rfl, rfl⟩⟩

end Sys2Proof

namespace Sys2Proof

open Machine

/-! ## What a stop leaves of the thread -/

/-- Letting go of what a search or read kept changes nothing else of the thread (R282, R297). -/
theorem letGo_eq (s : State) (t : Tid) :
    ∃ a b c d, letGo s t = s.setThread t { s.thread t with snap0 := a, snap1 := b, kept0 := c, kept1 := d } := by
  unfold letGo
  dsimp only
  split
  · exact ⟨(s.thread t).snap0, _, (s.thread t).kept0, _, rfl⟩
  · exact ⟨_, (s.thread t).snap1, _, (s.thread t).kept1, rfl⟩

/-- A change of what a search or read kept is no change of a register. -/
theorem regsOnly_setKept (s : State) {t : Tid} (h : t.thr < 16) (a b : Option KeptSnap) (c d : Option KeptRead) :
    RegsOnly t s (s.setThread t { s.thread t with snap0 := a, snap1 := b, kept0 := c, kept1 := d }) [] [] [] false (s.thread t).pc := by
  have ht := setThread_thread s t { s.thread t with snap0 := a, snap1 := b, kept0 := c, kept1 := d } h
  refine ⟨onlyThread_setThread _ _ _, ⟨fun i _ _ => ?_, fun i _ _ => ?_, fun i _ _ => ?_, ?_⟩, ?_, fun _ => ?_, ?_⟩
  all_goals simp only [SameLatches, ht, and_self]
  · exact plainly_finalG i _ a b c d
  · exact plainly_finalV i _ a b c d
  · exact plainly_finalK i _ a b c d
  · exact plainly_rest _ a b c d

/-- A frame may begin at any state whose thread `t` is the same and that differs in no other thread, core or unit. -/
theorem RegsOnly.of_onlyThread {t : Tid} {a b c : State} {g v k : List Nat} {fl : Bool} {pc : Word} (h : OnlyThread t a b)
    (ht : b.thread t = a.thread t) (hr : RegsOnly t b c g v k fl pc) : RegsOnly t a c g v k fl pc := by
  obtain ⟨hO, ⟨hG, hV, hK, hR⟩, hL, hF, hP⟩ := hr
  unfold SameLatches at hL
  rw [ht] at hG hV hK hR hL hF
  exact ⟨h.trans hO, ⟨hG, hV, hK, hR⟩, hL, hF, hP⟩

/-- The state in which a stop of the current thread is handled: it took its issue slot and let go of what it had kept. -/
theorem regsOnly_stop (s : State) {t : Tid} (h : t.thr < 16) :
    RegsOnly t s (letGo (noteIssue (atIssue s) t (issueCycle (atIssue s) t)) t) [] [] [] false (s.thread t).pc := by
  have ht : (noteIssue (atIssue s) t (issueCycle (atIssue s) t)).thread t = s.thread t := by rw [noteIssue_thread, atIssue_thread]
  obtain ⟨a, b, c, d, e⟩ := letGo_eq (noteIssue (atIssue s) t (issueCycle (atIssue s) t)) t
  rw [e, ← ht]
  exact (regsOnly_setKept _ h a b c d).of_onlyThread ((onlyThread_atIssue t s).trans (onlyThread_noteIssue _ _ _)) ht

end Sys2Proof

namespace Sys2Proof

open Machine

/-- Whose task a thread runs is read from what a change of the thread's registers leaves. -/
theorem taskOf_of_rest {t : Tid} {a b : State} (h : OnlyThread t a b) (hr : (b.thread t).rest = (a.thread t).rest) :
    taskOf b t = taskOf a t := by
  have htask : (b.thread t).task = (a.thread t).task := (congrArg Thread.task hr :)
  have hhome : homeTid b t = homeTid a t := by
    have : (b.thread t).homeOf = (a.thread t).homeOf := (congrArg Thread.homeOf hr :)
    unfold homeTid; rw [this]
  have hu : b.units = a.units := (congrArg State.units h.rest :)
  have hl : b.launches = a.launches := (congrArg State.launches h.rest :)
  have hs : b.setts = a.setts := (congrArg State.setts h.rest :)
  have hx : b.contexts = a.contexts := (congrArg State.contexts h.rest :)
  have hcl : (b.core t.core).launch = (a.core t.core).launch := (congrArg VCore.launch (h.cores t.core) :)
  have hcr : (b.core t.core).resLaunch = (a.core t.core).resLaunch := (congrArg VCore.resLaunch (h.cores t.core) :)
  have hctx : ctxOf b t = ctxOf a t := by
    unfold ctxOf State.sett; dsimp only; rw [hcl, hcr, hl, hs]
  have hvc : ∀ x c, vcIn b x c = vcIn a x c := by
    intro x c; unfold vcIn vcOf State.ctx State.sett; rw [hx, hs]
  unfold taskOf unitOf State.unit
  rw [htask, hhome, hctx, hvc, hu]

/-- A precise trap of a thread at home that runs no unprotected ordered task is entered at once, unless a slow result is still
owed (R108, R119, R206). -/
theorem stopped_trap {s : State} {c : Nat} {e : Word} (ht : s.cur.thr < 16) (hh : s.me.homeOf = none)
    (hp : ∀ y, taskOf s s.cur = some y → y.prot = true) (hl : lateRead s.me (issueCycle (atIssue s) s.cur) .slow [] = none) :
    ∃ y, RegsOnly s.cur s y [] [] [] false s.me.pc ∧
      stopped (atIssue s) s.cur (.trap c e) = .next (lapse (takeTrap y s.cur c e s.me.chainStart false)) := by
  refine ⟨_, regsOnly_stop s ht, ?_⟩
  have hr := regsOnly_stop s ht
  have hw : stopWaits (atIssue s) s.cur (.trap c e) = none := by
    unfold stopWaits
    rw [atIssue_thread]
    exact (ite_eq_right_iff.mpr fun _ => hl)
  obtain ⟨a, b, k, l, hk⟩ := letGo_eq (noteIssue (atIssue s) s.cur (issueCycle (atIssue s) s.cur)) s.cur
  have hme : (noteIssue (atIssue s) s.cur (issueCycle (atIssue s) s.cur)).thread s.cur = s.me := by
    rw [noteIssue_thread, atIssue_thread]; rfl
  unfold stopped
  dsimp only
  rw [hw]
  generalize hz : letGo (noteIssue (atIssue s) s.cur (issueCycle (atIssue s) s.cur)) s.cur = z at hr
  have hth : z.thread s.cur = { s.me with snap0 := a, snap1 := b, kept0 := k, kept1 := l } := by
    rw [← hz, hk, setThread_thread _ _ _ ht, hme]
  have hhz : (z.thread s.cur).homeOf = none := by rw [hth]; exact hh
  have hsz : speculative z s.cur = false := by
    unfold speculative
    rw [taskOf_of_rest hr.only hr.keeps.rest]
    cases hy : taskOf s s.cur with
    | none => simp
    | some y => simp [hp y hy]
  have hcz : (z.thread s.cur).chainStart = s.me.chainStart := by rw [hth]; rfl
  unfold preciseTrap
  simp [hhz, hsz, hcz]

/-! ## Words that are no instructions (R50) -/

theorem runWord_of_error {w : BitVec 32} {e : DecodeError} (h : decodeWord w = .error e) (s : State) :
    runWord w s = execIllegalInstr w s := by
  unfold runWord
  unfold decodeWord at h
  cases hd : decodeFetched w with
  | ok f => rw [hd] at h; cases h
  | error e => rfl

theorem raises_illegalInstr (w : BitVec 32) {s : State} (hu : Unheld s) : Raises (.illegalInstr w) s cILLEGAL (w.setWidth 64) :=
  raises_illegal (op := { word := w, stall := 0, legal := false, guarded := false }) (body := regBody id) rfl rfl hu rfl

theorem exec_hmod_of_not_wellFormed {p r : BitVec 3} {t c : BitVec 2} {o : BitVec 3} {f : BitVec 4} {x : BitVec 8}
    (h : (Instr.hmod p r t c o f x).wellFormed = false) (s : State) : exec (.hmod p r t c o f x) s =
      issue { word := (114#7 ++ p ++ r ++ t ++ c ++ o ++ f ++ x), stall := 0, legal := false, guarded := false } s (regBody id) :=
  if_neg (Bool.eq_false_iff.mp h)

theorem exec_hschIdle_of_not_wellFormed {x : BitVec 20} {u : BitVec 4} (h : (Instr.hschIdle x u).wellFormed = false) (s : State) :
    exec (.hschIdle x u) s =
      issue { word := (113#7 ++ 1#1 ++ x ++ u), stall := 0, legal := false, guarded := false } s (regBody id) := by
  change execHschIdle x u s = _
  exact if_neg (of_decide_eq_false h)

/-- Settles O5: a word that is not allocated where it stands raises before anything of it is looked at. -/
theorem unallocatedWordsRaise : Obligations.UnallocatedWordsRaise := by
  unfold Obligations.UnallocatedWordsRaise
  refine ⟨fun w e s hu h => ?_, fun w s hu => raises_illegalInstr w hu, fun w s hu ht _ hh hp hl => ?_,
    fun p r t c o f x s hu hw => ?_, fun x u s hu hw => ?_, fun st d a b s hu hi => ?_, fun op s body hu hl => issue_illegal hu hl⟩
  · exact (runWord_of_error h s).trans (raises_illegalInstr w hu)
  · obtain ⟨y, hy, he⟩ := stopped_trap (c := cILLEGAL) (e := w.setWidth 64) ht hh hp hl
    exact ⟨y, hy, (raises_illegalInstr w hu).trans he⟩
  · exact raises_illegal (exec_hmod_of_not_wellFormed hw s) rfl hu rfl
  · exact raises_illegal (exec_hschIdle_of_not_wellFormed hw s) rfl hu rfl
  · exact raises_illegal (op :=
      { word := 24#7 ++ st ++ d ++ a ++ b ++ 0#7, stall := st.toNat, legal := s.me.inh, home := true, awaits := .divide })
      rfl rfl hu hi

end Sys2Proof

namespace Sys2Proof

open Machine

/-! ## Hints (R44 to R48) -/

/-- A change of a thread's chain and of when its pending results count as written, which leaves the values of the registers. -/
structure KeepsValues (f : Thread → Thread) : Prop where
  same : ∀ t, ∃ c ps, f t = { t with chain := c, pend := ps }
  final : ∀ t r i x, finalPend r i (f t).pend x = finalPend r i t.pend x

theorem keepsValues_chain (c : Thread → Option Chain) : KeepsValues fun t => { t with chain := c t } :=
  ⟨fun t => ⟨c t, t.pend, rfl⟩, fun _ _ _ _ => rfl⟩

theorem finalPend_map_due (r : RegFile) (i : Nat) (n : PendWrite → Nat) (ps : List PendWrite) (x : Vec) :
    finalPend r i (ps.map fun p => { p with due := n p }) x = finalPend r i ps x := by
  induction ps generalizing x with
  | nil => rfl
  | cons p ps ih => exact ih _

theorem completeUnit_pend (t : Thread) (sel : Producer → Bool) :
    (t.completeUnit sel).pend = t.pend.map fun p => { p with due := if sel p.unit then min p.due t.dist else p.due } := by
  refine List.map_congr_left fun p _ => ?_
  split <;> rfl

theorem keepsValues_completeUnit (sel : Producer → Bool) : KeepsValues fun t => { t.completeUnit sel with chain := none } := by
  refine ⟨fun t => ⟨none, _, rfl⟩, fun t r i x => ?_⟩
  change finalPend r i (t.completeUnit sel).pend x = _
  rw [completeUnit_pend]
  exact finalPend_map_due r i _ t.pend x

/-- Committing takes the leading results away. -/
theorem commit_pend_subset (t : Thread) {q : PendWrite} (h : q ∈ t.commit.pend) : q ∈ t.pend := by
  suffices hl : ∀ ps (u : Thread), q ∈ (commitList ps u).pend → q ∈ ps from hl _ _ h
  intro ps
  induction ps with
  | nil => intro u h; exact h
  | cons p ps ih =>
    intro u h
    rw [commitList] at h
    split at h
    · exact List.mem_cons_of_mem _ (ih _ h)
    · exact h

/-- The thread past a hint that did `f` to it and ends its wait at cycle `r`. -/
def Machine.Thread.hinted (f : Thread → Thread) (t : Thread) (wait r : Nat) : Thread :=
  { f t with pc := (f t).pc + 4, dist := (f t).dist + 1 + wait, readyAt := r, stallEnd := r, yieldFor := [] }.commit

theorem issueHint_eq (s : State) (wait : Nat) (f : Thread → Thread) (upto : Thread → Nat) (ht : s.cur.thr < 16) :
    ∃ s' r, issueHint s wait f upto = .next s' ∧ OnlyThread s.cur s s' ∧ s'.thread s.cur = s.me.hinted f wait r := by
  have hm : (noteIssue (atIssue s) s.cur (issueCycle (atIssue s) s.cur)).thread s.cur = s.me := by
    rw [noteIssue_thread, atIssue_thread]; rfl
  refine ⟨_, max (issueCycle (atIssue s) s.cur + 1 + wait) (upto s.me), rfl, ?_, ?_⟩
  · exact (((onlyThread_atIssue _ s).trans (onlyThread_noteIssue _ _ _)).trans (onlyThread_setThread _ _ _)).trans (onlyThread_lapse _ _)
  · rw [lapse_thread, setThread_thread _ _ _ ht, hm]
    rfl

/-- A hint changes no register: the thread is past it, the distance counts it and its wait, and the chain and the pending results
are those that `f` leaves. -/
theorem issueHint_regsOnly {s : State} {wait : Nat} {f : Thread → Thread} (upto : Thread → Nat) (hf : KeepsValues f) (ht : s.cur.thr < 16) :
    ∃ s', issueHint s wait f upto = .next s' ∧ RegsOnly s.cur s s' [] [] [] false (s.me.pc + 4) ∧
      (s'.thread s.cur).chain = (f s.me).chain ∧ (s'.thread s.cur).dist = s.me.dist + 1 + wait ∧
      ∀ q ∈ (s'.thread s.cur).pend, q ∈ (f s.me).pend := by
  obtain ⟨s', r, he, ho, hth⟩ := issueHint_eq s wait f upto ht
  obtain ⟨c, ps, hsame⟩ := hf.same s.me
  have hfin := hf.final s.me
  have hx : s'.thread s.cur = { s.me with
      chain := c, pend := ps, pc := s.me.pc + 4, dist := s.me.dist + 1 + wait, readyAt := r, stallEnd := r, yieldFor := [] }.commit := by
    rw [hth, Thread.hinted, hsame]
  rw [hsame] at hfin ⊢
  refine ⟨s', he, ⟨ho, ⟨fun i hi _ => ?_, fun i hi _ => ?_, fun i hi _ => ?_, ?_⟩, ?_, fun _ => ?_, ?_⟩, ?_, ?_, fun q hq => ?_⟩
  · rw [hx, commit_finalG _ _ hi]
    unfold Thread.finalG
    rw [hfin]; rfl
  · rw [hx, commit_finalV _ _ hi]
    exact hfin .v i _
  · rw [hx, commit_finalK _ _ hi]
    unfold Thread.finalK
    rw [hfin]; rfl
  · rw [hx, commit_rest]; rfl
  · simp [SameLatches, hx, State.me]
  · rw [hx, commit_fflags]; rfl
  · rw [hx, commit_pc]
  · rw [hx, commit_chain]
  · rw [hx, commit_dist]
  · rw [hx] at hq
    have := commit_pend_subset _ hq
    exact this

end Sys2Proof

namespace Sys2Proof

open Machine

theorem keepsValues_addHint (f : Chain → Chain) : KeepsValues fun t => t.addHint f := keepsValues_chain _

/-- The modifiers of an HMOD: its predicate field (Table 3.4). -/
theorem predIx_of_hmod {t : Thread} {y : Chain} {p r o : BitVec 3} {m c : BitVec 2} {f : BitVec 4} {x : BitVec 8}
    (hc : t.chain = some y) (hy : y.hmod = some (p ++ r ++ m ++ c ++ o ++ f ++ x)) : t.predIx = p.toNat := by
  have he : (p ++ r ++ m ++ c ++ o ++ f ++ x).extractLsb' 22 3 = p := by
    rw [ext_hi, ext_hi, ext_hi, ext_hi, ext_hi, ext_hi, ext_all] <;> omega
  unfold Thread.predIx Thread.hmod hmodField
  rw [hc]
  dsimp only
  rw [hy]
  exact congrArg BitVec.toNat he

/-- The results of the unit that an HSCH.IDLE names count as in time (R47). -/
theorem due_le_of_mem_completeUnit {t : Thread} {sel : Producer → Bool} {q : PendWrite} (h : q ∈ (t.completeUnit sel).pend)
    (hs : sel q.unit = true) : q.due ≤ t.dist := by
  rw [completeUnit_pend] at h
  obtain ⟨p, -, rfl⟩ := List.mem_map.mp h
  have hp : sel p.unit = true := hs
  simp [hp]

/-- What an HSCH.IDLE does to a thread whose command no tile engine holds, or that names another unit. -/
theorem exec_hschIdle_regsOnly {s : State} (ht : s.cur.thr < 16) (x : BitVec 20) {u : BitVec 4} (hu : u.toNat < 4)
    (hn : ¬ (u.toNat = 3 ∧ tileHolds (s.core s.cur.core).tile s.cur.thr = true)) :
    Answers (.hschIdle x u) s fun s' => RegsOnly s.cur s s' [] [] [] false (s.me.pc + 4) ∧
      (s'.thread s.cur).chain = none ∧ (s'.thread s.cur).dist = s.me.dist + 1 ∧
      ∀ q ∈ (s'.thread s.cur).pend, unitSel u.toNat q.unit = true → q.due ≤ (s'.thread s.cur).dist := by
  obtain ⟨s', he, hr, hc, hd, hp⟩ := issueHint_regsOnly (s := s) (wait := 0)
    (fun th => max (th.unitEnd (unitSel u.toNat)) (if u.toNat = 0 then th.vectorEnd else 0)) (keepsValues_completeUnit (unitSel u.toNat)) ht
  refine ⟨s', ?_, hr, hc, hd, fun q hq hs => ?_⟩
  · change execHschIdle x u s = _
    unfold execHschIdle
    rw [if_pos hu]
    dsimp only
    rw [if_neg hn]
    exact he
  · have := due_le_of_mem_completeUnit (hp q hq) hs
    omega

end Sys2Proof

namespace Sys2Proof

open Machine

/-- A hint that ends its chain and does nothing else (R44, R47, R48). -/
theorem hint_endsChain {i : Instr} {s : State} {wait : Nat} (ht : s.cur.thr < 16)
    (he : exec i s = issueHint s wait fun t => { t with chain := none }) :
    Answers i s fun s' => RegsOnly s.cur s s' [] [] [] false (s.me.pc + 4) ∧
      (s'.thread s.cur).chain = none ∧ (s'.thread s.cur).dist = s.me.dist + 1 + wait := by
  obtain ⟨s', h, hr, hc, hd, -⟩ := issueHint_regsOnly (fun _ => 0) (keepsValues_chain fun _ => none) ht
  exact ⟨s', he.trans h, hr, hc, hd⟩

/-- A hint that adds to its chain (R44 to R46). -/
theorem hint_addsToChain {i : Instr} {s : State} {f : Chain → Chain} (ht : s.cur.thr < 16)
    (he : exec i s = issueHint s 0 fun t => t.addHint f) :
    Answers i s fun s' => RegsOnly s.cur s s' [] [] [] false (s.me.pc + 4) ∧
      (s'.thread s.cur).chain = some (f (s.me.chain.getD ⟨s.me.pc, s.me.dist, none, []⟩)) ∧ (s'.thread s.cur).dist = s.me.dist + 1 := by
  obtain ⟨s', h, hr, hc, hd, -⟩ := issueHint_regsOnly (fun _ => 0) (keepsValues_addHint f) ht
  exact ⟨s', he.trans h, hr, hc, hd⟩

theorem hint_hschIdle_unit {s : State} (ht : s.cur.thr < 16) (x : BitVec 20) {u : BitVec 4} (hu : u.toNat < 3) :
    Answers (.hschIdle x u) s fun s' => RegsOnly s.cur s s' [] [] [] false (s.me.pc + 4) ∧
      (s'.thread s.cur).chain = none ∧ (s'.thread s.cur).dist = s.me.dist + 1 ∧
      ∀ q ∈ (s'.thread s.cur).pend, (u = 0 → q.unit = .vec → q.due ≤ (s'.thread s.cur).dist) ∧
        (u = 1 → q.unit = .mul → q.due ≤ (s'.thread s.cur).dist) ∧
        (u = 2 → q.unit ≠ .interlocked → q.due ≤ (s'.thread s.cur).dist) := by
  obtain ⟨s', he, hr, hc, hd, hq⟩ := exec_hschIdle_regsOnly ht x (u := u) (by omega) (by omega)
  refine ⟨s', he, hr, hc, hd, fun q hm => ⟨fun h0 hv => hq q hm ?_, fun h1 hv => hq q hm ?_, fun h2 hv => hq q hm ?_⟩⟩
  · subst h0; simp [unitSel, hv]
  · subst h1; simp [unitSel, hv]
  · subst h2; simp [unitSel, hv]

theorem hint_hschIdle_tile {s : State} (ht : s.cur.thr < 16) (x : BitVec 20)
    (hn : tileHolds ((atIssue s).core s.cur.core).tile s.cur.thr = false) :
    Answers (.hschIdle x 3) s fun s' => RegsOnly s.cur s s' [] [] [] false (s.me.pc + 4) ∧
      (s'.thread s.cur).chain = none ∧ (s'.thread s.cur).dist = s.me.dist + 1 := by
  rw [atIssue_core] at hn
  obtain ⟨s', he, hr, hc, hd, -⟩ := exec_hschIdle_regsOnly ht x (u := 3) (by decide) (by simp [hn])
  exact ⟨s', he, hr, hc, hd⟩

/-! ## Fences and prefetches (R81, R139, R146) -/

/-- An SC event passes its gate once its window has closed; another event always does (R81). -/
theorem scGate_begun {f : Form} {s : State} {ord : Nat} (ht : s.cur.thr < 16) (ho : OrderOpen s ord) :
    scGate (begun f s) s.cur ord = .ok () := by
  have hs : Plainly Thread.scGo := fun _ _ _ _ _ => rfl
  have hgo : ((begun f s).thread s.cur).scGo = s.me.scGo := by
    have := hs.begun (f := f) ht
    rwa [State.me, begun_cur] at this
  have hm : (begun f s).meth.isNone = s.meth.isNone := by
    rw [← Option.not_isSome, ← Option.not_isSome, begun_meth_isSome]
  unfold scGate
  refine if_neg ?_
  rw [hgo, hm]
  by_cases h3 : ord = 3
  · rcases ho h3 with h | h <;> simp [h, ← Option.not_isSome]
  · simp [h3]

/-- A fence of kind `kind` (R146). -/
theorem passes_fence {i : Instr} {s : State} {w : BitVec 32} {kind : Nat} {st c : BitVec 3} (he : exec i s = fence w kind st c s)
    (hc : c.toNat < 7) (hi : Issues {} s) (ho : kind = 2 ∨ kind = 4 → OrderOpen s 3) :
    Passes i s (if 2 ≤ kind then drainPosted (begun {} s) s.cur else orderStores (begun {} s) s.cur) := by
  have hg : scGate (begun {} s) s.cur (if kind = 2 ∨ kind = 4 then 3 else 0) = .ok () := by
    refine scGate_begun hi.context ?_
    split
    · exact ho ‹_›
    · exact fun h => absurd h (by decide)
  refine passes_of he ⟨decide_eq_true hc, rfl, rfl, rfl, rfl, rfl, rfl, rfl⟩ hi ?_
  rw [hg]
  rfl

/-- An instruction whose body leaves the thread as it is passes without effect. -/
theorem passes_of_regBody_id {i : Instr} {op : Op} {f : Form} {s : State} (he : exec i s = issue op s (regBody id)) (hf : op.Has f)
    (hi : Issues f s) : Passes i s (begun f s) := by
  have ht : ((begun f s).setThread s.cur ((begun f s).thread s.cur)).thread s.cur = (begun f s).thread s.cur :=
    setThread_thread _ _ _ hi.context
  obtain ⟨s', hs, hr⟩ := passes_of he hf hi (z := (begun f s).setThread s.cur ((begun f s).thread s.cur)) rfl
  rw [ht] at hr
  exact ⟨s', hs, hr.of_onlyThread (onlyThread_setThread _ _ _) ht⟩

/-- Settles O17: each hint is `issueHint` with what it does to the chain; a fence passes its gate and orders the stores. -/
theorem hintsFencesPrefetch : Obligations.HintsFencesPrefetch := by
  unfold Obligations.HintsFencesPrefetch
  refine ⟨fun s ht => ?_, fun st t a z o r c s hc => ⟨fun hi => ⟨?_, ?_, ?_, fun ho => ⟨?_, ?_⟩⟩, fun hi => ?_⟩⟩
  · dsimp only
    refine ⟨fun p => ?_, fun p r m c o f x hw => ?_, fun x n => hint_endsChain ht rfl, fun x => hint_endsChain (wait := 0) ht rfl,
      fun m p => hint_endsChain (wait := 0) ht rfl, fun x u hu => hint_hschIdle_unit ht x hu, fun x hn => hint_hschIdle_tile ht x hn⟩
    · obtain ⟨s', he, hr, hc, hd⟩ := hint_addsToChain (i := .himm p) ht rfl
      refine ⟨s', he, hr, _, hc, ?_, ?_, ?_, hd⟩
      all_goals cases s.me.chain <;> rfl
    · obtain ⟨s', he, hr, hc, hd⟩ := hint_addsToChain (i := .hmod p r m c o f x) ht (if_pos hw)
      refine ⟨s', he, hr, _, hc, ?_, rfl, predIx_of_hmod hc rfl, hd⟩
      cases s.me.chain <;> rfl
  · exact passes_fence (kind := 0) rfl hc hi (by simp)
  · exact passes_fence (kind := 1) rfl hc hi (by simp)
  · exact passes_fence (kind := 3) rfl hc hi (by simp)
  · exact passes_fence (kind := 2) rfl hc hi fun _ => ho
  · exact passes_fence (kind := 4) rfl hc hi fun _ => ho
  · exact passes_of_regBody_id rfl ⟨rfl, rfl, rfl, rfl, rfl, rfl, rfl, rfl⟩ hi

end Sys2Proof

namespace Sys2Proof

open Machine

/-! ## Where the control registers stand (R51, R52, Table 3.9) -/

/-- The control registers that a thread holds. -/
def threadCsr (x : Thread) (q : Nat) : Option Word :=
  if 0x40 ≤ q ∧ q < 0x50 then
    some (if q % 2 = 0 then x.segBase.toList.getD ((q - 0x40) / 2) 0 else x.segLimit.toList.getD ((q - 0x40) / 2) 0)
  else match q with
    | 0x000 => some x.tctl
    | 0x001 => some x.cause
    | 0x002 => some x.epc
    | 0x003 => some x.eval
    | 0x004 => some x.tvec
    | 0x005 => some x.escr
    | 0x006 => some x.fflags
    | _ => none

/-- The control registers that a core holds for its thread `thr`. -/
def coreCsr (c : VCore) (thr q : Nat) : Option Word :=
  if 0x20 ≤ q ∧ q < 0x30 then some (c.shfmt.toList.getD (q - 0x20) 0)
  else match q with
    | 0x009 => some (c.vcidOf thr)
    | 0x00A => some (c.stdomOf thr)
    | 0x00C => some (ggeoWord (c.ggeoOf thr) false)
    | 0x00D => some (ggeoWord (c.ggeoOf thr) true)
    | _ => none

/-- The control registers that name the thread, count time or describe the package. -/
def packageCsr (s : State) (t : Tid) (q : Nat) : Word :=
  match q with
  | 0x008 => BitVec.ofNat 64 t.thr
  | 0x010 => BitVec.ofNat 64 (dieCycle s (dieOf s t.core) + 2 ^ 80 - (s.core t.core).cycBase)
  | 0x011 => BitVec.ofNat 64 (((s.die (dieOf s t.core)).ncycAt s.now + 2 ^ 80 - (s.core t.core).ncycBase) / 65536)
  | 0x012 => BitVec.ofNat 64 (gts s)
  | 0x100 => BitVec.ofNat 64 (cap0 s)
  | 0x101 => BitVec.ofNat 64 (cap1 s)
  | 0x102 => BitVec.ofNat 64 (cap2 s)
  | 0x103 => BitVec.ofNat 64 (cap3 s)
  | _ => 0

/-- A control register reads from the state that holds it. -/
theorem csrRead_eq (s : State) (t : Tid) (q : Nat) :
    csrRead s t q = ((threadCsr (s.thread t) q).or (coreCsr (s.core t.core) t.thr q)).getD (packageCsr s t q) := by
  by_cases h2 : 0x20 ≤ q ∧ q < 0x30
  · obtain ⟨h, h'⟩ := h2
    interval_cases q <;> rfl
  by_cases h4 : 0x40 ≤ q ∧ q < 0x50
  · simp [csrRead, threadCsr, h2, h4]
  unfold csrRead threadCsr coreCsr packageCsr
  simp only [if_neg h2, if_neg h4]
  split
  case h_20 => simp
  all_goals rfl

end Sys2Proof

namespace Sys2Proof

open Machine

/-- What the package's registers depend on beside its threads. -/
theorem packageCsr_setCore {s : State} {t : Tid} {c : VCore} (hc : c.cycBase = (s.core t.core).cycBase)
    (hn : c.ncycBase = (s.core t.core).ncycBase) (q : Nat) : packageCsr (s.setCore t.core c) t q = packageCsr s t q := by
  unfold packageCsr
  rw [setCore_core, if_pos rfl, hc, hn]
  rfl

theorem setThread_eq_setCore {s : State} (hm : s.meth = none) (t : Tid) (x : Thread) :
    s.setThread t x = s.setCore t.core ((s.core t.core).setThread t.thr x) := by
  unfold State.setThread; rw [hm]

/-- A thread's change shows in the registers that it holds, and in no other. -/
theorem csrRead_setThread {s : State} (hm : s.meth = none) {t : Tid} (ht : t.thr < 16) (x : Thread) (q : Nat) :
    csrRead (s.setThread t x) t q = ((threadCsr x q).or (coreCsr (s.core t.core) t.thr q)).getD (packageCsr s t q) := by
  rw [csrRead_eq, setThread_thread _ _ _ ht, setThread_eq_setCore hm, packageCsr_setCore (by rfl) (by rfl), setCore_core, if_pos rfl]
  rfl

/-- A core's change that leaves the thread and the counters shows in the registers that the core holds, and in no other. -/
theorem csrRead_setCore {s : State} (hm : s.meth = none) {t : Tid} {c : VCore} (hth : c.threads = (s.core t.core).threads)
    (hc : c.cycBase = (s.core t.core).cycBase) (hn : c.ncycBase = (s.core t.core).ncycBase) (q : Nat) :
    csrRead (s.setCore t.core c) t q = ((threadCsr (s.thread t) q).or (coreCsr c t.thr q)).getD (packageCsr s t q) := by
  have hx : (s.setCore t.core c).thread t = s.thread t := by
    simp [State.thread, hm, VCore.thread, hth]
  rw [csrRead_eq, hx, packageCsr_setCore hc hn, setCore_core, if_pos rfl]

/-- A thread's change that leaves the register `q` of the thread leaves `q`. -/
theorem csrRead_setThread_of_eq {s : State} (hm : s.meth = none) {t : Tid} (ht : t.thr < 16) {x : Thread} {q : Nat}
    (h : threadCsr x q = threadCsr (s.thread t) q) : csrRead (s.setThread t x) t q = csrRead s t q := by
  rw [csrRead_setThread hm ht, csrRead_eq, h]

theorem csrRead_setThread_of_some {s : State} (hm : s.meth = none) {t : Tid} (ht : t.thr < 16) {x : Thread} {q : Nat} {v : Word}
    (h : threadCsr x q = some v) : csrRead (s.setThread t x) t q = v := by
  rw [csrRead_setThread hm ht, h]; rfl

theorem putGgeo_threads (c : VCore) (n : Nat) (g : BitVec 128) : (c.putGgeo n g).threads = c.threads := by
  unfold VCore.putGgeo; split <;> rfl
theorem putGgeo_cycBase (c : VCore) (n : Nat) (g : BitVec 128) : (c.putGgeo n g).cycBase = c.cycBase := by
  unfold VCore.putGgeo; split <;> rfl
theorem putGgeo_ncycBase (c : VCore) (n : Nat) (g : BitVec 128) : (c.putGgeo n g).ncycBase = c.ncycBase := by
  unfold VCore.putGgeo; split <;> rfl
theorem putGgeo_shfmt (c : VCore) (n : Nat) (g : BitVec 128) : (c.putGgeo n g).shfmt = c.shfmt := by
  unfold VCore.putGgeo; split <;> rfl
theorem putGgeo_ggeoOf (c : VCore) (n : Nat) (g : BitVec 128) : (c.putGgeo n g).ggeoOf n = g := by
  unfold VCore.putGgeo VCore.ggeoOf; split <;> simp [*]
theorem putGgeo_vcidOf (c : VCore) (n : Nat) (g : BitVec 128) : (c.putGgeo n g).vcidOf n = c.vcidOf n := by
  unfold VCore.putGgeo VCore.vcidOf; split <;> simp [*]
theorem putGgeo_stdomOf (c : VCore) (n : Nat) (g : BitVec 128) : (c.putGgeo n g).stdomOf n = c.stdomOf n := by
  unfold VCore.putGgeo VCore.stdomOf; split <;> simp [*]

theorem ggeoWord_low (hi lo : Word) : ggeoWord (hi ++ lo) false = lo := by
  unfold ggeoWord; rw [if_neg (by decide), ext_lo _ _ (by omega), ext_all]
theorem ggeoWord_high (hi lo : Word) : ggeoWord (hi ++ lo) true = hi := by
  unfold ggeoWord; rw [if_pos rfl, ext_hi _ _ (by omega), ext_all]

theorem getD_setIfInBounds_ne {α : Type} {n : Nat} (v : Vector α n) {i j : Nat} (x d : α) (h : i ≠ j) :
    (v.setIfInBounds i x).toList.getD j d = v.toList.getD j d := by
  simp [Vector.toList_setIfInBounds, List.getD_eq_getElem?_getD, h]

theorem getD_setIfInBounds_self {α : Type} {n : Nat} (v : Vector α n) {i : Nat} (x d : α) (h : i < n) :
    (v.setIfInBounds i x).toList.getD i d = x := by
  simp [Vector.toList_setIfInBounds, List.getD_eq_getElem?_getD, h]

end Sys2Proof

namespace Sys2Proof

open Machine

/-! ## What a write of a control register does (R52, R130) -/

/-- What a register reads after `x` was written to it: its reserved and read-only fields aside, `x`. -/
def csrValue (r : Nat) (old x : Word) : Word :=
  if 0x20 ≤ r ∧ r < 0x30 then x &&& 0xFF1F
  else if 0x40 ≤ r ∧ r < 0x50 then if r % 2 = 0 then x &&& 0xFF00FFFFFFFFFFFF else x &&& 0xFFFFFFFFFFFF
  else match r with
    | 0x000 => (old &&& ~~~7#64) ||| (x &&& 7)
    | 0x001 => x &&& 0xC0FF
    | 0x002 => x &&& ~~~3#64
    | 0x003 => x
    | 0x004 => x &&& ~~~3#64
    | 0x005 => x
    | 0x006 => x &&& 0xFF
    | 0x00C => (old &&& 0xFFFFFFFF00000000) ||| (x &&& 0xFFFFFFFF)
    | 0x00D => x
    | _ => old

theorem csrValue_shfmt {r : Nat} (h : 0x20 ≤ r ∧ r < 0x30) (old x : Word) : csrValue r old x = x &&& 0xFF1F :=
  if_pos h

theorem csrValue_segment {r : Nat} (h : 0x40 ≤ r ∧ r < 0x50) (old x : Word) :
    csrValue r old x = if r % 2 = 0 then x &&& 0xFF00FFFFFFFFFFFF else x &&& 0xFFFFFFFFFFFF := by
  unfold csrValue
  rw [if_neg (by omega), if_pos h]

/-- From `s` to `z` the register `r` takes the value `v`, and no other control register of the thread changes. -/
def WroteCsr (s z : State) (t : Tid) (r : Nat) (v : Word) : Prop :=
  csrRead z t r = v ∧ ∀ q, q ≠ r → csrRead z t q = csrRead s t q

section Writes

variable {s : State} {t : Tid} {r : Nat} {v : Word}

theorem wroteCsr_setThread (hm : s.meth = none) (ht : t.thr < 16) {x : Thread} (hv : threadCsr x r = some v)
    (hq : ∀ q, q ≠ r → threadCsr x q = threadCsr (s.thread t) q) : WroteCsr s (s.setThread t x) t r v :=
  ⟨csrRead_setThread_of_some hm ht hv, fun q h => csrRead_setThread_of_eq hm ht (hq q h)⟩

theorem wroteCsr_setCore (hm : s.meth = none) {c : VCore} (hth : c.threads = (s.core t.core).threads)
    (hc : c.cycBase = (s.core t.core).cycBase) (hn : c.ncycBase = (s.core t.core).ncycBase) (hr : threadCsr (s.thread t) r = none)
    (hv : coreCsr c t.thr r = some v) (hq : ∀ q, q ≠ r → coreCsr c t.thr q = coreCsr (s.core t.core) t.thr q) :
    WroteCsr s (s.setCore t.core c) t r v := by
  refine ⟨?_, fun q h => ?_⟩
  · rw [csrRead_setCore hm hth hc hn, hr, hv]; rfl
  · rw [csrRead_setCore hm hth hc hn, hq q h, csrRead_eq]

/-- Two threads agree on the register `q` where they agree on what `q` names. -/
theorem threadCsr_congr {x y : Thread} {q : Nat} (hb : x.segBase = y.segBase := by rfl) (hl : x.segLimit = y.segLimit := by rfl)
    (h0 : q = 0 → x.tctl = y.tctl := by exact fun _ => rfl) (h1 : q = 1 → x.cause = y.cause := by exact fun _ => rfl)
    (h2 : q = 2 → x.epc = y.epc := by exact fun _ => rfl) (h3 : q = 3 → x.eval = y.eval := by exact fun _ => rfl)
    (h4 : q = 4 → x.tvec = y.tvec := by exact fun _ => rfl) (h5 : q = 5 → x.escr = y.escr := by exact fun _ => rfl)
    (h6 : q = 6 → x.fflags = y.fflags := by exact fun _ => rfl) : threadCsr x q = threadCsr y q := by
  unfold threadCsr
  rw [hb, hl]
  split
  · rfl
  · split <;> simp_all

/-- The segment registers that a write of one of them leaves. -/
theorem threadCsr_segBase_ne (x : Thread) {i q : Nat} (w : Word) (h : q ≠ 0x40 + 2 * i) :
    threadCsr { x with segBase := x.segBase.setIfInBounds i w } q = threadCsr x q := by
  unfold threadCsr
  split
  · split
    · rw [getD_setIfInBounds_ne _ _ _ (by omega)]
    · rfl
  · rfl

theorem threadCsr_segLimit_ne (x : Thread) {i q : Nat} (w : Word) (h : q ≠ 0x41 + 2 * i) :
    threadCsr { x with segLimit := x.segLimit.setIfInBounds i w } q = threadCsr x q := by
  unfold threadCsr
  split
  · split
    · rfl
    · rw [getD_setIfInBounds_ne _ _ _ (by omega)]
  · rfl

theorem threadCsr_segBase_self (x : Thread) {r : Nat} (w : Word) (h : 0x40 ≤ r ∧ r < 0x50) (he : r % 2 = 0) :
    threadCsr { x with segBase := x.segBase.setIfInBounds ((r - 0x40) / 2) w } r = some w := by
  unfold threadCsr
  rw [if_pos h, if_pos he, getD_setIfInBounds_self _ _ _ (by omega)]

theorem threadCsr_segLimit_self (x : Thread) {r : Nat} (w : Word) (h : 0x40 ≤ r ∧ r < 0x50) (he : ¬ r % 2 = 0) :
    threadCsr { x with segLimit := x.segLimit.setIfInBounds ((r - 0x40) / 2) w } r = some w := by
  unfold threadCsr
  rw [if_pos h, if_neg he, getD_setIfInBounds_self _ _ _ (by omega)]

theorem threadCsr_shfmt (x : Thread) {r : Nat} (h : 0x20 ≤ r ∧ r < 0x30) : threadCsr x r = none := by
  obtain ⟨h, h'⟩ := h
  interval_cases r <;> rfl

theorem coreCsr_shfmt_self (c : VCore) (n : Nat) {r : Nat} (w : Word) (h : 0x20 ≤ r ∧ r < 0x30) :
    coreCsr { c with shfmt := c.shfmt.setIfInBounds (r - 0x20) w } n r = some w := by
  unfold coreCsr
  rw [if_pos h, getD_setIfInBounds_self _ _ _ (by omega)]

theorem coreCsr_shfmt_ne (c : VCore) (n : Nat) {r q : Nat} (w : Word) (hr : 0x20 ≤ r) (h : q ≠ r) :
    coreCsr { c with shfmt := c.shfmt.setIfInBounds (r - 0x20) w } n q = coreCsr c n q := by
  unfold coreCsr
  split
  · rw [getD_setIfInBounds_ne _ _ _ (by omega)]
  · rfl

/-- Of the core's registers, a change of the grid's geometry shows in its two halves alone (R240). -/
theorem coreCsr_putGgeo {c : VCore} {n q : Nat} {g : BitVec 128} (h0 : q = 0x00C → ggeoWord g false = ggeoWord (c.ggeoOf n) false)
    (h1 : q = 0x00D → ggeoWord g true = ggeoWord (c.ggeoOf n) true) : coreCsr (c.putGgeo n g) n q = coreCsr c n q := by
  unfold coreCsr
  rw [putGgeo_shfmt, putGgeo_vcidOf, putGgeo_stdomOf, putGgeo_ggeoOf]
  split
  · rfl
  · split <;> simp_all

theorem wroteCsr_ggeo (hm : s.meth = none) {g : BitVec 128} (hr : threadCsr (s.thread t) r = none)
    (hv : coreCsr ((s.core t.core).putGgeo t.thr g) t.thr r = some v)
    (hq : ∀ q, q ≠ r → coreCsr ((s.core t.core).putGgeo t.thr g) t.thr q = coreCsr (s.core t.core) t.thr q) :
    WroteCsr s (s.setCore t.core ((s.core t.core).putGgeo t.thr g)) t r v :=
  wroteCsr_setCore hm (putGgeo_threads _ _ _) (putGgeo_cycBase _ _ _) (putGgeo_ncycBase _ _ _) hr hv hq

/-- A write that is not refused: the register takes the value, its reserved and read-only fields aside, and no other changes. -/
theorem wroteCsr_of_csrWrite {z : State} {x : Word} (ht : t.thr < 16) (hm : s.meth = none) (h : csrWrite s t r x = some z) :
    WroteCsr s z t r (csrValue r (csrRead s t r) x) := by
  unfold csrWrite at h
  dsimp only at h
  by_cases h2 : 0x20 ≤ r ∧ r < 0x30
  · rw [if_pos h2] at h
    split at h <;> cases h
    rw [csrValue_shfmt h2]
    exact wroteCsr_setCore hm rfl rfl rfl (threadCsr_shfmt _ h2) (coreCsr_shfmt_self _ _ _ h2) fun q hq => coreCsr_shfmt_ne _ _ _ h2.1 hq
  rw [if_neg h2] at h
  by_cases h4 : 0x40 ≤ r ∧ r < 0x50
  · rw [if_pos h4] at h
    rw [csrValue_segment h4]
    by_cases he : r % 2 = 0
    · rw [if_pos he] at h ⊢
      split at h <;> cases h
      exact wroteCsr_setThread hm ht (threadCsr_segBase_self _ _ h4 he) fun q hq => threadCsr_segBase_ne _ _ (by omega)
    · rw [if_neg he] at h ⊢
      cases h
      exact wroteCsr_setThread hm ht (threadCsr_segLimit_self _ _ h4 he) fun q hq => threadCsr_segLimit_ne _ _ (by omega)
  rw [if_neg h4] at h
  split at h
  · cases h
    have : csrRead s t 0 = (s.thread t).tctl := rfl
    exact wroteCsr_setThread hm ht (by rw [this]; rfl) fun q hq => threadCsr_congr (h0 := fun h => absurd h hq)
  · cases h
    exact wroteCsr_setThread hm ht rfl fun q hq => threadCsr_congr (h1 := fun h => absurd h hq)
  · cases h
    exact wroteCsr_setThread hm ht rfl fun q hq => threadCsr_congr (h2 := fun h => absurd h hq)
  · cases h
    exact wroteCsr_setThread hm ht rfl fun q hq => threadCsr_congr (h3 := fun h => absurd h hq)
  · cases h
    exact wroteCsr_setThread hm ht rfl fun q hq => threadCsr_congr (h4 := fun h => absurd h hq)
  · cases h
    exact wroteCsr_setThread hm ht rfl fun q hq => threadCsr_congr (h5 := fun h => absurd h hq)
  · cases h
    exact wroteCsr_setThread hm ht rfl fun q hq => threadCsr_congr (h6 := fun h => absurd h hq)
  · split at h <;> cases h
    have : csrRead s t 0x00C = ggeoWord ((s.core t.core).ggeoOf t.thr) false := rfl
    refine wroteCsr_ggeo hm rfl ?_ fun q hq => coreCsr_putGgeo (fun h => absurd h hq) fun _ => ggeoWord_high _ _
    rw [this]
    change some (ggeoWord (((s.core t.core).putGgeo t.thr _).ggeoOf t.thr) false) = _
    rw [putGgeo_ggeoOf, ggeoWord_low]
    rfl
  · cases h
    refine wroteCsr_ggeo hm rfl ?_ fun q hq => coreCsr_putGgeo (fun _ => ggeoWord_low _ _) fun h => absurd h hq
    change some (ggeoWord (((s.core t.core).putGgeo t.thr _).ggeoOf t.thr) true) = _
    rw [putGgeo_ggeoOf, ggeoWord_high]
    rfl
  · cases h
    exact ⟨by simp [csrValue, h2, h4], fun _ _ => rfl⟩

end Writes

end Sys2Proof

namespace Sys2Proof

open Machine

/-! ## CSRR (R51, R52, R130) -/

theorem toList_getD_eq {α : Type} {n : Nat} (v : Vector α n) {i : Nat} (h : i < n) (d : α) : v.toList.getD i d = v[i] := by
  simp [List.getD_eq_getElem?_getD, h]

theorem csrRead_shfmt (s : State) (t : Tid) {i : Nat} (h : i < 16) : csrRead s t (0x020 + i) = (s.core t.core).shfmt[i] := by
  unfold csrRead
  dsimp only
  rw [if_pos (by omega), Nat.add_sub_cancel_left, toList_getD_eq _ h]

theorem csrRead_segBase (s : State) (t : Tid) {i : Nat} (h : i < 8) : csrRead s t (0x040 + 2 * i) = (s.thread t).segBase[i] := by
  have hi : (0x040 + 2 * i - 0x40) / 2 = i := by omega
  unfold csrRead
  dsimp only
  rw [if_neg (by omega), if_pos (by omega), if_pos (by omega), hi, toList_getD_eq _ h]

theorem csrRead_segLimit (s : State) (t : Tid) {i : Nat} (h : i < 8) : csrRead s t (0x041 + 2 * i) = (s.thread t).segLimit[i] := by
  have hi : (0x041 + 2 * i - 0x40) / 2 = i := by omega
  unfold csrRead
  dsimp only
  rw [if_neg (by omega), if_pos (by omega), if_neg (by omega), hi, toList_getD_eq _ h]

/-- Settles O18: CSRR's body is the read, in the frame of every instruction; the values are the fields that the state holds. -/
theorem controlRegisterReads : Obligations.ControlRegisterReads := by
  unfold Obligations.ControlRegisterReads
  refine ⟨fun st d a m s => ⟨fun hex hi => ?_, fun hex hu => ?_⟩, fun s t => ?_⟩
  · exact yields_of rfl ⟨hex, rfl, rfl, rfl, rfl, rfl, rfl, rfl⟩ hi d.isLt rfl
  · exact raises_illegal (op :=
      { word := 25#7 ++ st ++ d ++ a ++ m, stall := st.toNat, legal := csrExists (csrAddr s.me m), home := csrAddr s.me m != 6,
        awaits := csrAwaits (csrAddr s.me m) }) rfl rfl hu hex
  · exact ⟨rfl, rfl, rfl, rfl, rfl, rfl, rfl, rfl, rfl, rfl, rfl, rfl, rfl, fun i => csrRead_shfmt s t i.isLt,
      fun i => ⟨csrRead_segBase s t i.isLt, csrRead_segLimit s t i.isLt⟩⟩

end Sys2Proof

namespace Sys2Proof

open Machine

/-! ## CSRW, CSRSET and CSRCLR (R52, R130) -/

/-- The form of a write of a control register (R130, R203). -/
def csrForm (s : State) (a : BitVec 5) (m : BitVec 12) : Form :=
  { gForm [a] with
    cls := if csrPerCore (csrAddr s.me m) then .irrev else .spec
    home := csrAddr s.me m != 6
    awaits := csrAwaits (csrAddr s.me m) }

/-- What the frame of every instruction knows of a write of a control register. -/
def csrWriteOp (w : BitVec 32) (st : BitVec 3) (s : State) (a : BitVec 5) (m : BitVec 12) : Op :=
  { word := w
    stall := st.toNat
    legal := csrExists (csrAddr s.me m) && !csrRO (csrAddr s.me m)
    reads := [(.g, a.toNat)]
    cls := if csrPerCore (csrAddr s.me m) then .irrev else .spec
    home := csrAddr s.me m != 6
    awaits := csrAwaits (csrAddr s.me m) }

/-- What a write of a control register does: the old value to gD and the new one to the register, in one step. -/
def csrWriteBody (w : BitVec 32) (d a : BitVec 5) (r : Nat) (g : Word → Word → Word) : Body := fun z t =>
  match csrWrite z t r (g (csrRead z t r) ((z.thread t).readG a.toNat)) with
  | none => .error (.trap cILLEGAL (w.setWidth 64))
  | some y => .ok (y.setThread t ((y.thread t).putG d.toNat (csrRead z t r)), .seq)

theorem csrOp_eq (w : BitVec 32) (st : BitVec 3) (d a : BitVec 5) (m : BitVec 12) (s : State) (g : Word → Word → Word) :
    csrOp w st d a m s g = issue (csrWriteOp w st s a m) s (csrWriteBody w d a (csrAddr s.me m) g) := rfl

section CsrOp

variable {w : BitVec 32} {st : BitVec 3} {d a : BitVec 5} {m : BitVec 12} {s z : State} {i : Instr} {g : Word → Word → Word} {r : Nat}

theorem csrWriteOp_has (hex : csrExists (csrAddr s.me m) = true) (hro : csrRO (csrAddr s.me m) = false) :
    (csrWriteOp w st s a m).Has (csrForm s a m) :=
  ⟨by simp [csrWriteOp, hex, hro], rfl, rfl, rfl, rfl, rfl, rfl, rfl⟩

theorem begun_readG {f : Form} (ht : s.cur.thr < 16) (n : Nat) : ((begun f s).thread s.cur).readG n = s.me.readG n := by
  have := (plainly_readG n).begun (f := f) ht
  rwa [State.me, begun_cur] at this

theorem csrWriteBody_of_some {f : Form} (ht : s.cur.thr < 16)
    (h : csrWrite (begun f s) s.cur r (g (csrRead (begun f s) s.cur r) (s.me.readG a.toNat)) = some z) :
    csrWriteBody w d a r g (begun f s) s.cur =
      .ok (z.setThread s.cur ((z.thread s.cur).putG d.toNat (csrRead (begun f s) s.cur r)), .seq) := by
  unfold csrWriteBody
  rw [begun_readG ht, h]

theorem csrWriteBody_of_none {f : Form} (ht : s.cur.thr < 16)
    (h : csrWrite (begun f s) s.cur r (g (csrRead (begun f s) s.cur r) (s.me.readG a.toNat)) = none) :
    csrWriteBody w d a r g (begun f s) s.cur = .error (.trap cILLEGAL (w.setWidth 64)) := by
  unfold csrWriteBody
  rw [begun_readG ht, h]

theorem csrOp_yields (he : exec i s = csrOp w st d a m s g) (hex : csrExists (csrAddr s.me m) = true)
    (hro : csrRO (csrAddr s.me m) = false) (hi : Issues (csrForm s a m) s)
    (h : csrWrite (begun (csrForm s a m) s) s.cur (csrAddr s.me m)
      (g (csrRead (begun (csrForm s a m) s) s.cur (csrAddr s.me m)) (s.me.readG a.toNat)) = some z) :
    Yields i s z d.toNat (csrRead (begun (csrForm s a m) s) s.cur (csrAddr s.me m)) :=
  yields_of (he.trans (csrOp_eq w st d a m s g)) (csrWriteOp_has hex hro) hi d.isLt (csrWriteBody_of_some hi.context h)

theorem csrOp_refused (he : exec i s = csrOp w st d a m s g) (hex : csrExists (csrAddr s.me m) = true)
    (hro : csrRO (csrAddr s.me m) = false) (hi : Issues (csrForm s a m) s)
    (h : csrWrite (begun (csrForm s a m) s) s.cur (csrAddr s.me m)
      (g (csrRead (begun (csrForm s a m) s) s.cur (csrAddr s.me m)) (s.me.readG a.toNat)) = none) :
    Raises i s cILLEGAL (w.setWidth 64) := by
  have hs := issue_stops (csrWriteOp_has (w := w) (st := st) hex hro) hi (csrWriteBody_of_none (w := w) (d := d) hi.context h)
  rw [← csrOp_eq, ← he] at hs
  exact hs.trans (congrArg (stopped · s.cur _) (conflictEnd_zero _ _))

theorem csrOp_illegal (he : exec i s = csrOp w st d a m s g) (hu : Unheld s)
    (h : csrExists (csrAddr s.me m) = false ∨ csrRO (csrAddr s.me m) = true) : Raises i s cILLEGAL (w.setWidth 64) := by
  refine raises_illegal (op := csrWriteOp w st s a m) (he.trans (csrOp_eq w st d a m s g)) rfl hu ?_
  rcases h with h | h <;> simp [csrWriteOp, h]

end CsrOp

/-! ## The values that a write refuses (R66, R102) -/

section Refused

variable {s z : State} {t : Tid} {x : Word}

/-- A format register refuses an element type that Table 4.2 lacks. -/
theorem csrWrite_shfmt_le {r : Nat} (hr : 0x20 ≤ r ∧ r < 0x30) (h : csrWrite s t r x = some z) : x.toNat % 16 ≤ 8 := by
  unfold csrWrite at h
  dsimp only at h
  rw [if_pos hr] at h
  by_contra hn
  have hf : 8 < field x 3 0 := by
    simp only [field, BitVec.extractLsb'_toNat]
    omega
  rw [if_pos hf] at h
  cases h

/-- A segment's base register refuses a class above 7. -/
theorem csrWrite_segBase_lt {r : Nat} (hr : 0x40 ≤ r ∧ r < 0x50) (he : r % 2 = 0) (h : csrWrite s t r x = some z) :
    x.toNat / 2 ^ 60 < 8 := by
  have hx := x.isLt
  unfold csrWrite at h
  dsimp only at h
  rw [if_neg (by omega), if_pos hr, if_pos he] at h
  by_contra hn
  have hf : 8 ≤ field x 63 60 := by
    simp only [field, BitVec.extractLsb'_toNat, Nat.shiftRight_eq_div_pow]
    omega
  rw [if_pos hf] at h
  cases h

end Refused

/-- Settles O19: the three instructions are one operation; its write is `wroteCsr_of_csrWrite`. -/
theorem controlRegisterWrites : Obligations.ControlRegisterWrites := by
  unfold Obligations.ControlRegisterWrites
  refine ⟨fun st d a m s n i g h => ?_, fun s z t r x ht hm h => ?_⟩
  · have he : exec i s = csrOp (n ++ st ++ d ++ a ++ m) st d a m s g := by
      simp only [List.mem_cons, Prod.mk.injEq, List.not_mem_nil, or_false] at h
      rcases h with ⟨rfl, rfl, rfl⟩ | ⟨rfl, rfl, rfl⟩ | ⟨rfl, rfl, rfl⟩ <;> rfl
    exact ⟨fun z hex hro hi hw => csrOp_yields he hex hro hi hw, fun hex hro hi hw => csrOp_refused he hex hro hi hw,
      fun hn hu => csrOp_illegal he hu hn⟩
  · obtain ⟨hv, hq⟩ := wroteCsr_of_csrWrite ht hm h
    refine ⟨hq, ?_, ?_, ?_, ?_, ?_, ?_, ?_, ?_, ?_, fun i hi hr => ?_, fun i hi hr => ?_, fun i hi hr => ?_⟩
    iterate 9 exact fun hr => by rw [hv, hr]; rfl
    · exact ⟨csrWrite_shfmt_le (by omega) h, hv.trans (csrValue_shfmt (by omega) _ _)⟩
    · refine ⟨csrWrite_segBase_lt (by omega) (by omega) h, hv.trans ?_⟩
      rw [csrValue_segment (by omega), if_pos (by omega)]
    · rw [hv, csrValue_segment (by omega), if_neg (by omega)]

end Sys2Proof

/-! # Every step keeps every memory in canonical form (O60) -/

namespace Sys2Proof

open Machine

/-! ## What it is for a state to be canonical -/

namespace KMap

variable {α β : Type}

/-- Every listed value has a property. -/
def All (P : α → Prop) (m : KMap α) : Prop := ∀ e ∈ m, P e.2

variable {P : α → Prop} {m : KMap α}

protected theorem All.nil : All P [] := nofun

protected theorem All.insert (h : All P m) {i : Nat} {x : α} (hx : P x) : All P (m.insert i x) := by
  induction m with
  | nil => exact List.forall_mem_singleton.mpr hx
  | cons e m ih =>
    obtain ⟨k, v⟩ := e
    have hv := List.forall_mem_cons.mp h
    simp only [insert]
    split
    · exact List.forall_mem_cons.mpr ⟨hx, hv.2⟩
    · split
      · exact List.forall_mem_cons.mpr ⟨hx, h⟩
      · exact List.forall_mem_cons.mpr ⟨hv.1, ih hv.2⟩

protected theorem All.erase (h : All P m) (i : Nat) : All P (m.erase i) := by
  induction m with
  | nil => exact h
  | cons e m ih =>
    obtain ⟨k, v⟩ := e
    have hv := List.forall_mem_cons.mp h
    simp only [erase]
    split
    · exact hv.2
    · split
      · exact h
      · exact List.forall_mem_cons.mpr ⟨hv.1, ih hv.2⟩

protected theorem All.filter (h : All P m) (p : Nat × α → Bool) : All P (List.filter p m) := fun e he => h e (List.mem_filter.mp he).1

protected theorem All.map (h : All P m) {Q : β → Prop} {f : Nat × α → Nat × β} (hf : ∀ e, P e.2 → Q (f e).2) : All Q (List.map f m) :=
  List.forall_mem_map.mpr fun e he => hf e (h e he)

protected theorem All.find? (h : All P m) {i : Nat} {x : α} (hx : m.find? i = some x) : P x := by
  induction m with
  | nil => cases hx
  | cons e m ih =>
    obtain ⟨k, v⟩ := e
    have hv := List.forall_mem_cons.mp h
    simp only [KMap.find?] at hx
    split at hx
    · cases hx; exact hv.1
    · split at hx
      · cases hx
      · exact ih hv.2 hx

protected theorem All.getD (h : All P m) {d : α} (hd : P d) (i : Nat) : P (m.getD i d) := by
  unfold KMap.getD
  cases hx : m.find? i with
  | none => exact hd
  | some x => exact h.find? hx

/-- Taking bytes away keeps the canonical form. -/
theorem wfFrom_filter [DecidableEq α] {d : α} {lo : Nat} (h : wfFrom d lo m = true) (p : Nat × α → Bool) :
    wfFrom d lo (List.filter p m) = true := by
  induction m generalizing lo with
  | nil => rfl
  | cons e m ih =>
    obtain ⟨k, v⟩ := e
    simp only [wfFrom, Bool.and_eq_true, decide_eq_true_eq] at h
    obtain ⟨⟨hlo, hv⟩, hm⟩ := h
    rw [List.filter_cons]
    split
    · simp [wfFrom, hlo, hv, ih hm]
    · exact wfFrom_mono (by omega) (ih hm)

end KMap

theorem Memory.filter_wf {m : Memory} (h : m.wf = true) (p : Nat × Byte → Bool) : Memory.wf (List.filter p m) = true := KMap.wfFrom_filter h p

/-- Every scratchpad of a list of cores is in canonical form. -/
abbrev SpadsWf (m : KMap VCore) : Prop := m.All fun c => c.spad.wf = true

/-- Every memory of a list of setts is in canonical form. -/
abbrev MemsWf (m : KMap Sett) : Prop := m.All fun x => x.mem.wf = true

/-- The memories that a Den holds are in canonical form. -/
def DenWf (d : Den) : Prop := SpadsWf d.cores ∧ MemsWf d.setts

/-- Every memory that a state holds is in canonical form. -/
def Canonical (s : State) : Prop :=
  s.dram.wf = true ∧ s.archive.wf = true ∧ s.outside.wf = true ∧ SpadsWf s.cores ∧ MemsWf s.setts ∧ ∀ d ∈ s.dens, DenWf d

/-! ## What holds of an answer -/

section Answers

variable {α β ε : Type} {p : α → Prop} {q : β → Prop}

/-- What a computation answers, if it answers, has a property. -/
abbrev Gives (p : α → Prop) : Except ε α → Prop
  | .ok a => p a
  | .error _ => True

/-- What is there, if anything is, has a property. -/
abbrev GivesSome (p : α → Prop) : Option α → Prop
  | some a => p a
  | none => True

theorem Gives.of_eq {x : Except ε α} {a : α} (h : Gives p x) (e : x = .ok a) : p a := by subst e; exact h

theorem Gives.any (x : Except ε α) : Gives (fun _ => True) x := by cases x <;> trivial

theorem Gives.bind {x : Except ε α} {f : α → Except ε β} (h : Gives p x) (hf : ∀ a, p a → Gives q (f a)) : Gives q (x >>= f) := by
  cases x with
  | ok a => exact hf a h
  | error e => trivial

/-- A step of which only the answer's state matters. -/
theorem Gives.after {x : Except ε α} {f : α → Except ε β} (hf : ∀ a, Gives q (f a)) : Gives q (x >>= f) := (Gives.any x).bind fun a _ => hf a

theorem Gives.ite {c : Prop} [Decidable c] {x y : Except ε α} (hx : Gives p x) (hy : Gives p y) : Gives p (if c then x else y) := by
  split
  · exact hx
  · exact hy

/-- An answer whose first part has the property. -/
theorem Gives.pair {a : α} {b : β} (h : p a) : Gives (p ·.1) (.ok (a, b) : Except ε (α × β)) := h

/-- A computation that runs after either of two others, whatever they answer. -/
theorem Gives.afterIte {c : Prop} [Decidable c] {x y : Except ε α} {f : α → Except ε β} (hf : ∀ a, Gives q (f a)) :
    Gives q (if c then x >>= f else y >>= f) :=
  .ite (.after hf) (.after hf)

theorem GivesSome.bind {x : Option α} {f : α → Option β} (h : GivesSome p x) (hf : ∀ a, p a → GivesSome q (f a)) :
    GivesSome q (x.bind f) := by
  cases x with
  | some a => exact hf a h
  | none => trivial

theorem GivesSome.of_eq {x : Option α} {a : α} (h : GivesSome p x) (e : x = some a) : p a := by subst e; exact h

theorem Gives.fst_of_eq {x : Except ε (α × β)} {a : α} {b : β} (h : Gives (p ·.1) x) (e : x = .ok (a, b)) : p a := h.of_eq e

theorem GivesSome.fst_of_eq {x : Option (α × β)} {a : α} {b : β} (h : GivesSome (p ·.1) x) (e : x = some (a, b)) : p a := h.of_eq e

theorem GivesSome.ite {c : Prop} [Decidable c] {x y : Option α} (hx : GivesSome p x) (hy : GivesSome p y) : GivesSome p (if c then x else y) := by
  split
  · exact hx
  · exact hy

end Answers

/-- The next state that a step answers, if it answers one, is canonical. -/
def Steps (o : Out) : Prop :=
  match o with
  | .next z => Canonical z
  | _ => True

theorem Steps.of_eq {o : Out} {z : State} (h : Steps o) (e : o = .next z) : Canonical z := by subst e; exact h

theorem Steps.ite {c : Prop} [Decidable c] {x y : Out} (hx : Steps x) (hy : Steps y) : Steps (if c then x else y) := by
  split
  · exact hx
  · exact hy

/-! ## The parts of a canonical state, and the updates of State -/

namespace Canonical

variable {s : State}

protected theorem dram (h : Canonical s) : s.dram.wf = true := h.1
protected theorem archive (h : Canonical s) : s.archive.wf = true := h.2.1
protected theorem outside (h : Canonical s) : s.outside.wf = true := h.2.2.1
protected theorem spads (h : Canonical s) : SpadsWf s.cores := h.2.2.2.1
protected theorem mems (h : Canonical s) : MemsWf s.setts := h.2.2.2.2.1
protected theorem dens (h : Canonical s) : ∀ d ∈ s.dens, DenWf d := h.2.2.2.2.2

protected theorem spad (h : Canonical s) (c : Nat) : (s.core c).spad.wf = true := h.spads.getD rfl c
protected theorem mem (h : Canonical s) (i : Nat) : (s.sett i).mem.wf = true := h.mems.getD rfl i

protected theorem ite {c : Prop} [Decidable c] {x y : State} (hx : Canonical x) (hy : Canonical y) : Canonical (if c then x else y) := by
  split
  · exact hx
  · exact hy

/-- As `ite`, for a change that answers something beside the state. -/
protected theorem ite_fst {α : Type} {c : Prop} [Decidable c] {x y : State × α} (hx : Canonical x.1) (hy : Canonical y.1) :
    Canonical (if c then x else y).1 := by
  split
  · exact hx
  · exact hy

/-- What a move answers, time having passed, or the state as it was. -/
protected theorem lapsed {o : Option State} (h : Canonical s) (ho : GivesSome Canonical o) : Canonical ((o.map lapse).getD s) := by
  cases o with
  | some z => exact ho
  | none => exact h

protected theorem foldl {α : Type} {f : State → α → State} {l : List α} (h : Canonical s) (hf : ∀ z a, Canonical z → Canonical (f z a)) :
    Canonical (l.foldl f s) :=
  List.foldlRecOn l f h fun z hz a _ => hf z a hz

protected theorem setCores {m : KMap VCore} (h : Canonical s) (hm : SpadsWf m) : Canonical { s with cores := m } :=
  ⟨h.dram, h.archive, h.outside, hm, h.mems, h.dens⟩

protected theorem setSetts {m : KMap Sett} (h : Canonical s) (hm : MemsWf m) : Canonical { s with setts := m } :=
  ⟨h.dram, h.archive, h.outside, h.spads, hm, h.dens⟩

protected theorem setDens {ds : List Den} (h : Canonical s) (hd : ∀ d ∈ ds, DenWf d) : Canonical { s with dens := ds } :=
  ⟨h.dram, h.archive, h.outside, h.spads, h.mems, hd⟩

protected theorem setCore {c : Nat} {x : VCore} (h : Canonical s) (hx : x.spad.wf = true) : Canonical (s.setCore c x) :=
  h.setCores (h.spads.insert hx)

protected theorem setSett {i : Nat} {x : Sett} (h : Canonical s) (hx : x.mem.wf = true) : Canonical (s.setSett i x) :=
  h.setSetts (h.mems.insert hx)

protected theorem setCtx {x : Nat} {c : Context} (h : Canonical s) : Canonical (s.setCtx x c) := h

protected theorem setUnit {k : Nat} {u : HoltUnit} (h : Canonical s) : Canonical (s.setUnit k u) := h

protected theorem setFlights {fs : List Flight} (h : Canonical s) : Canonical { s with flights := fs } := h

protected theorem setLaunches {ls : KMap Launch} (h : Canonical s) : Canonical { s with launches := ls } := h

protected theorem setObj {i : Nat} {o : Obj} (h : Canonical s) : Canonical (s.setObj i o) := h

protected theorem setObjects {os : KMap Obj} (h : Canonical s) : Canonical { s with objects := os } := h

protected theorem setCat {i : Nat} {c : Cat} (h : Canonical s) : Canonical (s.setCat i c) := h

protected theorem setCats {cs : KMap Cat} (h : Canonical s) : Canonical { s with cats := cs } := h

protected theorem setContribs {cs : List Contrib} (h : Canonical s) : Canonical { s with contribs := cs } := h

protected theorem setCollFails {cs : List CollFail} (h : Canonical s) : Canonical { s with collFails := cs } := h

protected theorem setAgenda {ms : List Move} (h : Canonical s) : Canonical { s with agenda := ms } := h

protected theorem setDie {d : Nat} {x : Die} (h : Canonical s) : Canonical (s.setDie d x) := h

protected theorem setThread {t : Tid} {x : Thread} (h : Canonical s) : Canonical (s.setThread t x) := by
  unfold State.setThread
  split
  · exact h
  · exact h.setCore (h.spad t.core)

end Canonical

/-! ## The shared operations -/

namespace Canonical

variable {s : State}

protected theorem endRelock {d : Nat} (h : Canonical s) : Canonical (endRelock s d) := by
  obtain ⟨n, ds, e⟩ := endRelock_eq s d
  rw [e]; exact h

protected theorem stepTo {d p : Nat} (h : Canonical s) : Canonical (stepTo s d p) := by
  unfold stepTo
  dsimp only
  split
  · exact .ite h h
  · exact .ite h h

protected theorem advanceTo {d c : Nat} (h : Canonical s) : Canonical (advanceTo s d c) := by
  obtain ⟨n, ds, e⟩ := advanceTo_eq s d c
  rw [e]; exact h

protected theorem advanceGts {g : Nat} (h : Canonical s) : Canonical (advanceGts s g) := .ite h h

protected theorem atIssue (h : Canonical s) : Canonical (atIssue s) := by
  obtain ⟨n, ds, e⟩ := atIssue_eq s
  rw [e]; exact h

protected theorem lapse (h : Canonical s) : Canonical (lapse s) := h

protected theorem residentSlot {c : Nat} (h : Canonical s) : Canonical (residentSlot s c) :=
  .ite h (.ite (h.setCore (h.spad c)) (h.setCore (h.spad c)))

protected theorem writePlace {k : Nat} {b : Byte} (h : Canonical s) : Canonical (writePlace s k b) := by
  unfold writePlace
  split
  · exact h.setCore (Memory.put_wf (h.spad _) _ _)
  · exact h.setSett (Memory.put_wf (h.mem _) _ _)
  · exact ⟨h.dram, Memory.put_wf h.archive _ _, h.outside, h.spads, h.mems, h.dens⟩
  · exact ⟨Memory.put_wf h.dram _ _, h.archive, h.outside, h.spads, h.mems, h.dens⟩
  · exact ⟨h.dram, h.archive, Memory.put_wf h.outside _ _, h.spads, h.mems, h.dens⟩
  · split
    · exact h
    · exact h

protected theorem writePlaces {ks : List Nat} {bs : List Byte} (h : Canonical s) : Canonical (writePlaces s ks bs) := by
  induction ks generalizing s bs with
  | nil => exact h
  | cons k ks ih =>
    cases bs with
    | nil => exact h
    | cons b bs => exact ih h.writePlace

protected theorem useEntries {i x a n : Nat} (h : Canonical s) : Canonical (useEntries s i x a n) := .ite h (h.setSett (h.mem i))

protected theorem useVia {t : Tid} {w : Via} {n : Nat} (h : Canonical s) : Canonical (useVia s t w n) := by
  unfold useVia
  split
  · exact h.useEntries
  · exact h

protected theorem useAt {v : View} {a : Word} {n : Nat} (h : Canonical s) : Canonical (useAt s v a n) := by
  unfold useAt
  split
  · exact h.useEntries
  · exact h

protected theorem useBlocks {t : Tid} {bs : List (Word × Nat)} (h : Canonical s) : Canonical (useBlocks s t bs) := h.foldl fun _ _ hz => hz.useAt

/-! ### Ordered tasks -/

protected theorem undoLog {y : OTask} {es : List (Nat × Word)} (h : Canonical s) : Canonical (undoLog s y es) := by
  induction es generalizing s with
  | nil => exact h
  | cons e es ih => exact ih h.writePlaces

protected theorem releaseSlot {c n : Nat} (h : Canonical s) : Canonical (releaseSlot s c n) := h.setCore (h.spad c)

protected theorem forgetMiss {t : Tid} (h : Canonical s) : Canonical (forgetMiss s t) := by
  unfold forgetMiss
  split
  · exact h.setCore (h.spad _)
  · exact h

protected theorem leaveTask {t : Tid} (h : Canonical s) : Canonical (leaveTask s t) := h.forgetMiss.setThread

protected theorem abortTasks {u : Nat} {ks : List (Nat × Nat)} (h : Canonical s) : Canonical (abortTasks s u ks) :=
  Canonical.setUnit <| h.foldl fun _ _ hz =>
    have hu := (hz.leaveTask.ite hz).undoLog
    .ite hu hu.releaseSlot

protected theorem logWords {t : Tid} {y : OTask} {ws : List Nat} (h : Canonical s) : Canonical (logWords s t y ws).1 := by
  induction ws with
  | nil => exact h
  | cons w ws ih => exact .ite_fst ih (ih.setCore (Memory.putBytes_wf (ih.spad _) _ _))

protected theorem trackTask {t : Tid} {kind : Nat} {ks : List Nat} {rd wr does : Bool} (h : Canonical s) :
    Gives Canonical (trackTask s t kind ks rd wr does) := by
  unfold trackTask
  split
  · exact h
  · split
    · exact h
    · have hz : ∀ {u ks}, Canonical (if ks.isEmpty = true then s else abortTasks s u ks) := .ite h h.abortTasks
      exact .ite trivial (.ite hz (.ite trivial hz.logWords.setUnit))

/-! ### Posted stores, and what orders stores -/

protected theorem pendTrap {t : Tid} {source code : Nat} {eval : Word} (h : Canonical s) : Canonical (pendTrap s t source code eval) :=
  .ite h.setThread h.setThread

protected theorem setJournal {c i : Nat} {e : JEntry} (h : Canonical s) : Canonical (setJournal s c i e) := h.setCore (h.spad c)

protected theorem applyPosted {src : Tid} {entry x place size : Nat} {val : Word} {k6 : Bool} {dpa : Nat}
    {task : Option (Nat × Nat)} (h : Canonical s) : Canonical (applyPosted s src entry x place size val k6 dpa task) := by
  unfold applyPosted
  split
  · exact Canonical.setJournal (Canonical.writePlaces (.ite h h.abortTasks))
  · exact h.setJournal.pendTrap

protected theorem orderStores {t : Tid} (h : Canonical s) : Canonical (orderStores s t) := .ite h h.setThread

protected theorem passOn {t : Tid} (h : Canonical s) : Canonical (passOn s t) := .ite h h

protected theorem drainPosted {t : Tid} (h : Canonical s) : Canonical (drainPosted s t) := by
  refine Canonical.orderStores (Canonical.passOn (h.foldl fun z f hz => ?_))
  split
  · exact .ite hz.applyPosted hz
  · exact hz

/-! ### Reading and writing memory -/

protected theorem settlePosted {t : Tid} {ks : List Nat} (h : Canonical s) : Canonical (settlePosted s t ks) := .ite h.drainPosted h

protected theorem track {t : Tid} {via : Via} {ks : List Nat} {rd wr does : Bool} (h : Canonical s) :
    Gives Canonical (track s t via ks rd wr does) := by
  have hz : Canonical (Machine.settlePosted (Machine.useVia s t via ks.length) t ks) := h.useVia.settlePosted
  exact Canonical.trackTask (.ite hz.orderStores hz)

protected theorem noteStore {t : Tid} {ks : List Nat} (h : Canonical s) : Canonical (noteStore s t ks) := .ite h.setThread h

protected theorem loadAt {t : Tid} {via : Via} {ks : List Nat} (h : Canonical s) : Gives (Canonical ·.1) (loadAt s t via ks) :=
  h.track.bind fun _ hz => hz

protected theorem methJournal {ks : List Nat} (h : Canonical s) : Gives Canonical (methJournal s ks) := by
  unfold methJournal
  split
  · exact h
  · exact .ite trivial h

protected theorem storeAt {t : Tid} {via : Via} {ks : List Nat} {bs : List Byte} (h : Canonical s) :
    Gives Canonical (storeAt s t via ks bs) :=
  h.track.bind fun _ hz => hz.methJournal.bind fun _ hy => hy.noteStore.writePlaces

protected theorem load {t : Tid} {addr : Word} {size : Nat} {align : Bool} (h : Canonical s) :
    Gives (Canonical ·.1) (load s t addr size align) :=
  .after fun _ => h.loadAt.bind fun _ hz => hz

protected theorem rmwAt {t : Tid} {k : Via × List Nat} {size : Nat} {f : Nat → Option Nat} (h : Canonical s) :
    Gives (Canonical ·.1) (rmwAt s t k size f) := by
  refine h.track.bind fun z hz => ?_
  dsimp only
  split
  · exact hz.track.bind fun _ hy => hy
  · exact hz.track.bind fun _ hy => hy.methJournal.bind fun _ hx => hx.writePlaces

protected theorem rmw {t : Tid} {addr : Word} {size scope : Nat} {f : Nat → Option Nat} (h : Canonical s) :
    Gives (Canonical ·.1) (rmw s t addr size scope f) :=
  .after fun _ => h.rmwAt

/-! ### Signals, budgets, records -/

protected theorem notify {x attr old new : Nat} (h : Canonical s) : Canonical (notify s x attr old new) := .ite (.ite h h) h

protected theorem trySignal {v : View} {addr : Word} {err : Bool} {n : Nat} (h : Canonical s) : Gives Canonical (trySignal s v addr err n) :=
  .after fun _ => .after fun _ => h.useAt.writePlaces.notify

protected theorem failSignal {f : Option SigTrap} {cause : Nat} (h : Canonical s) : Canonical (failSignal s f cause) := by
  cases f with
  | none => exact h
  | some f => exact h.pendTrap

protected theorem engineSignal {v : View} {addr : Word} {err : Bool} {n : Nat} {fail : Option SigTrap} (h : Canonical s) :
    Canonical (engineSignal s v addr err n fail) := by
  unfold engineSignal
  split
  · exact h.trySignal.of_eq ‹_›
  · exact h.failSignal
  · exact h

protected theorem signalError {v : View} {addr : Word} (h : Canonical s) : Canonical (signalError s v addr) := .ite h h.engineSignal

protected theorem settleHolds (h : Canonical s) : Canonical (settleHolds s) := h

protected theorem noteSpent {n x i cost : Nat} (h : Canonical s) : Canonical (noteSpent n s x i cost) := by
  induction n generalizing s x with
  | zero => exact h
  | succ n ih => exact .ite h.setCtx (ih h.setCtx)

protected theorem takeFrom {i need : Nat} {ls : List Nat} (h : Canonical s) : Canonical (takeFrom s i ls need).1 := by
  induction ls generalizing s need with
  | nil => exact h
  | cons l ls ih => exact ih h.setCtx

protected theorem spend {x die cls cost : Nat} {ws : List Nat} (h : Canonical s) : GivesSome Canonical (spend s x die cls cost ws) :=
  .ite h.setCtx.noteSpent (.ite trivial (.ite trivial h.setCtx.takeFrom.noteSpent))

protected theorem chargeAlways {x die cls cost : Nat} (h : Canonical s) : Canonical (chargeAlways s x die cls cost) := h.setCtx.noteSpent

protected theorem ringPut {r : Ring} {o : Nat} {bs : List Byte} (h : Canonical s) : Canonical (ringPut s r o bs) := by
  induction bs generalizing s o with
  | nil => exact h
  | cons b bs ih =>
    refine ih ?_
    split
    · exact h.writePlace
    · exact h

protected theorem writeRecord {x die ty source g : Nat} {body : List Byte} (h : Canonical s) :
    Canonical (writeRecord s x die ty source g body) :=
  .ite h (.ite h.ringPut.ringPut h.ringPut)

/-! ### Traps and parks -/

/-- A reset keeps DRAM, the Archive and memory outside; no core, sett or Den remains. -/
protected theorem packageReset {cold : Bool} (h : Canonical s) : Canonical (packageReset s cold) :=
  ⟨h.dram, h.archive, h.outside, .nil, .nil, nofun⟩

protected theorem firmwareFault {t : Tid} {code : Nat} {epc eval : Word} (h : Canonical s) : Canonical (firmwareFault s t code epc eval) :=
  Canonical.packageReset (s := { s with mailbox := _ }) (cold := true) h

protected theorem reflect {t : Tid} {code : Nat} {eval epc : Word} {async : Bool} (h : Canonical s) :
    Canonical (reflect s t code eval epc async) :=
  h.drainPosted.setThread

protected theorem enterHandler {t : Tid} {code : Nat} {eval epc : Word} {async : Bool} (h : Canonical s) :
    Canonical (enterHandler s t code eval epc async) :=
  h.drainPosted.setThread

protected theorem takeTrap {t : Tid} {code : Nat} {eval epc : Word} {async : Bool} (h : Canonical s) :
    Canonical (takeTrap s t code eval epc async) := by
  unfold takeTrap
  split
  · exact h
  · exact .ite (.ite h.enterHandler h.firmwareFault) (.ite h.reflect h.enterHandler)

protected theorem eret {t : Tid} (h : Canonical s) : Canonical (eret s t) := h.drainPosted.setThread

protected theorem setTaskState {t : Tid} {x : OState} (h : Canonical s) : Canonical (setTaskState s t x) := by
  unfold setTaskState
  split
  · exact h
  · exact h

protected theorem park {t : Tid} {sync : Bool} {w : Wait} (h : Canonical s) : Canonical (park s t sync w) :=
  Canonical.setThread (.ite h.setTaskState h)

protected theorem postMiss {core thr x kind size cva : Nat} {addr : Word} {whom : MissFor} (h : Canonical s) :
    Canonical (postMiss s core thr x kind size cva addr whom).1 :=
  h.setCore (h.spad core)

protected theorem missPark {t : Tid} {addr : Word} {cva kind size : Nat} (h : Canonical s) : Canonical (missPark s t addr cva kind size) :=
  .ite h.takeTrap (.ite h.setThread h.postMiss.setThread)

protected theorem wake {t : Tid} (h : Canonical s) : Canonical (wake s t) := by
  unfold wake
  dsimp only
  split
  · exact .ite h.setThread h
  · exact .ite h.setThread h
  · exact h.setThread
  · exact h.setThread
  · exact h

protected theorem returnHome {t : Tid} (h : Canonical s) : Canonical (returnHome s t) := by
  unfold returnHome
  dsimp only
  split
  · exact h
  · exact h.setThread.setThread

end Canonical

/-! ## How an instruction issues, and how it ends -/

/-- A body keeps every memory canonical, if it completes. -/
abbrev KeepsCanonical (body : Body) : Prop := ∀ {z : State} {t : Tid}, Canonical z → Gives (Canonical ·.1) (body z t)

theorem regBody_keeps {f : Thread → Thread} : KeepsCanonical (regBody f) := fun hz => hz.setThread

namespace Canonical

variable {s : State}

protected theorem noteIssue {t : Tid} {c : Nat} (h : Canonical s) : Canonical (noteIssue s t c) := by
  unfold noteIssue
  split
  · exact h
  · exact h.setCore (h.spad _)

protected theorem finish {op : Op} {t : Tid} {n : Next} (h : Canonical s) : Canonical (finish op s t n) := by
  unfold finish
  cases n with
  | seq =>
    dsimp only
    split
    · exact h.noteIssue.setThread
    · exact h.noteIssue.setThread
  | jump pc => exact h.noteIssue.setThread
  | after code eval =>
    dsimp only
    split
    · exact h.noteIssue.setThread.returnHome.takeTrap
    · exact h.noteIssue.setThread.takeTrap
  | sent sync d => exact h.noteIssue.setThread
  | placed => exact h.noteIssue

protected theorem reply {t : Tid} {x : Word} (h : Canonical s) : Canonical (reply s t x) := by
  refine .ite h.orderStores.setThread ?_
  dsimp only
  split
  · exact h.orderStores.setThread
  · exact h.orderStores.setThread
  · exact h.orderStores

protected theorem takeSlot {t : Tid} (h : Canonical s) : Canonical (takeSlot s t) := by
  unfold takeSlot
  split
  · exact h
  · exact h.advanceTo.noteIssue

protected theorem unhalt {t : Tid} (h : Canonical s) : Canonical (unhalt s t) := by
  unfold unhalt
  dsimp only
  split
  · exact h.setThread.reply
  · exact h.setThread

protected theorem replyTrap {t : Tid} {code : Nat} {eval : Word} (h : Canonical s) : Canonical (replyTrap s t code eval) := h.setThread

protected theorem preciseTrap {t : Tid} {code : Nat} {eval : Word} (h : Canonical s) : Canonical (preciseTrap s t code eval) := by
  unfold preciseTrap
  dsimp only
  split
  · exact h.returnHome.takeTrap
  · exact .ite h.park h.takeTrap

protected theorem depart {t : Tid} {core : Nat} {addr : Word} (h : Canonical s) : Canonical (depart s t core addr) := by
  refine .ite h.preciseTrap (Canonical.setThread ?_)
  split
  · exact h.drainPosted.setFlights.setThread
  · exact h.drainPosted.setFlights

protected theorem letGo {t : Tid} (h : Canonical s) : Canonical (letGo s t) := h.setThread

protected theorem stopped {t : Tid} {e : Stop} (h : Canonical s) : Steps (stopped s t e) := by
  have hz : Canonical (letGo (Machine.noteIssue s t (issueCycle s t)) t) := h.noteIssue.letGo
  unfold stopped
  dsimp only
  split
  · exact hz.preciseTrap.lapse
  · exact hz.missPark.lapse
  · exact hz.park.lapse
  · exact hz.depart.lapse
  · exact hz.returnHome.lapse
  · exact h.setThread
  · trivial

protected theorem issueBody {op : Op} {t : Tid} {body : Body} (h : Canonical s) (hb : KeepsCanonical body) :
    Gives (Canonical ·.1) (issueBody op s t body) := by
  have hk : Canonical (if op.keeps then s else s.setThread t (dropKept (s.thread t))) := .ite h h.setThread
  have hz : Canonical (if op.cls == .irrev then passOn (if op.keeps then s else s.setThread t (dropKept (s.thread t))) t
      else if op.keeps then s else s.setThread t (dropKept (s.thread t))) := .ite hk.passOn hk
  refine .ite trivial ?_
  dsimp only
  split
  · trivial
  · refine .ite h.setThread ?_
    split
    · trivial
    · exact .ite (hb hz) trivial
    · exact .ite trivial (hb hz)

protected theorem conflictEnd {n : Nat} {t : Tid} (h : Canonical s) : Canonical (conflictEnd n s t) := .ite h h.advanceTo

/-- An instruction keeps every memory canonical where its body does. -/
protected theorem issue {op : Op} {body : Body} (h : Canonical s) (hb : KeepsCanonical body) : Steps (issue op s body) := by
  unfold issue
  dsimp only
  split
  · exact h.atIssue.stopped
  · split
    · exact (Canonical.finish ((h.atIssue.issueBody hb).of_eq ‹_›)).lapse
    · exact h.atIssue.conflictEnd.stopped

protected theorem issueHint {n : Nat} {f : Thread → Thread} {upto : Thread → Nat} (h : Canonical s) : Steps (issueHint s n f upto) :=
  h.atIssue.noteIssue.setThread.lapse

/-! ## Instructions that write registers only -/

protected theorem issueV {w : BitVec 32} {st : BitVec 3} {p : VPos} {extra : List (RegFile × Nat)} {legal : Bool}
    {f : Thread → Vec → Vec → Vec → Thread} (h : Canonical s) : Steps (issueV w st p extra legal s f) :=
  h.issue regBody_keeps

protected theorem vbin {w : BitVec 32} {st : BitVec 3} {d a b : BitVec 5} {k : BitVec 3} {i j : BitVec 1} {rd legal : Bool} {n : Nat}
    {f : Thread → BitVec 32 → BitVec 32 → BitVec 32 → Nat × Nat} (h : Canonical s) : Steps (vbin w st d a b k i j rd legal n f s) :=
  h.issueV

protected theorem vun {w : BitVec 32} {st : BitVec 3} {d a : BitVec 5} {k : BitVec 3} {i : BitVec 1} {rd legal : Bool} {n : Nat}
    {f : Thread → BitVec 32 → BitVec 32 → Nat × Nat} (h : Canonical s) : Steps (vun w st d a k i rd legal n f s) :=
  h.issueV

protected theorem vcmp {w : BitVec 32} {n : Nat} {st kd : BitVec 3} {a b : BitVec 5} {k : BitVec 3} {i j : BitVec 1} {u : BitVec 2}
    (h : Canonical s) : Steps (vcmp w n st kd a b k i j u s) :=
  h.issueV

protected theorem vred {w : BitVec 32} {n : Nat} {st : BitVec 3} {d a : BitVec 5} {k : BitVec 3} {i : BitVec 1} {u : BitVec 2}
    (h : Canonical s) : Steps (vred w n st d a k i u s) :=
  h.issueV

protected theorem vscan {w : BitVec 32} {n : Nat} {st : BitVec 3} {d a : BitVec 5} {k : BitVec 3} {i : BitVec 1} {u : BitVec 2}
    (h : Canonical s) : Steps (vscan w n st d a k i u s) :=
  h.issueV

protected theorem alu2 {w : BitVec 32} {st : BitVec 3} {d a b : BitVec 5} {f : Word → Word → Word} (h : Canonical s) :
    Steps (alu2 w st d a b s f) :=
  h.issue regBody_keeps

protected theorem alu1 {w : BitVec 32} {st : BitVec 3} {d a : BitVec 5} {f : Word → Word} (h : Canonical s) : Steps (alu1 w st d a s f) :=
  h.issue regBody_keeps

protected theorem alu3 {w : BitVec 32} {st : BitVec 3} {d a b : BitVec 5} {f : Word → Word → Word → Word} (h : Canonical s) :
    Steps (alu3 w st d a b s f) :=
  h.issue regBody_keeps

protected theorem aluI {w : BitVec 32} {st : BitVec 3} {d a : BitVec 5} {i : BitVec 12} {f : Word → Word → Word} (h : Canonical s) :
    Steps (aluI w st d a i s f) :=
  h.issue regBody_keeps

protected theorem mulOp {w : BitVec 32} {st : BitVec 3} {d a b : BitVec 5} {f : Word → Word → Word} (h : Canonical s) :
    Steps (mulOp w st d a b s f) :=
  h.issue regBody_keeps

protected theorem divOp {w : BitVec 32} {st : BitVec 3} {d a b : BitVec 5} {f : Word → Word → Word} (h : Canonical s) :
    Steps (divOp w st d a b s f) :=
  h.issue regBody_keeps

protected theorem cmpRR {w : BitVec 32} {st k : BitVec 3} {a b : BitVec 5} {f : Word → Word → Bool} (h : Canonical s) :
    Steps (cmpRR w st k a b s f) :=
  h.issue regBody_keeps

protected theorem cmpRI {w : BitVec 32} {st k : BitVec 3} {a : BitVec 5} {i : BitVec 12} {f : Word → Word → Bool} (h : Canonical s) :
    Steps (cmpRI w st k a i s f) :=
  h.issue regBody_keeps

protected theorem kOp {w : BitVec 32} {st : BitVec 3} {reads : List (RegFile × Nat)} {legal : Bool} {f : Thread → Thread} (h : Canonical s) :
    Steps (kOp w st reads legal s f) :=
  h.issue regBody_keeps

protected theorem execBr {st k : BitVec 3} {n : BitVec 1} {o : BitVec 18} (h : Canonical s) : Steps (execBr st k n o s) :=
  h.issue fun hz => .ite hz hz

protected theorem execHmod {p r : BitVec 3} {t c : BitVec 2} {o : BitVec 3} {x : BitVec 4} {y : BitVec 8} (h : Canonical s) :
    Steps (execHmod p r t c o x y s) :=
  .ite h.issueHint (h.issue regBody_keeps)

protected theorem execHschIdle {x : BitVec 20} {u : BitVec 4} (h : Canonical s) : Steps (execHschIdle x u s) := by
  refine .ite (.ite ?_ h.issueHint) (h.issue regBody_keeps)
  split
  · exact (h.issueHint.of_eq ‹_›).setThread
  · exact h.issueHint

/-! ## The Spoor (R387 to R400) -/

protected theorem markRecord {t : Tid} {a b : Word} (h : Canonical s) : Canonical (markRecord s t a b) := .ite h.writeRecord h

protected theorem bankRecord {t : Tid} {peer : Bool} {ws : List Nat} {c : Nat} (h : Canonical s) : Canonical (bankRecord s t peer ws c) :=
  .ite h.writeRecord h

protected theorem stopRecord {t : Tid} {n : Nat} (h : Canonical s) : Canonical (stopRecord s t n) := h.writeRecord

protected theorem runRecord {x n : Nat} (h : Canonical s) : Canonical (runRecord s x n) := h.writeRecord

protected theorem placementRecord {x vc n : Nat} (h : Canonical s) : Canonical (placementRecord s x vc n) := .ite h.writeRecord h

protected theorem placementRecords {x : Nat} (h : Canonical s) : Canonical (placementRecords s x) :=
  h.foldl fun _ _ hz => .ite hz.placementRecord hz

protected theorem haltContext {x : Nat} (h : Canonical s) : Canonical (haltContext s x) :=
  (h.foldl fun _ _ hz => .ite hz hz.setThread).setCtx.settleHolds.runRecord

protected theorem haltAt {t : Tid} {n : Nat} (h : Canonical s) : Canonical (haltAt s t n) :=
  .ite h.stopRecord.setThread.haltContext h.stopRecord.setThread

protected theorem breakCheck {t : Tid} (h : Canonical s) : Canonical (breakCheck s t).1 := .ite_fst h.setCtx h

protected theorem breakStop {t : Tid} {n : Nat} (h : Canonical s) : Canonical (breakStop s t n) := .ite h.park h.haltAt

protected theorem sampleRecord {x die g : Nat} {cs : List (Nat × Nat)} (h : Canonical s) : Canonical (sampleRecord s x die g cs) := by
  cases cs with
  | nil => exact h
  | cons c cs => exact h.writeRecord

protected theorem execSamplingPulse {x : Nat} (h : Canonical s) : Steps (execSamplingPulse x s) :=
  .ite (h.advanceGts.foldl fun _ _ hz => hz.sampleRecord).setCtx.lapse h

protected theorem execBreakpointMatch {c t : Nat} (h : Canonical s) : Steps (execBreakpointMatch c t s) := by
  have hz := h.breakCheck (t := ⟨c, t⟩)
  unfold execBreakpointMatch
  dsimp only
  split
  · rename_i e
    rw [e] at hz
    exact .ite hz.breakStop.lapse h
  · exact h

protected theorem execDebugRun {x : Nat} (h : Canonical s) : Steps (execDebugRun x s) := by
  refine .ite (Canonical.lapse (Canonical.runRecord (Canonical.settleHolds (Canonical.setCtx (h.foldl fun z t hz => ?_))))) h
  dsimp only
  split
  · exact hz.setThread.unhalt
  · exact hz

protected theorem execDebugStep {c t : Nat} (h : Canonical s) : Steps (execDebugStep c t s) := .ite h.setThread.unhalt.lapse h

protected theorem execDebugHalt {x : Nat} (h : Canonical s) : Steps (execDebugHalt x s) := .ite h.haltContext.lapse h

protected theorem execSpoorControlWrite {x i : Nat} {b : List (BitVec 8)} (h : Canonical s) : Steps (execSpoorControlWrite x i b s) :=
  .ite (Canonical.lapse (.ite h.setCtx (.ite h.setCtx.settleHolds (.ite (.ite h.setCtx h) h)))) h

protected theorem execDebugRegisterAccess {c t : Nat} {f : BitVec 2} {r : BitVec 5} {v : Option (BitVec 512)} (h : Canonical s) :
    Steps (execDebugRegisterAccess c t f r v s) := by
  refine .ite h ?_
  cases v with
  | some x => exact h.setThread.lapse
  | none => exact h

protected theorem execCoreSoftError {c t : Nat} {f : BitVec 2} {r : BitVec 5} (h : Canonical s) : Steps (execCoreSoftError c t f r s) :=
  .ite h h.pendTrap.lapse

end Canonical

/-! ## Instructions of memory and synchronization (08) -/

theorem loadBody_keeps {d : Nat} {addr : Thread → Word} {size ord : Nat} {align signed : Bool} :
    KeepsCanonical (loadBody d addr size ord align signed) := fun hz =>
  .after fun _ => .after fun _ => hz.loadAt.bind fun _ hq => hq.setThread

/-- What a release orders before itself keeps memory canonical. -/
protected theorem Canonical.releasePoint {s : State} {t : Tid} {ord : Nat} (h : Canonical s) : Canonical (releasePoint s t ord) :=
  .ite h.drainPosted h

theorem storeBody_keeps {r : Nat} {addr : Thread → Word} {size ord : Nat} {align : Bool} :
    KeepsCanonical (storeBody r addr size ord align) := fun hz =>
  .after fun _ => .after fun _ => hz.releasePoint.storeAt.bind fun _ hq => hq

theorem amoBody_keeps {d a size ord scope : Nat} {f : Thread → Nat → Option Nat} : KeepsCanonical (amoBody d a size ord scope f) := fun hz =>
  .after fun _ => .after fun _ => hz.releasePoint.rmw.bind fun _ hq => hq.setThread

/-- Setting scale entries leaves the scratchpad. -/
theorem spad_foldl_setScale {α : Type} (l : List α) (ix : α → Nat) (x : α → BitVec 40) (c : VCore) :
    (l.foldl (fun c i => c.setScale (ix i) (x i)) c).spad = c.spad :=
  List.foldlRecOn (motive := fun y => VCore.spad y = c.spad) l _ rfl fun _ hy _ _ => hy

namespace Canonical

variable {s : State}

protected theorem ldM {w : BitVec 32} {st : BitVec 3} {d a : BitVec 5} {z : BitVec 2} {o : BitVec 10} {signed : Bool} (h : Canonical s) :
    Steps (ldM w st d a z o signed s) :=
  h.issue loadBody_keeps

protected theorem amo {w : BitVec 32} {op : Nat} {legal : Bool} {st : BitVec 3} {t a : BitVec 5} {z : BitVec 3} {r : BitVec 2}
    {c : BitVec 3} (h : Canonical s) : Steps (amo w op legal st t a z r c s) :=
  h.issue amoBody_keeps

protected theorem fence {w : BitVec 32} {kind : Nat} {st c : BitVec 3} (h : Canonical s) : Steps (fence w kind st c s) :=
  h.issue fun hz => .after fun _ => Canonical.ite hz.drainPosted hz.orderStores

protected theorem execEnter {st : BitVec 3} {d a : BitVec 5} {i : BitVec 12} (h : Canonical s) : Steps (execEnter st d a i s) :=
  h.issue fun hz => .ite trivial (.ite trivial hz.setThread)

protected theorem execLeave {st : BitVec 3} {d a : BitVec 5} {i : BitVec 12} (h : Canonical s) : Steps (execLeave st d a i s) :=
  h.issue fun hz => .ite trivial (.ite trivial hz.setThread)

protected theorem execWaita {st : BitVec 3} {t a : BitVec 5} {z : BitVec 3} {r : BitVec 2} {c : BitVec 3} (h : Canonical s) :
    Steps (execWaita st t a z r c s) :=
  h.issue fun hz => .after fun _ => .after fun _ => hz.loadAt.bind fun _ hq => .ite trivial hq.setThread

protected theorem execSigdec {st : BitVec 3} {d a b : BitVec 5} (h : Canonical s) : Steps (execSigdec st d a b s) :=
  h.issue fun hz => .after fun _ => .after fun _ => hz.drainPosted.track.bind fun _ hq => hq.writePlaces.notify.setThread

protected theorem execSigwait {st : BitVec 3} {d a b : BitVec 5} (h : Canonical s) : Steps (execSigwait st d a b s) := by
  refine h.issue fun hz => .after fun k => .after fun _ => hz.settlePosted.loadAt.bind fun _ hq => ?_
  exact .ite trivial hq.setThread

protected theorem execPsto {st : BitVec 3} {t a : BitVec 5} {z : BitVec 3} {r : BitVec 2} {c : BitVec 3} (h : Canonical s) :
    Steps (execPsto st t a z r c s) := by
  refine h.issue fun hz => .ite trivial (.after fun _ => .after fun _ => .ite trivial ?_)
  dsimp only
  split
  · trivial
  · exact hz.releasePoint.setJournal.useAt

protected theorem execPjack {st : BitVec 3} {d a b : BitVec 5} (h : Canonical s) : Steps (execPjack st d a b s) :=
  h.issue fun hz => .ite hz.setJournal.setThread hz.setThread

protected theorem execPostedStoreApply {n : Nat} (h : Canonical s) : Steps (execPostedStoreApply n s) := by
  unfold execPostedStoreApply
  split
  · exact .ite h h.setFlights.applyPosted.lapse
  · exact h

protected theorem execHomec {st : BitVec 3} {d a b : BitVec 5} (h : Canonical s) : Steps (execHomec st d a b s) := by
  refine h.issue fun hz => ?_
  dsimp only
  split
  · exact hz.setThread
  · exact hz.drainPosted.setThread.returnHome

protected theorem execMbput {st : BitVec 3} {d a b : BitVec 5} (h : Canonical s) : Steps (execMbput st d a b s) := by
  refine h.issue fun hz => ?_
  dsimp only
  split
  · trivial
  · exact .ite trivial (hz.setCore (hz.spad _))

protected theorem execMbputRel {st : BitVec 3} {d a b : BitVec 5} (h : Canonical s) : Steps (execMbputRel st d a b s) := by
  refine h.issue fun hz => ?_
  dsimp only
  split
  · trivial
  · exact .ite trivial (hz.drainPosted.setCore (hz.drainPosted.spad _))

protected theorem execMbget {st : BitVec 3} {d a b : BitVec 5} (h : Canonical s) : Steps (execMbget st d a b s) := by
  refine h.issue fun hz => ?_
  dsimp only
  split
  · trivial
  · refine .ite trivial ?_
    exact Canonical.setThread (Canonical.orderStores (hz.setCore (hz.spad _)))

protected theorem execScld {st : BitVec 3} {d a b : BitVec 5} (h : Canonical s) : Steps (execScld st d a b s) := by
  refine h.issue fun hz => .ite trivial <| .after fun _ => .after fun _ =>
    hz.loadAt.bind fun _ hq => hq.loadAt.bind fun _ hp => hp.setCore ?_
  rw [spad_foldl_setScale]
  exact hp.spad _

end Canonical

/-! ## Vector instructions (09) -/

namespace Canonical

variable {s : State}

protected theorem vecTrack {t : Tid} {ks : List (Via × List Nat)} {rd wr : Bool} (h : Canonical s) : Gives Canonical (vecTrack s t ks rd wr) :=
  (h.foldl fun _ _ hz => hz.useVia).settlePosted.trackTask

protected theorem storeLanes {th : Thread} {D : Vec} {fs : List Nat} {e : BitVec 40} {es : List (LaneAcc × Via × List Nat)} (h : Canonical s) :
    Canonical (storeLanes s th D fs e es).1 := by
  induction es generalizing s fs with
  | nil => exact h
  | cons x es ih => exact ih h.writePlaces

protected theorem bankCycles {t : Tid} {c : Nat} {ks : List (Via × List Nat)} (h : Canonical s) : Canonical (bankCycles s t c ks) := by
  unfold bankCycles
  extract_lets words mine q peers worst z
  have hz : Canonical z := .ite h.bankRecord h.bankRecord
  clear_value z
  exact .ite (hz.setCore (hz.spad _)) hz

end Canonical

theorem vldBody_keeps {d k : Nat} {f : Thread → Word} : KeepsCanonical (vldBody d k f) := fun hz =>
  .ite hz <| .after fun _ => .afterIte fun _ => hz.vecTrack.bind fun _ hq => .pair hq.setThread

theorem vstBody_keeps {k : Nat} {D : Vec} {f : Thread → Word} : KeepsCanonical (vstBody k D f) := fun hz =>
  .ite hz <| .after fun _ => .afterIte fun _ => hz.vecTrack.bind fun _ hq => hq.methJournal.bind fun _ hp => .pair hp.noteStore.storeLanes.setThread

theorem gatherBody_keeps {d k c : Nat} {f : Thread → Nat → Word} : KeepsCanonical (gatherBody d k c f) := fun hz =>
  .ite hz <| .after fun _ => hz.vecTrack.bind fun _ hq => .pair hq.bankCycles.setThread

theorem scatterBody_keeps {k c : Nat} {D : Vec} {f : Thread → Nat → Word} : KeepsCanonical (scatterBody k c D f) := fun hz =>
  .ite hz <| .after fun _ => hz.vecTrack.bind fun _ hq => hq.methJournal.bind fun _ hp => .pair hp.noteStore.storeLanes.bankCycles.setThread

namespace Canonical

variable {s : State}

protected theorem issueVMem {w : BitVec 32} {st : BitVec 3} {p : VPos} {extra : List (RegFile × Nat)} {body : Nat → Vec → Vec → Body}
    {delay : Nat → Nat} (h : Canonical s) (hb : ∀ c D B, KeepsCanonical (body c D B)) : Steps (issueVMem w st p extra s body delay) :=
  h.issue fun hz => hb _ _ _ hz.setThread

protected theorem issueVSlow {n : Nat} {w : BitVec 32} {st : BitVec 3} {p : VPos} {legal : Bool} {f : Thread → Vec → Vec → Vec → Thread}
    (h : Canonical s) : Steps (issueVSlow n w st p legal s f) :=
  h.issue regBody_keeps

end Canonical

/-! ## Copies, handles and Archive banks (14) -/

theorem setHandle_mem (x : Sett) (n : Nat) (w : Word) : (x.setHandle n w).mem = x.mem := rfl

namespace Canonical

variable {s : State}

protected theorem setHandleOf {i n : Nat} {w : Word} (h : Canonical s) : Canonical (setHandleOf s i n w) := h.setSett (h.mem i)

protected theorem handleOp {w : BitVec 32} {st : BitVec 3} {d a : BitVec 5} {cls : OClass} {rel : Bool} {f : Word → Word → Except Stop Word}
    (h : Canonical s) : Steps (handleOp w st d a cls rel f s) := by
  refine h.issue fun hz => .after fun _ => .after fun _ => .pair ?_
  exact (hz.drainPosted.ite hz.orderStores).setHandleOf.setThread

protected theorem copyIssue {w : BitVec 32} {st : BitVec 3} {d a : BitVec 5} {cond nb : Bool} (h : Canonical s) :
    Steps (copyIssue w st d a cond nb s) := by
  refine h.issue fun hz => .after fun k => .after fun c => .ite trivial (.ite ?_ (.pair ?_))
  · exact .ite (.pair hz.settlePosted.setThread) trivial
  · refine Canonical.setThread (hz.settlePosted.setSett ?_)
    dsimp only
    split
    · rw [setHandle_mem]; exact hz.settlePosted.mem _
    · exact hz.settlePosted.mem _

protected theorem moveChunk {c : Copy} {n : Nat} (h : Canonical s) : Gives (Canonical ·.1) (moveChunk s c n) := by
  refine .ite ?staging (.ite ?conditional (.ite ?plain (.ite ?fromCodes (.ite ?toCodes ?converted))))
  case staging => exact .after fun _ => .pair h
  case conditional => exact .after fun _ => .pair h.writePlaces
  case plain => exact .after fun _ => .after fun _ => .pair h.writePlaces
  case fromCodes => exact .after fun _ => .after fun _ => .after fun _ => .pair h.writePlaces
  case toCodes => exact .after fun _ => .after fun _ => .after fun _ => .after fun _ => .pair h.writePlaces.writePlaces.writePlaces
  case converted => exact .after fun _ => .after fun _ => .pair h.writePlaces

protected theorem putCopy {i : Nat} {c : Copy} (h : Canonical s) : Canonical (putCopy s i c) := h.setSett (h.mem i)

protected theorem copyStopped {i : Nat} {c : Copy} {e : EngFail} (h : Canonical s) : GivesSome Canonical (copyStopped s i c e) := by
  cases e with
  | reason n => exact h.putCopy
  | miss addr cva kind size => exact .ite trivial h.postMiss.putCopy

protected theorem inject {x : Nat} {ls : List (Nat × Nat)} (h : Canonical s) : GivesSome Canonical (inject s x ls) := by
  induction ls generalizing s with
  | nil => exact h
  | cons l ls ih => exact h.spend.bind fun _ hz => ih hz

protected theorem useChunk {c : Copy} {n : Nat} (h : Canonical s) : Canonical (useChunk s c n) := h.foldl fun _ _ hz => hz.useAt

protected theorem sendChunk {i : Nat} {c : Copy} (h : Canonical s) : GivesSome Canonical (sendChunk s i c) := by
  unfold sendChunk
  dsimp only
  split
  · exact h.copyStopped
  · have hz := h.moveChunk.of_eq ‹_›
    split
    · trivial
    · have hy := (hz.spend.bind fun _ hx => hx.inject).of_eq ‹_›
      exact Canonical.putCopy (hy.useChunk.setSett (hy.useChunk.mem i))

protected theorem serveCopy {may : Copy → Bool} {n i : Nat} (h : Canonical s) : GivesSome Canonical (serveCopy may n s i) := by
  induction n generalizing s with
  | zero => trivial
  | succ n ih =>
    unfold serveCopy
    extract_lets x q here
    have hh : GivesSome Canonical here := by
      refine .ite trivial ?_
      split
      · trivial
      · exact .ite trivial h.sendChunk
    clear_value here
    split
    · exact hh
    · split
      · trivial
      · exact ih (h.setSett (h.mem i))

protected theorem retireCopy {i : Nat} {c : Copy} {outcome reason : Nat} (h : Canonical s) : Canonical (retireCopy s i c outcome reason) := by
  refine h.setSett ?_
  split
  · exact h.mem i
  · exact h.mem i

protected theorem failCopy {i : Nat} {c : Copy} {reason outcome : Nat} {sig fault : Bool} (h : Canonical s) :
    Canonical (failCopy s i c reason outcome sig fault) := by
  unfold failCopy
  extract_lets z y x
  have hy : Canonical y := .ite h.retireCopy.setHandleOf h.retireCopy
  have hx : Canonical x := .ite hy.signalError hy
  exact .ite hx.pendTrap hx

protected theorem closeVersion {i : Nat} {c : Copy} (h : Canonical s) : GivesSome Canonical (closeVersion s i c) := by
  unfold closeVersion
  split
  · exact h.copyStopped
  · exact h.useAt.writePlaces.putCopy

protected theorem completeCopy {i : Nat} {c : Copy} (h : Canonical s) : GivesSome Canonical (completeCopy s i c) := by
  unfold completeCopy
  dsimp only
  split
  · exact h.failCopy
  · exact h.copyStopped
  · have hz : ∀ {c i n w}, Canonical (if c = true then setHandleOf s i n w else s) := .ite h.setHandleOf h
    have hy : ∀ {c v a n ks bs z}, Canonical z → Canonical (if c = true then writePlaces (useAt z v a n) ks bs else z) :=
      fun h => .ite h.useAt.writePlaces h
    exact Canonical.retireCopy (.ite (hy hz).engineSignal (hy hz))

protected theorem aop {w : BitVec 32} {legal : Bool} {st : BitVec 3} {t a : BitVec 5} {z : BitVec 3} {r : BitVec 2} {c : BitVec 3}
    {f : Nat → Nat → Nat → Nat} (h : Canonical s) : Steps (aop w legal st t a z r c f s) := by
  refine h.issue fun hz => .after fun _ => .ite trivial (.after fun _ => .after fun _ => ?_)
  dsimp only
  split
  · trivial
  · exact amoBody_keeps ((hz.spend.bind fun _ hy => hy.inject).of_eq ‹_›)

protected theorem bankIssue {w : BitVec 32} {fn : Nat} {st : BitVec 3} {d a : BitVec 5} (h : Canonical s) : Steps (bankIssue w fn st d a s) := by
  refine h.issue fun hz => .after fun k => .after fun _ => .ite trivial (.afterIte fun _ => ?_)
  refine .ite trivial (.ite trivial (.ite trivial (.ite trivial (.ite trivial (.ite trivial (.ite trivial ?_))))))
  refine .after fun _ => .after fun ss => .pair (Canonical.setThread (Canonical.setFlights ?_))
  exact .ite hz.settlePosted.settlePosted hz.settlePosted

protected theorem bankPay {src : Tid} {x fn : Nat} {l : Nat × Nat} (h : Canonical s) : GivesSome Canonical (bankPay s src x fn l) :=
  h.spend.bind fun _ hz => hz.inject

protected theorem bankOne {fn op ty : Nat} {a : BitVec 32} {pat : Word} {bs : List Byte} {l : Nat × Nat} (h : Canonical s) :
    Canonical (bankOne s fn op ty a pat bs l) :=
  h.writePlaces

protected theorem bankEnd {src : Tid} {x d : Nat} {sv : Bool} {signal : Word} {sb sl : Vector Word 8} (h : Canonical s) :
    Canonical (bankEnd s src x d sv signal sb sl) :=
  .ite h h.engineSignal

protected theorem bankFail {src : Tid} {x d : Nat} {sv : Bool} {signal : Word} {sb sl : Vector Word 8} {reason : Nat} (h : Canonical s) :
    Canonical (bankFail s src x d sv signal sb sl reason) :=
  Canonical.pendTrap (.ite h.signalError h)

protected theorem execCpyst {st : BitVec 3} {d a b : BitVec 5} (h : Canonical s) : Steps (execCpyst st d a b s) :=
  h.issue fun hz => .pair hz.setThread

protected theorem execCopyChunk {v : Nat} (h : Canonical s) : Steps (execCopyChunk v s) := by
  refine .ite h ?_
  dsimp only
  split
  · exact (h.serveCopy.of_eq ‹_›).lapse
  · exact h

protected theorem execCpycVersionCheck {v : Nat} (h : Canonical s) : Steps (execCpycVersionCheck v s) := by
  unfold execCpycVersionCheck
  split
  · exact h
  · refine .ite h ?_
    dsimp only
    split
    · exact h.lapsed h.copyStopped
    · exact .ite h.useAt.writePlaces.putCopy.lapse (Canonical.lapse (Canonical.putCopy (.ite h.useAt.setHandleOf h.useAt)))

protected theorem execCopyCompletion {v : Nat} (h : Canonical s) : Steps (execCopyCompletion v s) := by
  unfold execCopyCompletion
  split
  · exact h
  · split
    · exact h.failCopy.lapse
    · exact h.lapsed h.closeVersion
    · exact h.lapsed h.completeCopy

protected theorem execBankLineUpdate {n line : Nat} (h : Canonical s) : Steps (execBankLineUpdate n line s) := by
  unfold execBankLineUpdate
  split
  · split
    · exact h
    · refine .ite h ?_
      split
      · exact h
      · have hz := h.bankPay.of_eq ‹_›
        exact .ite hz.setFlights.bankFail.lapse (.ite hz.bankOne.setFlights.bankEnd.lapse hz.bankOne.setFlights.lapse)
  · exact h

end Canonical

/-! ## Barriers and messages (06, 08) -/

theorem popMessage_spad {c c' : VCore} {n : Nat} {b : List Byte} {w : Word} (e : popMessage c n = some (b, w, c')) : c'.spad = c.spad := by
  unfold popMessage at e
  split at e <;> split at e
  · cases e
  · cases e; rfl
  · cases e
  · cases e; rfl

theorem scaleFromBody_spad (c : VCore) (b : List Byte) : (scaleFromBody c b).spad = c.spad := by
  unfold scaleFromBody
  exact spad_foldl_setScale _ _ _ _

theorem setBar_spad (c : VCore) (i : Nat) (b : Bar) : (c.setBar i b).spad = c.spad := rfl

theorem putGgeo_spad (c : VCore) (n : Nat) (x : BitVec 128) : (c.putGgeo n x).spad = c.spad := by
  unfold VCore.putGgeo
  split
  · rfl
  · rfl

namespace Canonical

variable {s : State}

protected theorem answer {src : Tid} {r : Option Nat} (h : Canonical s) : Canonical (answer s src r) := .ite h.setThread.reply h.setThread

protected theorem execBari {st : BitVec 3} {d a b : BitVec 5} (h : Canonical s) : Steps (execBari st d a b s) := by
  refine h.issue fun hz => .ite trivial (.ite trivial (.ite trivial (.pair (hz.setCore ?_))))
  rw [setBar_spad]
  exact hz.spad _

protected theorem execBara {st : BitVec 3} {d a b : BitVec 5} (h : Canonical s) : Steps (execBara st d a b s) := by
  refine h.issue fun hz => ?_
  dsimp only
  split
  · trivial
  · exact .pair hz.drainPosted.setFlights

protected theorem execBarw {st : BitVec 3} {d a b : BitVec 5} (h : Canonical s) : Steps (execBarw st d a b s) := by
  refine h.issue fun hz => ?_
  dsimp only
  split
  · trivial
  · exact .ite trivial (.pair hz)

protected theorem execBarrierArrival {n : Nat} (h : Canonical s) : Steps (execBarrierArrival n s) := by
  unfold execBarrierArrival
  split
  · refine .ite h (.ite h (Canonical.lapse (Canonical.setFlights (h.setFlights.setCore ?_))))
    rw [setBar_spad]
    exact h.spad _
  · exact h

protected theorem execBarrierReply {n : Nat} (h : Canonical s) : Steps (execBarrierReply n s) := by
  unfold execBarrierReply
  split
  · exact .ite h (Canonical.lapse (.ite h.setFlights.replyTrap h.setFlights.reply))
  · exact h

protected theorem execMsend {st : BitVec 3} {d a b : BitVec 5} (h : Canonical s) : Steps (execMsend st d a b s) := by
  refine h.issue fun hz => .after fun k => .ite trivial (.ite trivial ?_)
  dsimp only
  split
  · trivial
  · exact hz.settlePosted.track.bind fun _ hy => .pair hy.drainPosted.setThread.setFlights

protected theorem execMrecv {st : BitVec 3} {d a b : BitVec 5} (h : Canonical s) : Steps (execMrecv st d a b s) := by
  refine h.issue fun hz => .after fun k => ?_
  dsimp only
  split
  · trivial
  · have hs := popMessage_spad ‹_›
    exact .ite trivial ((hz.setCore (hs ▸ hz.spad _)).storeAt.bind fun _ hy => .pair hy.setThread)

protected theorem execMpoll {st : BitVec 3} {d a b : BitVec 5} (h : Canonical s) : Steps (execMpoll st d a b s) :=
  h.issue fun hz => .pair hz.setThread

protected theorem wakeResident {c : Nat} (h : Canonical s) : Canonical (wakeResident s c) := h.wake

protected theorem execMessageArrival {n : Nat} (h : Canonical s) : Steps (execMessageArrival n s) := by
  unfold execMessageArrival
  split
  · refine .ite h (.ite (.ite h h.setFlights.answer.lapse) ?_)
    extract_lets y x
    have hy : Canonical y := h.setFlights.setCore (h.spad _)
    have hx : Canonical x := .ite hy hy.answer
    exact Canonical.lapse (.ite hx.wakeResident hx)
  · exact h

protected theorem execScaleMessage {n : Nat} (h : Canonical s) : Steps (execScaleMessage n s) := by
  unfold execScaleMessage
  split
  · refine .ite h ?_
    extract_lets z y
    have hy : Canonical y := h.setFlights.setCore (by rw [scaleFromBody_spad]; exact h.spad _)
    exact Canonical.lapse (.ite hy hy.answer)
  · exact h

/-! ## Tasks (11, 12) -/

protected theorem startRecord {t : Tid} {r : TaskRec} {x : Running} (h : Canonical s) : Canonical (startRecord s t r x) := h.setThread

protected theorem startOrdered {t : Tid} {y : OTask} {n : Nat} (h : Canonical s) : Canonical (startOrdered s t y n) :=
  Canonical.startRecord (Canonical.setUnit (h.setCore (h.spad _)))

protected theorem steal {ks : List Nat} (h : Canonical s) : GivesSome (Canonical ·.2) (steal s ks) := by
  induction ks with
  | nil => trivial
  | cons k ks ih =>
    unfold steal
    split
    · exact h.setCore (h.spad k)
    · exact ih

protected theorem lookForWork {t : Tid} (h : Canonical s) : Canonical (lookForWork s t) := by
  unfold lookForWork
  dsimp only
  split
  · exact Canonical.startRecord (h.setCore (h.spad _))
  · split
    · exact h.startOrdered
    · split
      · exact (h.steal.of_eq ‹_›).startRecord
      · exact h.setThread

protected theorem protectOldest {k : Nat} (h : Canonical s) : Canonical (protectOldest s k) := by
  unfold protectOldest
  dsimp only
  split
  · refine .ite ?_ h
    split
    · exact h.setUnit.setThread
    · exact h.setUnit
  · exact h

protected theorem endLaunch {i : Nat} {l : Launch} (h : Canonical s) : Canonical (endLaunch s i l) := by
  have hz : Canonical ((List.range l.nvc).foldl (fun s j => match coreOfVc s l.ctx (l.vc0 + j) with
      | some k =>
        let c := s.core k
        let c := (c.setThread 14 { c.thread 14 with run := .dormant }).setThread 15 { c.thread 15 with run := .dormant }
        s.setCore k { c with launch := none }
      | none => s) s) := by
    refine h.foldl fun y j hy => ?_
    split
    · exact hy.setCore (hy.spad _)
    · exact hy
  exact .ite hz hz.setLaunches.engineSignal

protected theorem endT0 {t : Tid} (h : Canonical s) : Canonical (endT0 s t) := by
  have hz : ∀ {x : VCore}, x.spad = (s.core t.core).spad → Canonical (s.setCore t.core x) := fun e => h.setCore (e ▸ h.spad t.core)
  unfold endT0
  dsimp only
  split
  · exact hz rfl
  · split
    · exact hz rfl
    · exact .ite (Canonical.endLaunch (hz rfl)) (Canonical.setLaunches (hz rfl))

protected theorem execSpawn {st : BitVec 3} {d a b : BitVec 5} (h : Canonical s) : Steps (execSpawn st d a b s) :=
  h.issue fun hz => .ite trivial (.after fun _ => .ite trivial (.pair hz.settlePosted.drainPosted.setThread))

protected theorem execReap {st : BitVec 3} {d a b : BitVec 5} (h : Canonical s) : Steps (execReap st d a b s) := by
  refine h.issue fun hz => .ite trivial ?_
  dsimp only
  split
  · exact hz
  · exact .ite trivial (.ite trivial (.pair hz.setThread))
  · exact .ite trivial (.ite trivial (.pair hz.setThread))
  · trivial

protected theorem execYield {st : BitVec 3} {d a b : BitVec 5} (h : Canonical s) : Steps (execYield st d a b s) :=
  h.issue fun hz => .pair hz.setThread

protected theorem execYpt {st : BitVec 3} {d a b : BitVec 5} (h : Canonical s) : Steps (execYpt st d a b s) :=
  h.issue fun hz => .ite (.pair hz.drainPosted.setThread) (.pair hz)

protected theorem execFork {st : BitVec 3} {d a b : BitVec 5} (h : Canonical s) : Steps (execFork st d a b s) := by
  have push : ∀ {z : State} {c n a bs}, Canonical z →
      (if 256 ≤ n then { z.core c with spad := (z.core c).spad.putBytes a bs } else z.core c).spad.wf = true := fun hz => by
    split
    · exact Memory.putBytes_wf (hz.spad _) _ _
    · exact hz.spad _
  refine h.issue fun hz => .after fun k => .ite trivial (.ite (.pair ?_) (Gives.bind (p := Canonical) ?_ fun _ hy => .pair (hy.setCore (push hy))))
  · exact hz.settlePosted.drainPosted.setCore (push hz.settlePosted.drainPosted)
  · exact .after fun _ => hz.settlePosted.drainPosted.rmwAt.bind fun _ hq => hq

protected theorem execJoin {st : BitVec 3} {d a b : BitVec 5} (h : Canonical s) : Steps (execJoin st d a b s) :=
  h.issue fun hz => hz.load.bind fun _ hq => .ite trivial (.pair hq)

protected theorem execTend {st : BitVec 3} {d a b : BitVec 5} (h : Canonical s) : Steps (execTend st d a b s) := by
  refine h.issue fun hz => .ite trivial ?_
  dsimp only
  split
  · refine .ite (.pair hz.setThread.lookForWork) (.after fun _ => hz.drainPosted.rmwAt.bind fun q hq => ?_)
    exact .pair (Canonical.lookForWork (Canonical.setThread hq))
  · exact .pair hz.drainPosted.setTaskState.setThread.lookForWork

protected theorem execTspawn {st : BitVec 3} {d a b : BitVec 5} (h : Canonical s) : Steps (execTspawn st d a b s) := by
  refine h.issue fun hz => .ite trivial (.after fun k => ?_)
  dsimp only
  split
  · exact .ite trivial (.ite trivial (.ite trivial (.pair hz.settlePosted.drainPosted.setUnit.setThread)))
  · exact .ite trivial (.ite trivial (.ite trivial (.pair hz.settlePosted.drainPosted.setUnit.setThread)))

protected theorem execTstamp {st : BitVec 3} {d a b : BitVec 5} (h : Canonical s) : Steps (execTstamp st d a b s) := by
  refine h.issue fun hz => ?_
  dsimp only
  split
  · exact .pair hz.setThread
  · exact .pair hz.setThread
  · exact .pair hz.setThread
  · trivial
  · trivial

protected theorem execRecompute {x v : Nat} (h : Canonical s) : Steps (execRecompute x v s) := by
  unfold execRecompute
  dsimp only
  split
  · exact h
  · exact .ite h.advanceTo.setUnit.lapse (h.advanceTo.foldl fun _ _ hz => hz.releaseSlot).setUnit.protectOldest.lapse

protected theorem execIdle {st : BitVec 3} {d a b : BitVec 5} (h : Canonical s) : Steps (execIdle st d a b s) :=
  h.issue fun hz => .ite (.pair hz.setThread) (.ite (.pair hz.setThread.endT0) (.pair hz.setThread))

protected theorem execIdleTimeWake {c t : Nat} (h : Canonical s) : Steps (execIdleTimeWake c t s) := by
  unfold execIdleTimeWake
  dsimp only
  split
  · exact .ite h.advanceGts.wake.lapse h
  · exact h

protected theorem execLineWake {c t : Nat} (h : Canonical s) : Steps (execLineWake c t s) := by
  refine .ite h ?_
  split
  · exact .ite h.lookForWork.lapse h
  · exact h.wake.lapse

protected theorem execStallExpiry {c t : Nat} (h : Canonical s) : Steps (execStallExpiry c t s) := .ite h.advanceTo.lapse h

protected theorem execHschWaitExpiry {c t : Nat} (h : Canonical s) : Steps (execHschWaitExpiry c t s) := by
  unfold execHschWaitExpiry
  dsimp only
  split
  · exact h.advanceTo.lapse
  · exact .ite h h.setThread.lapse
  · exact h

protected theorem execInterlockedValueWrite {c t : Nat} (h : Canonical s) : Steps (execInterlockedValueWrite c t s) := by
  unfold execInterlockedValueWrite
  dsimp only
  split
  · exact h.advanceTo.setThread.lapse
  · exact h.setThread.lapse

/-! ## Control registers and traps (06) -/

protected theorem csrWrite {t : Tid} {a : Nat} {x : Word} (h : Canonical s) : GivesSome Canonical (csrWrite s t a x) := by
  refine .ite (.ite trivial (h.setCore (h.spad _))) (.ite (.ite (.ite trivial h.setThread) h.setThread) ?_)
  dsimp only
  split
  iterate 7 exact h.setThread
  · exact .ite trivial (h.setCore (by rw [putGgeo_spad]; exact h.spad _))
  · exact h.setCore (by rw [putGgeo_spad]; exact h.spad _)
  · exact h

protected theorem csrOp {w : BitVec 32} {st : BitVec 3} {d a : BitVec 5} {i : BitVec 12} {f : Word → Word → Word} (h : Canonical s) :
    Steps (csrOp w st d a i s f) := by
  refine h.issue fun hz => ?_
  dsimp only
  split
  · trivial
  · exact .pair (hz.csrWrite.of_eq ‹_›).setThread

protected theorem takeAsync {t : Tid} (h : Canonical s) : Canonical (takeAsync s t) := by
  unfold takeAsync
  dsimp only
  split
  · exact h
  · exact .ite h.forgetMiss.setThread h.advanceTo.takeSlot.setThread.takeTrap

protected theorem execEret {st : BitVec 3} {d a b : BitVec 5} (h : Canonical s) : Steps (execEret st d a b s) :=
  h.issue fun hz => .pair hz.eret.setThread

protected theorem execMark {st : BitVec 3} {d a b : BitVec 5} (h : Canonical s) : Steps (execMark st d a b s) :=
  h.issue fun hz => .pair hz.markRecord

protected theorem execBrk {st : BitVec 3} {e : BitVec 15} (h : Canonical s) : Steps (execBrk st e s) :=
  h.issue fun hz => .ite (.ite (.pair hz) (.pair hz.haltAt)) (.ite (.pair hz) trivial)

protected theorem execCsrr {st : BitVec 3} {d a : BitVec 5} {i : BitVec 12} (h : Canonical s) : Steps (execCsrr st d a i s) :=
  h.issue fun hz => .pair hz.setThread

protected theorem execAsynchronousTrap {c t : Nat} (h : Canonical s) : Steps (execAsynchronousTrap c t s) := .ite h.takeAsync.lapse h

protected theorem execScWindowClose (h : Canonical s) : Steps (execScWindowClose s) := by
  unfold execScWindowClose
  split
  · exact h
  · exact (h.advanceGts.foldl fun _ _ hz => hz.setThread).setAgenda.lapse

end Canonical

/-! ## Fetching, migration and the Scribe (03, 08, 18) -/

namespace Canonical

variable {s : State}

protected theorem fetchStop {t : Tid} {e : Stop} (h : Canonical s) : Steps (fetchStop s t e) := by
  unfold fetchStop
  split
  · dsimp only
    split
    · exact h.stopped
    · refine Canonical.lapse ?_
      split
      · exact h.noteIssue.returnHome.takeTrap
      · exact .ite h.noteIssue.park h.noteIssue.takeTrap
  · exact h.stopped

protected theorem packetHome {t : Tid} {b : List Byte} (h : Canonical s) : Canonical (packetHome s t b) := h.setThread

protected theorem execMigrationArrival {n : Nat} (h : Canonical s) : Steps (execMigrationArrival n s) := by
  unfold execMigrationArrival
  split
  · refine .ite h (.ite h.setFlights.packetHome.lapse ?_)
    dsimp only
    split
    · exact h
    · exact h.setFlights.setThread.setThread.lapse
  · exact h

protected theorem execMigrationReturn {c t : Nat} (h : Canonical s) : Steps (execMigrationReturn c t s) := by
  unfold execMigrationReturn
  dsimp only
  split
  · refine .ite ?_ h
    split
    · exact h.setThread
    · exact h.returnHome.lapse
  · exact h

protected theorem freePool {x n : Nat} (h : Canonical s) : Canonical (freePool s x n) := h.setCtx

protected theorem takePool {x n : Nat} (h : Canonical s) : Canonical (takePool s x n) := h.setCtx

protected theorem freeObj {i : Nat} {o : Obj} (h : Canonical s) : Canonical (freeObj s i o) := h.setObjects.freePool

protected theorem reapObj {i : Nat} (h : Canonical s) : Canonical (reapObj s i) := by
  unfold reapObj
  split
  · exact h
  · exact .ite h.freeObj h

protected theorem replayObj {i d : Nat} {o : Obj} (h : Canonical s) : Canonical (replayObj s i d o) := by
  unfold replayObj
  dsimp only
  split
  · exact h
  · exact .ite h.setObj.chargeAlways h.setObj

protected theorem payAppend {src : Tid} {home : Nat} (h : Canonical s) : GivesSome Canonical (payAppend s src home) :=
  h.spend.bind fun _ hz => .ite hz hz.inject

protected theorem appendCycle {src : Tid} {home : Nat} {last : Option (Nat × Nat)} (h : Canonical s) : Canonical (appendCycle s src home last) := by
  unfold appendCycle
  split
  · exact .ite h.advanceTo h
  · exact h

protected theorem appendObj {src : Tid} {i : Nat} {e : LogEntry} {w : Word} (h : Canonical s) : GivesSome Canonical (appendObj s src i e w) := by
  unfold appendObj
  split
  · exact h.replyTrap
  · rename_i o _
    refine .ite h.replyTrap ?_
    have hp : GivesSome Canonical (if o.full s then none else Machine.payAppend s src o.home) := .ite trivial h.payAppend
    split
    · trivial
    · exact (hp.of_eq ‹_›).appendCycle.setObj.reply

end Canonical

theorem rreadBody_keeps {a b d : Nat} {l : Bool} : KeepsCanonical (rreadBody a b d l) := fun hz => by
  refine .after fun k => ?_
  dsimp only
  split
  · refine .ite trivial ?_
    split
    · exact hz.storeAt.bind fun _ hy => .pair hy.setThread
    · refine hz.loadAt.bind fun q hq => ?_
      split
      · exact .pair (Canonical.park (Canonical.setThread hq))
      · exact .ite trivial (.pair (Canonical.park (Canonical.setThread hq)))
  · trivial

theorem rcallBody_keeps {a b d : Nat} {nb : Bool} : KeepsCanonical (rcallBody a b d nb) := fun hz => by
  refine .after fun k => ?_
  dsimp only
  split
  · refine .ite trivial (.ite trivial (.ite (.ite (.pair hz.setThread) trivial) (hz.loadAt.bind fun q hq => .pair ?_)))
    exact Canonical.setFlights (Canonical.drainPosted hq)
  · trivial

namespace Canonical

variable {s : State}

protected theorem execRwait {st : BitVec 3} {d a b : BitVec 5} (h : Canonical s) : Steps (execRwait st d a b s) := by
  refine h.issue fun hz => .after fun k => ?_
  dsimp only
  split
  · refine .ite trivial (.ite trivial (.ite (hz.storeAt.bind fun _ hy => .pair hy.setThread) ?_))
    split
    · exact hz.storeAt.bind fun _ hy => .pair hy.setThread
    · exact .pair hz.setThread
  · trivial

protected theorem execObjnew {st : BitVec 3} {d a b : BitVec 5} (h : Canonical s) : Steps (execObjnew st d a b s) := by
  refine h.issue fun hz => .after fun head => .after fun blk => ?_
  dsimp only
  split
  · trivial
  · refine .ite trivial ?_
    split
    · exact .ite trivial (.afterIte fun init => .after fun code => .pair hz.useBlocks.setObj.takePool.setThread)
    · trivial

protected theorem execObjdel {st : BitVec 3} {d a b : BitVec 5} (h : Canonical s) : Steps (execObjdel st d a b s) := by
  refine h.issue fun hz => ?_
  dsimp only
  split
  · trivial
  · exact .ite (.pair hz.freeObj) (.pair hz.setObj.park)

protected theorem execRreadRun {c t : Nat} (h : Canonical s) : Steps (execRreadRun c t s) := by
  unfold execRreadRun
  dsimp only
  split
  · exact h
  · refine .ite h ?_
    split
    · exact (h.spend.of_eq ‹_›).chargeAlways.setThread.wake.lapse
    · exact h

end Canonical

/-! ## The Catalogue (19) -/

namespace Canonical

variable {s : State}

protected theorem replayCat {i d : Nat} {c : Cat} (h : Canonical s) : Canonical (replayCat s i d c) := by
  unfold replayCat
  dsimp only
  split
  · exact h
  · exact .ite h.setCat.chargeAlways h.setCat

protected theorem freeCat {i : Nat} {c : Cat} (h : Canonical s) : Canonical (freeCat s i c) := h.setCats.freePool

protected theorem reapCat {i : Nat} (h : Canonical s) : Canonical (reapCat s i) := by
  unfold reapCat
  split
  · exact h
  · exact .ite h.freeCat h

protected theorem appendCat {src : Tid} {i : Nat} {e : LogEntry} {w : Word} (h : Canonical s) : GivesSome Canonical (appendCat s src i e w) := by
  unfold appendCat
  split
  · exact h.replyTrap
  · rename_i c _
    refine .ite h.replyTrap (.ite h.replyTrap ?_)
    have hp : GivesSome Canonical (if c.full s then none else Machine.payAppend s src c.home) := .ite trivial h.payAppend
    split
    · trivial
    · exact (hp.of_eq ‹_›).appendCycle.setCat.reply

end Canonical

theorem cnearBody_keeps {a b d : Nat} {l : Bool} : KeepsCanonical (cnearBody a b d l) := fun {z t} hz => by
  refine .after fun head => ?_
  dsimp only
  cases (z.thread t).search with
  | some q =>
    dsimp only
    split
    · exact .after fun _ => .after fun _ => .after fun blk => .ite (.pair hz.park) (hz.storeAt.bind fun _ hy => .pair hy.setThread)
    · trivial
  | none =>
    dsimp only
    split
    · refine .after fun _ => .after fun _ => ?_
      split
      · trivial
      · refine .after fun blk => hz.loadAt.bind fun p hp => ?_
        split
        · trivial
        · exact .ite trivial (.pair (Canonical.park (Canonical.setThread hp)))
    · trivial

namespace Canonical

variable {s : State}

protected theorem execCstv {st : BitVec 3} {d a b : BitVec 5} (h : Canonical s) : Steps (execCstv st d a b s) := by
  refine h.issue fun hz => .after fun head => ?_
  dsimp only
  split
  · refine .after fun _ => .after fun k => hz.settlePosted.settlePosted.loadAt.bind fun q hq => .ite trivial ?_
    split
    · refine .ite trivial (.ite trivial (.ite trivial (.pair ?_)))
      exact Canonical.setFlights (Canonical.drainPosted hq)
    · trivial
  · trivial

protected theorem execCdel {st : BitVec 3} {d a b : BitVec 5} (h : Canonical s) : Steps (execCdel st d a b s) := by
  refine h.issue fun hz => ?_
  dsimp only
  split
  · trivial
  · exact .ite trivial (.ite trivial (.ite trivial (.pair hz.drainPosted.setFlights)))

protected theorem execCver {st : BitVec 3} {d a b : BitVec 5} (h : Canonical s) : Steps (execCver st d a b s) := by
  refine h.issue fun hz => ?_
  dsimp only
  split
  · trivial
  · exact .pair (Canonical.setThread (.ite hz.setCat hz))

protected theorem execCatnew {st : BitVec 3} {d a b : BitVec 5} (h : Canonical s) : Steps (execCatnew st d a b s) := by
  refine h.issue fun hz => .after fun blk => ?_
  dsimp only
  split
  · trivial
  · split
    · split
      · exact .pair hz.useBlocks.setCat.takePool.setThread
      · trivial
    · trivial

protected theorem execCatdel {st : BitVec 3} {d a b : BitVec 5} (h : Canonical s) : Steps (execCatdel st d a b s) := by
  refine h.issue fun hz => ?_
  dsimp only
  split
  · trivial
  · exact .ite (.pair hz.freeCat) (.pair hz.setCat.park)

protected theorem appended {src : Tid} {cat : Bool} {i : Nat} {e : LogEntry} {w : Word} (h : Canonical s) :
    GivesSome Canonical (appended s src cat i e w) :=
  .ite h.appendCat h.appendObj

protected theorem execLogAppend {n : Nat} (h : Canonical s) : Steps (execLogAppend n s) := by
  unfold execLogAppend
  split
  · refine .ite h ?_
    split
    · exact (h.setFlights.appended.of_eq ‹_›).lapse
    · exact h
  · exact h

protected theorem execEntryApply {cat : Bool} {i die : Nat} (h : Canonical s) : Steps (execEntryApply cat i die s) := by
  refine .ite h (.ite ?_ ?_)
  · split
    · exact h.replayCat.reapCat.lapse
    · exact h
  · split
    · exact h.replayObj.reapObj.lapse
    · exact h

protected theorem execSearchAdmission {c t : Nat} (h : Canonical s) : Steps (execSearchAdmission c t s) := by
  unfold execSearchAdmission
  dsimp only
  split
  · exact h
  · exact .ite h (Canonical.lapse (Canonical.setThread (.ite h h.setCat)))

protected theorem execSearchStep {c t : Nat} (h : Canonical s) : Steps (execSearchStep c t s) := by
  unfold execSearchStep
  dsimp only
  split
  · exact h
  · split
    · exact h
    · refine .ite h ?_
      split
      · exact h
      · have hz := h.spend.of_eq ‹_›
        exact Canonical.lapse (.ite hz.setThread.wake hz.setThread)

/-! ## Collectives and egress failures (23) -/

protected theorem failRank {c : Contrib} {n : Nat} (h : Canonical s) : Canonical (failRank s c n) := by
  unfold failRank
  extract_lets i z x y w
  have hy : Canonical y := .ite h.setContribs.setHandleOf h.setContribs
  exact Canonical.pendTrap (.ite hy.signalError hy)

protected theorem failColl {g : Group} {q : BitVec 64} {n : Nat} {why : Contrib → Nat} (h : Canonical s) : Canonical (failColl s g q n why) := by
  have hz : ∀ {cs : List Contrib}, Canonical (cs.foldl (fun s c => Machine.failRank s c (why c)) s) := h.foldl fun _ _ hz => hz.failRank
  exact .ite hz hz.setCollFails

protected theorem failWhere {p : Group → Bool} {n : Nat} {why : Contrib → Nat} (h : Canonical s) : Canonical (failWhere s p n why) :=
  h.foldl fun _ _ hz => .ite hz.failColl hz

protected theorem failClip {x : Nat} {y : Clip} {v : View} {w : Word} (h : Canonical s) : Canonical (failClip s x y v w) := h.setCtx.signalError

protected theorem failMark {src : Tid} {d : Nat} (h : Canonical s) : Canonical (failMark s src d) := by
  unfold failMark
  extract_lets mark
  have hm : ∀ {f x n w sb sl}, Canonical (mark s f x n w sb sl) := by
    intros
    unfold mark
    dsimp only
    split
    · exact h.setFlights.failClip
    · exact h.setFlights.signalError
  split
  · exact hm
  · exact hm
  · exact h

protected theorem ask {core x : Nat} {addr : Word} {cva kind size : Nat} {w : MissFor} (h : Canonical s) :
    Canonical (ask s core x addr cva kind size w) :=
  .ite h h.postMiss

end Canonical

/-! ## Tile engines (15, 16) -/

namespace Canonical

variable {s : State}

protected theorem setTile {c : Nat} {x : Tile} (h : Canonical s) : Canonical (s.setTile c x) := h.setCore (h.spad c)

protected theorem storeC {w : Win} {acc : KMap (BitVec 32)} {bank half : Nat} {isInt sat : Bool} {addr ld fa rows cols : Nat} (h : Canonical s) :
    Gives (Canonical ·.1) (storeC s w acc bank half isInt sat addr ld fa rows cols) :=
  .ite trivial (.after fun _ => .pair (h.foldl fun _ _ hz => hz.writePlaces))

protected theorem pushCmd {t : Tid} {q : Nat} {c : TileCmd} (h : Canonical s) : Gives Canonical (pushCmd s t q c) := by
  unfold pushCmd
  dsimp only
  split
  · trivial
  · refine .ite trivial (.ite trivial (.ite (.after fun _ => ?_) ?_))
    · exact .ite trivial (h.setCore (h.spad _))
    · exact .ite trivial (h.setCore (h.spad _))

protected theorem tilePush {w : BitVec 32} {st q : BitVec 3} {legal : Bool} {reads : List (RegFile × Nat)} {c : Thread → TileCmd} {next : Next}
    (h : Canonical s) : Steps (tilePush w st q legal reads c next s) :=
  h.issue fun hz => hz.pushCmd.bind fun _ hy => .pair hy

protected theorem endCommand {c q : Nat} {m : TileCmd} {flags cause : Nat} (h : Canonical s) : Canonical (endCommand s c q m flags cause) :=
  h.setThread.setTile

protected theorem takeCommand {c q : Nat} {m : TileCmd} (h : Canonical s) : Canonical (takeCommand s c q m) := h.setTile

protected theorem setStream {c q : Nat} {a : Bool} {v : Stream} (h : Canonical s) : Canonical (setStream s c q a v) := h.setTile

protected theorem setAcc {c : Nat} {a : KMap (BitVec 32)} (h : Canonical s) : Canonical (setAcc s c a) := h.setTile

protected theorem takeRun {c q : Nat} {m : TileCmd} {b : Nat} (h : Canonical s) : Canonical (takeRun s c q m b) := h.setTile.endCommand.reply

protected theorem beginCommand {c q : Nat} {m : TileCmd} (h : Canonical s) : Canonical (beginCommand s c q m) := by
  unfold beginCommand
  dsimp only
  split
  case h_1 => exact h.setStream.endCommand
  case h_2 => exact h.setStream.endCommand
  case h_3 => exact h.setStream.endCommand
  case h_4 => exact h.setAcc.endCommand
  case h_5 =>
    split
    · exact h.setAcc.endCommand
    · exact h.endCommand
  case h_6 =>
    split
    · exact Canonical.endCommand (h.storeC.of_eq ‹_›)
    · exact h.endCommand
  case h_7 =>
    split
    · exact h.takeRun
    · exact h.setTile
  case h_8 => exact h.setTile.endCommand.reply
  case h_9 =>
    refine .ite h.endCommand ?_
    split
    · exact h.setAcc.endCommand
    · exact h.endCommand
  case h_10 => exact .ite h.endCommand (.ite h.endCommand (.ite h.endCommand h.setTile))

protected theorem commandChunk {c : Nat} {r : TileRun} (h : Canonical s) : Canonical (commandChunk s c r) := by
  unfold commandChunk
  dsimp only
  split
  · split
    · exact h.setTile.endCommand
    · exact h.setTile
  · exact .ite h.setTile.endCommand h.setTile

protected theorem tgeo {w : BitVec 32} {st : BitVec 3} {d : BitVec 5} {f : Nat × Nat × Nat × Nat → Nat} (h : Canonical s) :
    Steps (tgeo w st d f s) :=
  h.issue fun hz => .pair hz.setThread

protected theorem execQpush {st : BitVec 3} {d : BitVec 5} {q : BitVec 3} {e : BitVec 14} (h : Canonical s) : Steps (execQpush st d q e s) := by
  refine h.issue fun hz => ?_
  dsimp only
  split
  · trivial
  · exact hz.pushCmd.bind fun _ hy => .pair hy

protected theorem execQpop {st : BitVec 3} {d : BitVec 5} {q : BitVec 3} {e : BitVec 14} (h : Canonical s) : Steps (execQpop st d q e s) := by
  refine h.issue fun hz => ?_
  dsimp only
  split
  · trivial
  · exact .pair hz.setTile.orderStores.setThread

protected theorem execLset {st : BitVec 3} {d : BitVec 5} {q : BitVec 3} {e : BitVec 14} (h : Canonical s) : Steps (execLset st d q e s) :=
  h.issue fun hz => .pair hz.setTile

protected theorem execTileCommandBegin {c : Nat} (h : Canonical s) : Steps (execTileCommandBegin c s) := by
  refine .ite h ?_
  split
  · exact h.takeRun.lapse
  · refine .ite h ?_
    split
    · exact h.takeCommand.beginCommand.lapse
    · exact h

protected theorem execCompletionWordPost {c q : Nat} (h : Canonical s) : Steps (execCompletionWordPost c q s) := by
  unfold execCompletionWordPost
  dsimp only
  split
  · exact .ite h.setTile.lapse h
  · exact h

/-! ## Tile tasks (16) -/

protected theorem writeStatus {y : TileTask} {a b c : Nat} (h : Canonical s) : Canonical (writeStatus s y a b c) := h.writePlaces

protected theorem taskIssue {w : BitVec 32} {g : Bool} {st : BitVec 3} {d : BitVec 5} (h : Canonical s) : Steps (taskIssue w g st d s) := by
  refine h.issue fun hz => .after fun k => .afterIte fun n => .ite (.after fun _ => ?_) ?_
  · exact .ite trivial (.ite trivial (.pair hz.settlePosted.writeStatus.setUnit))
  · exact .ite trivial (.ite trivial (.pair hz.settlePosted.writeStatus.setUnit))

protected theorem putTask {u : Nat} {y : TileTask} (h : Canonical s) : Canonical (putTask s u y) := h.setUnit

protected theorem dropTask {u : Nat} {y : TileTask} (h : Canonical s) : Canonical (dropTask s u y) := h.setUnit

protected theorem setFields {u : Nat} {f : Word → Word} {hs : List (Nat × Nat)} (h : Canonical s) : Canonical (setFields s u f hs) := by
  induction hs generalizing s with
  | nil => exact h
  | cons x hs ih =>
    refine ih ?_
    split
    · exact h.setHandleOf
    · exact h

protected theorem admitTask {u : Nat} {y : TileTask} (h : Canonical s) : Canonical (admitTask s u y) :=
  Canonical.putTask (Canonical.writeStatus (Canonical.setFields (.ite h.setFields h)))

protected theorem freeConsumed {u : Nat} {b : List Byte} (h : Canonical s) : Canonical (freeConsumed s u b) := .ite h.setFields h

protected theorem tileFault {u : Nat} {y : TileTask} {c : Nat} (h : Canonical s) : Canonical (tileFault s u y c) := h.pendTrap

protected theorem taskSignal {u : Nat} {y : TileTask} (h : Canonical s) : Canonical (taskSignal s u y) := .ite h h.engineSignal

protected theorem releaseBanks {y : TileTask} (h : Canonical s) : Canonical (releaseBanks s y) := .ite h h.setTile

protected theorem failTask {u : Nat} {y : TileTask} {c : Nat} (h : Canonical s) : Canonical (failTask s u y c) :=
  h.releaseBanks.writeStatus.setFields.freeConsumed.signalError.dropTask.tileFault

protected theorem finishTask {u : Nat} {y : TileTask} (h : Canonical s) : Canonical (finishTask s u y) :=
  h.writeStatus.setFields.freeConsumed.dropTask

protected theorem passEmpty {n u : Nat} {y : TileTask} (h : Canonical s) : Canonical (passEmpty n s u y) := by
  induction n generalizing s y with
  | zero => exact h
  | succ n ih => exact .ite h (.ite h.putTask (.ite h.finishTask.taskSignal (ih h.taskSignal)))

protected theorem dispatchTask {u : Nat} {y : TileTask} {c b : Nat} (h : Canonical s) : Canonical (dispatchTask s u y c b) := by
  have hz : Canonical (if y.admitted then s else Machine.admitTask s u y) := .ite h h.admitTask
  have hx : ∀ {n z}, Canonical (if ({ y with admitted := true } : TileTask).group
      then Machine.passEmpty n (if y.admitted then s else Machine.admitTask s u y) u z
      else if y.admitted then s else Machine.admitTask s u y) := .ite hz.passEmpty hz
  exact .ite hz.passEmpty (.ite hx.failTask (.ite (.ite hx.failTask (.ite hx.failTask hx.putTask)) hx.setTile.putTask))

protected theorem servedTask {es : List (Nat × TileTask)} (h : Canonical s) : GivesSome (Canonical ·.1) (servedTask s es) := by
  induction es with
  | nil => trivial
  | cons e es ih =>
    unfold servedTask
    dsimp only
    split
    · exact h.spend.of_eq ‹_›
    · exact ih

protected theorem chooseTask {u c b : Nat} (h : Canonical s) : GivesSome (Canonical ·.1) (chooseTask s u c b) := by
  unfold chooseTask
  split
  · exact .ite (h.servedTask.of_eq ‹_›) trivial
  · trivial

protected theorem taskClose {u : Nat} {y : TileTask} {acc : KMap (BitVec 32)} (h : Canonical s) : Gives (Canonical ·.1) (taskClose s u y acc) :=
  .ite h.storeC (.pair h)

protected theorem addChunk {u : Nat} {y : TileTask} (h : Canonical s) : Canonical (addChunk s u y).1 := by
  unfold addChunk
  dsimp only
  split
  · exact h
  · exact .ite_fst h.setTile h

protected theorem closeTile {u : Nat} {y : TileTask} {acc : KMap (BitVec 32)} (h : Canonical s) : Gives (Canonical ·.1) (closeTile s u y acc) :=
  h.taskClose.bind fun _ hq => .pair (Canonical.setAcc hq)

protected theorem taskChunk {u : Nat} {y : TileTask} (h : Canonical s) : Canonical (taskChunk s u y) := by
  unfold taskChunk
  dsimp only
  split
  · rename_i e
    refine Canonical.putTask (Gives.fst_of_eq ?_ e)
    split
    · exact .afterIte fun acc => .ite h.closeTile (.after fun r => .pair h.setTile)
    · exact .ite (.pair h.addChunk) h.addChunk.closeTile
  · exact h.putTask

protected theorem abortTask {u : Nat} {y : TileTask} (h : Canonical s) : Canonical (abortTask s u y) := by
  have hz : ∀ {y n u f hs},
      Canonical (setFields (Machine.writeStatus (Machine.releaseBanks (Machine.addChunk s u y).1 y) y 4 n cTILE_FAULT) u f hs) :=
    h.addChunk.releaseBanks.writeStatus.setFields
  exact Canonical.dropTask (Canonical.signalError (.ite hz.freeConsumed hz))

protected theorem endTask {u : Nat} {y : TileTask} (h : Canonical s) : Canonical (endTask s u y) :=
  .ite h.failTask (.ite h.releaseBanks.finishTask.taskSignal (.ite h.releaseBanks.finishTask.taskSignal h.releaseBanks.putTask.taskSignal.passEmpty))

protected theorem execTileChunk {c n : Nat} (h : Canonical s) : Steps (execTileChunk c n s) := by
  unfold execTileChunk
  dsimp only
  split
  · split
    · split
      · exact .ite h.commandChunk.lapse h
      · exact h
    · split
      · exact .ite h.taskChunk.lapse h
      · exact h
  · refine .ite h (.ite ?_ ?_)
    · split
      · exact h.commandChunk.lapse
      · exact h
    · split
      · exact h
      · exact .ite h h.taskChunk.lapse

protected theorem execTaskDispatch {x v c b : Nat} (h : Canonical s) : Steps (execTaskDispatch x v c b s) := by
  unfold execTaskDispatch
  dsimp only
  split
  · exact (h.chooseTask.fst_of_eq ‹_›).dispatchTask.lapse
  · exact h

protected theorem execTaskCompletion {c n : Nat} (h : Canonical s) : Steps (execTaskCompletion c n s) := by
  unfold execTaskCompletion
  split
  · exact .ite h.endTask.lapse h
  · exact h

end Canonical

/-! ## Contexts (21): revocation -/

theorem saveCycles_eq (s : State) (k : Nat) (c : VCore) : ∃ m n, saveCycles s k c = { c with cycBase := m, ncycBase := n } := ⟨_, _, rfl⟩

theorem saveCycles_spad (s : State) (k : Nat) (c : VCore) : (saveCycles s k c).spad = c.spad := by
  obtain ⟨m, n, e⟩ := saveCycles_eq s k c
  rw [e]

/-- A Den holds no more of a scratchpad than the core did. -/
theorem savedCore_spad_wf {c : VCore} (b : Bool) (h : c.spad.wf = true) : (savedCore b c).spad.wf = true := by
  cases b with
  | false => exact h
  | true => exact Memory.filter_wf h _

namespace Canonical

variable {s : State}

protected theorem moveKeys {f : Nat → Nat} (h : Canonical s) : Canonical (moveKeys s f) := h.foldl fun _ _ hz => hz.setDie

protected theorem shootdown {old : State} {xs : List Nat} {ds : List (Nat × Nat)} (h : Canonical s) : Canonical (shootdown old s xs ds) :=
  h.setSetts (h.mems.map fun _ he => he)

protected theorem removeRange {n x lo hi : Nat} (h : Canonical s) : Canonical (removeRange n s x lo hi) := by
  induction n generalizing s x lo hi with
  | zero => exact h
  | succ n ih => exact h.setCtx.foldl fun _ _ hz => hz.foldl fun _ _ hy => ih hy

protected theorem drainContexts {xs : List Nat} (h : Canonical s) : Canonical (drainContexts s xs) := h.foldl fun _ _ hz => .ite hz.drainPosted hz

protected theorem revokeRange {x lo hi : Nat} (h : Canonical s) : Canonical (revokeRange s x lo hi) :=
  h.removeRange.setCtx.shootdown.drainContexts

protected theorem passSett {i x v : Nat} (h : Canonical s) : Canonical (passSett s i x v) := by
  have hz : Canonical (s.setSett i { Sett.reset i with
      place := (s.sett i).place
      part := partOf s 9 x
      holder := x
      vsett := v
      shelves := Vector.replicate 32 x }) := h.setSett rfl
  exact hz.foldl fun _ _ hy => hy.setCore rfl

protected theorem zeroShelves {i : Nat} {p : Nat → Bool} (h : Canonical s) : Canonical (zeroShelves s i p) :=
  h.setSett (Memory.filter_wf (h.mem i) _)

/-- Some shelves of a sett read zero and pass to another owner. -/
protected theorem passShelves {i n : Nat} {p : Nat → Bool} {r : Option Nat} {o : Vector Nat 32} (h : Canonical s) :
    Canonical ((zeroShelves s i p).setSett i { (zeroShelves s i p).sett i with res := r, resVsett := n, shelves := o }) :=
  h.zeroShelves.setSett (h.zeroShelves.mem i)

/-- The memory of a sett is gone. -/
protected theorem eraseSett {i : Nat} {p : Nat × VCore → Bool} (h : Canonical s) :
    Canonical { s with setts := s.setts.erase i, cores := s.cores.filter p } :=
  Canonical.setCores (h.setSetts (h.mems.erase i)) (h.spads.filter _)

protected theorem returnSett {p i : Nat} {kept : Bool} (h : Canonical s) : Canonical (returnSett s p i kept) := by
  unfold returnSett
  dsimp only
  split
  · exact h
  · split
    · exact h.setCtx.eraseSett
    · refine Canonical.placementRecord (Canonical.passSett (Canonical.setCtx (.ite ?_ h)))
      exact h.eraseSett.setSett rfl

protected theorem grantSetts {x y : Nat} {es : List (Nat × Nat)} (h : Canonical s) : Canonical (grantSetts s x y es) :=
  Canonical.placementRecord (Canonical.foldl h.setCtx.setCtx fun _ _ hz => hz.passSett)

protected theorem grantSlots {x y n : Nat} {es : List (Nat × Nat)} (h : Canonical s) : Canonical (grantSlots s x y n es) :=
  Canonical.placementRecord (h.setCtx.foldl fun _ _ hz => hz.passShelves)

protected theorem zeroExtents {es : List Extent} (h : Canonical s) : Canonical (zeroExtents s es) :=
  ⟨h.dram, Memory.filter_wf h.archive _, h.outside, h.spads, h.mems, h.dens⟩

protected theorem completeBanks {mine : Tid → Bool} (h : Canonical s) : Canonical (completeBanks s mine) := by
  refine h.foldl fun z f hz => ?_
  split
  · refine .ite (Canonical.bankEnd (Canonical.setFlights ?_)) hz
    exact hz.foldl fun _ _ hy => hy.bankOne.chargeAlways
  · exact hz

/-- Ending the ordered tasks that a stopping launch leaves in one holt unit. -/
protected theorem stopUnit {u : Nat} {ks : List (Nat × Nat)} {den : Bool} {p : Bool} {y : HoltUnit} {us : KMap HoltUnit} (h : Canonical s) :
    Canonical (if den then abortTasks s u ks else if p then (abortTasks s u ks).setUnit u y else { abortTasks s u ks with units := us }) :=
  .ite h.abortTasks (.ite h.abortTasks.setUnit h.abortTasks)

protected theorem stopEngines {ks : List Nat} {drain den : Bool} {mine : Tid → Bool} (h : Canonical s) :
    Canonical (stopEngines s ks drain den mine) := by
  unfold stopEngines
  extract_lets ts z1 z2 z3 z4 z5
  have h1 : Canonical z1 := .ite (h.foldl fun _ _ hz => hz.drainPosted) h
  have h2 : Canonical z2 := h1.completeBanks
  have h3 : Canonical z3 := h2.foldl fun _ _ hz => hz.foldl fun _ _ hy => hy.failCopy
  have h4 : Canonical z4 := h3.foldl fun _ _ hz => hz.foldl fun _ _ hy => hy.abortTask
  have h5 : Canonical z5 := h4.foldl fun _ _ hz => hz.stopUnit
  exact h5

protected theorem spoilSignals {p : Launch → Bool} (h : Canonical s) : Canonical (spoilSignals s p) := h.foldl fun _ _ hz => hz.signalError

protected theorem endLaunches {p : Launch → Bool} (h : Canonical s) : Canonical (endLaunches s p) := by
  refine Canonical.setLaunches (Canonical.foldl (h.setCores (h.spads.map fun _ he => he)) fun _ _ hz => hz.foldl fun y j hy => ?_)
  split
  · exact .ite (hy.setCore (hy.spad _)) (hy.setCore (hy.spad _))
  · exact hy

protected theorem recordSetts {x : Nat} {vs : List (Nat × Nat)} (h : Canonical s) : Canonical (recordSetts s x vs) := h.placementRecord

protected theorem revokeSetts {x : Nat} {ids : List Nat} (h : Canonical s) : Canonical (revokeSetts s x ids) := by
  unfold revokeSetts
  extract_lets p z1 z2 c
  have h1 : Canonical z1 := h.endLaunches
  have h2 : Canonical z2 := h1
  refine .ite (Canonical.recordSetts ?_) (Canonical.recordSetts ?_)
  · exact h2.setCtx.foldl fun _ _ hy => hy.passShelves
  · exact h2.setCtx.foldl fun _ _ hy => hy.returnSett

protected theorem forgetContexts {xs : List Nat} (h : Canonical s) : Canonical (forgetContexts s xs) :=
  h.setSetts (h.mems.map fun _ he => Memory.filter_wf he _)

protected theorem deleteObjects {xs : List Nat} (h : Canonical s) : Canonical (deleteObjects s xs) :=
  Canonical.foldl (h.foldl fun _ _ hz => .ite hz.freeObj hz) fun _ _ hz => .ite hz.freeCat hz

protected theorem writeDen {a : Nat} {b : List Byte} (h : Canonical s) : Canonical (writeDen s a b) := by
  unfold writeDen
  extract_lets put
  have hz : Canonical (b.zipIdx.foldl put s) := h.foldl fun y e hy => by
    unfold put
    split
    · exact hy.writePlace
    · exact hy
  exact hz

/-- One more Den holds its memories in canonical form. -/
protected theorem addDen {d : Den} (h : Canonical s) (hd : DenWf d) : Canonical { s with dens := s.dens ++ [d] } :=
  h.setDens fun e he => (List.mem_append.mp he).elim (h.dens e) fun he => by
    rw [List.mem_singleton.mp he]
    exact hd

protected theorem saveTorn {x a : Nat} (h : Canonical s) : Canonical (saveTorn s x a) := by
  unfold saveTorn
  extract_lets xs mine cs z cores small save here c image den z'
  have hz : Canonical z := h.foldl fun _ _ hy => hy.unhalt
  have hz' : Canonical z' := hz.writeDen
  have hsave (k : Nat) (e : VCore) (he : e.spad.wf = true) : (save k e).spad.wf = true := by
    have hs : (savedCore (small e) (endCommands (withdrawMisses { e with threads := e.threads.map stopThread }))).spad.wf = true :=
      savedCore_spad_wf _ he
    unfold save
    extract_lets w
    split
    · exact hs
    · exact hs
  exact hz'.addDen ⟨(hz.spads.filter _).map fun e he => hsave e.1 e.2 he, hz.mems.filter _⟩

protected theorem stopRevoked {w : Teardown} (h : Canonical s) : Canonical (stopRevoked s w) := h.stopEngines

protected theorem abortRevoked {w : Teardown} (h : Canonical s) : Canonical (abortRevoked s w) :=
  Canonical.spoilSignals (Canonical.stopRevoked (.ite h h.deleteObjects.failWhere))

/-- Of the Dens only those that stay are kept, each with its memories. -/
protected theorem filterDens {p : Den → Bool} {f : Den → Den} (h : Canonical s) (hf : ∀ d, DenWf d → DenWf (f d)) :
    Canonical { s with dens := (s.dens.filter p).map f } :=
  h.setDens (List.forall_mem_map.mpr fun d hd => hf d (h.dens d (List.mem_filter.mp hd).1))

protected theorem teardown {x : Nat} {den : Option Nat} (h : Canonical s) : Canonical (teardown s x den) := by
  unfold teardown
  extract_lets xs p z1 z2 z3 z4 back z5 z6 cp z7 z8 keys z9 graves
  have h1 : Canonical z1 := by
    unfold z1
    split
    · exact h.saveTorn
    · exact h
  have h2 : Canonical z2 := Canonical.setFlights (h1.filterDens fun d hd => by
    split
    · exact hd
    · exact hd)
  have h4 : Canonical z4 := h2.endLaunches.revokeRange
  have h5 : Canonical z5 := h4.foldl fun _ _ hz => hz.returnSett
  have h9 : Canonical z9 := h5.forgetContexts.zeroExtents.setCtx.moveKeys
  clear_value z9
  exact h9

protected theorem finishRevoked {w : Teardown} (h : Canonical s) : Canonical (finishRevoked s w) := by
  have hz : Canonical (spoilSignals (stopRevoked s w) fun l => w.ends (stopRevoked s w) l && !w.takes (stopRevoked s w) l.issuer) :=
    h.stopRevoked.spoilSignals
  unfold finishRevoked
  dsimp only
  split
  · exact hz.teardown
  · exact hz.revokeSetts

protected theorem beginTeardown {x : Nat} (h : Canonical s) : Canonical (beginTeardown s x) := h

protected theorem setTeardowns {ws : List Teardown} (h : Canonical s) : Canonical { s with teardowns := ws } := h

protected theorem revokeStep {w : Teardown} (h : Canonical s) : Canonical (revokeStep w s).1 := by
  refine .ite_fst h ?_
  split
  · refine .ite_fst h ?_
    dsimp only
    exact .ite_fst h.abortRevoked h.abortRevoked.setTeardowns.finishRevoked
  · exact .ite_fst h h.setTeardowns.finishRevoked

protected theorem teardownStep {w : Teardown} (h : Canonical s) : Canonical (teardownStep w s) := by
  unfold teardownStep
  dsimp only
  split
  · exact h.revokeStep.reply
  · exact h.revokeStep

end Canonical

/-! ## Contexts (21): launches, grants and misses -/

theorem putPieces_wf {m : Memory} (h : m.wf = true) (ps : List (Nat × List Byte)) : (putPieces m ps).wf = true := by
  induction ps generalizing m with
  | nil => exact h
  | cons p ps ih => exact ih (Memory.putBytes_wf h p.1 p.2)

namespace Canonical

variable {s : State}

protected theorem setDead {m : KMap Nat} (h : Canonical s) : Canonical { s with dead := m } := h

protected theorem resumeThread {t : Tid} {pc : Word} {gs : List (Nat × Word)} (h : Canonical s) : Canonical (resumeThread s t pc gs) :=
  Canonical.setFlights h.setThread

protected theorem forwardHeld {t : Tid} {x g : Nat} (h : Canonical s) : Canonical (forwardHeld s t x g) := Canonical.setFlights h.setThread

protected theorem installRange {i : Nat} {e : TlbEntry} (h : Canonical s) : Canonical (installRange s i e) := h.setSett (h.mem i)

protected theorem loadShared {x : Nat} {is : List Nat} (h : Canonical s) : Canonical (loadShared s x is) :=
  Canonical.foldl (h.foldl fun _ _ hz => hz.setSett (putPieces_wf (hz.mem _) _)) fun _ _ hz => hz.writePlaces

protected theorem bindCore {x id : Nat} {b : List Byte} {v k : Nat} (h : Canonical s) : Canonical (bindCore s x id b v k) :=
  .ite (h.setCore (h.spad k)) (h.setCore (putPieces_wf (h.spad k) _))

protected theorem freshSett {r : Bool} {i : Nat} (h : Canonical s) : Canonical (freshSett s r i) := .ite (h.setSett (h.mem i)) (h.setSett (h.mem i))

protected theorem freshUnit {u : Nat} (h : Canonical s) : Canonical (freshUnit s u) := .ite h h

protected theorem bindLaunch {t : Tid} {x : Nat} {b : List Byte} {ks : List Nat} (h : Canonical s) : Canonical (bindLaunch s t x b ks) := by
  unfold bindLaunch
  extract_lets c id res vc0 v l setts units z1 z2 boot lib z3 z4 z5
  have h1 : Canonical z1 := h.foldl fun _ _ hz => hz.freshSett
  have h2 : Canonical z2 := .ite h1 (Canonical.loadShared (h1.foldl fun _ _ hz => hz.freshUnit))
  have h3 : Canonical z3 := h2.foldl fun z i hz => by
    have hy : Canonical (boot.foldl (fun s e => installRange s i e) z) := hz.foldl fun _ _ hw => hw.installRange
    exact .ite hy.installRange hy
  have h4 : Canonical z4 := h3
  have h5 : Canonical z5 := h4.foldl fun _ _ hz => hz.bindCore
  exact h5.placementRecord

protected theorem answerMiss {c : Nat} {m : MissRec} {cause : Nat} (h : Canonical s) : Canonical (answerMiss s c m cause) := by
  unfold answerMiss
  extract_lets d z
  have hz : Canonical z := h.setCore (h.spad c)
  clear_value z
  split
  · refine .ite hz ?_
    split
    · exact hz.failColl
    · exact hz
  · exact .ite hz hz.failMark
  · split
    · exact hz
    · exact .ite hz (Canonical.failSignal hz)
  · exact hz.setSett (hz.mem _)
  · split
    · exact .ite hz (.ite hz.setThread hz.setThread.setThread)
    · exact hz

protected theorem grantKind0 {x y : Nat} {b : List Byte} (h : Canonical s) : Gives Canonical (grantKind0 s x y b) := by
  refine .ite trivial (.ite h.grantSlots (.ite trivial ?_))
  split
  · trivial
  · exact h.grantSetts

protected theorem grantKind1 {x y : Nat} {b : List Byte} (h : Canonical s) : Gives Canonical (grantKind1 s x y b) :=
  .ite trivial (.ite trivial (Canonical.ite h.setCtx.setCtx h.setCtx.setCtx.shootdown.drainContexts))

protected theorem grantKind2 {x y : Nat} {b : List Byte} (h : Canonical s) : Gives Canonical (grantKind2 s x y b) :=
  .ite trivial h.setCtx.zeroExtents.setCtx

protected theorem moveRate {y c : Nat} {ds : List Nat} {f : Budget → Budget} (h : Canonical s) : Canonical (moveRate s y c ds f) := h.setCtx

protected theorem grantKind3 {x y : Nat} {b : List Byte} (h : Canonical s) : Gives Canonical (grantKind3 s x y b) := .ite trivial h.moveRate

protected theorem grantKind4 {x y : Nat} {b : List Byte} (h : Canonical s) : Gives Canonical (grantKind4 s x y b) := by
  unfold grantKind4
  split
  · trivial
  · exact .ite trivial (h.setSett (h.mem _))

protected theorem grantKind5 {x y : Nat} {b : List Byte} (h : Canonical s) : Gives Canonical (grantKind5 s x y b) := .ite trivial h.setCtx.setCtx

protected theorem flushStage1 {x va n : Nat} (h : Canonical s) : Canonical (flushStage1 s x va n) := h.setSetts (h.mems.map fun _ he => he)

protected theorem revokeKind {y : Nat} {b : List Byte} (h : Canonical s) : Gives Canonical (revokeKind s y b) := by
  unfold revokeKind
  split
  · exact h.revokeRange
  · exact .ite trivial h.moveRate
  · exact h.flushStage1

protected theorem revoke {t : Tid} {d : Nat} {w : Teardown} (h : Canonical s) : Canonical (Machine.revoke s t d w).1 := by
  have hr : Canonical (revokeStep w { s with teardowns := s.teardowns ++ [w] }).1 := h.setTeardowns.revokeStep
  exact .ite_fst hr.setThread hr

protected theorem execCtxnew {st : BitVec 3} {d a b : BitVec 5} (h : Canonical s) : Steps (execCtxnew st d a b s) := by
  refine h.issue fun hz => .after fun k => .after fun _ => ?_
  dsimp only
  split
  · refine .after fun id => .ite trivial (.ite trivial (.ite trivial (.pair ?_)))
    exact Canonical.setThread (Canonical.setDead (Canonical.setCtx (.ite hz.moveKeys hz)))
  · trivial

protected theorem execCtxgrant {st : BitVec 3} {d a b : BitVec 5} (h : Canonical s) : Steps (execCtxgrant st d a b s) := by
  refine h.issue fun hz => .after fun k => .after fun _ => .ite trivial ?_
  dsimp only
  split
  · exact hz.drainPosted.grantKind0.bind fun _ hy => .pair hy.setThread
  · exact hz.drainPosted.grantKind1.bind fun _ hy => .pair hy.setThread
  · exact hz.drainPosted.grantKind2.bind fun _ hy => .pair hy.setThread
  · exact hz.drainPosted.grantKind3.bind fun _ hy => .pair hy.setThread
  · exact hz.drainPosted.grantKind4.bind fun _ hy => .pair hy.setThread
  · exact hz.drainPosted.grantKind5.bind fun _ hy => .pair hy.setThread

protected theorem execCtxrevoke {st : BitVec 3} {d a b : BitVec 5} (h : Canonical s) : Steps (execCtxrevoke st d a b s) := by
  refine h.issue fun hz => .after fun k => .after fun _ => .ite (.ite (.pair hz.drainPosted.setThread) (.ite trivial ?_)) (.ite trivial (.ite ?_ ?_))
  · refine .ite (.pair hz.drainPosted.beginTeardown.revoke) ?_
    dsimp only
    split
    · exact .pair hz.drainPosted.beginTeardown.revoke
    · trivial
  · exact .ite trivial (.pair hz.drainPosted.revoke)
  · exact hz.drainPosted.revokeKind.bind fun _ hy => .pair hy.setThread

protected theorem execCtxstat {st : BitVec 3} {d a b : BitVec 5} (h : Canonical s) : Steps (execCtxstat st d a b s) :=
  h.issue fun hz => .ite trivial (.ite (.pair hz.setThread) (.ite (.pair hz.setThread) trivial))

protected theorem execResume {st : BitVec 3} {d a b : BitVec 5} (h : Canonical s) : Steps (execResume st d a b s) := by
  refine h.issue fun hz => .after fun k => .after fun _ => .ite trivial (.ite trivial (.ite (.pair hz.drainPosted.setThread) ?_))
  dsimp only
  split
  · exact .pair hz.drainPosted.setThread
  · refine .pair (Canonical.setThread ?_)
    exact .ite hz.drainPosted.forwardHeld hz.drainPosted.resumeThread

protected theorem execLnch {st : BitVec 3} {d a b : BitVec 5} (h : Canonical s) : Steps (execLnch st d a b s) := by
  refine h.issue fun hz => .after fun _ => .ite (.ite (.after fun _ => .pair ?_) trivial) (.ite (.after fun _ => .pair ?_) ?_)
  · exact hz.useBlocks.drainPosted.signalError.setThread
  · exact hz.useBlocks.drainPosted.signalError.setThread
  · exact .after fun _ => .after fun _ => .ite trivial (.pair hz.useBlocks.drainPosted.bindLaunch.setThread)

protected theorem execWkdone {st : BitVec 3} {d a b : BitVec 5} (h : Canonical s) : Steps (execWkdone st d a b s) := by
  refine h.issue fun hz => .ite trivial ?_
  split
  · exact .pair hz.setThread
  · refine .ite (.after fun k => ?_) (.pair hz.answerMiss.setThread)
    dsimp only
    split
    · exact .pair hz.settlePosted.answerMiss.setThread
    · refine .pair (Canonical.setThread (Canonical.answerMiss (.ite hz.settlePosted.installRange ?_)))
      exact hz.settlePosted.setSett (hz.settlePosted.mem _)

protected theorem execReflectionMessage {n : Nat} (h : Canonical s) : Steps (execReflectionMessage n s) := by
  unfold execReflectionMessage
  split
  · refine .ite h ?_
    dsimp only
    split
    · refine .ite h ?_
      exact Canonical.lapse (.ite (Canonical.wakeResident (Canonical.setCore h.setFlights (h.spad _))) (Canonical.setCore h.setFlights (h.spad _)))
    · exact .ite h (.ite h.setFlights.resumeThread.lapse (Canonical.lapse (Canonical.teardownStep h)))
  · exact h

protected theorem refill (h : Canonical s) : Canonical (refill s) := h

protected theorem execBudgetRefill (h : Canonical s) : Steps (execBudgetRefill s) := h.advanceGts.refill.lapse

end Canonical

/-! ## Switches (22) -/

namespace Canonical

variable {s : State}

protected theorem setSwitches {ws : List Switch} (h : Canonical s) : Canonical { s with switches := ws } := h

protected theorem putSwitch {w w' : Switch} (h : Canonical s) : Canonical (putSwitch s w w') := h

protected theorem dropSwitch {w : Switch} (h : Canonical s) : Canonical (dropSwitch s w) := h

protected theorem mapThreads {ts : List Tid} {f : Thread → Thread} (h : Canonical s) : Canonical (mapThreads s ts f) :=
  h.foldl fun _ _ hz => hz.setThread

protected theorem undoDomains {p : Nat} (h : Canonical s) : Canonical (undoDomains s p) := h.foldl fun _ _ hz => .ite hz.abortTasks hz

protected theorem undoWhenStill {p : Nat} (h : Canonical s) : Canonical (undoWhenStill s p) := .ite h h.undoDomains

protected theorem parkFlight {f : Flight} (h : Canonical s) : Canonical (parkFlight s f).1 := by
  unfold parkFlight
  split
  · exact h.answer
  · exact h.answer
  · exact h

protected theorem flushFlights {p : Nat} (h : Canonical s) : Canonical (flushFlights s p).1 :=
  List.foldlRecOn (motive := fun r : State × List Flight => Canonical r.1) _ _ h.setFlights fun _ hr _ _ => Canonical.parkFlight hr

protected theorem freePlace {q : Nat} (h : Canonical s) : Canonical (freePlace s q) := Canonical.setCtx (h.setSett rfl)

protected theorem retimeSlots {p : Nat} (h : Canonical s) : Canonical (retimeSlots s p) := h

protected theorem commitSwitch {w : Switch} (h : Canonical s) : Canonical (commitSwitch s w) := by
  unfold commitSwitch
  extract_lets p xs ks c mask image z1 z2 places z3 z4 c' z5 den
  have h2 : Canonical z2 := h.writeDen.foldl fun z k hz => hz.setCore <| by
    rw [saveCycles_spad]
    exact savedCore_spad_wf _ (hz.spad k)
  have h3 : Canonical z3 := h2.setSetts <| h2.mems.map fun e he => by
    split
    · exact he
    · exact he
  have h5 : Canonical z5 := Canonical.setCtx (h3.foldl fun _ _ hz => hz.freePlace)
  exact (h5.addDen ⟨.nil, .nil⟩).dropSwitch.retimeSlots

protected theorem placeDenSett {p r : Nat} {f : Bool} {i q : Nat} (h : Canonical s) : Canonical (placeDenSett s p r f i q) := by
  unfold placeDenSett
  split
  · exact h
  · extract_lets c lent z1 z2 t z3
    have h2 : Canonical z2 := h.setCtx.eraseSett
    have h3 : Canonical z3 := h2.setSett (h2.mem i)
    exact h3.foldl fun _ _ hz => hz.setCore (hz.spad _)

protected theorem reviveContexts {d : Den} (h : Canonical s) (hd : DenWf d) : Canonical (reviveContexts s d) := by
  unfold reviveContexts
  extract_lets c p cp lend want len cut z1 z2 z3
  have h1 : Canonical z1 := h.setCtx.zeroExtents
  have h2 : Canonical z2 := h1.foldl fun _ _ hz => hz.setCtx
  have h3 : Canonical z3 := h2.moveKeys
  have hc : SpadsWf (d.cores.foldl (fun m e => m.insert e.1 e.2) z3.cores) :=
    List.foldlRecOn (motive := SpadsWf) _ _ h3.spads fun _ hm e he => hm.insert (hd.1 e he)
  have hm : MemsWf (d.setts.foldl (fun m e => m.insert e.1 { e.2 with place := none }) z3.setts) :=
    List.foldlRecOn (motive := MemsWf) _ _ h3.mems fun _ hm e he => hm.insert (hd.2 e he)
  exact (h3.setCores hc).setSetts hm

protected theorem restoreDen {n : Nat} {d : Den} {qs : List Nat} (h : Canonical s) (hd : DenWf d) : Canonical (restoreDen s n d qs) := by
  unfold restoreDen
  extract_lets vs z1 z2 p z3 xs z4
  have h1 : Canonical z1 := h.setDens fun e he => h.dens e (List.mem_of_mem_eraseIdx he)
  have h2 : Canonical z2 := .ite h1 (h1.reviveContexts hd)
  have h3 : Canonical z3 := h2.foldl fun _ _ hz => hz.placeDenSett
  have h4 : Canonical z4 := h3
  exact h4.foldl fun _ _ hz => hz.placementRecords

protected theorem tryRestore {n : Nat} {d : Den} {qs : List Nat} (h : Canonical s) (hd : DenWf d) : Canonical (tryRestore s n d qs) := by
  unfold tryRestore
  split
  · exact h
  · exact h.restoreDen hd

protected theorem resumeIn {w : Switch} (h : Canonical s) : Canonical (resumeIn s w) := by
  unfold resumeIn
  split
  · rename_i d n hm
    have hd : DenWf d := h.dens d (List.fst_mem_of_mem_zipIdx (List.mem_of_find?_eq_some hm))
    exact h.tryRestore hd
  · exact h

protected theorem stopHere {t : Tid} (h : Canonical s) : Canonical (stopHere s t) := h.drainPosted.forgetMiss.setThread

protected theorem stopAtInstant {t : Tid} (h : Canonical s) : Canonical (stopAtInstant s t) := .ite h.setThread h.stopHere

/-- The misses that some cores still wait on are withdrawn. -/
protected theorem withdraw {ks : List Nat} (h : Canonical s) : Canonical (ks.foldl (fun z k => z.setCore k (withdrawMisses (z.core k))) s) :=
  h.foldl fun _ k hz => hz.setCore (hz.spad k)

protected theorem execSwitchSlotArm {im : List (BitVec 8)} (h : Canonical s) : Steps (execSwitchSlotArm im s) := .ite h.setSwitches.lapse h

protected theorem execSwitchTick {p : Nat} (h : Canonical s) : Steps (execSwitchTick p s) := by
  unfold execSwitchTick
  split
  · exact .ite h.advanceGts.dropSwitch.resumeIn.lapse h.advanceGts.mapThreads.putSwitch.lapse
  · exact h

protected theorem execStopInstant {p : Nat} (h : Canonical s) : Steps (execStopInstant p s) := by
  unfold execStopInstant
  split
  · exact h
  · refine .ite h ?_
    extract_lets ts z1 compact z2 z3 z4
    have h1 : Canonical z1 := .ite h.advanceGts h
    have h2 : Canonical z2 := h1.foldl fun _ _ hz => hz.stopAtInstant
    have h4 : Canonical z4 := h2.withdraw.undoWhenStill
    exact h4.putSwitch.lapse

protected theorem execParkBufferFlush {p : Nat} (h : Canonical s) : Steps (execParkBufferFlush p s) := by
  unfold execParkBufferFlush
  split
  · exact h
  · exact .ite h h.advanceGts.flushFlights.putSwitch.lapse

protected theorem execDenSaveReport {p d : Nat} (h : Canonical s) : Steps (execDenSaveReport p d s) := by
  unfold execDenSaveReport
  split
  · exact h
  · refine .ite h ?_
    extract_lets w' z1 z2 z3
    have h1 : Canonical z1 := h.foldl fun _ _ hz => hz.stopHere
    have h3 : Canonical z3 := h1.withdraw.undoWhenStill.putSwitch
    exact Canonical.lapse (.ite h3.commitSwitch.resumeIn h3)

protected theorem execSwitchAbort {p : Nat} (h : Canonical s) : Steps (execSwitchAbort p s) := by
  unfold execSwitchAbort
  split
  · exact h
  · exact .ite h h.advanceGts.undoWhenStill.mapThreads.setCtx.setFlights.dropSwitch.retimeSlots.lapse

protected theorem execDenRestore {n : Nat} {qs : List Nat} (h : Canonical s) : Steps (execDenRestore n qs s) := by
  unfold execDenRestore
  split
  · exact h
  · exact (h.tryRestore (h.dens _ (List.mem_of_getElem? ‹_›))).lapse

end Canonical

/-! ## Collectives, egress and the package (20, 23 to 25) -/

theorem decryptedArchive_wf (m : Memory) (n : Nat) : (decryptedArchive m n).wf = true :=
  List.foldlRecOn (motive := fun z => Memory.wf z = true) _ _ rfl fun _ hz _ _ => Memory.putBytes_wf hz _ _

namespace Canonical

variable {s : State}

protected theorem collIssue {w : BitVec 32} {f : Nat} {st : BitVec 3} {d a : BitVec 5} (h : Canonical s) : Steps (collIssue w f st d a s) := by
  refine h.issue fun hz => .after fun k => .ite trivial (.after fun _ => .after fun _ => ?_)
  refine .ite (.after fun _ => .ite trivial (.pair ?_)) (.ite trivial (.pair ?_))
  · exact Canonical.setThread (Canonical.setContribs (.ite hz.settlePosted.setHandleOf hz.settlePosted))
  · exact Canonical.setThread (Canonical.setContribs (.ite hz.settlePosted.setHandleOf hz.settlePosted))

protected theorem completeRank {bs : List (List Byte)} {e : Contrib × List Nat} (h : Canonical s) : Canonical (completeRank s bs e) := by
  unfold completeRank
  extract_lets c i z1 z2 z3 n z4
  have h3 : Canonical z3 := h.setContribs.useAt.useAt.writePlaces
  have h4 : Canonical z4 := .ite h3.setHandleOf h3
  exact .ite h4.engineSignal h4

protected theorem collTokens {g : Group} {cs : List Contrib} (h : Canonical s) : GivesSome Canonical (collTokens s g cs) := by
  refine .ite h (List.foldlRecOn (motive := GivesSome Canonical) _ _ h fun o ho c _ => ?_)
  cases o with
  | none => trivial
  | some z => exact Canonical.spend ho

protected theorem runCollective {g : Group} {q : BitVec 64} (h : Canonical s) : Canonical (runCollective s g q) := by
  unfold runCollective
  dsimp only
  split
  · exact h.setCollFails.foldl fun _ _ hz => hz.failRank
  · refine .ite h.failColl (.ite h.failColl (.ite h (.ite h ?_)))
    split
    · exact h.ask
    · exact h.failColl
    · split
      · exact h
      · exact Canonical.foldl (h.collTokens.of_eq ‹_›) fun _ _ hz => hz.completeRank

protected theorem markTile {f : Flight} (h : Canonical s) : Canonical (markTile s f) := by
  unfold markTile
  split
  · dsimp only
    split
    · exact h.setFlights.signalError
    · refine .ite h.setFlights.signalError ?_
      split
      · exact h.ask
      · exact .ite h.setFlights.failClip (.ite h.setFlights.useAt.writePlaces.setCtx h.setFlights.useAt.writePlaces.setCtx.engineSignal)
      · exact h.setFlights.failClip
  · exact h

protected theorem finishClip {f : Flight} (h : Canonical s) : Canonical (finishClip s f) := by
  unfold finishClip
  split
  · dsimp only
    split
    · exact h.setFlights.signalError
    · refine .ite h.setFlights.signalError ?_
      split
      · exact h.ask
      · exact .ite h.setFlights.failClip (.ite h.setFlights.useAt.writePlaces.setCtx h.setFlights.useAt.writePlaces.setCtx.engineSignal)
      · exact h.setFlights.failClip
  · exact h

protected theorem applyPoint {d : Nat} (h : Canonical s) : Canonical (applyPoint s d) := h.stepTo

protected theorem govern {d x j p : Nat} (h : Canonical s) : Canonical (govern s d x j p) :=
  .ite (.ite h.setDie.setDie.applyPoint h.setDie.setDie) (.ite (.ite h.setDie.setDie.applyPoint h.setDie.setDie) h.setDie.setDie)

protected theorem startSetts (h : Canonical s) : Canonical (startSetts s) := h.setSetts <| List.forall_mem_map.mpr fun _ _ => rfl

protected theorem startFailed {c l : Bool} {n r : Nat} (h : Canonical s) : Canonical (startFailed s c l n r) := by
  have hz : Canonical (packageReset s (!c)) := h.packageReset
  exact hz

protected theorem start {c : Bool} (h : Canonical s) : Canonical (start s c) :=
  .ite h.startFailed (.ite h.startFailed (.ite h.startFailed
    (Canonical.startSetts ⟨h.dram, decryptedArchive_wf _ _, h.outside, .nil, .nil, nofun⟩)))

protected theorem execEgrs {st : BitVec 3} {d a b : BitVec 5} (h : Canonical s) : Steps (execEgrs st d a b s) := by
  refine h.issue fun hz => .after fun _ => .ite trivial <| .ite trivial <| .ite trivial <| .ite trivial <| .ite trivial <| .ite trivial <|
    .ite trivial <| .after fun _ => .after fun _ => ?_
  dsimp only
  split
  · trivial
  · exact .pair hz.settlePosted.settlePosted.setCtx.setFlights

protected theorem execEgfin {st : BitVec 3} {d a b : BitVec 5} (h : Canonical s) : Steps (execEgfin st d a b s) := by
  refine h.issue fun hz => .after fun k => .ite trivial (.ite trivial (.ite trivial (.ite trivial (.after fun _ => .after fun _ => .pair ?_))))
  exact Canonical.setThread hz.settlePosted.setFlights

protected theorem execCollectiveCompletion {p g : Nat} {q : BitVec 64} (h : Canonical s) : Steps (execCollectiveCompletion p g q s) := by
  unfold execCollectiveCompletion
  split
  · exact h.runCollective.lapse
  · exact h

protected theorem execCollectiveTimeout {p g r : Nat} {q : BitVec 64} (h : Canonical s) : Steps (execCollectiveTimeout p g r q s) := by
  unfold execCollectiveTimeout
  split
  · exact .ite h.failColl.lapse h
  · exact h

protected theorem execCollectiveGroupDefine {x g : Nat} {rs : List (Nat × Nat × Nat)} (h : Canonical s) :
    Steps (execCollectiveGroupDefine x g rs s) :=
  .ite (Canonical.lapse h) h

protected theorem execEgressTileMark (h : Canonical s) : Steps (execEgressTileMark s) := by
  unfold execEgressTileMark
  split
  · exact .ite h.markTile.lapse h
  · exact h

protected theorem execClipRecord (h : Canonical s) : Steps (execClipRecord s) := by
  unfold execClipRecord
  split
  · exact .ite h.finishClip.lapse h
  · exact h

protected theorem execEgressSettingWrite {x n : Nat} {e : Bool} (h : Canonical s) : Steps (execEgressSettingWrite x n e s) := .ite h.setCtx.lapse h

protected theorem hostWrite {w : Nat × List Byte} (h : Canonical s) : Canonical (hostWrite s w) := h.writePlaces

protected theorem execCacheLineInvalidation {a : Nat} {b : List (BitVec 8)} (h : Canonical s) : Steps (execCacheLineInvalidation a b s) := by
  refine .ite (Canonical.lapse (.ite h.hostWrite ?_)) h
  exact h

protected theorem execLinkRetrain (h : Canonical s) : Steps (execLinkRetrain s) := by
  have hz : Canonical { s with linkUp := true, hostWrites := [] } := h
  exact .ite (Canonical.lapse h) (Canonical.lapse (hz.foldl fun _ _ hy => hy.hostWrite))

protected theorem execFabricPortDown {p : Nat} (h : Canonical s) : Steps (execFabricPortDown p s) := .ite h (Canonical.lapse (Canonical.failWhere h))

protected theorem execHostMemoryAccess {a : Nat} {b : List (BitVec 8)} (h : Canonical s) : Steps (execHostMemoryAccess a b s) :=
  .ite h.writePlaces.lapse h

protected theorem execAttestationRequest {b : List (BitVec 8)} (h : Canonical s) : Steps (execAttestationRequest b s) := .ite (Canonical.lapse h) h

protected theorem execMsixWindowWrite {x b n : Nat} (h : Canonical s) : Steps (execMsixWindowWrite x b n s) := .ite h.setCtx.lapse h

protected theorem execStepRequest {d p : Nat} (h : Canonical s) : Steps (execStepRequest d p s) := .ite h.setDie.applyPoint.lapse h

protected theorem execRelockEnd {d : Nat} (h : Canonical s) : Steps (execRelockEnd d s) := h.endRelock.lapse

protected theorem execTimeMasterAlignment {add : Bool} (h : Canonical s) : Steps (execTimeMasterAlignment add s) := by
  have hz : Canonical (if add then { s with slewPlus := s.slewPlus + 1 }
      else { advanceGts s (gts s + 1) with slewMinus := (advanceGts s (gts s + 1)).slewMinus + 1 }) :=
    .ite h h.advanceGts
  exact .ite h (Canonical.lapse hz)

protected theorem execThermalGovernor {d x j p : Nat} (h : Canonical s) : Steps (execThermalGovernor d x j p s) := .ite h.govern.lapse h

protected theorem execRefreshDoubling {d x : Nat} (h : Canonical s) : Steps (execRefreshDoubling d x s) := .ite h h.setDie.lapse

protected theorem execThermalTrip {d x : Nat} (h : Canonical s) : Steps (execThermalTrip d x s) := .ite h.packageReset.lapse h

protected theorem execPlimWrite {w : Nat} (h : Canonical s) : Steps (execPlimWrite w s) := .ite (Canonical.lapse h) h

protected theorem execColdStart (h : Canonical s) : Steps (execColdStart s) := by
  unfold execColdStart
  split
  · exact h
  · exact h.start.lapse

protected theorem execWarmStart (h : Canonical s) : Steps (execWarmStart s) := by
  unfold execWarmStart
  split
  · exact h
  · exact h.start.lapse

protected theorem execHostReset (h : Canonical s) : Steps (execHostReset s) := h.packageReset.lapse

end Canonical

/-! ## Every instruction and event -/

namespace Canonical

variable {s : State}

/-- One arm for each constructor; those that are one shared operation with different values go together. -/
protected theorem exec {i : Instr} (h : Canonical s) : Steps (exec i s) := by
  cases i <;> dsimp only [Machine.exec]
  case add | sub | and | or | xor | shl | shr | sar | min | minN | max | maxN | leaB | leaH | leaW | leaD | bext => exact h.alu2
  case popc | clz | ctz | brev => exact h.alu1
  case bins | sel => exact h.alu3
  case cmpEq | cmpNe | cmpLt | cmpLe | cmpLtn | cmpLen => exact h.cmpRR
  case mul | mulh | mulhN => exact h.mulOp
  case div | divN | rem | remN => exact h.divOp
  case addi | andi | ori | xori | shli | shri | sari => exact h.aluI
  case cmpiEq | cmpiNe | cmpiLt | cmpiLtn => exact h.cmpRI
  case jmp | jmpr | sys | trap => exact h.issue fun hz => .pair hz
  case call | callr => exact h.issue fun hz => .pair hz.setThread
  case csrw | csrset | csrclr => exact h.csrOp
  case ld | ldS => exact h.ldM
  case st | sto => exact h.issue storeBody_keeps
  case pft | migr | illegalInstr => exact h.issue regBody_keeps
  case ldo => exact h.issue loadBody_keeps
  case amoAdd | amoAnd | amoOr | amoXor | amoMin | amoMax | amoMinn | amoMaxn | amoSwap | amoFadd => exact h.amo
  case cas => exact h.issue amoBody_keeps
  case fenceLdld | fenceLdst | fenceStld | fenceStst | fenceAll => exact h.fence
  case vadd | vsub | vmul | vfma | vmin | vmax | vand | vor | vxor | vshl | vshr => exact h.vbin
  case vfmab | vsel | vperm | vrot | vlane | vins | vbcst => exact h.issueV
  case vcmpEq | vcmpNe | vcmpLt | vcmpLe => exact h.vcmp
  case vabs | vneg | vrcp | vrsq | vexp2 | vlog2 | vcvtF2s | vcvtF2n | vcvtS2f | vcvtN2f | vcvtF2b | vcvtF2h | vcvtB2f | vcvtH2f | vcvtF2e4 |
    vcvtF2e5 | vcvtE4f | vcvtE5f => exact h.vun
  case vredSum | vredMin | vredMax | vredAnd | vredOr | vredXor => exact h.vred
  case vscanSum | vscanMin | vscanMax | vscanAnd | vscanOr | vscanXor => exact h.vscan
  case kand | kor | kxor | knot | kmovK | kmovFromG | kmovToG | kpack | kunpk | kpopc => exact h.kOp
  case vqnt | vdq => exact h.issueVSlow
  case vld => exact h.issueVMem fun _ _ _ => vldBody_keeps
  case vst => exact h.issueVMem fun _ _ _ => vstBody_keeps
  case vlds | vgth => exact h.issueVMem fun _ _ _ => gatherBody_keeps
  case vsts | vsct => exact h.issueVMem fun _ _ _ => scatterBody_keeps
  case tlda | tldb | tgtha | tmma | tspm | tzero | tldc | tstc | abal | abfr => exact h.tilePush
  case tgeoOrg | tgeoMask => exact h.tgeo
  case ttask | tgrp => exact h.taskIssue
  case cpy | cpyNb | cpyc | cpycNb => exact h.copyIssue
  case hwait | hacq | hrel | hstat => exact h.handleOp
  case aopAdd | aopAnd | aopOr | aopXor | aopMin | aopMax | aopMinn | aopMaxn | aopSwap | aopFadd | aopFaddBf16 => exact h.aop
  case ared | axpy | afill => exact h.bankIssue
  case collAr | collAg | collRs => exact h.collIssue
  case cnear | cnearLocal => exact h.issue cnearBody_keeps
  case rcall | rcallNb => exact h.issue rcallBody_keeps
  case rread | rreadLocal => exact h.issue rreadBody_keeps
  case himm | hsch | hnop | reservedHint => exact h.issueHint
  case br => exact h.execBr
  case eret => exact h.execEret
  case idle => exact h.execIdle
  case brk => exact h.execBrk
  case mark => exact h.execMark
  case csrr => exact h.execCsrr
  case enter => exact h.execEnter
  case leave => exact h.execLeave
  case bari => exact h.execBari
  case bara => exact h.execBara
  case barw => exact h.execBarw
  case waita => exact h.execWaita
  case sigdec => exact h.execSigdec
  case sigwait => exact h.execSigwait
  case msend => exact h.execMsend
  case mrecv => exact h.execMrecv
  case mpoll => exact h.execMpoll
  case pjack => exact h.execPjack
  case psto => exact h.execPsto
  case spawn => exact h.execSpawn
  case reap => exact h.execReap
  case yield => exact h.execYield
  case ypt => exact h.execYpt
  case fork => exact h.execFork
  case join => exact h.execJoin
  case tend => exact h.execTend
  case tspawn => exact h.execTspawn
  case tstamp => exact h.execTstamp
  case homec => exact h.execHomec
  case mbput => exact h.execMbput
  case mbputRel => exact h.execMbputRel
  case mbget => exact h.execMbget
  case wkdone => exact h.execWkdone
  case scld => exact h.execScld
  case qpush => exact h.execQpush
  case qpop => exact h.execQpop
  case lset => exact h.execLset
  case cpyst => exact h.execCpyst
  case cstv => exact h.execCstv
  case cdel => exact h.execCdel
  case cver => exact h.execCver
  case catnew => exact h.execCatnew
  case catdel => exact h.execCatdel
  case rwait => exact h.execRwait
  case objnew => exact h.execObjnew
  case objdel => exact h.execObjdel
  case hschIdle => exact h.execHschIdle
  case hmod => exact h.execHmod
  case egrs => exact h.execEgrs
  case egfin => exact h.execEgfin
  case ctxnew => exact h.execCtxnew
  case ctxgrant => exact h.execCtxgrant
  case ctxrevoke => exact h.execCtxrevoke
  case ctxstat => exact h.execCtxstat
  case resume => exact h.execResume
  case lnch => exact h.execLnch
  case asynchronousTrap => exact h.execAsynchronousTrap
  case reflectionMessage => exact h.execReflectionMessage
  case stallExpiry => exact h.execStallExpiry
  case hschWaitExpiry => exact h.execHschWaitExpiry
  case interlockedValueWrite => exact h.execInterlockedValueWrite
  case lineWake => exact h.execLineWake
  case cacheLineInvalidation => exact h.execCacheLineInvalidation
  case idleTimeWake => exact h.execIdleTimeWake
  case barrierArrival => exact h.execBarrierArrival
  case barrierReply => exact h.execBarrierReply
  case messageArrival => exact h.execMessageArrival
  case scaleMessage => exact h.execScaleMessage
  case postedStoreApply => exact h.execPostedStoreApply
  case migrationArrival => exact h.execMigrationArrival
  case migrationReturn => exact h.execMigrationReturn
  case recompute => exact h.execRecompute
  case copyChunk => exact h.execCopyChunk
  case cpycVersionCheck => exact h.execCpycVersionCheck
  case copyCompletion => exact h.execCopyCompletion
  case bankLineUpdate => exact h.execBankLineUpdate
  case tileCommandBegin => exact h.execTileCommandBegin
  case tileChunk => exact h.execTileChunk
  case completionWordPost => exact h.execCompletionWordPost
  case taskDispatch => exact h.execTaskDispatch
  case taskCompletion => exact h.execTaskCompletion
  case logAppend => exact h.execLogAppend
  case entryApply => exact h.execEntryApply
  case rreadRun => exact h.execRreadRun
  case searchAdmission => exact h.execSearchAdmission
  case searchStep => exact h.execSearchStep
  case budgetRefill => exact h.execBudgetRefill
  case switchSlotArm => exact h.execSwitchSlotArm
  case switchTick => exact h.execSwitchTick
  case stopInstant => exact h.execStopInstant
  case parkBufferFlush => exact h.execParkBufferFlush
  case denSaveReport => exact h.execDenSaveReport
  case switchAbort => exact h.execSwitchAbort
  case denRestore => exact h.execDenRestore
  case stepRequest => exact h.execStepRequest
  case relockEnd => exact h.execRelockEnd
  case thermalGovernor => exact h.execThermalGovernor
  case refreshDoubling => exact h.execRefreshDoubling
  case thermalTrip => exact h.execThermalTrip
  case plimWrite => exact h.execPlimWrite
  case linkRetrain => exact h.execLinkRetrain
  case fabricPortDown => exact h.execFabricPortDown
  case hostMemoryAccess => exact h.execHostMemoryAccess
  case attestationRequest => exact h.execAttestationRequest
  case collectiveCompletion => exact h.execCollectiveCompletion
  case collectiveTimeout => exact h.execCollectiveTimeout
  case egressTileMark => exact h.execEgressTileMark
  case clipRecord => exact h.execClipRecord
  case samplingPulse => exact h.execSamplingPulse
  case breakpointMatch => exact h.execBreakpointMatch
  case debugRun => exact h.execDebugRun
  case debugStep => exact h.execDebugStep
  case debugHalt => exact h.execDebugHalt
  case spoorControlWrite => exact h.execSpoorControlWrite
  case coldStart => exact h.execColdStart
  case warmStart => exact h.execWarmStart
  case scWindowClose => exact h.execScWindowClose
  case timeMasterAlignment => exact h.execTimeMasterAlignment
  case coreSoftError => exact h.execCoreSoftError
  case debugRegisterAccess => exact h.execDebugRegisterAccess
  case egressSettingWrite => exact h.execEgressSettingWrite
  case collectiveGroupDefine => exact h.execCollectiveGroupDefine
  case msixWindowWrite => exact h.execMsixWindowWrite
  case hostReset => exact h.execHostReset

protected theorem execLate {l : LateInstr} (h : Canonical s) : Steps (execLate l s) := by
  cases l <;> dsimp only [Machine.execLate]
  case hnop | reservedHint => exact h.issueHint
  case egrs => exact h.execEgrs
  case egfin => exact h.execEgfin
  case ctxnew => exact h.execCtxnew
  case ctxgrant => exact h.execCtxgrant
  case ctxrevoke => exact h.execCtxrevoke
  case ctxstat => exact h.execCtxstat
  case resume => exact h.execResume
  case lnch => exact h.execLnch

end Canonical

/-! ## A thread's turn -/

namespace Canonical

variable {s : State}

protected theorem runFetched {f : Fetched} (h : Canonical s) : Steps (runFetched f s) := by
  cases f with
  | inl i => exact h.exec
  | inr l => exact h.execLate

protected theorem runWord {w : BitVec 32} (h : Canonical s) : Steps (runWord w s) := by
  unfold runWord
  split
  · exact h.runFetched
  · exact Canonical.exec (i := .illegalInstr w) h

protected theorem stepEnd {t : Tid} (h : Canonical s) : Canonical (stepEnd s t) := .ite h.haltAt h

protected theorem chainDone {t : Tid} (h : Canonical s) : Canonical (chainDone s t) := .ite h.setThread h

protected theorem noteTurn {t : Tid} (h : Canonical s) : Canonical (noteTurn s t) := .ite (h.setCore (h.spad _)) h

protected theorem interlock {t : Tid} (h : Canonical s) : Canonical (interlock s t) := by
  refine .ite ?_ h
  split
  · exact h
  · split
    · exact .ite h.setThread h
    · exact h

protected theorem stopAtChain {t : Tid} (h : Canonical s) : Canonical (stopAtChain s t) := .ite h.stopHere h

protected theorem endYield {t : Tid} (h : Canonical s) : Canonical (endYield s t) := .ite h h.setThread

protected theorem issueWord {t : Tid} (h : Canonical s) : Steps (issueWord s t) := by
  unfold issueWord
  split
  · exact h.execBreakpointMatch
  · rename_i z hz
    have hc : Canonical z := by
      have hb := h.breakCheck (t := t)
      rwa [hz] at hb
    extract_lets o
    have ho : Steps o := by
      unfold o
      split
      · exact hc.atIssue.fetchStop
      · exact hc.useAt.runWord
    clear_value o
    split
    · exact .ite h.setThread (Canonical.chainDone ho)
    · exact ho

protected theorem takeOwedTrap {t : Tid} {code : Nat} {eval : Word} (h : Canonical s) : Steps (takeOwedTrap s t code eval) := h.atIssue.stopped

protected theorem turn {t : Tid} (h : Canonical s) : Steps (turn s t) := by
  have hz : Canonical (residentSlot { s with cur := t } t.core) := Canonical.residentSlot h
  unfold turn
  dsimp only
  split
  · exact hz.takeOwedTrap
  · refine .ite ?_ (.ite ?_ (.ite hz.stepEnd hz.issueWord))
    · split
      · exact hz.stopped
      · exact .ite hz.interlock hz.execAsynchronousTrap
    · exact hz.execMigrationReturn

end Canonical

theorem Steps.afterTurn {t : Tid} {s : State} {o : Out} (h : Steps o) : Steps (afterTurn t s o) := by
  cases o with
  | next y => exact .ite h (Canonical.residentSlot h).noteTurn.interlock.stopAtChain.stepEnd
  | fault e => exact h
  | refused r => exact h

namespace Canonical

variable {s : State}

protected theorem runThread {t : Tid} (h : Canonical s) : Steps (runThread t s) := .ite h.endYield.turn.afterTurn h

/-! ## What moves beside the threads -/

protected theorem planeRead {n : Nat} (h : Canonical s) : Canonical (planeRead n s) := by
  unfold planeRead
  split
  · exact .ite h h.setFlights.reply
  · exact h

protected theorem signalStep {q : SigOp} (h : Canonical s) : Canonical (signalStep q s) := by
  refine .ite h ?_
  have hg : Canonical { s with signals := s.signals.erase q } := h
  dsimp only
  split
  · exact hg.trySignal.of_eq ‹_›
  · exact .ite h hg.postMiss
  · exact hg.failSignal
  · exact hg

end Canonical

/-- A move of the schedule, which may run in any state. -/
def MoveKeeps (m : State → Out) : Prop := ∀ s, Canonical s → Steps (m s)

theorem flightMoves_keep (n : Nat) (fs : List Flight) : ∀ m ∈ flightMoves n fs, MoveKeeps m := by
  induction fs generalizing n with
  | nil => nofun
  | cons f fs ih =>
    refine List.forall_mem_cons.mpr ⟨?_, ih (n + 1)⟩
    cases f with
    | barArrive => exact fun _ h => h.execBarrierArrival
    | barReply => exact fun _ h => h.execBarrierReply
    | msg => exact fun _ h => h.execMessageArrival
    | scale => exact fun _ h => h.execScaleMessage
    | psto => exact fun _ h => h.execPostedStoreApply
    | migr => exact fun _ h => h.execMigrationArrival
    | reflection => exact fun _ h => h.execReflectionMessage
    | bank => exact fun _ h => h.execBankLineUpdate
    | append => exact fun _ h => h.execLogAppend
    | egress => exact fun _ h => h.execEgressTileMark
    | planes => exact fun _ h => h.planeRead.lapse
    | egfin => exact fun _ h => h.execClipRecord

theorem poll_keeps (t : Tid) : MoveKeeps (poll t) := fun s h => by
  have hw := h.execLineWake (c := t.core) (t := t.thr)
  unfold poll
  split
  · rename_i z hz
    have hc := hw.of_eq hz
    refine .ite ?_ hc
    split
    · exact .ite h.lapse hc
    · exact hc
  · exact hw

/-! ## The schedule's choice, and the step -/

theorem GivesSome.findSome? {α β : Type} {p : β → Prop} {f : α → Option β} {l : List α} (h : ∀ a ∈ l, GivesSome p (f a)) :
    GivesSome p (l.findSome? f) := by
  cases e : l.findSome? f with
  | none => trivial
  | some b =>
    obtain ⟨a, ha, hb⟩ := List.exists_of_findSome?_eq_some e
    exact (h a ha).of_eq hb

/-- Every member of a list has a property. -/
def Each {α : Type} (p : α → Prop) (l : List α) : Prop := ∀ a ∈ l, p a

namespace Each

variable {α β : Type} {p : α → Prop} {a : α} {l l' : List α} {bs : List β}

protected theorem nil : Each p [] := nofun

protected theorem cons (h : p a) (hs : Each p l) : Each p (a :: l) := List.forall_mem_cons.mpr ⟨h, hs⟩

protected theorem append (h : Each p l) (h' : Each p l') : Each p (l ++ l') := List.forall_mem_append.mpr ⟨h, h'⟩

protected theorem map {f : β → α} (h : ∀ b, p (f b)) : Each p (bs.map f) := List.forall_mem_map.mpr fun b _ => h b

protected theorem flatMap {f : β → List α} (h : ∀ b, Each p (f b)) : Each p (bs.flatMap f) := List.forall_mem_flatMap.mpr fun b _ => h b

protected theorem filterMap {f : β → Option α} (h : ∀ b, GivesSome p (f b)) : Each p (bs.filterMap f) := fun _ ha =>
  have ⟨b, _, e⟩ := List.mem_filterMap.mp ha
  (h b).of_eq e

protected theorem ite {c : Prop} [Decidable c] (h : Each p l) (h' : Each p l') : Each p (if c then l else l') := by
  split
  · exact h
  · exact h'

end Each

/-- Every move of a list keeps canonical states canonical. -/
abbrev MovesKeep (ms : List (State → Out)) : Prop := Each MoveKeeps ms

theorem waitMoves_keep (s : State) (t : Tid) : MovesKeep (waitMoves s t) := by
  refine .ite (.cons (fun _ h => h.execAsynchronousTrap) .nil) ?_
  split
  · exact .cons (fun _ h => h.execRreadRun) (.cons (poll_keeps t) .nil)
  · exact .cons (fun _ h => h.execSearchAdmission) (.cons (fun _ h => h.execSearchStep) (.cons (poll_keeps t) .nil))
  · exact .cons (fun _ h => h.execHschWaitExpiry) .nil
  · exact .ite (.cons (poll_keeps t) .nil) .nil
  · exact .ite (.cons (poll_keeps t) .nil) .nil
  · exact .cons (poll_keeps t) .nil
  · exact .cons (poll_keeps t) .nil
  · exact .nil

theorem tileMoves_keep (s : State) (c : Nat) : MovesKeep (tileMoves s c) := by
  refine .append (.append (.append (.append ?_ ?_) ?_) ?_) ?_
  · exact .ite (.cons (fun _ h => h.execTileCommandBegin) .nil) .nil
  · exact .ite .nil (.cons (fun _ h => h.execTileChunk) .nil)
  · exact .map fun _ _ h => h.execTileChunk
  · exact .map fun _ _ h => h.execTaskCompletion
  · exact .map fun _ _ h => h.execCompletionWordPost

theorem unitMoves_keep (s : State) (u : Nat) : MovesKeep (unitMoves s u) := by
  refine .ite .nil ?_
  split
  · refine .ite .nil (.ite (.cons (fun _ h => h.execTaskDispatch) .nil) (.filterMap fun c => ?_))
    cases (List.range 64).find? _ with
    | none => trivial
    | some b => exact fun _ h => h.execTaskDispatch
  · exact .nil

theorem applyMoves_keep (s : State) : MovesKeep (applyMoves s) :=
  .append (.flatMap fun _ => .map fun _ _ h => h.execEntryApply) (.flatMap fun _ => .map fun _ _ h => h.execEntryApply)

theorem dueMoves_keep (s : State) : MovesKeep (dueMoves s) :=
  .append (.map fun _ _ h => h.execCollectiveCompletion) (.flatMap fun _ => .ite (.map fun _ _ h => h.execDenSaveReport) .nil)

theorem workMoves_keep (s : State) : MovesKeep (workMoves s) := by
  refine .append (.append (.append (.append (.append (.append (.append (.append ?_ ?_) ?_) ?_) ?_) ?_) ?_) ?_) ?_
  · exact flightMoves_keep 0 s.flights
  · refine .flatMap fun _ => .cons (fun _ h => h.execCopyChunk) (.cons (fun _ h => h.execCpycVersionCheck) ?_)
    exact .cons (fun _ h => h.execCopyCompletion) .nil
  · exact .flatMap fun e => tileMoves_keep s e.1
  · exact .flatMap fun e => unitMoves_keep s e.1
  · exact applyMoves_keep s
  · exact dueMoves_keep s
  · exact .map fun _ _ h => h.signalStep.lapse
  · exact .map fun _ _ h => h.teardownStep.lapse
  · exact .flatMap fun e => .flatMap fun i => waitMoves_keep s ⟨e.1, i⟩

/-- Every timed move of a list keeps canonical states canonical. -/
abbrev TimedKeep (ms : List (Nat × (State → Out))) : Prop := Each (fun m => MoveKeeps m.2) ms

theorem switchMoves_keep (s : State) : TimedKeep (switchMoves s) := by
  refine .flatMap fun w => ?_
  split
  · split
    · exact .cons (fun _ h => h.execSwitchTick) .nil
    · exact .nil
  · exact .cons (fun _ h => h.execStopInstant) .nil
  · refine .append ?_ (.cons (fun _ h => h.execSwitchAbort) .nil)
    split
    · exact .nil
    · exact .cons (fun _ h => h.execParkBufferFlush) .nil

theorem timedMoves_keep (s : State) : TimedKeep (timedMoves s) := by
  refine .append (.append (.append (.append (.append (.append (.append (.append (.cons ?_ ?_) ?_) ?_) ?_) ?_) ?_) ?_) ?_) ?_
  · exact fun _ h => h.execBudgetRefill
  · refine .filterMap fun d => ?_
    cases (s.die d).relock with
    | none => trivial
    | some r => exact fun _ h => h.execRelockEnd
  · exact .map fun _ _ h => h.execScWindowClose
  · refine .filterMap fun c => ?_
    split
    · exact .ite (fun _ h => h.execCollectiveTimeout) trivial
    · trivial
  · exact switchMoves_keep s
  · refine .flatMap fun e => .filterMap fun i => ?_
    split
    · exact fun _ h => h.execIdleTimeWake
    · trivial
  · refine .filterMap fun e => ?_
    split
    · exact .ite trivial fun _ h => h.execRecompute
    · trivial
  · exact .filterMap fun e => .ite (fun _ h => h.execSamplingPulse) trivial
  · refine .filterMap fun e => ?_
    split
    · exact .ite (fun _ h => h.execReflectionMessage) trivial
    · trivial
  · refine .flatMap fun e => .filterMap fun i => .ite ?_ trivial
    cases ((e.2.thread i).owed.map (·.due)).min? with
    | none => trivial
    | some c => exact fun _ h => h.execInterlockedValueWrite

theorem nextTimed_keeps (s : State) : MoveKeeps (nextTimed s).2 := by
  refine List.foldlRecOn (motive := fun b : Nat × (State → Out) => MoveKeeps b.2) _ _ (fun _ h => h.execBudgetRefill) fun b hb m hm => ?_
  split
  · exact timedMoves_keep s m hm
  · exact hb

/-- The first of some moves that does something. -/
theorem firstMove_steps {s z : State} (h : Canonical z) {ms : List (State → Out)} (hs : MovesKeep ms) :
    GivesSome Steps (ms.findSome? fun m => if moved s (m z) then some (m z) else none) :=
  GivesSome.findSome? fun m hm => .ite (hs m hm z h) trivial

namespace Canonical

variable {s : State}

protected theorem someMove {k : Nat} (h : Canonical s) : GivesSome Steps (someMove s k) :=
  firstMove_steps h <| .append (fun m hm => workMoves_keep s m (List.mem_of_mem_drop hm)) fun m hm => workMoves_keep s m (List.mem_of_mem_take hm)

protected theorem residentWake (h : Canonical s) : GivesSome Steps (residentWake s) :=
  GivesSome.findSome? fun e _ => .ite (firstMove_steps h (waitMoves_keep s ⟨e.1, 13⟩)) trivial

/-- The first of some moves that does something, or another where none does. -/
protected theorem orElse {o : Option Out} {y : Out} (ho : GivesSome Steps o) (hy : Steps y) : Steps (o.getD y) := by
  cases o with
  | some x => exact ho
  | none => exact hy

protected theorem automatic (h : Canonical s) : Steps (automatic s) := by
  unfold automatic
  split
  · exact .ite h.execColdStart h.execWarmStart
  · exact h.lapse
  · extract_lets z m timed
    have hz : Canonical z := h
    have hm : Steps timed := nextTimed_keeps z _ hz
    split
    · refine .ite hm ?_
      split
      · exact hz.residentWake.of_eq ‹_›
      · exact .ite hz.runThread (Canonical.orElse hz.someMove hz.runThread)
    · refine .ite hm ?_
      split
      · exact hz.residentWake.of_eq ‹_›
      · exact Canonical.orElse hz.someMove hm

protected theorem settleRefill (h : Canonical s) : Canonical (settleRefill s) := .ite h.refill h

protected theorem step (h : Canonical s) : Steps (step s) := by
  have hz (ms : List Move) : Canonical { settleRefill s with agenda := ms } := h.settleRefill
  unfold step
  dsimp only
  split
  · exact .ite (hz _) (hz _).exec
  · exact (hz _).runThread
  · exact h.settleRefill.automatic

end Canonical

/-- Settles O60: every function that the step is made of keeps the memories of a canonical state in canonical form, down to the writes of
single bytes. -/
theorem memoryStaysCanonical : Obligations.MemoryStaysCanonical := fun _ _ h e => (Canonical.step h).of_eq e

end Sys2Proof

namespace Sys2Proof

open Machine

/-! ## A step of a thread that issues (R96, R396) -/

/-- An instruction's word runs as the instruction that it decodes to. -/
theorem runWord_of_ok {w : BitVec 32} {i : Instr} (h : decodeWord w = .ok i) (s : State) : runWord w s = exec i s := by
  obtain ⟨f, hr, hw, rfl⟩ := decodeWord_eq_ok.mp h
  have hd : decodeFetched w = .ok f := by
    unfold decodeFetched
    rw [hr]
    exact if_pos hw
  unfold runWord
  rw [hd]
  cases f with
  | inl j => rfl
  | inr l => cases l <;> rfl

/-- The words that follow in a thread's chain are issued where no trap, return, stop or step comes before (R96, R109, R161, R396). -/
theorem turn_issues {a z : State} {t : Tid} (hz : residentSlot { a with cur := t } t.core = z) (howed : (z.thread t).owedTrap = none)
    (hasync : asyncReady z t = false)
    (hhome : (z.thread t).homeOf = none ∨ (z.thread t).chain ≠ none ∨ (z.thread t).inh = true ∨ (z.thread (homeTid z t)).asyncq = [])
    (hstep : (z.thread t).stepOne = false ∨ (z.thread t).passBreak = true ∨ (z.thread t).chain ≠ none) :
    turn a t = issueWord z t := by
  have hreturn : ((z.thread t).homeOf.isSome && (z.thread t).chain.isNone && !(z.thread t).inh &&
      !(z.thread (homeTid z t)).asyncq.isEmpty) = false := by
    rcases hhome with h | h | h | h <;> simp [h]
  have hend : ((z.thread t).stepOne && !(z.thread t).passBreak && (z.thread t).chain.isNone) = false := by
    rcases hstep with h | h | h <;> simp [h, Option.isSome_iff_ne_none]
  unfold turn
  simp only [hz, howed, hasync, hreturn, hend, Bool.false_eq_true, if_false]

/-- What becomes of a thread's word that answered `o`, run in the state `y` that the breakpoints left: a word that only waits leaves
them as they were (R395). -/
def afterWord (z y : State) (t : Tid) (o : Out) : Out :=
  match o with
  | .next x => if onlyWaits y x then .next (z.setThread t { z.thread t with readyAt := (x.thread t).readyAt }) else .next (chainDone x t)
  | o => o

/-- The word of a thread at which no breakpoint matches runs as what it decodes to. -/
theorem issueWord_runs {z : State} {t : Tid} {w : BitVec 32} {i : Instr} (hb : (breakCheck z t).2 = none)
    (hf : fetchWord (breakCheck z t).1 t = .ok w) (hd : decodeWord w = .ok i) :
    issueWord z t = afterWord z (breakCheck z t).1 t
      (exec i (useAt (breakCheck z t).1 (viewOf (breakCheck z t).1 t) ((breakCheck z t).1.thread t).pc 4)) := by
  have hc : breakCheck z t = ((breakCheck z t).1, none) := by rw [← hb]
  unfold issueWord
  rw [hc]
  dsimp only
  rw [hf]
  dsimp only
  rw [runWord_of_ok hd]
  rfl

/-- Settles O4: no refill is due, so the agenda's thread has its turn; nothing comes before its word, which is the instruction's. -/
theorem stepRunsDecoded : Obligations.StepRunsDecoded := by
  unfold Obligations.StepRunsDecoded
  intro s t rest w i a z hrefill hagenda hmay howed hasync hhome hstep hbreak hfetch hdecode y
  have hs : settleRefill s = s := if_neg (Nat.not_le.mpr hrefill)
  have hrun : step s = runThread t a := by
    unfold step
    dsimp only
    rw [hs, hagenda]
  rw [hrun, runThread, if_pos hmay, turn_issues rfl howed hasync hhome hstep]
  exact congrArg (afterTurn t a) (issueWord_runs hbreak hfetch hdecode)

end Sys2Proof

namespace Sys2Proof

open Machine

/-! ## Traps and returns: the thread's registers (R41, R98, R108) -/

theorem getLsbD_setBit_same (w : Word) (b : Bool) {i : Nat} (h : i < 64) : (setBit w i b).getLsbD i = b := by
  cases b <;> simp [setBit, h]

theorem getLsbD_setBit_ne (w : Word) (b : Bool) {i j : Nat} (h : j ≠ i) : (setBit w i b).getLsbD j = w.getLsbD j := by
  have hs : (1#64 <<< i).getLsbD j = false := by
    rw [BitVec.getLsbD_shiftLeft, BitVec.getLsbD_one]
    simp
    omega
  cases b
  · simp only [setBit, Bool.false_eq_true, if_false, BitVec.getLsbD_and, BitVec.getLsbD_not, hs]
    by_cases hj : j < 64
    · simp [hj]
    · simp [BitVec.getLsbD_of_ge w j (by omega)]
  · simp [setBit, hs]

/-- The low byte of CAUSE is the code (Table 22.1). -/
theorem causeWord_code (th : Thread) {code : Nat} (async : Bool) (h : code < 256) : (causeWord th code async).toNat % 256 = code := by
  have hlow : (causeWord th code async).setWidth 8 = BitVec.ofNat 8 code := by
    apply BitVec.eq_of_getLsbD_eq
    intro j hj
    unfold causeWord
    rw [BitVec.getLsbD_setWidth, getLsbD_setBit_ne _ _ (by omega), getLsbD_setBit_ne _ _ (by omega), Nat.mod_eq_of_lt h]
    simp only [BitVec.getLsbD_ofNat, hj, Nat.lt_trans hj (by omega : 8 < 64)]
    rfl
  have := congrArg BitVec.toNat hlow
  simpa [Nat.mod_eq_of_lt h] using this

/-- CAUSE bit 14 tells an asynchronous trap (Table 22.1). -/
theorem causeWord_async (th : Thread) (code : Nat) (async : Bool) : (causeWord th code async).getLsbD 14 = async := by
  unfold causeWord
  rw [getLsbD_setBit_ne _ _ (by omega), getLsbD_setBit_same _ _ (by omega)]

/-- What completing the results leaves beside the registers. -/
theorem complete_tvec (th : Thread) : th.complete.tvec = th.tvec := (congrArg Thread.tvec (complete_rest th) :)
theorem complete_tctl (th : Thread) : th.complete.tctl = th.tctl := (congrArg Thread.tctl (complete_rest th) :)
theorem complete_epc (th : Thread) : th.complete.epc = th.epc := (congrArg Thread.epc (complete_rest th) :)

/-- The registers of `x` are those of `th` with every pending result written (R41). -/
structure Completes (th x : Thread) : Prop where
  g : x.g = th.complete.g
  v : x.v = th.complete.v
  k : x.k = th.complete.k
  pend : x.pend = []

section Completes

variable {th x : Thread} (h : Completes th x)
include h

theorem Completes.file (f : RegFile) (i : Nat) : x.file f i = th.complete.file f i := by
  cases f <;> simp only [Thread.file, h.g, h.v, h.k]

theorem Completes.read (f : RegFile) (i : Nat) : x.read f i = th.complete.read f i := by
  unfold Thread.read
  rw [h.pend, complete_pend, h.file]
  rfl

theorem Completes.readG {i : Nat} (hi : i < 32) : x.readG i = th.finalG i := by
  rw [← complete_readG th i hi]
  unfold Thread.readG
  rw [h.read]

theorem Completes.readV {i : Nat} (hi : i < 32) : x.readV i = th.finalV i := by
  rw [← complete_readV th i hi]
  exact h.read .v i

theorem Completes.readK {i : Nat} (hi : i < 8) : x.readK i = th.finalK i := by
  rw [← complete_readK th i hi]
  unfold Thread.readK
  rw [h.read]

end Completes

/-! ## Taking a trap (R108, R349) -/

/-- The thread at the first word of its handler (R108). -/
def handlerThread (z : State) (t : Tid) (code : Nat) (eval epc : Word) (async : Bool) : Thread :=
  { trapRegs (z.thread t) code eval epc async with
    tctl := setBit (z.thread t).tctl 4 true
    pc := (z.thread t).tvec &&& ~~~3#64
    run := .ready
    readyAt := dieCycle z (dieOf z t.core) + 3
    stallEnd := dieCycle z (dieOf z t.core) + 3 }

theorem completes_handlerThread (z : State) (t : Tid) (code : Nat) (eval epc : Word) (async : Bool) :
    Completes (z.thread t) (handlerThread z t code eval epc async) := ⟨rfl, rfl, rfl, rfl⟩

/-- Entering the handler changes the thread alone, once its posted stores are performed. -/
theorem enterHandler_eq (s : State) (t : Tid) (code : Nat) (eval epc : Word) (async : Bool) :
    enterHandler s t code eval epc async =
      (drainPosted s t).setThread t (handlerThread (drainPosted s t) t code eval epc async) := by
  unfold handlerThread
  rw [← complete_tvec, ← complete_tctl]
  rfl

/-- A trap of a thread that has a handler, in a context other than 0 whose parent does not ask for it (R108). -/
theorem takeTrap_enters {s : State} {t : Tid} {code : Nat} {eval epc : Word} {async : Bool} (hm : s.meth = none) (hx : ctxOf s t ≠ 0)
    (hi : (s.thread t).inh = false) (hv : (s.thread t).tvec >>> 2 ≠ 0)
    (hr : (s.ctx (ctxOf s t)).reflect.getLsbD (code / 16) = false) (hs : code ≠ cSYSCALL) (hd : code ≠ cDOUBLE_TRAP) :
    takeTrap s t code eval epc async = enterHandler s t code eval epc async := by
  unfold takeTrap
  rw [hm]
  dsimp only
  rw [hi, if_neg hx, if_neg]
  · rfl
  · rintro (h | h | h | h)
    exacts [hs h, hd h, by simp [hr] at h, hv h]

/-- A trap under TCTL.INH 1, in a context other than 0, is reflected as DOUBLE_TRAP (R349). -/
theorem takeTrap_reflects {s : State} {t : Tid} {code : Nat} {eval epc : Word} {async : Bool} (hm : s.meth = none) (hx : ctxOf s t ≠ 0)
    (hi : (s.thread t).inh = true) :
    takeTrap s t code eval epc async =
      reflect s t cDOUBLE_TRAP (BitVec.ofNat 64 (code + if async then 256 else 0)) epc async := by
  unfold takeTrap
  rw [hm]
  simp [hi, hx]

/-- The thread as a reflected trap leaves it, held for its parent (R349). -/
def heldThread (z : State) (t : Tid) (code : Nat) (eval epc : Word) (async : Bool) : Thread :=
  { trapRegs (z.thread t) code eval epc async with
    run := .held
    heldFor := some ((z.ctx (ctxOf z t)).parent, gts z) }

/-- A reflected trap changes the thread and adds the message to the parent's dispatcher. -/
theorem reflect_eq (s : State) (t : Tid) (code : Nat) (eval epc : Word) (async : Bool) :
    ∃ fs, reflect s t code eval epc async =
      { (drainPosted s t).setThread t (heldThread (drainPosted s t) t code eval epc async) with flights := fs } := ⟨_, rfl⟩

/-- A change of what is in flight, taken back, is none. -/
theorem OnlyThread.restore_flights {t : Tid} {z y : State} (h : OnlyThread t z y) (hf : y.flights = z.flights) (fs : List Flight) :
    OnlyThread t z { ({ y with flights := fs } : State) with flights := z.flights } := by
  rw [← hf]
  exact h

/-- Settles O8: entering the handler and reflecting are one change of the thread, after its posted stores. -/
theorem trapEntry : Obligations.TrapEntry := by
  unfold Obligations.TrapEntry
  intro s t code eval epc async z th ht hm hx
  refine ⟨fun hi hv hr hs hd hc => ?_, fun hi => ?_⟩
  · rw [takeTrap_enters hm hx hi hv hr hs hd, enterHandler_eq]
    intro s' x
    have hth : x = handlerThread z t code eval epc async := setThread_thread _ _ _ ht
    have hc' : Completes th x := hth ▸ completes_handlerThread z t code eval epc async
    refine ⟨onlyThread_setThread _ _ _, ?_, ?_, ?_, ?_, ?_, ?_, ?_, ?_, hc'.pend, ?_, ?_, ?_,
      fun i h => ⟨hc'.readG h, hc'.readV h⟩, fun i h => hc'.readK h⟩
    all_goals rw [hth]
    exacts [rfl, causeWord_code _ async hc, causeWord_async _ _ _, rfl, getLsbD_setBit_same _ _ (by omega), rfl, rfl, rfl, rfl, rfl, rfl]
  · obtain ⟨fs, hf⟩ := reflect_eq s t cDOUBLE_TRAP (BitVec.ofNat 64 (code + if async then 256 else 0)) epc async
    rw [takeTrap_reflects hm hx hi, hf]
    intro s' x
    have hth : x = heldThread z t cDOUBLE_TRAP (BitVec.ofNat 64 (code + if async then 256 else 0)) epc async :=
      setThread_thread _ _ _ ht
    rw [hth]
    exact ⟨(onlyThread_setThread _ _ _).restore_flights (setThread_flights _ _ _) fs, causeWord_code _ async (by decide), rfl, rfl, rfl⟩

/-! ## ERET (R108, R127) -/

/-- The thread past its handler (R127). -/
def returnThread (z : State) (t : Tid) : Thread :=
  { (z.thread t).complete.dropLatches with
    tctl := setBit (z.thread t).tctl 4 false
    pc := (z.thread t).epc &&& ~~~3#64
    chain := none
    readyAt := dieCycle z (dieOf z t.core) + 3
    stallEnd := dieCycle z (dieOf z t.core) + 3 }

/-- The return changes the thread alone, once its posted stores are performed. -/
theorem eret_eq (s : State) (t : Tid) : eret s t = (drainPosted s t).setThread t (returnThread (drainPosted s t) t) := by
  unfold returnThread
  rw [← complete_epc, ← complete_tctl]
  rfl

theorem completes_returnThread (z : State) (t : Tid) (n : Nat) : Completes (z.thread t) ((returnThread z t).readyFrom n) := ⟨rfl, rfl, rfl, rfl⟩

/-- Beside its pc, its registers and the state of its issue the return changes TCTL alone. -/
theorem returnThread_rest (z : State) (t : Tid) (n : Nat) :
    ({ (returnThread z t).readyFrom n with tctl := 0 } : Thread).rest = ({ z.thread t with tctl := 0 } : Thread).rest :=
  congrArg (fun r : Thread => { r with tctl := 0 }) (complete_rest (z.thread t))

/-- Settles O9: the body of ERET is the return, and the thread is ready where it says. -/
theorem eretReturns : Obligations.EretReturns := by
  unfold Obligations.EretReturns
  intro st d a b s f z th hi hinh
  have ht : s.cur.thr < 16 := hi.context
  obtain ⟨s', he, ho, hs'⟩ := settles_of (i := .eret st d a b) (f := f) (op :=
    { word := 24#7 ++ st ++ d ++ a ++ b ++ 0#7, stall := st.toNat, legal := s.me.inh, home := true, awaits := .divide })
    (z := (eret (begun f s) s.cur).setThread s.cur (((eret (begun f s) s.cur).thread s.cur).readyFrom
      (issueCycle (begun f s) s.cur + 1 + max st.toNat 2))) rfl ⟨hinh, rfl, rfl, rfl, rfl, rfl, rfl, rfl⟩ hi rfl
  rw [eret_eq, setThread_thread _ _ _ ht] at ho hs'
  rw [setThread_thread _ _ _ ht] at hs'
  refine ⟨s', he, ?_⟩
  beta_reduce
  intro x
  have hx : x = (returnThread z s.cur).readyFrom (issueCycle (begun f s) s.cur + 1 + max st.toNat 2) := hs'
  have hc : Completes th x := hx ▸ completes_returnThread z s.cur _
  refine ⟨((onlyThread_setThread _ _ _).trans (onlyThread_setThread _ _ _)).trans ho, ?_, ?_, ?_, ?_, ?_, ?_, hc.pend, ?_,
    fun i h => ⟨hc.readG h, hc.readV h⟩, fun i h => hc.readK h, ?_⟩
  all_goals rw [hx]
  exacts [rfl, getLsbD_setBit_same _ _ (by omega), rfl, rfl, rfl, rfl, rfl, returnThread_rest z s.cur _]

end Sys2Proof

namespace Sys2Proof

open Machine

/-! ## Pending traps (R16, R109) -/

/-- The model's stable sort is the library's. -/
theorem sortBy_eq_insertionSort {α : Type} (le : α → α → Bool) (l : List α) : sortBy le l = l.insertionSort (fun a b => le a b = true) := by
  have hi : ∀ x (ys : List α), insertBy le x ys = ys.orderedInsert (fun a b => le a b = true) x := by
    intro x ys
    induction ys with
    | nil => rfl
    | cons y ys ih => rw [insertBy, List.orderedInsert, ih]
  unfold sortBy List.insertionSort
  exact congrArg (fun f => l.foldr f []) (funext fun x => funext fun ys => hi x ys)

theorem mem_sortBy {α : Type} {le : α → α → Bool} {l : List α} {x : α} : x ∈ sortBy le l ↔ x ∈ l := by
  rw [sortBy_eq_insertionSort]
  exact List.mem_insertionSort _

/-- A sort by a total order rises. -/
theorem pairwise_sortBy {α : Type} {le : α → α → Bool} (htotal : ∀ a b, le a b = true ∨ le b a = true)
    (htrans : ∀ a b c, le a b = true → le b c = true → le a c = true) (l : List α) : (sortBy le l).Pairwise fun a b => le a b = true := by
  have : Std.Total fun a b => le a b = true := ⟨htotal⟩
  have : IsTrans α fun a b => le a b = true := ⟨htrans⟩
  rw [sortBy_eq_insertionSort]
  exact List.pairwise_insertionSort _ l

theorem asyncLe_iff {a b : AsyncTrap} : asyncLe a b = true ↔ a.gts < b.gts ∨ (a.gts = b.gts ∧ a.source ≤ b.source) := by
  simp [asyncLe]

theorem asyncLe_total (a b : AsyncTrap) : asyncLe a b = true ∨ asyncLe b a = true := by
  simp only [asyncLe_iff]
  omega

theorem asyncLe_trans (a b c : AsyncTrap) (h : asyncLe a b = true) (h' : asyncLe b c = true) : asyncLe a c = true := by
  simp only [asyncLe_iff] at *
  omega

/-- A new trap of a thread at home, whose queue has room, is pending among the others in their order (R16, R109). -/
theorem pendTrap_asyncq {s : State} {t : Tid} (src code : Nat) (eval : Word) (ht : t.thr < 16) (hh : (s.thread t).homeOf = none)
    (hroom : (s.thread t).asyncq.length < 8) :
    ((pendTrap s t src code eval).thread t).asyncq = sortBy asyncLe ((s.thread t).asyncq ++ [⟨gts s, src, code, eval⟩]) := by
  have hhome : homeTid s t = t := by
    unfold homeTid
    rw [hh]
    rfl
  unfold pendTrap
  dsimp only
  rw [hhome, if_neg (by omega), setThread_thread _ _ _ ht]

/-- A pending trap that may be taken stands at a chain boundary, with TCTL.INH 0 (R109). -/
theorem boundary_of_asyncReady {s : State} {t : Tid} (h : asyncReady s t = true) : (s.thread t).chain = none ∧ (s.thread t).inh = false := by
  unfold asyncReady at h
  simp only [Bool.and_eq_true, Bool.not_eq_true', Option.isNone_iff_eq_none] at h
  exact ⟨by tauto, by tauto⟩

/-- The move of a pending trap that may be taken. -/
theorem moves_asynchronousTrap {s : State} {c t : Nat} (h : asyncReady s ⟨c, t⟩ = true) : Moves (.asynchronousTrap c t) s (takeAsync s ⟨c, t⟩) :=
  ⟨_, if_pos h, rfl⟩

/-- A wait that has sent nothing is abandoned, and the thread is ready for its slot. -/
theorem takeAsync_of_waits {s : State} {t : Tid} {x : AsyncTrap} {xs : List AsyncTrap} (hq : (s.thread t).asyncq = x :: xs)
    (hr : (s.thread t).run ≠ .ready) :
    takeAsync s t = (forgetMiss s t).setThread t { s.thread t with run := .ready, turn := none, scGo := false } := by
  unfold takeAsync
  dsimp only
  rw [hq]
  exact if_pos hr

/-- In its slot a ready thread takes its first pending trap. -/
theorem takeAsync_of_ready {s : State} {t : Tid} {x : AsyncTrap} {xs : List AsyncTrap} (hq : (s.thread t).asyncq = x :: xs)
    (hr : (s.thread t).run = .ready) :
    takeAsync s t = takeTrap ((takeSlot (advanceTo s (dieOf s t.core) (s.thread t).readyAt) t).setThread t { s.thread t with asyncq := xs })
      t x.code x.eval (s.thread t).pc true := by
  unfold takeAsync
  dsimp only
  rw [hq]
  exact if_neg (not_not.mpr hr)

/-! ## Windows of SC accesses (R80, R81) -/

theorem execScWindowClose_none {s : State} (h : scWaiting s = []) : exec .scWindowClose s = .next s := by
  change execScWindowClose s = _
  unfold execScWindowClose
  rw [h]
  rfl

/-- A thread whose window has closed goes on with its SC access. -/
def letGoOn (z : State) (t : Tid) : State := z.setThread t { z.thread t with run := .ready, scGo := true }

theorem foldl_letGoOn_agenda (ts : List Tid) (y : State) : (ts.foldl letGoOn y).agenda = y.agenda := by
  induction ts generalizing y with
  | nil => rfl
  | cons t ts ih => rw [List.foldl_cons, ih, letGoOn, setThread_agenda]

/-- The threads that wait in the window `w`, in the order of their places (R81). -/
def windowThreads (s : State) (w : Nat) : List Tid :=
  sortBy (fun a b => decide (scKey (advanceGts s ((w + 1) * 16)) a ≤ scKey (advanceGts s ((w + 1) * 16)) b))
    (((scWaiting s).filter fun e => e.1 == w).map (·.2))

/-- The close of the earliest announced window. -/
theorem execScWindowClose_some {s : State} {w : Nat} (h : ((scWaiting s).map (·.1)).min? = some w) :
    exec .scWindowClose s = .next (lapse { (windowThreads s w).foldl letGoOn (advanceGts s ((w + 1) * 16)) with
      agenda := ((windowThreads s w).flatMap fun t =>
        List.replicate (scWords ((advanceGts s ((w + 1) * 16)).thread t)) (Move.thread t)) ++ (advanceGts s ((w + 1) * 16)).agenda }) := by
  change execScWindowClose s = _
  rw [← foldl_letGoOn_agenda (windowThreads s w)]
  unfold execScWindowClose
  rw [h]
  rfl

/-- Settles O21: a trap's move by whether the thread is ready; a window's close is the fold over its threads. -/
theorem trapsAndWindows : Obligations.TrapsAndWindows := by
  unfold Obligations.TrapsAndWindows
  refine ⟨⟨fun s c t x xs => ?_, fun s t src code eval ht hh hroom _ => ?_⟩, fun s => ⟨execScWindowClose_none, fun w hw => ?_⟩⟩
  · intro id z
    refine ⟨fun h hq => ?_, fun h => if_neg (Bool.eq_false_iff.mp h)⟩
    obtain ⟨hchain, hinh⟩ := boundary_of_asyncReady h
    refine ⟨hchain, hinh, fun hr => ?_, fun hr => ?_⟩
    · exact takeAsync_of_waits hq hr ▸ moves_asynchronousTrap h
    · exact takeAsync_of_ready hq hr ▸ moves_asynchronousTrap h
  · rw [pendTrap_asyncq src code eval ht hh hroom]
    exact ⟨pairwise_sortBy asyncLe_total asyncLe_trans _, mem_sortBy.mpr (by simp)⟩
  · intro y ts
    refine ⟨_, execScWindowClose_some hw, rfl, fun e he => ?_⟩
    exact (List.min?_eq_some_iff.mp hw).2 _ (List.mem_map_of_mem he)

end Sys2Proof

namespace Sys2Proof

open Machine

/-! ## Instructions whose body produces one g result beside the state it leaves -/

/-- A change of registers, followed by one that changes none. -/
theorem RegsOnly.followedBy {t : Tid} {a b c : State} {g v k : List Nat} {fl : Bool} {p q : Word} (h : RegsOnly t a b g v k fl p)
    (h' : RegsOnly t b c [] [] [] false q) : RegsOnly t a c g v k fl q := by
  obtain ⟨hO, ⟨hG, hV, hK, hR⟩, ⟨hD, hA, hB⟩, hF, -⟩ := h
  obtain ⟨hO', ⟨hG', hV', hK', hR'⟩, ⟨hD', hA', hB'⟩, hF', hP'⟩ := h'
  exact ⟨hO.trans hO',
    ⟨fun i hi hn => (hG' i hi (by simp)).trans (hG i hi hn), fun i hi hn => (hV' i hi (by simp)).trans (hV i hi hn),
      fun i hi hn => (hK' i hi (by simp)).trans (hK i hi hn), hR'.trans hR⟩,
    ⟨hD'.trans hD, hA'.trans hA, hB'.trans hB⟩, fun hf => (hF' rfl).trans (hF hf), hP'⟩

/-- Producing a g result changes that register alone. -/
theorem regsOnly_produceG (z : State) {t : Tid} (ht : t.thr < 16) (d : Nat) (m x : Vec) (l : Nat) (u : Producer) :
    RegsOnly t z (z.setThread t ((z.thread t).produce .g d m x l u)) [d] [] [] false (z.thread t).pc := by
  have hth := setThread_thread z t ((z.thread t).produce .g d m x l u) ht
  refine ⟨onlyThread_setThread _ _ _, ⟨fun i _ hn => ?_, fun i _ _ => ?_, fun i _ _ => ?_, ?_⟩, ?_, fun _ => ?_, ?_⟩
  all_goals simp only [SameLatches, hth]
  · exact produce_finalG_ne _ _ _ _ _ _ _ _ (.inr (by simpa [eq_comm] using hn))
  · exact produce_finalV_ne _ _ _ _ _ _ _ _ (.inl (by simp))
  · exact produce_finalK_ne _ _ _ _ _ _ _ _ (.inl (by simp))
  · exact produce_rest _ _ _ _ _ _ _
  · exact ⟨produce_latchD _ _ _ _ _ _ _, produce_latchA _ _ _ _ _ _ _, produce_latchB _ _ _ _ _ _ _⟩
  · exact produce_fflags _ _ _ _ _ _ _
  · exact produce_pc _ _ _ _ _ _ _

/-- The same as `yields_of` for a result of the integer ALU. -/
theorem yields_of_aluG {i : Instr} {op : Op} {f : Form} {s z : State} {body : Body} {d : Nat} {x : Word} (he : exec i s = issue op s body)
    (hf : op.Has f) (hi : Issues f s) (hd : d < 32)
    (hb : body (begun f s) s.cur = .ok (z.setThread s.cur ((z.thread s.cur).aluG d x), .seq)) : Yields i s z d x := by
  have hr := finish_seq_regsOnly op (z.setThread s.cur ((z.thread s.cur).aluG d x)) hi.context
  have hth : (z.setThread s.cur ((z.thread s.cur).aluG d x)).thread s.cur = (z.thread s.cur).aluG d x := setThread_thread _ _ _ hi.context
  have hpc : ((z.thread s.cur).aluG d x).pc = (z.thread s.cur).pc := produce_pc _ _ _ _ _ _ _
  refine ⟨_, he.trans (issue_runs hf hi hb), ?_, ?_⟩
  · rw [hr.keeps.g d hd (by simp), hth, aluG_finalG]
  · rw [hth, hpc] at hr
    exact (regsOnly_produceG z hi.context d maskG (x.setWidth 512) 2 .alu).followedBy hr

/-! ## Instructions whose body stops (R407) -/

theorem stops_of {i : Instr} {op : Op} {f : Form} {s : State} {body : Body} {e : Stop} (he : exec i s = issue op s body)
    (hf : op.Has f) (hn : op.conflict = 0) (hi : Issues f s) (hb : body (begun f s) s.cur = .error e) :
    exec i s = stopped (atIssue s) s.cur e := by
  rw [he, issue_stops hf hi hb, hn, conflictEnd_zero]

theorem raises_of {i : Instr} {op : Op} {f : Form} {s : State} {body : Body} {c : Nat} {e : Word} (he : exec i s = issue op s body)
    (hf : op.Has f) (hn : op.conflict = 0) (hi : Issues f s) (hb : body (begun f s) s.cur = .error (.trap c e)) : Raises i s c e :=
  stops_of he hf hn hi hb

/-! ## Parts of a body -/

/-- What a body reads of its thread is what the thread held as it issued. -/
theorem Plainly.begun_thread {α : Type} {x : Thread → α} (hx : Plainly x) {f : Form} {s : State} (ht : s.cur.thr < 16) :
    x ((Sys2Proof.begun f s).thread s.cur) = x s.me := by
  have := hx.begun (f := f) ht
  rwa [State.me, begun_cur] at this

theorem bind_of_ok {α β : Type} {m : Except Stop α} {x : α} {f : α → Except Stop β} {y : Except Stop β} (h : m = .ok x) (hf : f x = y) :
    (m >>= f) = y := by
  subst h
  exact hf

theorem bind_of_error {α β : Type} {m : Except Stop α} {e : Stop} {f : α → Except Stop β} (h : m = .error e) : (m >>= f) = .error e := by
  subst h
  rfl

end Sys2Proof

namespace Sys2Proof

open Machine

/-! ## ENTER and LEAVE (R106) -/

theorem field_low61 (w : Word) : field w 60 0 = w.toNat % 2 ^ 61 := by
  simp [field, BitVec.extractLsb'_toNat]

theorem field_segment (w : Word) : field w 63 61 = w.toNat / 2 ^ 61 := by
  have := w.isLt
  simp only [field, BitVec.extractLsb'_toNat, Nat.shiftRight_eq_div_pow]
  omega

/-- A frame fits where there is a stack and the frame's end is within it (R106, Table 18.6). -/
theorem beyondStack_eq_false {z : State} {v : View} {off : Nat} : beyondStack z v off = false ↔
    (z.meth.isSome = true ∨ segKind v 0xE000000000000000 = 7) ∧
      off ≤ if z.meth.isSome then 4096 else field (v.segLimit.toList.getD 7 0) 47 0 := by
  have hk : segKind v 0xE000000000000000 = field (v.segBase.toList.getD 7 0) 63 60 := rfl
  rw [hk]
  unfold beyondStack stackLimit
  generalize field (v.segBase.toList.getD 7 0) 63 60 = kind, field (v.segLimit.toList.getD 7 0) 47 0 = limit
  cases z.meth with
  | some m => simp
  | none => by_cases h : kind = 7 <;> simp [h]

/-- The bytes of a frame, in units of 64 (R106, R142). -/
def frameUnits (th : Thread) (m : BitVec 12) : Word := if th.himm = [] then BitVec.ofNat 64 m.toNat else th.imm m

theorem plainly_frameUnits (m : BitVec 12) : Plainly (frameUnits · m) := fun _ _ _ _ _ => rfl

theorem frameUnits_eq (th : Thread) (m : BitVec 12) :
    (if th.himm.isEmpty then BitVec.ofNat 64 m.toNat else th.imm m) = frameUnits th m := by
  simp [frameUnits]

section Frames

/-- How ENTER and LEAVE issue. -/
def frameForm : Form := { reads := [(.g, 2)] }

/-- What the frame of every instruction knows of ENTER and LEAVE. -/
def frameOp (w : BitVec 32) (st : BitVec 3) : Op := { word := w, stall := st.toNat, reads := [(.g, 2)] }

theorem frameOp_has (w : BitVec 32) (st : BitVec 3) : (frameOp w st).Has frameForm := ⟨rfl, rfl, rfl, rfl, rfl, rfl, rfl, rfl⟩

/-- What ENTER does that asks for `n` units at g2. -/
def enterFrame (z : State) (t : Tid) (n g2 : Word) : Except Stop (State × Next) :=
  let top := g2.toNat % 2 ^ 61 + n.toNat * 64
  if n.toInt < 0 then .error (.trap cOPERAND_RANGE n)
  else if g2.toNat / 2 ^ 61 ≠ 7 ∨ beyondStack z (viewOf z t) top then .error (.trap cSTACK_LIMIT (BitVec.ofNat 64 top))
  else .ok (z.setThread t ((z.thread t).aluG 2 (g2 + n * 64)), .seq)

/-- What LEAVE does that gives back `n` units at g2. -/
def leaveFrame (z : State) (t : Tid) (n g2 : Word) : Except Stop (State × Next) :=
  let off := g2.toNat % 2 ^ 61
  if n.toInt < 0 then .error (.trap cOPERAND_RANGE n)
  else if off < n.toNat * 64 then .error (.trap cSTACK_LIMIT (BitVec.ofNat 64 off - n * 64))
  else .ok (z.setThread t ((z.thread t).aluG 2 (g2 - n * 64)), .seq)

variable {st : BitVec 3} {d a : BitVec 5} {m : BitVec 12} {s : State} (hi : Issues frameForm s)
include hi

theorem exec_enter : ∃ w body, exec (.enter st d a m) s = issue (frameOp w st) s body ∧
    body (begun frameForm s) s.cur = enterFrame (begun frameForm s) s.cur (frameUnits s.me m) (s.me.readG 2) := by
  refine ⟨_, _, rfl, ?_⟩
  simp only [frameUnits_eq, field_low61, field_segment]
  rw [(plainly_frameUnits m).begun_thread hi.context, begun_readG hi.context]
  rfl

theorem exec_leave : ∃ w body, exec (.leave st d a m) s = issue (frameOp w st) s body ∧
    body (begun frameForm s) s.cur = leaveFrame (begun frameForm s) s.cur (frameUnits s.me m) (s.me.readG 2) := by
  refine ⟨_, _, rfl, ?_⟩
  simp only [frameUnits_eq, field_low61]
  rw [(plainly_frameUnits m).begun_thread hi.context, begun_readG hi.context]
  rfl

end Frames

/-- Settles O25: the branches of the two bodies are the cases of the statement. -/
theorem stackFrames : Obligations.StackFrames := by
  unfold Obligations.StackFrames
  intro st d a m s f n off v limit frame hi
  obtain ⟨we, enter, henter, hbe⟩ := exec_enter (st := st) (d := d) (a := a) (m := m) hi
  obtain ⟨wl, leave, hleave, hbl⟩ := exec_leave (st := st) (d := d) (a := a) (m := m) hi
  have hfits : frame ↔ ¬ ((s.me.readG 2).toNat / 2 ^ 61 ≠ 7 ∨ beyondStack (begun f s) v (off + n.toNat * 64) = true) := by
    rw [not_or, not_not, Bool.not_eq_true, beyondStack_eq_false, begun_meth_isSome]
  refine ⟨fun h0 hf => ?_, fun h0 hf => ?_, fun h0 hle => ?_, fun h0 hlt => ?_, fun hneg => ⟨?_, ?_⟩⟩
  · exact yields_of_aluG henter (frameOp_has _ st) hi (by omega)
      (hbe.trans ((if_neg (Int.not_lt.mpr h0)).trans (if_neg (hfits.mp hf))))
  · exact raises_of henter (frameOp_has _ st) rfl hi
      (hbe.trans ((if_neg (Int.not_lt.mpr h0)).trans (if_pos (not_not.mp (mt hfits.mpr hf)))))
  · exact yields_of_aluG hleave (frameOp_has _ st) hi (by omega)
      (hbl.trans ((if_neg (Int.not_lt.mpr h0)).trans (if_neg (Nat.not_lt.mpr hle))))
  · exact raises_of hleave (frameOp_has _ st) rfl hi (hbl.trans ((if_neg (Int.not_lt.mpr h0)).trans (if_pos hlt)))
  · exact raises_of henter (frameOp_has _ st) rfl hi (hbe.trans (if_pos hneg))
  · exact raises_of hleave (frameOp_has _ st) rfl hi (hbl.trans (if_pos hneg))

end Sys2Proof

namespace Sys2Proof

open Machine

/-! ## A spawned thread (R107) -/

/-- A thread to which no result is owed reads its registers. -/
theorem readG_of_pend_nil {t : Thread} (h : t.pend = []) {j : Nat} (hj : j < 32) : t.readG j = if j = 0 then 0 else t.g[j] := by
  unfold Thread.readG Thread.read
  rw [h]
  change (if j = 0 then 0 else ((t.g.toList.getD j 0).setWidth 512).setWidth 64) = _
  rw [toList_getD_eq _ hj, BitVec.setWidth_setWidth_of_le _ (by omega), BitVec.setWidth_eq]

theorem readV_of_pend_nil {t : Thread} (h : t.pend = []) {j : Nat} (hj : j < 32) : t.readV j = t.v[j] := by
  unfold Thread.readV Thread.read
  rw [h]
  exact toList_getD_eq _ hj _

theorem readK_of_pend_nil {t : Thread} (h : t.pend = []) {j : Nat} (hj : j < 8) : t.readK j = if j = 0 then 0xFFFF else t.k[j] := by
  unfold Thread.readK Thread.read
  rw [h]
  change (if j = 0 then 0xFFFF else ((t.k.toList.getD j 0).setWidth 512).setWidth 16) = _
  rw [toList_getD_eq _ hj, BitVec.setWidth_setWidth_of_le _ (by omega), BitVec.setWidth_eq]

section SpawnThread

variable (old t0 : Thread) (r : TaskRec) (e cyc : Nat)

/-- The general registers that a spawned thread starts with. -/
theorem spawnThread_readG {j : Nat} (hj : j < 32) : (spawnThread old t0 r e cyc).readG j =
    if j = 2 then 0xE000000000000000 else if j = 4 then r.a0 else if j = 5 then r.a1 else if j = 6 then r.a2 else 0 := by
  have hg : (spawnThread old t0 r e cyc).g = ((((Vector.replicate 32 0).setIfInBounds 2 0xE000000000000000).setIfInBounds 4
      r.a0).setIfInBounds 5 r.a1).setIfInBounds 6 r.a2 := rfl
  rw [readG_of_pend_nil rfl hj]
  simp only [hg, Vector.getElem_setIfInBounds, Vector.getElem_replicate]
  grind

theorem spawnThread_readV {j : Nat} (hj : j < 32) : (spawnThread old t0 r e cyc).readV j = 0 := by
  rw [readV_of_pend_nil rfl hj]
  exact Vector.getElem_replicate ..

theorem spawnThread_readK {j : Nat} (hj : j < 8) : (spawnThread old t0 r e cyc).readK j = if j = 0 then 0xFFFF else 0 := by
  have hk : (spawnThread old t0 r e cyc).k = (Vector.replicate 8 0).set 0 0xFFFF := rfl
  rw [readK_of_pend_nil rfl hj]
  simp only [hk, Vector.getElem_set, Vector.getElem_replicate]
  grind

/-- The segments of a spawned thread are T0's, but for its stack. -/
theorem spawnThread_segBase : (spawnThread old t0 r e cyc).segBase = t0.segBase.setIfInBounds 7
    ((t0.segBase[7] &&& (0xFF00000000000000 : Word)) ||| ((t0.segBase[7] + BitVec.ofNat 64 e * t0.segLimit[7]) &&& 0xFFFFFFFFFFFF)) := by
  unfold spawnThread
  simp only [toList_getD_eq _ (by omega : 7 < 8)]

theorem spawnThread_segBase_lt {j : Nat} (hj : j < 7) : (spawnThread old t0 r e cyc).segBase[j] = t0.segBase[j] := by
  simp only [spawnThread_segBase]
  exact Vector.getElem_setIfInBounds_ne _ (by omega)

theorem spawnThread_stack : (spawnThread old t0 r e cyc).segBase[7] =
    (t0.segBase[7] &&& (0xFF00000000000000 : Word)) ||| ((t0.segBase[7] + BitVec.ofNat 64 e * t0.segLimit[7]) &&& 0xFFFFFFFFFFFF) := by
  simp only [spawnThread_segBase]
  exact Vector.getElem_setIfInBounds_self _

end SpawnThread

/-- The masks that lay an offset of 48 bits into a base register. -/
theorem mask_offset : ∀ i < 48, (0xFF00000000000000 : Word).getLsbD i = false ∧ (0xFFFFFFFFFFFF : Word).getLsbD i = true := by decide
theorem mask_kind : ∀ i < 8, (0xFF00000000000000 : Word).getLsbD (56 + i) = true ∧ (0xFFFFFFFFFFFF : Word).getLsbD (56 + i) = false := by
  decide

/-- A base register whose offset was replaced holds the new offset. -/
theorem base_offset (b x : Word) : ((b &&& 0xFF00000000000000) ||| (x &&& 0xFFFFFFFFFFFF)).toNat % 2 ^ 48 = x.toNat % 2 ^ 48 := by
  have h : ((b &&& 0xFF00000000000000) ||| (x &&& 0xFFFFFFFFFFFF)).setWidth 48 = x.setWidth 48 := by
    apply BitVec.eq_of_getLsbD_eq
    intro i hi
    obtain ⟨hb, hx⟩ := mask_offset i hi
    rw [BitVec.getLsbD_setWidth, BitVec.getLsbD_or, BitVec.getLsbD_and, BitVec.getLsbD_and, hb, hx, BitVec.getLsbD_setWidth]
    simp
  have := congrArg BitVec.toNat h
  rwa [BitVec.toNat_setWidth, BitVec.toNat_setWidth] at this

/-- A base register whose offset was replaced keeps its kind and rights. -/
theorem base_kind (b x : Word) : ((b &&& 0xFF00000000000000) ||| (x &&& 0xFFFFFFFFFFFF)).toNat / 2 ^ 56 = b.toNat / 2 ^ 56 := by
  have h : ((b &&& 0xFF00000000000000) ||| (x &&& 0xFFFFFFFFFFFF)).extractLsb' 56 8 = b.extractLsb' 56 8 := by
    apply BitVec.eq_of_getLsbD_eq
    intro i hi
    obtain ⟨hb, hx⟩ := mask_kind i hi
    rw [BitVec.getLsbD_extractLsb', BitVec.getLsbD_or, BitVec.getLsbD_and, BitVec.getLsbD_and, hb, hx, BitVec.getLsbD_extractLsb']
    simp
  have := congrArg BitVec.toNat h
  have hb := b.isLt
  have hy := ((b &&& 0xFF00000000000000) ||| (x &&& 0xFFFFFFFFFFFF)).isLt
  generalize (b &&& 0xFF00000000000000) ||| (x &&& 0xFFFFFFFFFFFF) = y at *
  simp only [BitVec.extractLsb'_toNat, Nat.shiftRight_eq_div_pow] at this
  omega

/-- A number of stacks further on, modulo the 48 bits of an offset. -/
theorem stack_offset (b l : Word) (n : Nat) : (b + BitVec.ofNat 64 n * l).toNat % 2 ^ 48 = (b.toNat + n * l.toNat) % 2 ^ 48 := by
  rw [BitVec.toNat_add, BitVec.toNat_mul, BitVec.toNat_ofNat, Nat.mod_mod_of_dvd _ (pow_dvd_pow 2 (by omega : 48 ≤ 64)), Nat.mod_mul_mod,
    Nat.add_mod, Nat.mod_mod_of_dvd _ (pow_dvd_pow 2 (by omega : 48 ≤ 64)), ← Nat.add_mod]

/-! ## SPAWN and REAP (R107) -/

section SpawnReap

/-- How SPAWN issues (R110, R205). -/
def spawnForm (a b : BitVec 5) : Form := { gForm [a, b] with role := .t0, cls := .irrev }

/-- How REAP issues. -/
def reapForm (a : BitVec 5) : Form := { gForm [a] with role := .t0, cls := .irrev }

/-- What the frame of every instruction knows of SPAWN. -/
def spawnOp (st : BitVec 3) (d a b : BitVec 5) : Op :=
  { word := 54#7 ++ st ++ d ++ a ++ b ++ 0#7, stall := st.toNat, reads := [(.g, a.toNat), (.g, b.toNat)], role := .t0, cls := .irrev }

/-- What the frame of every instruction knows of REAP. -/
def reapOp (st : BitVec 3) (d a b : BitVec 5) : Op :=
  { word := 54#7 ++ st ++ d ++ a ++ b ++ 1#7, stall := st.toNat, reads := [(.g, a.toNat)], role := .t0, cls := .irrev }

theorem spawnOp_has (st : BitVec 3) (d a b : BitVec 5) : (spawnOp st d a b).Has (spawnForm a b) := ⟨rfl, rfl, rfl, rfl, rfl, rfl, rfl, rfl⟩

theorem reapOp_has (st : BitVec 3) (d a b : BitVec 5) : (reapOp st d a b).Has (reapForm a) := ⟨rfl, rfl, rfl, rfl, rfl, rfl, rfl, rfl⟩

/-- The work thread that SPAWN and REAP name. -/
def namedThread (s : State) (a : BitVec 5) : Nat := (s.me.readG a.toNat).toNat % 16

/-- The highest work thread of a core (R110). -/
def workTop (s : State) (c : Nat) : Nat := if bit (s.core c).stdom 3 then 6 else 12

/-- The thread that SPAWN leaves ready: halted where its whole context is (R397). -/
def startedThread (z : State) (t : Tid) (x : Thread) : Thread := if (z.ctx (ctxOf z t)).haltedAll then { x with halted := some 10 } else x

variable {st : BitVec 3} {d a b : BitVec 5} {s : State} {kind : Via} {ks : List Nat}

/-- SPAWN of a dormant work thread. -/
theorem spawn_passes (hi : Issues (spawnForm a b) s) (h1 : 1 ≤ namedThread s a)
    (hn : namedThread s a ≤ workTop (begun (spawnForm a b) s) s.cur.core)
    (hk : ownBlock (begun (spawnForm a b) s) s.cur (s.me.readG b.toNat) 32 32 rRD = .ok (kind, ks))
    (hd : (((begun (spawnForm a b) s).core s.cur.core).thread (namedThread s a)).run = .dormant) :
    let y := settlePosted (begun (spawnForm a b) s) s.cur ks
    let z := drainPosted y s.cur
    Passes (.spawn st d a b) s (z.setThread ⟨s.cur.core, namedThread s a⟩ (startedThread z s.cur
      (spawnThread (((begun (spawnForm a b) s).core s.cur.core).thread (namedThread s a)) (z.thread s.cur)
        (taskRecOf (readPlaces y ks) 0) (namedThread s a) (issueCycle z s.cur + 1)))) := by
  intro y z
  refine passes_of rfl (spawnOp_has st d a b) hi ?_
  dsimp only
  rw [begun_readG hi.context, begun_readG hi.context]
  refine (if_neg (by unfold workTop namedThread at *; omega)).trans (bind_of_ok hk ?_)
  exact if_neg (not_not.mpr hd)

/-- SPAWN of a thread that runs already. -/
theorem spawn_busy (hi : Issues (spawnForm a b) s) (h1 : 1 ≤ namedThread s a)
    (hn : namedThread s a ≤ workTop (begun (spawnForm a b) s) s.cur.core)
    (hk : ownBlock (begun (spawnForm a b) s) s.cur (s.me.readG b.toNat) 32 32 rRD = .ok (kind, ks))
    (hd : (((begun (spawnForm a b) s).core s.cur.core).thread (namedThread s a)).run ≠ .dormant) :
    Raises (.spawn st d a b) s cTHREAD_BUSY (BitVec.ofNat 64 (namedThread s a)) := by
  refine raises_of rfl (spawnOp_has st d a b) rfl hi ?_
  dsimp only
  rw [begun_readG hi.context, begun_readG hi.context]
  refine (if_neg (by unfold workTop namedThread at *; omega)).trans (bind_of_ok hk ?_)
  exact if_pos hd

/-- SPAWN of a number that names no work thread. -/
theorem spawn_range (hi : Issues (spawnForm a b) s)
    (hn : namedThread s a = 0 ∨ workTop (begun (spawnForm a b) s) s.cur.core < namedThread s a) :
    Raises (.spawn st d a b) s cOPERAND_RANGE (s.me.readG a.toNat) := by
  refine raises_of rfl (spawnOp_has st d a b) rfl hi ?_
  dsimp only
  rw [begun_readG hi.context]
  exact if_pos hn

/-- What REAP does with a work thread (R107). -/
def reapThread (z : State) (t : Tid) (n : Nat) : Except Stop (State × Next) :=
  let x := (z.core t.core).thread n
  match x.run with
  | .dormant => .ok (z, .seq)
  | .idle _ _ | .idleAlways =>
    if x.inh then .error (.park true .reissue)
    else if bankHeld (z.core t.core) n ≠ 0 then .error (.trap cACC_HELD (bankHeld (z.core t.core) n))
    else .ok (z.setThread ⟨t.core, n⟩ { x with run := .dormant, task := .none, chain := none }, .seq)
  | _ => .error (.park true .reissue)

/-- The body of REAP for a number that names a work thread. -/
theorem exec_reap (hi : Issues (reapForm a) s) (h1 : 1 ≤ namedThread s a) (hn : namedThread s a ≤ 12) :
    ∃ body, exec (.reap st d a b) s = issue (reapOp st d a b) s body ∧
      body (begun (reapForm a) s) s.cur = reapThread (begun (reapForm a) s) s.cur (namedThread s a) := by
  refine ⟨_, rfl, ?_⟩
  dsimp only
  rw [begun_readG hi.context]
  exact if_neg (by unfold namedThread at *; omega)

/-- REAP of a number that names no work thread. -/
theorem reap_range (hi : Issues (reapForm a) s) (hn : namedThread s a = 0 ∨ 12 < namedThread s a) :
    Raises (.reap st d a b) s cOPERAND_RANGE (s.me.readG a.toNat) := by
  refine raises_of rfl (reapOp_has st d a b) rfl hi ?_
  dsimp only
  rw [begun_readG hi.context]
  exact if_pos hn

end SpawnReap

section ReapThread

variable {z : State} {t : Tid} {n : Nat}

theorem reapThread_dormant (h : ((z.core t.core).thread n).run = .dormant) : reapThread z t n = .ok (z, .seq) := by
  unfold reapThread
  dsimp only
  rw [h]

/-- An idle thread, whatever it is idle for. -/
theorem reapThread_idle (h : (∃ x y, ((z.core t.core).thread n).run = .idle x y) ∨ ((z.core t.core).thread n).run = .idleAlways)
    (hi : ((z.core t.core).thread n).inh = false) : reapThread z t n =
      if bankHeld (z.core t.core) n ≠ 0 then .error (.trap cACC_HELD (bankHeld (z.core t.core) n))
      else .ok (z.setThread ⟨t.core, n⟩ { (z.core t.core).thread n with run := .dormant, task := .none, chain := none }, .seq) := by
  unfold reapThread
  dsimp only
  rcases h with ⟨x, y, h⟩ | h
  all_goals
    rw [h, hi]
    rfl

theorem reapThread_waits (hd : ((z.core t.core).thread n).run ≠ .dormant)
    (h : ((∀ x y, ((z.core t.core).thread n).run ≠ .idle x y) ∧ ((z.core t.core).thread n).run ≠ .idleAlways) ∨
      ((z.core t.core).thread n).inh = true) : reapThread z t n = .error (.park true .reissue) := by
  unfold reapThread
  dsimp only
  split
  next hr => exact absurd hr hd
  next x y hr => exact if_pos (h.resolve_left fun hn => hn.1 x y hr)
  next hr => exact if_pos (h.resolve_left fun hn => hn.2 hr)
  next => rfl

end ReapThread

/-- Settles O30: the cases of the two bodies; a spawned thread's registers are those of `spawnThread`. -/
theorem spawnAndReap : Obligations.SpawnAndReap := by
  unfold Obligations.SpawnAndReap
  intro st d a b s f g n tn _
  refine ⟨fun kind ks hi h1 hn hk => ?_, fun hi hn => spawn_range hi hn, fun hi h1 hn => ?_, fun hi hn => reap_range hi hn⟩
  · intro y
    refine ⟨fun hd => ?_, fun hd => spawn_busy hi h1 hn hk hd⟩
    intro z t0 r x
    have hG {j : Nat} (hj : j < 32) := spawnThread_readG (tn (begun f s)) t0 r n (issueCycle z s.cur + 1) hj
    have hstack : x.segBase[7] = _ := spawnThread_stack (tn (begun f s)) t0 r n (issueCycle z s.cur + 1)
    refine ⟨spawn_passes hi h1 hn hk hd, rfl, rfl, hG (by omega), hG (by omega), hG (by omega), hG (by omega), fun j hj h2 h4 h5 h6 => ?_,
      fun j hj => spawnThread_readV _ _ _ _ _ hj, fun j hj => spawnThread_readK _ _ _ _ _ hj, rfl, rfl, rfl, rfl,
      fun j => spawnThread_segBase_lt _ _ _ _ _ j.isLt, rfl, ?_, ?_⟩
    · rw [hG hj, if_neg h2, if_neg h4, if_neg h5, if_neg h6]
    · rw [hstack, base_offset, stack_offset]
    · rw [hstack, base_kind]
  · intro t held
    obtain ⟨body, he, hb⟩ := exec_reap (st := st) (d := d) (b := b) hi h1 hn
    have hfreed (hr : (∃ x y, t.run = .idle x y) ∨ t.run = .idleAlways) (hinh : t.inh = false) (h0 : held = 0) :=
      passes_of he (reapOp_has st d a b) hi (hb.trans ((reapThread_idle hr hinh).trans (if_neg (not_not.mpr h0))))
    have hheld (hr : (∃ x y, t.run = .idle x y) ∨ t.run = .idleAlways) (hinh : t.inh = false) (h0 : held ≠ 0) :=
      raises_of he (reapOp_has st d a b) rfl hi (hb.trans ((reapThread_idle hr hinh).trans (if_pos h0)))
    exact ⟨fun hr => passes_of he (reapOp_has st d a b) hi (hb.trans (reapThread_dormant hr)),
      fun x y hr => hfreed (.inl ⟨x, y, hr⟩), fun x y hr => hheld (.inl ⟨x, y, hr⟩), fun hr => hfreed (.inr hr), fun hr => hheld (.inr hr),
      fun hr hw => stops_of he (reapOp_has st d a b) rfl hi (hb.trans (reapThread_waits hr hw))⟩

end Sys2Proof

namespace Sys2Proof

open Machine

/-! ## What a thread that looks for work takes (R199) -/

/-- A change of a thread leaves its core's deque. -/
theorem setThread_deque (s : State) (t : Tid) (x : Thread) (c : Nat) : ((s.setThread t x).core c).deque = (s.core c).deque :=
  (congrArg VCore.deque ((onlyThread_setThread s t x).cores c) :)

/-- The thread with the record's pc and arguments (R107). -/
def recordThread (th : Thread) (r : TaskRec) (run : Running) : Thread :=
  let x := { th with run := .ready, task := run, pc := r.pc &&& ~~~3#64, chain := none }
  ((x.produce .g 4 maskG (r.a0.setWidth 512) 0 .alu).produce .g 5 maskG (r.a1.setWidth 512) 0 .alu).produce .g 6 maskG
    (r.a2.setWidth 512) 0 .alu

theorem startRecord_eq (s : State) (t : Tid) (r : TaskRec) (run : Running) :
    startRecord s t r run = s.setThread t (recordThread (s.thread t) r run) := rfl

theorem recordThread_args (th : Thread) (r : TaskRec) (run : Running) :
    (recordThread th r run).finalG 4 = r.a0 ∧ (recordThread th r run).finalG 5 = r.a1 ∧ (recordThread th r run).finalG 6 = r.a2 := by
  unfold recordThread
  refine ⟨?_, ?_, produce_finalG_self _ _ _ _ _ (by omega)⟩
  · rw [produce_finalG_ne _ _ _ _ _ _ _ _ (.inr (by omega)), produce_finalG_ne _ _ _ _ _ _ _ _ (.inr (by omega)),
      produce_finalG_self _ _ _ _ _ (by omega)]
  · rw [produce_finalG_ne _ _ _ _ _ _ _ _ (.inr (by omega)), produce_finalG_self _ _ _ _ _ (by omega)]

theorem recordThread_finalG (th : Thread) (r : TaskRec) (run : Running) {j : Nat} (h4 : j ≠ 4) (h5 : j ≠ 5) (h6 : j ≠ 6) :
    (recordThread th r run).finalG j = th.finalG j := by
  unfold recordThread
  rw [produce_finalG_ne _ _ _ _ _ _ _ _ (.inr h6.symm), produce_finalG_ne _ _ _ _ _ _ _ _ (.inr h5.symm),
    produce_finalG_ne _ _ _ _ _ _ _ _ (.inr h4.symm)]
  rfl

/-- The last record pushed onto the core's deque comes first. -/
theorem lookForWork_own {s : State} {t : Tid} {r : TaskRec} {rs : List TaskRec} (h : (s.core t.core).deque = rs ++ [r]) :
    lookForWork s t = (s.setCore t.core { s.core t.core with deque := rs }).setThread t (recordThread (s.thread t) r (.task r.counter)) := by
  have hth : (s.setCore t.core { s.core t.core with deque := rs }).thread t = s.thread t := thread_setCore _ _ _ _ rfl
  unfold lookForWork
  dsimp only
  rw [h, List.getLast?_concat, List.dropLast_concat, ← hth]
  exact startRecord_eq _ _ _ _

/-- A thread that finds nothing is idle. -/
theorem lookForWork_idle {s : State} {t : Tid} (hd : (s.core t.core).deque = []) (ho : orderedFor s t = none)
    (hs : steal s ((stealOrder s t).drop 1) = none) :
    lookForWork s t = s.setThread t { s.thread t with run := .idle false none, task := .none, chain := none } := by
  unfold lookForWork
  dsimp only
  rw [hd, ho, hs]
  rfl

/-! ## FORK, JOIN and TEND (R159) -/

/-- A join counter at home is counted up or down (R159, R194). -/
def countAt (z : State) (t : Tid) (addr : Word) (scope : Nat) (g : Nat → Option Nat) : Except Stop State := do
  let k ← accessHere z t addr 8 rAMO true (some (scope, false))
  let q ← rmwAt z t k 8 g
  pure q.1

section CountAt

variable {z : State} {t : Tid} {addr : Word} {scope : Nat} {g : Nat → Option Nat} {k : Via × List Nat} {q : State × Nat} {e : Stop}

theorem countAt_ok (h : accessHere z t addr 8 rAMO true (some (scope, false)) = .ok k) (h' : rmwAt z t k 8 g = .ok q) :
    countAt z t addr scope g = .ok q.1 :=
  bind_of_ok h (bind_of_ok h' rfl)

theorem countAt_error (h : accessHere z t addr 8 rAMO true (some (scope, false)) = .error e) : countAt z t addr scope g = .error e :=
  bind_of_error h

/-- What follows the counter follows its read-modify-write. -/
theorem countAt_bind {α : Type} (f : State → Except Stop α) : countAt z t addr scope g >>= f =
    accessHere z t addr 8 rAMO true (some (scope, false)) >>= fun k => rmwAt z t k 8 g >>= fun q => f q.1 := by
  simp only [countAt, bind_assoc, pure_bind]

end CountAt

/-- A record pushed onto a core's deque, whose overflow area takes it where the deque is full (R158). -/
def pushed (c : VCore) (r : TaskRec) (bs : List Byte) : VCore :=
  { c with
    deque := c.deque ++ [r]
    spad := if 256 ≤ c.deque.length then c.spad.putBytes (c.ovflBase + 64 * (c.deque.length - 256)) bs else c.spad }

/-- The overflow area may be written before the deque grows. -/
theorem pushed_eq (c : VCore) (r : TaskRec) (bs : List Byte) :
    (let x := if 256 ≤ c.deque.length then { c with spad := c.spad.putBytes (c.ovflBase + 64 * (c.deque.length - 256)) bs } else c
     ({ x with deque := x.deque ++ [r] } : VCore)) = pushed c r bs := by
  unfold pushed
  dsimp only
  split <;> rfl

/-- The state with a record pushed. -/
def pushRecord (z : State) (c : Nat) (r : TaskRec) : State :=
  z.setCore c (pushed (z.core c) r ((List.range 64).map (Config.overflowByte z.freeCount)))

/-- The deque and its overflow area are not both full (R158). -/
def HasRoom (c : VCore) : Prop := c.deque.length < 256 + c.ovfl

section Fork

/-- How FORK issues (R205: an ordered task may not run it). -/
def forkForm (a b : BitVec 5) : Form := { gForm [a, b] with role := .work, cls := .forbid, home := true }

/-- What the frame of every instruction knows of FORK. -/
def forkOp (st : BitVec 3) (d a b : BitVec 5) : Op :=
  { word := 55#7 ++ st ++ d ++ a ++ b ++ 0#7, stall := st.toNat, reads := [(.g, a.toNat), (.g, b.toNat)], role := .work, cls := .forbid
    home := true }

theorem forkOp_has (st : BitVec 3) (d a b : BitVec 5) : (forkOp st d a b).Has (forkForm a b) := ⟨rfl, rfl, rfl, rfl, rfl, rfl, rfl, rfl⟩

/-- What FORK does with a record that it has read in the state `y`: the counter, then the push (R159). -/
def forkRecord (y : State) (t : Tid) (ks : List Nat) (addr : Word) : Except Stop (State × Next) :=
  let z := drainPosted y t
  (if addr = 0 then pure z else countAt z t addr (domainScope (y.core t.core)) fun x => some ((x + 1) % 2 ^ 64)) >>= fun z' =>
    pure (pushRecord z' t.core (taskRecOf (readPlaces y ks) addr), .seq)

variable {st : BitVec 3} {d a b : BitVec 5} {s : State} {kind : Via} {ks : List Nat}

/-- The body of FORK, once its record has been reached. -/
theorem exec_fork (hi : Issues (forkForm a b) s)
    (hk : ownBlock (begun (forkForm a b) s) s.cur (s.me.readG a.toNat) 32 32 rRD = .ok (kind, ks)) :
    let y := settlePosted (begun (forkForm a b) s) s.cur ks
    ∃ body, exec (.fork st d a b) s = issue (forkOp st d a b) s body ∧
      (HasRoom (y.core s.cur.core) → body (begun (forkForm a b) s) s.cur = forkRecord y s.cur ks (s.me.readG b.toNat)) ∧
      (¬ HasRoom (y.core s.cur.core) → body (begun (forkForm a b) s) s.cur = .error (.trap cTASK_OVERFLOW (s.me.readG b.toNat))) := by
  intro y
  refine ⟨_, rfl, fun hr => ?_, fun hr => ?_⟩
  all_goals
    dsimp only
    rw [begun_readG hi.context, begun_readG hi.context]
  · refine bind_of_ok hk ((if_neg (Nat.not_le.mpr hr)).trans ((apply_ite (· >>= _) (s.me.readG b.toNat = 0) _ _).symm.trans ?_))
    refine congrArg (_ >>= ·) (funext fun z' => ?_)
    exact congrArg (fun c => Except.ok (z'.setCore s.cur.core c, Next.seq)) (pushed_eq _ _ _)
  · exact bind_of_ok hk (if_pos (Nat.not_lt.mp hr))

end Fork

section Join

/-- How JOIN issues (R205). -/
def joinForm (a : BitVec 5) : Form := { gForm [a] with role := .work, cls := .forbid }

/-- What the frame of every instruction knows of JOIN. -/
def joinOp (st : BitVec 3) (d a b : BitVec 5) : Op :=
  { word := 55#7 ++ st ++ d ++ a ++ b ++ 1#7, stall := st.toNat, reads := [(.g, a.toNat)], role := .work, cls := .forbid }

theorem joinOp_has (st : BitVec 3) (d a b : BitVec 5) : (joinOp st d a b).Has (joinForm a) := ⟨rfl, rfl, rfl, rfl, rfl, rfl, rfl, rfl⟩

/-- A load whose bytes are reached. -/
theorem load_of_reaches {x y : State} {t : Tid} {addr : Word} {size : Nat} {align : Bool} {kind : Via} {ks : List Nat}
    (h : Reaches x t addr size rRD align none true false kind ks y) : load x t addr size align = .ok (y, leNat (readPlaces y ks)) :=
  bind_of_ok h.allowed (bind_of_ok (bind_of_ok h.tracked rfl) rfl)

variable {st : BitVec 3} {d a b : BitVec 5} {s y : State} {kind : Via} {ks : List Nat}

/-- The body of JOIN, once its counter has been read. -/
theorem exec_join (hi : Issues (joinForm a) s)
    (h : Reaches (begun (joinForm a) s) s.cur (s.me.readG a.toNat) 8 rRD true none true false kind ks y) :
    ∃ body, exec (.join st d a b) s = issue (joinOp st d a b) s body ∧
      body (begun (joinForm a) s) s.cur = if leNat (readPlaces y ks) ≠ 0 then .error (.park true .reissue) else .ok (y, .seq) := by
  refine ⟨_, rfl, ?_⟩
  dsimp only
  rw [begun_readG hi.context]
  exact bind_of_ok (load_of_reaches h) rfl

end Join

section Tend

/-- How TEND issues. -/
def tendForm : Form := { role := .work, home := true }

/-- What the frame of every instruction knows of TEND. -/
def tendOp (st : BitVec 3) (d a b : BitVec 5) : Op :=
  { word := 55#7 ++ st ++ d ++ a ++ b ++ 2#7, stall := st.toNat, role := .work, home := true }

theorem tendOp_has (st : BitVec 3) (d a b : BitVec 5) : (tendOp st d a b).Has tendForm := ⟨rfl, rfl, rfl, rfl, rfl, rfl, rfl, rfl⟩

/-- The thread past its TEND runs no task and looks for work (R159). -/
def tended (st : BitVec 3) (z : State) (t : Tid) : State :=
  lookForWork (z.setThread t { (z.thread t).advance ((z.thread t).pc + 4) st.toNat (issueCycle z t) with task := .none }) t

/-- The end of the task that a thread runs: its counter, or its state (R159, R204). -/
def endTask (z : State) (t : Tid) : Running → Except Stop State
  | .task addr =>
    if addr = 0 then pure z
    else countAt (drainPosted z t) t addr (domainScope (z.core t.core)) fun x => some ((x + 2 ^ 64 - 1) % 2 ^ 64)
  | _ => pure (setTaskState (drainPosted z t) t .finished)

variable {st : BitVec 3} {d a b : BitVec 5} {s : State}

theorem plainly_task : Plainly Thread.task := fun _ _ _ _ _ => rfl

/-- The body of TEND. -/
theorem exec_tend (hi : Issues tendForm s) :
    ∃ body, exec (.tend st d a b) s = issue (tendOp st d a b) s body ∧
      let z := begun tendForm s
      body z s.cur =
        if bankHeld (z.core s.cur.core) s.cur.thr ≠ 0 then .error (.trap cACC_HELD (bankHeld (z.core s.cur.core) s.cur.thr))
        else endTask z s.cur s.me.task >>= fun z' => pure (tended st z' s.cur, .placed) := by
  refine ⟨_, rfl, ?_⟩
  intro z
  have ht : (z.thread s.cur).task = s.me.task := plainly_task.begun_thread hi.context
  dsimp only
  rw [ht]
  refine if_congr Iff.rfl rfl ?_
  cases s.me.task with
  | task addr =>
    refine Eq.trans ?_ (apply_ite (· >>= _) (addr = 0) _ _).symm
    exact if_congr Iff.rfl rfl (countAt_bind fun z' => pure (tended st z' s.cur, Next.placed)).symm
  | _ => rfl

end Tend

/-- Settles O31: the parts of FORK, JOIN and TEND, and what the search finds. -/
theorem tasksAndSearch : Obligations.TasksAndSearch := by
  unfold Obligations.TasksAndSearch
  refine ⟨fun st d a b s => ?_, fun s t ht hm => ⟨fun r rs hd => ?_, fun hd ho hs => ?_⟩⟩
  · intro f g h addr push room
    refine ⟨fun kind ks hi hk => ?_, fun kind ks y hi hreach => ?_, fun hi => ?_⟩
    · intro y r z
      obtain ⟨body, he, hroomy, hfull⟩ := exec_fork (st := st) (d := d) hi hk
      refine ⟨fun hr h0 => ?_, fun k q hr h0 hacc hrmw => ?_, fun e hr h0 hacc => ?_, fun hr => ?_⟩
      · exact passes_of he (forkOp_has st d a b) hi ((hroomy hr).trans (bind_of_ok (if_pos h0) rfl))
      · exact passes_of he (forkOp_has st d a b) hi ((hroomy hr).trans (bind_of_ok ((if_neg h0).trans (countAt_ok hacc hrmw)) rfl))
      · exact stops_of he (forkOp_has st d a b) rfl hi ((hroomy hr).trans (bind_of_error ((if_neg h0).trans (countAt_error hacc))))
      · exact raises_of he (forkOp_has st d a b) rfl hi (hfull hr)
    · obtain ⟨body, he, hb⟩ := exec_join (st := st) (d := d) (b := b) hi hreach
      exact ⟨fun h0 => passes_of he (joinOp_has st d a b) hi (hb.trans (if_neg (not_not.mpr h0))),
        fun h0 => stops_of he (joinOp_has st d a b) rfl hi (hb.trans (if_pos h0))⟩
    · intro z held fin
      obtain ⟨body, he, hb⟩ := exec_tend (st := st) (d := d) (a := a) (b := b) hi
      refine ⟨fun hh => raises_of he (tendOp_has st d a b) rfl hi (hb.trans (if_pos hh)), fun hh => ?_⟩
      have hb' := hb.trans (if_neg (not_not.mpr hh))
      refine ⟨fun htask => ?_, fun c k q htask h0 hacc hrmw => ?_, fun c e htask h0 hacc => ?_, fun ts seq htask => ?_⟩
      all_goals rw [htask] at hb'
      · exact settles_of he (tendOp_has st d a b) hi hb'
      · exact settles_of he (tendOp_has st d a b) hi (hb'.trans (bind_of_ok ((if_neg h0).trans (countAt_ok hacc hrmw)) rfl))
      · exact stops_of he (tendOp_has st d a b) rfl hi (hb'.trans (bind_of_error ((if_neg h0).trans (countAt_error hacc))))
      · exact settles_of he (tendOp_has st d a b) hi hb'
  · rw [lookForWork_own hd]
    intro z
    have hth : z.thread t = recordThread (s.thread t) r (.task r.counter) := setThread_thread _ _ _ ht
    obtain ⟨h4, h5, h6⟩ := recordThread_args (s.thread t) r (.task r.counter)
    refine ⟨?_, ?_, ?_, ?_, ?_, ?_, ?_, fun j _ n4 n5 n6 => ?_⟩
    · rw [setThread_deque, setCore_core, if_pos rfl]
    all_goals rw [hth]
    exacts [rfl, rfl, rfl, h4, h5, h6, recordThread_finalG _ _ _ n4 n5 n6]
  · rw [lookForWork_idle hd ho hs]
    refine ⟨onlyThread_setThread _ _ _, ?_⟩
    rw [setThread_thread _ _ _ ht]

end Sys2Proof

namespace Sys2Proof

open Machine

/-! ## Statements about a list of instructions -/

/-- A statement about the pairs of a list: the first, and the rest. -/
theorem pairs_cons {α β : Type} {P : α → β → Prop} {a : α} {b : β} {l : List (α × β)} (h : P a b) (hl : ∀ i x, (i, x) ∈ l → P i x) :
    ∀ i x, (i, x) ∈ (a, b) :: l → P i x := by
  intro i x hm
  rcases List.mem_cons.mp hm with e | hm
  · obtain ⟨rfl, rfl⟩ := Prod.mk.inj e
    exact h
  · exact hl i x hm

theorem pairs_nil {α β : Type} {P : α → β → Prop} : ∀ i x, (i, x) ∈ ([] : List (α × β)) → P i x := fun _ _ h => absurd h List.not_mem_nil

/-! ## Guards (R112) -/

/-- Settles O6: every one of these meanings is `issue` with a guarded operation, and the frame passes it where the guard is false. -/
theorem falseGuardPasses : Obligations.FalseGuardPasses := by
  unfold Obligations.FalseGuardPasses
  intro st k x3 d a b x m o e
  iterate 62 refine pairs_cons (skips_of (fun s => ⟨_, _, rfl, ⟨rfl, rfl, rfl, rfl, rfl, rfl, rfl, rfl⟩⟩) rfl) ?_
  exact pairs_nil

end Sys2Proof

namespace Sys2Proof

open Machine

/-! ## The values of Table 7.2 (R114) -/

theorem add_shiftLeft_eq (x y : Word) (n : Nat) : x + y <<< n = BitVec.ofNat 64 (x.toNat + 2 ^ n * y.toNat) := by
  apply BitVec.eq_of_toNat_eq
  simp [Nat.shiftLeft_eq, Nat.mul_comm]

theorem sub_eq_ofInt (x y : Word) : x - y = BitVec.ofInt 64 (x.toInt - y.toInt) := by
  apply BitVec.eq_of_toInt_eq
  rw [BitVec.toInt_sub, BitVec.toInt_ofInt]

theorem shlW_eq (x y : Word) : shlW x y = BitVec.ofNat 64 (x.toNat * 2 ^ (y.toNat % 64)) := by
  apply BitVec.eq_of_toNat_eq
  rw [shlW, BitVec.toNat_shiftLeft, Nat.shiftLeft_eq, BitVec.toNat_ofNat]

theorem shrW_eq (x y : Word) : shrW x y = BitVec.ofNat 64 (x.toNat / 2 ^ (y.toNat % 64)) := by
  apply BitVec.eq_of_toNat_eq
  rw [shrW, BitVec.toNat_ushiftRight, Nat.shiftRight_eq_div_pow, BitVec.toNat_ofNat,
    Nat.mod_eq_of_lt ((Nat.div_le_self _ _).trans_lt x.isLt)]

theorem sarW_eq (x y : Word) : sarW x y = BitVec.ofInt 64 (x.toInt / 2 ^ (y.toNat % 64)) := by
  have h := Int.shiftRight_eq_div_pow x.toInt (y.toNat % 64)
  push_cast at h
  rw [← h, ← BitVec.toInt_sshiftRight, BitVec.ofInt_toInt, sarW]

/-- MIN and MAX as s64: where the operands compare equal they are the same word, so it does not matter which is taken. -/
theorem ite_slt (x y : Word) : (if x.slt y then x else y) = (if x.toInt ≤ y.toInt then x else y) ∧
    (if x.slt y then y else x) = if x.toInt ≤ y.toInt then y else x := by
  rw [BitVec.slt_eq_decide]
  rcases lt_trichotomy x.toInt y.toInt with hlt | heq | hgt
  · simp [hlt, hlt.le]
  · simp [BitVec.eq_of_toInt_eq heq]
  · simp [hgt.not_ge, hgt.not_gt]

/-- The same as n64. -/
theorem ite_ult (x y : Word) : (if x.ult y then x else y) = (if x.toNat ≤ y.toNat then x else y) ∧
    (if x.ult y then y else x) = if x.toNat ≤ y.toNat then y else x := by
  rw [BitVec.ult_eq_decide]
  rcases lt_trichotomy x.toNat y.toNat with hlt | heq | hgt
  · simp [hlt, hlt.le]
  · simp [BitVec.eq_of_toNat_eq heq]
  · simp [hgt.not_ge, hgt.not_gt]

/-- Adding up the bits of some positions counts the ones among them. -/
theorem foldl_add_bits (x : Word) (l : List Nat) (n : Nat) :
    l.foldl (fun n i => n + (x.getLsbD i).toNat) n = n + (l.filter fun j => x.getLsbD j).length := by
  induction l generalizing n with
  | nil => rfl
  | cons j l ih =>
    rw [List.foldl_cons, ih, List.filter_cons]
    cases x.getLsbD j <;> simp [Nat.add_assoc, Nat.add_comm 1]

theorem popcount_eq (x : Word) : popcount x = ((List.range 64).filter fun j => x.getLsbD j).length := by
  rw [popcount, foldl_add_bits, Nat.zero_add]

/-- The highest one bit of a word that is not 0 is that of its logarithm. -/
theorem clz64_eq (x : Word) : clz64 x = ((List.range 64).find? fun j => x.getLsbD (63 - j)).getD 64 := by
  unfold clz64 bitLen
  by_cases h : x.toNat = 0
  · rw [if_pos h, BitVec.eq_of_toNat_eq (show x.toNat = (0 : Word).toNat from h), List.find?_eq_none.mpr (by simp)]
    rfl
  · have hlt : x.toNat.log2 < 64 := (Nat.log2_lt h).mpr x.isLt
    have hfind : (List.range 64).find? (fun j => x.getLsbD (63 - j)) = some (63 - x.toNat.log2) := by
      rw [List.find?_range_eq_some]
      refine ⟨?_, by simp; omega, fun j hj => ?_⟩
      · rw [show 63 - (63 - x.toNat.log2) = x.toNat.log2 by omega]
        exact Nat.testBit_log2 h
      · simp only [Bool.not_eq_true', BitVec.getLsbD]
        exact Nat.testBit_lt_two_pow ((Nat.log2_lt h).mp (by omega))
    rw [if_neg h, hfind, Option.getD_some]
    omega

/-- Reading the low `n` bits of a word from the lowest on gives the number with these bits in reverse. -/
theorem testBit_foldl_bits (x : Word) {n i : Nat} (hi : i < n) :
    ((List.range n).foldl (fun n j => 2 * n + (x.getLsbD j).toNat) 0).testBit i = x.getLsbD (n - 1 - i) := by
  induction n generalizing i with
  | zero => omega
  | succ n ih =>
    rw [List.range_succ, List.foldl_append, List.foldl_cons, List.foldl_nil]
    generalize List.foldl _ 0 _ = a at ih
    cases i with
    | zero => cases hb : x.getLsbD n <;> simp [Nat.testBit_zero, hb]
    | succ i =>
      have hhalf : (2 * a + (x.getLsbD n).toNat) / 2 = a := by
        have := Bool.toNat_le (x.getLsbD n)
        omega
      rw [Nat.testBit_succ, hhalf, ih (by omega)]
      congr 1
      omega

theorem reverse_eq (x : Word) : x.reverse = BitVec.ofNat 64 ((List.range 64).foldl (fun n j => 2 * n + (x.getLsbD j).toNat) 0) := by
  apply BitVec.eq_of_getLsbD_eq
  intro i hi
  rw [BitVec.getLsbD_reverse, BitVec.getLsbD_ofNat, testBit_foldl_bits x hi, BitVec.getMsbD]

/-! ## Operations that write one general register, by the shape of their meaning -/

section Shapes

variable {i : Instr} {w : BitVec 32} {st : BitVec 3} {d a b : BitVec 5}

theorem writesG_alu2 {f g : Word → Word → Word} (h : ∀ x y, f x y = g x y) (he : ∀ s, exec i s = alu2 w st d a b s f) :
    WritesG i (gForm [a, b]) d.toNat fun t => g (t.readG a.toNat) (t.readG b.toNat) := by
  obtain rfl : f = g := funext₂ h
  exact writesG_of he ⟨rfl, rfl, rfl, rfl, rfl, rfl, rfl, rfl⟩ nofun (fun _ _ _ _ _ => rfl) d.isLt

theorem writesG_alu1 {f g : Word → Word} (h : ∀ x, f x = g x) (he : ∀ s, exec i s = alu1 w st d a s f) :
    WritesG i (gForm [a]) d.toNat fun t => g (t.readG a.toNat) := by
  obtain rfl : f = g := funext h
  exact writesG_of he ⟨rfl, rfl, rfl, rfl, rfl, rfl, rfl, rfl⟩ nofun (fun _ _ _ _ _ => rfl) d.isLt

theorem writesG_alu3 {f : Word → Word → Word → Word} (he : ∀ s, exec i s = alu3 w st d a b s f) :
    WritesG i (gForm [d, a, b]) d.toNat fun t => f (t.readG d.toNat) (t.readG a.toNat) (t.readG b.toNat) :=
  writesG_of he ⟨rfl, rfl, rfl, rfl, rfl, rfl, rfl, rfl⟩ nofun (fun _ _ _ _ _ => rfl) d.isLt

theorem writesG_aluI {m : BitVec 12} {f g : Word → Word → Word} (h : ∀ x y, f x y = g x y) (he : ∀ s, exec i s = aluI w st d a m s f) :
    WritesG i (gForm [a]) d.toNat fun t => g (t.readG a.toNat) (t.imm m) := by
  obtain rfl : f = g := funext₂ h
  exact writesG_of he ⟨rfl, rfl, rfl, rfl, rfl, rfl, rfl, rfl⟩ nofun (fun _ _ _ _ _ => rfl) d.isLt

theorem writesG_mulOp {f g : Word → Word → Word} (h : ∀ x y, f x y = g x y) (he : ∀ s, exec i s = mulOp w st d a b s f) :
    WritesG i (gForm [a, b]) d.toNat fun t => g (t.readG a.toNat) (t.readG b.toNat) := by
  obtain rfl : f = g := funext₂ h
  exact writesG_of he ⟨rfl, rfl, rfl, rfl, rfl, rfl, rfl, rfl⟩ nofun (fun _ _ _ _ _ => rfl) d.isLt

end Shapes

/-- Settles O10: each is an operation of one of three shapes, with the value that the table gives. -/
theorem integerArithmetic : Obligations.IntegerArithmetic := by
  unfold Obligations.IntegerArithmetic
  have hadd (x y : Word) : x + y = BitVec.ofNat 64 (x.toNat + y.toNat) := by simpa using add_shiftLeft_eq x y 0
  refine fun st d a b => ⟨?_, ?_, writesG_alu3 (f := fun z x y => if z ≠ 0 then x else y) fun _ => rfl⟩
  · refine pairs_cons (writesG_alu2 hadd fun _ => rfl) ?_
    refine pairs_cons (writesG_alu2 sub_eq_ofInt fun _ => rfl) ?_
    refine pairs_cons (writesG_alu2 (fun _ _ => rfl) fun _ => rfl) ?_
    refine pairs_cons (writesG_alu2 (fun _ _ => rfl) fun _ => rfl) ?_
    refine pairs_cons (writesG_alu2 (fun _ _ => rfl) fun _ => rfl) ?_
    refine pairs_cons (writesG_alu2 shlW_eq fun _ => rfl) ?_
    refine pairs_cons (writesG_alu2 shrW_eq fun _ => rfl) ?_
    refine pairs_cons (writesG_alu2 sarW_eq fun _ => rfl) ?_
    refine pairs_cons (writesG_alu2 (fun x y => (ite_slt x y).1) fun _ => rfl) ?_
    refine pairs_cons (writesG_alu2 (fun x y => (ite_ult x y).1) fun _ => rfl) ?_
    refine pairs_cons (writesG_alu2 (fun x y => (ite_slt x y).2) fun _ => rfl) ?_
    refine pairs_cons (writesG_alu2 (fun x y => (ite_ult x y).2) fun _ => rfl) ?_
    refine pairs_cons (writesG_alu2 hadd fun _ => rfl) ?_
    refine pairs_cons (writesG_alu2 (fun x y => add_shiftLeft_eq x y 1) fun _ => rfl) ?_
    refine pairs_cons (writesG_alu2 (fun x y => add_shiftLeft_eq x y 2) fun _ => rfl) ?_
    refine pairs_cons (writesG_alu2 (fun x y => add_shiftLeft_eq x y 3) fun _ => rfl) ?_
    exact pairs_nil
  · refine pairs_cons (writesG_alu1 (fun x => congrArg (BitVec.ofNat 64) (popcount_eq x)) fun _ => rfl) ?_
    refine pairs_cons (writesG_alu1 (fun x => congrArg (BitVec.ofNat 64) (clz64_eq x)) fun _ => rfl) ?_
    refine pairs_cons (writesG_alu1 (f := fun x => BitVec.ofNat 64 (ctz64 x)) (fun _ => rfl) fun _ => rfl) ?_
    refine pairs_cons (writesG_alu1 reverse_eq fun _ => rfl) ?_
    exact pairs_nil

/-! ## Bit fields (R115) -/

theorem fieldPos_eq (b : Word) : fieldPos b = b.toNat % 64 := by
  simp [fieldPos, field, BitVec.extractLsb'_toNat]

theorem fieldWidth_eq (b : Word) : fieldWidth b = min (b.toNat / 256 % 128) 64 := by
  simp [fieldWidth, field, BitVec.extractLsb'_toNat, Nat.shiftRight_eq_div_pow]

/-- A field is at most 64 bits wide, so the ones of its width fit in a word. -/
theorem bextW_eq (a b : Word) : bextW a b = BitVec.ofNat 64 (a.toNat / 2 ^ fieldPos b % 2 ^ fieldWidth b) := by
  have hle : 2 ^ fieldWidth b ≤ 2 ^ 64 := Nat.pow_le_pow_right (by omega) (min_le_right _ _)
  have hones : 2 ^ fieldWidth b - 1 < 2 ^ 64 := by
    have := Nat.two_pow_pos (fieldWidth b)
    omega
  have hlt : a.toNat / 2 ^ fieldPos b % 2 ^ fieldWidth b < 2 ^ 64 := (Nat.mod_lt _ (Nat.two_pow_pos _)).trans_le hle
  apply BitVec.eq_of_toNat_eq
  rw [bextW, onesW, BitVec.toNat_and, BitVec.toNat_ushiftRight, Nat.shiftRight_eq_div_pow, BitVec.toNat_ofNat, BitVec.toNat_ofNat,
    Nat.mod_eq_of_lt hones, Nat.mod_eq_of_lt hlt, Nat.and_two_pow_sub_one_eq_mod]

theorem onesW_shiftLeft (w p : Nat) : onesW w <<< p = BitVec.ofNat 64 ((2 ^ w - 1) * 2 ^ p) := by
  apply BitVec.eq_of_toNat_eq
  simp [onesW, Nat.shiftLeft_eq]

/-- Settles O11: the descriptor's two fields, and the mask of the inserted field. -/
theorem bitFields : Obligations.BitFields := by
  unfold Obligations.BitFields
  intro st d a b pos w m
  have hp (t : Thread) : pos t = fieldPos (t.readG b.toNat) := (fieldPos_eq _).symm
  have hw (t : Thread) : w t = fieldWidth (t.readG b.toNat) := (fieldWidth_eq _).symm
  have hm (t : Thread) : m t = onesW (fieldWidth (t.readG b.toNat)) <<< fieldPos (t.readG b.toNat) := by
    rw [onesW_shiftLeft, ← hp, ← hw]
  simp only [hp, hw, hm]
  exact ⟨writesG_alu2 bextW_eq fun _ => rfl, writesG_alu3 (f := binsW) fun _ => rfl⟩

/-! ## Immediates (R36, R45, R117) -/

theorem toInt_append_of_pos {m n : Nat} (p : BitVec m) (q : BitVec n) (h : m ≠ 0) : (p ++ q).toInt = p.toInt * 2 ^ n + q.toNat := by
  rw [BitVec.toInt_append, if_neg (by simpa using h), Int.mul_comm]

/-- Settles O12: the operations of Table 7.2 on the immediate, and the immediate as its parts laid side by side. -/
theorem immediates : Obligations.Immediates := by
  unfold Obligations.Immediates
  refine ⟨fun st d a m => ?_, fun t m h => ?_, fun t m p h => ?_, fun t m p q h => ?_⟩
  · refine pairs_cons (writesG_aluI (fun x y => by simpa using add_shiftLeft_eq x y 0) fun _ => rfl) ?_
    refine pairs_cons (writesG_aluI (fun _ _ => rfl) fun _ => rfl) ?_
    refine pairs_cons (writesG_aluI (fun _ _ => rfl) fun _ => rfl) ?_
    refine pairs_cons (writesG_aluI (fun _ _ => rfl) fun _ => rfl) ?_
    refine pairs_cons (writesG_aluI shlW_eq fun _ => rfl) ?_
    refine pairs_cons (writesG_aluI shrW_eq fun _ => rfl) ?_
    refine pairs_cons (writesG_aluI sarW_eq fun _ => rfl) ?_
    exact pairs_nil
  all_goals simp only [Thread.imm, h]
  · exact BitVec.toInt_signExtend_of_le (by omega)
  · rw [BitVec.toInt_signExtend_of_le (by omega), toInt_append_of_pos p m (by omega)]
  · rw [BitVec.toInt_signExtend_of_le (by omega), toInt_append_of_pos _ m (by omega), toInt_append_of_pos p q (by omega)]
    ring

/-! ## Products and quotients (Table 7.4, R118) -/

theorem mul_eq_ofInt (x y : Word) : x * y = BitVec.ofInt 64 (x.toInt * y.toInt) := by
  rw [BitVec.ofInt_mul, BitVec.ofInt_toInt, BitVec.ofInt_toInt]

theorem mulhN_eq (x y : Word) : mulhN x y = BitVec.ofNat 64 (x.toNat * y.toNat / 2 ^ 64) := by
  have hlt : x.toNat * y.toNat < 2 ^ 128 := lt_of_lt_of_eq (Nat.mul_lt_mul'' x.isLt y.isLt) (by norm_num)
  apply BitVec.eq_of_toNat_eq
  rw [mulhN, BitVec.extractLsb'_toNat, BitVec.toNat_mul, BitVec.toNat_setWidth_of_le (by omega), BitVec.toNat_setWidth_of_le (by omega),
    Nat.mod_eq_of_lt hlt, Nat.shiftRight_eq_div_pow, BitVec.toNat_ofNat]

theorem mulhS_eq (x y : Word) : mulhS x y = BitVec.ofInt 64 (x.toInt * y.toInt / 2 ^ 64) := by
  have hprod : x.signExtend 128 * y.signExtend 128 = BitVec.ofInt 128 (x.toInt * y.toInt) := (BitVec.ofInt_mul _ _).symm
  have hmod : ((x.toInt * y.toInt) % (2 ^ 128 : Nat)).toNat = (x.toInt * y.toInt) % (2 ^ 128 : Nat) :=
    Int.toNat_of_nonneg (Int.emod_nonneg _ (by norm_num))
  apply BitVec.eq_of_toNat_eq
  rw [mulhS, hprod, BitVec.extractLsb'_toNat, BitVec.toNat_ofInt, BitVec.toNat_ofInt, Nat.shiftRight_eq_div_pow]
  generalize x.toInt * y.toInt = p at *
  omega

theorem divS_eq (x y : Word) : divS x y = if y = 0 then BitVec.allOnes 64 else BitVec.ofInt 64 (x.toInt.tdiv y.toInt) := by
  unfold divS
  refine if_congr Iff.rfl rfl (BitVec.eq_of_toInt_eq ?_)
  rw [BitVec.toInt_sdiv, BitVec.toInt_ofInt]

theorem divN_eq (x y : Word) : divN x y = if y = 0 then BitVec.allOnes 64 else BitVec.ofNat 64 (x.toNat / y.toNat) := by
  unfold divN
  refine if_congr Iff.rfl rfl ?_
  rw [← BitVec.toNat_udiv, BitVec.ofNat_toNat, BitVec.setWidth_eq]

theorem remS_eq (x y : Word) : remS x y = if y = 0 then x else BitVec.ofInt 64 (x.toInt.tmod y.toInt) := by
  unfold remS
  refine if_congr Iff.rfl rfl ?_
  rw [← BitVec.toInt_srem, BitVec.ofInt_toInt]

theorem remN_eq (x y : Word) : remN x y = if y = 0 then x else BitVec.ofNat 64 (x.toNat % y.toNat) := by
  unfold remN
  refine if_congr Iff.rfl rfl ?_
  rw [← BitVec.toNat_umod, BitVec.ofNat_toNat, BitVec.setWidth_eq]

section Divide

variable {i : Instr} {w : BitVec 32} {st : BitVec 3} {d a b : BitVec 5}

/-- The thread after a division: DZ where the divisor is zero, and the result (R118). -/
def dividing (d a b : Nat) (f : Word → Word → Word) (t : Thread) : Thread :=
  (if t.readG b = 0 then addFlags t DZ else t).putG d (f (t.readG a) (t.readG b))

/-- A division changes a thread's FFLAGS as it produces its result, and nothing else. -/
theorem dividing_eq (d a b : Nat) (f : Word → Word → Word) (t : Thread) :
    dividing d a b f t = ({ t with fflags := if t.readG b = 0 then t.fflags ||| BitVec.ofNat 64 DZ else t.fflags } : Thread).putG d
      (f (t.readG a) (t.readG b)) := by
  unfold dividing
  split <;> rfl

/-- The operation of a division. -/
def divideOp (w : BitVec 32) (st : BitVec 3) (a b : BitVec 5) : Op :=
  { word := w, stall := st.toNat, reads := [(.g, a.toNat), (.g, b.toNat)], delay := fun n => min n 72, slow := .divide }

theorem divOp_writes {f g : Word → Word → Word} (h : ∀ x y, f x y = g x y) (he : ∀ s, exec i s = divOp w st d a b s f) :
    ∀ s, Issues (gForm [a, b]) s → Answers i s fun s' =>
      let y := s.me.readG b.toNat
      (s'.thread s.cur).finalG d.toNat = (if d = 0 then 0 else g (s.me.readG a.toNat) y) ∧
      (s'.thread s.cur).fflags = (if y = 0 then s.me.fflags ||| BitVec.ofNat 64 DZ else s.me.fflags) ∧
      RegsOnly s.cur s s' [d.toNat] [] [] true (s.me.pc + 4) := by
  obtain rfl : f = g := funext₂ h
  intro s hi
  obtain ⟨s', c, o, h1, h2, h3⟩ := regsOnly_of (op := divideOp w st a b) (f := gForm [a, b]) (g := dividing d.toNat a.toNat b.toNat f)
    (gs := [d.toNat]) (vs := []) (ks := []) (fl := true) ⟨rfl, rfl, rfl, rfl, rfl, rfl, rfl, rfl⟩ nofun hi
    (fun t i _ hn => by rw [dividing_eq]; exact produce_finalG_ne _ _ _ _ _ _ _ _ (.inr (by simpa [eq_comm] using hn)))
    (fun t i _ _ => by rw [dividing_eq]; exact produce_finalV_ne _ _ _ _ _ _ _ _ (.inl (by simp)))
    (fun t i _ _ => by rw [dividing_eq]; exact produce_finalK_ne _ _ _ _ _ _ _ _ (.inl (by simp)))
    (fun t => by rw [dividing_eq]; exact produce_rest _ _ _ _ _ _ _) (fun t => by rw [dividing_eq]; exact produce_pc _ _ _ _ _ _ _) nofun
    (fun t => by rw [dividing_eq]; exact ⟨produce_latchD _ _ _ _ _ _ _, produce_latchA _ _ _ _ _ _ _, produce_latchB _ _ _ _ _ _ _⟩)
  have hread (n : Nat) : (begun (gForm [a, b]) s).me.readG n = s.me.readG n := (plainly_readG n).begun hi.context
  have hflags : (begun (gForm [a, b]) s).me.fflags = s.me.fflags := plainly_fflags.begun hi.context
  refine ⟨s', (he s).trans h1, ?_, ?_, h2⟩
  · rw [h3, passed_finalG _ _ _ _ _ _ d.isLt, dividing_eq, putG_finalG, hread, hread]
    exact if_congr (by simp [← BitVec.toNat_inj]) rfl rfl
  · rw [h3, passed_fflags, dividing_eq, Thread.putG, produce_fflags, hread, hflags]

end Divide

/-- Settles O14: products and quotients of integers, and the flag of a zero divisor. -/
theorem multiplyDivide : Obligations.MultiplyDivide := by
  unfold Obligations.MultiplyDivide
  refine fun st d a b => ⟨?_, ?_⟩
  · refine pairs_cons (writesG_mulOp mul_eq_ofInt fun _ => rfl) ?_
    refine pairs_cons (writesG_mulOp mulhS_eq fun _ => rfl) ?_
    refine pairs_cons (writesG_mulOp mulhN_eq fun _ => rfl) ?_
    exact pairs_nil
  · refine pairs_cons (divOp_writes divS_eq fun _ => rfl) ?_
    refine pairs_cons (divOp_writes divN_eq fun _ => rfl) ?_
    refine pairs_cons (divOp_writes remS_eq fun _ => rfl) ?_
    refine pairs_cons (divOp_writes remN_eq fun _ => rfl) ?_
    exact pairs_nil

end Sys2Proof

namespace Sys2Proof

open Machine

/-! ## Compares and predicates (R116, R117, R177) -/

section Predicates

variable {i : Instr} {w : BitVec 32} {st k : BitVec 3} {a b : BitVec 5}

theorem writesK_cmpRR {f g : Word → Word → Bool} (h : ∀ x y, f x y = g x y) (he : ∀ s, exec i s = cmpRR w st k a b s f) :
    WritesK i (gForm [a, b]) k.toNat fun t => if g (t.readG a.toNat) (t.readG b.toNat) then 0xFFFF else 0 := by
  obtain rfl : f = g := funext₂ h
  exact writesK_of he ⟨rfl, rfl, rfl, rfl, rfl, rfl, rfl, rfl⟩ nofun (fun _ _ _ _ _ => rfl) k.isLt

theorem writesK_cmpRI {m : BitVec 12} {f g : Word → Word → Bool} (h : ∀ x y, f x y = g x y) (he : ∀ s, exec i s = cmpRI w st k a m s f) :
    WritesK i (gForm [a]) k.toNat fun t => if g (t.readG a.toNat) (t.imm m) then 0xFFFF else 0 := by
  obtain rfl : f = g := funext₂ h
  exact writesK_of he ⟨rfl, rfl, rfl, rfl, rfl, rfl, rfl, rfl⟩ nofun (fun _ _ _ _ _ => rfl) k.isLt

theorem beq_eq_decide_toNat (x y : Word) : (x == y) = decide (x.toNat = y.toNat) := by
  rw [beq_eq_decide]
  exact decide_eq_decide.mpr BitVec.toNat_inj.symm

theorem bne_eq_decide_toNat (x y : Word) : (x != y) = decide (x.toNat ≠ y.toNat) := by
  rw [bne, beq_eq_decide_toNat, ← decide_not]

/-- An operation between predicates (R177). -/
theorem writesK_kOp {f : Form} {d : BitVec 5} {x : Thread → Pred} (hx : Plainly x) (hf : { reads := f.reads : Form } = f)
    (he : ∀ s, exec i s = kOp w st f.reads true s fun t => t.putK (kix d) (x t) 2 .alu) : WritesK i f (kix d) x := by
  rw [← hf] at he ⊢
  exact writesK_of he ⟨rfl, rfl, rfl, rfl, rfl, rfl, rfl, rfl⟩ nofun hx (Nat.mod_lt _ (by omega))

/-- An operation with a predicate operand whose result is a general register. -/
theorem writesG_kOp {f : Form} {d : BitVec 5} {x : Thread → Word} (hx : Plainly x) (hf : { reads := f.reads : Form } = f)
    (he : ∀ s, exec i s = kOp w st f.reads true s fun t => t.aluG d.toNat (x t)) : WritesG i f d.toNat x := by
  rw [← hf] at he ⊢
  exact writesG_of he ⟨rfl, rfl, rfl, rfl, rfl, rfl, rfl, rfl⟩ nofun hx d.isLt

end Predicates

/-- The ones of a predicate are counted over its 16 bits: the bits above them are 0. -/
theorem popcount_pred (p : Pred) : popcount (p.setWidth 64) = ((List.range 16).filter fun j => p.getLsbD j).length := by
  have hsplit : List.range 64 = List.range 16 ++ (List.range 48).map (16 + ·) := List.range_add (n := 16) (m := 48)
  have hlow : (List.range 16).filter (fun j => (p.setWidth 64).getLsbD j) = (List.range 16).filter fun j => p.getLsbD j := by
    refine List.filter_congr fun j hj => ?_
    have := List.mem_range.mp hj
    rw [BitVec.getLsbD_setWidth]
    simp [show j < 64 by omega]
  have hhigh : ((List.range 48).map (16 + ·)).filter (fun j => (p.setWidth 64).getLsbD j) = [] := by
    refine List.filter_eq_nil_iff.mpr fun j hj => ?_
    obtain ⟨n, -, rfl⟩ := List.mem_map.mp hj
    rw [BitVec.getLsbD_setWidth, BitVec.getLsbD_of_ge p (16 + n) (by omega)]
    simp
  rw [popcount_eq, hsplit, List.filter_append, hlow, hhigh, List.append_nil]

/-! ## KPACK and KUNPK (R177) -/

/-- k0 to k7, one in each of the low lanes. -/
def packed (t : Thread) : Vec := ofLanes ((List.range 8).map fun i => (t.readK i).setWidth 32)

theorem lane_packed (t : Thread) {l : Nat} (hl : l < 16) : lane (packed t) l = if l < 8 then (t.readK l).setWidth 32 else 0 := by
  rw [packed, lane_ofLanes _ _ hl, List.getD_eq_getElem?_getD, List.getElem?_map]
  by_cases h : l < 8 <;> simp [h]

/-- The thread after `n` of the predicates from k1 on are taken from the lanes of v`a`. -/
def unpacked (a n : Nat) (t : Thread) : Thread :=
  (List.range n).foldl (fun x i => x.putK (i + 1) ((lane (t.readV a) (i + 1)).setWidth 16) 2 .alu) t

theorem unpacked_succ (a n : Nat) (t : Thread) :
    unpacked a (n + 1) t = (unpacked a n t).putK (n + 1) ((lane (t.readV a) (n + 1)).setWidth 16) 2 .alu := by
  unfold unpacked
  rw [List.range_succ, List.foldl_append]
  rfl

/-- Taking predicates changes the pending results alone. -/
theorem unpacked_same (a n : Nat) (t : Thread) : ∃ ps, unpacked a n t = { t with pend := ps } := by
  induction n with
  | zero => exact ⟨t.pend, rfl⟩
  | succ n ih =>
    obtain ⟨ps, h⟩ := ih
    obtain ⟨qs, h'⟩ := produce_same (unpacked a n t) .k (n + 1) maskK (((lane (t.readV a) (n + 1)).setWidth 16 : Pred).setWidth 512) 2 .alu
    exact ⟨qs, by rw [unpacked_succ, Thread.putK, h', h]⟩

theorem unpacked_finalG (a n : Nat) (t : Thread) (j : Nat) : (unpacked a n t).finalG j = t.finalG j := by
  induction n with
  | zero => rfl
  | succ n ih => rw [unpacked_succ, ← ih]; exact produce_finalG_ne _ _ _ _ _ _ _ _ (.inl (by simp))

theorem unpacked_finalV (a n : Nat) (t : Thread) (j : Nat) : (unpacked a n t).finalV j = t.finalV j := by
  induction n with
  | zero => rfl
  | succ n ih => rw [unpacked_succ, ← ih]; exact produce_finalV_ne _ _ _ _ _ _ _ _ (.inl (by simp))

theorem unpacked_finalK (a n : Nat) (t : Thread) (j : Nat) :
    (unpacked a n t).finalK j = if 1 ≤ j ∧ j ≤ n then (lane (t.readV a) j).setWidth 16 else t.finalK j := by
  induction n with
  | zero => rw [if_neg (by omega)]; rfl
  | succ n ih =>
    rw [unpacked_succ]
    by_cases h : n + 1 = j
    · subst h
      rw [putK_finalK_self _ _ _ _ _ (by omega), if_pos (by omega)]
    · rw [Thread.putK, produce_finalK_ne _ _ _ _ _ _ _ _ (.inr h), ih]
      exact if_congr (by omega) rfl rfl

theorem kpack_writes (st : BitVec 3) (d a b : BitVec 5) {s : State} (hi : Issues (kForm (List.range 8)) s) :
    Answers (.kpack st d a b) s fun s' =>
      (∀ l < 16, lane ((s'.thread s.cur).finalV d.toNat) l = if l < 8 then (s.me.readK l).setWidth 32 else 0) ∧
      RegsOnly s.cur s s' [] [d.toNat] [] false (s.me.pc + 4) := by
  obtain ⟨s', c, o, h1, h2, h3⟩ := regsOnly_of (f := kForm (List.range 8)) (s := s)
    (op := { word := 81#7 ++ st ++ d ++ a ++ b ++ 5#7, stall := st.toNat, reads := (List.range 8).map fun i => (RegFile.k, i) })
    (g := fun t => t.produce .v d.toNat maskV (packed t) 2 .alu)
    (gs := []) (vs := [d.toNat]) (ks := []) (fl := false) ⟨rfl, rfl, rfl, rfl, rfl, rfl, rfl, rfl⟩ nofun hi
    (fun t i _ _ => produce_finalG_ne _ _ _ _ _ _ _ _ (.inl (by simp)))
    (fun t i _ hn => produce_finalV_ne _ _ _ _ _ _ _ _ (.inr (by simpa [eq_comm] using hn)))
    (fun t i _ _ => produce_finalK_ne _ _ _ _ _ _ _ _ (.inl (by simp)))
    (fun t => produce_rest _ _ _ _ _ _ _) (fun t => produce_pc _ _ _ _ _ _ _) (fun _ t => produce_fflags _ _ _ _ _ _ _)
    (fun t => ⟨produce_latchD _ _ _ _ _ _ _, produce_latchA _ _ _ _ _ _ _, produce_latchB _ _ _ _ _ _ _⟩)
  refine ⟨s', h1, fun l hl => ?_, h2⟩
  have hread : (begun (kForm (List.range 8)) s).me.readK l = s.me.readK l := (plainly_readK l).begun hi.context
  rw [h3, passed_finalV _ _ _ _ _ _ d.isLt, produce_finalV_self, maskV, BitVec.not_allOnes, BitVec.and_zero, BitVec.zero_or, BitVec.and_allOnes,
    lane_packed _ hl, hread]

theorem kunpk_writes (st : BitVec 3) (d a b : BitVec 5) {s : State} (hi : Issues { reads := [(.v, a.toNat)] } s) :
    Answers (.kunpk st d a b) s fun s' =>
      (∀ j, 1 ≤ j → j < 8 → (s'.thread s.cur).finalK j = (lane (s.me.readV a.toNat) j).setWidth 16) ∧
      RegsOnly s.cur s s' [] [] [1, 2, 3, 4, 5, 6, 7] false (s.me.pc + 4) := by
  obtain ⟨s', c, o, h1, h2, h3⟩ := regsOnly_of (f := { reads := [(.v, a.toNat)] }) (s := s)
    (op := { word := 81#7 ++ st ++ d ++ a ++ b ++ 6#7, stall := st.toNat, reads := [(.v, a.toNat)] }) (g := unpacked a.toNat 7)
    (gs := []) (vs := []) (ks := [1, 2, 3, 4, 5, 6, 7]) (fl := false) ⟨rfl, rfl, rfl, rfl, rfl, rfl, rfl, rfl⟩ nofun hi
    (fun t i _ _ => unpacked_finalG _ _ t i) (fun t i _ _ => unpacked_finalV _ _ t i)
    (fun t i hi hn => (unpacked_finalK _ _ t i).trans (if_neg (by simp at hn; omega)))
    (fun t => by obtain ⟨ps, h⟩ := unpacked_same a.toNat 7 t; rw [h]; rfl) (fun t => by obtain ⟨ps, h⟩ := unpacked_same a.toNat 7 t; rw [h])
    (fun _ t => by obtain ⟨ps, h⟩ := unpacked_same a.toNat 7 t; rw [h])
    (fun t => by obtain ⟨ps, h⟩ := unpacked_same a.toNat 7 t; rw [h]; exact ⟨rfl, rfl, rfl⟩)
  refine ⟨s', h1, fun j hj hj' => ?_, h2⟩
  have hread : (begun { reads := [(.v, a.toNat)] } s).me.readV a.toNat = s.me.readV a.toNat := (plainly_readV _).begun hi.context
  rw [h3, passed_finalK _ _ _ _ _ _ hj', unpacked_finalK, if_pos (by omega), hread]

/-- Settles O13: compares and predicate operations write one register; KPACK and KUNPK by what they produce. -/
theorem comparesAndPredicates : Obligations.ComparesAndPredicates := by
  unfold Obligations.ComparesAndPredicates
  refine ⟨fun st k x a b m => ⟨?_, ?_⟩, fun st x d a b => ?_⟩
  · refine pairs_cons (writesK_cmpRR beq_eq_decide_toNat fun _ => rfl) ?_
    refine pairs_cons (writesK_cmpRR bne_eq_decide_toNat fun _ => rfl) ?_
    refine pairs_cons (writesK_cmpRR (fun x y => BitVec.slt_eq_decide (x := x) (y := y)) fun _ => rfl) ?_
    refine pairs_cons (writesK_cmpRR (fun x y => BitVec.sle_eq_decide (x := x) (y := y)) fun _ => rfl) ?_
    refine pairs_cons (writesK_cmpRR (fun x y => BitVec.ult_eq_decide (x := x) (y := y)) fun _ => rfl) ?_
    refine pairs_cons (writesK_cmpRR (fun x y => BitVec.ule_eq_decide (x := x) (y := y)) fun _ => rfl) ?_
    exact pairs_nil
  · refine pairs_cons (writesK_cmpRI beq_eq_decide_toNat fun _ => rfl) ?_
    refine pairs_cons (writesK_cmpRI bne_eq_decide_toNat fun _ => rfl) ?_
    refine pairs_cons (writesK_cmpRI (fun x y => BitVec.slt_eq_decide (x := x) (y := y)) fun _ => rfl) ?_
    refine pairs_cons (writesK_cmpRI (fun x y => BitVec.ult_eq_decide (x := x) (y := y)) fun _ => rfl) ?_
    exact pairs_nil
  · intro ka kb
    have hnot (t : Thread) : ~~~t.readK ka = t.readK ka ^^^ 0xFFFF := (BitVec.xor_allOnes (x := t.readK ka)).symm
    have hcount (t : Thread) : ((List.range 16).filter fun j => (t.readK ka).getLsbD j).length = popcount ((t.readK ka).setWidth 64) :=
      (popcount_pred _).symm
    simp only [hnot, hcount, BitVec.ofNat_toNat]
    refine ⟨?_, ?_, ?_, ?_, ?_, ?_, ?_, ?_, fun t => rfl, fun s hi => kpack_writes st d a b hi, fun s hi => kunpk_writes st d a b hi⟩
    iterate 6 exact writesK_kOp (fun _ _ _ _ _ => rfl) rfl fun _ => rfl
    iterate 2 exact writesG_kOp (fun _ _ _ _ _ => rfl) rfl fun _ => rfl

end Sys2Proof

namespace Sys2Proof

open Machine

/-! ## Jumps (R36, R120 to R123) -/

/-- A word that is a multiple of 4 keeps its value when bits [1:0] are cleared. -/
theorem and_not_three {x : Word} (h : x.toNat % 4 = 0) : x &&& ~~~3#64 = x := by
  apply BitVec.eq_of_getLsbD_eq
  intro i hi
  have hthree : (3#64).getLsbD i = decide (i < 2) := by
    rw [show 3#64 = BitVec.ofNat 64 (2 ^ 2 - 1) from rfl, BitVec.getLsbD_ofNat, Nat.testBit_two_pow_sub_one]
    simp [hi]
  have hlow (h2 : i < 2) : x.getLsbD i = false := by
    have := congrArg (·.testBit i) h
    rw [show 4 = 2 ^ 2 from rfl] at this
    have hbit : x.toNat.testBit i = false := by simpa only [Nat.testBit_mod_two_pow, h2, decide_true, Bool.true_and, Nat.zero_testBit] using this
    exact hbit
  rw [BitVec.getLsbD_and, BitVec.getLsbD_not, hthree]
  by_cases h2 : i < 2
  · simp [hlow h2]
  · simp [h2, hi]

/-- The target of an off18 or off22 branch is the word's address plus the offset times 4. -/
theorem branchTo_eq {n : Nat} (pc : Word) (o : BitVec n) : branchTo pc (o.signExtend 64) = pc + BitVec.ofInt 64 (o.toInt * 4) := by
  rw [branchTo, BitVec.ofInt_mul]
  rfl

/-- From a multiple of 4 a branch reaches a multiple of 4. -/
theorem branchTo_aligned {n : Nat} {pc : Word} (h : pc.toNat % 4 = 0) (o : BitVec n) :
    branchTo pc (o.signExtend 64) &&& ~~~3#64 = pc + BitVec.ofInt 64 (o.toInt * 4) := by
  rw [branchTo_eq]
  refine and_not_three ?_
  rw [BitVec.toNat_add, BitVec.toNat_ofInt]
  omega

/-- The state in which an instruction runs has the registers with which it issued. -/
theorem regsOnly_begun {f : Form} {s : State} (hc : f.cls ≠ .irrev) (ht : s.cur.thr < 16) :
    RegsOnly s.cur s (begun f s) [] [] [] false s.me.pc :=
  ⟨onlyThread_begun hc s, ⟨fun i _ _ => (plainly_finalG i).begun_thread ht, fun i _ _ => (plainly_finalV i).begun_thread ht,
    fun i _ _ => (plainly_finalK i).begun_thread ht, plainly_rest.begun_thread ht⟩,
    ⟨Plainly.begun_thread (x := Thread.latchD) (fun _ _ _ _ _ => rfl) ht, Plainly.begun_thread (x := Thread.latchA) (fun _ _ _ _ _ => rfl) ht,
      Plainly.begun_thread (x := Thread.latchB) (fun _ _ _ _ _ => rfl) ht⟩,
    fun _ => plainly_fflags.begun_thread ht, plainly_pc.begun_thread ht⟩

/-- A change of registers after one that changes none. -/
theorem RegsOnly.after {t : Tid} {a b c : State} {g v k : List Nat} {fl : Bool} {p q : Word} (h : RegsOnly t a b [] [] [] false p)
    (h' : RegsOnly t b c g v k fl q) : RegsOnly t a c g v k fl q := by
  obtain ⟨hO, ⟨hG, hV, hK, hR⟩, ⟨hD, hA, hB⟩, hF, -⟩ := h
  obtain ⟨hO', ⟨hG', hV', hK', hR'⟩, ⟨hD', hA', hB'⟩, hF', hP'⟩ := h'
  exact ⟨hO.trans hO',
    ⟨fun i hi hn => (hG' i hi hn).trans (hG i hi (by simp)), fun i hi hn => (hV' i hi hn).trans (hV i hi (by simp)),
      fun i hi hn => (hK' i hi hn).trans (hK i hi (by simp)), hR'.trans hR⟩,
    ⟨hD'.trans hD, hA'.trans hA, hB'.trans hB⟩, fun hf => (hF' hf).trans (hF rfl), hP'⟩

/-- Completing a jump changes no register (R123). -/
theorem finish_jump_regsOnly (op : Op) (z : State) {t : Tid} (pc : Word) (h : t.thr < 16) :
    RegsOnly t z (lapse (finish op z t (.jump pc))) [] [] [] false (pc &&& ~~~3#64) := by
  obtain ⟨c, r, ho, ht⟩ := finish_jump op z pc h
  refine ⟨ho, ⟨fun i hi _ => ?_, fun i hi _ => ?_, fun i hi _ => ?_, ?_⟩, ?_, fun _ => ?_, ?_⟩
  all_goals simp only [SameLatches, ht]
  · exact (advance_finalG _ _ _ _ _ hi).trans (timed_finalG _ _ _)
  · exact (advance_finalV _ _ _ _ _ hi).trans (timed_finalV _ _ _)
  · exact (advance_finalK _ _ _ _ _ hi).trans (timed_finalK _ _ _)
  · exact (advance_rest _ _ _ _).trans (timed_rest _ _)
  · exact ⟨advance_latchD _ _ _ _, advance_latchA _ _ _ _, advance_latchB _ _ _ _⟩
  · exact advance_fflags _ _ _ _
  · exact advance_pc _ _ _ _

section Jumps

variable {i : Instr} {op : Op} {f : Form} {pc : Thread → Word} {dest : Thread → Word}

/-- An instruction that jumps and does nothing else. -/
theorem jumps_of (he : ∀ s, exec i s = issue op s fun z t => .ok (z, .jump (pc (z.thread t)))) (hf : op.Has f) (hc : f.cls ≠ .irrev)
    (hx : Plainly pc) (hto : ∀ th, th.pc.toNat % 4 = 0 → pc th &&& ~~~3#64 = dest th) : Jumps i f false dest := by
  intro s hi hpc
  have hend := finish_jump_regsOnly op (begun f s) (pc ((begun f s).thread s.cur)) hi.context
  rw [hx.begun_thread hi.context, hto s.me hpc] at hend
  refine ⟨_, (he s).trans (issue_runs hf hi rfl), nofun, ?_⟩
  rw [hx.begun_thread hi.context]
  exact (regsOnly_begun hc hi.context).followedBy hend

/-- A jump that leaves the address of the next word in g1 (R33). -/
theorem jumps_link_of (he : ∀ s, exec i s = issue op s fun z t =>
      .ok (z.setThread t ((z.thread t).aluG 1 ((z.thread t).pc + 4)), .jump (pc (z.thread t)))) (hf : op.Has f) (hc : f.cls ≠ .irrev)
    (hx : Plainly pc) (hto : ∀ th, th.pc.toNat % 4 = 0 → pc th &&& ~~~3#64 = dest th) : Jumps i f true dest := by
  intro s hi hpc
  have ht : s.cur.thr < 16 := hi.context
  have hat : ((begun f s).thread s.cur).pc = s.me.pc := plainly_pc.begun_thread ht
  have hlink := regsOnly_produceG (begun f s) ht 1 maskG ((s.me.pc + 4).setWidth 512) 2 .alu
  have hend := finish_jump_regsOnly op ((begun f s).setThread s.cur (((begun f s).thread s.cur).aluG 1 (s.me.pc + 4))) (pc s.me) ht
  rw [hto s.me hpc] at hend
  refine ⟨_, (he s).trans (issue_runs hf hi rfl), ?_⟩
  rw [hat, hx.begun_thread ht]
  refine ⟨fun _ => ?_, (regsOnly_begun hc ht).after (hlink.followedBy hend)⟩
  rw [hend.keeps.g 1 (by omega) (by simp), setThread_thread _ _ _ ht, aluG_finalG]
  rfl

end Jumps

/-- Settles O16: the four jumps, from the target and the link of each. -/
theorem jumpsAndCalls : Obligations.JumpsAndCalls := by
  unfold Obligations.JumpsAndCalls
  refine fun st o d a b => ⟨?_, ?_, ?_, ?_⟩
  · exact jumps_of (pc := fun t => branchTo t.pc (o.signExtend 64)) (fun _ => rfl) ⟨rfl, rfl, rfl, rfl, rfl, rfl, rfl, rfl⟩ nofun
      (fun _ _ _ _ _ => rfl) fun _ h => branchTo_aligned h o
  · exact jumps_link_of (pc := fun t => branchTo t.pc (o.signExtend 64)) (fun _ => rfl) ⟨rfl, rfl, rfl, rfl, rfl, rfl, rfl, rfl⟩ nofun
      (fun _ _ _ _ _ => rfl) fun _ h => branchTo_aligned h o
  · exact jumps_of (pc := fun t => t.readG a.toNat) (fun _ => rfl) ⟨rfl, rfl, rfl, rfl, rfl, rfl, rfl, rfl⟩ nofun
      (fun _ _ _ _ _ => rfl) fun _ _ => rfl
  · exact jumps_link_of (pc := fun t => t.readG a.toNat) (fun _ => rfl) ⟨rfl, rfl, rfl, rfl, rfl, rfl, rfl, rfl⟩ nofun
      (fun _ _ _ _ _ => rfl) fun _ _ => rfl

/-- The form of BR, which carries its own predicate. -/
def brForm (k : BitVec 3) : Form := { kForm [k.toNat] with guarded := false }

/-- The operation of BR. -/
def brOp (st k : BitVec 3) (n : BitVec 1) (o : BitVec 18) : Op :=
  { word := (16#7 ++ st ++ k ++ n ++ o), stall := st.toNat, guarded := false, reads := [(.k, k.toNat)] }

theorem brOp_has (st k : BitVec 3) (n : BitVec 1) (o : BitVec 18) : (brOp st k n o).Has (brForm k) := ⟨rfl, rfl, rfl, rfl, rfl, rfl, rfl, rfl⟩

/-- The body of BR. -/
theorem exec_br (st k : BitVec 3) (n : BitVec 1) (o : BitVec 18) {s : State} (ht : s.cur.thr < 16) :
    ∃ body, exec (.br st k n o) s = issue (brOp st k n o) s body ∧ body (begun (brForm k) s) s.cur =
      .ok (begun (brForm k) s, if ((s.me.readK k.toNat).getLsbD 0 ^^ (n == 1#1)) then .jump (branchTo s.me.pc (o.signExtend 64)) else .seq) := by
  have hat : ((begun (brForm k) s).thread s.cur).pc = s.me.pc := plainly_pc.begun_thread ht
  have hread : ((begun (brForm k) s).thread s.cur).readK k.toNat = s.me.readK k.toNat := (plainly_readK _).begun_thread ht
  refine ⟨_, rfl, ?_⟩
  dsimp only
  rw [hat, hread]
  exact (apply_ite (fun n => Except.ok (begun (brForm k) s, n)) _ _ _).symm

/-- BR by the value of its condition (R120). -/
theorem br_goes (st k : BitVec 3) (n : BitVec 1) (o : BitVec 18) {s : State} (hi : Issues (brForm k) s) (hpc : s.me.pc.toNat % 4 = 0) :
    Answers (.br st k n o) s fun s' => RegsOnly s.cur s s' [] [] [] false
      (if ((s.me.readK k.toNat).getLsbD 0 ^^ (n == 1#1)) then s.me.pc + BitVec.ofInt 64 (o.toInt * 4) else s.me.pc + 4) := by
  have ht : s.cur.thr < 16 := hi.context
  have hz := regsOnly_begun (f := brForm k) nofun ht
  obtain ⟨body, he, hb⟩ := exec_br st k n o ht
  refine ⟨_, he.trans (issue_runs (brOp_has st k n o) hi hb), hz.followedBy ?_⟩
  split
  · rw [← branchTo_aligned hpc]
    exact finish_jump_regsOnly _ _ _ ht
  · rw [← hz.pc]
    exact finish_seq_regsOnly _ _ ht

/-- Settles O15: BR by its condition; with k0, which reads as all ones, it goes where `neg` is 0. -/
theorem branchTaken : Obligations.BranchTaken := by
  unfold Obligations.BranchTaken
  refine ⟨fun st k n o s hi hpc => br_goes st k n o hi hpc, fun st n o s hi hpc => ?_⟩
  obtain ⟨s', he, hr⟩ := br_goes st 0 n o hi hpc
  have hk0 : s.me.readK (0 : BitVec 3).toNat = 0xFFFF := if_pos rfl
  have hneg : ∀ n : BitVec 1, ((0xFFFF : Pred).getLsbD 0 ^^ (n == 1#1)) = true ↔ n = 0 := by decide
  refine ⟨s', he, hr.pc.trans (if_congr ?_ rfl rfl)⟩
  rw [hk0]
  exact hneg n

end Sys2Proof

namespace Sys2Proof

open Machine

/-! ## Traps that a program raises itself (R124 to R126, R205, R396) -/

/-- A change of the thread that changes no value with which a register ends. -/
theorem regsOnly_setThread (s : State) {t : Tid} (h : t.thr < 16) {x : Thread} (hg : ∀ i < 32, x.finalG i = (s.thread t).finalG i)
    (hv : ∀ i < 32, x.finalV i = (s.thread t).finalV i) (hk : ∀ i < 8, x.finalK i = (s.thread t).finalK i) (hr : x.rest = (s.thread t).rest)
    (hl : x.latchD = (s.thread t).latchD ∧ x.latchA = (s.thread t).latchA ∧ x.latchB = (s.thread t).latchB)
    (hf : x.fflags = (s.thread t).fflags) : RegsOnly t s (s.setThread t x) [] [] [] false x.pc := by
  have ht := setThread_thread s t x h
  refine ⟨onlyThread_setThread _ _ _, ⟨fun i hi _ => ?_, fun i hi _ => ?_, fun i hi _ => ?_, ?_⟩, ?_, fun _ => ?_, ?_⟩
  all_goals simp only [SameLatches, ht]
  exacts [hg i hi, hv i hi, hk i hi, hr, hl, hf]

/-- The thread past an instruction that issued in cycle `c`. -/
theorem regsOnly_advance (s : State) {t : Tid} (h : t.thr < 16) (pc : Word) (n c : Nat) :
    RegsOnly t s (s.setThread t (((s.thread t).timed c).advance pc n c)) [] [] [] false pc := by
  have hr := regsOnly_setThread s h (x := ((s.thread t).timed c).advance pc n c)
    (fun i hi => (advance_finalG _ _ _ _ _ hi).trans (timed_finalG _ _ _))
    (fun i hi => (advance_finalV _ _ _ _ _ hi).trans (timed_finalV _ _ _))
    (fun i hi => (advance_finalK _ _ _ _ _ hi).trans (timed_finalK _ _ _)) ((advance_rest _ _ _ _).trans (timed_rest _ _))
    ⟨advance_latchD _ _ _ _, advance_latchA _ _ _ _, advance_latchB _ _ _ _⟩ (advance_fflags _ _ _ _)
  rwa [advance_pc] at hr

/-- Completing an instruction that then raises a trap at the next chain: the thread is past it, and the trap is taken at home (R124,
R125, R161). -/
theorem finish_after (op : Op) (z : State) {t : Tid} (code : Nat) (eval : Word) (h : t.thr < 16) :
    ∃ y, RegsOnly t z y [] [] [] false ((z.thread t).pc + 4) ∧ finish op z t (.after code eval) =
      match (z.thread t).homeOf with
      | none => takeTrap y t code eval ((z.thread t).pc + 4) false
      | some k => takeTrap (returnHome y t) k code eval ((z.thread t).pc + 4) false := by
  have hth : (noteIssue z t (issueCycle z t + op.conflict)).thread t = z.thread t := noteIssue_thread _ _ _ _
  have hr := regsOnly_advance (noteIssue z t (issueCycle z t + op.conflict)) h ((z.thread t).pc + 4) op.stall (issueCycle z t + op.conflict)
  refine ⟨_, hr.of_onlyThread (onlyThread_noteIssue _ _ _) hth, ?_⟩
  unfold finish
  dsimp only
  rw [timed_pc, hth, setThread_thread _ _ _ h, advance_pc]
  have hhome : ((z.thread t).timed (issueCycle z t + op.conflict)).homeOf = (z.thread t).homeOf := rfl
  rw [hhome]
  cases (z.thread t).homeOf <;> rfl

theorem passOn_taskOf (z : State) (t : Tid) : taskOf (passOn z t) t = taskOf z t := by
  unfold passOn
  dsimp only
  split <;> rfl

/-- R205: an irrevocable instruction of an unprotected ordered task waits until the task is protected. -/
theorem issue_unprotected {op : Op} {f : Form} {s : State} {body : Body} {y : OTask} (hf : op.Has f) (hc : f.cls = .irrev)
    (ha : Admits f s) (hm : s.meth = none) (hs : s.me.chk = true → firstShort s.me (f.allReads s.me) = none)
    (hg : (s.me.readK s.me.predIx).getLsbD 0 = true) (hk : f.keeps = false) (hy : taskOf (begun {} s) s.cur = some y) (hp : y.prot = false) :
    issue op s body = stopped (conflictEnd op.conflict (atIssue s) s.cur) s.cur (.park false .protect) := by
  obtain ⟨-, hrole, harr⟩ := ha
  have hth : (atIssue s).thread s.cur = s.me := atIssue_thread s s.cur
  have hlegal : (!op.legal || !(op.role.admits s.cur.thr || (atIssue s).meth.isSome)) = false := by
    rw [hf.legal, hf.role, atIssue_meth]
    rcases hrole with h | h <;> simp [h]
  have hshort : (if s.me.chk then firstShort s.me (op.allReads s.me) else none) = none := by
    rw [Op.allReads, hf.guarded, hf.reads]
    exact ite_eq_right_iff.mpr hs
  have hguard : (op.guarded && !(s.me.readK s.me.predIx).getLsbD 0) = false := by rw [hg, Bool.not_true, Bool.and_false]
  have hz : (if op.cls == .irrev then passOn (if op.keeps then atIssue s else (atIssue s).setThread s.cur (dropKept s.me)) s.cur
      else if op.keeps then atIssue s else (atIssue s).setThread s.cur (dropKept s.me)) = passOn (begun {} s) s.cur := by
    rw [hf.keeps, hf.cls, hc, hk, begun_eq]
    rfl
  have htask : taskOf (passOn (begun {} s) s.cur) s.cur = some y := (passOn_taskOf _ _).trans hy
  have hmeth : (passOn (begun {} s) s.cur).meth = none := (passOn_meth _ _).trans ((begun_meth_none _ _).mpr hm)
  have hb : issueBody op (atIssue s) s.cur body = .error (.park false .protect) := by
    unfold issueBody
    simp only [hlegal, hth, hshort, hguard, Bool.false_eq_true, if_false]
    rw [hz, htask, hmeth, hf.cls, hc]
    simp [hp]
  unfold issue
  dsimp only
  rw [eligible hf harr, hb]

section SystemCalls

variable {st : BitVec 3} {d a : BitVec 5} {m : BitVec 12} {e : BitVec 15} {s : State}

/-- The form of SYS and TRAP. -/
def callForm : Form := { cls := .irrev, awaits := .slow }

/-- SYS and TRAP complete and raise their trap (R124, R125). -/
theorem raisesAfter_of {i : Instr} {op : Op} {c : Nat} (hf : op.Has callForm) (hi : Issues callForm s)
    (he : exec i s = issue op s fun z t => .ok (z, .after c ((z.thread t).imm m))) :
    ∃ z, RegsOnly s.cur (begun callForm s) z [] [] [] false (s.me.pc + 4) ∧
      exec i s = .next (lapse (match s.me.homeOf with
        | none => takeTrap z s.cur c (s.me.imm m) (s.me.pc + 4) false
        | some h => takeTrap (returnHome z s.cur) h c (s.me.imm m) (s.me.pc + 4) false)) := by
  have hat : ((begun callForm s).thread s.cur).pc = s.me.pc := plainly_pc.begun_thread hi.context
  have himm : ((begun callForm s).thread s.cur).imm m = s.me.imm m :=
    Plainly.begun_thread (x := fun t => t.imm m) (fun _ _ _ _ _ => rfl) hi.context
  have hhome : ((begun callForm s).thread s.cur).homeOf = s.me.homeOf :=
    Plainly.begun_thread (x := Thread.homeOf) (fun _ _ _ _ _ => rfl) hi.context
  obtain ⟨y, hr, hfin⟩ := finish_after op (begun callForm s) c (((begun callForm s).thread s.cur).imm m) hi.context
  rw [hat] at hr
  refine ⟨y, hr, (he.trans (issue_runs hf hi rfl)).trans ?_⟩
  rw [hfin, hat, himm, hhome]

/-- The form of BRK. -/
def brkForm : Form := { cls := .irrev }

/-- The operation of BRK. -/
def brkOp (st : BitVec 3) (e : BitVec 15) : Op := { word := (24#7 ++ st ++ e ++ 2#7), stall := st.toNat, cls := .irrev }

theorem brkOp_has : (brkOp st e).Has brkForm := ⟨rfl, rfl, rfl, rfl, rfl, rfl, rfl, rfl⟩

/-- The body of BRK. -/
theorem exec_brk (hi : Issues brkForm s) : ∃ body, exec (.brk st e) s = issue (brkOp st e) s body ∧
    let z := begun brkForm s
    body z s.cur =
      if bit (z.ctx (ctxOf z s.cur)).spoor 5 then (if s.me.passBreak then .ok (z, .seq) else .ok (haltAt z s.cur 8, .placed))
      else if s.me.passBrk then .ok (z, .seq)
      else .error (.trap cBREAKPOINT (BitVec.ofNat 64 e.toNat)) := by
  have hbreak : ((begun brkForm s).thread s.cur).passBreak = s.me.passBreak :=
    Plainly.begun_thread (x := Thread.passBreak) (fun _ _ _ _ _ => rfl) hi.context
  have hbrk : ((begun brkForm s).thread s.cur).passBrk = s.me.passBrk :=
    Plainly.begun_thread (x := Thread.passBrk) (fun _ _ _ _ _ => rfl) hi.context
  refine ⟨_, rfl, ?_⟩
  dsimp only
  rw [hbreak, hbrk, BitVec.ofNat_toNat]

/-- In an ordered task that is protected a trap needs no protection (R205). -/
theorem Issues.task_prot {f : Form} (hi : Issues f s) (hc : f.cls = .irrev) (hm : s.meth = none) :
    ∀ y, taskOf s s.cur = some y → y.prot = true := fun y hy => (hi.task hm y hy).2 hc

/-- BRK by whether break stops are armed and the debugger lets the chain go on (R126, R396). -/
theorem brk_cases (hi : Issues brkForm s) :
    let z := begun brkForm s
    let armed := bit (z.ctx (ctxOf z s.cur)).spoor 5
    (armed = false → s.me.passBrk = true → Passes (.brk st e) s z) ∧
    (armed = false → s.me.passBrk = false → Raises (.brk st e) s cBREAKPOINT (BitVec.ofNat 64 e.toNat)) ∧
    (armed = true → s.me.passBreak = true → Passes (.brk st e) s z) ∧
    (armed = true → s.me.passBreak = false → Settles (.brk st e) s (haltAt z s.cur 8)) := by
  obtain ⟨body, he, hb⟩ := exec_brk (st := st) (e := e) hi
  refine ⟨fun h h' => passes_of he brkOp_has hi ?_, fun h h' => raises_of he brkOp_has rfl hi ?_,
    fun h h' => passes_of he brkOp_has hi ?_, fun h h' => settles_of he brkOp_has hi ?_⟩
  all_goals
    rw [hb, h, h']
    rfl

end SystemCalls

/-- Settles O20: SYS and TRAP complete before their trap; BRK by its cases; R205's class makes each wait to be protected. -/
theorem systemCalls : Obligations.SystemCalls := by
  unfold Obligations.SystemCalls
  refine ⟨fun st d a m s => ?_, fun st e s => ?_, fun st e s y ha hm hs hg hy hp => ?_⟩
  · refine pairs_cons ⟨fun hi => raisesAfter_of ⟨rfl, rfl, rfl, rfl, rfl, rfl, rfl, rfl⟩ hi rfl, fun y ha hm hs hg hy hp => ?_⟩ ?_
    · exact issue_unprotected (f := callForm) ⟨rfl, rfl, rfl, rfl, rfl, rfl, rfl, rfl⟩ rfl ha hm hs hg rfl hy hp
    · refine pairs_cons ⟨fun hi => raisesAfter_of ⟨rfl, rfl, rfl, rfl, rfl, rfl, rfl, rfl⟩ hi rfl, fun y ha hm hs hg hy hp => ?_⟩ pairs_nil
      exact issue_unprotected (f := callForm) ⟨rfl, rfl, rfl, rfl, rfl, rfl, rfl, rfl⟩ rfl ha hm hs hg rfl hy hp
  · intro f z armed hi
    obtain ⟨hpass, hraise, hgo, hhalt⟩ := brk_cases (st := st) (e := e) hi
    refine ⟨hpass, hraise, fun h h' hm hh hl => ?_, hgo, hhalt⟩
    rw [hraise h h']
    exact stopped_trap hi.context hh (hi.task_prot rfl hm) hl
  · exact issue_unprotected (f := brkForm) brkOp_has rfl ha hm hs hg rfl hy hp

end Sys2Proof

namespace Sys2Proof

open Machine

/-! ## IDLE, YIELD and YPT (R111, R128, R157, R355) -/

section Idle

variable {st : BitVec 3} {d a b : BitVec 5} {s : State}

/-- The form of IDLE. -/
def idleForm (a b : BitVec 5) : Form := { gForm [a, b] with home := true }

/-- The operation of IDLE. -/
def idleOp (st : BitVec 3) (d a b : BitVec 5) : Op :=
  { word := (24#7 ++ st ++ d ++ a ++ b ++ 1#7), stall := st.toNat, reads := [(.g, a.toNat), (.g, b.toNat)], home := true }

theorem idleOp_has : (idleOp st d a b).Has (idleForm a b) := ⟨rfl, rfl, rfl, rfl, rfl, rfl, rfl, rfl⟩

/-- The conditions of Table 7.6 that an IDLE selects. -/
def idleMask (s : State) (a : BitVec 5) : Word := s.me.readG a.toNat &&& idleRole s.cur.thr

/-- The selected conditions that hold where it runs. -/
def idleHit (s : State) (a b : BitVec 5) : Word := idleMask s a &&& idleHolds (begun (idleForm a b) s) s.cur (s.me.readG b.toNat)

/-- The last work of a launch's part is done: T0 selects no condition, no trap of it is pending, and T1 to T12 are dormant (R128). -/
def PartEnds (s z : State) (a : BitVec 5) : Prop :=
  idleMask s a = 0 ∧ s.cur.thr = 0 ∧ s.me.asyncq.isEmpty ∧ (List.range 12).all (fun i => (z.thread ⟨s.cur.core, i + 1⟩).run == .dormant)

/-- How a thread is idle: with no condition selected, or until one holds, by its GTS where TIME is among them (R128). -/
def idleRun (s : State) (a b : BitVec 5) : Run :=
  if idleMask s a = 0 then .idleAlways else .idle true (if (idleMask s a).getLsbD 2 then some (s.me.readG b.toNat).toNat else none)

/-- The thread past an instruction of stall `st`. -/
def pastHere (s y : State) (st : BitVec 3) : Thread := (y.thread s.cur).advance (s.me.pc + 4) st.toNat (issueCycle y s.cur)

/-- The body of IDLE. -/
theorem exec_idle (hi : Issues (idleForm a b) s) : ∃ body, exec (.idle st d a b) s = issue (idleOp st d a b) s body ∧
    let z := begun (idleForm a b) s
    (idleHit s a b ≠ 0 → body z s.cur = .ok (z.setThread s.cur ((z.thread s.cur).putG d.toNat (idleHit s a b)), .seq)) ∧
    (idleHit s a b = 0 → PartEnds s z a → body z s.cur = .ok (endT0 (z.setThread s.cur (pastHere s z st)) s.cur, .placed)) ∧
    (idleHit s a b = 0 → ¬ PartEnds s z a → body z s.cur = .ok (z.setThread s.cur { (z.thread s.cur).rewind with
      run := idleRun s a b }, .placed)) := by
  have hread (n : Nat) : ((begun (idleForm a b) s).thread s.cur).readG n = s.me.readG n := (plainly_readG n).begun_thread hi.context
  have hat : ((begun (idleForm a b) s).thread s.cur).pc = s.me.pc := plainly_pc.begun_thread hi.context
  have hq : ((begun (idleForm a b) s).thread s.cur).asyncq = s.me.asyncq :=
    Plainly.begun_thread (x := Thread.asyncq) (fun _ _ _ _ _ => rfl) hi.context
  refine ⟨_, rfl, ?_⟩
  dsimp only
  rw [hread, hread, hat, hq]
  exact ⟨fun h => if_pos h, fun h h' => (if_neg (not_not.mpr h)).trans (if_pos h'), fun h h' => (if_neg (not_not.mpr h)).trans (if_neg h')⟩

/-- IDLE by the selected conditions (R128). -/
theorem idle_cases (hi : Issues (idleForm a b) s) :
    let z := begun (idleForm a b) s
    (idleHit s a b ≠ 0 → Yields (.idle st d a b) s z d.toNat (idleHit s a b)) ∧
    (idleHit s a b = 0 → PartEnds s z a → Settles (.idle st d a b) s (endT0 (z.setThread s.cur (pastHere s z st)) s.cur)) ∧
    (idleHit s a b = 0 → ¬ PartEnds s z a → Settles (.idle st d a b) s (z.setThread s.cur { (z.thread s.cur).rewind with
      run := idleRun s a b })) := by
  obtain ⟨body, he, hhit, hend, hwait⟩ := exec_idle (st := st) (d := d) hi
  exact ⟨fun h => yields_of he idleOp_has hi d.isLt (hhit h), fun h h' => settles_of he idleOp_has hi (hend h h'),
    fun h h' => settles_of he idleOp_has hi (hwait h h')⟩

/-- YIELD (R157). -/
theorem yield_settles (hi : Issues {} s) :
    let y := begun {} s
    let cyc := issueCycle y s.cur
    Settles (.yield st d a b) s (y.setThread s.cur { ((y.thread s.cur).timed cyc).advance (s.me.pc + 4) st.toNat cyc with
      yieldFor := othersReady y s.cur cyc, yieldEnd := cyc + 17 }) := by
  have hat : ((begun {} s).thread s.cur).pc = s.me.pc := plainly_pc.begun_thread hi.context
  refine settles_of (op := { word := (54#7 ++ st ++ d ++ a ++ b ++ 2#7), stall := st.toNat }) rfl
    ⟨rfl, rfl, rfl, rfl, rfl, rfl, rfl, rfl⟩ hi ?_
  rw [← hat]

/-- The operation of YPT. -/
def yptOp (st : BitVec 3) (d a b : BitVec 5) : Op :=
  { word := (54#7 ++ st ++ d ++ a ++ b ++ 3#7), stall := st.toNat, reads := [(.g, a.toNat), (.g, b.toNat)] }

theorem yptOp_has : (yptOp st d a b).Has (gForm [a, b]) := ⟨rfl, rfl, rfl, rfl, rfl, rfl, rfl, rfl⟩

/-- YPT by whether the thread's partition is in its grace window (R111, R355). -/
theorem ypt_cases (hi : Issues (gForm [a, b]) s) :
    let y := begun (gForm [a, b]) s
    let z := drainPosted y s.cur
    (inGrace y s.cur = false ∨ speculative y s.cur = true → Passes (.ypt st d a b) s y) ∧
    (inGrace y s.cur = true → speculative y s.cur = false → Settles (.ypt st d a b) s (z.setThread s.cur { stopThread (pastHere s z st) with
      yielded := some (s.me.readG a.toNat, s.me.readG b.toNat) })) := by
  have hat : ((begun (gForm [a, b]) s).thread s.cur).pc = s.me.pc := plainly_pc.begun_thread hi.context
  have hread (n : Nat) : ((begun (gForm [a, b]) s).thread s.cur).readG n = s.me.readG n := (plainly_readG n).begun_thread hi.context
  refine ⟨fun h => passes_of (op := yptOp st d a b) rfl yptOp_has hi (if_neg ?_), fun h h' => ?_⟩
  · rcases h with h | h <;> simp [h]
  · refine settles_of (op := yptOp st d a b) rfl yptOp_has hi ((if_pos ⟨h, by simp [h']⟩).trans ?_)
    rw [hat, hread, hread]
    rfl

end Idle

/-! ## The ends of waits (R38, R42, R47, R128, R147, R159) -/

/-- Time passes beside a change of registers. -/
theorem RegsOnly.lapse {t : Tid} {a b : State} {g v k : List Nat} {fl : Bool} {pc : Word} (h : RegsOnly t a b g v k fl pc) :
    RegsOnly t a (Machine.lapse b) g v k fl pc := 
  ⟨h.only.trans (onlyThread_lapse t b), ⟨h.keeps.g, h.keeps.v, h.keeps.k, h.keeps.rest⟩, h.latches, h.flags, h.pc⟩

/-- Writing the results that are in time into their registers changes no value with which a register ends (R40). -/
theorem regsOnly_commit (s : State) {t : Tid} (h : t.thr < 16) :
    RegsOnly t s (s.setThread t (s.thread t).commit) [] [] [] false (s.thread t).pc := by
  have hr := regsOnly_setThread s h (x := (s.thread t).commit) (fun i hi => commit_finalG _ i hi) (fun i hi => commit_finalV _ i hi)
    (fun i hi => commit_finalK _ i hi) (commit_rest _) ⟨commit_latchD _, commit_latchA _, commit_latchB _⟩ (commit_fflags _)
  rwa [commit_pc] at hr

/-- What a thread is owed is no register. -/
theorem regsOnly_setOwed (s : State) {t : Tid} (h : t.thr < 16) (os : List Owed) :
    RegsOnly t s (s.setThread t { s.thread t with owed := os }) [] [] [] false (s.thread t).pc :=
  regsOnly_setThread s h (x := { s.thread t with owed := os }) (fun _ _ => rfl) (fun _ _ => rfl) (fun _ _ => rfl) rfl ⟨rfl, rfl, rfl⟩ rfl

theorem onlyThread_advanceTo (t : Tid) (s : State) (d c : Nat) : OnlyThread t s (advanceTo s d c) := by
  obtain ⟨n, ds, h⟩ := advanceTo_eq s d c
  rw [h]
  exact ⟨rfl, fun _ => rfl, fun _ _ _ => rfl, rfl⟩

theorem advanceTo_thread (s : State) (d c : Nat) (t : Tid) : (advanceTo s d c).thread t = s.thread t := by
  obtain ⟨n, ds, h⟩ := advanceTo_eq s d c
  rw [h]
  rfl

/-- R42: the first owed value is written at its due time; a thread that is owed none has its results written. -/
theorem interlockedValueWrite_writes (s : State) (c : Nat) {t : Nat} (ht : t < 16) :
    Answers (.interlockedValueWrite c t) s fun s' =>
      RegsOnly ⟨c, t⟩ s s' [] [] [] false (s.thread ⟨c, t⟩).pc ∧ (∀ p ∈ (s'.thread ⟨c, t⟩).pend, p ∈ (s.thread ⟨c, t⟩).pend) ∧
      (∀ due, ((s.thread ⟨c, t⟩).owed.map (·.due)).min? = some due →
        (s'.thread ⟨c, t⟩).owed = (s.thread ⟨c, t⟩).owed.filter fun e => decide (due < e.due)) := by
  have he : exec (.interlockedValueWrite c t) s = execInterlockedValueWrite c t s := rfl
  cases hdue : ((s.thread ⟨c, t⟩).owed.map (·.due)).min? with
  | some due =>
    have hz := advanceTo_thread s (dieOf s c) due ⟨c, t⟩
    have hr := regsOnly_setOwed (advanceTo s (dieOf s c) due) (t := ⟨c, t⟩) ht
      ((s.thread ⟨c, t⟩).owed.filter fun e => decide (due < e.due))
    rw [hz] at hr
    refine ⟨lapse ((advanceTo s (dieOf s c) due).setThread ⟨c, t⟩ { s.thread ⟨c, t⟩ with
      owed := (s.thread ⟨c, t⟩).owed.filter fun e => decide (due < e.due) }), ?_, ?_, ?_, ?_⟩
    · rw [he, execInterlockedValueWrite, hdue]
    · exact (hr.of_onlyThread (onlyThread_advanceTo _ _ _ _) hz).lapse
    all_goals rw [lapse_thread, setThread_thread _ _ _ ht]
    · exact fun p hp => hp
    · rintro x ⟨⟩
      rfl
  | none =>
    refine ⟨lapse (s.setThread ⟨c, t⟩ (s.thread ⟨c, t⟩).commit), ?_, (regsOnly_commit s (t := ⟨c, t⟩) ht).lapse, ?_, nofun⟩
    · rw [he, execInterlockedValueWrite, hdue]
    · rw [lapse_thread, setThread_thread _ _ _ ht]
      exact fun p hp => commit_pend_subset _ hp

section Wakes

variable {s : State} {c t : Nat}

theorem hschWaitExpiry_ready (hr : (s.thread ⟨c, t⟩).run = .ready) :
    Moves (.hschWaitExpiry c t) s (advanceTo s (dieOf s c) (s.thread ⟨c, t⟩).readyAt) := by
  have he : exec (.hschWaitExpiry c t) s = execHschWaitExpiry c t s := rfl
  exact ⟨_, by rw [he, execHschWaitExpiry, hr], rfl⟩

theorem hschWaitExpiry_tile {n : Nat} (hr : (s.thread ⟨c, t⟩).run = .parkedEngine .tileIdle n) (hn : tileHolds (s.core c).tile t = false) :
    Moves (.hschWaitExpiry c t) s (s.setThread ⟨c, t⟩ { s.thread ⟨c, t⟩ with run := .ready }) := by
  have he : exec (.hschWaitExpiry c t) s = execHschWaitExpiry c t s := rfl
  refine ⟨_, ?_, rfl⟩
  rw [he, execHschWaitExpiry, hr]
  exact if_neg (by simp [hn])

theorem idleTimeWake_wakes {g : Nat} (hr : (s.thread ⟨c, t⟩).run = .idle true (some g))
    (hd : dieRuns (advanceGts s g) (dieOf (advanceGts s g) c) = true) : Moves (.idleTimeWake c t) s (wake (advanceGts s g) ⟨c, t⟩) := by
  have he : exec (.idleTimeWake c t) s = execIdleTimeWake c t s := rfl
  refine ⟨_, ?_, rfl⟩
  rw [he, execIdleTimeWake, hr]
  exact if_pos hd

theorem lineWake_searches {g : Option Nat} (hr : (s.thread ⟨c, t⟩).run = .idle false g) (hh : (s.thread ⟨c, t⟩).halted = none)
    (hs : (s.thread ⟨c, t⟩).stopped = false) (hd : displaced (s.core c) t = false) (hrun : dieRuns s (dieOf s c) = true) :
    Moves (.lineWake c t) s (lookForWork s ⟨c, t⟩) := by
  have he : exec (.lineWake c t) s = execLineWake c t s := rfl
  refine ⟨_, ?_, rfl⟩
  rw [he, execLineWake, hr, hh, hs, hd, hrun]
  rfl

theorem lineWake_wakes {w : Wait} {n : Nat} (hr : (s.thread ⟨c, t⟩).run = .parkedSync w n) (hrun : dieRuns s (dieOf s c) = true) :
    Moves (.lineWake c t) s (wake s ⟨c, t⟩) := by
  have he : exec (.lineWake c t) s = execLineWake c t s := rfl
  refine ⟨_, ?_, rfl⟩
  rw [he, execLineWake, hr, hrun]
  rfl

end Wakes

/-- Settles O33: IDLE, YIELD and YPT by their cases; each end of a wait is its move. -/
theorem idleYieldAndWaits : Obligations.IdleYieldAndWaits := by
  unfold Obligations.IdleYieldAndWaits
  refine ⟨fun st d a b s => ?_, fun s c t ht => ?_⟩
  · intro f z th mask hit past
    refine ⟨fun hi => (idle_cases hi).1, fun hi h0 hend => (idle_cases hi).2.1 h0 hend, fun hi h0 hm hrun => ?_, fun hi h0 hm => ?_, ?_, ?_⟩
    · have hnot : ¬ PartEnds s z a := by
        rintro ⟨-, hthr, hq, hall⟩
        rcases hrun with h | h | h
        · exact h hthr
        · exact absurd (h ▸ hq) (by simp)
        · exact absurd (h ▸ hall) (by simp)
      have hidle : idleRun s a b = .idleAlways := if_pos hm
      have := (idle_cases (st := st) (d := d) hi).2.2 h0 hnot
      rwa [hidle] at this
    · have hidle : idleRun s a b = .idle true (if mask.getLsbD 2 then some (s.me.readG b.toNat).toNat else none) := if_neg hm
      have := (idle_cases (st := st) (d := d) hi).2.2 h0 fun hend => hm hend.1
      rwa [hidle] at this
    · rintro y rfl hi
      exact yield_settles hi
    · rintro y rfl hi
      exact ypt_cases hi
  · intro id th
    exact ⟨fun hr => ⟨⟨_, if_pos hr, rfl⟩, hschWaitExpiry_ready hr⟩, fun n hr hn => hschWaitExpiry_tile hr hn,
      interlockedValueWrite_writes s c ht, fun g hr hd => idleTimeWake_wakes hr hd,
      fun g hr hh hs hd hrun => lineWake_searches hr hh hs hd hrun, fun w n hr hrun => lineWake_wakes hr hrun⟩

end Sys2Proof

namespace Sys2Proof

open Machine

/-! ## Writing bytes and records leaves every thread as it is (R387, R388) -/

theorem setCore_thread_of_threads {s : State} {c : Nat} {x : VCore} (hx : x.threads = (s.core c).threads) (t : Tid) :
    (s.setCore c x).thread t = s.thread t := by
  unfold State.thread
  rw [setCore_meth]
  cases s.meth with
  | some m => rfl
  | none =>
    dsimp only
    rw [core_setCore]
    split
    · rename_i h
      rw [VCore.thread, hx, h]
      rfl
    · rfl

theorem setBuf_thread (m : Meth) (n : Nat) (x : Memory) : (m.setBuf n x).thread = m.thread := by
  unfold Meth.setBuf
  split <;> rfl

theorem writePlace_thread (s : State) (k : Nat) (b : Byte) (t : Tid) : (writePlace s k b).thread t = s.thread t := by
  unfold writePlace
  dsimp only
  split
  · refine setCore_thread_of_threads ?_ t
    rfl
  · exact setSett_thread _ _ _ _
  · rfl
  · rfl
  · rfl
  · split
    · rename_i m hm
      have hs : s.thread t = m.thread := by
        unfold State.thread
        rw [hm]
      exact (setBuf_thread _ _ _).trans hs.symm
    · rfl

/-- Two outcomes that both leave a thread as it is. -/
theorem ite_thread {c : Prop} [Decidable c] {x y s : State} {t : Tid} (hx : x.thread t = s.thread t) (hy : y.thread t = s.thread t) :
    (if c then x else y).thread t = s.thread t := by
  split
  · exact hx
  · exact hy

theorem ringPut_thread (r : Ring) (t : Tid) (bs : List Byte) (s : State) (o : Nat) : (ringPut s r o bs).thread t = s.thread t := by
  induction bs generalizing s o with
  | nil => rfl
  | cons b bs ih =>
    rw [ringPut, ih]
    split
    · exact writePlace_thread _ _ _ _
    · rfl

theorem writeRecord_thread (s : State) (x die ty source g : Nat) (body : List Byte) (t : Tid) :
    (writeRecord s x die ty source g body).thread t = s.thread t := by
  unfold writeRecord
  exact ite_thread rfl (ite_thread ((ringPut_thread _ _ _ _ _).trans (ringPut_thread _ _ _ _ _)) (ringPut_thread _ _ _ _ _))

theorem runRecord_thread (s : State) (x n : Nat) (t : Tid) : (runRecord s x n).thread t = s.thread t := writeRecord_thread _ _ _ _ _ _ _ _

/-! ## Halting a context (R397) -/

/-- One thread of a halted context, unless it is dormant or has halted before. -/
def haltOne (s : State) (t : Tid) : State :=
  if (s.thread t).run = .dormant ∨ (s.thread t).halted.isSome then s else s.setThread t { s.thread t with halted := some 10 }

theorem haltContext_eq (s : State) (x : Nat) :
    haltContext s x = runRecord (settleHolds (((threadsOf s x).foldl haltOne s).setCtx x
      { ((threadsOf s x).foldl haltOne s).ctx x with haltedAll := true })) x 0 := rfl

/-- A thread after a write of a thread: the one written, which it is also where a method runs, or as before. -/
theorem setThread_thread_or (s : State) {t : Tid} (u : Tid) (x : Thread) (h : t.thr < 16) :
    ((s.setThread u x).thread t = x ∧ s.thread t = s.thread u) ∨ (s.setThread u x).thread t = s.thread t := by
  by_cases htu : t = u
  · subst htu
    exact .inl ⟨setThread_thread _ _ _ h, rfl⟩
  · cases hm : s.meth with
    | none => exact .inr (setThread_thread_ne s x hm htu)
    | some m =>
      refine .inl ⟨?_, ?_⟩
      · unfold State.thread State.setThread
        rw [hm]
      · unfold State.thread
        rw [hm]

/-- Halting one thread changes of each thread only whether it has halted, and lets none go on. -/
theorem haltOne_thread (s : State) {t : Tid} (u : Tid) (h : t.thr < 16) :
    ((haltOne s u).thread t).run = (s.thread t).run ∧ ((s.thread t).halted ≠ none → ((haltOne s u).thread t).halted ≠ none) := by
  unfold haltOne
  split
  · exact ⟨rfl, id⟩
  · rcases setThread_thread_or s u { s.thread u with halted := some 10 } h with ⟨hx, hu⟩ | hx
    · rw [hx, hu]
      exact ⟨rfl, fun _ => nofun⟩
    · rw [hx]
      exact ⟨rfl, id⟩

theorem haltOne_halts (s : State) {t : Tid} (h : t.thr < 16) (hr : (s.thread t).run ≠ .dormant) : ((haltOne s t).thread t).halted ≠ none := by
  unfold haltOne
  split
  · rename_i hc
    exact Option.isSome_iff_ne_none.mp (hc.resolve_left hr)
  · rw [setThread_thread _ _ _ h]
    nofun

theorem foldl_haltOne_halted {t : Tid} (h : t.thr < 16) (ts : List Tid) (s : State) (hh : (s.thread t).halted ≠ none) :
    ((ts.foldl haltOne s).thread t).halted ≠ none := by
  induction ts generalizing s with
  | nil => exact hh
  | cons u ts ih => exact ih _ ((haltOne_thread s u h).2 hh)

theorem foldl_haltOne_halts {t : Tid} (h : t.thr < 16) (ts : List Tid) (s : State) (hm : t ∈ ts) (hr : (s.thread t).run ≠ .dormant) :
    ((ts.foldl haltOne s).thread t).halted ≠ none := by
  induction ts generalizing s with
  | nil => exact absurd hm List.not_mem_nil
  | cons u ts ih =>
    rcases List.mem_cons.mp hm with rfl | hm
    · exact foldl_haltOne_halted h ts _ (haltOne_halts s h hr)
    · exact ih _ hm ((haltOne_thread s u h).1 ▸ hr)

/-- Every thread of a halted context that is not dormant has halted (R397). -/
theorem haltContext_halts {s : State} {x : Nat} {t : Tid} (hm : t ∈ threadsOf s x) (h : t.thr < 16) (hr : (s.thread t).run ≠ .dormant) :
    ((haltContext s x).thread t).halted ≠ none := by
  have hfold := foldl_haltOne_halts h (threadsOf s x) s hm hr
  rw [haltContext_eq, runRecord_thread]
  exact hfold

/-! ## Markers, pulses and breakpoints (R391, R393, R395) -/

/-- MARK (R129). -/
theorem mark_passes {st : BitVec 3} {d a b : BitVec 5} {s : State} (hi : Issues (gForm [a, b]) s) :
    Passes (.mark st d a b) s (markRecord (begun (gForm [a, b]) s) s.cur (s.me.readG a.toNat) (s.me.readG b.toNat)) := by
  have hread (n : Nat) : ((begun (gForm [a, b]) s).thread s.cur).readG n = s.me.readG n := (plainly_readG n).begun_thread hi.context
  refine passes_of (op := { word := (24#7 ++ st ++ d ++ a ++ b ++ 3#7), stall := st.toNat, reads := [(.g, a.toNat), (.g, b.toNat)] }) rfl
    ⟨rfl, rfl, rfl, rfl, rfl, rfl, rfl, rfl⟩ hi ?_
  rw [hread, hread]

theorem markRecord_off {z : State} {t : Tid} (h : bit (z.ctx (ctxOf z t)).spoor 1 = false) (a b : Word) : markRecord z t a b = z :=
  if_neg (by simp [h])

theorem pulses_of {c : Context} (h : bit c.spoor 3 = true) (hn : 1024 ≤ field c.spoor 63 32) (hm : field c.spoor 63 32 % 1024 = 0) :
    pulses c = true := by
  unfold pulses
  simp [h, hn, hm]

theorem breakpointMatch_stops {c t n : Nat} {s z : State} (hb : breakCheck s ⟨c, t⟩ = (z, some n)) (hr : (z.thread ⟨c, t⟩).run = .ready)
    (hh : (z.thread ⟨c, t⟩).halted = none) : Moves (.breakpointMatch c t) s (breakStop z ⟨c, t⟩ n) := by
  have he : exec (.breakpointMatch c t) s = execBreakpointMatch c t s := rfl
  refine ⟨_, ?_, rfl⟩
  rw [he, execBreakpointMatch, hb]
  exact if_pos ⟨hr, by simp [hh]⟩

/-! ## The debugger (R387, R396) -/

/-- A halted thread's g register written by the debugger; g0 stays zero (R20). -/
theorem debugWrite_finalG (th : Thread) {r : Nat} (h : r < 32) (x : Vec) :
    (debugWrite th 0 r x).finalG r = if r = 0 then 0 else x.setWidth 64 := by
  by_cases h0 : r = 0
  · subst h0
    simp
  · unfold debugWrite Thread.finalG
    simp only [h0, if_false, complete_pend, finalPend, Thread.file, Vector.toList_setIfInBounds, List.getD_eq_getElem?_getD]
    rw [List.getElem?_set_self (by simpa using h), Option.getD_some, BitVec.setWidth_setWidth_of_le _ (by omega), BitVec.setWidth_eq]

/-- A write of a context's control block, of a breakpoint or of a ring (R387, R388, R395). -/
theorem spoorControlWrite_moves {ctx index : Nat} {image : List Byte} {s z : State} (hc : isContext s ctx = true)
    (hz : (let x := s.ctx ctx
      if index < 8 then s.setCtx ctx { x with bps := x.bps.setIfInBounds index (breakpointOf image) }
      else if index = 8 then
        let w : Word := BitVec.ofNat 64 (blkNat image 0 8) &&& 0xFFFFFFFF000000FE
        let n := field w 63 32
        settleHolds (s.setCtx ctx { x with
          spoor := w
          pulseAt := if n = field x.spoor 63 32 ∧ bit x.spoor 3 then x.pulseAt else (gts s / n + 1) * n })
      else if index < 13 then
        let r : Ring := ⟨blkNat image 0 8, blkNat image 8 8⟩
        if r.len % 4096 = 0 ∧ r.len ≤ 2 ^ 30 then s.setCtx ctx { x with rings := x.rings.setIfInBounds (index - 9) r } else s
      else s) = z) : Moves (.spoorControlWrite ctx index image) s z := by
  subst hz
  exact ⟨_, if_pos hc, rfl⟩

/-- Settles O55: each act of the Spoor is one case of its move; a halt reaches every thread of the context. -/
theorem spoor : Obligations.Spoor := by
  unfold Obligations.Spoor
  refine ⟨fun st d a b s hi => ?_, fun ctx s => ?_, fun c t n s z hb hr hh => breakpointMatch_stops hb hr hh, fun ctx s hc => ?_,
    fun c t s hh => ?_, fun c t file reg x s hh => ?_, fun ctx index image s hc => ?_, fun c t file reg s hr => ⟨_, if_neg hr, rfl⟩⟩
  · intro z
    refine ⟨mark_passes hi, fun h => ?_⟩
    have := mark_passes (st := st) (d := d) hi
    rwa [markRecord_off h] at this
  · intro n g z hc h3 hn hm
    exact ⟨_, if_pos (by rw [hc, pulses_of h3 hn hm]; rfl), rfl⟩
  · exact ⟨⟨_, if_pos hc, rfl⟩, ⟨_, if_pos hc, rfl⟩, fun t hm ht hr => haltContext_halts hm ht hr⟩
  · exact ⟨_, if_pos (Option.isSome_iff_ne_none.mpr hh), rfl⟩
  · have hn : ¬ (s.thread ⟨c, t⟩).halted.isNone = true := by simpa using hh
    exact ⟨⟨_, if_neg hn, rfl⟩, ⟨_, if_neg hn, rfl⟩, fun _ => debugWrite_finalG _ reg.isLt x⟩
  · intro x ring
    refine ⟨fun h => spoorControlWrite_moves hc (if_pos h), fun h => ?_, fun h h' hl hs => spoorControlWrite_moves hc ?_⟩
    · subst h
      exact spoorControlWrite_moves hc rfl
    · exact (if_neg (by omega)).trans ((if_neg (by omega)).trans ((if_pos h').trans (if_pos ⟨hl, hs⟩)))

end Sys2Proof

namespace Sys2Proof

open Machine

/-! ## Loads of a g register (R136, R137) -/

/-- The offset of an M-format access, in units of its size (R36, R136). -/
theorem mAddr_eq (a : BitVec 5) (z : BitVec 2) (o : BitVec 10) (t : Thread) :
    mAddr a z o t = t.readG a.toNat + BitVec.ofInt 64 (o.toInt * 2 ^ z.toNat) := by
  have h : o.signExtend 64 <<< z.toNat = BitVec.ofInt 64 (o.toInt * 2 ^ z.toNat) := by
    have h2 : BitVec.twoPow 64 z.toNat = BitVec.ofInt 64 (2 ^ z.toNat) :=
      BitVec.eq_of_toNat_eq (by rw [BitVec.toNat_twoPow, BitVec.toNat_ofInt]; norm_cast)
    rw [BitVec.shiftLeft_eq_mul_twoPow, BitVec.ofInt_mul, h2]
    rfl
  rw [mAddr, h]

theorem plainly_mAddr (a : BitVec 5) (z : BitVec 2) (o : BitVec 10) : Plainly (mAddr a z o) := fun _ _ _ _ _ => rfl

/-- The value that a load of `size` bytes writes (R136). -/
def loaded (signed : Bool) (size n : Nat) : Word := if signed then BitVec.ofInt 64 (asInt size n) else BitVec.ofNat 64 n

theorem loaded_eq (signed : Bool) (size n : Nat) :
    (if signed = true ∧ 2 ^ (8 * size - 1) ≤ n then BitVec.ofInt 64 ((n : Int) - (2 : Int) ^ (8 * size)) else BitVec.ofNat 64 n) =
      loaded signed size n := by
  unfold loaded asInt
  cases signed
  · simp
  · by_cases h : 2 ^ (8 * size - 1) ≤ n <;> simp [h]

section Loads

variable {y z : State} {t : Tid} {addr : Thread → Word} {x : Word} {size ord d : Nat} {align signed : Bool} {via : Via} {ks : List Nat} {e : Stop}

/-- A load whose access is allowed and whose order is open. -/
theorem loadBody_ok (ha : addr (y.thread t) = x) (hr : Reaches y t x size rRD align none true false via ks z)
    (hg : scGate y t ord = .ok ()) : loadBody d addr size ord align signed y t =
      .ok (z.setThread t ((z.thread t).putG d (loaded signed size (leNat (readPlaces z ks)))), .seq) := by
  subst ha
  rw [← loaded_eq]
  exact bind_of_ok hr.allowed (bind_of_ok hg (bind_of_ok (bind_of_ok hr.tracked rfl) rfl))

/-- The check of the access comes first (R407). -/
theorem loadBody_error (ha : addr (y.thread t) = x) (h : access y t x size rRD align none = .error e) :
    loadBody d addr size ord align signed y t = .error e := by
  subst ha
  exact bind_of_error h

end Loads

section LoadInstructions

variable {st : BitVec 3} {t a : BitVec 5} {z : BitVec 2} {o : BitVec 10} {z3 c : BitVec 3} {r : BitVec 2} {u : BitVec 4} {s : State}

/-- What the frame of every instruction knows of LD and LD.s (R46: no release). -/
def ldOp (w : BitVec 32) (st : BitVec 3) (a : BitVec 5) (z : BitVec 2) (o : BitVec 10) (s : State) : Op :=
  { word := w, stall := st.toNat, legal := decide (s.me.ordMod ≠ 2), reads := [(.g, a.toNat)], delay := ownDelay s [mAddr a z o s.me] }

theorem ldOp_has {w : BitVec 32} (ho : s.me.ordMod ≠ 2) : (ldOp w st a z o s).Has (gForm [a]) :=
  ⟨decide_eq_true ho, rfl, rfl, rfl, rfl, rfl, rfl, rfl⟩

theorem exec_ld : exec (.ld st t a z o) s =
    issue (ldOp (32#7 ++ st ++ t ++ a ++ z ++ o) st a z o s) s (loadBody t.toNat (mAddr a z o) (2 ^ z.toNat) s.me.ordMod false false) := rfl

theorem exec_ldS : exec (.ldS st t a z o) s =
    issue (ldOp (41#7 ++ st ++ t ++ a ++ z ++ o) st a z o s) s (loadBody t.toNat (mAddr a z o) (2 ^ z.toNat) s.me.ordMod false true) := rfl

/-- What the frame of every instruction knows of LDO. -/
def ldoOp (st : BitVec 3) (t a : BitVec 5) (z : BitVec 3) (r : BitVec 2) (c : BitVec 3) (u : BitVec 4) (s : State) : Op :=
  { word := 34#7 ++ st ++ t ++ a ++ z ++ r ++ c ++ u, stall := st.toNat, legal := (Instr.ldo st t a z r c u).wellFormed, reads := [(.g, a.toNat)]
    delay := ownDelay s [s.me.readG a.toNat] }

theorem ldoOp_has (hw : (Instr.ldo st t a z3 r c u).wellFormed = true) : (ldoOp st t a z3 r c u s).Has (gForm [a]) :=
  ⟨hw, rfl, rfl, rfl, rfl, rfl, rfl, rfl⟩

theorem exec_ldo : exec (.ldo st t a z3 r c u) s =
    issue (ldoOp st t a z3 r c u s) s (loadBody t.toNat (fun th => th.readG a.toNat) (2 ^ z3.toNat) r.toNat true false) := rfl

end LoadInstructions

/-- The address of an M-format access in the state in which the instruction runs. -/
theorem begun_mAddr {f : Form} {s : State} (ht : s.cur.thr < 16) (a : BitVec 5) (z : BitVec 2) (o : BitVec 10) :
    mAddr a z o ((begun f s).thread s.cur) = s.me.readG a.toNat + BitVec.ofInt 64 (o.toInt * 2 ^ z.toNat) :=
  ((plainly_mAddr a z o).begun_thread ht).trans (mAddr_eq a z o s.me)

/-- Settles O22: each load is `loadBody` with the order that it carries; the check of the access comes first. -/
theorem loads : Obligations.Loads := by
  unfold Obligations.Loads
  intro st t a z o z3 c r u s f addr size
  refine ⟨fun kind ks y ho hi hord hr => ?_, fun e ho hi hacc => ?_, fun ho hu => ?_, fun kind ks y hw hi hord hr => ?_, fun e hw hi hacc => ?_⟩
  · have hg := scGate_begun (f := f) hi.context hord
    have ha := begun_mAddr (f := f) hi.context a z o
    exact ⟨yields_of exec_ld (ldOp_has ho) hi t.isLt (loadBody_ok ha hr hg), yields_of exec_ldS (ldOp_has ho) hi t.isLt (loadBody_ok ha hr hg)⟩
  · have ha := begun_mAddr (f := f) hi.context a z o
    exact ⟨stops_of exec_ld (ldOp_has ho) rfl hi (loadBody_error ha hacc), stops_of exec_ldS (ldOp_has ho) rfl hi (loadBody_error ha hacc)⟩
  · exact raises_illegal exec_ld rfl hu (decide_eq_false (not_not.mpr ho))
  · exact yields_of exec_ldo (ldoOp_has hw) hi t.isLt (loadBody_ok (begun_readG hi.context _) hr (scGate_begun hi.context hord))
  · exact stops_of exec_ldo (ldoOp_has hw) rfl hi (loadBody_error (begun_readG hi.context _) hacc)

end Sys2Proof

namespace Sys2Proof

open Machine

/-! ## Stores of a g register (R136, R137) -/

/-- The state after what a release of the order performs (R78). -/
theorem releasePoint_eq (y : State) (t : Tid) (ord : Nat) : releasePoint y t ord = if ord = 2 ∨ ord = 3 then drainPosted y t else y := by
  unfold releasePoint isRelease
  simp

section Stores

variable {y z z' : State} {t : Tid} {addr : Thread → Word} {x w : Word} {size ord r : Nat} {align : Bool} {via : Via} {ks : List Nat} {e : Stop}

/-- Bytes stored at places that have been checked. -/
theorem storeAt_ok {bs : List Byte} (ht : track y t via ks false true = .ok z) (hj : methJournal z ks = .ok z') :
    storeAt y t via ks bs = .ok (writePlaces (noteStore z' t ks) ks bs) := bind_of_ok ht (bind_of_ok hj rfl)

/-- A store whose access is allowed and whose order is open. -/
theorem storeBody_ok (ha : addr (y.thread t) = x) (hw : (y.thread t).readG r = w) (hacc : access y t x size rWR align none = .ok (via, ks))
    (hg : scGate y t ord = .ok ()) (ht : track (releasePoint y t ord) t via ks false true = .ok z) (hj : methJournal z ks = .ok z') :
    storeBody r addr size ord align y t = .ok (writePlaces (noteStore z' t ks) ks (leBytes w.toNat size), .seq) := by
  subst ha hw
  exact bind_of_ok hacc (bind_of_ok hg (bind_of_ok (storeAt_ok ht hj) rfl))

/-- The check of the access comes first (R407). -/
theorem storeBody_error (ha : addr (y.thread t) = x) (h : access y t x size rWR align none = .error e) :
    storeBody r addr size ord align y t = .error e := by
  subst ha
  exact bind_of_error h

end Stores

section StoreInstructions

variable {st : BitVec 3} {t a : BitVec 5} {z : BitVec 2} {o : BitVec 10} {z3 c : BitVec 3} {r : BitVec 2} {u : BitVec 4} {s : State}

/-- What the frame of every instruction knows of ST (R46: no acquire). -/
def stOp (st : BitVec 3) (t a : BitVec 5) (z : BitVec 2) (o : BitVec 10) (s : State) : Op :=
  { word := 33#7 ++ st ++ t ++ a ++ z ++ o, stall := st.toNat, legal := decide (s.me.ordMod ≠ 1), reads := [(.g, t.toNat), (.g, a.toNat)] }

theorem stOp_has (ho : s.me.ordMod ≠ 1) : (stOp st t a z o s).Has (gForm [t, a]) :=
  ⟨decide_eq_true ho, rfl, rfl, rfl, rfl, rfl, rfl, rfl⟩

theorem exec_st : exec (.st st t a z o) s =
    issue (stOp st t a z o s) s (storeBody t.toNat (mAddr a z o) (2 ^ z.toNat) s.me.ordMod false) := rfl

/-- What the frame of every instruction knows of STO. -/
def stoOp (st : BitVec 3) (t a : BitVec 5) (z : BitVec 3) (r : BitVec 2) (c : BitVec 3) (u : BitVec 4) : Op :=
  { word := 35#7 ++ st ++ t ++ a ++ z ++ r ++ c ++ u, stall := st.toNat, legal := (Instr.sto st t a z r c u).wellFormed
    reads := [(.g, t.toNat), (.g, a.toNat)] }

theorem stoOp_has (hw : (Instr.sto st t a z3 r c u).wellFormed = true) : (stoOp st t a z3 r c u).Has (gForm [t, a]) :=
  ⟨hw, rfl, rfl, rfl, rfl, rfl, rfl, rfl⟩

theorem exec_sto : exec (.sto st t a z3 r c u) s =
    issue (stoOp st t a z3 r c u) s (storeBody t.toNat (fun th => th.readG a.toNat) (2 ^ z3.toNat) r.toNat true) := rfl

end StoreInstructions

/-- Settles O23: each store is `storeBody` with the order that it carries; the check of the access comes first. -/
theorem storesWriteBytes : Obligations.StoresWriteBytes := by
  unfold Obligations.StoresWriteBytes
  intro st t a z o z3 c r u s f addr size rel
  have hrel (ord : Nat) (y : State) : rel ord y = releasePoint y s.cur ord := (releasePoint_eq y s.cur ord).symm
  simp only [hrel]
  refine ⟨fun kind ks y y' ho hi hord hlen hacc ht hj => ?_, fun e ho hi hacc => ?_, fun ho hu => ?_,
    fun kind ks y y' hw hi hord hlen hacc ht hj => ?_, fun e hw hi hacc => ?_⟩
  · exact stores_of exec_st (stOp_has ho) hi ((length_leBytes _ _).trans hlen.symm)
      (storeBody_ok (begun_mAddr hi.context a z o) (begun_readG hi.context _) hacc (scGate_begun hi.context hord) ht hj)
  · exact stops_of exec_st (stOp_has ho) rfl hi (storeBody_error (begun_mAddr hi.context a z o) hacc)
  · exact raises_illegal exec_st rfl hu (decide_eq_false (not_not.mpr ho))
  · exact stores_of exec_sto (stoOp_has hw) hi ((length_leBytes _ _).trans hlen.symm)
      (storeBody_ok (begun_readG hi.context _) (begun_readG hi.context _) hacc (scGate_begun hi.context hord) ht hj)
  · exact stops_of exec_sto (stoOp_has hw) rfl hi (storeBody_error (begun_readG hi.context _) hacc)

end Sys2Proof

namespace Sys2Proof

open Machine

/-! ## WAITA, SIGWAIT and SIGDEC (R147 to R150) -/

section Waits

variable {st : BitVec 3} {t a d b : BitVec 5} {z c : BitVec 3} {r : BitVec 2} {s : State} {via k0 : Via} {ks ks0 : List Nat} {y : State} {e : Stop}

/-- How WAITA issues. -/
def waitaForm (t a : BitVec 5) : Form := { gForm [t, a] with cls := .irrev }

/-- What the frame of every instruction knows of WAITA. -/
def waitaOp (st : BitVec 3) (t a : BitVec 5) (z : BitVec 3) (r : BitVec 2) (c : BitVec 3) : Op :=
  { word := 50#7 ++ st ++ t ++ a ++ z ++ r ++ c ++ 0#4, stall := st.toNat, legal := (Instr.waita st t a z r c).wellFormed
    reads := [(.g, t.toNat), (.g, a.toNat)], cls := .irrev }

theorem waitaOp_has (hw : (Instr.waita st t a z r c).wellFormed = true) : (waitaOp st t a z r c).Has (waitaForm t a) :=
  ⟨hw, rfl, rfl, rfl, rfl, rfl, rfl, rfl⟩

/-- The scope at which an access of the running instruction waits (R89, R147). -/
def waitScope (f : Form) (s : State) (scope : Nat) : Option (Nat × Bool) := some (awayScope (begun f s) s.cur scope, true)

/-- The body of WAITA, once the location has been read. -/
theorem exec_waita (hi : Issues (waitaForm t a) s) (ho : OrderOpen s r.toNat)
    (h : Reaches (begun (waitaForm t a) s) s.cur (s.me.readG a.toNat) (2 ^ z.toNat) rRD true (waitScope (waitaForm t a) s c.toNat) true false
      via ks y) :
    ∃ body, exec (.waita st t a z r c) s = issue (waitaOp st t a z r c) s body ∧ body (begun (waitaForm t a) s) s.cur =
      if leNat (readPlaces y ks) = (s.me.readG t.toNat).toNat % 2 ^ (8 * 2 ^ z.toNat) then .error (.park true .reissue)
      else .ok (y.setThread s.cur ((y.thread s.cur).putG t.toNat (BitVec.ofNat 64 (leNat (readPlaces y ks)))), .seq) := by
  refine ⟨_, rfl, ?_⟩
  dsimp only
  rw [begun_readG hi.context, begun_readG hi.context]
  exact bind_of_ok h.allowed (bind_of_ok (scGate_begun hi.context ho) (bind_of_ok (bind_of_ok h.tracked rfl) rfl))

/-- WAITA whose access is not allowed. -/
theorem waita_stops (hw : (Instr.waita st t a z r c).wellFormed = true) (hi : Issues (waitaForm t a) s)
    (h : access (begun (waitaForm t a) s) s.cur (s.me.readG a.toNat) (2 ^ z.toNat) rRD true (waitScope (waitaForm t a) s c.toNat) = .error e) :
    exec (.waita st t a z r c) s = stopped (atIssue s) s.cur e := by
  refine stops_of rfl (waitaOp_has hw) rfl hi ?_
  dsimp only
  rw [begun_readG hi.context]
  exact bind_of_error h

/-- How SIGWAIT issues. -/
def sigwaitForm (a : BitVec 5) : Form := { gForm [a] with cls := .irrev }

/-- What the frame of every instruction knows of SIGWAIT. -/
def sigwaitOp (st : BitVec 3) (d a b : BitVec 5) : Op :=
  { word := 51#7 ++ st ++ d ++ a ++ b ++ 1#7, stall := st.toNat, reads := [(.g, a.toNat)], cls := .irrev }

theorem sigwaitOp_has : (sigwaitOp st d a b).Has (sigwaitForm a) := ⟨rfl, rfl, rfl, rfl, rfl, rfl, rfl, rfl⟩

/-- The scope that the object's ATTR, read at the places of the object in the state `x`, gives a wait or an update (R89, R148). -/
def signalScope (x : State) (t : Tid) (ks : List Nat) : Nat := awayScope x t (attrScope (leNat (readPlaces x (ks.drop 8))))

/-- The body of SIGWAIT, once the object has been read. -/
theorem exec_sigwait (hi : Issues (sigwaitForm a) s)
    (h0 : access (begun (sigwaitForm a) s) s.cur (s.me.readG a.toNat) 16 rRD true none = .ok (k0, ks0)) :
    let x := settlePosted (begun (sigwaitForm a) s) s.cur ks0
    access x s.cur (s.me.readG a.toNat) 16 rRD true (some (signalScope x s.cur ks0, true)) = .ok (via, ks) →
    track x s.cur via (ks.take 8) true false = .ok y →
    let v := leNat (readPlaces y (ks.take 8))
    ∃ body, exec (.sigwait st d a b) s = issue (sigwaitOp st d a b) s body ∧ body (begun (sigwaitForm a) s) s.cur =
      if v ≠ 0 ∧ v < 2 ^ 63 then .error (.park true .reissue)
      else .ok (y.setThread s.cur ((y.thread s.cur).putG d.toNat (BitVec.ofNat 64 v)), .seq) := by
  intro x h1 ht v
  refine ⟨_, rfl, ?_⟩
  dsimp only
  rw [begun_readG hi.context]
  exact bind_of_ok h0 (bind_of_ok h1 (bind_of_ok (bind_of_ok ht rfl) rfl))

/-- SIGWAIT whose access is not allowed. -/
theorem sigwait_stops (hi : Issues (sigwaitForm a) s)
    (h : access (begun (sigwaitForm a) s) s.cur (s.me.readG a.toNat) 16 rRD true none = .error e) :
    exec (.sigwait st d a b) s = stopped (atIssue s) s.cur e := by
  refine stops_of rfl sigwaitOp_has rfl hi ?_
  dsimp only
  rw [begun_readG hi.context]
  exact bind_of_error h

/-- How SIGDEC issues. -/
def sigdecForm (a b : BitVec 5) : Form := { gForm [a, b] with cls := .irrev }

/-- What the frame of every instruction knows of SIGDEC. -/
def sigdecOp (st : BitVec 3) (d a b : BitVec 5) (s : State) : Op :=
  { word := 51#7 ++ st ++ d ++ a ++ b ++ 0#7, stall := st.toNat, reads := [(.g, a.toNat), (.g, b.toNat)], cls := .irrev
    delay := ownDelay s [s.me.readG a.toNat] }

theorem sigdecOp_has : (sigdecOp st d a b s).Has (sigdecForm a b) := ⟨rfl, rfl, rfl, rfl, rfl, rfl, rfl, rfl⟩

/-- A signal object decremented by `n` in the state `y`, with the notification that it calls for (R149). -/
def signalDecremented (y : State) (t : Tid) (ks : List Nat) (attr n : Nat) : State :=
  let old := leNat (readPlaces y (ks.take 8))
  notify (writePlaces y (ks.take 8) (leBytes (decrement old n) 8)) (ctxOf y t) attr old (decrement old n)

/-- SIGDEC of an object that the access reaches. -/
theorem sigdec_yields (hi : Issues (sigdecForm a b) s)
    (h0 : access (begun (sigdecForm a b) s) s.cur (s.me.readG a.toNat) 16 rAMO true none = .ok (k0, ks0)) :
    let x := drainPosted (begun (sigdecForm a b) s) s.cur
    access x s.cur (s.me.readG a.toNat) 16 rAMO true (some (signalScope x s.cur ks0, false)) = .ok (via, ks) →
    track x s.cur via (ks.take 8) true true = .ok y →
    Yields (.sigdec st d a b) s (signalDecremented y s.cur ks (leNat (readPlaces x (ks0.drop 8))) (s.me.readG b.toNat).toNat) d.toNat
      (BitVec.ofNat 64 (leNat (readPlaces y (ks.take 8)))) := by
  intro x h1 ht
  refine yields_of (op := sigdecOp st d a b s) rfl sigdecOp_has hi d.isLt ?_
  dsimp only
  rw [begun_readG hi.context, begun_readG hi.context]
  exact bind_of_ok h0 (bind_of_ok h1 (bind_of_ok ht rfl))

/-- SIGDEC whose access is not allowed. -/
theorem sigdec_stops (hi : Issues (sigdecForm a b) s)
    (h : access (begun (sigdecForm a b) s) s.cur (s.me.readG a.toNat) 16 rAMO true none = .error e) :
    exec (.sigdec st d a b) s = stopped (atIssue s) s.cur e := by
  refine stops_of (op := sigdecOp st d a b s) rfl sigdecOp_has rfl hi ?_
  dsimp only
  rw [begun_readG hi.context]
  exact bind_of_error h

end Waits

/-- R149: bit 63 once set stays, and a decrement below 0 sets it. -/
theorem decrement_eq {old : Nat} (n : Nat) (h : old < 2 ^ 64) :
    decrement old n = if 2 ^ 63 ≤ old then old else if old < n then 2 ^ 63 else old - n := by
  rw [decrement, Nat.mod_eq_of_lt h]

/-- Settles O26: each wait by the value that it reads; the decrement of R149. -/
theorem waitsOnMemory : Obligations.WaitsOnMemory := by
  unfold Obligations.WaitsOnMemory
  intro st t a d b z c r s
  refine ⟨fun hw hi => ⟨fun e he => waita_stops hw hi he, fun kind ks y ho hr => ?_⟩,
    fun hi => ⟨fun e he => sigwait_stops hi he, fun k0 ks0 kind ks y h0 => ?_⟩,
    fun hi => ⟨fun e he => sigdec_stops hi he, fun k0 ks0 kind ks y h0 h1 ht => sigdec_yields hi h0 h1 ht⟩, fun old n h => ?_⟩
  · obtain ⟨body, he, hb⟩ := exec_waita (st := st) hi ho hr
    exact ⟨fun hn => yields_of he (waitaOp_has hw) hi t.isLt (hb.trans (if_neg hn)),
      fun hn => stops_of he (waitaOp_has hw) rfl hi (hb.trans (if_pos hn))⟩
  · intro x scope h1 ht v
    obtain ⟨body, he, hb⟩ := exec_sigwait (st := st) (d := d) (b := b) hi h0 h1 ht
    exact ⟨fun hv => yields_of he sigwaitOp_has hi d.isLt (hb.trans (if_neg (by omega))),
      fun h0 h63 => stops_of he sigwaitOp_has rfl hi (hb.trans (if_pos ⟨h0, h63⟩))⟩
  · rw [decrement_eq n h]
    exact ⟨fun h63 => if_pos h63, fun h63 hn => (if_neg (by omega)).trans (if_neg (by omega)), fun h63 hn => (if_neg (by omega)).trans (if_pos hn)⟩

end Sys2Proof

namespace Sys2Proof

open Machine

/-! ## Named barriers (R151) -/

theorem field_eq (w : Word) (hi lo : Nat) : field w hi lo = w.toNat / 2 ^ lo % 2 ^ (hi - lo + 1) := by
  simp only [field, BitVec.extractLsb'_toNat, Nat.shiftRight_eq_div_pow]

theorem barIx_eq (w : Word) : barIx w = w.toNat % 2048 := (field_eq w 10 0).trans (by simp)

theorem barVc_eq (w : Word) : barVc w = w.toNat / 65536 % 8192 := field_eq w 28 16

/-- How an irreversible instruction issues that needs its thread's own core and reads the general registers `rs` (R161, R205). -/
def homeForm (rs : List (BitVec 5)) : Form := { gForm rs with cls := .irrev, home := true }

/-- What the frame of every instruction knows of it. -/
def homeOp (w : BitVec 32) (st : BitVec 3) (rs : List (BitVec 5)) : Op :=
  { word := w, stall := st.toNat, reads := rs.map fun r => (.g, r.toNat), cls := .irrev, home := true }

theorem homeOp_has (w : BitVec 32) (st : BitVec 3) (rs : List (BitVec 5)) : (homeOp w st rs).Has (homeForm rs) :=
  ⟨rfl, rfl, rfl, rfl, rfl, rfl, rfl, rfl⟩

section Barriers

variable {st : BitVec 3} {d a b : BitVec 5} {s : State}

/-- What BARI does with the barrier that `x` names and the count in `y`. -/
def setCount (z : State) (t : Tid) (x y : Word) : Except Stop (State × Next) :=
  let ix := x.toNat % 2048
  let c := z.core t.core
  if x.toNat / 65536 % 8192 ≠ vcIn z (ctxOf z t) t.core then .error (.trap cOPERAND_RANGE x)
  else if y.toNat % 65536 = 0 then .error (.trap cOPERAND_RANGE y)
  else if (c.bar ix).arrived ≠ 0 then .error (.trap cBAR_STATE x)
  else .ok (z.setCore t.core (c.setBar ix ⟨y.toNat % 65536, 0, (c.bar ix).phase⟩), .seq)

theorem exec_bari (hi : Issues (homeForm [a, b]) s) :
    ∃ w body, exec (.bari st d a b) s = issue (homeOp w st [a, b]) s body ∧
      body (begun (homeForm [a, b]) s) s.cur = setCount (begun (homeForm [a, b]) s) s.cur (s.me.readG a.toNat) (s.me.readG b.toNat) := by
  refine ⟨_, _, rfl, ?_⟩
  simp only [barIx_eq, barVc_eq, begun_readG hi.context]
  rfl

/-- The core whose barrier BARA and BARW name, if the thread may reach it. -/
def barrierCore (f : Form) (s : State) (a : BitVec 5) : Option Nat := destCore (begun f s) s.cur ((s.me.readG a.toNat).toNat / 65536 % 8192)

/-- What BARW does at the barrier of core `e`. -/
def awaitPhase (z : State) (e ix phase : Nat) : Except Stop (State × Next) :=
  if ((z.core e).bar ix).phase = phase then .error (.park true .reissue) else .ok (z, .seq)

theorem exec_barw (hi : Issues (homeForm [a, b]) s) :
    ∃ w body, exec (.barw st d a b) s = issue (homeOp w st [a, b]) s body ∧
      body (begun (homeForm [a, b]) s) s.cur = match barrierCore (homeForm [a, b]) s a with
        | none => .error (.trap cMSG_DENIED (s.me.readG a.toNat))
        | some e => awaitPhase (begun (homeForm [a, b]) s) e ((s.me.readG a.toNat).toNat % 2048) ((s.me.readG b.toNat).toNat % 2 ^ 32) := by
  refine ⟨_, _, rfl, ?_⟩
  simp only [barIx_eq, barVc_eq, begun_readG hi.context]
  rfl

/-- What BARA does at the barrier of core `e`. -/
def arrive (z : State) (t : Tid) (e ix d : Nat) : State × Next :=
  let z := drainPosted z t
  ({ z with flights := z.flights ++ [.barArrive t e ix] }, .sent true d)

theorem exec_bara (hi : Issues (homeForm [a]) s) :
    ∃ w body, exec (.bara st d a b) s = issue (homeOp w st [a]) s body ∧
      body (begun (homeForm [a]) s) s.cur = match barrierCore (homeForm [a]) s a with
        | none => .error (.trap cMSG_DENIED (s.me.readG a.toNat))
        | some e => .ok (arrive (begun (homeForm [a]) s) s.cur e ((s.me.readG a.toNat).toNat % 2048) d.toNat) := by
  refine ⟨_, _, rfl, ?_⟩
  simp only [barIx_eq, barVc_eq, begun_readG hi.context]
  rfl

end Barriers

/-! ## A barrier's arrivals and replies -/

section Arrivals

variable {s : State} {k e j : Nat} {src : Tid}

/-- The state past the flight at place `k`. -/
def landed (s : State) (k : Nat) : State := { s with flights := s.flights.eraseIdx k }

/-- The state with one more flight. -/
def launched (z : State) (f : Flight) : State := { z with flights := z.flights ++ [f] }

/-- What an arrival at a barrier whose die's clock runs does (R151). -/
theorem barrierArrival_moves (hf : s.flights[k]? = some (.barArrive src e j)) (hc : settClock s (settOf e) = true) :
    let z := landed s k
    let y := (z.core e).bar j
    Moves (.barrierArrival k) s
      (if y.count = 0 then launched z (.barReply src true (BitVec.ofNat 64 (j + 65536 * vcIn z (ctxOf z src) e)) 0)
       else if y.arrived + 1 = y.count then
         launched (z.setCore e ((z.core e).setBar j ⟨y.count, 0, (y.phase + 1) % 2 ^ 32⟩)) (.barReply src false 0 y.phase)
       else launched (z.setCore e ((z.core e).setBar j ⟨y.count, y.arrived + 1, y.phase⟩)) (.barReply src false 0 y.phase)) := by
  intro z y
  have he : exec (.barrierArrival k) s = execBarrierArrival k s := rfl
  refine ⟨_, ?_, rfl⟩
  rw [he, execBarrierArrival, hf, ← apply_ite fun b => launched (z.setCore e ((z.core e).setBar j b)) (.barReply src false 0 y.phase)]
  dsimp only
  rw [hc]
  exact (apply_ite (fun x => Host.Outcome.next (lapse x)) _ _ _).symm

/-- What the reply to an arrival does (R109, R151). -/
theorem barrierReply_moves {bad : Bool} {id : Word} {ph : Nat} (hf : s.flights[k]? = some (.barReply src bad id ph))
    (hc : settClock s (settOf src.core) = true) : Moves (.barrierReply k) s
      (if bad then replyTrap (landed s k) src cBAR_STATE id else reply (landed s k) src (BitVec.ofNat 64 ph)) := by
  have he : exec (.barrierReply k) s = execBarrierReply k s := rfl
  refine ⟨_, ?_, rfl⟩
  rw [he, execBarrierReply, hf]
  dsimp only
  rw [hc]
  rfl

end Arrivals

/-- Settles O29: the bodies of BARI, BARW and BARA by their cases; an arrival by whether the barrier is set and whether it fills it. -/
theorem barriers : Obligations.Barriers := by
  unfold Obligations.Barriers
  intro st d a b s f g x ix vc n c
  refine ⟨fun hi => ?_, fun hi => ?_, fun k src e j hf hc => barrierArrival_moves hf hc, fun k src bad id ph hf hc => barrierReply_moves hf hc⟩
  · obtain ⟨wi, bari, hbari, hbi⟩ := exec_bari (st := st) (d := d) hi
    obtain ⟨ww, barw, hbarw, hbw⟩ := exec_barw (st := st) (d := d) hi
    refine ⟨fun hv => ?_, fun hv => ?_, fun e he hne => ?_, fun e he heq => ?_, fun he => ?_⟩
    · exact raises_of hbari (homeOp_has wi _ _) rfl hi (hbi.trans (if_pos hv))
    · have hb := hbi.trans (if_neg (not_not.mpr hv))
      refine ⟨fun hn => ?_, fun hn ha => ?_, fun hn ha => ?_⟩
      · exact raises_of hbari (homeOp_has wi _ _) rfl hi (hb.trans (if_pos hn))
      · exact raises_of hbari (homeOp_has wi _ _) rfl hi (hb.trans ((if_neg hn).trans (if_pos ha)))
      · exact passes_of hbari (homeOp_has wi _ _) hi (hb.trans ((if_neg hn).trans (if_neg (not_not.mpr ha))))
    · have hcore : barrierCore (homeForm [a, b]) s a = some e := he
      rw [hcore] at hbw
      exact passes_of hbarw (homeOp_has ww _ _) hi (hbw.trans (if_neg hne))
    · have hcore : barrierCore (homeForm [a, b]) s a = some e := he
      rw [hcore] at hbw
      exact stops_of hbarw (homeOp_has ww _ _) rfl hi (hbw.trans (if_pos heq))
    · have hcore : barrierCore (homeForm [a, b]) s a = none := he
      rw [hcore] at hbw
      exact raises_of hbarw (homeOp_has ww _ _) rfl hi hbw
  · obtain ⟨w, bara, hbara, hb⟩ := exec_bara (st := st) (d := d) (b := b) hi
    refine ⟨fun e he => ?_, fun he => ?_⟩
    · have hcore : barrierCore (homeForm [a]) s a = some e := he
      rw [hcore] at hb
      exact sends_of hbara (homeOp_has w _ _) hi hb
    · have hcore : barrierCore (homeForm [a]) s a = none := he
      rw [hcore] at hb
      exact raises_of hbara (homeOp_has w _ _) rfl hi hb

end Sys2Proof

namespace Sys2Proof

open Machine

/-! ## What performing posted stores leaves of a thread's registers (R78, R202) -/

/-- From `s` to `s'` a read of a general register of thread `t` returns the same, and no method starts to run. -/
structure SameReads (t : Tid) (s s' : State) : Prop where
  readG : ∀ n, (s'.thread t).readG n = (s.thread t).readG n
  meth : s.meth = none → s'.meth = none

namespace SameReads

variable {t : Tid} {s s' s'' : State}

theorem refl (t : Tid) (s : State) : SameReads t s s := ⟨fun _ => rfl, id⟩

theorem trans (h : SameReads t s s') (h' : SameReads t s' s'') : SameReads t s s'' :=
  ⟨fun n => (h'.readG n).trans (h.readG n), fun hm => h'.meth (h.meth hm)⟩

theorem ite {c : Prop} [Decidable c] {x y : State} (hx : SameReads t s x) (hy : SameReads t s y) : SameReads t s (if c then x else y) := by
  split
  · exact hx
  · exact hy

theorem foldl {α : Type} {f : State → α → State} (hf : ∀ z a, SameReads t z (f z a)) (as : List α) (s : State) : SameReads t s (as.foldl f s) := by
  induction as generalizing s with
  | nil => exact refl t s
  | cons a as ih => exact (hf s a).trans (ih _)

/-- A change of a thread that leaves what its registers read. -/
theorem setThread (ht : t.thr < 16) (s : State) (u : Tid) {x : Thread} (hx : ∀ n, x.readG n = (s.thread u).readG n) :
    SameReads t s (s.setThread u x) := by
  refine ⟨fun n => ?_, fun hm => setThread_meth_none hm u x⟩
  rcases setThread_thread_or s u x ht with ⟨h, hu⟩ | h
  · rw [h, hu, hx]
  · rw [h]

/-- A change of a core that leaves its threads. -/
theorem setCore (s : State) (c : Nat) {x : VCore} (hx : x.threads = (s.core c).threads) : SameReads t s (s.setCore c x) :=
  ⟨fun n => by rw [thread_setCore s c x t hx], id⟩

theorem writePlaces (ks : List Nat) (bs : List Byte) (s : State) : SameReads t s (writePlaces s ks bs) := by
  induction ks generalizing s bs with
  | nil => exact refl t s
  | cons k ks ih =>
    cases bs with
    | nil => exact refl t s
    | cons b bs => exact SameReads.trans ⟨fun n => by rw [writePlace_thread], fun hm => meth_writePlace k b hm⟩ (ih bs _)

theorem undoLog (y : OTask) (es : List (Nat × Word)) (s : State) : SameReads t s (undoLog s y es) := by
  induction es generalizing s with
  | nil => exact refl t s
  | cons e es ih => exact (writePlaces _ _ _).trans (ih _)

theorem forgetMiss (s : State) (u : Tid) : SameReads t s (forgetMiss s u) := by
  unfold Machine.forgetMiss
  split
  · exact setCore _ _ rfl
  · exact refl t s

theorem leaveTask (ht : t.thr < 16) (s : State) (u : Tid) : SameReads t s (leaveTask s u) :=
  (forgetMiss s u).trans (setThread ht _ u fun _ => rfl)

theorem releaseSlot (s : State) (c n : Nat) : SameReads t s (releaseSlot s c n) := setCore _ _ rfl

theorem abortTasks (ht : t.thr < 16) (s : State) (u : Nat) (roots : List (Nat × Nat)) : SameReads t s (abortTasks s u roots) := by
  refine SameReads.trans (foldl (fun z v => ?_) _ s) ⟨fun _ => rfl, id⟩
  have hv := ((ite (c := v.st = .running ∨ v.st = .waiting) (leaveTask ht z ⟨v.core, v.thr⟩) (refl t z))).trans (undoLog v v.log _)
  exact ite hv (hv.trans (releaseSlot _ _ _))

theorem setJournal (s : State) (c i : Nat) (e : JEntry) : SameReads t s (setJournal s c i e) := setCore _ _ rfl

theorem pendTrap (ht : t.thr < 16) (s : State) (u : Tid) (src code : Nat) (eval : Word) : SameReads t s (pendTrap s u src code eval) :=
  ite (setThread ht _ _ fun _ => rfl) (setThread ht _ _ fun _ => rfl)

theorem applyPosted (ht : t.thr < 16) (s : State) (src : Tid) (entry x place size : Nat) (val : Word) (k6 : Bool) (dpa : Nat)
    (task : Option (Nat × Nat)) : SameReads t s (applyPosted s src entry x place size val k6 dpa task) := by
  unfold Machine.applyPosted
  split
  · exact ((ite (refl t s) (abortTasks ht s _ _)).trans (writePlaces _ _ _)).trans (setJournal _ _ _ _)
  · exact (setJournal _ _ _ _).trans (pendTrap ht _ _ _ _ _)

theorem passOn (s : State) (u : Tid) : SameReads t s (passOn s u) := ⟨fun n => by rw [passOn_thread], fun hm => by rw [passOn_meth, hm]⟩

theorem orderStores (ht : t.thr < 16) (s : State) (u : Tid) : SameReads t s (orderStores s u) :=
  ite (refl t s) (setThread ht _ _ fun _ => rfl)

/-- Posted stores are performed without a change of a register. -/
theorem drainPosted (ht : t.thr < 16) (s : State) (u : Tid) : SameReads t s (drainPosted s u) := by
  refine ((foldl (fun z f => ?_) _ s).trans (passOn _ u)).trans (orderStores ht _ u)
  split
  · rename_i a e x p j n v k d y
    exact ite (SameReads.trans (applyPosted ht z a e x p n v k d y) ⟨fun _ => rfl, id⟩) (refl t z)
  · exact refl t z

end SameReads

end Sys2Proof

namespace Sys2Proof

open Machine

/-! ## The mailbox registers (R162) -/

/-- Mailbox register `n` of core `c`. -/
def mailReg (z : State) (c n : Nat) : Option Word := (z.core c).mb.toList.getD n none

/-- The state with mailbox register `n` of core `c` filled or emptied. -/
def setMail (z : State) (c n : Nat) (x : Option Word) : State := z.setCore c { z.core c with mb := (z.core c).mb.setIfInBounds n x }

/-- Outside a method a thread is one of its core's. -/
theorem core_thread {z : State} (hm : z.meth = none) (t : Tid) : (z.core t.core).thread t.thr = z.thread t := by
  unfold State.thread
  rw [hm]

section MailRegisters

variable {st : BitVec 3} {d a b : BitVec 5} {s : State}

/-- What MBPUT does with register `n` and the value `x`, in the state `z'` once the register is found empty in `z`. -/
def putMail (z z' : State) (t : Tid) (n : Nat) (x : Word) : Except Stop (State × Next) :=
  match mailReg z t.core n with
  | some _ => .error (.park false (.mail true n))
  | none => if !isFirst z t (.mail true n) then .error (.park false (.mail true n)) else .ok (setMail z' t.core n (some x), .seq)

theorem exec_mbput (hm : s.meth = none) (hi : Issues (homeForm [a]) s) :
    ∃ w body, exec (.mbput st d a b) s = issue (homeOp w st [a]) s body ∧ body (begun (homeForm [a]) s) s.cur =
      putMail (begun (homeForm [a]) s) (begun (homeForm [a]) s) s.cur (d.toNat % 8) (s.me.readG a.toNat) := by
  refine ⟨_, _, rfl, ?_⟩
  dsimp only
  rw [core_thread ((begun_meth_none _ _).mpr hm), begun_readG hi.context]
  rfl

theorem exec_mbputRel (hm : s.meth = none) (hi : Issues (homeForm [a]) s) :
    ∃ w body, exec (.mbputRel st d a b) s = issue (homeOp w st [a]) s body ∧ body (begun (homeForm [a]) s) s.cur =
      putMail (begun (homeForm [a]) s) (drainPosted (begun (homeForm [a]) s) s.cur) s.cur (d.toNat % 8) (s.me.readG a.toNat) := by
  have hdrain := SameReads.drainPosted hi.context (begun (homeForm [a]) s) s.cur
  refine ⟨_, _, rfl, ?_⟩
  dsimp only
  rw [core_thread (hdrain.meth ((begun_meth_none _ _).mpr hm)), hdrain.readG, begun_readG hi.context]
  rfl

/-- What MBGET does with register `n`. -/
def getMail (z : State) (t : Tid) (n d : Nat) : Except Stop (State × Next) :=
  match mailReg z t.core n with
  | none => .error (.park false (.mail false n))
  | some x =>
    if !isFirst z t (.mail false n) then .error (.park false (.mail false n))
    else
      let z := orderStores (setMail z t.core n none) t
      .ok (z.setThread t ((z.thread t).putG d x), .seq)

theorem exec_mbget : ∃ w body, exec (.mbget st d a b) s = issue (homeOp w st []) s body ∧ body = fun z t => getMail z t (a.toNat % 8) d.toNat :=
  ⟨_, _, rfl, rfl⟩

variable {z z' : State} {t : Tid} {n : Nat} {x : Word}

theorem putMail_full (h : (mailReg z t.core n).isSome = true) : putMail z z' t n x = .error (.park false (.mail true n)) := by
  obtain ⟨y, hy⟩ := Option.isSome_iff_exists.mp h
  unfold putMail
  rw [hy]

theorem putMail_first (h : mailReg z t.core n = none) (hf : isFirst z t (.mail true n) = true) :
    putMail z z' t n x = .ok (setMail z' t.core n (some x), .seq) := by
  unfold putMail
  rw [h, hf]
  rfl

theorem getMail_empty {d : Nat} (h : mailReg z t.core n = none) : getMail z t n d = .error (.park false (.mail false n)) := by
  unfold getMail
  rw [h]

theorem getMail_first {d : Nat} (h : mailReg z t.core n = some x) (hf : isFirst z t (.mail false n) = true) :
    let z' := orderStores (setMail z t.core n none) t
    getMail z t n d = .ok (z'.setThread t ((z'.thread t).putG d x), .seq) := by
  unfold getMail
  rw [h, hf]
  rfl

end MailRegisters

/-! ## Messages (R152 to R154) -/

section Messages

variable {st : BitVec 3} {d a b : BitVec 5} {s : State} {via : Via} {ks : List Nat}

/-- The type of a message (Table 8.1), and the entries of a scale message in its body (R153). -/
def messageType (w : Word) : Nat := w.toNat / 65536 % 256

theorem field_messageType (w : Word) : field w 23 16 = messageType w := field_eq w 23 16

/-- What MSEND does with a body that it has read at the places `ks` of the state `x`. -/
def sendBody (x : State) (t : Tid) (w : Word) (via : Via) (ks : List Nat) (d : Nat) : Except Stop (State × Next) :=
  let body := readPlaces x ks
  let n := blkNat body 1 1
  let ty := messageType w
  if 0x81 ≤ ty then .error (.trap cOPERAND_RANGE w)
  else if ty = 0x80 ∧ (n = 0 ∨ 12 < n) then .error (.trap cOPERAND_RANGE (BitVec.ofNat 64 n))
  else match (destVcs w).mapM (destCore x t) with
  | none => .error (.trap cMSG_DENIED w)
  | some cs => track x t via ks true false >>= fun y =>
    let z := drainPosted y t
    let header := BitVec.ofNat 64 (vcIn z (ctxOf z t) t.core + 65536 * t.thr + 2 ^ 24 * ty)
    let z' := z.setThread t { z.thread t with answers := cs.length, refusals := 0 }
    .ok ({ z' with flights := z'.flights ++
      (cs.map fun c => if ty = 0x80 then .scale t c body false else .msg t c ⟨body, header, w.getLsbD 13⟩ false) }, .sent false d)

theorem exec_msend (hi : Issues (homeForm [a, b]) s) (hk : ownBlock (begun (homeForm [a, b]) s) s.cur (s.me.readG a.toNat) 64 64 rRD = .ok (via, ks)) :
    ∃ w body, exec (.msend st d a b) s = issue (homeOp w st [a, b]) s body ∧ body (begun (homeForm [a, b]) s) s.cur =
      sendBody (settlePosted (begun (homeForm [a, b]) s) s.cur ks) s.cur (s.me.readG b.toNat) via ks d.toNat := by
  refine ⟨_, _, rfl, ?_⟩
  dsimp only
  rw [begun_readG hi.context, begun_readG hi.context, field_messageType]
  exact bind_of_ok hk rfl

variable {x y : State} {t : Tid} {w : Word} {n : Nat}

/-- A message of an allowed type, to destinations of the sender's domain. -/
theorem sendBody_sends {cs : List Nat} (hty : messageType w ≤ 0x80)
    (hn : messageType w = 0x80 → 1 ≤ blkNat (readPlaces x ks) 1 1 ∧ blkNat (readPlaces x ks) 1 1 ≤ 12)
    (hcs : (destVcs w).mapM (destCore x t) = some cs) (ht : track x t via ks true false = .ok y) :
    let z := drainPosted y t
    let header := BitVec.ofNat 64 (vcIn z (ctxOf z t) t.core + 65536 * t.thr + 2 ^ 24 * messageType w)
    let z' := z.setThread t { z.thread t with answers := cs.length, refusals := 0 }
    sendBody x t w via ks n = .ok ({ z' with flights := z'.flights ++ (cs.map fun c => if messageType w = 0x80 then
      .scale t c (readPlaces x ks) false else .msg t c ⟨readPlaces x ks, header, w.getLsbD 13⟩ false) }, .sent false n) := by
  unfold sendBody
  dsimp only
  rw [if_neg (by omega), if_neg (by omega), hcs]
  exact bind_of_ok ht rfl

theorem sendBody_badType (hty : 0x81 ≤ messageType w) : sendBody x t w via ks n = .error (.trap cOPERAND_RANGE w) := if_pos hty

theorem sendBody_badCount (hty : messageType w = 0x80)
    (hn : blkNat (readPlaces x ks) 1 1 = 0 ∨ 12 < blkNat (readPlaces x ks) 1 1) :
    sendBody x t w via ks n = .error (.trap cOPERAND_RANGE (BitVec.ofNat 64 (blkNat (readPlaces x ks) 1 1))) :=
  (if_neg (by omega)).trans (if_pos ⟨hty, hn⟩)

theorem sendBody_denied (hty : messageType w ≤ 0x80)
    (hn : messageType w = 0x80 → 1 ≤ blkNat (readPlaces x ks) 1 1 ∧ blkNat (readPlaces x ks) 1 1 ≤ 12)
    (hcs : (destVcs w).mapM (destCore x t) = none) : sendBody x t w via ks n = .error (.trap cMSG_DENIED w) := by
  unfold sendBody
  dsimp only
  rw [if_neg (by omega), if_neg (by omega), hcs]

/-- What MRECV does with a block that it may write. -/
def receive (z : State) (t : Tid) (via : Via) (ks : List Nat) (d : Nat) : Except Stop (State × Next) :=
  match popMessage (z.core t.core) t.thr with
  | none => .error (.park true (.recv (msgClass t.thr)))
  | some (body, header, c) =>
    if !isFirst z t (.recv (msgClass t.thr)) then .error (.park true (.recv (msgClass t.thr)))
    else storeAt (z.setCore t.core c) t via ks body >>= fun y => .ok (y.setThread t ((y.thread t).putG d header), .seq)

theorem exec_mrecv (hi : Issues (homeForm [a]) s) (hk : ownBlock (begun (homeForm [a]) s) s.cur (s.me.readG a.toNat) 64 64 rWR = .ok (via, ks)) :
    ∃ w body, exec (.mrecv st d a b) s = issue (homeOp w st [a]) s body ∧
      body (begun (homeForm [a]) s) s.cur = receive (begun (homeForm [a]) s) s.cur via ks d.toNat := by
  refine ⟨_, _, rfl, ?_⟩
  dsimp only
  rw [begun_readG hi.context]
  exact bind_of_ok hk rfl

theorem receive_none (h : popMessage (x.core t.core) t.thr = none) : receive x t via ks n = .error (.park true (.recv (msgClass t.thr))) := by
  unfold receive
  rw [h]

theorem receive_first {body : List Byte} {header : Word} {c : VCore} {y' : State} (h : popMessage (x.core t.core) t.thr = some (body, header, c))
    (hf : isFirst x t (.recv (msgClass t.thr)) = true) (ht : track (x.setCore t.core c) t via ks false true = .ok y)
    (hj : methJournal y ks = .ok y') :
    let z := writePlaces (noteStore y' t ks) ks body
    receive x t via ks n = .ok (z.setThread t ((z.thread t).putG n header), .seq) := by
  unfold receive
  rw [h]
  dsimp only
  rw [hf]
  exact bind_of_ok (storeAt_ok ht hj) rfl

/-- MPOLL. -/
theorem mpoll_yields (hi : Issues { home := true } s) : Yields (.mpoll st d a b) s (begun { home := true } s) d.toNat
    (BitVec.ofNat 64 (waiting ((begun { home := true } s).core s.cur.core) s.cur.thr)) :=
  yields_of (op := { word := 52#7 ++ st ++ d ++ a ++ b ++ 2#7, stall := st.toNat, home := true }) rfl
    ⟨rfl, rfl, rfl, rfl, rfl, rfl, rfl, rfl⟩ hi d.isLt rfl

end Messages

/-! ## A message's arrival (R152, R153, R356) -/

section MessageArrivals

variable {s : State} {k core : Nat} {src : Tid} {told : Bool}

/-- An inbox takes a message: T13 wakes for one of its own, and the sender has its answer unless it had it before. -/
def inboxTakes (z : State) (src : Tid) (core : Nat) (m : Msg) (told : Bool) : State :=
  let y := z.setCore core { z.core core with inbox := (z.core core).inbox ++ [m] }
  let y := if told then y else answer y src none
  if m.t13 then wake y ⟨core, 13⟩ else y

theorem messageArrival_accepted {m : Msg} (hf : s.flights[k]? = some (.msg src core m told)) (hc : awaitsClock s src core told = false)
    (hp : parkedAhead s k core = false) (hl : ((landed s k).core core).inbox.length < 64) :
    Moves (.messageArrival k) s (inboxTakes (landed s k) src core m told) := by
  have he : exec (.messageArrival k) s = execMessageArrival k s := rfl
  refine ⟨_, ?_, rfl⟩
  rw [he, execMessageArrival, hf]
  dsimp only
  rw [hc, hp]
  exact if_neg (Nat.not_le.mpr hl)

theorem messageArrival_refused {m : Msg} (hf : s.flights[k]? = some (.msg src core m false)) (hc : awaitsClock s src core false = false)
    (hp : parkedAhead s k core = false) (hl : 64 ≤ ((landed s k).core core).inbox.length) :
    Moves (.messageArrival k) s (answer (landed s k) src (some (core % 8))) := by
  have he : exec (.messageArrival k) s = execMessageArrival k s := rfl
  refine ⟨_, ?_, rfl⟩
  rw [he, execMessageArrival, hf]
  dsimp only
  rw [hc, hp]
  exact if_pos hl

theorem scaleMessage_moves {body : List Byte} (hf : s.flights[k]? = some (.scale src core body told))
    (hc : awaitsClock s src core told = false) (hp : parkedAhead s k core = false) :
    let y := (landed s k).setCore core (scaleFromBody ((landed s k).core core) body)
    Moves (.scaleMessage k) s (if told then y else answer y src none) := by
  intro y
  have he : exec (.scaleMessage k) s = execScaleMessage k s := rfl
  refine ⟨_, ?_, rfl⟩
  rw [he, execScaleMessage, hf]
  dsimp only
  rw [hc, hp]
  rfl

end MessageArrivals

/-- Settles O27: the bodies of the mailbox and message instructions by their cases; a message's arrival by whether the inbox has room. -/
theorem mailAndRegisters : Obligations.MailAndRegisters := by
  unfold Obligations.MailAndRegisters
  refine ⟨fun st d a b s => ?_, fun st d a b s => ?_⟩
  · intro f g reg set n m hm
    obtain ⟨wg, get, hget, hbody⟩ := exec_mbget (st := st) (d := d) (a := a) (b := b) (s := s)
    have hbg : get (begun g s) s.cur = getMail (begun g s) s.cur m d.toNat := congrFun (congrFun hbody _) _
    refine ⟨fun hi hr hf => ?_, fun hi hr => ?_, fun x hi hr hf => ?_, fun hi hr => ?_⟩
    · obtain ⟨wp, put, hput, hbp⟩ := exec_mbput (st := st) (d := d) (b := b) hm hi
      obtain ⟨wr, rel, hrel, hbr⟩ := exec_mbputRel (st := st) (d := d) (b := b) hm hi
      exact ⟨passes_of hput (homeOp_has wp st _) hi (hbp.trans (putMail_first hr hf)),
        passes_of hrel (homeOp_has wr st _) hi (hbr.trans (putMail_first hr hf))⟩
    · obtain ⟨wp, put, hput, hbp⟩ := exec_mbput (st := st) (d := d) (b := b) hm hi
      obtain ⟨wr, rel, hrel, hbr⟩ := exec_mbputRel (st := st) (d := d) (b := b) hm hi
      exact ⟨stops_of hput (homeOp_has wp st _) rfl hi (hbp.trans (putMail_full hr)),
        stops_of hrel (homeOp_has wr st _) rfl hi (hbr.trans (putMail_full hr))⟩
    · exact yields_of hget (homeOp_has wg st _) hi d.isLt (hbg.trans (getMail_first hr hf))
    · exact stops_of hget (homeOp_has wg st _) rfl hi (hbg.trans (getMail_empty hr))
  · intro f g w ty
    refine ⟨fun kind ks cs y hi hk => ?_, fun kind ks hi hk => ?_, fun kind ks hi hk => ?_, fun hi => mpoll_yields hi,
      fun k src core m told hf hc hp => ?_, fun k src core body told hf hc hp => scaleMessage_moves hf hc hp⟩
    · intro x body hty hn hcs ht
      obtain ⟨ws, send, hsend, hb⟩ := exec_msend (st := st) (d := d) hi hk
      exact sends_of hsend (homeOp_has ws st _) hi (hb.trans (sendBody_sends hty hn hcs ht))
    · intro x n
      obtain ⟨ws, send, hsend, hb⟩ := exec_msend (st := st) (d := d) hi hk
      exact ⟨fun hty => raises_of hsend (homeOp_has ws st _) rfl hi (hb.trans (sendBody_badType hty)),
        fun hty hn => raises_of hsend (homeOp_has ws st _) rfl hi (hb.trans (sendBody_badCount hty hn)),
        fun hty hn hcs => raises_of hsend (homeOp_has ws st _) rfl hi (hb.trans (sendBody_denied hty hn hcs))⟩
    · intro c wait
      obtain ⟨wr, recv, hrecv, hb⟩ := exec_mrecv (st := st) (d := d) (b := b) hi hk
      exact ⟨fun hp => stops_of hrecv (homeOp_has wr st _) rfl hi (hb.trans (receive_none hp)),
        fun body header c' y y' hp hf ht hj hl =>
          storesAndYields_of hrecv (homeOp_has wr st _) hi hl d.isLt (hb.trans (receive_first hp hf ht hj))⟩
    · intro z c
      refine ⟨fun hl => messageArrival_accepted hf hc hp hl, fun hl ht => ?_⟩
      subst ht
      exact messageArrival_refused hf hc hp hl

end Sys2Proof

namespace Sys2Proof

open Machine

/-! ## Posted stores (R90, R155, R156) -/

section PostedStores

variable {st : BitVec 3} {t a d b : BitVec 5} {z c : BitVec 3} {r : BitVec 2} {s : State}

/-- What the frame of every instruction knows of PSTO. -/
def pstoOp (st : BitVec 3) (t a : BitVec 5) (z : BitVec 3) (r : BitVec 2) (c : BitVec 3) : Op :=
  { homeOp (53#7 ++ st ++ t ++ a ++ z ++ r ++ c ++ 0#4) st [t, a] with legal := (Instr.psto st t a z r c).wellFormed }

theorem pstoOp_has (hw : (Instr.psto st t a z r c).wellFormed = true) : (pstoOp st t a z r c).Has (homeForm [t, a]) :=
  ⟨hw, rfl, rfl, rfl, rfl, rfl, rfl, rfl⟩

/-- PSTO is plain or a release (R155). -/
theorem order_of_psto (hw : (Instr.psto st t a z r c).wellFormed = true) : r.toNat = 0 ∨ r.toNat = 2 := by
  simp only [Instr.wellFormed, Bool.and_eq_true, Bool.or_eq_true, beq_iff_eq] at hw
  exact hw.2

/-- What performs the earlier posted stores of a release, for an order that a posted store may have. -/
theorem releasePoint_of_plain_or_release {ord : Nat} (h : ord = 0 ∨ ord = 2) (y : State) (u : Tid) :
    releasePoint y u ord = if ord = 2 then drainPosted y u else y := by
  rw [releasePoint_eq]
  rcases h with rfl | rfl <;> rfl

/-- An entry of a core's journal of posted stores is free (R155). -/
def freeEntry (c : VCore) (i : Nat) : Bool := !(c.journal.toList.getD i ⟨false, false, 0, 0⟩).busy

/-- The state after a posted store has left with journal entry `e` (R155). -/
def posted (y : State) (t : Tid) (addr : Word) (ord size k e : Nat) (x : Word) : State :=
  let v := viewOf y t
  let z := useAt (setJournal (releasePoint y t ord) t.core e ⟨true, false, t.thr, addr⟩) v addr size
  { z with flights := z.flights ++ [.psto t e (ctxOf z t) k (k % 2 ^ 64 / 2 ^ 21) size x (decide (segKind v addr = 6)) (dpaOfPlace z k)
    ((taskOf z t).map OTask.key)] }

/-- What PSTO does with a target that it has reached at place `k`. -/
def post (y : State) (t : Tid) (addr : Word) (ord size k : Nat) (x : Word) : Except Stop (State × Next) :=
  if addr.toNat % size ≠ 0 then .error (.trap cMISALIGN addr)
  else match (List.range 32).find? (freeEntry (y.core t.core)) with
  | none => .error (.park false .reissue)
  | some e => .ok (posted y t addr ord size k e x, .seq)

/-- The body of PSTO, once its target has been reached through a kind that may be posted to. -/
theorem exec_psto (hi : Issues (homeForm [t, a]) s) {reach : Reach} {k : Nat} {ks : List Nat} :
    let y := begun (homeForm [t, a]) s
    let v := viewOf y s.cur
    let addr := s.me.readG a.toNat
    (segKind v addr = 3 ∨ segKind v addr = 4 ∨ segKind v addr = 6) → segCheck y v addr (2 ^ z.toNat) rWR = .ok reach →
    postedPlaces y v addr (2 ^ z.toNat) reach = .ok (k :: ks) →
    ∃ body, exec (.psto st t a z r c) s = issue (pstoOp st t a z r c) s body ∧
      body y s.cur = post y s.cur addr r.toNat (2 ^ z.toNat) k (s.me.readG t.toNat) := by
  intro y v addr hkind hseg hplaces
  refine ⟨_, rfl, ?_⟩
  dsimp only
  rw [begun_readG hi.context, begun_readG hi.context]
  exact (if_neg (by rintro ⟨h3, h4, h6⟩; rcases hkind with h | h | h <;> contradiction)).trans (bind_of_ok hseg (bind_of_ok hplaces rfl))

variable {y : State} {u : Tid} {addr x : Word} {ord size k e : Nat}

theorem post_misaligned (h : addr.toNat % size ≠ 0) : post y u addr ord size k x = .error (.trap cMISALIGN addr) := if_pos h

theorem post_free (h : addr.toNat % size = 0) (he : (List.range 32).find? (freeEntry (y.core u.core)) = some e) :
    post y u addr ord size k x = .ok (posted y u addr ord size k e x, .seq) := by
  rw [post, if_neg (not_not.mpr h), he]

theorem post_full (h : addr.toNat % size = 0) (he : (List.range 32).find? (freeEntry (y.core u.core)) = none) :
    post y u addr ord size k x = .error (.park false .reissue) := by
  rw [post, if_neg (not_not.mpr h), he]

/-- The journal entry that PJACK names. -/
def namedEntry (y : State) (t : Tid) (x : Word) : JEntry := (y.core t.core).journal.toList.getD (x.toNat % 32) ⟨false, false, 0, 0⟩

/-- What PJACK does with the entry that `x` names: a refused one of the thread is freed (R156). -/
def acknowledge (y : State) (t : Tid) (x : Word) (d : Nat) : Except Stop (State × Next) :=
  let e := namedEntry y t x
  if e.busy && e.refused && e.thr == t.thr then
    let z := setJournal y t.core (x.toNat % 32) ⟨false, false, 0, 0⟩
    .ok (z.setThread t ((z.thread t).putG d e.target), .seq)
  else .ok (y.setThread t ((y.thread t).putG d (BitVec.allOnes 64)), .seq)

theorem exec_pjack (hi : Issues (homeForm [a]) s) :
    ∃ w body, exec (.pjack st d a b) s = issue (homeOp w st [a]) s body ∧
      body (begun (homeForm [a]) s) s.cur = acknowledge (begun (homeForm [a]) s) s.cur (s.me.readG a.toNat) d.toNat := by
  refine ⟨_, _, rfl, ?_⟩
  dsimp only
  rw [begun_readG hi.context]
  rfl

/-- A posted store lands that no earlier one of its thread to the same memory precedes (R90, R202). -/
theorem postedStoreApply_moves {n e x place i size : Nat} {src : Tid} {val : Word} {k6 : Bool} {dpa : Nat} {task : Option (Nat × Nat)}
    (hf : s.flights[n]? = some (.psto src e x place i size val k6 dpa task))
    (hfirst : ∀ f ∈ s.flights.take n, ∀ e' x' q i' z' v' k' p' u',
      f = .psto src e' x' q i' z' v' k' p' u' → targetMemory q ≠ targetMemory place)
    (hc : settClock s i = true) (hin : insideChain s (unitOf s src) (postedHits s src place size task) = false) :
    Moves (.postedStoreApply n) s (applyPosted (landed s n) src e x place size val k6 dpa task) := by
  have he : exec (.postedStoreApply n) s = execPostedStoreApply n s := rfl
  refine ⟨_, ?_, rfl⟩
  rw [he, execPostedStoreApply, hf]
  refine if_neg ?_
  rw [hc, hin]
  simp only [List.any_eq_true, Bool.not_true, Bool.false_eq_true, or_false, not_exists, not_and]
  intro f hmem
  split
  · rename_i a' e' x' q i' z' v' k' p' u'
    intro h
    simp only [Bool.and_eq_true, beq_iff_eq] at h
    obtain ⟨rfl, hq⟩ := h
    exact hfirst _ hmem _ _ _ _ _ _ _ _ _ rfl hq
  · nofun

end PostedStores

/-! ## Migration (R160, R161) -/

section Migration

variable {st : BitVec 3} {a d b : BitVec 5} {s : State}

/-- A thread that enters migratory mode (R160). -/
def migratory (a : BitVec 5) (t : Thread) : Thread := { t with tctl := setBit t.tctl 6 true, vmask := (t.readG a.toNat).setWidth 32 }

/-- How MIGR issues (R205). -/
def migrForm (a : BitVec 5) : Form := { gForm [a] with role := .work, cls := .forbid }

/-- What the frame of every instruction knows of MIGR. -/
def migrOp (st : BitVec 3) (d a b : BitVec 5) : Op :=
  { word := 56#7 ++ st ++ d ++ a ++ b ++ 0#7, stall := st.toNat, reads := [(.g, a.toNat)], role := .work, cls := .forbid }

theorem migrOp_has : (migrOp st d a b).Has (migrForm a) := ⟨rfl, rfl, rfl, rfl, rfl, rfl, rfl, rfl⟩

theorem exec_migr : exec (.migr st d a b) s = issue (migrOp st d a b) s (regBody (migratory a)) := rfl

/-- MIGR changes TCTL.MIG and the live-vector mask alone. -/
theorem migr_answers (hi : Issues (migrForm a) s) : Answers (.migr st d a b) s fun s' =>
    OnlyThread s.cur s s' ∧ (s'.thread s.cur).tctl = setBit s.me.tctl 6 true ∧
    (s'.thread s.cur).vmask = (s.me.readG a.toNat).setWidth 32 ∧ (s'.thread s.cur).pc = s.me.pc + 4 ∧
    (∀ j < 32, (s'.thread s.cur).finalG j = s.me.finalG j ∧ (s'.thread s.cur).finalV j = s.me.finalV j) := by
  obtain ⟨s', c, o, he, ho, hth⟩ := regBody_runs (migratory a) (migrOp_has (st := st) (d := d) (b := b)) nofun hi
  have hrest : (s'.thread s.cur).rest = (migratory a (begun (migrForm a) s).me).rest := by rw [hth, passed_rest]
  have htctl : Plainly fun t => (migratory a t).tctl := fun _ _ _ _ _ => rfl
  have hmask : Plainly fun t => (migratory a t).vmask := fun _ _ _ _ _ => rfl
  have hpc : Plainly fun t => (migratory a t).pc + 4 := fun _ _ _ _ _ => rfl
  refine ⟨s', exec_migr.trans he, ho, ?_, ?_, ?_, fun j hj => ⟨?_, ?_⟩⟩
  · exact (congrArg Thread.tctl hrest :).trans (htctl.begun hi.context)
  · exact (congrArg Thread.vmask hrest :).trans (hmask.begun hi.context)
  · rw [hth, passed_pc]
    exact hpc.begun hi.context
  · rw [hth, passed_finalG _ _ _ _ _ _ hj]
    exact (plainly_finalG j).begun hi.context
  · rw [hth, passed_finalV _ _ _ _ _ _ hj]
    exact (plainly_finalV j).begun hi.context

/-- How HOMEC issues: away, after the thread's slow results (R119, R186). -/
def homecForm (s : State) : Form := { awaits := if s.me.homeOf.isSome then .slow else .none }

/-- What the frame of every instruction knows of HOMEC. -/
def homecOp (st : BitVec 3) (d a b : BitVec 5) (s : State) : Op :=
  { word := 56#7 ++ st ++ d ++ a ++ b ++ 1#7, stall := st.toNat, awaits := if s.me.homeOf.isSome then .slow else .none }

theorem homecOp_has : (homecOp st d a b s).Has (homecForm s) := ⟨rfl, rfl, rfl, rfl, rfl, rfl, rfl, rfl⟩

/-- What HOMEC does with the thread `th`, which has left migratory mode. -/
def goHome (st : BitVec 3) (z : State) (t : Tid) (th : Thread) : Option Tid → State × Next
  | none => (z.setThread t th, .seq)
  | some _ =>
    let y := drainPosted z t
    (returnHome (y.setThread t (th.advance (th.pc + 4) st.toNat (issueCycle y t))) t, .placed)

theorem exec_homec (hi : Issues (homecForm s) s) :
    ∃ body, exec (.homec st d a b) s = issue (homecOp st d a b s) s body ∧
      let z := begun (homecForm s) s
      body z s.cur = .ok (goHome st z s.cur { z.thread s.cur with tctl := setBit s.me.tctl 6 false } s.me.homeOf) := by
  have htctl : ((begun (homecForm s) s).thread s.cur).tctl = s.me.tctl := Plainly.begun_thread (x := Thread.tctl) (fun _ _ _ _ _ => rfl) hi.context
  have hhome : ((begun (homecForm s) s).thread s.cur).homeOf = s.me.homeOf :=
    Plainly.begun_thread (x := Thread.homeOf) (fun _ _ _ _ _ => rfl) hi.context
  refine ⟨_, rfl, ?_⟩
  dsimp only
  rw [htctl, hhome]
  cases s.me.homeOf <;> rfl

end Migration

section Packets

variable {s : State} {home : Tid} {n core : Nat} {bytes : List Byte}

/-- The context that the packet's thread belongs to still holds the core (R161). -/
def holdsCore (s : State) (home : Tid) (core : Nat) : Bool := (s.ctx (ctxOf s home)).setts.any fun p => p.2 == settOf core

/-- The first dormant work thread of a core, less 1 (log 19; T1 to T6 on a folded core, log 50). -/
def dormantWork (s : State) (core : Nat) : Option Nat :=
  (List.range (if (s.core core).stdom.getLsbD 3 then 6 else 12)).find? fun i => (s.thread ⟨core, i + 1⟩).run == .dormant

/-- What a packet does that comes first of those to its core. -/
theorem exec_migrationArrival (hf : s.flights[n]? = some (.migr home core bytes))
    (hfirst : ∀ f ∈ s.flights.take n, ∀ h bs, f ≠ .migr h core bs) (hc : dieRuns s (dieOf s core) = true) :
    exec (.migrationArrival n) s =
      if !holdsCore s home core then .next (lapse (packetHome (landed s n) home bytes))
      else match dormantWork s core with
      | none => .next s
      | some j =>
        let y := landed s n
        let x := y.setThread ⟨core, j + 1⟩
          (arrivedThread home (y.thread home).task bytes (dieCycle y (dieOf y core)) (y.ctx (ctxOf y home)).haltedAll)
        .next (lapse (x.setThread home { x.thread home with awayAt := some ⟨core, j + 1⟩ })) := by
  have he : exec (.migrationArrival n) s = execMigrationArrival n s := rfl
  rw [he, execMigrationArrival, hf]
  refine if_neg ?_
  rw [hc]
  simp only [List.any_eq_true, Bool.or_eq_true, Bool.not_true, Bool.false_eq_true, or_false, not_exists, not_and]
  intro f hmem
  split
  · rename_i h' k bs
    intro hk
    exact hfirst _ hmem h' bs (by rw [beq_iff_eq.mp hk])
  · nofun

/-- An away thread goes home for its home's pending trap (R161). -/
theorem migrationReturn_moves {c n : Nat} {h : Tid} (hh : (s.thread ⟨c, n⟩).homeOf = some h) (hchain : (s.thread ⟨c, n⟩).chain = none)
    (hinh : (s.thread ⟨c, n⟩).inh = false) (hq : (s.thread h).asyncq ≠ []) (hhalt : (s.thread ⟨c, n⟩).halted = none)
    (hreply : awaitsReply (s.thread ⟨c, n⟩) = false) (hw : stopWaits s ⟨c, n⟩ .goHome = none) :
    Moves (.migrationReturn c n) s (returnHome s ⟨c, n⟩) := by
  have he : exec (.migrationReturn c n) s = execMigrationReturn c n s := rfl
  refine ⟨_, ?_, rfl⟩
  rw [he, execMigrationReturn, hh]
  dsimp only
  rw [if_pos (by simp [hchain, hinh, hq, hhalt, hreply]), hw]

end Packets

/-! ## Scale tables (R62, R163) -/

section Scales

variable {st : BitVec 3} {a d b : BitVec 5} {s : State}

/-- The scale table with `n` entries from `e` on that the block codes `bs` under `S` stand for (R62). -/
def scaled (c : VCore) (S : BitVec 32) (bs : List Byte) (e n : Nat) : VCore :=
  (List.range n).foldl (fun x i => x.setScale (e + i) (scaleEntry S (bs.getD i 0).toNat)) c

/-- What SCLD does with the operand `w` and its block at `addr`. -/
def loadScales (z : State) (t : Tid) (addr w : Word) : Except Stop (State × Next) :=
  let j := w.toNat % 256
  let n := w.toNat / 65536 % 512
  if n = 0 ∨ 256 < j + n then .error (.trap cOPERAND_RANGE w)
  else
    accessHere z t (addr + BitVec.ofNat 64 j) n rRD false none >>= fun codes =>
    accessHere z t (addr + 256) 4 rRD false none >>= fun top =>
    loadAt z t codes.1 codes.2 >>= fun q =>
    loadAt q.1 t top.1 top.2 >>= fun p =>
    .ok (p.1.setCore t.core (scaled (p.1.core t.core) (BitVec.ofNat 32 (leNat p.2)) q.2 (w.toNat / 256 % 256) n), .seq)

theorem exec_scld (hi : Issues (homeForm [a, b]) s) :
    ∃ w body, exec (.scld st d a b) s = issue (homeOp w st [a, b]) s body ∧
      body (begun (homeForm [a, b]) s) s.cur = loadScales (begun (homeForm [a, b]) s) s.cur (s.me.readG a.toNat) (s.me.readG b.toNat) := by
  have h0 (w : Word) : field w 7 0 = w.toNat % 256 := (field_eq w 7 0).trans (by simp)
  have h8 (w : Word) : field w 15 8 = w.toNat / 256 % 256 := field_eq w 15 8
  have h16 (w : Word) : field w 24 16 = w.toNat / 65536 % 512 := field_eq w 24 16
  refine ⟨_, _, rfl, ?_⟩
  simp only [begun_readG hi.context, h0, h8, h16]
  rfl

end Scales

/-- Settles O28: the bodies of the instructions by their cases; each arrival and return is its move. -/
theorem postedStoresMigrationScales : Obligations.PostedStoresMigrationScales := by
  unfold Obligations.PostedStoresMigrationScales
  intro st t a d b z c r s
  refine ⟨?_, ?_, fun n src e x place i size val k6 dpa task hf hfirst hc hin => postedStoreApply_moves hf hfirst hc hin,
    fun hi => migr_answers hi, ?_, ?_, fun n home core bytes hf hfirst hc => ?_,
    fun c n h hh hchain hinh hq hhalt hreply hw => migrationReturn_moves hh hchain hinh hq hhalt hreply hw⟩
  · intro f y addr size v free reach k ks hw hi hkind hseg hplaces
    obtain ⟨body, he, hb⟩ := exec_psto (st := st) (c := c) (r := r) hi hkind hseg hplaces
    refine ⟨fun hm => raises_of he (pstoOp_has hw) rfl hi (hb.trans (post_misaligned hm)), fun e hm hfree => ?_,
      fun hm hfull => stops_of he (pstoOp_has hw) rfl hi (hb.trans (post_full hm hfull))⟩
    rw [← releasePoint_of_plain_or_release (order_of_psto hw)]
    exact passes_of he (pstoOp_has hw) hi (hb.trans (post_free hm hfree))
  · intro f i e hi
    obtain ⟨w, body, he, hb⟩ := exec_pjack (st := st) (d := d) (b := b) hi
    exact ⟨fun hr => yields_of he (homeOp_has w st _) hi d.isLt (hb.trans (if_pos hr)),
      fun hr => yields_of he (homeOp_has w st _) hi d.isLt (hb.trans (if_neg (Bool.eq_false_iff.mp hr)))⟩
  · intro f th y hi
    obtain ⟨body, he, hb⟩ := exec_homec (st := st) (d := d) (a := a) (b := b) hi
    refine ⟨fun hh => ?_, fun h hh => ?_⟩
    all_goals rw [hh] at hb
    · exact passes_of he homecOp_has hi hb
    · have hpc : ((begun f s).thread s.cur).pc = s.me.pc := plainly_pc.begun_thread hi.context
      rw [← hpc]
      exact settles_of he homecOp_has hi hb
  · intro f w j e n addr hi
    obtain ⟨ws, body, he, hb⟩ := exec_scld (st := st) (d := d) hi
    refine ⟨fun hn => raises_of he (homeOp_has ws st _) rfl hi (hb.trans (if_pos hn)), fun k1 ks1 k2 ks2 y1 y2 h0 hle h1 h2 ht1 ht2 => ?_⟩
    have hn : ¬ (n = 0 ∨ 256 < j + n) := by omega
    refine passes_of he (homeOp_has ws st _) hi (hb.trans ((if_neg hn).trans (bind_of_ok h1 (bind_of_ok h2 ?_))))
    exact bind_of_ok (bind_of_ok ht1 rfl) (bind_of_ok (bind_of_ok ht2 rfl) rfl)
  · have he := exec_migrationArrival hf hfirst hc
    intro y held
    refine ⟨fun hn => ⟨_, he.trans (if_pos (by rw [show holdsCore s home core = false from hn]; rfl)), rfl⟩, fun j hh hj => ?_⟩
    rw [if_neg (by rw [show holdsCore s home core = true from hh]; nofun), show dormantWork s core = some j from hj] at he
    exact ⟨_, he, rfl⟩

end Sys2Proof

namespace Sys2Proof

open Machine

/-! ## The checks of a block (R335) -/

theorem rejectBad_none {n : Nat} {cs : List Check} (h : firstBad cs = none) : rejectBad n cs = .ok () := by rw [rejectBad, h]

theorem rejectBad_some {n : Nat} {cs : List Check} {e : Nat × Nat} (h : firstBad cs = some e) :
    rejectBad n cs = .error (.trap cCTX_MALFORMED (malformedEval n e)) := by rw [rejectBad, h]

/-! ## LNCH (R342) -/

section Launches

variable {st : BitVec 3} {d a b : BitVec 5} {s z used : State} {t : Tid} {c : Context} {blk : List Byte} {x y : Nat} {ks : List Nat}

/-- How LNCH issues. -/
def lnchForm (a : BitVec 5) : Form := { gForm [a] with cls := .irrev }

/-- What the frame of every instruction knows of LNCH. -/
def lnchOp (w : BitVec 32) (st : BitVec 3) (a : BitVec 5) : Op := { word := w, stall := st.toNat, reads := [(.g, a.toNat)], cls := .irrev }

theorem lnchOp_has (w : BitVec 32) : (lnchOp w st a).Has (lnchForm a) := ⟨rfl, rfl, rfl, rfl, rfl, rfl, rfl, rfl⟩

/-- The end of a body that writes `x` to the register `d` in the state `z`. -/
def gives (z : State) (t : Tid) (d : BitVec 5) (x : Word) : Except Stop (State × Next) :=
  .ok (z.setThread t ((z.thread t).putG d.toNat x), .seq)

/-- The context that stands for a dead one in the checks of a launch: what they ask of it holds. -/
def anyContext (blk : List Byte) : Context := { Context.bare with codeLen := 2 ^ 32, isRes := (blkNat blk 30 1).testBit 4 }

/-- A launch in a context that is dead or stops: past its checks the signal is marked. -/
def refusedLaunch (used : State) (t : Tid) (c : Context) (blk : List Byte) (d : BitVec 5) : Except Stop (State × Next) :=
  rejectBad 1 (lnchChecks blk c) >>= fun _ =>
  gives (signalError used (viewOf used t) (BitVec.ofNat 64 (blkNat blk 48 8))) t d 84

/-- The free core that a launch takes for a virtual core. -/
def takeCore (z : State) (y v : Nat) : Except Stop Nat :=
  match bindable z y (z.ctx y).isRes v with
  | some k => .ok k
  | none => .error (.trap cCORE_BUSY (BitVec.ofNat 64 v))

/-- The virtual cores that a launch asks for. -/
def askedCores (blk : List Byte) : List Nat := (List.range (blkNat blk 14 2)).map (blkNat blk 12 2 + ·)

/-- The bytes of a context's boot image that its ranges hold. -/
def heldBoot (c : Context) : Nat := (heldPieces c c.bootPA (c.bootPA + c.bootLen)).foldl (fun n f => n + f.len) 0

/-- A launch in a live context. -/
def liveLaunch (z used : State) (t : Tid) (y : Nat) (blk : List Byte) (d : BitVec 5) : Except Stop (State × Next) :=
  rejectBad 1 (lnchChecks blk (z.ctx y)) >>= fun _ =>
  (askedCores blk).mapM (takeCore z y) >>= fun ks =>
  if heldBoot (z.ctx y) < (z.ctx y).bootLen then denied 4 y else gives (bindLaunch used t y blk ks) t d 0

/-- The state in which a launch acts: past the use of its record's translation and the thread's posted stores. -/
def launching (f : Form) (s : State) (a : BitVec 5) : State := drainPosted (useBlocks (begun f s) s.cur [(s.me.readG a.toNat, 64)]) s.cur

/-- What LNCH does by the target context `y` of the issuer's context `x`. -/
def launchIn (z used : State) (t : Tid) (x y : Nat) (blk : List Byte) (d : BitVec 5) : Except Stop (State × Next) :=
  if !inSubtree z x y then
    if deadUnder z 9 x y then refusedLaunch used t (anyContext blk) blk d else denied 1 y
  else if (z.ctx y).st == .stopping then refusedLaunch used t (z.ctx y) blk d
  else liveLaunch z used t y blk d

theorem exec_lnch (hi : Issues (lnchForm a) s) (hk : anyBlock (begun (lnchForm a) s) s.cur (s.me.readG a.toNat) 64 64 = .ok blk) :
    let z := begun (lnchForm a) s
    let x := ctxOf z s.cur
    ∃ w body, exec (.lnch st d a b) s = issue (lnchOp w st a) s body ∧
      body z s.cur = launchIn z (launching (lnchForm a) s a) s.cur x (targetOf x (blkNat blk 28 2)) blk d := by
  refine ⟨_, _, rfl, ?_⟩
  simp only [begun_readG hi.context]
  exact bind_of_ok hk rfl

theorem launchIn_dead (hs : inSubtree z x y = false) (hd : deadUnder z 9 x y = true) :
    launchIn z used t x y blk d = refusedLaunch used t (anyContext blk) blk d := by
  rw [launchIn, hs]
  exact if_pos hd

theorem launchIn_outside (hs : inSubtree z x y = false) (hd : deadUnder z 9 x y = false) : launchIn z used t x y blk d = denied 1 y := by
  rw [launchIn, hs]
  exact if_neg (Bool.eq_false_iff.mp hd)

theorem launchIn_stopping (hs : inSubtree z x y = true) (hst : (z.ctx y).st = .stopping) :
    launchIn z used t x y blk d = refusedLaunch used t (z.ctx y) blk d := by
  rw [launchIn, hs, if_neg (by decide), if_pos (by rw [hst]; rfl)]

theorem launchIn_live (hs : inSubtree z x y = true) (hst : (z.ctx y).st = .live) :
    launchIn z used t x y blk d = liveLaunch z used t y blk d := by
  rw [launchIn, hs, if_neg (by decide), if_neg (by rw [hst]; decide)]

theorem refusedLaunch_bad {e : Nat × Nat} (h : firstBad (lnchChecks blk c) = some e) :
    refusedLaunch used t c blk d = .error (.trap cCTX_MALFORMED (malformedEval 1 e)) := bind_of_error (rejectBad_some h)

theorem refusedLaunch_good (h : firstBad (lnchChecks blk c) = none) : refusedLaunch used t c blk d =
    gives (signalError used (viewOf used t) (BitVec.ofNat 64 (blkNat blk 48 8))) t d 84 := bind_of_ok (rejectBad_none h) rfl

theorem mapM_takeCore_busy {vs : List Nat} {v : Nat} (h : vs.find? (fun v => (bindable z y (z.ctx y).isRes v).isNone) = some v) :
    vs.mapM (takeCore z y) = .error (.trap cCORE_BUSY (BitVec.ofNat 64 v)) := by
  induction vs with
  | nil => nomatch h
  | cons u us ih =>
    rw [List.mapM_cons]
    cases hu : bindable z y (z.ctx y).isRes u with
    | none =>
      have huv : u = v := by simpa [hu] using h
      exact bind_of_error (by rw [takeCore, hu, huv])
    | some k =>
      have hus : us.mapM (takeCore z y) = .error (.trap cCORE_BUSY (BitVec.ofNat 64 v)) := ih (by simpa [hu] using h)
      exact bind_of_ok (by rw [takeCore, hu]) (bind_of_error hus)

theorem mapM_takeCore_free {vs : List Nat} (h : vs.map (bindable z y (z.ctx y).isRes) = ks.map some) : vs.mapM (takeCore z y) = .ok ks := by
  induction vs generalizing ks with
  | nil =>
    obtain rfl : ks = [] := by simpa using h.symm
    rfl
  | cons u us ih =>
    obtain - | ⟨k, ks⟩ := ks
    · nomatch h
    · obtain ⟨hu, hus⟩ := List.cons.inj h
      rw [List.mapM_cons]
      exact bind_of_ok (by rw [takeCore, hu]) (bind_of_ok (ih hus) rfl)

theorem liveLaunch_bad {e : Nat × Nat} (h : firstBad (lnchChecks blk (z.ctx y)) = some e) :
    liveLaunch z used t y blk d = .error (.trap cCTX_MALFORMED (malformedEval 1 e)) := bind_of_error (rejectBad_some h)

theorem liveLaunch_busy {v : Nat} (h : firstBad (lnchChecks blk (z.ctx y)) = none)
    (hv : (askedCores blk).find? (fun v => (bindable z y (z.ctx y).isRes v).isNone) = some v) :
    liveLaunch z used t y blk d = .error (.trap cCORE_BUSY (BitVec.ofNat 64 v)) :=
  bind_of_ok (rejectBad_none h) (bind_of_error (mapM_takeCore_busy hv))

theorem liveLaunch_free (h : firstBad (lnchChecks blk (z.ctx y)) = none)
    (hk : (askedCores blk).map (bindable z y (z.ctx y).isRes) = ks.map some) : liveLaunch z used t y blk d =
      if heldBoot (z.ctx y) < (z.ctx y).bootLen then denied 4 y else gives (bindLaunch used t y blk ks) t d 0 :=
  bind_of_ok (rejectBad_none h) (bind_of_ok (mapM_takeCore_free hk) rfl)

end Launches

/-! ## RESUME (R341) -/

section Resumption

variable {st : BitVec 3} {d a b : BitVec 5} {s z p : State} {t k : Tid} {blk : List Byte} {x y n : Nat}

/-- The thread of context `y` that a RESUME record names, if it is held for the context `x`, with the time of its trap. -/
def resumable (p : State) (x y : Nat) (blk : List Byte) : Option (Tid × Nat) :=
  match coreOfVc p y (blkNat blk 2 2) with
  | none => none
  | some k =>
    let t : Tid := ⟨k, blkNat blk 4 1⟩
    match (p.thread t).run, (p.thread t).heldFor with
    | .held, some (y', g) => if y' = x ∧ ctxOf p t = y then some (t, g) else none
    | _, _ => none

/-- The general registers that a RESUME record writes. -/
def resumeRegs (blk : List Byte) : List (Nat × Word) :=
  ((List.range 8).filter (blkNat blk 6 1).testBit).map fun j => (4 + j, BitVec.ofNat 64 (blkNat blk (32 + 8 * j) 8))

/-- Where the thread `k` goes on by a RESUME record. -/
def resumePc (p : State) (k : Tid) (blk : List Byte) : Word :=
  match blkNat blk 5 1 with
  | 0 => (p.thread k).epc
  | 1 => chainAfter p k 16 (p.thread k).epc
  | _ => BitVec.ofNat 64 (blkNat blk 16 8)

theorem resumePc_eq : resumePc p k blk = if blkNat blk 5 1 = 0 then (p.thread k).epc
    else if blkNat blk 5 1 = 1 then chainAfter p k 16 (p.thread k).epc else BitVec.ofNat 64 (blkNat blk 16 8) := by
  rw [resumePc]
  split
  next h => rw [if_pos h]
  next h => rw [if_neg (by omega), if_pos h]
  next h0 h1 => rw [if_neg h0, if_neg h1]

/-- The state past a RESUME record for the thread `k`: it goes on, or the message of its trap goes up. -/
def resumed (p : State) (k : Tid) (x n : Nat) (blk : List Byte) : State :=
  if blkNat blk 5 1 = 3 then forwardHeld p k x n else resumeThread p k (resumePc p k blk) (resumeRegs blk)

/-- What RESUME does in the target context, past the thread's posted stores. -/
def resumeTarget (p : State) (t : Tid) (x y : Nat) (blk : List Byte) (d : BitVec 5) : Except Stop (State × Next) :=
  if !inSubtree p x y || (p.ctx y).st == .stopping then gives p t d 2
  else match resumable p x y blk with
    | none => gives p t d 1
    | some (k, n) => gives (resumed p k x n blk) t d 0

/-- What RESUME with a good record does by the target context `y` of the issuer's context `x`. -/
def resumeFor (z : State) (t : Tid) (x y : Nat) (blk : List Byte) (d : BitVec 5) : Except Stop (State × Next) :=
  if blkNat blk 5 1 = 3 ∧ x = 0 then .error (.trap cOPERAND_RANGE 3)
  else if !(inSubtree z x y || deadUnder z 9 x y) then denied 1 y
  else resumeTarget (drainPosted z t) t x y blk d

theorem exec_resume (hk : ctxBlock (begun (homeForm [a]) s) s.cur a.toNat 128 = .ok blk) :
    let z := begun (homeForm [a]) s
    let x := ctxOf z s.cur
    ∃ w body, exec (.resume st d a b) s = issue (homeOp w st [a]) s body ∧
      body z s.cur = rejectBad 5 (resumeChecks blk) >>= fun _ => resumeFor z s.cur x (targetOf x (blkNat blk 0 2)) blk d :=
  ⟨_, _, rfl, bind_of_ok hk rfl⟩

theorem resumeFor_root (h3 : blkNat blk 5 1 = 3) (hx : x = 0) : resumeFor z t x y blk d = .error (.trap cOPERAND_RANGE 3) := if_pos ⟨h3, hx⟩

theorem resumeFor_outside (h3 : blkNat blk 5 1 = 3 → x ≠ 0) (hs : inSubtree z x y = false) (hd : deadUnder z 9 x y = false) :
    resumeFor z t x y blk d = denied 1 y := by
  rw [resumeFor, if_neg (not_and.mpr h3), hs, hd]
  rfl

theorem resumeFor_known (h3 : blkNat blk 5 1 = 3 → x ≠ 0) (h : inSubtree z x y = true ∨ deadUnder z 9 x y = true) :
    resumeFor z t x y blk d = resumeTarget (drainPosted z t) t x y blk d := by
  rw [resumeFor, if_neg (not_and.mpr h3), (Bool.or_eq_true ..).mpr h]
  rfl

/-- A thread that is held for `x` under `y` is the one that the record names. -/
theorem resumable_held {c : Nat} (hc : coreOfVc p y (blkNat blk 2 2) = some c) (hr : (p.thread ⟨c, blkNat blk 4 1⟩).run = .held)
    (hf : (p.thread ⟨c, blkNat blk 4 1⟩).heldFor = some (x, n)) (hx : ctxOf p ⟨c, blkNat blk 4 1⟩ = y) :
    resumable p x y blk = some (⟨c, blkNat blk 4 1⟩, n) := by
  simp only [resumable, hc, hr, hf, hx, and_self, if_true]

/-- What the record names is held for `x` under `y`. -/
theorem resumable_some {e : Tid × Nat} (h : resumable p x y blk = some e) : ∃ c, coreOfVc p y (blkNat blk 2 2) = some c ∧
    (p.thread ⟨c, blkNat blk 4 1⟩).run = .held ∧ (∃ n, (p.thread ⟨c, blkNat blk 4 1⟩).heldFor = some (x, n)) ∧ ctxOf p ⟨c, blkNat blk 4 1⟩ = y := by
  unfold resumable at h
  split at h
  · nomatch h
  next c hc =>
    dsimp only at h
    split at h
    next x' n hr hf =>
      split at h
      next hxy =>
        obtain ⟨rfl, hy⟩ := hxy
        exact ⟨c, hc, hr, ⟨n, hf⟩, hy⟩
      · nomatch h
    · nomatch h

theorem resumeTarget_stopping (h : (p.ctx y).st = .stopping) : resumeTarget p t x y blk d = gives p t d 2 := if_pos (by rw [h]; simp)

theorem resumeTarget_dead (h : inSubtree p x y = false) : resumeTarget p t x y blk d = gives p t d 2 := if_pos (by rw [h]; rfl)

theorem resumeTarget_live (hs : inSubtree p x y = true) (hl : (p.ctx y).st = .live) : resumeTarget p t x y blk d =
    match resumable p x y blk with
    | none => gives p t d 1
    | some (k, n) => gives (resumed p k x n blk) t d 0 := if_neg (by rw [hs, hl]; decide)

theorem resumeTarget_none (hs : inSubtree p x y = true) (hl : (p.ctx y).st = .live) (h : resumable p x y blk = none) :
    resumeTarget p t x y blk d = gives p t d 1 := by rw [resumeTarget_live hs hl, h]

theorem resumeTarget_held (hs : inSubtree p x y = true) (hl : (p.ctx y).st = .live) (h : resumable p x y blk = some (k, n)) :
    resumeTarget p t x y blk d = gives (resumed p k x n blk) t d 0 := by rw [resumeTarget_live hs hl, h]

end Resumption
/-! ## WKDONE (R141, R327) -/

section Walks

variable {st : BitVec 3} {d a b : BitVec 5} {s z : State} {t : Tid} {m : MissRec} {ks : List Nat} {kind : Via}

/-- How WKDONE issues. -/
def wkdoneForm (a b : BitVec 5) : Form := { gForm [a, b] with role := .t15, home := true }

/-- What the frame of every instruction knows of WKDONE. -/
def wkdoneOp (w : BitVec 32) (st : BitVec 3) (a b : BitVec 5) : Op :=
  { word := w, stall := st.toNat, reads := [(.g, a.toNat), (.g, b.toNat)], role := .t15, home := true }

theorem wkdoneOp_has (w : BitVec 32) : (wkdoneOp w st a b).Has (wkdoneForm a b) := ⟨rfl, rfl, rfl, rfl, rfl, rfl, rfl, rfl⟩

/-- The answers that WKDONE may name. -/
def walkCodes : List Nat := [0, 1, cPAGE_FAULT, cXLATE_RIGHTS]

/-- What WKDONE does with the miss `m` and the record at the places `ks`. -/
def install (z : State) (t : Tid) (m : MissRec) (ks : List Nat) (d : BitVec 5) : Except Stop (State × Next) :=
  let z := settlePosted z t ks
  let r := readPlaces z ks
  match installEntry z m.ctx r m.cva with
  | none => gives (answerMiss z t.core m cPAGE_FAULT) t d 1
  | some e =>
    let i := settOf t.core
    let y := if blkNat r 24 4 / 4096 % 2 = 1 then installRange z i e
      else z.setSett i { z.sett i with pageTlb := tlbInstall 512 (z.sett i).pageTlb e }
    gives (answerMiss y t.core m 0) t d 0

/-- What WKDONE does with the code `code` for the miss `m`. -/
def answerWalk (z : State) (t : Tid) (code : Nat) (m : MissRec) (record : Word) (d : BitVec 5) : Except Stop (State × Next) :=
  if code = 0 then ownBlock z t record 32 32 rRD >>= fun k => install z t m k.2 d
  else gives (answerMiss z t.core m (if code = 1 then 0 else code)) t d 0

/-- The miss of a core that the record word `w` names. -/
def namedMiss (z : State) (core : Nat) (w : Word) : Option MissRec := (z.core core).misses.find? fun m => m.id == field w 15 0

/-- What WKDONE does by its record word `w` and the address of its record. -/
def walkDone (z : State) (t : Tid) (w record : Word) (d : BitVec 5) : Except Stop (State × Next) :=
  if !walkCodes.contains (field w 31 16) then .error (.trap cOPERAND_RANGE w)
  else match namedMiss z t.core w with
    | none => gives z t d 2
    | some m => answerWalk z t (field w 31 16) m record d

theorem exec_wkdone (hi : Issues (wkdoneForm a b) s) :
    ∃ o body, exec (.wkdone st d a b) s = issue (wkdoneOp o st a b) s body ∧
      body (begun (wkdoneForm a b) s) s.cur = walkDone (begun (wkdoneForm a b) s) s.cur (s.me.readG a.toNat) (s.me.readG b.toNat) d := by
  refine ⟨_, _, rfl, ?_⟩
  simp only [begun_readG hi.context]
  rfl

theorem walkDone_badCode {w record : Word} (h : field w 31 16 ∉ walkCodes) :
    walkDone z t w record d = .error (.trap cOPERAND_RANGE w) := if_pos (by rw [List.contains_eq_mem, decide_eq_false h]; rfl)

theorem walkDone_listed {w record : Word} (h : field w 31 16 ∈ walkCodes) : walkDone z t w record d =
    match namedMiss z t.core w with
    | none => gives z t d 2
    | some m => answerWalk z t (field w 31 16) m record d := if_neg (by rw [List.contains_eq_mem, decide_eq_true h]; nofun)

theorem walkDone_unknown {w record : Word} (h : field w 31 16 ∈ walkCodes) (hm : namedMiss z t.core w = none) :
    walkDone z t w record d = gives z t d 2 := by rw [walkDone_listed h, hm]

theorem walkDone_named {w record : Word} (h : field w 31 16 ∈ walkCodes) (hm : namedMiss z t.core w = some m) :
    walkDone z t w record d = answerWalk z t (field w 31 16) m record d := by rw [walkDone_listed h, hm]

theorem answerWalk_answers {code : Nat} {record : Word} (h : code ≠ 0) :
    answerWalk z t code m record d = gives (answerMiss z t.core m (if code = 1 then 0 else code)) t d 0 := if_neg h

theorem answerWalk_installs {code : Nat} {record : Word} (h : code = 0) (hk : ownBlock z t record 32 32 rRD = .ok (kind, ks)) :
    answerWalk z t code m record d = install z t m ks d := (if_pos h).trans (bind_of_ok hk rfl)

theorem install_bad (h : installEntry (settlePosted z t ks) m.ctx (readPlaces (settlePosted z t ks) ks) m.cva = none) :
    install z t m ks d = gives (answerMiss (settlePosted z t ks) t.core m cPAGE_FAULT) t d 1 := by
  unfold install
  dsimp only
  rw [h]

theorem install_entry {e : TlbEntry} (h : installEntry (settlePosted z t ks) m.ctx (readPlaces (settlePosted z t ks) ks) m.cva = some e) :
    let x := settlePosted z t ks
    let i := settOf t.core
    install z t m ks d = gives (answerMiss (if blkNat (readPlaces x ks) 24 4 / 4096 % 2 = 1 then installRange x i e
      else x.setSett i { x.sett i with pageTlb := tlbInstall 512 (x.sett i).pageTlb e }) t.core m 0) t d 0 := by
  unfold install
  dsimp only
  rw [h]

end Walks

/-- Settles O52: the bodies of LNCH, RESUME and WKDONE by their cases. -/
theorem launchesAndResumption : Obligations.LaunchesAndResumption := by
  unfold Obligations.LaunchesAndResumption
  intro st d a b s f h z x p
  refine ⟨fun blk => ?_, fun blk hi hk => ?_, fun hi => ?_⟩
  · intro f z x hi hk i p y c vs marked any
    obtain ⟨w, body, he, hb⟩ := exec_lnch (st := st) (d := d) (b := b) hi hk
    refine ⟨fun hs hd => ?_, fun hs hd => ?_, fun hs hst => ?_, fun hs hst => ?_⟩
    · have hb := hb.trans (launchIn_dead hs hd)
      exact ⟨fun e hbad => raises_of he (lnchOp_has w) rfl hi (hb.trans (refusedLaunch_bad hbad)),
        fun hgood => yields_of he (lnchOp_has w) hi d.isLt (hb.trans (refusedLaunch_good hgood))⟩
    · exact raises_of he (lnchOp_has w) rfl hi (hb.trans (launchIn_outside hs hd))
    · have hb := hb.trans (launchIn_stopping hs hst)
      exact ⟨fun e hbad => raises_of he (lnchOp_has w) rfl hi (hb.trans (refusedLaunch_bad hbad)),
        fun hgood => yields_of he (lnchOp_has w) hi d.isLt (hb.trans (refusedLaunch_good hgood))⟩
    · have hb := hb.trans (launchIn_live hs hst)
      refine ⟨fun e hbad => raises_of he (lnchOp_has w) rfl hi (hb.trans (liveLaunch_bad hbad)),
        fun hgood => ⟨fun v hv => ?_, fun ks hks hl => ?_, fun ks hks hl => ?_⟩⟩
      · exact raises_of he (lnchOp_has w) rfl hi (hb.trans (liveLaunch_busy hgood hv))
      · exact raises_of he (lnchOp_has w) rfl hi (hb.trans ((liveLaunch_free hgood hks).trans (if_pos hl)))
      · exact yields_of he (lnchOp_has w) hi d.isLt (hb.trans ((liveLaunch_free hgood hks).trans (if_neg (Nat.not_lt.mpr hl))))
  · intro i y act
    obtain ⟨w, body, he, hb⟩ := exec_resume (st := st) (d := d) (b := b) hk
    have good (hgood : firstBad (resumeChecks blk) = none) := hb.trans (bind_of_ok (rejectBad_none hgood) rfl)
    refine ⟨fun e hbad => ?_, fun hgood h3 hx => ?_, fun hgood h3 => ?_⟩
    · exact raises_of he (homeOp_has w _ _) rfl hi (hb.trans (bind_of_error (rejectBad_some hbad)))
    · exact raises_of he (homeOp_has w _ _) rfl hi ((good hgood).trans (resumeFor_root h3 hx))
    · have gives_of {q : State} {v : Word} (h : resumeFor z s.cur x y blk d = gives q s.cur d v) : Yields i s q d.toNat v :=
        yields_of he (homeOp_has w _ _) hi d.isLt ((good hgood).trans h)
      refine ⟨fun hs hd => ?_, fun hs hd => ?_, fun hs hsp hst => ?_, fun hs hsp hst => ?_⟩
      · exact raises_of he (homeOp_has w _ _) rfl hi ((good hgood).trans (resumeFor_outside h3 hs hd))
      · exact gives_of ((resumeFor_known h3 (.inr hd)).trans (resumeTarget_dead hs))
      · exact gives_of ((resumeFor_known h3 (.inl hs)).trans (resumeTarget_stopping hst))
      · have known := resumeFor_known (t := s.cur) (blk := blk) (d := d) h3 (.inl hs)
        have none_of (h : ¬ ∃ e, resumable p x y blk = some e) : Yields i s p d.toNat 1 :=
          gives_of (known.trans (resumeTarget_none hsp hst (Option.eq_none_iff_forall_ne_some.mpr fun e he => h ⟨e, he⟩)))
        refine ⟨fun hc => none_of fun ⟨e, he⟩ => ?_, fun k hc => ?_⟩
        · obtain ⟨k, hk, -⟩ := resumable_some he
          exact nomatch hc.symm.trans hk
        intro t gs pc
        have named {e : Tid × Nat} (h : resumable p x y blk = some e) :
            (p.thread t).run = .held ∧ (∃ n, (p.thread t).heldFor = some (x, n)) ∧ ctxOf p t = y := by
          obtain ⟨k', hk, h⟩ := resumable_some h
          obtain rfl : k = k' := Option.some.inj (hc.symm.trans hk)
          exact h
        refine ⟨fun hr => none_of fun ⟨e, he⟩ => hr (named he).1, fun hf => none_of fun ⟨e, he⟩ => ?_,
          fun hx => none_of fun ⟨e, he⟩ => hx (named he).2.2, fun n hr hf hx => ?_⟩
        · obtain ⟨-, ⟨n, hn⟩, -⟩ := named he
          exact hf n hn
        · have held := known.trans (resumeTarget_held hsp hst (resumable_held hc hr hf hx))
          exact ⟨fun h => by rw [resumed, if_pos h] at held; exact gives_of held,
            fun h => by rw [resumed, if_neg h, resumePc_eq] at held; exact gives_of held⟩
  · intro z i w code miss
    obtain ⟨o, body, he, hb⟩ := exec_wkdone (st := st) (d := d) hi
    refine ⟨fun h => ?_, fun h hm => ?_, fun m h hm => ?_, fun m kind ks h hm hk => ?_⟩
    · exact raises_of he (wkdoneOp_has o) rfl hi (hb.trans (walkDone_badCode h))
    · exact yields_of he (wkdoneOp_has o) hi d.isLt (hb.trans (walkDone_unknown h hm))
    · have h0 : code ≠ 0 := by rintro h0; rw [h0] at h; exact absurd h (by decide)
      exact yields_of he (wkdoneOp_has o) hi d.isLt (hb.trans ((walkDone_named (.tail _ h) hm).trans (answerWalk_answers h0)))
    · have hlist : code ∈ walkCodes := by rw [h]; decide
      have hin := hb.trans ((walkDone_named hlist hm).trans (answerWalk_installs h hk))
      exact ⟨fun hn => yields_of he (wkdoneOp_has o) hi d.isLt (hin.trans (install_bad hn)),
        fun e hs => yields_of he (wkdoneOp_has o) hi d.isLt (hin.trans (install_entry hs))⟩

end Sys2Proof

namespace Sys2Proof

open Machine

/-! ## An atomic of T14 (R86, R143)

`StoresAndYields` wants the bytes that an atomic replaces kept in the thread's record of the old bytes that a copy may yet read
(`recent`, log 57), as a plain store of T14 keeps them. The model's `rmwAt` keeps none: an atomic orders what came before it
(`orderStores`). T14 at a word of its own scratchpad shows the difference. -/

/-- T14 of core 0 with offset 64 of its segment 1 in g1, where the segment is the core's scratchpad with every right. -/
def moverState : State :=
  let s := { State.reset with cur := ⟨0, 14⟩ }
  s.setThread s.cur { s.me with
    g := s.me.g.set 1 (BitVec.ofNat 64 (2 ^ 61 + 64))
    segBase := s.me.segBase.set 1 (segWord 2 7 0)
    segLimit := s.me.segLimit.set 1 262144 }

/-- The places of the word at g1. -/
def moverPlaces : List Nat := span 64 4

/-- AMO.ADD of g2 to that word. -/
def moverAdd : Instr := .amoAdd 0 2 1 2 0 0

/-- The state in which it runs. -/
def moverBegun : State := begun (gForm [2, 1]) moverState

theorem issues_moverState : Issues (gForm [2, 1]) moverState where
  context := by decide +kernel
  role := .inl rfl
  arrived := fun _ => by decide +kernel
  inTime := fun h => absurd h (by decide +kernel)
  guard := fun _ => by decide +kernel
  task := fun _ y h => absurd h (by rw [show taskOf moverState moverState.cur = none by decide +kernel]; nofun)
  home := nofun

theorem access_moverBegun :
    access moverBegun moverState.cur (moverState.me.readG 1) 4 rAMO true (some (awayScope moverBegun moverState.cur 0, false)) =
      .ok (⟨2, none⟩, moverPlaces) := by rfl

theorem track_moverBegun (wr : Bool) : track moverBegun moverState.cur ⟨2, none⟩ moverPlaces true wr = .ok moverBegun := by cases wr <;> rfl

/-- A plain store of T14 to the word would keep its old bytes. -/
theorem recent_noteStore_moverBegun : ((noteStore moverBegun moverState.cur moverPlaces).thread moverState.cur).recent ≠ [] := by decide +kernel

/-- The atomic keeps none. -/
theorem recent_moverAdd {s : State} (h : exec moverAdd moverState = .next s) : (s.thread moverState.cur).recent = [] := by
  have hr : (match exec moverAdd moverState with | .next s => (s.thread moverState.cur).recent | _ => []) = [] := by decide +kernel
  rwa [h] at hr

/-- Refutes O24: T14 adds to a word of its scratchpad; the statement's state has the word's old bytes in `recent`, the model's does not. -/
theorem not_atomics : ¬ Obligations.Atomics := by
  unfold Obligations.Atomics
  intro h
  obtain ⟨amos, -⟩ := h 0 2 1 2 0 0 moverState
  have runs := amos moverAdd _ (.head _) ⟨2, none⟩ moverPlaces moverBegun moverBegun moverBegun rfl
    ⟨issues_moverState, nofun, rfl, congrArg Except.isOk access_moverBegun, access_moverBegun, track_moverBegun false⟩ (track_moverBegun true) rfl
  obtain ⟨s', hrun, -, regs, -⟩ := runs
  have hrecent := congrArg Thread.recent regs.keeps.rest
  rw [thread_writePlaces _ _ _ rfl] at hrecent
  exact recent_noteStore_moverBegun (hrecent.symm.trans (recent_moverAdd hrun))

end Sys2Proof

namespace Sys2Proof

open Machine

/-! ## Lane operations of Table 9.4, by the shape of their meaning (R165, R168, R172) -/

section LaneShapes

variable {i : Instr} {w : BitVec 32} {st : BitVec 3} {d a b : BitVec 5} {k : BitVec 3} {h j : BitVec 1} {lat : Nat} {readsD legal : Bool}
  {x : Thread → Vec → Vec → Vec → Nat → Nat × Nat}

/-- A lane operation on vA and vB, and on vD where it reads it. -/
theorem writesLanes_vbin {f : Thread → BitVec 32 → BitVec 32 → BitVec 32 → Nat × Nat}
    (he : ∀ s, exec i s = vbin w st d a b k h j readsD legal lat f s)
    (hx : ∀ t D A B l, f t (lane A l) (lane B l) (lane D l) = x t D A B l)
    (hl : legal = true := by rfl) (hf : Barely f := by exact fun _ _ _ _ _ _ _ _ => rfl) :
    WritesLanes i { d := if readsD then some d.toNat else none, a := some a.toNat, b := some b.toNat, ha := h == 1#1, hb := j == 1#1 }
      [(.k, k.toNat)] d.toNat (fun t => t.readK k.toNat) x := by
  subst hl
  obtain rfl : (fun t D A B l => f t (lane A l) (lane B l) (lane D l)) = x := by funext t D A B l; exact hx t D A B l
  exact writesLanes_of he (fun _ _ _ _ _ _ _ _ => rfl) fun t p q m n r e g => by rw [hf t p q m n r e g]

/-- A lane operation on vA, and on vD where it replaces a part of it. -/
theorem writesLanes_vun {f : Thread → BitVec 32 → BitVec 32 → Nat × Nat} (he : ∀ s, exec i s = vun w st d a k h readsD legal lat f s)
    (hx : ∀ t D A B l, f t (lane A l) (lane D l) = x t D A B l) (hl : legal = true := by rfl) (hf : Barely f := by exact fun _ _ _ _ _ _ _ _ => rfl) :
    WritesLanes i { d := if readsD then some d.toNat else none, a := some a.toNat, ha := h == 1#1 }
      [(.k, k.toNat)] d.toNat (fun t => t.readK k.toNat) x := by
  subst hl
  obtain rfl : (fun t D A _ l => f t (lane A l) (lane D l)) = x := by funext t D A B l; exact hx t D A B l
  exact writesLanes_of he (fun _ _ _ _ _ _ _ _ => rfl) fun t p q m n r e g => by rw [hf t p q m n r e g]

end LaneShapes

/-! ## Integer lanes (R166 to R168) -/

section IntegerLanes

variable {u : BitVec 2} (x y z : BitVec 32)

/-- Equal lanes are equal results, without a flag. -/
theorem laneValue_congr {v v' : BitVec 32} (hv : v = v') : (v.toNat, 0) = (v'.toNat, 0) := by rw [hv]

/-- On .s32 and .n32 lanes the integer operation applies, and sets no flag. -/
theorem laneOp_int {x y z c : BitVec 32} {ff : Fmt → Nat → Nat → Nat → Nat × Nat} {fi : BitVec 32 → BitVec 32 → BitVec 32 → BitVec 32}
    (hu : u = 1 ∨ u = 2) (hc : fi x y z = c) : laneOp u.toNat ff fi x y z = (c.toNat, 0) := by
  subst hc
  rcases hu with rfl | rfl <;> rfl

theorem laneAdd_eq : x + y = BitVec.ofNat 32 (x.toNat + y.toNat) := by
  apply BitVec.eq_of_toNat_eq
  rw [BitVec.toNat_add, BitVec.toNat_ofNat]

theorem laneSub_eq : x - y = BitVec.ofInt 32 (x.toInt - y.toInt) := by
  apply BitVec.eq_of_toInt_eq
  rw [BitVec.toInt_sub, BitVec.toInt_ofInt]

theorem laneMul_eq : x * y = BitVec.ofNat 32 (x.toNat * y.toNat) := by
  apply BitVec.eq_of_toNat_eq
  rw [BitVec.toNat_mul, BitVec.toNat_ofNat]

theorem laneFma_eq : x * y + z = BitVec.ofNat 32 (x.toNat * y.toNat + z.toNat) := by
  apply BitVec.eq_of_toNat_eq
  rw [BitVec.toNat_add, BitVec.toNat_mul, BitVec.toNat_ofNat, Nat.mod_add_mod]

theorem laneShl_eq : x <<< (y.toNat % 32) = BitVec.ofNat 32 (x.toNat * 2 ^ (y.toNat % 32)) := by
  apply BitVec.eq_of_toNat_eq
  rw [BitVec.toNat_shiftLeft, Nat.shiftLeft_eq, BitVec.toNat_ofNat]

theorem laneShr_eq : x >>> (y.toNat % 32) = BitVec.ofNat 32 (x.toNat / 2 ^ (y.toNat % 32)) := by
  apply BitVec.eq_of_toNat_eq
  rw [BitVec.toNat_ushiftRight, Nat.shiftRight_eq_div_pow, BitVec.toNat_ofNat, Nat.mod_eq_of_lt ((Nat.div_le_self _ _).trans_lt x.isLt)]

theorem laneSar_eq : x.sshiftRight (y.toNat % 32) = BitVec.ofInt 32 (x.toInt / 2 ^ (y.toNat % 32)) := by
  have h := Int.shiftRight_eq_div_pow x.toInt (y.toNat % 32)
  push_cast at h
  rw [← h, ← BitVec.toInt_sshiftRight, BitVec.ofInt_toInt]

/-- The order of two integer lanes: signed for .s32. -/
def laneLess (u : BitVec 2) (x y : BitVec 32) : Bool := if u = 1 then decide (x.toInt < y.toInt) else decide (x.toNat < y.toNat)

/-- Lane type 1 is .s32 (Table 3.6). -/
theorem toNat_eq_one_iff : u.toNat = 1 ↔ u = 1 := BitVec.toNat_inj (y := 1#2)

theorem laneLess_eq : (if u.toNat = 1 then x.slt y else x.ult y) = laneLess u x y := by
  simp only [laneLess, toNat_eq_one_iff, BitVec.slt_eq_decide, BitVec.ult_eq_decide]

theorem intMinmax_min : intMinmax u.toNat false x y z = if laneLess u x y then x else y := by
  rw [intMinmax, laneLess_eq]
  cases laneLess u x y <;> rfl

theorem intMinmax_max : intMinmax u.toNat true x y z = if laneLess u x y then y else x := by
  rw [intMinmax, laneLess_eq]

theorem laneShiftRight_eq : (if u.toNat = 1 then x.sshiftRight (y.toNat % 32) else x >>> (y.toNat % 32)) =
    if u = 1 then BitVec.ofInt 32 (x.toInt / 2 ^ (y.toNat % 32)) else BitVec.ofNat 32 (x.toNat / 2 ^ (y.toNat % 32)) := by
  simp only [toNat_eq_one_iff, laneSar_eq, laneShr_eq]

/-- The lowest number has no absolute value and no negation in its lane. -/
def lowestLane (sat : Bool) : Nat × Nat := if sat then (0x7FFFFFFF, SATF) else (0x80000000, 0)

/-- The absolute value of a lane, as a number; that of the lowest lane is its own pattern. -/
theorem toNat_abs_lane : (if x.slt 0 then -x else x).toNat = x.toInt.natAbs := by
  have hlt := x.isLt
  have hzero : (0 : BitVec 32).toInt = 0 := rfl
  rw [BitVec.slt_eq_decide, hzero, BitVec.toInt_eq_toNat_cond]
  by_cases hpos : 2 * x.toNat < 2 ^ 32
  · rw [if_pos hpos, if_neg (by simp)]
    rfl
  · rw [if_neg hpos, if_pos (by simp; omega), BitVec.toNat_neg]
    omega

theorem absLane_s32 (sat : Bool) : absLane 1 sat x = if x = 0x80000000 then lowestLane sat else (x.toInt.natAbs, 0) := by
  unfold absLane
  by_cases hx : x = 0x80000000
  · rw [if_pos ⟨rfl, hx⟩, if_pos hx]
    rfl
  · rw [if_neg (fun h => hx h.2), if_neg hx, ← toNat_abs_lane]
    rfl

theorem laneNeg_eq : -x = BitVec.ofInt 32 (-x.toInt) := by
  apply BitVec.eq_of_toInt_eq
  rw [BitVec.toInt_neg, BitVec.toInt_ofInt]

theorem negLane_s32 (sat : Bool) : negLane 1 sat x = if x = 0x80000000 then lowestLane sat else ((BitVec.ofInt 32 (-x.toInt)).toNat, 0) := by
  unfold negLane
  by_cases hx : x = 0x80000000
  · rw [if_pos ⟨rfl, hx⟩, if_pos hx]
    rfl
  · rw [if_neg (fun h => hx h.2), if_neg hx, ← laneNeg_eq]
    rfl

end IntegerLanes

theorem intLane_of {u : BitVec 2} (hu : u = 1 ∨ u = 2) : intLane u = true := by rcases hu with rfl | rfl <;> rfl

/-- Settles O34: each is a lane operation of one of two shapes, with the value that the table gives. -/
theorem vectorIntegerLanes : Obligations.VectorIntegerLanes := by
  unfold Obligations.VectorIntegerLanes
  intro st d a b k h j u p pd pa kk rd less
  refine ⟨?_, fun hu => ?_, ?_, ?_⟩
  · refine pairs_cons (fun hu => ?add) <| pairs_cons (fun hu => ?sub) <| pairs_cons (fun hu => ?mul) <| pairs_cons (fun hu => ?min) <|
      pairs_cons (fun hu => ?max) <| pairs_cons (fun hu => ?shl) <| pairs_cons (fun hu => ?shr) pairs_nil
    case add =>
      exact writesLanes_vbin (i := .vadd st d a b k h j u) (fun s => (rfl : execVadd st d a b k h j u s = _))
        fun _ _ _ _ _ => laneOp_int hu (laneAdd_eq _ _)
    case sub =>
      exact writesLanes_vbin (i := .vsub st d a b k h j u) (fun s => (rfl : execVsub st d a b k h j u s = _))
        fun _ _ _ _ _ => laneOp_int hu (laneSub_eq _ _)
    case mul =>
      exact writesLanes_vbin (i := .vmul st d a b k h j u) (fun s => (rfl : execVmul st d a b k h j u s = _))
        fun _ _ _ _ _ => laneOp_int hu (laneMul_eq _ _)
    case min =>
      exact writesLanes_vbin (i := .vmin st d a b k h j u) (fun s => (rfl : execVmin st d a b k h j u s = _))
        fun _ _ _ _ _ => laneOp_int hu (intMinmax_min _ _ _)
    case max =>
      exact writesLanes_vbin (i := .vmax st d a b k h j u) (fun s => (rfl : execVmax st d a b k h j u s = _))
        fun _ _ _ _ _ => laneOp_int hu (intMinmax_max _ _ _)
    case shl =>
      exact writesLanes_vbin (i := .vshl st d a b k h j u) (fun s => (rfl : execVshl st d a b k h j u s = _))
        (fun _ _ _ _ _ => laneValue_congr (laneShl_eq _ _)) (intLane_of hu)
    case shr =>
      exact writesLanes_vbin (i := .vshr st d a b k h j u) (fun s => (rfl : execVshr st d a b k h j u s = _))
        (fun _ _ _ _ _ => laneValue_congr (laneShiftRight_eq _ _)) (intLane_of hu)
  · exact writesLanes_vbin (i := .vfma st d a b k h j u) (fun s => (rfl : execVfma st d a b k h j u s = _))
      fun _ _ _ _ _ => laneOp_int hu (laneFma_eq _ _ _)
  · refine pairs_cons ?and <| pairs_cons ?or <| pairs_cons ?xor pairs_nil
    case and =>
      exact writesLanes_vbin (i := .vand st d a b k h j u) (fun s => (rfl : execVand st d a b k h j u s = _))
        fun _ _ _ _ _ => rfl
    case or =>
      exact writesLanes_vbin (i := .vor st d a b k h j u) (fun s => (rfl : execVor st d a b k h j u s = _))
        fun _ _ _ _ _ => rfl
    case xor =>
      exact writesLanes_vbin (i := .vxor st d a b k h j u) (fun s => (rfl : execVxor st d a b k h j u s = _))
        fun _ _ _ _ _ => rfl
  · rintro rfl
    exact ⟨writesLanes_vun (i := .vabs st d a k h j 1) (fun s => (rfl : execVabs st d a k h j 1 s = _)) fun _ _ _ _ _ => absLane_s32 _ _,
      writesLanes_vun (i := .vneg st d a k h j 1) (fun s => (rfl : execVneg st d a k h j 1 s = _)) fun _ _ _ _ _ => negLane_s32 _ _⟩

end Sys2Proof

namespace Sys2Proof

open Machine

/-! ## Floating-point lanes (R165, R168 to R170, R172) -/

section FloatLanes

variable {u : BitVec 2} {x y z : BitVec 32} {ff : Fmt → Nat → Nat → Nat → Nat × Nat} {fi : BitVec 32 → BitVec 32 → BitVec 32 → BitVec 32}

/-- A floating-point operation on the element of an FP32 lane, or on the two of a .bf16 lane (R165). -/
def floatLane (u : BitVec 2) (ff : Fmt → Nat → Nat → Nat → Nat × Nat) (x y z : BitVec 32) : Nat × Nat :=
  if u = 0 then ff fp32 x.toNat y.toNat z.toNat else bf16Pair (ff bf16) x.toNat y.toNat z.toNat

theorem laneOp_float (hu : u = 0 ∨ u = 3) : laneOp u.toNat ff fi x y z = floatLane u ff x y z := by
  rcases hu with rfl | rfl <;> rfl

/-- The same for an operation that does not look at its third operand. -/
theorem laneOp_float_binary (hu : u = 0 ∨ u = 3) (hz : ∀ f x y z, ff f x y z = ff f x y 0) : laneOp u.toNat ff fi x y z = floatLane u ff x y 0 := by
  have hpair : bf16Pair (ff bf16) x.toNat y.toNat z.toNat = bf16Pair (ff bf16) x.toNat y.toNat 0 := by
    simp only [bf16Pair, hz _ _ _ (z.toNat % 65536), hz _ _ _ (z.toNat / 65536), Nat.zero_mod, Nat.zero_div]
  rw [laneOp_float hu, floatLane, floatLane, hz, hpair]
  rfl

theorem signOp_clear (f : Fmt) (x y z : Nat) :
    signOp false f x y z = if (decodeF f x).isNan then (f.nanBits, 0) else (x % 2 ^ (f.bits - 1), 0) := rfl

theorem signOp_flip (f : Fmt) (x y z : Nat) :
    signOp true f x y z = if (decodeF f x).isNan then (f.nanBits, 0)
      else (if x % 2 ^ (f.bits - 1) = x then x + 2 ^ (f.bits - 1) else x % 2 ^ (f.bits - 1), 0) := by
  unfold signOp
  split
  · rfl
  · by_cases hx : x % 2 ^ (f.bits - 1) = x
    · simp [hx]
    · simp [hx, Ne.symm hx]

theorem absLane_float (hu : u = 0 ∨ u = 3) (sat : Bool) : absLane u.toNat sat x = floatLane u (signOp false) x 0 0 := by
  rcases hu with rfl | rfl <;> rfl

theorem negLane_float (hu : u = 0 ∨ u = 3) (sat : Bool) : negLane u.toNat sat x = floatLane u (signOp true) x 0 0 := by
  rcases hu with rfl | rfl <;> rfl

end FloatLanes

theorem signLane_of {u : BitVec 2} (hu : u = 0 ∨ u = 3) : (u.toNat != 2) = true := by rcases hu with rfl | rfl <;> rfl

/-- VFMAB takes lane `n` of vA in every lane, under no predicate (R169). -/
theorem writesLanes_vfmab {st : BitVec 3} {d a b : BitVec 5} {k : BitVec 3} {h j : BitVec 1} {u : BitVec 2} :
    WritesLanes (.vfmab st d a b k h j u) { d := some d.toNat, a := some a.toNat, b := some b.toNat, ha := h == 1#1, hb := j == 1#1 } []
      d.toNat (fun _ => 0xFFFF)
      fun t D A B l => laneOp u.toNat (ffFma t.roundMode) (fun x y z => x * y + z) (lane A k.toNat) (lane B l) (lane D l) :=
  writesLanes_of (fun s => (rfl : execVfmab st d a b k h j u s = _)) (fun _ _ _ _ _ _ _ _ => rfl) fun _ _ _ _ _ _ _ _ => rfl

/-- Settles O35: each is a lane operation of one of two shapes on the elements of a lane. -/
theorem vectorFloatLanes : Obligations.VectorFloatLanes := by
  unfold Obligations.VectorFloatLanes
  intro st d a b k h j u p pd pa kk rd both hu
  have hfma (t : Thread) (x y z : BitVec 32) : laneOp u.toNat (ffFma t.roundMode) (fun x y z => x * y + z) x y z =
      both (fun f x y z => fmaF f t.roundMode (decodeF f x) (decodeF f y) (decodeF f z)) x y z := laneOp_float hu
  refine ⟨?_, ?vfma, ?vfmab, ?vabs, ?vneg⟩
  · refine pairs_cons ?add <| pairs_cons ?sub <| pairs_cons ?mul <| pairs_cons ?min <| pairs_cons ?max pairs_nil
    case add =>
      exact writesLanes_vbin (i := .vadd st d a b k h j u) (fun s => (rfl : execVadd st d a b k h j u s = _))
        fun _ _ _ _ _ => laneOp_float_binary hu fun _ _ _ _ => rfl
    case sub =>
      exact writesLanes_vbin (i := .vsub st d a b k h j u) (fun s => (rfl : execVsub st d a b k h j u s = _))
        fun _ _ _ _ _ => laneOp_float_binary hu fun _ _ _ _ => rfl
    case mul =>
      exact writesLanes_vbin (i := .vmul st d a b k h j u) (fun s => (rfl : execVmul st d a b k h j u s = _))
        fun _ _ _ _ _ => laneOp_float_binary hu fun _ _ _ _ => rfl
    case min =>
      exact writesLanes_vbin (i := .vmin st d a b k h j u) (fun s => (rfl : execVmin st d a b k h j u s = _))
        fun _ _ _ _ _ => laneOp_float_binary hu fun _ _ _ _ => rfl
    case max =>
      exact writesLanes_vbin (i := .vmax st d a b k h j u) (fun s => (rfl : execVmax st d a b k h j u s = _))
        fun _ _ _ _ _ => laneOp_float_binary hu fun _ _ _ _ => rfl
  case vfma => exact writesLanes_vbin (i := .vfma st d a b k h j u) (fun s => (rfl : execVfma st d a b k h j u s = _)) fun t _ _ _ _ => hfma t _ _ _
  case vfmab =>
    simp only [← hfma]
    exact writesLanes_vfmab
  case vabs =>
    exact writesLanes_vun (i := .vabs st d a k h j u) (fun s => (rfl : execVabs st d a k h j u s = _))
      (fun _ _ _ _ _ => absLane_float hu _) (signLane_of hu)
  case vneg =>
    simp only [← signOp_flip _ _ 0 0]
    exact writesLanes_vun (i := .vneg st d a k h j u) (fun s => (rfl : execVneg st d a k h j u s = _))
      (fun _ _ _ _ _ => negLane_float hu _) (signLane_of hu)

end Sys2Proof

namespace Sys2Proof

open Machine

/-! ## Lane compares (R170) and selection (R171) -/

section Compares

variable {u : BitVec 2} {x y : BitVec 32}

/-- Two lanes are equal: FP32 values that are no NaNs, else bit by bit. -/
def laneEq (u : BitVec 2) (x y : BitVec 32) : Bool :=
  if u = 0 then !(decodeF fp32 x.toNat).isNan && !(decodeF fp32 y.toNat).isNan && eqFV (decodeF fp32 x.toNat) (decodeF fp32 y.toNat) else x == y

/-- One lane is below another: FP32 values that are no NaNs and not equal, else as the integer type orders them. -/
def laneLt (u : BitVec 2) (x y : BitVec 32) : Bool :=
  if u = 0 then
    !(decodeF fp32 x.toNat).isNan && !(decodeF fp32 y.toNat).isNan && !laneEq u x y && ltFV (decodeF fp32 x.toNat) (decodeF fp32 y.toNat)
  else laneLess u x y

/-- The condition of a compare by its number: equal, not equal, below, below or equal. -/
def laneCond (cond : Nat) (u : BitVec 2) (x y : BitVec 32) : Bool :=
  match cond with
  | 0 => laneEq u x y
  | 1 => !laneEq u x y
  | 2 => laneLt u x y
  | _ => laneLt u x y || laneEq u x y

/-- Of two FP32 lanes one a NaN, only the condition of inequality holds. -/
theorem cmpHolds_eq (cond : Nat) (u : BitVec 2) (x y : BitVec 32) : cmpHolds cond u.toNat x y = laneCond cond u x y := by
  by_cases hu : u = 0
  · subst hu
    have hzero : (0 : BitVec 2).toNat = 0 := rfl
    simp only [cmpHolds, laneCond, laneEq, laneLt, hzero, if_true]
    by_cases hn : ((decodeF fp32 x.toNat).isNan || (decodeF fp32 y.toNat).isNan) = true
    · have hord : (!(decodeF fp32 x.toNat).isNan && !(decodeF fp32 y.toNat).isNan) = false := by rw [← Bool.not_or, hn]; rfl
      simp only [hn, hord, if_true, Bool.false_and, Bool.not_false]
      match cond with
      | 0 | 1 | 2 | n + 3 => rfl
    · have hord : (!(decodeF fp32 x.toNat).isNan && !(decodeF fp32 y.toNat).isNan) = true := by rw [← Bool.not_or]; simpa using hn
      simp only [hn, hord, Bool.true_and]
      match cond with
      | 0 | 1 | 2 => rfl
      | n + 3 => cases eqFV (decodeF fp32 x.toNat) (decodeF fp32 y.toNat) <;> simp
  · have hn : u.toNat ≠ 0 := fun h => hu (BitVec.eq_of_toNat_eq h)
    simp only [cmpHolds, laneCond, laneEq, laneLt, hn, hu, if_false, laneLess_eq]
    match cond with
    | 0 | 1 | 2 | n + 3 => rfl

variable {i : Instr} {w : BitVec 32} {cond : Nat} {st kd : BitVec 3} {a b : BitVec 5} {k : BitVec 3} {h j : BitVec 1}
  {c : BitVec 32 → BitVec 32 → Bool}

theorem writesVK_vcmp (he : ∀ s, exec i s = vcmp w cond st kd a b k h j u s) (hu : u ≠ 3) (hc : ∀ x y, cmpHolds cond u.toNat x y = c x y) :
    WritesVK i { a := some a.toNat, b := some b.toNat, ha := h == 1#1, hb := j == 1#1 } [(.k, k.toNat)] kd.toNat
      fun t A B l => (t.readK k.toNat).getLsbD l && c (lane A l) (lane B l) := by
  obtain rfl : cmpHolds cond u.toNat = c := funext₂ hc
  have hl : notBf16 u = true := bne_iff_ne.mpr fun h => hu (BitVec.eq_of_toNat_eq h)
  exact writesVK_of (fun s => by rw [he, vcmp, hl]) fun _ _ _ _ _ _ _ _ => rfl

end Compares

/-! ### Meanings that write every lane, or set no flag -/

theorem addFlags_zero (t : Thread) : addFlags t 0 = t := by
  cases t
  simp [addFlags]

/-- Lanes that set no flag set none together. -/
theorem laneFlags_zero (p : Pred) : laneFlags p (fun _ => 0) = 0 := by
  unfold laneFlags
  generalize List.range 16 = ls
  induction ls with
  | nil => rfl
  | cons l ls ih =>
    have h0 : orFlags 0 0 = 0 := rfl
    rw [List.foldl_cons, h0, ite_self, ih]

/-- A meaning that writes the whole of a register writes each of its lanes. -/
theorem WritesV.writesLanes {i : Instr} {p : VPos} {extra : List (RegFile × Nat)} {d : Nat} {v : Thread → Vec → Vec → Vec → Vec}
    {x : Thread → Vec → Vec → Vec → Nat → Nat × Nat} (hw : WritesV i p extra d v fun _ _ _ _ => 0)
    (hv : ∀ t D A B, ∀ l < 16, lane (v t D A B) l = BitVec.ofNat 32 (x t D A B l).1) (hx : ∀ t D A B l, (x t D A B l).2 = 0) :
    WritesLanes i p extra d (fun _ => 0xFFFF) x := by
  intro s hi
  obtain ⟨s', he, hval, hfl, hregs⟩ := hw s hi
  have hall (l : Nat) (hl : l < 16) : (0xFFFF : Pred).getLsbD l = true := by
    have : (0xFFFF : Pred) = BitVec.allOnes 16 := by decide
    rw [this, BitVec.getLsbD_allOnes, decide_eq_true hl]
  refine ⟨s', he, fun l hl => ?_, ?_, hregs⟩
  · rw [hval, hv _ _ _ _ l hl, hall l hl, if_pos rfl]
  · rw [hfl]
    simp only [hx, laneFlags_zero]

theorem vsel_lane (m : Pred) (A B : Vec) {l : Nat} (hl : l < 16) :
    lane ((A &&& laneMask m) ||| (B &&& ~~~laneMask m)) l = if m.getLsbD l then lane A l else lane B l := by
  rw [BitVec.or_comm, lane_merge _ _ _ _ hl]

/-- Settles O36: the four compares by their numbers; VSEL writes a whole register, lane by lane. -/
theorem vectorCompareSelect : Obligations.VectorCompareSelect := by
  unfold Obligations.VectorCompareSelect
  intro st kd d a b k h j u p rd nan eq lt
  refine ⟨?_, ?vsel⟩
  · refine pairs_cons (fun hu => ?eq) <| pairs_cons (fun hu => ?ne) <| pairs_cons (fun hu => ?lt) <| pairs_cons (fun hu => ?le) pairs_nil
    case eq => exact writesVK_vcmp (i := .vcmpEq st kd a b k h j u) (fun s => (rfl : execVcmpEq st kd a b k h j u s = _)) hu fun _ _ => cmpHolds_eq _ _ _ _
    case ne => exact writesVK_vcmp (i := .vcmpNe st kd a b k h j u) (fun s => (rfl : execVcmpNe st kd a b k h j u s = _)) hu fun _ _ => cmpHolds_eq _ _ _ _
    case lt => exact writesVK_vcmp (i := .vcmpLt st kd a b k h j u) (fun s => (rfl : execVcmpLt st kd a b k h j u s = _)) hu fun _ _ => cmpHolds_eq _ _ _ _
    case le => exact writesVK_vcmp (i := .vcmpLe st kd a b k h j u) (fun s => (rfl : execVcmpLe st kd a b k h j u s = _)) hu fun _ _ => cmpHolds_eq _ _ _ _
  case vsel =>
    have hw : WritesV (.vsel st d a b k h j u) p rd d.toNat
        (fun t _ A B => (A &&& laneMask (t.readK k.toNat)) ||| (B &&& ~~~laneMask (t.readK k.toNat))) fun _ _ _ _ => 0 :=
      writesV_of (w := 77#7 ++ st ++ d ++ a ++ b ++ k ++ h ++ j ++ u) (st := st) (lat := 4) (u := .vec)
        (fun s => by simp only [addFlags_zero]; rfl) (fun _ _ _ _ _ _ _ _ => rfl) fun _ _ _ _ _ _ _ _ => rfl
    refine hw.writesLanes (fun t _ A B l hl => ?_) fun _ _ _ _ _ => rfl
    rw [vsel_lane _ _ _ hl]
    split <;> simp

/-! ## Functions and conversions of lanes (R172, R173) -/

/-- A statement about the triples of a list, from one about its pairs. -/
theorem triples {α β γ : Type} {P : α → β → γ → Prop} {l : List (α × β × γ)} (hl : ∀ i x, (i, x) ∈ l → P i x.1 x.2) :
    ∀ i f o, (i, f, o) ∈ l → P i f o := fun i f o hm => hl i (f, o) hm

/-- Settles O37: each is a lane operation on vA alone, or one that keeps a part of vD. -/
theorem vectorFunctionsAndConversions : Obligations.VectorFunctionsAndConversions := by
  unfold Obligations.VectorFunctionsAndConversions
  intro st d a k h j w u y pa pd kk rd put
  refine ⟨?functions, ?f2s, ?f2n, ?s2f, ?n2f, ?narrow, ?widen⟩
  case functions =>
    refine pairs_cons ?rcp <| pairs_cons ?rsq <| pairs_cons ?exp2 <| pairs_cons ?log2 pairs_nil
    case rcp => exact writesLanes_vun (i := .vrcp st d a k h j 0) (fun s => (rfl : execVrcp st d a k h j 0 s = _)) fun _ _ _ _ _ => rfl
    case rsq => exact writesLanes_vun (i := .vrsq st d a k h j 0) (fun s => (rfl : execVrsq st d a k h j 0 s = _)) fun _ _ _ _ _ => rfl
    case exp2 => exact writesLanes_vun (i := .vexp2 st d a k h j 0) (fun s => (rfl : execVexp2 st d a k h j 0 s = _)) fun _ _ _ _ _ => rfl
    case log2 => exact writesLanes_vun (i := .vlog2 st d a k h j 0) (fun s => (rfl : execVlog2 st d a k h j 0 s = _)) fun _ _ _ _ _ => rfl
  case f2s => exact writesLanes_vun (i := .vcvtF2s st d a k h j u) (fun s => (rfl : execVcvtF2s st d a k h j u s = _)) fun _ _ _ _ _ => rfl
  case f2n => exact writesLanes_vun (i := .vcvtF2n st d a k h j u) (fun s => (rfl : execVcvtF2n st d a k h j u s = _)) fun _ _ _ _ _ => rfl
  case s2f => exact writesLanes_vun (i := .vcvtS2f st d a k h j u) (fun s => (rfl : execVcvtS2f st d a k h j u s = _)) fun _ _ _ _ _ => rfl
  case n2f => exact writesLanes_vun (i := .vcvtN2f st d a k h j u) (fun s => (rfl : execVcvtN2f st d a k h j u s = _)) fun _ _ _ _ _ => rfl
  case narrow =>
    refine triples (pairs_cons ?f2b <| pairs_cons ?f2h <| pairs_cons ?f2e4 <| pairs_cons ?f2e5 pairs_nil)
    case f2b => exact writesLanes_vun (i := .vcvtF2b st d a w k h j u) (fun s => (rfl : execVcvtF2b st d a w k h j u s = _)) fun _ _ _ _ _ => rfl
    case f2h => exact writesLanes_vun (i := .vcvtF2h st d a w k h j u) (fun s => (rfl : execVcvtF2h st d a w k h j u s = _)) fun _ _ _ _ _ => rfl
    case f2e4 => exact writesLanes_vun (i := .vcvtF2e4 st d a y k h j u) (fun s => (rfl : execVcvtF2e4 st d a y k h j u s = _)) fun _ _ _ _ _ => rfl
    case f2e5 => exact writesLanes_vun (i := .vcvtF2e5 st d a y k h j u) (fun s => (rfl : execVcvtF2e5 st d a y k h j u s = _)) fun _ _ _ _ _ => rfl
  case widen =>
    refine triples (pairs_cons ?b2f <| pairs_cons ?h2f <| pairs_cons ?e4f <| pairs_cons ?e5f pairs_nil)
    case b2f => exact writesLanes_vun (i := .vcvtB2f st d a w k h j u) (fun s => (rfl : execVcvtB2f st d a w k h j u s = _)) fun _ _ _ _ _ => rfl
    case h2f => exact writesLanes_vun (i := .vcvtH2f st d a w k h j u) (fun s => (rfl : execVcvtH2f st d a w k h j u s = _)) fun _ _ _ _ _ => rfl
    case e4f => exact writesLanes_vun (i := .vcvtE4f st d a y k h j u) (fun s => (rfl : execVcvtE4f st d a y k h j u s = _)) fun _ _ _ _ _ => rfl
    case e5f => exact writesLanes_vun (i := .vcvtE5f st d a y k h j u) (fun s => (rfl : execVcvtE5f st d a y k h j u s = _)) fun _ _ _ _ _ => rfl

end Sys2Proof

namespace Sys2Proof

open Machine

/-! ## Threads that differ in registers only -/

/-- From `t` to `t'` only registers change: those listed, and FFLAGS where `fl`. -/
structure Ends (t t' : Thread) (g v k : List Nat) (fl : Bool) : Prop where
  g : ∀ i < 32, i ∉ g → t'.finalG i = t.finalG i
  v : ∀ i < 32, i ∉ v → t'.finalV i = t.finalV i
  k : ∀ i < 8, i ∉ k → t'.finalK i = t.finalK i
  rest : t'.rest = t.rest
  pc : t'.pc = t.pc
  flags : fl = false → t'.fflags = t.fflags
  latches : t'.latchD = t.latchD ∧ t'.latchA = t.latchA ∧ t'.latchB = t.latchB

namespace Ends

variable {t t' t'' : Thread} {g v k : List Nat} {fl : Bool}

theorem refl (t : Thread) : Ends t t g v k fl :=
  ⟨fun _ _ _ => rfl, fun _ _ _ => rfl, fun _ _ _ => rfl, rfl, rfl, fun _ => rfl, rfl, rfl, rfl⟩

theorem trans (h : Ends t t' g v k fl) (h' : Ends t' t'' g v k fl) : Ends t t'' g v k fl := by
  obtain ⟨hD, hA, hB⟩ := h.latches
  obtain ⟨hD', hA', hB'⟩ := h'.latches
  exact ⟨fun i hi hn => (h'.g i hi hn).trans (h.g i hi hn), fun i hi hn => (h'.v i hi hn).trans (h.v i hi hn),
    fun i hi hn => (h'.k i hi hn).trans (h.k i hi hn), h'.rest.trans h.rest, h'.pc.trans h.pc,
    fun hf => (h'.flags hf).trans (h.flags hf), hD'.trans hD, hA'.trans hA, hB'.trans hB⟩

theorem ite {c : Prop} [Decidable c] (h : Ends t t' g v k fl) (h' : Ends t t'' g v k fl) : Ends t (if c then t' else t'') g v k fl := by
  split
  · exact h
  · exact h'

theorem produceG {d : Nat} (hd : d ∈ g) (t : Thread) (m x : Vec) (l : Nat) (u : Producer) : Ends t (t.produce .g d m x l u) g v k fl :=
  ⟨fun _ _ hn => produce_finalG_ne _ _ _ _ _ _ _ _ (.inr fun e => hn (e ▸ hd)), fun _ _ _ => produce_finalV_ne _ _ _ _ _ _ _ _ (.inl nofun),
    fun _ _ _ => produce_finalK_ne _ _ _ _ _ _ _ _ (.inl nofun), produce_rest _ _ _ _ _ _ _, produce_pc _ _ _ _ _ _ _,
    fun _ => produce_fflags _ _ _ _ _ _ _, produce_latchD _ _ _ _ _ _ _, produce_latchA _ _ _ _ _ _ _, produce_latchB _ _ _ _ _ _ _⟩

theorem produceV {d : Nat} (hd : d ∈ v) (t : Thread) (m x : Vec) (l : Nat) (u : Producer) : Ends t (t.produce .v d m x l u) g v k fl :=
  ⟨fun _ _ _ => produce_finalG_ne _ _ _ _ _ _ _ _ (.inl nofun), fun _ _ hn => produce_finalV_ne _ _ _ _ _ _ _ _ (.inr fun e => hn (e ▸ hd)),
    fun _ _ _ => produce_finalK_ne _ _ _ _ _ _ _ _ (.inl nofun), produce_rest _ _ _ _ _ _ _, produce_pc _ _ _ _ _ _ _,
    fun _ => produce_fflags _ _ _ _ _ _ _, produce_latchD _ _ _ _ _ _ _, produce_latchA _ _ _ _ _ _ _, produce_latchB _ _ _ _ _ _ _⟩

theorem addFlags (t : Thread) (n : Nat) : Ends t (addFlags t n) g v k true :=
  ⟨fun _ _ _ => rfl, fun _ _ _ => rfl, fun _ _ _ => rfl, rfl, rfl, nofun, rfl, rfl, rfl⟩

end Ends

/-- `i` is an operation on vector operands that changes registers only: the latches load, the meaning `f` applies to a thread `t` that
holds what the current one held, and to its operands (R97, R98), and the thread is past the instruction. -/
def RunsVector (i : Instr) (s : State) (p : VPos) (f : Thread → Vec → Vec → Vec → Thread) (g v k : List Nat) (fl : Bool) : Prop :=
  ∃ s' t n c o, exec i s = .next s' ∧ RegsOnly s.cur (latched p s) s' g v k fl (s.me.pc + 4) ∧
    (∀ {α : Type} {x : Thread → α}, Barely x → x t = x s.me) ∧
    s'.thread s.cur = (f t (p.valD s.me) (p.valA s.me) (p.valB s.me)).passed (t.pc + 4) n c o

section RunsVector

variable {i : Instr} {s : State} {w : BitVec 32} {st : BitVec 3} {p : VPos} {extra : List (RegFile × Nat)} {legal : Bool} {n : Nat}
  {f : Thread → Vec → Vec → Vec → Thread} {g v k : List Nat} {fl : Bool}

theorem runsVector_of {op : Op} {fm : Form} (hexec : exec i s = issue op s (regBody fun t => f (p.load t) (p.valD t) (p.valA t) (p.valB t)))
    (hf : op.Has fm) (hc : fm.cls ≠ .irrev) (hi : Issues fm s) (he : ∀ (t : Thread) D A B, Ends t (f t D A B) g v k fl) :
    RunsVector i s p f g v k fl := by
  have hload (t : Thread) := he (p.load t) (p.valD t) (p.valA t) (p.valB t)
  obtain ⟨s', c, o, h1, h2, h3⟩ := vregs_of (p := p) hf hc hi (fun t => (hload t).g) (fun t => (hload t).v) (fun t => (hload t).k)
    (fun t => (hload t).rest) (fun t => (hload t).pc) (fun h t => (hload t).flags h) (fun t => (hload t).latches)
  have hD := (plainly_valD p).begun (f := fm) hi.context
  have hA := (plainly_valA p).begun (f := fm) hi.context
  have hB := (plainly_valB p).begun (f := fm) hi.context
  refine ⟨s', p.load (begun fm s).me, op.stall, c, o, hexec.trans h1, h2, fun hx => (hx.load p _).trans (hx.plainly.begun hi.context), ?_⟩
  rw [h3, (hload _).pc, hD, hA, hB]

theorem runsVector_issueV (hexec : exec i s = issueV w st p extra true s f) (hi : Issues (p.form extra s) s)
    (he : ∀ (t : Thread) D A B, Ends t (f t D A B) g v k fl) : RunsVector i s p f g v k fl :=
  runsVector_of hexec (vop_has w st p extra s) nofun hi he

theorem runsVector_issueVSlow (hexec : exec i s = issueVSlow n w st p legal s f) (hl : legal = true) (hi : Issues (p.form [] s) s)
    (he : ∀ (t : Thread) D A B, Ends t (f t D A B) g v k fl) : RunsVector i s p f g v k fl :=
  runsVector_of (fm := p.form [] s) hexec ⟨hl, rfl, rfl, rfl, rfl, rfl, rfl, rfl⟩ nofun hi he

end RunsVector

theorem barely_readK (n : Nat) : Barely (·.readK n) := fun _ _ _ _ _ _ _ _ => rfl
theorem barely_readG (n : Nat) : Barely (·.readG n) := fun _ _ _ _ _ _ _ _ => rfl
theorem barely_readV (n : Nat) : Barely (·.readV n) := fun _ _ _ _ _ _ _ _ => rfl
theorem barely_finalG (n : Nat) : Barely (·.finalG n) := fun _ _ _ _ _ _ _ _ => rfl
theorem barely_finalV (n : Nat) : Barely (·.finalV n) := fun _ _ _ _ _ _ _ _ => rfl
theorem barely_fflags : Barely Thread.fflags := fun _ _ _ _ _ _ _ _ => rfl

/-- A whole register is written. -/
theorem produce_maskV_finalV (t : Thread) (d : Nat) (x : Vec) (l : Nat) (u : Producer) : (t.produce .v d maskV x l u).finalV d = x := by
  rw [produce_finalV_self, maskV, BitVec.not_allOnes, BitVec.and_zero, BitVec.zero_or, BitVec.and_allOnes]

/-! ## One lane (R176) -/

theorem getLsbD_oneLane (n : BitVec 4) {l : Nat} (hl : l < 16) : (1#16 <<< n.toNat).getLsbD l = decide (l = n.toNat) := by
  rw [BitVec.getLsbD_shiftLeft, BitVec.getLsbD_one]
  by_cases h : l = n.toNat
  · simp [← h, hl]
  · simp [h]
    omega

theorem lane_setWidth_shiftLeft (x : BitVec 32) {n : Nat} (hn : n < 16) : lane (x.setWidth 512 <<< (32 * n)) n = x := by
  apply BitVec.eq_of_getLsbD_eq
  intro i hi
  rw [getLsbD_lane, BitVec.getLsbD_shiftLeft, BitVec.getLsbD_setWidth]
  have h1 : ¬ 32 * n + i < 32 * n := by omega
  have h2 : 32 * n + i - 32 * n = i := by omega
  simp [hi, h1, h2, show 32 * n + i < 512 by omega, show i < 512 by omega]

/-- The low lane of a word. -/
theorem setWidth_word (x : Word) : (x.setWidth 32 : BitVec 32) = BitVec.ofNat 32 (x.toNat % 2 ^ 32) := by
  apply BitVec.eq_of_toNat_eq
  rw [BitVec.toNat_setWidth, BitVec.toNat_ofNat, Nat.mod_mod]

/-- The same value in every lane, without a flag. -/
theorem mapLanes_const (p : Pred) (n : Nat) : mapLanes p (fun _ => (n, 0)) = (ofLanes (List.replicate 16 (BitVec.ofNat 32 n)), 0) := by
  have hget (i : Nat) : ((List.replicate 16 (n, 0)).getD i (0, 0)).2 = 0 := by
    rw [List.getD_eq_getElem?_getD, List.getElem?_replicate]
    split <;> rfl
  unfold mapLanes
  simp only [List.map_const', List.length_range, List.map_replicate, hget]
  exact Prod.ext rfl (laneFlags_zero p)

section OneLane

variable {st : BitVec 3} {d a : BitVec 5} {x : BitVec 1} {n : BitVec 4} {k : BitVec 3} {h j : BitVec 1}

theorem writesLanes_vins : WritesLanes (.vins st d a x n k h j) {} [(.g, a.toNat), (.k, k.toNat)] d.toNat
    (fun t => t.readK k.toNat &&& (1#16 <<< n.toNat)) fun t _ _ _ _ => ((t.readG a.toNat).toNat % 2 ^ 32, 0) := by
  intro s hi
  obtain ⟨s', t, m, c, o, h1, h2, ht, h3⟩ := runsVector_issueV (i := .vins st d a x n k h j) (g := []) (v := [d.toNat]) (k := []) (fl := true)
    (rfl : execVins st d a x n k h j s = _) hi fun t _ _ _ => .ite (.produceV (by simp) _ _ _ _ _) (.refl t)
  simp only [ht (barely_readK _), ht (barely_readG _)] at h3
  refine ⟨s', h1, fun l hl => ?_, ?_, h2⟩
  · rw [h3, passed_finalV _ _ _ _ _ _ d.isLt, BitVec.getLsbD_and, getLsbD_oneLane n hl]
    by_cases hbit : (s.me.readK k.toNat).getLsbD n.toNat = true
    · rw [if_pos hbit, produce_finalV_self, lane_merge _ _ _ _ hl, getLsbD_oneLane n hl, ht (barely_finalV _)]
      by_cases hln : l = n.toNat
      · subst hln
        rw [lane_setWidth_shiftLeft _ n.isLt, setWidth_word, hbit]
        simp
      · simp [hln]
    · rw [if_neg hbit, ht (barely_finalV _)]
      by_cases hln : l = n.toNat
      · subst hln
        simp [hbit]
      · simp [hln]
  · rw [h3, passed_fflags, laneFlags_zero, addFlags_zero, ← ht barely_fflags]
    split
    · exact produce_fflags _ _ _ _ _ _ _
    · rfl

theorem vlane_answers {s : State} (hi : Issues (({ a := some a.toNat, ha := h == 1#1 } : VPos).form [(.k, k.toNat)] s) s) :
    Answers (.vlane st d a x n k h j) s fun s' =>
      (s'.thread s.cur).finalG d.toNat = (if d = 0 then 0 else if (s.me.readK k.toNat).getLsbD n.toNat then
        (lane (({ a := some a.toNat, ha := h == 1#1 } : VPos).valA s.me) n.toNat).setWidth 64 else s.me.finalG d.toNat) ∧
      RegsOnly s.cur (latched { a := some a.toNat, ha := h == 1#1 } s) s' [d.toNat] [] [] false (s.me.pc + 4) := by
  obtain ⟨s', t, m, c, o, h1, h2, ht, h3⟩ := runsVector_issueV (i := .vlane st d a x n k h j) (g := [d.toNat]) (v := []) (k := []) (fl := false)
    (rfl : execVlane st d a x n k h j s = _) hi fun t _ _ _ => .ite (.produceG (by simp) _ _ _ _ _) (.refl t)
  simp only [ht (barely_readK _)] at h3
  refine ⟨s', h1, ?_, h2⟩
  rw [h3, passed_finalG _ _ _ _ _ _ d.isLt]
  by_cases hd : d = 0
  · subst hd
    exact finalG_zero _
  · have hn : d.toNat ≠ 0 := fun h => hd (BitVec.eq_of_toNat_eq h)
    rw [if_neg hd]
    split
    · have hw (y : BitVec 32) : y.setWidth 512 = (y.setWidth 64).setWidth 512 := by simp
      rw [hw, produce_finalG_self _ _ _ _ _ hn]
    · exact ht (barely_finalG _)

end OneLane

/-! ## MQ4 blocks in registers (R183, R184) -/

section Blocks

variable {st : BitVec 3} {d a b : BitVec 5} {k : BitVec 3} {h j : BitVec 1}

/-- The operands of VQNT: four registers and the scale. -/
def vqntPos (a b : BitVec 5) : VPos := { a := some a.toNat, b := some b.toNat, more := [a.toNat + 1, a.toNat + 2, a.toNat + 3] }

theorem writesV_vqnt (ha : a.toNat % 4 = 0) : WritesV (.vqnt st d a b k h j) (vqntPos a b) [] d.toNat
    (fun t _ A B => (quantised (lane B 0).toNat (blockOf [A, t.readV (a.toNat + 1), t.readV (a.toNat + 2), t.readV (a.toNat + 3)])).1)
    (fun t _ A B => (quantised (lane B 0).toNat (blockOf [A, t.readV (a.toNat + 1), t.readV (a.toNat + 2), t.readV (a.toNat + 3)])).2) := by
  intro s hi
  obtain ⟨s', t, m, c, o, h1, h2, ht, h3⟩ := runsVector_issueVSlow (i := .vqnt st d a b k h j) (g := []) (v := [d.toNat]) (k := []) (fl := true)
    (rfl : execVqnt st d a b k h j s = _) (by simp [ha]) hi fun t _ _ _ => .trans (.produceV (by simp) t _ _ _ _) (.addFlags _ _)
  simp only [List.map_cons, List.map_nil, ht (barely_readV _)] at h3
  refine ⟨s', h1, ?_, ?_, h2⟩
  · rw [h3, passed_finalV _ _ _ _ _ _ d.isLt, addFlags_finalV, produce_maskV_finalV]
    rfl
  · rw [h3, passed_fflags]
    simp only [Machine.addFlags, produce_fflags, ht barely_fflags]
    rfl

/-- Writing a list of registers, one after the other, from register `d`. -/
def produceAll (d : Nat) (es : List (Nat × Vec)) (t : Thread) : Thread :=
  es.foldl (fun t e => t.produce .v (d + e.1) maskV e.2 0 .interlocked) t

theorem ends_produceAll {d : Nat} {es : List (Nat × Vec)} {v : List Nat} (hv : ∀ e ∈ es, d + e.1 ∈ v) (t : Thread) :
    Ends t (produceAll d es t) [] v [] true := by
  induction es generalizing t with
  | nil => exact .refl t
  | cons e es ih =>
    obtain ⟨he, hes⟩ := List.forall_mem_cons.mp hv
    exact (Ends.produceV he t _ _ _ _).trans (ih hes _)

theorem produceAll_finalV_ne {d n : Nat} {es : List (Nat × Vec)} (hn : n ∉ es.map Prod.fst) (t : Thread) :
    (produceAll d es t).finalV (d + n) = t.finalV (d + n) := by
  induction es generalizing t with
  | nil => rfl
  | cons e es ih =>
    obtain ⟨hne, hes⟩ := not_or.mp (List.mem_cons.not.mp hn)
    exact (ih hes _).trans (produce_finalV_ne _ _ _ _ _ _ _ _ (.inr (by omega)))

/-- Each register ends with its own value. -/
theorem produceAll_finalV {d n : Nat} {x : Vec} {es : List (Nat × Vec)} (hd : (es.map Prod.fst).Nodup) (hm : (n, x) ∈ es) (t : Thread) :
    (produceAll d es t).finalV (d + n) = x := by
  induction es generalizing t with
  | nil => exact absurd hm List.not_mem_nil
  | cons e es ih =>
    obtain ⟨hne, hes⟩ := List.nodup_cons.mp hd
    rcases List.mem_cons.mp hm with rfl | hm
    · exact (produceAll_finalV_ne hne _).trans (produce_maskV_finalV _ _ _ _ _)
    · exact ih hes hm _

/-- The four registers that VDQ writes, by their number. -/
def vdqRegs (A : Vec) : List (Nat × Vec) := (List.range 4).zip (dequantised A)

/-- An element of an MQ4 block in a register, decoded under the block's own scale (R184). -/
def blockElement (A : Vec) (e : Nat) : BitVec 32 :=
  BitVec.ofNat 32 (mq4Element (if (lane A 8).toNat % 256 = 255 then 3 else if (lane A 8).toNat % 256 = 254 then 2 else 1) (lane A 9).toNat
    ((lane A (e / 8)).toNat / 16 ^ (e % 8) % 16))

theorem dequantised_eq (A : Vec) :
    dequantised A = (List.range 4).map fun n => ofLanes ((List.range 16).map fun l => blockElement A (16 * n + l)) := rfl

theorem vdqRegs_fst (A : Vec) : (vdqRegs A).map Prod.fst = List.range 4 := List.map_fst_zip (by simp [dequantised_eq])

theorem vdqRegs_mem (A : Vec) {n : Nat} (hn : n < 4) : (n, ofLanes ((List.range 16).map fun l => blockElement A (16 * n + l))) ∈ vdqRegs A := by
  rw [vdqRegs, dequantised_eq, ← List.map_prod_left_eq_zip]
  exact List.mem_map.mpr ⟨n, List.mem_range.mpr hn, rfl⟩

theorem vdqRegs_index {d : Nat} {A : Vec} {e : Nat × Vec} (he : e ∈ vdqRegs A) : d + e.1 ∈ [d, d + 1, d + 2, d + 3] := by
  have hlt := List.mem_range.mp (vdqRegs_fst A ▸ List.mem_map_of_mem he)
  simp only [List.mem_cons, List.not_mem_nil, or_false]
  omega

theorem vdq_answers (hd : d.toNat % 4 = 0) {s : State} (hi : Issues (({ a := some a.toNat } : VPos).form [] s) s) :
    Answers (.vdq st d a b k h j) s fun s' =>
      (∀ e < 64, lane ((s'.thread s.cur).finalV (d.toNat + e / 16)) (e % 16) = blockElement (s.me.readV a.toNat) e) ∧
      RegsOnly s.cur (latched { a := some a.toNat } s) s' [] [d.toNat, d.toNat + 1, d.toNat + 2, d.toNat + 3] [] true (s.me.pc + 4) := by
  obtain ⟨s', t, m, c, o, h1, h2, -, h3⟩ := runsVector_issueVSlow (i := .vdq st d a b k h j) (f := fun t _ A _ => produceAll d.toNat (vdqRegs A) t)
    (rfl : execVdq st d a b k h j s = _) (by simp [hd]) hi fun t _ A _ => ends_produceAll (fun _ => vdqRegs_index) t
  refine ⟨s', h1, fun e he => ?_, h2⟩
  have hn : e / 16 < 4 := by omega
  have hlt : d.toNat + e / 16 < 32 := by have := d.isLt; omega
  have hlane : e % 16 < 16 := Nat.mod_lt _ (by omega)
  rw [h3, passed_finalV _ _ _ _ _ _ hlt, produceAll_finalV (vdqRegs_fst _ ▸ List.nodup_range) (vdqRegs_mem _ hn), lane_ofLanes _ _ hlane,
    List.getD_eq_getElem?_getD, List.getElem?_map, List.getElem?_range hlane, Option.map_some, Option.getD_some, Nat.div_add_mod]
  rfl

end Blocks

/-- Settles O39: lane movement by its shapes, one lane by a single result, MQ4 blocks by whole registers. -/
theorem vectorLaneMovement : Obligations.VectorLaneMovement := by
  unfold Obligations.VectorLaneMovement
  intro st d a b x n k h j u p pa kk rd
  refine ⟨?vperm, ?vrot, ?vbcst, writesLanes_vins, fun s hi => vlane_answers hi, fun ha => writesV_vqnt ha, fun hd s hi => vdq_answers hd hi⟩
  case vperm =>
    exact writesLanes_of (i := .vperm st d a b k h j u) (fun s => (rfl : execVperm st d a b k h j u s = _)) (barely_readK _)
      fun _ _ _ _ _ _ _ _ => rfl
  case vrot =>
    exact writesLanes_of (i := .vrot st d a x n k h j u) (fun s => (rfl : execVrot st d a x n k h j u s = _)) (barely_readK _)
      fun _ _ _ _ _ _ _ _ => rfl
  case vbcst =>
    refine writesLanes_of (w := 87#7 ++ st ++ d ++ a ++ b ++ k ++ h ++ j ++ 2#2) (st := st) (lat := 4) (u := .vec) (fun s => ?_) (barely_readK _)
      fun _ _ _ _ _ _ _ _ => rfl
    simp only [Thread.putLanes, mapLanes_const, addFlags_zero, ← setWidth_word]
    rfl

end Sys2Proof

namespace Sys2Proof

open Machine

/-! ## The frame of a vector memory instruction (R97, R98, R178) -/

/-- One register at most is read from the file: no conflict of banks (R97). -/
theorem bankConflicts_eq_zero {rs : List Nat} (h : rs.length ≤ 1) : bankConflicts rs = 0 := by
  have hbank (b : Nat) : (rs.filter fun r => r % 6 == b).length - 1 = 0 := Nat.sub_eq_zero_of_le ((List.length_filter_le _ _).trans h)
  unfold bankConflicts
  simp only [hbank, Nat.add_zero]
  rfl

/-- `i` issues as a vector memory instruction with operands `p`, other reads `e` and the given body, which runs once the latches have
loaded: it passes where the body answers in sequence, and stops where the body stops. -/
def RunsMem (i : Instr) (s : State) (p : VPos) (e : List (RegFile × Nat)) (body : Body) : Prop :=
  Issues (p.form e s) s →
    (∀ z, body (latched p (begun (p.form e s) s)) s.cur = .ok (z, .seq) → Passes i s z) ∧
    (∀ x, body (latched p (begun (p.form e s) s)) s.cur = .error x →
      exec i s = stopped (conflictEnd (bankConflicts (p.fileReads s.me)) (atIssue s) s.cur) s.cur x)

section RunsMem

variable {i : Instr} {s : State} {w : BitVec 32} {st : BitVec 3} {p : VPos} {e : List (RegFile × Nat)} {body : Nat → Vec → Vec → Body}
  {delay : Nat → Nat}

theorem runsMem_of (he : exec i s = issueVMem w st p e s body delay) :
    RunsMem i s p e (body (bankConflicts (p.fileReads s.me)) (p.valD s.me) (p.valB s.me)) := by
  intro hi
  have hD : p.valD ((begun (p.form e s) s).thread s.cur) = p.valD s.me := (plainly_valD p).begun_thread hi.context
  have hB : p.valB ((begun (p.form e s) s).thread s.cur) = p.valB s.me := (plainly_valB p).begun_thread hi.context
  have hlatch : (begun (p.form e s) s).setThread s.cur (p.load ((begun (p.form e s) s).thread s.cur)) = latched p (begun (p.form e s) s) := by
    unfold latched State.me
    rw [begun_cur]
  have hop : ({ vop w st p e true s.me with delay := delay, slow := .vector } : Op).Has (p.form e s) := ⟨rfl, rfl, rfl, rfl, rfl, rfl, rfl, rfl⟩
  refine ⟨fun z hz => passes_of he hop hi ?_, fun x hx => he.trans (issue_stops hop hi ?_)⟩
  · dsimp only
    rw [hD, hB, hlatch]
    exact hz
  · dsimp only
    rw [hD, hB, hlatch]
    exact hx

/-- With at most one register read from the file. -/
theorem runsMem_of_one (he : exec i s = issueVMem w st p e s body delay) (hp : (p.fileReads s.me).length ≤ 1) :
    RunsMem i s p e (body 0 (p.valD s.me) (p.valB s.me)) :=
  bankConflicts_eq_zero hp ▸ runsMem_of he

end RunsMem

section Instructions

variable (st : BitVec 3) (d a b : BitVec 5) (k : BitVec 3) (h j : BitVec 1) (s : State)

/-- Position b alone. -/
def posB (b : BitVec 5) (j : BitVec 1) : VPos := { b := some b.toNat, hb := j == 1#1 }

theorem length_fileReads_posB (t : Thread) : ((posB b j).fileReads t).length ≤ 1 := by
  have : ((posB b j).fileReads t) = if (j == 1#1) && t.latchB.isSome then [] else [b.toNat] := by simp [posB, VPos.fileReads]
  rw [this]
  split <;> simp

theorem runsMem_vld : RunsMem (.vld st d a b k h j) s {} [(.g, a.toNat), (.k, k.toNat)] (vldBody d.toNat k.toNat (vAddr a b)) :=
  runsMem_of (i := .vld st d a b k h j) (rfl : execVld st d a b k h j s = _)

theorem runsMem_vst : RunsMem (.vst st d a b k h j) s { d := some d.toNat } [(.g, a.toNat), (.k, k.toNat)]
    (vstBody k.toNat (s.me.readV d.toNat) (vAddr a b)) :=
  runsMem_of (i := .vst st d a b k h j) (rfl : execVst st d a b k h j s = _)

theorem runsMem_vlds : RunsMem (.vlds st d a b k h j) s {} [(.g, a.toNat), (.g, b.toNat), (.k, k.toNat)]
    (gatherBody d.toNat k.toNat 0 (strideAddr a b)) :=
  runsMem_of_one (i := .vlds st d a b k h j) (rfl : execVlds st d a b k h j s = _) (Nat.zero_le _)

theorem runsMem_vsts : RunsMem (.vsts st d a b k h j) s { d := some d.toNat } [(.g, a.toNat), (.g, b.toNat), (.k, k.toNat)]
    (scatterBody k.toNat 0 (s.me.readV d.toNat) (strideAddr a b)) :=
  runsMem_of_one (i := .vsts st d a b k h j) (rfl : execVsts st d a b k h j s = _) (le_refl _)

theorem runsMem_vgth : RunsMem (.vgth st d a b k h j) s (posB b j) [(.g, a.toNat), (.k, k.toNat)]
    (gatherBody d.toNat k.toNat 0 (offsetAddr a ((posB b j).valB s.me))) :=
  runsMem_of_one (i := .vgth st d a b k h j) (rfl : execVgth st d a b k h j s = _) (length_fileReads_posB _ _ _)

theorem runsMem_vsct : RunsMem (.vsct st d a b k h j) s { posB b j with d := some d.toNat } [(.g, a.toNat), (.k, k.toNat)]
    (scatterBody k.toNat (bankConflicts (({ posB b j with d := some d.toNat } : VPos).fileReads s.me)) (s.me.readV d.toNat)
      (offsetAddr a ((posB b j).valB s.me))) :=
  runsMem_of (i := .vsct st d a b k h j) (rfl : execVsct st d a b k h j s = _)

end Instructions

/-! ## The bodies (R178 to R181, R407) -/

section Bodies

variable {y y' y'' : State} {t : Tid} {d k n : Nat} {D : Vec} {ks : List (Via × List Nat)}

/-- With no lane active nothing is accessed. -/
theorem vldBody_idle {address : Thread → Word} (h : activeLanes ((y.thread t).readK k) = []) : vldBody d k address y t = .ok (y, .seq) :=
  if_pos (List.isEmpty_iff.mpr h)

theorem vstBody_idle {address : Thread → Word} (h : activeLanes ((y.thread t).readK k) = []) : vstBody k D address y t = .ok (y, .seq) :=
  if_pos (List.isEmpty_iff.mpr h)

theorem gatherBody_idle {address : Thread → Nat → Word} (h : activeLanes ((y.thread t).readK k) = []) :
    gatherBody d k n address y t = .ok (y, .seq) := if_pos (List.isEmpty_iff.mpr h)

theorem scatterBody_idle {address : Thread → Nat → Word} (h : activeLanes ((y.thread t).readK k) = []) :
    scatterBody k n D address y t = .ok (y, .seq) := if_pos (List.isEmpty_iff.mpr h)

/-- The scale-table entry of an access of a shelf of format `f`; none is needed but for mq4 (R65). -/
def HasEntry (y : State) (t : Tid) (addr : Word) (f : Nat) (entry : BitVec 40) : Prop :=
  if f % 16 = 7 then mq4Entry y (viewOf y t) addr f = .ok entry else entry = 0

/-- What follows the look-up of the entry goes on with it. -/
theorem HasEntry.lookup {α : Type} {addr : Word} {f : Nat} {entry : BitVec 40} (h : HasEntry y t addr f entry) (g : BitVec 40 → Except Stop α) :
    (if f % 16 = 7 then mq4Entry y (viewOf y t) addr f >>= g else Except.ok 0 >>= g) = g entry := by
  unfold HasEntry at h
  split at h
  · rw [if_pos ‹_›, h]
    rfl
  · rw [if_neg ‹_›, h]
    rfl

section Consecutive

variable {address : Thread → Word} {entry : BitVec 40}

/-- The format word of the shelf of an access at the address of the current thread. -/
def shelfAt (y : State) (t : Tid) (address : Thread → Word) : Nat := shfmtAt y (viewOf y t) (address (y.thread t))

/-- The accesses of the active lanes to consecutive elements, and the first misaligned one. -/
def elementsAt (y : State) (t : Tid) (k : Nat) (address : Thread → Word) : List LaneAcc × Option Word :=
  consecutive (address (y.thread t)) (shelfAt y t address % 16) ((y.thread t).readK k)

/-- The value of an element that a lane loads. -/
def loadedElem (f : Nat) (entry : BitVec 40) (l x : Nat) : Nat :=
  if f % 16 = 7 then mq4Element (entryKind entry) (entryScale entry) (nibble l x) else decodeElem (f % 16) x

theorem vldBody_loads (ha : activeLanes ((y.thread t).readK k) ≠ []) (he : HasEntry y t (address (y.thread t)) (shelfAt y t address) entry)
    (hc : vecCheck y t rRD (elementsAt y t k address).1 (elementsAt y t k address).2 = .ok ks) (ht : vecTrack y t ks true false = .ok y') :
    vldBody d k address y t = .ok (y'.setThread t ((y'.thread t).produce .v d (laneMask ((y.thread t).readK k))
      (lanesVec (((elementsAt y t k address).1.zip ks).map fun e =>
        (e.1.lane, loadedElem (shelfAt y t address) entry e.1.lane (leNat (readPlaces y' e.2.2))))) 0 .interlocked), .seq) :=
  (if_neg fun h => ha (List.isEmpty_iff.mp h)).trans (bind_of_ok hc ((he.lookup _).trans (bind_of_ok ht rfl)))

theorem vstBody_stores (ha : activeLanes ((y.thread t).readK k) ≠ []) (he : HasEntry y t (address (y.thread t)) (shelfAt y t address) entry)
    (hc : vecCheck y t rWR (elementsAt y t k address).1 (elementsAt y t k address).2 = .ok ks) (ht : vecTrack y t ks false true = .ok y')
    (hj : methJournal y' (ks.map (·.2)).flatten = .ok y'') :
    let r := storeLanes (noteStore y'' t (ks.map (·.2)).flatten) (y.thread t) D ((elementsAt y t k address).1.map fun _ => shelfAt y t address)
      entry ((elementsAt y t k address).1.zip ks)
    vstBody k D address y t = .ok (r.1.setThread t (addFlags (r.1.thread t) r.2), .seq) :=
  (if_neg fun h => ha (List.isEmpty_iff.mp h)).trans (bind_of_ok hc ((he.lookup _).trans (bind_of_ok ht (bind_of_ok hj rfl))))

end Consecutive

section Scattered

variable {address : Thread → Nat → Word}

/-- The accesses of the active lanes to elements at their own addresses, and the formats of their shelves. -/
def scatteredAt (y : State) (t : Tid) (k : Nat) (address : Thread → Nat → Word) : List LaneAcc × List Nat :=
  scattered y (viewOf y t) ((y.thread t).readK k) (address (y.thread t))

theorem gatherBody_loads (ha : activeLanes ((y.thread t).readK k) ≠ [])
    (hc : scatterCheck y t rRD (scatteredAt y t k address).1 (scatteredAt y t k address).2 = .ok ks) (ht : vecTrack y t ks true false = .ok y') :
    let z := bankCycles y' t (issueCycle y' t + n) ks
    gatherBody d k n address y t = .ok (z.setThread t ((z.thread t).produce .v d (laneMask ((y.thread t).readK k))
      (lanesVec ((((scatteredAt y t k address).1.zip (scatteredAt y t k address).2).zip ks).map fun e =>
        (e.1.1.lane, decodeElem (e.1.2 % 16) (leNat (readPlaces y' e.2.2))))) 0 .interlocked), .seq) :=
  (if_neg fun h => ha (List.isEmpty_iff.mp h)).trans (bind_of_ok hc (bind_of_ok ht rfl))

/-- A byte of memory written leaves the cycle of issue. -/
theorem issueCycle_writePlace (s : State) (q : Nat) (v : Byte) (t : Tid) : issueCycle (writePlace s q v) t = issueCycle s t := by
  have hsett (i j : Nat) (m : Memory) : ((s.setSett i { s.sett i with mem := m }).sett j).die = (s.sett j).die := by
    rw [sett_setSett]
    split
    · rename_i e
      rw [e]
      rfl
    · rfl
  unfold writePlace
  dsimp only
  split
  case h_2 =>
    unfold issueCycle dieOf
    rw [hsett]
    rfl
  case h_6 =>
    split
    · rename_i m hm
      unfold issueCycle
      rw [hm]
    · rfl
  all_goals rfl

theorem issueCycle_writePlaces (s : State) (qs : List Nat) (bs : List Byte) (t : Tid) : issueCycle (writePlaces s qs bs) t = issueCycle s t := by
  induction qs generalizing s bs with
  | nil => rfl
  | cons q qs ih =>
    cases bs with
    | nil => rfl
    | cons v bs => rw [writePlaces, ih, issueCycle_writePlace]

theorem issueCycle_storeLanes (th : Thread) (D : Vec) (e : BitVec 40) (es : List (LaneAcc × Via × List Nat)) (s : State) (fs : List Nat) (t : Tid) :
    issueCycle (storeLanes s th D fs e es).1 t = issueCycle s t := by
  induction es generalizing s fs with
  | nil => rfl
  | cons x es ih => exact (ih _ _).trans (issueCycle_writePlaces _ _ _ _)

theorem scatterBody_stores (ha : activeLanes ((y.thread t).readK k) ≠ [])
    (hc : scatterCheck y t rWR (scatteredAt y t k address).1 (scatteredAt y t k address).2 = .ok ks) (ht : vecTrack y t ks false true = .ok y')
    (hj : methJournal y' (ks.map (·.2)).flatten = .ok y'') :
    let r := storeLanes (noteStore y'' t (ks.map (·.2)).flatten) (y.thread t) D (scatteredAt y t k address).2 0
      ((scatteredAt y t k address).1.zip ks)
    let z := bankCycles r.1 t (issueCycle r.1 t + n) ks
    scatterBody k n D address y t = .ok (z.setThread t (addFlags (z.thread t) r.2), .seq) := by
  intro r z
  refine (if_neg fun h => ha (List.isEmpty_iff.mp h)).trans (bind_of_ok hc (bind_of_ok ht (bind_of_ok hj ?_)))
  have hcyc : issueCycle r.1 t = issueCycle (noteStore y'' t (ks.map (·.2)).flatten) t := issueCycle_storeLanes _ _ _ _ _ _ _
  have hz : z = bankCycles r.1 t (issueCycle (noteStore y'' t (ks.map (·.2)).flatten) t + n) ks := by rw [← hcyc]
  rw [hz]
  rfl

end Scattered

end Bodies

/-! ## The bytes that the lanes store (R61, R74, R180) -/

section StoredLanes

variable {y : State} {th : Thread} {D : Vec} {fs : List Nat} {entry : BitVec 40} {es : List (LaneAcc × Via × List Nat)}

/-- The places of the lanes. -/
def lanePlaces (es : List (LaneAcc × Via × List Nat)) : List Nat := (es.map (·.2.2)).flatten

theorem lanePlaces_cons (e : LaneAcc × Via × List Nat) (es : List (LaneAcc × Via × List Nat)) : lanePlaces (e :: es) = e.2.2 ++ lanePlaces es := rfl

/-- The first lane's bytes are written, and the others follow. -/
theorem storeLanes_cons (e : LaneAcc × Via × List Nat) :
    ∃ bs : List Byte, bs.length = e.1.size ∧ (storeLanes y th D fs entry (e :: es)).1 =
      (storeLanes (writePlaces y e.2.2 bs) th D fs.tail entry es).1 ∧
      (fs.headD 0 % 16 ≠ 7 → bs = leBytes (encodeElem (fs.headD 0 % 16) th.roundMode (th.satMod || (fs.headD 0).testBit 4)
        (lane D e.1.lane).toNat).1 e.1.size) := by
  refine ⟨_, length_leBytes _ _, rfl, fun h => ?_⟩
  rw [if_neg h]

theorem readPlace_storeLanes_ne (w : MemoryWf y) (hk : ∀ q ∈ lanePlaces es, q < ordinary) {q : Nat} (hq : q < ordinary) (hn : q ∉ lanePlaces es) :
    readPlace (storeLanes y th D fs entry es).1 q = readPlace y q := by
  induction es generalizing y fs with
  | nil => rfl
  | cons e es ih =>
    rw [lanePlaces_cons] at hk hn
    obtain ⟨hke, hkes⟩ := List.forall_mem_append.mp hk
    obtain ⟨hne, hnes⟩ := not_or.mp (List.mem_append.not.mp hn)
    obtain ⟨bs, -, hst, -⟩ := storeLanes_cons (y := y) (th := th) (D := D) (fs := fs) (entry := entry) (es := es) e
    rw [hst, ih (writePlaces_wf w _ _) hkes hnes, readPlace_writePlaces_ne w bs hke hq hne]

/-- Lanes whose places are all different: each element reads back as its lane was encoded. -/
theorem readPlaces_storeLanes (w : MemoryWf y) (hk : ∀ q ∈ lanePlaces es, q < ordinary) (hd : (lanePlaces es).Nodup) (hl : fs.length = es.length)
    {x : (LaneAcc × Via × List Nat) × Nat} (hx : x ∈ es.zip fs) (hf : x.2 % 16 ≠ 7) (hs : x.1.2.2.length = x.1.1.size) :
    readPlaces (storeLanes y th D fs entry es).1 x.1.2.2 =
      leBytes (encodeElem (x.2 % 16) th.roundMode (th.satMod || x.2.testBit 4) (lane D x.1.1.lane).toNat).1 x.1.1.size := by
  induction es generalizing y fs with
  | nil => exact absurd hx (by simp)
  | cons e es ih =>
    cases fs with
    | nil => exact absurd hx (by simp)
    | cons f fs =>
      rw [lanePlaces_cons] at hk hd
      obtain ⟨hke, hkes⟩ := List.forall_mem_append.mp hk
      obtain ⟨hde, hdes, hdisj⟩ := List.nodup_append.mp hd
      obtain ⟨bs, hlen, hst, hbs⟩ := storeLanes_cons (y := y) (th := th) (D := D) (fs := f :: fs) (entry := entry) (es := es) e
      rw [hst]
      rcases List.mem_cons.mp hx with rfl | hx
      · have hkeep : readPlaces (storeLanes (writePlaces y e.2.2 bs) th D fs entry es).1 e.2.2 = readPlaces (writePlaces y e.2.2 bs) e.2.2 :=
          List.map_congr_left fun q hq => readPlace_storeLanes_ne (writePlaces_wf w _ _) hkes (hke q hq) fun hq' => hdisj q hq q hq' rfl
        rw [List.tail_cons, hkeep, readPlaces_writePlaces w hke hde (hlen.trans hs.symm), hbs hf]
        rfl
      · exact ih (writePlaces_wf w _ _) hkes hdes (by simpa using hl) hx

end StoredLanes

/-- A statement about the quadruples of a list, from one about its pairs. -/
theorem quadruples {α β γ δ : Type} {P : α → β → γ → δ → Prop} {l : List (α × β × γ × δ)} (hl : ∀ i x, (i, x) ∈ l → P i x.1 x.2.1 x.2.2) :
    ∀ i p e b, (i, p, e, b) ∈ l → P i p e b := fun i p e b hm => hl i (p, e, b) hm

/-- Settles O40: each instruction runs one of four bodies once its latches have loaded; what the bodies do, and the bytes they leave. -/
theorem vectorMemory : Obligations.VectorMemory := by
  unfold Obligations.VectorMemory
  intro st d a b k h j s p0 pD pB pDB one two start act D B
  have hstart {p : VPos} {e : List (RegFile × Nat)} (hi : Issues (p.form e s) s) (hact : act = []) :
      activeLanes (((start p e).thread s.cur).readK k.toNat) = [] := by
    have hload : (start p e).thread s.cur = p.load ((begun (p.form e s) s).thread s.cur) := by
      show (latched p (begun (p.form e s) s)).thread s.cur = _
      unfold latched State.me
      rw [begun_cur, setThread_thread _ _ _ hi.context]
    rw [hload, (barely_readK k.toNat).load, (plainly_readK k.toNat).begun_thread hi.context]
    exact hact
  refine ⟨fun hact => ⟨fun hi => ?_, fun hi => ?_, fun hi => ?_, fun hi => ?_, fun hi => ?_, fun hi => ?_⟩, ?_, ?_, ?_, ?_⟩
  · exact (runsMem_vld st d a b k h j s hi).1 _ (vldBody_idle (hstart hi hact))
  · exact (runsMem_vlds st d a b k h j s hi).1 _ (gatherBody_idle (hstart hi hact))
  · exact (runsMem_vgth st d a b k h j s hi).1 _ (gatherBody_idle (hstart hi hact))
  · exact (runsMem_vst st d a b k h j s hi).1 _ (vstBody_idle (hstart hi hact))
  · exact (runsMem_vsts st d a b k h j s hi).1 _ (scatterBody_idle (hstart hi hact))
  · exact (runsMem_vsct st d a b k h j s hi).1 _ (scatterBody_idle (hstart hi hact))
  · refine quadruples ?_
    exact pairs_cons (runsMem_vld st d a b k h j s) <| pairs_cons (runsMem_vlds st d a b k h j s) <|
      pairs_cons (runsMem_vgth st d a b k h j s) <| pairs_cons (runsMem_vst st d a b k h j s) <|
      pairs_cons (runsMem_vsts st d a b k h j s) <| pairs_cons (runsMem_vsct st d a b k h j s) pairs_nil
  · intro y t address entry ks y' th pr f c value Entry ha he
    exact ⟨fun hc ht => vldBody_loads ha he hc ht, fun y'' hc ht hj => vstBody_stores ha he hc ht hj⟩
  · intro y t address n ks y' th pr q ha
    exact ⟨fun hc ht => gatherBody_loads ha hc ht, fun y'' hc ht hj => scatterBody_stores ha hc ht hj⟩
  · intro y th fs entry es r places w hk
    exact ⟨fun q hq hn => readPlace_storeLanes_ne w hk hq hn, fun hd hl x hx hf hs => readPlaces_storeLanes w hk hd hl hx hf hs⟩

end Sys2Proof

namespace Sys2Proof

open Machine

/-! ## TSPAWN (R197) -/

section TaskSpawn

/-- How TSPAWN issues. -/
def tspawnForm (a b : BitVec 5) : Form := { gForm [a, b] with role := .work, home := true }

/-- What the frame of every instruction knows of TSPAWN. -/
def tspawnOp (st : BitVec 3) (d a b : BitVec 5) : Op :=
  { word := 55#7 ++ st ++ d ++ a ++ b ++ 3#7, stall := st.toNat, reads := [(.g, a.toNat), (.g, b.toNat)], role := .work, home := true }

theorem tspawnOp_has (st : BitVec 3) (d a b : BitVec 5) : (tspawnOp st d a b).Has (tspawnForm a b) :=
  ⟨rfl, rfl, rfl, rfl, rfl, rfl, rfl, rfl⟩

/-- The least timestamp that a spawner may give: its own task's, or, outside a task, the domain's floor. -/
def leastTs (floor : Nat) : Option OTask → Nat
  | some p => p.ts
  | none => floor

/-- A task that is queued with the sequence number `seq`. -/
def queuedTask (ts seq : Nat) (r : TaskRec) (parent : Option OTask) : OTask :=
  ⟨ts, seq, r, parent.map OTask.key, .queued, false, 0, 0, 0, [], [], []⟩

/-- The state with a task queued in the unit `k` at the cycle `now` (R197, R204). -/
def queueTask (z : State) (k now : Nat) (y : OTask) : State :=
  let x := z.unit k
  z.setUnit k { x with domain := { x.domain with
    counter := x.domain.counter + 1
    horizon := min x.domain.horizon y.ts
    nextRecompute := if x.domain.tasks.isEmpty then (now / 256 + 1) * 256 else x.domain.nextRecompute
    tasks := x.domain.tasks ++ [y] } }

/-- What a TSPAWN of the operands `addr` and `ts` does with a record that it has reached in the state `z` (R197, R207). -/
def spawnOrdered (z : State) (t : Tid) (d : Nat) (addr ts : Word) (ks : List Nat) : Except Stop (State × Next) :=
  let u := unitOf z t
  let dom := (z.unit u).domain
  let n := holtTasks z u
  let y := drainPosted z t
  let q := queueTask y u (issueCycle y t) (queuedTask ts.toNat dom.counter (taskRecOf (readPlaces z ks) 0) (taskOf z t))
  if ts.toNat < leastTs dom.floor (taskOf z t) then .error (.trap cOPERAND_RANGE ts)
  else if 4096 ≤ n ∧ isOldest z t then .error (.trap cTASK_OVERFLOW addr)
  else if 3840 ≤ n ∧ !isOldest z t then .error (.park false .reissue)
  else .ok (q.setThread t ((q.thread t).putG d (BitVec.ofNat 64 dom.counter)), .seq)

variable {z : State} {t : Tid} {d : Nat} {addr ts : Word} {ks : List Nat}

theorem spawnOrdered_early (h : ts.toNat < leastTs (z.unit (unitOf z t)).domain.floor (taskOf z t)) :
    spawnOrdered z t d addr ts ks = .error (.trap cOPERAND_RANGE ts) :=
  if_pos h

/-- Below the limit of R207 a task is queued whether the spawner's task is the oldest or not. -/
theorem spawnOrdered_queues (h : ¬ ts.toNat < leastTs (z.unit (unitOf z t)).domain.floor (taskOf z t))
    (hn : holtTasks z (unitOf z t) < 3840) :
    let seq := (z.unit (unitOf z t)).domain.counter
    let y := drainPosted z t
    let q := queueTask y (unitOf z t) (issueCycle y t) (queuedTask ts.toNat seq (taskRecOf (readPlaces z ks) 0) (taskOf z t))
    spawnOrdered z t d addr ts ks = .ok (q.setThread t ((q.thread t).putG d (BitVec.ofNat 64 seq)), .seq) :=
  (if_neg h).trans ((if_neg fun hfull => by omega).trans (if_neg fun hfull => by omega))

end TaskSpawn

section Spawns

variable {st : BitVec 3} {d a b : BitVec 5} {s : State} {kind : Via} {ks : List Nat}

theorem plainly_mig : Plainly Thread.mig := fun _ _ _ _ _ => rfl

/-- The body of TSPAWN. -/
theorem exec_tspawn (hi : Issues (tspawnForm a b) s) : ∃ body, exec (.tspawn st d a b) s = issue (tspawnOp st d a b) s body ∧
    let z := begun (tspawnForm a b) s
    body z s.cur =
      if s.me.mig then .error (.trap cOTASK_STATE 3)
      else ownBlock z s.cur (s.me.readG a.toNat) 32 32 rRD >>= fun k =>
        spawnOrdered (settlePosted z s.cur k.2) s.cur d.toNat (s.me.readG a.toNat) (s.me.readG b.toNat) k.2 := by
  have hread (n : Nat) : ((begun (tspawnForm a b) s).thread s.cur).readG n = s.me.readG n := (plainly_readG n).begun_thread hi.context
  have hmig : ((begun (tspawnForm a b) s).thread s.cur).mig = s.me.mig := plainly_mig.begun_thread hi.context
  refine ⟨_, rfl, ?_⟩
  intro z
  rw [← hmig, ← hread, ← hread]
  refine if_congr Iff.rfl rfl (congrArg (_ >>= ·) (funext fun k => ?_))
  unfold spawnOrdered
  dsimp only
  cases taskOf (settlePosted z s.cur k.2) s.cur <;> rfl

/-- A migratory thread spawns no ordered task. -/
theorem tspawn_mig (hi : Issues (tspawnForm a b) s) (hm : s.me.mig = true) : Raises (.tspawn st d a b) s cOTASK_STATE 3 := by
  obtain ⟨body, he, hb⟩ := exec_tspawn (st := st) (d := d) hi
  exact raises_of he (tspawnOp_has st d a b) rfl hi (hb.trans (if_pos hm))

/-- TSPAWN of a record that is reached. -/
theorem tspawn_cases (hi : Issues (tspawnForm a b) s) (hm : s.me.mig = false)
    (hk : ownBlock (begun (tspawnForm a b) s) s.cur (s.me.readG a.toNat) 32 32 rRD = .ok (kind, ks)) :
    let z := settlePosted (begun (tspawnForm a b) s) s.cur ks
    let u := unitOf z s.cur
    let dom := (z.unit u).domain
    let ts := (s.me.readG b.toNat).toNat
    (ts < leastTs dom.floor (taskOf z s.cur) → Raises (.tspawn st d a b) s cOPERAND_RANGE (s.me.readG b.toNat)) ∧
    (¬ ts < leastTs dom.floor (taskOf z s.cur) → holtTasks z u < 3840 →
      let y := drainPosted z s.cur
      Yields (.tspawn st d a b) s
        (queueTask y u (issueCycle y s.cur) (queuedTask ts dom.counter (taskRecOf (readPlaces z ks) 0) (taskOf z s.cur)))
        d.toNat (BitVec.ofNat 64 dom.counter)) := by
  intro z u dom ts
  obtain ⟨body, he, hb⟩ := exec_tspawn (st := st) (d := d) hi
  have hreached := hb.trans ((if_neg (by simp [hm])).trans (bind_of_ok hk rfl))
  exact ⟨fun h => raises_of he (tspawnOp_has st d a b) rfl hi (hreached.trans (spawnOrdered_early h)),
    fun h hn => yields_of he (tspawnOp_has st d a b) hi d.isLt (hreached.trans (spawnOrdered_queues h hn))⟩

end Spawns

/-! ## TSTAMP (R198) -/

section Stamps

/-- How TSTAMP issues. -/
def tstampForm (a : BitVec 5) : Form := { gForm [a] with role := .work }

/-- What the frame of every instruction knows of TSTAMP. -/
def tstampOp (st : BitVec 3) (d a b : BitVec 5) : Op :=
  { word := 55#7 ++ st ++ d ++ a ++ b ++ 4#7, stall := st.toNat, reads := [(.g, a.toNat)], role := .work }

theorem tstampOp_has (st : BitVec 3) (d a b : BitVec 5) : (tstampOp st d a b).Has (tstampForm a) := ⟨rfl, rfl, rfl, rfl, rfl, rfl, rfl, rfl⟩

/-- The value that a selector names, or why there is none: `y` is the task that the thread runs, `h` the horizon. -/
def stampOf (sel : Word) (y : Option OTask) (h : Nat) : Except Stop Nat :=
  match sel.toNat % 4, y with
  | 0, some y => .ok y.ts
  | 1, some y => .ok y.seq
  | 2, _ => .ok h
  | 3, _ => .error (.trap cOPERAND_RANGE sel)
  | _, _ => .error (.trap cOTASK_STATE 1)

variable {st : BitVec 3} {d a b : BitVec 5} {s : State}

/-- The body of TSTAMP. -/
theorem exec_tstamp (hi : Issues (tstampForm a) s) : ∃ body, exec (.tstamp st d a b) s = issue (tstampOp st d a b) s body ∧
    let z := begun (tstampForm a) s
    body z s.cur = stampOf (s.me.readG a.toNat) (taskOf z s.cur) (z.unit (unitOf z s.cur)).domain.horizon >>= fun x =>
      .ok (z.setThread s.cur ((z.thread s.cur).putG d.toNat (BitVec.ofNat 64 x)), .seq) := by
  have hread : ((begun (tstampForm a) s).thread s.cur).readG a.toNat = s.me.readG a.toNat := (plainly_readG _).begun_thread hi.context
  refine ⟨_, rfl, ?_⟩
  intro z
  dsimp only
  rw [hread]
  unfold stampOf
  generalize (s.me.readG a.toNat).toNat % 4 = sel
  match sel, taskOf z s.cur with
  | 0, some _ | 0, none | 1, some _ | 1, none | 2, _ | 3, _ | _ + 4, _ => rfl

theorem tstamp_yields {x : Nat} (hi : Issues (tstampForm a) s)
    (hx : let z := begun (tstampForm a) s
      stampOf (s.me.readG a.toNat) (taskOf z s.cur) (z.unit (unitOf z s.cur)).domain.horizon = .ok x) :
    Yields (.tstamp st d a b) s (begun (tstampForm a) s) d.toNat (BitVec.ofNat 64 x) := by
  obtain ⟨body, he, hb⟩ := exec_tstamp (st := st) (d := d) (b := b) hi
  exact yields_of he (tstampOp_has st d a b) hi d.isLt (hb.trans (bind_of_ok hx rfl))

theorem tstamp_raises {c : Nat} {e : Word} (hi : Issues (tstampForm a) s)
    (hx : let z := begun (tstampForm a) s
      stampOf (s.me.readG a.toNat) (taskOf z s.cur) (z.unit (unitOf z s.cur)).domain.horizon = .error (.trap c e)) :
    Raises (.tstamp st d a b) s c e := by
  obtain ⟨body, he, hb⟩ := exec_tstamp (st := st) (d := d) (b := b) hi
  exact raises_of he (tstampOp_has st d a b) rfl hi (hb.trans (bind_of_error hx))

variable {sel : Word} {y : OTask} {h : Nat}

theorem stampOf_ts (hs : sel.toNat % 4 = 0) : stampOf sel (some y) h = .ok y.ts := by simp only [stampOf, hs]
theorem stampOf_seq (hs : sel.toNat % 4 = 1) : stampOf sel (some y) h = .ok y.seq := by simp only [stampOf, hs]
theorem stampOf_horizon (hs : sel.toNat % 4 = 2) (o : Option OTask) : stampOf sel o h = .ok h := by simp only [stampOf, hs]
theorem stampOf_range (hs : sel.toNat % 4 = 3) (o : Option OTask) : stampOf sel o h = .error (.trap cOPERAND_RANGE sel) := by
  simp only [stampOf, hs]

/-- A thread outside a task has no timestamp and no sequence number. -/
theorem stampOf_none (hs : sel.toNat % 4 < 2) : stampOf sel none h = .error (.trap cOTASK_STATE 1) := by
  obtain h0 | h1 : sel.toNat % 4 = 0 ∨ sel.toNat % 4 = 1 := by omega
  · simp only [stampOf, h0]
  · simp only [stampOf, h1]

end Stamps

/-! ## The recomputation of a domain (R203) -/

/-- With a live task, what a recomputation commits are the finished tasks older than the oldest live one. -/
theorem mem_committed_iff {dm : Domain} {l : OTask} (hl : oldest (dm.tasks.filter fun y => y.st != .finished) = some l) (y : OTask) :
    y ∈ (recomputeDomain dm).2 ↔ y ∈ dm.tasks ∧ y.st = .finished ∧ keyLt y.key l.key = true := by
  unfold recomputeDomain
  dsimp only
  rw [hl, List.mem_filter, Bool.and_eq_true, beq_iff_eq]

/-- A recomputation adds no task. -/
theorem mem_of_mem_recomputed {dm : Domain} {y : OTask} (h : y ∈ (recomputeDomain dm).1.tasks) : y ∈ dm.tasks := List.mem_of_mem_filter h

section Recompute

/-- The state in which a unit `k` of the holt `h` recomputes: at its time or later. -/
def recomputeTime (s : State) (k h : Nat) : State := advanceTo s (h / 24) (s.unit k).domain.nextRecompute

/-- The cycle of its next recomputation. -/
def followingRecompute (s : State) (k h : Nat) : Nat :=
  (max (dieCycle (recomputeTime s k h) (h / 24)) (s.unit k).domain.nextRecompute / 256 + 1) * 256

variable {s : State} {ctx vh h : Nat}

/-- While the die's clock stands, only the time of the next recomputation changes. -/
theorem recompute_stands (hh : unitHolt s (ctx * 2 ^ 16 + vh) = some h) :
    let k := ctx * 2 ^ 16 + vh
    let z := recomputeTime s k h
    (z.die (h / 24)).relock ≠ none →
      Moves (.recompute ctx vh) s (z.setUnit k { z.unit k with domain := { (z.unit k).domain with
        nextRecompute := followingRecompute s k h } }) := by
  intro k z hr
  have he : exec (.recompute ctx vh) s = execRecompute ctx vh s := rfl
  refine ⟨_, ?_, rfl⟩
  rw [he, execRecompute, hh]
  exact if_pos (Option.isSome_iff_ne_none.mpr hr)

/-- The finished tasks release their undo slots, the domain is recomputed and its oldest task is protected. -/
theorem recompute_commits (hh : unitHolt s (ctx * 2 ^ 16 + vh) = some h) :
    let k := ctx * 2 ^ 16 + vh
    let z := recomputeTime s k h
    let r := recomputeDomain (z.unit k).domain
    let y := r.2.foldl (fun z y => releaseSlot z y.core y.slot) z
    (z.die (h / 24)).relock = none →
      Moves (.recompute ctx vh) s (protectOldest (y.setUnit k { y.unit k with domain := { r.1 with
        nextRecompute := followingRecompute s k h } }) k) := by
  intro k z r y hr
  have he : exec (.recompute ctx vh) s = execRecompute ctx vh s := rfl
  refine ⟨_, ?_, rfl⟩
  rw [he, execRecompute, hh]
  exact if_neg fun hsome => Option.isSome_iff_ne_none.mp hsome hr

end Recompute

/-- Settles O32: TSPAWN by whether its timestamp is early, TSTAMP by its selector, the recomputation by whether the die's clock stands. -/
theorem orderedTasks : Obligations.OrderedTasks := by
  unfold Obligations.OrderedTasks
  intro st d a b s f g ts
  refine ⟨fun kind ks hi hm hk => ?_, fun hi hm => tspawn_mig hi hm, fun hi => ?_, fun ctx vh h hh => ?_, fun dm l hl => ?_⟩
  · intro z u dom me bad
    have hbad : bad = (ts < leastTs dom.floor me) := by
      unfold bad
      cases me <;> rfl
    rw [hbad]
    exact tspawn_cases hi hm hk
  · intro z sel
    refine ⟨fun y hy h0 => tstamp_yields hi ?_, fun y hy h1 => tstamp_yields hi ?_,
      fun h2 => tstamp_yields hi (stampOf_horizon h2 _), fun hn hlt => tstamp_raises hi ?_,
      fun h3 => tstamp_raises hi (stampOf_range h3 _)⟩
    · exact (congrArg (stampOf _ · _) hy).trans (stampOf_ts h0)
    · exact (congrArg (stampOf _ · _) hy).trans (stampOf_seq h1)
    · exact (congrArg (stampOf _ · _) hn).trans (stampOf_none hlt)
  · exact ⟨recompute_commits hh, recompute_stands hh⟩
  · exact ⟨fun y hy => (mem_committed_iff hl y).mp hy, fun y hy => mem_of_mem_recomputed hy⟩

end Sys2Proof

namespace Sys2Proof

open Machine

/-! ## The copy commands (R216, R221) -/

/-- How the copy commands issue. -/
def copyForm (a : BitVec 5) : Form := { gForm [a] with role := .t14, cls := .irrev, home := true }

/-- What the frame of every instruction knows of a copy command. -/
def copyOp (w : BitVec 32) (st : BitVec 3) (a : BitVec 5) : Op :=
  { word := w, stall := st.toNat, reads := [(.g, a.toNat)], role := .t14, cls := .irrev, home := true }

theorem copyOp_has (w : BitVec 32) (st : BitVec 3) (a : BitVec 5) : (copyOp w st a).Has (copyForm a) := ⟨rfl, rfl, rfl, rfl, rfl, rfl, rfl, rfl⟩

section CopyAdmission

/-- A copy as it joins the queue of the sett `x`: its block with the formats of its sides, its saturation and the segments of its
issue. -/
def queuedCopy (z : State) (t : Tid) (x : Sett) (blk : List Byte) (cond : Bool) (c : Nat × Nat × Bool) : Copy :=
  let v := viewOf z t
  ⟨x.ticket, x.epoch, v.ctx, t, blk, cond, c.1, c.2.1, v.segBase, v.segLimit, c.2.2, .moving, 0, cbSlack blk, 0, none, [], false, 0, false, none,
    (z.thread t).recent⟩

/-- The sett `x` with the handle that a block names, if it names one, filling for the next ticket (R221). -/
def fillingHandle (x : Sett) (blk : List Byte) : Sett :=
  if cbHV blk then x.setHandle (cbHandle blk) (BitVec.ofNat 64 (x.ticket * 2 ^ 32 + field (x.handle (cbHandle blk)) 15 8 * 256 + hFilling)) else x

/-- The sett `y` with the copy `new` queued and its ticket recorded. -/
def enqueueCopy (y : Sett) (new : Copy) : Sett :=
  { y with
    ticket := (y.ticket + 1) % 2 ^ 32
    queue := y.queue ++ [new]
    recs := keepRecent (y.recs ++ [⟨new.ticket, 0, 0, 0⟩]) }

/-- What a copy command does with a block that has passed the checks of R216. -/
def admitCopy (z : State) (t : Tid) (d : Nat) (blk : List Byte) (cond nb : Bool) (c : Nat × Nat × Bool) : Except Stop (State × Next) :=
  let x := z.sett (settOf t.core)
  let w := x.handle (cbHandle blk)
  if cbHV blk && hState w != hFree then .error (.trap cHANDLE_STATE (handleEval (cbHandle blk + vsettOf z t % 1024 * 65536) (hState w)))
  else if 128 ≤ x.queue.length then
    if nb then .ok (z.setThread t ((z.thread t).putG d (BitVec.allOnes 64)), .seq) else .error (.park false .reissue)
  else
    let z' := z.setSett (settOf t.core) (enqueueCopy (fillingHandle x blk) (queuedCopy z t x blk cond c))
    .ok (z'.setThread t ((z'.thread t).putG d (BitVec.ofNat 64 x.ticket)), .seq)

variable {z : State} {t : Tid} {d : Nat} {blk : List Byte} {cond nb : Bool} {c : Nat × Nat × Bool}

theorem admitCopy_handleHeld (hv : cbHV blk = true) (hs : hState ((z.sett (settOf t.core)).handle (cbHandle blk)) ≠ hFree) :
    admitCopy z t d blk cond nb c = .error (.trap cHANDLE_STATE (handleEval (cbHandle blk + vsettOf z t % 1024 * 65536)
      (hState ((z.sett (settOf t.core)).handle (cbHandle blk))))) :=
  if_pos (by simp [hv, hs])

section HandleFree

variable (hf : cbHV blk = false ∨ hState ((z.sett (settOf t.core)).handle (cbHandle blk)) = hFree)
include hf

/-- With its handle free, or none named, a command goes by the length of the queue. -/
theorem admitCopy_handleFree : admitCopy z t d blk cond nb c =
    if 128 ≤ (z.sett (settOf t.core)).queue.length then
      if nb then .ok (z.setThread t ((z.thread t).putG d (BitVec.allOnes 64)), .seq) else .error (.park false .reissue)
    else
      let x := z.sett (settOf t.core)
      let z' := z.setSett (settOf t.core) (enqueueCopy (fillingHandle x blk) (queuedCopy z t x blk cond c))
      .ok (z'.setThread t ((z'.thread t).putG d (BitVec.ofNat 64 x.ticket)), .seq) := by
  refine if_neg fun held => ?_
  obtain ⟨hv, hs⟩ := Bool.and_eq_true_iff.mp held
  rcases hf with hf | hf
  · exact Bool.false_ne_true (hf.symm.trans hv)
  · exact bne_iff_ne.mp hs hf

theorem admitCopy_full_busy (hq : 128 ≤ (z.sett (settOf t.core)).queue.length) :
    admitCopy z t d blk cond true c = .ok (z.setThread t ((z.thread t).putG d (BitVec.allOnes 64)), .seq) :=
  (admitCopy_handleFree hf).trans (if_pos hq)

theorem admitCopy_full_parks (hq : 128 ≤ (z.sett (settOf t.core)).queue.length) :
    admitCopy z t d blk cond false c = .error (.park false .reissue) :=
  (admitCopy_handleFree hf).trans (if_pos hq)

theorem admitCopy_enqueues (hq : (z.sett (settOf t.core)).queue.length < 128) :
    let x := z.sett (settOf t.core)
    let z' := z.setSett (settOf t.core) (enqueueCopy (fillingHandle x blk) (queuedCopy z t x blk cond c))
    admitCopy z t d blk cond nb c = .ok (z'.setThread t ((z'.thread t).putG d (BitVec.ofNat 64 x.ticket)), .seq) :=
  (admitCopy_handleFree hf).trans (if_neg (Nat.not_le.mpr hq))

end HandleFree

end CopyAdmission

section CopyIssue

variable {w : BitVec 32} {st : BitVec 3} {d a b : BitVec 5} {s : State} {cond nb : Bool} {kind : Via} {ks : List Nat} {c : Nat × Nat × Bool}

/-- Each of the four commands is a copy issue, conditional or not, that parks at a full queue or does not. -/
theorem exec_copyCommand {i : Instr} (h : (i, cond, nb) ∈ ([(.cpy st d a b, false, false), (.cpyNb st d a b, false, true),
      (.cpyc st d a b, true, false), (.cpycNb st d a b, true, true)] : List (Instr × Bool × Bool))) (s : State) :
    ∃ w, exec i s = copyIssue w st d a cond nb s := by
  simp only [List.mem_cons, List.not_mem_nil, or_false, Prod.mk.injEq] at h
  obtain ⟨rfl, rfl, rfl⟩ | ⟨rfl, rfl, rfl⟩ | ⟨rfl, rfl, rfl⟩ | ⟨rfl, rfl, rfl⟩ := h
  · exact ⟨_, rfl⟩
  · exact ⟨_, rfl⟩
  · exact ⟨_, rfl⟩
  · exact ⟨_, rfl⟩

/-- The body of a copy command whose block is reached and passes the checks. -/
theorem copyIssue_admits (hi : Issues (copyForm a) s)
    (hk : ownBlock (begun (copyForm a) s) s.cur (s.me.readG a.toNat) 64 64 rRD true = .ok (kind, ks)) :
    let z := settlePosted (begun (copyForm a) s) s.cur ks
    copyChecks z s.cur (readPlaces z ks) cond = .ok c →
    ∃ body, copyIssue w st d a cond nb s = issue (copyOp w st a) s body ∧
      body (begun (copyForm a) s) s.cur = admitCopy z s.cur d.toNat (readPlaces z ks) cond nb c := by
  intro z hc
  refine ⟨_, rfl, ?_⟩
  dsimp only
  rw [begun_readG hi.context]
  refine bind_of_ok hk (bind_of_ok hc ?_)
  unfold admitCopy
  dsimp only
  split
  · rfl
  · split
    · cases nb <;> rfl
    · rfl

end CopyIssue

/-! ## CPYST (R224) -/

section CopyStatus

variable {st : BitVec 3} {d a b : BitVec 5} {s : State}

/-- How CPYST issues. -/
def copyStatusForm (a : BitVec 5) : Form := { gForm [a] with cls := .irrev }

/-- What the frame of every instruction knows of CPYST. -/
def copyStatusOp (st : BitVec 3) (d a b : BitVec 5) : Op :=
  { word := 96#7 ++ st ++ d ++ a ++ b ++ 4#7, stall := st.toNat, reads := [(.g, a.toNat)], cls := .irrev }

theorem copyStatusOp_has (st : BitVec 3) (d a b : BitVec 5) : (copyStatusOp st d a b).Has (copyStatusForm a) :=
  ⟨rfl, rfl, rfl, rfl, rfl, rfl, rfl, rfl⟩

/-- A ticket is the low half of a register. -/
theorem field_ticket (w : Word) : field w 31 0 = w.toNat % 2 ^ 32 := (field_eq w 31 0).trans (by simp)

/-- CPYST yields the status that the sett of the thread's home has for its ticket; T13's tickets are unknown. -/
theorem cpyst_yields (hi : Issues (copyStatusForm a) s) :
    let z := begun (copyStatusForm a) s
    Yields (.cpyst st d a b) s z d.toNat
      (if s.cur.thr = 13 then 7 else ticketStatus (z.sett (settOf (homeTid z s.cur).core)) ((s.me.readG a.toNat).toNat % 2 ^ 32)) := by
  refine yields_of (op := copyStatusOp st d a b) rfl (copyStatusOp_has st d a b) hi d.isLt ?_
  rw [begun_readG hi.context, field_ticket]

end CopyStatus

/-- Settles O41: a copy command by whether its handle is held and its queue full; CPYST by its body. -/
theorem copyIssueAndStatus : Obligations.CopyIssueAndStatus := by
  unfold Obligations.CopyIssueAndStatus
  refine ⟨?_, fun st d a b s hi => cpyst_yields hi⟩
  intro st d a b s i cond nb hmem f n kind ks c hi hk z x hc blk h v
  obtain ⟨w, hw⟩ := exec_copyCommand hmem s
  obtain ⟨body, he, hb⟩ := copyIssue_admits (w := w) (st := st) (d := d) (nb := nb) hi hk hc
  have hex := hw.trans he
  have has := copyOp_has w st a
  refine ⟨fun hv hs => raises_of hex has rfl hi (hb.trans (admitCopy_handleHeld hv hs)),
    fun hf => ⟨fun hq hnb => ?_, fun hq hnb => ?_, fun hq => ?_⟩⟩
  · subst hnb
    exact yields_of hex has hi d.isLt (hb.trans (admitCopy_full_busy hf hq))
  · subst hnb
    exact stops_of hex has rfl hi (hb.trans (admitCopy_full_parks hf hq))
  · exact yields_of hex has hi d.isLt (hb.trans (admitCopy_enqueues hf hq))

end Sys2Proof

namespace Sys2Proof

open Machine

/-! ## Handles (R221, R222) -/

/-- The STATE of a status word is its low two bits. -/
theorem hState_eq (w : Word) : hState w = w.toNat % 4 := (field_eq w 1 0).trans (by simp)

/-- A reference that is not one of the issuer's virtual holt and launch raises OPERAND_RANGE (R221). -/
theorem handleRef_error {z : State} {t : Tid} {w : Word} {e : Stop} (h : handleRef z t w = .error e) : e = .trap cOPERAND_RANGE w := by
  unfold handleRef at h
  dsimp only at h
  split at h
  · split at h
    · cases h
    · exact (Except.error.inj h).symm
  · exact (Except.error.inj h).symm

/-- A change of one handle leaves every other as it is. -/
theorem handle_setHandleOf {z : State} {i : Nat} (hw : KMap.wfFrom 0 0 (z.sett i).handles = true) (j h k : Nat) (w : Word) :
    ((setHandleOf z i h w).sett j).handle k = if j = i ∧ k = h then w else (z.sett j).handle k := by
  unfold setHandleOf
  rw [setSett_sett]
  by_cases hj : j = i
  · subst hj
    simpa [Sett.handle, Sett.setHandle] using KMap.getD_put hw h k w
  · simp [hj]

theorem handleMove_ok {from_ to_ : Nat} {r w : Word} (h : w.toNat % 4 = from_) : handleMove from_ to_ r w = .ok (withState w to_) :=
  if_pos ((hState_eq w).trans h)

theorem handleMove_error {from_ to_ : Nat} {r w : Word} (h : w.toNat % 4 ≠ from_) :
    handleMove from_ to_ r w = .error (.trap cHANDLE_STATE (handleEval r.toNat (w.toNat % 4))) := by
  unfold handleMove
  rw [hState_eq, if_neg h]

/-- The effect of HWAIT on a status word. -/
def untilState (m : BitVec 2) (w : Word) : Except Stop Word :=
  if hState w = m.toNat ∨ w.getLsbD 2 = true then .ok w else .error (.park false .reissue)

theorem untilState_ok {m : BitVec 2} {w : Word} (h : w.toNat % 4 = m.toNat ∨ w.getLsbD 2 = true) : untilState m w = .ok w :=
  if_pos (h.imp_left (hState_eq w).trans)

theorem untilState_error {m : BitVec 2} {w : Word} (hs : w.toNat % 4 ≠ m.toNat) (he : w.getLsbD 2 = false) :
    untilState m w = .error (.park false .reissue) :=
  if_neg fun h => h.elim (fun h => hs ((hState_eq w).symm.trans h)) fun h => Bool.false_ne_true (he.symm.trans h)

section HandleOp

variable {i : Instr} {w : BitVec 32} {st : BitVec 3} {d a : BitVec 5} {cls : OClass} {rel : Bool} {eff : Word → Word → Except Stop Word} {s : State}
  {n h : Nat}

/-- How the handle instructions issue. -/
def handleForm (a : BitVec 5) (cls : OClass) : Form := { gForm [a] with cls := cls }

/-- What the frame of every instruction knows of a handle instruction. -/
def handleOperation (w : BitVec 32) (st : BitVec 3) (a : BitVec 5) (cls : OClass) : Op :=
  { word := w, stall := st.toNat, reads := [(.g, a.toNat)], cls := cls }

theorem handleOperation_has : (handleOperation w st a cls).Has (handleForm a cls) := ⟨rfl, rfl, rfl, rfl, rfl, rfl, rfl, rfl⟩

/-- What a handle instruction does once its reference names the handle `p`. -/
def handleEffect (d : Nat) (rel : Bool) (eff : Word → Except Stop Word) (z : State) (t : Tid) (p : Nat × Nat) : Except Stop (State × Next) := do
  let h := p.2 + resHandles t
  let new ← eff ((z.sett p.1).handle h)
  let y := setHandleOf (if rel then drainPosted z t else orderStores z t) p.1 h new
  return (y.setThread t ((y.thread t).putG d new), .seq)

/-- The body of a handle instruction: its reference, then its effect. -/
theorem handleOp_eq (hi : Issues (handleForm a cls) s) : ∃ body, handleOp w st d a cls rel eff s = issue (handleOperation w st a cls) s body ∧
    body (begun (handleForm a cls) s) s.cur =
      handleRef (begun (handleForm a cls) s) s.cur (s.me.readG a.toNat) >>=
        handleEffect d.toNat rel (eff (s.me.readG a.toNat)) (begun (handleForm a cls) s) s.cur := by
  refine ⟨_, rfl, ?_⟩
  dsimp only
  rw [begun_readG hi.context]
  rfl

variable (he : exec i s = handleOp w st d a cls rel eff s) (hi : Issues (handleForm a cls) s)
include he hi

/-- A reference outside the issuer's virtual holt and launch stops the instruction. -/
theorem handleOp_stranger {e : Stop} (hr : handleRef (begun (handleForm a cls) s) s.cur (s.me.readG a.toNat) = .error e) :
    exec i s = stopped (atIssue s) s.cur e := by
  obtain ⟨body, hx, hb⟩ := handleOp_eq (w := w) (st := st) (d := d) (rel := rel) (eff := eff) hi
  exact stops_of (he.trans hx) handleOperation_has rfl hi (hb.trans (bind_of_error hr))

section Named

variable (hr : handleRef (begun (handleForm a cls) s) s.cur (s.me.readG a.toNat) = .ok (n, h))
include hr

/-- Where the effect on the status word stops, so does the instruction. -/
theorem handleOp_stops {e : Stop}
    (hf : eff (s.me.readG a.toNat) (((begun (handleForm a cls) s).sett n).handle (h + resHandles s.cur)) = .error e) :
    exec i s = stopped (atIssue s) s.cur e := by
  obtain ⟨body, hx, hb⟩ := handleOp_eq (w := w) (st := st) (d := d) (rel := rel) (eff := eff) hi
  exact stops_of (he.trans hx) handleOperation_has rfl hi (hb.trans (bind_of_ok hr (bind_of_error hf)))

/-- The new status word is written to the handle, once what comes before is performed, and gD takes it. -/
theorem handleOp_yields {new : Word}
    (hf : eff (s.me.readG a.toNat) (((begun (handleForm a cls) s).sett n).handle (h + resHandles s.cur)) = .ok new) :
    let z := begun (handleForm a cls) s
    Yields i s (setHandleOf (if rel then drainPosted z s.cur else orderStores z s.cur) n (h + resHandles s.cur) new) d.toNat new := by
  obtain ⟨body, hx, hb⟩ := handleOp_eq (w := w) (st := st) (d := d) (rel := rel) (eff := eff) hi
  exact yields_of (he.trans hx) handleOperation_has hi d.isLt (hb.trans (bind_of_ok hr (bind_of_ok hf rfl)))

end Named

end HandleOp

/-- Settles O42: each instruction by its effect on the status word of the handle that its reference names. -/
theorem handles : Obligations.Handles := by
  unfold Obligations.Handles
  intro st d a b x m s f g r
  refine ⟨?named, ?read, fun e hi hr => ⟨?_, ?_, ?_⟩, fun e hi hr => ?_, fun z t w e => handleRef_error, fun z i j h k w hw => handle_setHandleOf hw j h k w⟩
  case named =>
    intro i h0 hi hr z h w put now
    refine ⟨fun hfull => ?_, fun hn => ?_, fun hdrain => ?_, fun hn => ?_, fun hp => ?_, fun hn he => ?_⟩
    · exact handleOp_yields (i := .hacq st d a b) rfl hi hr (handleMove_ok hfull)
    · exact handleOp_stops (i := .hacq st d a b) rfl hi hr (handleMove_error hn)
    · exact handleOp_yields (i := .hrel st d a b) rfl hi hr (handleMove_ok hdrain)
    · exact handleOp_stops (i := .hrel st d a b) rfl hi hr (handleMove_error hn)
    · exact handleOp_yields (i := .hwait st d a x m) (eff := fun _ => untilState m) rfl hi hr (untilState_ok hp)
    · exact handleOp_stops (i := .hwait st d a x m) (eff := fun _ => untilState m) rfl hi hr (untilState_error hn he)
  case read =>
    intro i h0 hi hr h w
    exact handleOp_yields (i := .hstat st d a b) (eff := fun _ w => .ok w) rfl hi hr rfl
  · exact handleOp_stranger (i := .hacq st d a b) rfl hi hr
  · exact handleOp_stranger (i := .hrel st d a b) rfl hi hr
  · exact handleOp_stranger (i := .hwait st d a x m) (eff := fun _ => untilState m) rfl hi hr
  · exact handleOp_stranger (i := .hstat st d a b) (eff := fun _ w => .ok w) rfl hi hr

end Sys2Proof

namespace Sys2Proof

open Machine

/-! ## What the accounts of a chunk leave of memory (R218, R326, R331) -/

/-- Every byte reads in `z` as it does in `s`. -/
def SameBytes (s z : State) : Prop := ∀ q, readPlace z q = readPlace s q

namespace SameBytes

variable {s y z : State}

protected theorem refl (s : State) : SameBytes s s := fun _ => rfl

protected theorem trans (h : SameBytes s y) (h' : SameBytes y z) : SameBytes s z := fun q => (h' q).trans (h q)

protected theorem setCtx (h : SameBytes s y) {x : Nat} {c : Context} : SameBytes s (y.setCtx x c) := h

protected theorem setSett (h : SameBytes s y) {i : Nat} {x : Sett} (hx : x.mem = (y.sett i).mem) : SameBytes s (y.setSett i x) := by
  refine h.trans fun q => ?_
  have hm : ∀ j, ((y.setSett i x).sett j).mem = (y.sett j).mem := by
    intro j
    rw [setSett_sett]
    split
    · subst_vars; exact hx
    · rfl
  unfold readPlace
  simp only [hm]
  rfl

protected theorem ite {c : Prop} [Decidable c] (hy : SameBytes s y) (hz : SameBytes s z) : SameBytes s (if c then y else z) := by
  split
  · exact hy
  · exact hz

protected theorem noteSpent (h : SameBytes s y) {n x i cost : Nat} : SameBytes s (noteSpent n y x i cost) := by
  induction n generalizing y x with
  | zero => exact h
  | succ n ih => exact .ite h.setCtx (ih h.setCtx)

protected theorem takeFrom (h : SameBytes s y) {i need : Nat} {ls : List Nat} : SameBytes s (takeFrom y i ls need).1 := by
  induction ls generalizing y need with
  | nil => exact h
  | cons l ls ih => exact ih h.setCtx

protected theorem spend (h : SameBytes s y) {x die cls cost : Nat} {ws : List Nat} : GivesSome (SameBytes s) (spend y x die cls cost ws) :=
  .ite h.setCtx.noteSpent (.ite trivial (.ite trivial h.setCtx.takeFrom.noteSpent))

protected theorem inject (h : SameBytes s y) {x : Nat} {ls : List (Nat × Nat)} : GivesSome (SameBytes s) (inject y x ls) := by
  induction ls generalizing y with
  | nil => exact h
  | cons l ls ih => exact h.spend.bind fun _ hz => ih hz

protected theorem useAt (h : SameBytes s y) {v : View} {addr : Word} {n : Nat} : SameBytes s (useAt y v addr n) := by
  rcases useAt_cases y v addr n with e | ⟨i, r, p, e⟩
  · rw [e]; exact h
  · rw [e]; exact h.setSett rfl

protected theorem useChunk (h : SameBytes s y) {c : Copy} {n : Nat} : SameBytes s (useChunk y c n) :=
  List.foldlRecOn _ _ h fun _ hz _ _ => hz.useAt

protected theorem putCopy (h : SameBytes s y) {i : Nat} {c : Copy} : SameBytes s (putCopy y i c) := h.setSett rfl

end SameBytes

/-! ## Chunks (R218, R219) -/

section Chunks

variable {s z x : State} {v : Nat} {c c' : Copy}

/-- The state once the tokens of a chunk are spent, its translations used, and the arbitration and the copy carried on (R218). -/
def chunkSent (v : Nat) (c c' : Copy) (z : State) : State :=
  let z := useChunk z c c.next
  let z := z.setSett v (accountChunk (z.sett v) c c.next)
  putCopy z v { c'.moved c.next with others := (((z.sett v).queue.find? c.same).getD c).others }

protected theorem SameBytes.chunkSent (h : SameBytes s z) : SameBytes s (chunkSent v c c' z) := by
  unfold Sys2Proof.chunkSent
  extract_lets y y'
  have hy : SameBytes s y' := h.useChunk.setSett rfl
  exact hy.putCopy

/-- A chunk whose bytes can move is sent where the tokens of its bytes and of its flits suffice. -/
theorem sendChunk_of_moved (h : moveChunk s c c.next = .ok (z, c')) : sendChunk s v c =
    ((spend z c.ctx (s.sett v).die 1 c.next (copyWaiters s (s.sett v).die)).bind fun y => inject y c.ctx (chunkFlits s v c c.next)).map
      (chunkSent v c c') := by
  unfold sendChunk
  dsimp only
  rw [h]
  dsimp only
  split
  · next hn => rw [hn]; rfl
  · next hy => rw [hy]; rfl

/-- A chunk that fails gives the copy its reason. -/
theorem sendChunk_of_failed {r : Nat} (h : moveChunk s c c.next = .error (.reason r)) :
    sendChunk s v c = some (putCopy s v { c with failed := some r, phase := .ending }) := by
  unfold sendChunk
  dsimp only
  rw [h]
  rfl

/-- A chunk that is sent is covered by tokens, and its accounts leave the bytes that it moved. -/
theorem sent_paid (h : moveChunk s c c.next = .ok (z, c')) (hx : sendChunk s v c = some x) :
    (spend z c.ctx (s.sett v).die 1 c.next (copyWaiters s (s.sett v).die)).isSome = true ∧ SameBytes z x := by
  rw [sendChunk_of_moved h, Option.map_eq_some_iff] at hx
  obtain ⟨y, hy, rfl⟩ := hx
  have hbytes : SameBytes z y := ((SameBytes.refl z).spend.bind fun _ hp => hp.inject).of_eq hy
  obtain ⟨p, hp, -⟩ := Option.bind_eq_some_iff.mp hy
  exact ⟨Option.isSome_of_eq_some hp, hbytes.chunkSent⟩

theorem sendChunk_of_unpaid (h : moveChunk s c c.next = .ok (z, c'))
    (hn : spend z c.ctx (s.sett v).die 1 c.next (copyWaiters s (s.sett v).die) = none) : sendChunk s v c = none := by
  rw [sendChunk_of_moved h, hn]
  rfl

theorem exec_copyChunk_stopped (hc : settClock s v = false) : exec (.copyChunk v) s = .next s := by
  show execCopyChunk v s = _
  unfold execCopyChunk
  rw [hc]
  rfl

/-- The engine's step at a sett whose clock runs is what the arbitration answers. -/
theorem exec_copyChunk (hc : settClock s v = true) :
    let may (c : Copy) : Bool := (settRuns s v || writing c) && !mustWait s c
    exec (.copyChunk v) s = match serveCopy may (16 * (s.sett v).queue.length + 4) s v with
      | some z => .next (lapse z)
      | none => .next s := by
  show execCopyChunk v s = _
  unfold execCopyChunk
  rw [hc]
  rfl

end Chunks

/-! ## The version check of a CPYC and the end of its write phase (R223) -/

section Ends

variable {s z : State} {v : Nat} {c : Copy} {ks : List Nat}

/-- The view through which the engine reaches memory for a copy. -/
def copyView (c : Copy) : View := ⟨c.ctx, c.issuer.core, c.segBase, c.segLimit⟩

/-- What a version check makes of a copy whose version word lies at `ks` and holds `old`. -/
def versionChecked (s : State) (v : Nat) (c : Copy) (ks : List Nat) (old : Nat) : State :=
  let u := useAt s (copyView c) (cbVerAddr c.blk) 8
  if old = cbExpected c.blk then putCopy (writePlaces u ks (leBytes (old + 1) 8)) v { c with ver := some old, pos := 0, phase := .moving }
  else
    let u := if cbHV c.blk && c.current (u.sett v) then setHandleOf u v (cbHandle c.blk) ((u.sett v).handle (cbHandle c.blk) ||| 8) else u
    putCopy u v { c with discarded := true, phase := .ending }

theorem cpycVersionCheck_moves (hc : (s.sett v).queue.find? (fun c => c.phase == .check && !c.missing && c.failed.isNone) = some c)
    (hr : settRuns s v = true) (hk : engPlaces s (copyView c) (cbVerAddr c.blk) 8 rAMO (some (cbScope c.blk, false)) = .ok ks) :
    Moves (.cpycVersionCheck v) s (versionChecked s v c ks (leNat (readPlaces s ks))) := by
  refine ⟨_, ?_, rfl⟩
  show execCpycVersionCheck v s = _
  unfold execCpycVersionCheck
  unfold copyView at hk
  rw [hc]
  simp only [hr, hk, Bool.not_true, Bool.false_eq_true, if_false]
  unfold versionChecked
  by_cases he : leNat (readPlaces s ks) = cbExpected c.blk
  · rw [if_pos he, if_pos he]
    rfl
  · rw [if_neg he, if_neg he]
    rfl

theorem closeVersion_eq (hk : engPlaces s (copyView c) (cbVerAddr c.blk) 8 rAMO (some (cbScope c.blk, false)) = .ok ks) : closeVersion s v c =
    some (putCopy (writePlaces (useAt s (copyView c) (cbVerAddr c.blk) 8) ks (leBytes (c.ver.getD 0 + 2) 8)) v { c with phase := .ending }) := by
  unfold copyView at hk
  unfold closeVersion
  rw [hk]
  rfl

/-! ## Completion (R220) -/

section Completion

variable (hc : (s.sett v).queue.find? (fun c => (c.phase == .ending && settRuns s v || c.phase == .closing && settClock s v) && !c.missing) = some c)
include hc

theorem copyCompletion_failed {r : Nat} (hf : c.failed = some r) : Moves (.copyCompletion v) s (failCopy s v c r 4 true true) := by
  refine ⟨_, ?_, rfl⟩
  show execCopyCompletion v s = _
  unfold execCopyCompletion
  rw [hc]
  dsimp only
  rw [hf]

theorem copyCompletion_closes (hf : c.failed = none) (hp : c.phase = .closing) (hz : closeVersion s v c = some z) : Moves (.copyCompletion v) s z := by
  refine ⟨_, ?_, rfl⟩
  show execCopyCompletion v s = _
  unfold execCopyCompletion
  rw [hc]
  dsimp only
  rw [hf, hp]
  dsimp only
  rw [hz]
  rfl

theorem copyCompletion_completes (hf : c.failed = none) (hp : c.phase = .ending) (hz : completeCopy s v c = some z) :
    Moves (.copyCompletion v) s z := by
  refine ⟨_, ?_, rfl⟩
  show execCopyCompletion v s = _
  unfold execCopyCompletion
  rw [hc]
  dsimp only
  rw [hf, hp]
  dsimp only
  rw [hz]
  rfl

end Completion

/-- A copy that has left the queue is not in it. -/
theorem retireCopy_gone (z : State) (v : Nat) (c : Copy) (o r : Nat) : ∀ y ∈ ((retireCopy z v c o r).sett v).queue, c.same y = false := by
  have hq : ((retireCopy z v c o r).sett v).queue = (z.sett v).queue.filter fun y => !c.same y := by
    unfold retireCopy
    rw [setSett_sett, if_pos rfl]
    split
    · rfl
    · rfl
  rw [hq]
  intro y hy
  simpa using (List.mem_filter.mp hy).2

theorem ok_of_isOk {α ε : Type} {x : Except ε α} (h : x.isOk = true) : ∃ a, x = .ok a := by
  cases x with
  | ok a => exact ⟨a, rfl⟩
  | error e => cases h

/-- A computation that goes on alike after either of two others, the one that was chosen having answered. -/
theorem ifBind_of_ok {α β ε : Type} {p : Prop} [Decidable p] {x y : Except ε α} {a : α} {k : α → Except ε β} {r : Except ε β}
    (h : (if p then x else y) = .ok a) (hk : k a = r) : (if p then x >>= k else y >>= k) = r := by
  split at h
  · rw [if_pos ‹_›, h]; exact hk
  · rw [if_neg ‹_›, h]; exact hk

/-- What completes at a copy whose objects are reached: its handle, its flag at the places `f`, its signal object, and its record. -/
def copyCompleted (s : State) (v : Nat) (c : Copy) (f : List Nat) : State :=
  let x := if cbHV c.blk && c.current (s.sett v) then setHandleOf s v (cbHandle c.blk) (withState ((s.sett v).handle (cbHandle c.blk)) hFull) else s
  let y := if cbFV c.blk then writePlaces (useAt x (copyView c) (cbFlag c.blk) 4) f (leBytes (cbFlagval c.blk) 4) else x
  let z := if cbSV c.blk then engineSignal y (copyView c) (cbSignal c.blk) false 1 none else y
  retireCopy z v c (if c.discarded then 3 else 2) 0

theorem completeCopy_eq {f g : List Nat}
    (hf : if cbFV c.blk then engPlaces s (copyView c) (cbFlag c.blk) 4 rWR none = .ok f else f = [])
    (hg : cbSV c.blk = true → engPlaces s (copyView c) (cbSignal c.blk) 16 rAMO none = .ok g ∧
      (engPlaces s (copyView c) (cbSignal c.blk) 16 rAMO (some (attrScope (leNat (readPlaces s (g.drop 8))), false))).isOk = true) :
    completeCopy s v c = some (copyCompleted s v c f) := by
  have hflag : (if cbFV c.blk then engPlaces s (copyView c) (cbFlag c.blk) 4 rWR none else .ok []) = .ok f := by
    split at hf
    · rw [if_pos ‹_›, hf]
    · rw [if_neg ‹_›, hf]
  have hsignal : ∃ g0 g1, (if cbSV c.blk then engPlaces s (copyView c) (cbSignal c.blk) 16 rAMO none else .ok []) = .ok g0 ∧
      (if cbSV c.blk then engPlaces s (copyView c) (cbSignal c.blk) 16 rAMO (some (attrScope (leNat (readPlaces s (g0.drop 8))), false))
        else .ok []) = .ok g1 := by
    cases hs : cbSV c.blk with
    | false => exact ⟨[], [], rfl, rfl⟩
    | true =>
      obtain ⟨hk, hok⟩ := hg hs
      obtain ⟨g1, hg1⟩ := ok_of_isOk hok
      exact ⟨g, g1, hk, hg1⟩
  obtain ⟨g0, g1, hg0, hg1⟩ := hsignal
  unfold completeCopy
  extract_lets view b attr flagged objs
  have hobjs : objs = .ok (f, g1) := ifBind_of_ok hflag (ifBind_of_ok hg0 (ifBind_of_ok hg1 rfl))
  rw [hobjs]
  rfl

end Ends

/-- Settles O44: the engine's chunk, the version check and the completion, each by what its step answers. -/
theorem copyProgress : Obligations.CopyProgress := by
  unfold Obligations.CopyProgress
  intro s v may view
  refine ⟨fun hc => ?_, fun hc => ⟨fun z hz => ⟨_, ?_, rfl⟩, fun hn => ?_⟩,
    fun c => ⟨fun r h => sendChunk_of_failed h, fun z c' x h hx => ?_, fun z c' h hn => sendChunk_of_unpaid h hn⟩, ?check,
    fun c hc => ⟨fun r hf => copyCompletion_failed hc hf, fun ks hf hp hk => copyCompletion_closes hc hf hp (closeVersion_eq hk),
      fun z hf hp hz => copyCompletion_completes hc hf hp hz⟩, ?ends⟩
  · exact exec_copyChunk_stopped hc
  · rw [exec_copyChunk hc, hz]
  · rw [exec_copyChunk hc, hn]
  · obtain ⟨hp, hb⟩ := sent_paid h hx
    exact ⟨hp, fun q _ => hb q⟩
  case check =>
    intro c ks hc hr hk old u
    have hm := cpycVersionCheck_moves hc hr hk
    refine ⟨fun he => ?_, ?_⟩
    · rwa [versionChecked, if_pos he] at hm
    · intro marked hn
      rwa [versionChecked, if_neg hn] at hm
  case ends =>
    intro c f g hf hg x y z
    exact ⟨completeCopy_eq hf hg, retireCopy_gone z v c _ _⟩

end Sys2Proof

namespace Sys2Proof

open Machine

/-! ## An AOP of T14 (R86, R227)

An AOP performs its read-modify-write as `AMO` does (`amoBody`), so T14's record of the old bytes that a copy may yet read (`recent`, log
57) comes out empty, while `StoresAndYields` wants the bytes that the AOP replaces kept there, as a plain store keeps them (see
`not_atomics`). T14 at a word of the root's Archive allotment shows the difference. -/

/-- T14 of core 0 with offset 64 of its segment 4 in g1, where the segment is the context's Archive allotment with every right. -/
def bankState : State :=
  let s := { State.reset with cur := ⟨0, 14⟩ }
  s.setThread s.cur { s.me with
    g := s.me.g.set 1 (BitVec.ofNat 64 (2 ^ 63 + 64))
    segBase := s.me.segBase.set 4 (segWord 5 7 0)
    segLimit := s.me.segLimit.set 4 65536 }

/-- How an AOP of g2 to the word at g1 issues. -/
def bankForm : Form := { gForm [2, 1] with cls := .irrev }

/-- The state in which it runs. -/
def bankBegun : State := begun bankForm bankState

/-- The places of the word at g1. -/
def bankPlaces : List Nat := span (archKey 64) 4

/-- AOP.ADD of g2 to that word. -/
def bankAdd : Instr := .aopAdd 0 2 1 2 0 0

/-- Root's account of bank operations on die 0 covers it. -/
def bankCharge : Option State :=
  (spend bankBegun (ctxOf bankBegun bankState.cur) 0 3 1 (bankWaiters bankBegun 0)).bind fun q => inject q (ctxOf q bankState.cur) []

theorem bankCharge_isSome : bankCharge.isSome = true := by decide +kernel

def bankPaid : State := bankCharge.get bankCharge_isSome

theorem issues_bankState : Issues bankForm bankState := Tests.issues_of (by decide +kernel)

theorem access_bankBegun : access bankBegun bankState.cur (bankState.me.readG 1) 4 rAMO true (some (0, false)) = .ok (⟨5, none⟩, bankPlaces) := by
  decide +kernel

theorem access_bankPaid : access bankPaid bankState.cur (bankState.me.readG 1) 4 rAMO true (some (awayScope bankPaid bankState.cur 0, false)) =
    .ok (⟨5, none⟩, bankPlaces) := by
  decide +kernel

theorem track_bankPaid (wr : Bool) : track bankPaid bankState.cur ⟨5, none⟩ bankPlaces true wr = .ok bankPaid := by
  cases wr <;> decide +kernel

theorem meth_bankPaid : bankPaid.meth = none := by decide +kernel

/-- A plain store of T14 to the word would keep its old bytes. -/
theorem recent_noteStore_bankPaid : ((noteStore bankPaid bankState.cur bankPlaces).thread bankState.cur).recent ≠ [] := by decide +kernel

/-- The AOP keeps none. -/
theorem recent_bankAdd {s : State} (h : exec bankAdd bankState = .next s) : (s.thread bankState.cur).recent = [] := by
  have hr : (match exec bankAdd bankState with | .next s => (s.thread bankState.cur).recent | _ => []) = [] := by decide +kernel
  rwa [h] at hr

theorem methJournal_bankPaid : methJournal bankPaid bankPlaces = .ok bankPaid := by
  unfold methJournal
  rw [meth_bankPaid]

/-- Refutes O43: T14 adds to a word of the Archive; the statement's state has the word's old bytes in `recent`, the model's does not. -/
theorem not_banks : ¬ Obligations.Banks := by
  unfold Obligations.Banks
  intro h
  obtain ⟨words, -⟩ := h
  obtain ⟨-, -, charged⟩ := words 0 2 1 2 0 0 bankState bankAdd _ (.head _) rfl issues_bankState
  obtain ⟨-, runs⟩ := charged ⟨5, none⟩ bankPlaces (by decide +kernel) nofun rfl access_bankBegun
  have runs := runs bankPaid bankPaid bankPaid bankPaid (Option.some_get bankCharge_isSome).symm (congrArg Except.isOk access_bankPaid)
    access_bankPaid (track_bankPaid false) (track_bankPaid true) methJournal_bankPaid
  obtain ⟨s', hrun, -, regs, -⟩ := runs
  have hrecent := congrArg Thread.recent regs.keeps.rest
  rw [thread_writePlaces _ _ _ ((onlyThread_noteStore _ _ _).meth_none meth_bankPaid)] at hrecent
  exact recent_noteStore_bankPaid (hrecent.symm.trans (recent_bankAdd hrun))

end Sys2Proof

namespace Sys2Proof

open Machine

/-! ## The push of a tile command (R237, R253) -/

section PushCmd

/-- The first bank that a command names and its thread does not hold (R235). -/
def foreignBank (z : State) (t : Tid) (c : TileCmd) : Option Nat := (cmdBanks c).find? fun b => (z.core t.core).tile.ownerOf b != t.thr

/-- A multiply deeper than 2^24 (R257). -/
def TooDeep (c : TileCmd) : Prop := c.op = .tmma ∧ bit c.val 35 = false ∧ 2 ^ 24 < field c.val 31 0

/-- A sparse A stream (R256). -/
def SparseRows (c : TileCmd) : Prop := c.op = .tlda ∧ tdSp c.val = true

/-- Queue `q` of the tile engine of a thread's core. -/
def cmdQueueOf (z : State) (t : Tid) (q : Nat) : TileQueue := (z.core t.core).tile.queues.toList.getD q .reset

/-- The state with the command at the end of queue `q`: with its thread, the queue's next number and its place among all pushes. -/
def withCmd (z : State) (t : Tid) (q : Nat) (c : TileCmd) : State :=
  let k := z.core t.core
  z.setCore t.core { k with tile := { k.tile with
    queues := k.tile.queues.setIfInBounds q { cmdQueueOf z t q with
      cmds := (cmdQueueOf z t q).cmds ++ [{ c with
        thr := t.thr
        seq := (cmdQueueOf z t q).seq
        order := k.tile.pushes }]
      seq := ((cmdQueueOf z t q).seq + 1) % 65536 }
    pushes := k.tile.pushes + 1 } }

variable {z : State} {t : Tid} {q : Nat} {c : TileCmd}

theorem pushCmd_foreign {b : Nat} (h : foreignBank z t c = some b) : pushCmd z t q c = .error (.trap cACC_OWNER (BitVec.ofNat 64 b)) := by
  unfold foreignBank at h
  unfold pushCmd
  dsimp only
  rw [h]
  rfl

section Owned

variable (h : foreignBank z t c = none)
include h

theorem pushCmd_badOperand (hb : TooDeep c ∨ SparseRows c) : pushCmd z t q c = .error (.trap cOPERAND_RANGE c.val) := by
  unfold foreignBank at h
  unfold pushCmd
  dsimp only
  rw [h]
  rcases hb with ⟨hop, hreg, hk⟩ | ⟨hop, hsp⟩
  · exact if_pos ⟨hop, by rw [hreg]; rfl, hk⟩
  · exact (if_neg (by simp [hop])).trans (if_pos ⟨hop, hsp⟩)

variable (hd : ¬ TooDeep c) (hs : ¬ SparseRows c)
include hd hs

/-- A command whose banks are its thread's and whose operand is good: the header of a sparse tile is checked, then the room of the queue. -/
theorem pushCmd_goodOperand : pushCmd z t q c =
    (if c.op = .tspm then tspmCheck z t c.val else .ok ()) >>= fun _ =>
      if 16 ≤ (cmdQueueOf z t q).cmds.length then .error (.park false .reissue) else .ok (withCmd z t q c) := by
  unfold foreignBank at h
  unfold pushCmd
  dsimp only
  rw [h]
  refine (if_neg fun hdeep => hd ⟨hdeep.1, by simpa using hdeep.2.1, hdeep.2.2⟩).trans ((if_neg hs).trans ?_)
  by_cases hop : c.op = .tspm
  · rw [if_pos hop, if_pos hop]
    rfl
  · rw [if_neg hop, if_neg hop]
    rfl

theorem pushCmd_header {e : Stop} (hop : c.op = .tspm) (he : tspmCheck z t c.val = .error e) : pushCmd z t q c = .error e := by
  rw [pushCmd_goodOperand h hd hs, if_pos hop, he]
  rfl

variable (hh : c.op = .tspm → tspmCheck z t c.val = .ok ())
include hh

theorem pushCmd_header_ok : pushCmd z t q c =
    if 16 ≤ (cmdQueueOf z t q).cmds.length then .error (.park false .reissue) else .ok (withCmd z t q c) := by
  rw [pushCmd_goodOperand h hd hs]
  split
  · rw [hh ‹_›]
    rfl
  · rfl

theorem pushCmd_full (hq : 16 ≤ (cmdQueueOf z t q).cmds.length) : pushCmd z t q c = .error (.park false .reissue) :=
  (pushCmd_header_ok h hd hs hh).trans (if_pos hq)

theorem pushCmd_room (hq : (cmdQueueOf z t q).cmds.length < 16) : pushCmd z t q c = .ok (withCmd z t q c) :=
  (pushCmd_header_ok h hd hs hh).trans (if_neg (Nat.not_le.mpr hq))

end Owned

end PushCmd

/-! ## The instructions that push (R253 to R262) -/

/-- How the tile instructions issue. -/
def tileForm (rs : List (RegFile × Nat)) : Form := { reads := rs, cls := .irrev, home := true }

/-- What the frame of every instruction knows of a tile instruction. -/
def tileOperation (w : BitVec 32) (st : BitVec 3) (legal : Bool) (rs : List (RegFile × Nat)) : Op :=
  { word := w, stall := st.toNat, legal := legal, reads := rs, cls := .irrev, home := true }

theorem tileOperation_has {w : BitVec 32} {st : BitVec 3} {legal : Bool} {rs : List (RegFile × Nat)} (hl : legal = true) :
    (tileOperation w st legal rs).Has (tileForm rs) := ⟨hl, rfl, rfl, rfl, rfl, rfl, rfl, rfl⟩

section Pushes

variable {i : Instr} {w : BitVec 32} {st q : BitVec 3} {legal : Bool} {rs : List (RegFile × Nat)} {c : TileCmd} {s : State}

/-- The instruction pushes the command `c` into queue `q`, with what R253 checks before it; where there is room, `ends` holds of the state
with the command in its queue. -/
def PushesCmd (i : Instr) (f : Form) (q : Nat) (c : TileCmd) (s : State) (ends : State → Prop) : Prop :=
  Issues f s →
    let z := begun f s
    (∀ b, foreignBank z s.cur c = some b → Raises i s cACC_OWNER (BitVec.ofNat 64 b)) ∧
    (foreignBank z s.cur c = none → (TooDeep c ∨ SparseRows c) → Raises i s cOPERAND_RANGE c.val) ∧
    (∀ code v, foreignBank z s.cur c = none → c.op = .tspm → tspmCheck z s.cur c.val = .error (.trap code v) → Raises i s code v) ∧
    (foreignBank z s.cur c = none → ¬ TooDeep c → ¬ SparseRows c → (c.op = .tspm → tspmCheck z s.cur c.val = .ok ()) →
      ((cmdQueueOf z s.cur q).cmds.length < 16 → ends (withCmd z s.cur q c)) ∧
      (16 ≤ (cmdQueueOf z s.cur q).cmds.length → exec i s = stopped (atIssue s) s.cur (.park false .reissue)))

/-- A body that pushes, and goes on with `next`. -/
theorem pushesCmd_of {op : Op} {f : Form} {body : Body} {q : Nat} {next : Next} {ends : State → Prop}
    (he : exec i s = issue op s body) (hf : op.Has f) (hn : op.conflict = 0)
    (hb : Issues f s → body (begun f s) s.cur = pushCmd (begun f s) s.cur q c >>= fun z => .ok (z, next))
    (hends : Issues f s → ∀ z, body (begun f s) s.cur = .ok (z, next) → ends z) : PushesCmd i f q c s ends := by
  intro hi z
  have stops {e : Stop} (h : pushCmd z s.cur q c = .error e) : exec i s = stopped (atIssue s) s.cur e :=
    stops_of he hf hn hi ((hb hi).trans (bind_of_error h))
  refine ⟨fun b h => stops (pushCmd_foreign h), fun h hbad => stops (pushCmd_badOperand h hbad), fun code v h hop hh => ?_,
    fun h hd hs hh => ⟨fun hq => hends hi _ ((hb hi).trans (bind_of_ok (pushCmd_room h hd hs hh hq) rfl)),
      fun hq => stops (pushCmd_full h hd hs hh hq)⟩⟩
  exact stops (pushCmd_header h (fun hd => nomatch hop.symm.trans hd.1) (fun hs => nomatch hop.symm.trans hs.1) hop hh)

/-- The command that takes its value from the general register `d`. -/
def valueCmd (op : TileOp) (d : BitVec 5) (b : BitVec 6) (h n : BitVec 1) (r : BitVec 2) (t : Thread) : TileCmd :=
  mkCmd op b h n r (t.readG d.toNat) [] 0 false

/-- A tile instruction pushes the command that it describes. -/
theorem tilePush_pushes {cmd : Thread → TileCmd} {next : Next} {ends : State → Prop} (he : exec i s = tilePush w st q legal rs cmd next s)
    (hl : legal = true) (hc : Plainly cmd)
    (hends : ∀ {op : Op} {body : Body} {z : State}, exec i s = issue op s body → op.Has (tileForm rs) → Issues (tileForm rs) s →
      body (begun (tileForm rs) s) s.cur = .ok (z, next) → ends z) :
    PushesCmd i (tileForm rs) q.toNat (cmd s.me) s ends := by
  refine pushesCmd_of he (tileOperation_has hl) rfl (next := next) (fun hi => ?_) (fun hi z hz => hends he (tileOperation_has hl) hi hz)
  rw [hc.begun_thread hi.context]
  rfl

/-- One that goes on in sequence. -/
theorem tilePush_passes {cmd : Thread → TileCmd} (he : exec i s = tilePush w st q legal rs cmd .seq s) (hl : legal = true) (hc : Plainly cmd) :
    PushesCmd i (tileForm rs) q.toNat (cmd s.me) s (Passes i s) :=
  tilePush_pushes he hl hc passes_of

/-- One that waits for the answer to g register `d`. -/
theorem tilePush_sends {cmd : Thread → TileCmd} {d : Nat} (he : exec i s = tilePush w st q legal rs cmd (.sent false d) s) (hl : legal = true)
    (hc : Plainly cmd) : PushesCmd i (tileForm rs) q.toNat (cmd s.me) s fun z => Sends i s z false d :=
  tilePush_pushes he hl hc sends_of

end Pushes

section Qpush

variable {st q : BitVec 3} {d : BitVec 5} {e : BitVec 14} {s : State}

/-- The registers that QPUSH reads. -/
def qpushReads (d : BitVec 5) : List (RegFile × Nat) := [(.g, d.toNat), (.g, d.toNat + 1)]

/-- The command that a word of major 0x5A and a register pair's second half describe. -/
def describedCmd (op : TileOp) (val : Word) (arg : Word) (sat : Bool) : TileCmd :=
  mkCmd op (val.extractLsb' 4 6) (val.extractLsb' 3 1) (val.extractLsb' 2 1) (val.extractLsb' 0 2) arg [] 0 sat

/-- QPUSH, as the frame sees it. -/
def qpushOperation (st q : BitVec 3) (d : BitVec 5) (e : BitVec 14) : Op :=
  tileOperation (88#7 ++ st ++ d ++ q ++ e) st (d.toNat % 2 == 0 && cmdQueue q) (qpushReads d)

theorem qpushOperation_has (hd : d.toNat % 2 = 0) (hq : q.toNat < 4) : (qpushOperation st q d e).Has (tileForm (qpushReads d)) :=
  tileOperation_has (by simp [cmdQueue, hd, hq])

/-- The body of QPUSH, by what its word describes. -/
theorem exec_qpush (hi : Issues (tileForm (qpushReads d)) s) :
    ∃ body, exec (.qpush st d q e) s = issue (qpushOperation st q d e) s body ∧
      (qpushOp (s.me.readG d.toNat) = none →
        body (begun (tileForm (qpushReads d)) s) s.cur = .error (.trap cOPERAND_RANGE (s.me.readG d.toNat))) ∧
      ∀ op, qpushOp (s.me.readG d.toNat) = some op → body (begun (tileForm (qpushReads d)) s) s.cur =
        pushCmd (begun (tileForm (qpushReads d)) s) s.cur q.toNat
          (describedCmd op (s.me.readG d.toNat) (s.me.readG (d.toNat + 1)) s.me.satMod) >>= fun z => .ok (z, .seq) := by
  have hsat : Plainly Thread.satMod := fun _ _ _ _ _ => rfl
  refine ⟨_, rfl, fun h => ?_, fun op h => ?_⟩
  · dsimp only
    rw [begun_readG hi.context, h]
    rfl
  · dsimp only
    rw [begun_readG hi.context, begun_readG hi.context, hsat.begun_thread hi.context, h]
    rfl

variable (hd : d.toNat % 2 = 0) (hq : q.toNat < 4)
include hd hq

theorem qpush_raises (hi : Issues (tileForm (qpushReads d)) s) (h : qpushOp (s.me.readG d.toNat) = none) :
    Raises (.qpush st d q e) s cOPERAND_RANGE (s.me.readG d.toNat) := by
  obtain ⟨body, he, hnone, -⟩ := exec_qpush hi
  exact raises_of he (qpushOperation_has hd hq) rfl hi (hnone h)

theorem qpush_pushes {op : TileOp} (h : qpushOp (s.me.readG d.toNat) = some op) :
    PushesCmd (.qpush st d q e) (tileForm (qpushReads d)) q.toNat
      (describedCmd op (s.me.readG d.toNat) (s.me.readG (d.toNat + 1)) s.me.satMod) s (Passes (.qpush st d q e) s) := by
  intro hi
  obtain ⟨body, he, -, hsome⟩ := exec_qpush (e := e) hi
  have has := qpushOperation_has (st := st) (e := e) hd hq
  exact pushesCmd_of he has rfl (fun _ => hsome op h) (fun hi z hz => passes_of he has hi hz) hi

end Qpush

/-! ## QPOP, LSET and TGEO (R262 to R264) -/

section DirectDoor

variable {st q : BitVec 3} {d : BitVec 5} {e : BitVec 14} {s : State}

/-- The state with the completion words of queue `q` as given. -/
def withDone (z : State) (t : Tid) (q : Nat) (ws : List Word) : State :=
  let x := (z.core t.core).tile
  z.setTile t.core { x with queues := x.queues.setIfInBounds q { cmdQueueOf z t q with done := ws } }

theorem qpopOperation_has (hq : 4 ≤ q.toNat) : (tileOperation (89#7 ++ st ++ d ++ q ++ e) st (!cmdQueue q) []).Has (tileForm []) :=
  tileOperation_has (by simpa [cmdQueue] using hq)

section Qpop

variable (hq : 4 ≤ q.toNat) (hi : Issues (tileForm []) s)
include hq hi

theorem qpop_yields {w : Word} {ws : List Word} (h : (cmdQueueOf (begun (tileForm []) s) s.cur (q.toNat - 4)).done = w :: ws) :
    Yields (.qpop st d q e) s (orderStores (withDone (begun (tileForm []) s) s.cur (q.toNat - 4) ws) s.cur) d.toNat w := by
  unfold cmdQueueOf at h
  refine yields_of rfl (qpopOperation_has (st := st) (d := d) (e := e) hq) hi d.isLt ?_
  dsimp only
  rw [h]
  rfl

theorem qpop_parks (h : (cmdQueueOf (begun (tileForm []) s) s.cur (q.toNat - 4)).done = []) :
    exec (.qpop st d q e) s = stopped (atIssue s) s.cur (.park false .reissue) := by
  unfold cmdQueueOf at h
  refine stops_of rfl (qpopOperation_has (st := st) (d := d) (e := e) hq) rfl hi ?_
  dsimp only
  rw [h]

end Qpop

variable (hi : Issues (tileForm [(.g, d.toNat)]) s)
include hi

theorem lset_passes :
    let z := begun (tileForm [(.g, d.toNat)]) s
    let x := (z.core s.cur.core).tile
    Passes (.lset st d q e) s (z.setTile s.cur.core { x with loops := x.loops.setIfInBounds q.toNat ((s.me.readG d.toNat).setWidth 32) }) := by
  refine passes_of rfl (tileOperation_has (w := 92#7 ++ st ++ d ++ q ++ e) rfl) hi ?_
  dsimp only
  rw [begun_readG hi.context]

/-- The origin of a window, row and column saturated, as TGEO.ORG packs it. -/
def originWord (r : Nat × Nat × Nat × Nat) : Nat := min r.2.1 (2 ^ 32 - 1) * 2 ^ 32 + min r.1 (2 ^ 32 - 1)

/-- The edge masks of a window, as TGEO.MASK packs them. -/
def edgeWord (r : Nat × Nat × Nat × Nat) : Nat := r.2.2.2 * 65536 + r.2.2.1

/-- A TGEO instruction computes from the window of its thread's GGEO at the tile step in g`d`. -/
theorem tgeo_yields {i : Instr} {w : BitVec 32} {f : Nat × Nat × Nat × Nat → Nat} (he : exec i s = tgeo w st d f s) :
    let z := begun (tileForm [(.g, d.toNat)]) s
    let step := s.me.readG d.toNat
    Yields i s z d.toNat (BitVec.ofNat 64 (f (tileWindow ((z.core s.cur.core).ggeoOf s.cur.thr) (field step 15 0) (field step 31 16)))) := by
  refine yields_of he (tileOperation_has (w := w) rfl) hi d.isLt ?_
  dsimp only
  rw [begun_readG hi.context]

end DirectDoor

/-- Settles O45: each push is `pushCmd` in the frame of every instruction, with its cases; QPOP, LSET and TGEO by their bodies. -/
theorem tileCommandPushes : Obligations.TileCommandPushes := by
  unfold Obligations.TileCommandPushes
  intro st d q b c h n r e e' s core reading queue added pushes val g cmd
  refine ⟨fun hq => ?_, fun hq hi => ⟨fun w ws => qpop_yields hq hi, qpop_parks hq hi⟩,
    fun hi => ⟨lset_passes hi, tgeo_yields (i := .tgeoOrg st d q e') (f := originWord) hi rfl,
      tgeo_yields (i := .tgeoMask st d q e') (f := edgeWord) hi rfl⟩⟩
  have hl : cmdQueue q = true := decide_eq_true hq
  refine ⟨?_, ?_, ?_, ?_, ?_, ?_, ?_, ?_, ?_, fun hb => ?_, fun hd => ⟨fun hn hi => qpush_raises hd hq hi hn, fun op => qpush_pushes hd hq⟩⟩
  · exact tilePush_passes (cmd := valueCmd .tlda d b h n r) rfl hl fun _ _ _ _ _ => rfl
  · exact tilePush_passes (cmd := valueCmd .tldb d b h n r) rfl hl fun _ _ _ _ _ => rfl
  · exact tilePush_passes (cmd := valueCmd .tmma d b h n r) rfl hl fun _ _ _ _ _ => rfl
  · exact tilePush_passes (cmd := valueCmd .tspm d b h n r) rfl hl fun _ _ _ _ _ => rfl
  · exact tilePush_passes (cmd := fun _ => mkCmd .tzero b h n r 0 [] 0 false) rfl hl fun _ _ _ _ _ => rfl
  · exact tilePush_passes (cmd := valueCmd .tldc d b h n r) rfl hl fun _ _ _ _ _ => rfl
  · exact tilePush_passes (cmd := fun t => mkCmd .tstc b h n r (t.readG d.toNat) [] 0 t.satMod) rfl hl fun _ _ _ _ _ => rfl
  · exact tilePush_passes (cmd := fun t => mkCmd .tgtha b h n r 0 (lanesOf (t.readV d.toNat)) 0 false) rfl hl fun _ _ _ _ _ => rfl
  · exact tilePush_sends (cmd := fun _ => mkCmd .abal b 0 0 0 0 [] (c.toNat + 1) false) rfl hl fun _ _ _ _ _ => rfl
  · exact tilePush_sends (cmd := fun _ => mkCmd .abfr b 0 0 0 0 [] (c.toNat + 1) false) rfl (by simp [hl, hb]) fun _ _ _ _ _ => rfl

end Sys2Proof

namespace Sys2Proof

open Machine

/-! ## How a tile command begins (R236, R237, R256 to R261) -/

section Begin

variable {s : State} {c q b : Nat} {m : TileCmd}

/-- The run that an ABAL finds lies among the 64 banks and is free. -/
theorem freeRun_spec {k : VCore} {n : Nat} (h : freeRun k n = some b) : b + n ≤ 64 ∧ ∀ i ∈ span b n, k.tile.ownerOf i = 16 := by
  have htop : bankTop k ≤ 64 := by
    unfold bankTop
    split <;> omega
  have hrun := List.find?_some h
  simp only [Bool.and_eq_true, decide_eq_true_eq, List.all_eq_true, beq_iff_eq] at hrun
  obtain ⟨hfits, hfree⟩ := hrun
  exact ⟨hfits.trans htop, hfree⟩

/-- What the search for a waiting ABAL finds: one that waits, and its run. -/
theorem waitingRun_spec {k : VCore} {e : Nat × TileCmd} (h : waitingRun k = some (e, b)) : e ∈ k.tile.waiting ∧ freeRun k e.2.n = some b := by
  obtain ⟨e', he', hb⟩ := List.exists_of_findSome?_eq_some h
  obtain ⟨b', hb', heq⟩ := Option.map_eq_some_iff.mp hb
  obtain ⟨rfl, rfl⟩ := Prod.mk.inj heq
  exact ⟨he', hb'⟩

theorem moves_takeRun (hr : settRuns s (settOf c) = true) (h : waitingRun (s.core c) = some ((q, m), b)) :
    Moves (.tileCommandBegin c) s (takeRun s c q m b) := by
  refine ⟨_, ?_, rfl⟩
  show execTileCommandBegin c s = _
  unfold execTileCommandBegin
  rw [hr, h]
  rfl

theorem moves_beginCommand (hr : settRuns s (settOf c) = true) (hw : waitingRun (s.core c) = none) (hi : engineIdleFor s c = true)
    (h : nextCommand s c = some (q, m)) : Moves (.tileCommandBegin c) s (beginCommand (takeCommand s c q m) c q m) := by
  refine ⟨_, ?_, rfl⟩
  show execTileCommandBegin c s = _
  unfold execTileCommandBegin
  rw [hr, hw, hi, h]
  rfl

/-- The rotation names one of the four queues (R237). -/
theorem nextCommand_queue (h : nextCommand s c = some (q, m)) : q < 4 := by
  obtain ⟨p, hp, hm⟩ := List.exists_of_findSome?_eq_some h
  obtain ⟨m', -, heq⟩ := Option.map_eq_some_iff.mp hm
  obtain ⟨rfl, rfl⟩ := Prod.mk.inj heq
  obtain ⟨i, -, rfl⟩ := List.mem_map.mp hp
  exact Nat.mod_lt _ (by omega)

@[simp] theorem setTile_tile (s : State) (c : Nat) (x : Tile) : ((s.setTile c x).core c).tile = x := by
  unfold State.setTile
  rw [setCore_core, if_pos rfl]

/-- A command that has begun is not in its queue. -/
theorem takeCommand_gone (hq : q < 4) : ∀ o ∈ (((takeCommand s c q m).core c).tile.queues.toList.getD q .reset).cmds, o.order ≠ m.order := by
  intro o ho
  unfold takeCommand at ho
  rw [setTile_tile, getD_setIfInBounds_self _ _ _ hq] at ho
  simpa using (List.mem_filter.mp ho).2

theorem beginCommand_tlda (h : m.op = .tlda) :
    beginCommand s c q m = endCommand (setStream s c q true ⟨.rows, tdAddr m.val, tdLd m.val, tdMask m.val, []⟩) c q m 0 0 := by
  unfold beginCommand
  rw [h]

theorem beginCommand_tldb (h : m.op = .tldb) : beginCommand s c q m =
    endCommand (setStream s c q false ⟨if tdSp m.val then .sparse else .rows, tdAddr m.val, tdLd m.val, tdMask m.val, []⟩) c q m 0 0 := by
  unfold beginCommand
  rw [h]

theorem beginCommand_tzero (h : m.op = .tzero) :
    let x := (s.core c).tile
    beginCommand s c q m = endCommand (s.setTile c { x with acc := fillHalf x.acc m.bank m.half (identityBits m.x) }) c q m 0 0 := by
  unfold beginCommand
  rw [h]
  rfl

theorem beginCommand_abal_some (h : m.op = .abal) (hb : abalRun (s.core c) m = some b) : beginCommand s c q m = takeRun s c q m b := by
  unfold beginCommand
  rw [h]
  dsimp only
  rw [hb]

theorem beginCommand_abal_none (h : m.op = .abal) (hb : abalRun (s.core c) m = none) :
    let x := (s.core c).tile
    beginCommand s c q m = s.setTile c { x with waiting := x.waiting ++ [(q, m)] } := by
  unfold beginCommand
  rw [h]
  dsimp only
  rw [hb]

theorem beginCommand_abfr (h : m.op = .abfr) : beginCommand s c q m =
    reply (endCommand (s.setTile c (setOwners (s.core c).tile (span m.bank m.n) 16)) c q m 0 0) ⟨c, m.thr⟩ 0 := by
  unfold beginCommand
  rw [h]

end Begin

/-! ## The chunks of a command (R257) -/

section CommandChunk

variable {s : State} {c : Nat} {r : TileRun} {l : Latch}

/-- With nothing latched and T13 not first, the engine goes on with the command that runs. -/
theorem moves_commandChunk_running (hr : settRuns s (settOf c) = true) (ht : t13First (s.core c) = false) (ha : (s.core c).resActive = false)
    (hl : (s.core c).tile.latch = none) (hrun : (s.core c).tile.running = [r]) : Moves (.tileChunk c 0) s (commandChunk s c r) := by
  refine ⟨_, ?_, rfl⟩
  show execTileChunk c 0 s = _
  unfold execTileChunk
  dsimp only
  rw [hl, hrun, ht, ha, hr]
  simp

/-- The chunk in flight of a command is finished, whatever stops the engine (R250). -/
theorem moves_commandChunk_latched (hl : (s.core c).tile.latch = some l) (hc : l.task = none)
    (hf : ((s.core c).tile.running.find? fun r => r.cmd.order == l.order) = some r) : Moves (.tileChunk c 0) s (commandChunk s c r) := by
  refine ⟨_, ?_, rfl⟩
  show execTileChunk c 0 s = _
  unfold execTileChunk
  dsimp only
  rw [hl]
  dsimp only
  rw [hc]
  dsimp only
  rw [hf]
  rfl

/-- What a command's chunk would latch. -/
def chunkOperands (s : State) (c : Nat) (r : TileRun) : Eng (List (Nat × Nat) × List Line × List Line) :=
  denseLatch s (windowOf s ⟨c, r.cmd.thr⟩) r.cmd.x r.a r.b r.a.addr r.b.addr r.k r.chunk r.pairs

theorem commandChunk_latches {p : List (Nat × Nat)} {rows cols : List Line} (hl : (s.core c).tile.latch = none)
    (h : chunkOperands s c r = .ok (p, rows, cols)) :
    commandChunk s c r = s.setTile c { (s.core c).tile with latch := some ⟨r.cmd.order, none, p, rows, cols, gatherOf r.a⟩ } := by
  unfold chunkOperands at h
  unfold commandChunk
  dsimp only
  rw [hl]
  dsimp only
  rw [h]

theorem commandChunk_fails {e : Nat} (hl : (s.core c).tile.latch = none) (h : chunkOperands s c r = .error e) :
    let x := (s.core c).tile
    let others := x.running.filter fun y => y.cmd.order != r.cmd.order
    commandChunk s c r = endCommand (s.setTile c { x with running := others }) c r.queue r.cmd r.flags e := by
  unfold chunkOperands at h
  unfold commandChunk
  dsimp only
  rw [hl]
  dsimp only
  rw [h]

/-- A latched chunk is added to the accumulators; the command goes on, or ends with its last chunk. -/
theorem commandChunk_adds (hl : (s.core c).tile.latch = some l) :
    let x := (s.core c).tile
    let others := x.running.filter fun y => y.cmd.order != r.cmd.order
    let q := tileChunk x.acc r.cmd.bank r.cmd.half r.cmd.x l.rows l.cols
    let x' := { x with acc := q.1, latch := none }
    commandChunk s c r = if chunksOf (l.pairs.headD (0, 0)) r.cmd.x r.k ≤ r.chunk + 1 then
        endCommand (s.setTile c { x' with running := others }) c r.queue r.cmd (orFlags r.flags q.2) 0
      else s.setTile c { x' with running := others ++ [{ r with chunk := r.chunk + 1, pairs := l.pairs, flags := orFlags r.flags q.2 }] } := by
  unfold commandChunk
  dsimp only
  rw [hl]

end CommandChunk

/-! ## The chunks of a task (R245) -/

section TaskChunk

variable {s : State} {c n u : Nat} {l : Latch} {y : TileTask}

/-- A task that runs on a core names it. -/
theorem core_of_runningTasks (h : (runningTasks s c)[n]? = some (u, y)) : y.core = c := by
  have hmem := List.mem_of_getElem? h
  unfold runningTasks at hmem
  simp only [List.mem_flatten, List.mem_map] at hmem
  obtain ⟨_, ⟨e, -, rfl⟩, hy⟩ := hmem
  obtain ⟨y', hy', heq⟩ := List.mem_map.mp hy
  obtain ⟨rfl, rfl⟩ := Prod.mk.inj heq
  have hruns := (List.mem_filter.mp hy').2
  simp only [Bool.and_eq_true, beq_iff_eq] at hruns
  exact hruns.2

/-- With nothing latched and no command before it, a task that has more to compute goes on. -/
theorem moves_taskChunk_running (hr : settRuns s (settOf c) = true) (ht : t13First (s.core c) = false) (hrun : (s.core c).tile.running = [])
    (hl : (s.core c).tile.latch = none) (hy : (runningTasks s c)[n]? = some (u, y)) (hf : y.finished = false)
    (hn : y.chunk ≠ 0 ∨ y.tile = 0 ∨ nextCommand s c = none) : Moves (.tileChunk c (n + 1)) s (taskChunk s u y) := by
  have hcmd : (y.chunk == 0 && decide (0 < y.tile) && (nextCommand s c).isSome) = false := by
    rcases hn with h | h | h
    · simp [h]
    · simp [h]
    · simp [h]
  refine ⟨_, ?_, rfl⟩
  show execTileChunk c (n + 1) s = _
  unfold execTileChunk
  dsimp only
  rw [hl, hr, hrun, ht, Nat.add_sub_cancel, hy]
  dsimp only
  rw [hf, hcmd]
  rfl

/-- The chunk in flight of a task is finished, whatever stops the engine (R250). -/
theorem moves_taskChunk_latched (hl : (s.core c).tile.latch = some l) (ht : l.task = some (u, y.id))
    (hy : (runningTasks s c)[n]? = some (u, y)) : Moves (.tileChunk c (n + 1)) s (taskChunk s u y) := by
  refine ⟨_, ?_, rfl⟩
  show execTileChunk c (n + 1) s = _
  unfold execTileChunk
  dsimp only
  rw [hl]
  dsimp only
  rw [ht]
  dsimp only
  rw [Nat.add_sub_cancel, hy]
  exact if_pos ⟨Nat.succ_ne_zero n, rfl, rfl⟩

theorem taskChunk_latches {p : Nat × Nat} {rows cols : List Line} (hl : (s.core y.core).tile.latch = none) (hc : y.chunk ≠ 0)
    (hn : taskChunks s u y ≠ 0) (h : taskLatch s u y = .ok (p, rows, cols)) :
    let x := (s.core y.core).tile
    taskChunk s u y =
      putTask (s.setTile y.core { x with latch := some ⟨0, some (u, y.id), [p], rows, cols, []⟩ }) u { y with pair := some p } := by
  unfold taskChunk
  dsimp only
  rw [hl]
  dsimp only
  rw [if_neg hc]
  simp only [if_neg hn, h]
  rfl

theorem taskChunk_adds (hl : (s.core y.core).tile.latch = some l) (hn : y.chunk + 1 < taskChunks s u y) :
    taskChunk s u y = putTask (addChunk s u y).1 u { y with chunk := y.chunk + 1, flags := (addChunk s u y).2 } := by
  unfold taskChunk
  dsimp only
  rw [hl]
  dsimp only
  rw [if_pos hn]

end TaskChunk

/-! ## Completion words (R265) -/

section CompletionWord

variable {s : State} {c q : Nat} {x : Tile} {e : TileEnd} {w : Word}

theorem moves_completionWordPost (hq : q < 4) (hw : dueWord (s.core c).tile q = some (e, w))
    (hroom : ((s.core c).tile.queues.toList.getD q .reset).done.length < 16) :
    let x := (s.core c).tile
    let tq := x.queues.toList.getD q .reset
    Moves (.completionWordPost c q) s (s.setTile c { x with queues := x.queues.setIfInBounds q { tq with
      done := tq.done ++ [w]
      ended := tq.ended.filter fun y => e.order < y.order } }) := by
  refine ⟨_, ?_, rfl⟩
  show execCompletionWordPost c q s = _
  unfold execCompletionWordPost
  dsimp only
  rw [hw]
  exact if_pos ⟨hq, hroom⟩

/-- The completion word of a command: its number, whether one of those that it covers failed, their flags and the first cause (R265). -/
def coveringWord (e : TileEnd) (es : List TileEnd) : Word :=
  let flags := es.foldl (fun f y => orFlags f y.flags) 0
  let cause := ((es.find? fun y => y.cause != 0).map (·.cause)).getD 0
  BitVec.ofNat 64 (e.seq + (if cause = 0 then 0 else 65536) + flags % 256 * 2 ^ 24 + cause % 256 * 2 ^ 32)

/-- What is known of a word that is due: it is of an ended command that notifies, and no command before it is unfinished. -/
theorem dueWord_spec (h : dueWord x q = some (e, w)) :
    let tq := x.queues.toList.getD q .reset
    ((∀ m ∈ tq.cmds, e.order ≤ m.order) ∧ (∀ r ∈ x.running, r.queue = q → e.order ≤ r.cmd.order) ∧
      (∀ y ∈ x.waiting, y.1 = q → e.order ≤ y.2.order)) ∧ (e ∈ tq.ended ∧ e.nt = true) ∧
    w = coveringWord e (tq.ended.filter fun y => y.order ≤ e.order) := by
  unfold dueWord at h
  dsimp only at h
  split at h
  · cases h
  next e' he =>
    split at h
    · cases h
    next hopen =>
      obtain ⟨rfl, rfl⟩ := Prod.mk.inj (Option.some.inj h)
      simp only [Bool.or_eq_true, List.any_eq_true, decide_eq_true_eq, Bool.and_eq_true, beq_iff_eq, not_or, not_exists, not_and, not_lt] at hopen
      obtain ⟨⟨hcmds, hruns⟩, hwaits⟩ := hopen
      exact ⟨⟨hcmds, hruns, hwaits⟩, ⟨List.mem_of_find?_eq_some he, List.find?_some he⟩, rfl⟩

/-- The word of a command that covers no other. -/
theorem coveringWord_single (hs : e.seq < 65536) :
    (coveringWord e [e]).toNat = e.seq + (if e.cause = 0 then 0 else 65536) + e.flags % 256 * 2 ^ 24 + e.cause % 256 * 2 ^ 32 := by
  have hflags : orFlags 0 e.flags = e.flags := Nat.zero_or _
  have hcause : (([e].find? fun y => y.cause != 0).map (·.cause)).getD 0 = e.cause := by
    by_cases h : e.cause = 0
    · simp [h]
    · simp [h]
  unfold coveringWord
  rw [hcause, List.foldl_cons, List.foldl_nil, hflags, BitVec.toNat_ofNat, Nat.mod_eq_of_lt]
  split <;> omega

end CompletionWord

/-- Settles O46: each step of the engine by what it finds: a command that may begin, one that runs, a task, or a word that is due. -/
theorem tileEngineSteps : Obligations.TileEngineSteps := by
  unfold Obligations.TileEngineSteps
  refine ⟨?run, ?begins, ?latches, ?adds, ?taskLatches, ?taskAdds, ?posts⟩
  case run =>
    intro c q b m s hr h x
    obtain ⟨hmem, hrun⟩ := waitingRun_spec h
    exact ⟨moves_takeRun hr h, rfl, hmem, freeRun_spec hrun⟩
  case begins =>
    intro c q m s hr hw hi h y z x
    exact ⟨moves_beginCommand hr hw hi h, takeCommand_gone (nextCommand_queue h), beginCommand_tlda, beginCommand_tldb, beginCommand_tzero,
      fun hop b => beginCommand_abal_some hop, beginCommand_abal_none, beginCommand_abfr⟩
  case latches =>
    intro c r s hr ht ha hl hrun x
    exact ⟨moves_commandChunk_running hr ht ha hl hrun, fun p rows cols => commandChunk_latches hl, fun e => commandChunk_fails hl⟩
  case adds =>
    intro c l r s hl hc hf x others q x'
    exact ⟨moves_commandChunk_latched hl hc hf, fun hn => (commandChunk_adds hl).trans (if_neg (Nat.not_le.mpr hn)),
      fun hn => (commandChunk_adds hl).trans (if_pos hn)⟩
  case taskLatches =>
    intro c n u y s hr ht hrun hl hy hf hn x
    obtain rfl := core_of_runningTasks hy
    exact ⟨moves_taskChunk_running hr ht hrun hl hy hf hn, fun p rows cols => taskChunk_latches hl⟩
  case taskAdds =>
    intro c n u l y s hl ht hy a
    obtain rfl := core_of_runningTasks hy
    exact ⟨moves_taskChunk_latched hl ht hy, taskChunk_adds hl⟩
  case posts =>
    intro c q e w s hq x tq hw hroom
    obtain ⟨⟨hcmds, hruns, hwaits⟩, ⟨hmem, hnt⟩, hword⟩ := dueWord_spec hw
    refine ⟨moves_completionWordPost hq hw hroom, hcmds, hruns, hwaits, hmem, hnt, fun hone hs => ?_⟩
    have hcovers : tq.ended.filter (fun y => y.order ≤ e.order) = [e] := by simp [hone]
    rw [hword, hcovers]
    exact coveringWord_single hs

end Sys2Proof

namespace Sys2Proof

open Machine

/-! ## TTASK and TGRP (R243, R266) -/

section TaskIssue

variable {w : BitVec 32} {st : BitVec 3} {d : BitVec 5} {s : State} {group : Bool} {kind : Via} {ks counts : List Nat}

/-- How TTASK and TGRP issue. -/
def recordForm (d : BitVec 5) : Form := { gForm [d] with cls := .irrev, home := true }

/-- What the frame of every instruction knows of them. -/
def recordOp (w : BitVec 32) (st : BitVec 3) (d : BitVec 5) : Op :=
  { word := w, stall := st.toNat, reads := [(.g, d.toNat)], cls := .irrev, home := true }

theorem recordOp_has (w : BitVec 32) (st : BitVec 3) (d : BitVec 5) : (recordOp w st d).Has (recordForm d) :=
  ⟨rfl, rfl, rfl, rfl, rfl, rfl, rfl, rfl⟩

/-- The task of the record `b`, whose bytes lie at `ks`, as it joins its unit (R244). -/
def recordTask (z : State) (t : Tid) (b : List Byte) (group : Bool) (counts ks : List Nat) : TileTask :=
  let v := viewOf z t
  ⟨nextTile z, b, group, counts, t, ks.headD 0, v.segBase, v.segLimit, 0, false, false,
    if trPin b then (coreOfVc z (ctxOf z t) (trPinvc b)).getD t.core else t.core, 0, 0, 0, none, 0, 0⟩

/-- The state in which a record's STATUS says that its task waits, and the task is the last of its unit's. -/
def withTask (z : State) (u : Nat) (y : TileTask) : State :=
  (writeStatus z y 0 0 0).setUnit u { z.unit u with
    tasks := (z.unit u).tasks ++ [y]
    nextTask := y.id + 1 }

/-- What becomes of a record whose count table and signal object are reached. -/
def handRecord (z : State) (t : Tid) (b : List Byte) (group : Bool) (counts ks : List Nat) : Except Stop (State × Next) :=
  if recordMalformed z t b group ≠ 0 then .error (.trap cTILE_MALFORMED (BitVec.ofNat 64 (recordMalformed z t b group)))
  else if 256 ≤ holtTiles z (unitOf z t) then .error (.park false .reissue)
  else .ok (withTask z (unitOf z t) (recordTask z t b group counts ks), .seq)

/-- Both instructions are a task issue, of a grouped record or of a single one. -/
theorem exec_taskIssue {q : BitVec 3} {e : BitVec 14} {i : Instr}
    (h : (i, group) ∈ ([(.ttask st d q e, false), (.tgrp st d q e, true)] : List (Instr × Bool))) (s : State) :
    ∃ w, exec i s = taskIssue w group st d s := by
  simp only [List.mem_cons, List.not_mem_nil, or_false, Prod.mk.injEq] at h
  obtain ⟨rfl, rfl⟩ | ⟨rfl, rfl⟩ := h
  · exact ⟨_, rfl⟩
  · exact ⟨_, rfl⟩

/-- The body of a task issue whose record, count table and signal object are reached. -/
theorem taskIssue_hands (hi : Issues (recordForm d) s)
    (hk : ownBlock (begun (recordForm d) s) s.cur (s.me.readG d.toNat) 64 64 rRD = .ok (kind, ks)) :
    let z := settlePosted (begun (recordForm d) s) s.cur ks
    let b := readPlaces z ks
    (group = true → countTable z s.cur b = .ok counts) → (group = false → counts = []) →
    (trSignal b ≠ 0 → ∃ k, segCheck z (viewOf z s.cur) (trSignal b) 16 rAMO = .ok k) →
    ∃ body, taskIssue w group st d s = issue (recordOp w st d) s body ∧
      body (begun (recordForm d) s) s.cur = handRecord z s.cur b group counts ks := by
  intro z b htable hnone hsignal
  refine ⟨_, rfl, ?_⟩
  rw [begun_readG hi.context]
  refine bind_of_ok hk ?_
  have hcounts : (if group then countTable z s.cur b else .ok []) = .ok counts := by
    cases group with
    | false => rw [hnone rfl]; rfl
    | true => exact htable rfl
  refine ifBind_of_ok hcounts ?_
  by_cases h0 : trSignal b = 0
  · refine (if_neg (not_not.mpr h0)).trans ?_
    rfl
  · obtain ⟨k, hseg⟩ := hsignal h0
    refine (if_pos h0).trans (bind_of_ok hseg ?_)
    rfl

end TaskIssue

section Hand

variable {z : State} {t : Tid} {b : List Byte} {group : Bool} {counts ks : List Nat}

theorem handRecord_malformed (h : recordMalformed z t b group ≠ 0) :
    handRecord z t b group counts ks = .error (.trap cTILE_MALFORMED (BitVec.ofNat 64 (recordMalformed z t b group))) := if_pos h

variable (h : recordMalformed z t b group = 0)
include h

theorem handRecord_full (hf : 256 ≤ holtTiles z (unitOf z t)) : handRecord z t b group counts ks = .error (.park false .reissue) :=
  (if_neg (not_not.mpr h)).trans (if_pos hf)

theorem handRecord_room (hf : holtTiles z (unitOf z t) < 256) :
    handRecord z t b group counts ks = .ok (withTask z (unitOf z t) (recordTask z t b group counts ks), .seq) :=
  (if_neg (not_not.mpr h)).trans (if_neg (Nat.not_le.mpr hf))

end Hand

/-! ## Dispatch (R244) -/

section Dispatch

variable {s z : State} {u v c n bank : Nat} {y : TileTask}

theorem mem_of_mem_heads {before es : List (Nat × TileTask)} {e : Nat × TileTask} (h : e ∈ heads s before es) : e ∈ es := by
  induction es generalizing before with
  | nil => exact h
  | cons x es ih =>
    unfold heads at h
    dsimp only at h
    split at h
    · exact .tail _ (ih h)
    · rcases List.mem_cons.mp h with rfl | h
      · exact .head _
      · exact .tail _ (ih h)

/-- The tokens that the dispatch of a task takes from its owner's account (R331). -/
def payTask (s : State) (u : Nat) (y : TileTask) : Option State :=
  let die := dieOf s y.issuer.core
  spend s (trOwner y.rec_) die 0 (taskCost s u y) ((taskWaiters s die).filter (· != trOwner y.rec_))

/-- A task that is served is one of the list, and its tokens are taken. -/
theorem servedTask_spec {es : List (Nat × TileTask)} (h : servedTask s es = some (z, u, y)) : (u, y) ∈ es ∧ payTask s u y = some z := by
  induction es with
  | nil => cases h
  | cons x es ih =>
    unfold servedTask at h
    dsimp only at h
    split at h
    next z' hz =>
      cases h
      exact ⟨.head _, hz⟩
    next =>
      obtain ⟨hmem, hpaid⟩ := ih h
      exact ⟨.tail _ hmem, hpaid⟩

theorem taskReady_of_mem_readyTasks (h : (u, y) ∈ readyTasks s v) : taskReady s u y = true := by
  obtain ⟨e, -, he⟩ := List.mem_flatMap.mp (mem_sortBy.mp h)
  obtain ⟨y', hy', heq⟩ := List.mem_map.mp he
  obtain ⟨rfl, rfl⟩ := Prod.mk.inj heq
  exact (List.mem_filter.mp hy').2

/-- The task that the scheduler chooses is ready, and its owner has paid for it. -/
theorem chooseTask_spec (h : chooseTask s u c bank = some (z, y)) :
    (u, y) ∈ readyTasks s u ∧ taskReady s u y = true ∧ payTask s u y = some z := by
  unfold chooseTask at h
  split at h
  next z' v y' hserved =>
    obtain ⟨⟨rfl, -⟩, heq⟩ := Option.ite_none_right_eq_some.mp h
    obtain ⟨rfl, rfl⟩ := Prod.mk.inj (Option.some.inj heq)
    obtain ⟨hmem, hpaid⟩ := servedTask_spec hserved
    have hready := mem_of_mem_heads hmem
    exact ⟨hready, taskReady_of_mem_readyTasks hready, hpaid⟩
  next => cases h

theorem moves_dispatchTask {ctx vh : Nat} (h : chooseTask s (ctx * 2 ^ 16 + vh) c bank = some (z, y)) :
    Moves (.taskDispatch ctx vh c bank) s (dispatchTask z (ctx * 2 ^ 16 + vh) y c bank) := by
  refine ⟨_, ?_, rfl⟩
  show execTaskDispatch ctx vh c bank s = _
  unfold execTaskDispatch
  dsimp only
  rw [h]

/-! ## The end of a task (R245, R251) -/

theorem moves_endTask (hy : (runningTasks s c)[n]? = some (u, y)) (hr : settRuns s (settOf c) = true) (hf : y.finished = true) :
    Moves (.taskCompletion c n) s (Machine.endTask s u y) := by
  refine ⟨_, ?_, rfl⟩
  show execTaskCompletion c n s = _
  unfold execTaskCompletion
  rw [hy]
  dsimp only
  rw [hr, hf]
  rfl

theorem endTask_done (hc : y.cause = 0) (hg : y.group = false) : Machine.endTask s u y = taskSignal (finishTask (releaseBanks s y) u y) u y := by
  unfold Machine.endTask
  rw [if_neg (not_not.mpr hc), hg]
  rfl

theorem endTask_failed (hc : y.cause ≠ 0) : Machine.endTask s u y = failTask s u y y.cause := if_pos hc

end Dispatch

/-- Settles O47: a record by whether it is malformed and the scheduler full; the choice of a task, and its end, by what they find. -/
theorem tileTasks : Obligations.TileTasks := by
  unfold Obligations.TileTasks
  refine ⟨?records, ?dispatch, fun c n u y s hy hr hf => ⟨moves_endTask hy hr hf, endTask_done, endTask_failed⟩⟩
  case records =>
    intro st d q e s i group hmem f kind ks counts hi hk z b v htable hnone hsignal bad u x
    obtain ⟨w, hw⟩ := exec_taskIssue hmem s
    obtain ⟨body, he, hb⟩ := taskIssue_hands (w := w) (st := st) hi hk htable hnone hsignal
    have hex := hw.trans he
    have has := recordOp_has w st d
    exact ⟨fun h => raises_of hex has rfl hi (hb.trans (handRecord_malformed h)),
      fun h hf => stops_of hex has rfl hi (hb.trans (handRecord_full h hf)),
      fun h hf => passes_of hex has hi (hb.trans (handRecord_room h hf))⟩
  case dispatch =>
    intro ctx vh c bank y s z u die h
    exact ⟨moves_dispatchTask h, chooseTask_spec h⟩

end Sys2Proof

namespace Sys2Proof

open Machine

/-! ## Appends at the home die (R280, R289, R291, R334) -/

section Append

variable {s z y y' : State} {src : Tid} {n id home : Nat} {cat : Bool} {e : LogEntry} {eval : Word}

/-- A call on its way whose home die's clock runs, and before which none goes, ends as its append does. -/
theorem moves_logAppend (hf : s.flights[n]? = some (.append src cat id e eval))
    (hd : (appendDie s cat id).any (fun d => !dieRuns s d) = false) (ho : olderAppend s n (appendDie s cat id) = false)
    (hz : appended { s with flights := s.flights.eraseIdx n } src cat id e eval = some z) : Moves (.logAppend n) s z := by
  refine ⟨_, ?_, rfl⟩
  show execLogAppend n s = _
  unfold execLogAppend
  rw [hf]
  dsimp only
  rw [hd, ho, hz]
  rfl

/-- An append pays a token of the Scribe, and a flit where its caller's die is not the home. -/
theorem payAppend_eq (hs : spend s (ctxOf s src) home 2 1 (scribeWaiters s home) = some y)
    (hi : if dieOf s (homeTid s src).core = home then y' = y
      else inject y (ctxOf s src) [(dieOf s (homeTid s src).core, 1)] = some y') : payAppend s src home = some y' := by
  unfold payAppend
  dsimp only
  rw [hs, Option.bind_some]
  split
  · rw [if_pos ‹_›] at hi
    rw [hi]
  · rwa [if_neg ‹_›] at hi

section Objects

variable {o : Obj}

theorem appendObj_absent (h : s.objects.find? id = none) : appendObj s src id e eval = some (replyTrap s src cOBJ_ABSENT eval) := by
  unfold appendObj
  rw [h]

theorem appendObj_last (h : s.objects.find? id = some o) (ht : lastVersion ≤ o.tail) :
    appendObj s src id e eval = some (replyTrap s src cOPERAND_RANGE eval) := by
  unfold appendObj
  rw [h]
  exact if_pos ht

/-- The object with a call of the thread `t` as its next version, appended in state `z`. -/
def Machine.Obj.withCall (o : Obj) (z : State) (t : Tid) (e : LogEntry) : Obj :=
  { o with
    tail := o.tail + 1
    log := o.log ++ [{ e with version := o.tail + 1 }]
    last := some (dieCycle z o.home, sourceOf z (homeTid z t)) }

theorem appendObj_paid (h : s.objects.find? id = some o) (ht : o.tail < lastVersion) (hf : o.full s = false)
    (hp : payAppend s src o.home = some y) :
    appendObj s src id e eval = some (reply ((appendCycle y src o.home o.last).setObj id (o.withCall (appendCycle y src o.home o.last) src e))
      src (BitVec.ofNat 64 (o.tail + 1))) := by
  unfold appendObj
  rw [h]
  dsimp only
  rw [if_neg (Nat.not_le.mpr ht), hf]
  simp only [Bool.false_eq_true, if_false]
  rw [hp]
  rfl

end Objects

section Catalogues

variable {c : Cat}

theorem appendCat_absent (h : s.cats.find? id = none) : appendCat s src id e eval = some (replyTrap s src cCAT_ABSENT eval) := by
  unfold appendCat
  rw [h]

theorem appendCat_noRoom (h : s.cats.find? id = some c) (hm : e.method = 0) (hc : c.cap ≤ c.stored) :
    appendCat s src id e eval = some (replyTrap s src cCAT_FULL (BitVec.ofNat 64 c.cap)) := by
  unfold appendCat
  rw [h]
  exact if_pos ⟨hm, hc⟩

/-- The Catalogue with a call of the thread `t` as its next version, appended in state `z`. -/
def Machine.Cat.withCall (c : Cat) (z : State) (t : Tid) (e : LogEntry) : Cat :=
  { c.tell (homeTid z t) (c.tail + 1) with
    tail := c.tail + 1
    stored := if e.method = 0 then c.stored + 1 else c.stored
    log := c.log ++ [{ e with version := c.tail + 1 }]
    last := some (dieCycle z c.home, sourceOf z (homeTid z t)) }

theorem appendCat_paid (h : s.cats.find? id = some c) (hm : e.method = 0 → c.stored < c.cap) (ht : c.tail < lastVersion)
    (hf : c.full s = false) (hp : payAppend s src c.home = some y) :
    appendCat s src id e eval = some (reply ((appendCycle y src c.home c.last).setCat id (c.withCall (appendCycle y src c.home c.last) src e))
      src (BitVec.ofNat 64 (c.tail + 1))) := by
  unfold appendCat
  rw [h]
  dsimp only
  rw [if_neg fun hfull => Nat.not_le.mpr (hm hfull.1) hfull.2, if_neg (Nat.not_le.mpr ht), hf]
  simp only [Bool.false_eq_true, if_false]
  rw [hp]
  rfl

end Catalogues

end Append

/-! ## Replay (R283) -/

section Replay

variable {s : State} {id d : Nat} {o : Obj} {c : Cat} {e : LogEntry} {m : Method}

theorem moves_applyObj (he : (enabledDies s).contains d = true) (hr : dieRuns s d = true) (ho : s.objects.find? id = some o) :
    Moves (.entryApply false id d) s (reapObj (replayObj s id d o) id) := by
  refine ⟨_, ?_, rfl⟩
  show execEntryApply false id d s = _
  unfold execEntryApply
  rw [he, hr, ho]
  rfl

theorem moves_applyCat (he : (enabledDies s).contains d = true) (hr : dieRuns s d = true) (hc : s.cats.find? id = some c) :
    Moves (.entryApply true id d) s (reapCat (replayCat s id d c) id) := by
  refine ⟨_, ?_, rfl⟩
  show execEntryApply true id d s = _
  unfold execEntryApply
  rw [he, hr, hc]
  rfl

@[simp] theorem noteSpent_objects (n : Nat) (s : State) (x i cost : Nat) : (noteSpent n s x i cost).objects = s.objects := by
  induction n generalizing s x with
  | zero => rfl
  | succ n ih =>
    unfold noteSpent
    dsimp only
    split
    · rfl
    · rw [ih, setCtx_objects]

@[simp] theorem chargeAlways_objects (s : State) (x die cls cost : Nat) : (chargeAlways s x die cls cost).objects = s.objects := by
  unfold chargeAlways
  dsimp only
  rw [noteSpent_objects, setCtx_objects]

theorem Machine.Obj.copy_setCopy_self (o : Obj) (c : ObjCopy) (hd : d < 4) : (o.setCopy d c).copy d = c := by
  simp [Obj.copy, Obj.setCopy, Vector.toList_setIfInBounds, List.getD_eq_getElem?_getD, hd]

theorem Machine.Obj.copy_setCopy_ne (o : Obj) (c : ObjCopy) {i : Nat} (h : i ≠ d) : (o.setCopy d c).copy i = o.copy i := by
  simp [Obj.copy, Obj.setCopy, Vector.toList_setIfInBounds, List.getD_eq_getElem?_getD, h.symm]

/-- The object after a replay: the die's copy is the one that the entry leaves. -/
theorem replayObj_find? (he : o.log.find? (fun e => e.version == (o.copy d).applied + 1) = some e) :
    ∃ log, (replayObj s id d o).objects.find? id = some { o.setCopy d (applyEntry o (o.copy d) e).1 with log := log } := by
  unfold replayObj
  dsimp only
  rw [he]
  dsimp only
  split
  · rw [chargeAlways_objects]
    exact ⟨_, KMap.find?_insert_self _ _ _⟩
  · exact ⟨_, KMap.find?_insert_self _ _ _⟩

/-- An entry's method runs on the copy under the entry's version and caller. -/
def entryRun (o : Obj) (c : ObjCopy) (e : LogEntry) (m : Method) : MethodEnd :=
  runMethod (field o.code 60 0) o.codeLen o.codeBytes o.size c.state m e.version (callerWord e.callerVc e.callerThr e.callerCtx) e.args

theorem applyEntry_of_method (c : ObjCopy) (hm : o.methods[e.method]? = some m) :
    (applyEntry o c e).1.applied = e.version ∧ (applyEntry o c e).1.state = (entryRun o c e m).state := by
  unfold applyEntry
  rw [hm]
  exact ⟨rfl, rfl⟩

/-- The die's copy takes the entry's version and the state that its method leaves; the other copies stay. -/
theorem replayObj_copies (hd : d < 4) (he : o.log.find? (fun e => e.version == (o.copy d).applied + 1) = some e)
    (hm : o.methods[e.method]? = some m) : ∃ o', (replayObj s id d o).objects.find? id = some o' ∧ (o'.copy d).applied = e.version ∧
      (o'.copy d).state = (entryRun o (o.copy d) e m).state ∧ (∀ i < 4, i ≠ d → o'.copy i = o.copy i) := by
  obtain ⟨log, hfind⟩ := replayObj_find? (s := s) (id := id) he
  obtain ⟨happlied, hstate⟩ := applyEntry_of_method (o.copy d) hm
  have hself := o.copy_setCopy_self (applyEntry o (o.copy d) e).1 hd
  exact ⟨_, hfind, (congrArg ObjCopy.applied hself).trans happlied, (congrArg ObjCopy.state hself).trans hstate,
    fun i _ hi => o.copy_setCopy_ne _ hi⟩

end Replay

/-! ## Pending reads and searches (R282, R297, R299) -/

section Pending

variable {s z : State} {c t : Nat} {k : KeptRead} {o : Obj} {m : Method} {q : Search} {k' : Cat} {n : Nat}

/-- A read's method runs on the copy of the reader's die under the version that the die has applied. -/
def readRun (s : State) (c t : Nat) (k : KeptRead) (o : Obj) (m : Method) : MethodEnd :=
  let x := ctxOf s ⟨c, t⟩
  let cp := o.copy (dieOf s c)
  runMethod (field o.code 60 0) o.codeLen o.codeBytes o.size cp.state m cp.applied (callerWord (vcIn s x c) t x) k.args

theorem moves_rreadRun (hk : pendingRead s ⟨c, t⟩ = some (k, o)) (ht : k.target ≤ (o.copy (dieOf s c)).applied)
    (hr : dieRuns s (dieOf s c) = true) (hm : o.methods[k.method]? = some m)
    (hs : spend s (ctxOf s ⟨c, t⟩) (dieOf s c) 2 1 (scribeWaiters s (dieOf s c)) = some z) :
    let q := readRun s c t k o m
    let y := chargeAlways z (ctxOf s ⟨c, t⟩) (dieOf s c) 2 (q.words - 1)
    Moves (.rreadRun c t) s (wake (y.setThread ⟨c, t⟩ ((y.thread ⟨c, t⟩).setKept (some { k with
      done := some ((o.copy (dieOf s c)).applied, q.outcome, q.cause, q.result) }))) ⟨c, t⟩) := by
  refine ⟨_, ?_, rfl⟩
  show execRreadRun c t s = _
  unfold execRreadRun
  dsimp only
  rw [hk]
  dsimp only
  rw [decide_eq_false (Nat.not_lt.mpr ht), hr, hm, hs]
  rfl

/-- The snapshot at which a search is admitted (R297, log 71). -/
def snapshotOf (s : State) (id : Tid) (q : Search) (k : Cat) : Nat :=
  max q.least (if q.localMode then (k.copy (dieOf s id.core)).applied
    else k.least (homeTid s id) + Config.tailSeen s.freeCount % (k.tail - k.least (homeTid s id) + 1))

theorem moves_searchAdmission (hq : pendingSearch s ⟨c, t⟩ = some (q, k')) (hr : dieRuns s (dieOf s c) = true) (hn : q.snap = none)
    (hc : k'.closing = false) (hs : spend s (ctxOf s ⟨c, t⟩) (dieOf s c) 2 1 (scribeWaiters s (dieOf s c)) ≠ none) :
    let n := snapshotOf s ⟨c, t⟩ q k'
    let y := if q.localMode then s else s.setCat q.cat (k'.tell (homeTid s ⟨c, t⟩) n)
    Moves (.searchAdmission c t) s (y.setThread ⟨c, t⟩ { (s.thread ⟨c, t⟩).setKeptSnap (some ⟨(s.thread ⟨c, t⟩).chainStart, q.cat, n⟩) with
      search := some { q with snap := some n } }) := by
  refine ⟨_, ?_, rfl⟩
  obtain ⟨z, hz⟩ := Option.ne_none_iff_exists'.mp hs
  show execSearchAdmission c t s = _
  unfold execSearchAdmission
  dsimp only
  rw [hq]
  dsimp only
  rw [hn, hc, hr, hz]
  rfl

theorem moves_searchStep (hq : pendingSearch s ⟨c, t⟩ = some (q, k')) (hr : dieRuns s (dieOf s c) = true) (hn : q.snap = some n)
    (ha : n ≤ (k'.copy (dieOf s c)).applied) :
    let p := searchPass k' (k'.copy (dieOf s c)).entries n q
    spend s (ctxOf s ⟨c, t⟩) (dieOf s c) 2 p.2 (scribeWaiters s (dieOf s c)) = some z →
    let y := z.setThread ⟨c, t⟩ { z.thread ⟨c, t⟩ with search := some p.1 }
    Moves (.searchStep c t) s (if p.1.done then wake y ⟨c, t⟩ else y) := by
  intro p hz
  refine ⟨_, ?_, rfl⟩
  show execSearchStep c t s = _
  unfold execSearchStep
  dsimp only
  rw [hq]
  dsimp only
  rw [hn]
  dsimp only
  rw [decide_eq_false (Nat.not_lt.mpr ha), hr]
  simp only [Bool.not_true, Bool.or_self, Bool.false_eq_true, if_false]
  rw [hz]

end Pending

/-- Settles O50: an append by what it finds at the home die; a replay by the entry it applies; reads and searches by their step. -/
theorem logsAndReplay : Obligations.LogsAndReplay := by
  unfold Obligations.LogsAndReplay
  refine ⟨?append, ?replay, fun id d c s => moves_applyCat, fun c t k o m s z hk ht hr hm hs => moves_rreadRun hk ht hr hm hs, ?search⟩
  case append =>
    intro n src cat id e eval s y y' home hf z here paid at_ hd ho
    refine ⟨fun hcat => ?_, fun hcat => ?_⟩
    · subst hcat
      refine ⟨fun h => moves_logAppend hf hd ho (appendObj_absent h), fun o h ht => moves_logAppend hf hd ho (appendObj_last h ht), ?_⟩
      intro o h ht hfull hhome hpaid
      subst hhome
      exact moves_logAppend hf hd ho (appendObj_paid h ht hfull (payAppend_eq hpaid.1 hpaid.2))
    · subst hcat
      refine ⟨fun h => moves_logAppend hf hd ho (appendCat_absent h), fun c h hm hc => moves_logAppend hf hd ho (appendCat_noRoom h hm hc), ?_⟩
      intro c h hm ht hfull hhome hpaid
      subst hhome
      exact moves_logAppend hf hd ho (appendCat_paid h hm ht hfull (payAppend_eq hpaid.1 hpaid.2))
  case replay =>
    intro id d o s hd he hr ho
    exact ⟨moves_applyObj he hr ho, fun e m he hm => replayObj_copies hd he hm⟩
  case search =>
    intro c t q k s id hq hr
    exact ⟨fun hn hc hs => moves_searchAdmission hq hr hn hc hs, fun n z hn ha hz => moves_searchStep hq hr hn ha hz⟩

end Sys2Proof

namespace Sys2Proof

open Machine

/-! ## A thread that parks by its own meaning -/

section Park

variable {z : State} {t : Tid} {w : Wait}

theorem KMap.insert_insert {α : Type} (m : KMap α) (i : Nat) (x y : α) : (m.insert i x).insert i y = m.insert i y := by
  induction m with
  | nil => simp [KMap.insert]
  | cons e m ih =>
    simp only [KMap.insert]
    split
    · simp [KMap.insert]
    · split
      · simp [KMap.insert]
      · simp [KMap.insert, *]

/-- Of two values put for one thread the later stays. -/
theorem setThread_setThread (z : State) (t : Tid) (x y : Thread) : (z.setThread t x).setThread t y = z.setThread t y := by
  cases hm : z.meth with
  | some m => simp [State.setThread, hm]
  | none =>
    simp only [State.setThread, hm, setCore_meth, setCore_core, if_true]
    simp only [State.setCore, KMap.insert_insert, VCore.setThread, Vector.setIfInBounds_setIfInBounds]

/-- A park that is not for a protection changes the thread alone: its run, and where it stands. -/
theorem park_eq (hw : w ≠ .protect) : ∃ n, park z t false w =
    { z.setThread t { (z.thread t).rewind with run := .parkedEngine w n, scGo := false, turn := none } with parkCount := z.parkCount + 1 } := by
  unfold park
  rw [if_neg hw]
  exact ⟨_, rfl⟩

theorem park_objects (hw : w ≠ .protect) : (park z t false w).objects = z.objects := by
  obtain ⟨n, h⟩ := park_eq (z := z) (t := t) hw
  rw [h]
  exact setThread_objects _ _ _

theorem park_thread (ht : t.thr < 16) (hw : w ≠ .protect) :
    ∃ n, (park z t false w).thread t = { (z.thread t).rewind with run := .parkedEngine w n, scGo := false, turn := none } := by
  obtain ⟨n, h⟩ := park_eq (z := z) (t := t) hw
  rw [h]
  exact ⟨n, setThread_thread _ _ _ ht⟩

theorem park_run (ht : t.thr < 16) (hw : w ≠ .protect) : ∃ n, ((park z t false w).thread t).run = .parkedEngine w n := by
  obtain ⟨n, h⟩ := park_thread (z := z) ht hw
  exact ⟨n, congrArg Thread.run h⟩

theorem park_kept (ht : t.thr < 16) (hw : w ≠ .protect) : ((park z t false w).thread t).kept = (z.thread t).kept := by
  obtain ⟨n, h⟩ := park_thread (z := z) ht hw
  rw [h]
  unfold Thread.rewind
  split
  · rfl
  · rfl

@[simp] theorem setKept_kept (x : Thread) (k : Option KeptRead) : (x.setKept k).kept = k := by
  unfold Thread.setKept
  split
  · exact if_pos ‹_›
  · exact if_neg ‹_›

end Park

/-! ## Objects by their number (R273, R279) -/

section Named

variable {z : State} {t : Tid} {id : Nat} {o : Obj}

/-- An object that a thread may call it may also name while it goes on waiting. -/
theorem objOf_old (h : objOf z t id false = some o) (old : Bool) : objOf z t id old = some o := by
  unfold objOf at h ⊢
  split at h
  · cases h
  · obtain ⟨hopen, heq⟩ := Option.ite_none_right_eq_some.mp h
    rw [← heq]
    simp only [Bool.and_eq_true, Bool.false_or] at hopen
    exact if_pos (by simp [hopen.1, hopen.2])

theorem objOf_gone (h : objOf z t id true = none) (old : Bool) : objOf z t id old = none := by
  cases old with
  | true => exact h
  | false =>
    by_contra hne
    obtain ⟨o, ho⟩ := Option.ne_none_iff_exists'.mp hne
    rw [objOf_old ho true] at h
    cases h

end Named

end Sys2Proof

namespace Sys2Proof

open Machine

/-! ## RCALL (R280) -/

section Calls

variable {x : BitVec 32} {st : BitVec 3} {d a b : BitVec 5} {s z : State} {t : Tid} {w : Word} {nb : Bool} {kind : Via} {ks : List Nat} {o : Obj}

/-- How RCALL and RWAIT issue. -/
def objCallForm (a b : BitVec 5) : Form := { gForm [a, b] with cls := .irrev, home := true }

/-- What the frame of every instruction knows of them. -/
def objCallOp (x : BitVec 32) (st : BitVec 3) (a b : BitVec 5) : Op :=
  { word := x, stall := st.toNat, reads := [(.g, a.toNat), (.g, b.toNat)], cls := .irrev, home := true }

theorem objCallOp_has : (objCallOp x st a b).Has (objCallForm a b) := ⟨rfl, rfl, rfl, rfl, rfl, rfl, rfl, rfl⟩

/-- The state in which a thread's call is on its way to the log. -/
def sentCall (z : State) (t : Tid) (w : Word) (args : List Byte) : State :=
  let x := ctxOf z t
  { z with flights := z.flights ++ [.append t false (selObj w) ⟨0, selMethod w, 0, vcIn z x t.core, t.thr, x, 0, args, 0, [], 0⟩ w] }

/-- What a call of the object `o` does. -/
def callObj (z : State) (t : Tid) (d : BitVec 5) (w : Word) (nb : Bool) (kind : Via) (ks : List Nat) (o : Obj) : Except Stop (State × Next) :=
  if (o.method (selMethod w) true).isNone ∨ lastVersion ≤ o.tail then .error (.trap cOPERAND_RANGE w)
  else if o.full z then if nb then gives z t d (BitVec.allOnes 64) else .error (.park false .reissue)
  else loadAt z t kind ks >>= fun q => .ok (sentCall (drainPosted q.1 t) t w q.2, .sent false d.toNat)

theorem exec_rcall {i : Instr} (h : (i, nb) ∈ ([(.rcall st d a b, false), (.rcallNb st d a b, true)] : List (Instr × Bool))) (s : State) :
    ∃ x, exec i s = issue (objCallOp x st a b) s (rcallBody a.toNat b.toNat d.toNat nb) := by
  simp only [List.mem_cons, List.not_mem_nil, or_false, Prod.mk.injEq] at h
  obtain ⟨rfl, rfl⟩ | ⟨rfl, rfl⟩ := h
  · exact ⟨_, rfl⟩
  · exact ⟨_, rfl⟩

section Body

variable (hw : (z.thread t).readG a.toNat = w) (hk : ownBlock z t ((z.thread t).readG b.toNat) 96 32 rRD = .ok (kind, ks))
include hw hk

theorem rcallBody_absent (ho : objOf z t (selObj w) false = none) :
    rcallBody a.toNat b.toNat d.toNat nb z t = .error (.trap cOBJ_ABSENT w) := by
  unfold rcallBody
  dsimp only
  rw [hw, ho]
  exact bind_of_ok hk rfl

theorem rcallBody_calls (ho : objOf z t (selObj w) false = some o) :
    rcallBody a.toNat b.toNat d.toNat nb z t = callObj z t d w nb kind ks o := by
  unfold rcallBody
  dsimp only
  rw [hw, ho]
  refine bind_of_ok hk ?_
  show (if (o.method (selMethod w) true).isNone then _ else _) = _
  by_cases hm : (o.method (selMethod w) true).isNone
  · exact (if_pos hm).trans (if_pos (.inl hm)).symm
  · refine (if_neg hm).trans ?_
    by_cases ht : lastVersion ≤ o.tail
    · exact (if_pos ht).trans (if_pos (.inr ht)).symm
    · refine (if_neg ht).trans (Eq.trans ?_ (if_neg (not_or.mpr ⟨hm, ht⟩)).symm)
      rfl

end Body

theorem callObj_refused (h : o.method (selMethod w) true = none ∨ lastVersion ≤ o.tail) :
    callObj z t d w nb kind ks o = .error (.trap cOPERAND_RANGE w) :=
  if_pos (h.imp_left Option.isNone_iff_eq_none.mpr)

variable (hm : o.method (selMethod w) true ≠ none) (ht : o.tail < lastVersion)
include hm ht

theorem callObj_admitted : callObj z t d w nb kind ks o =
    if o.full z then if nb then gives z t d (BitVec.allOnes 64) else .error (.park false .reissue)
    else loadAt z t kind ks >>= fun q => .ok (sentCall (drainPosted q.1 t) t w q.2, .sent false d.toNat) :=
  if_neg (not_or.mpr ⟨fun h => hm (Option.isNone_iff_eq_none.mp h), Nat.not_le.mpr ht⟩)

theorem callObj_busy (hf : o.full z = true) : callObj z t d w true kind ks o = gives z t d (BitVec.allOnes 64) :=
  (callObj_admitted hm ht).trans (if_pos hf)

theorem callObj_parks (hf : o.full z = true) : callObj z t d w false kind ks o = .error (.park false .reissue) :=
  (callObj_admitted hm ht).trans (if_pos hf)

theorem callObj_sends {y : State} {args : List Byte} (hf : o.full z = false) (hl : loadAt z t kind ks = .ok (y, args)) :
    callObj z t d w nb kind ks o = .ok (sentCall (drainPosted y t) t w args, .sent false d.toNat) :=
  (callObj_admitted hm ht).trans ((if_neg (Bool.eq_false_iff.mp hf)).trans (bind_of_ok hl rfl))

end Calls

end Sys2Proof

namespace Sys2Proof

open Machine

/-! ## Where setts lie while a thread's access is made (R78, R82, R201, R326) -/

/-- Every sett lies in `z` where it lies in `s`: a read in local mode asks for its die once it has loaded its arguments. -/
def SamePlaces (s z : State) : Prop := ∀ i, (z.sett i).place = (s.sett i).place

namespace SamePlaces

variable {s y z : State}

protected theorem refl (s : State) : SamePlaces s s := fun _ => rfl

/-- A core's die is that of its sett's place. -/
protected theorem dieOf (h : SamePlaces s z) (c : Nat) : dieOf z c = dieOf s c := by
  unfold Machine.dieOf Sett.die
  rw [h]

protected theorem setSett (h : SamePlaces s y) {i : Nat} {x : Sett} (hx : x.place = (y.sett i).place) : SamePlaces s (y.setSett i x) := by
  intro j
  rw [setSett_sett]
  split
  · rw [hx, ← h, ‹j = i›]
  · exact h j

protected theorem setCore (h : SamePlaces s y) {c : Nat} {x : VCore} : SamePlaces s (y.setCore c x) := h

protected theorem setUnit (h : SamePlaces s y) {u : Nat} {x : HoltUnit} : SamePlaces s (y.setUnit u x) := h

protected theorem setThread (h : SamePlaces s y) {t : Tid} {x : Thread} : SamePlaces s (y.setThread t x) := fun i => by
  rw [setThread_sett, h]

protected theorem ite {c : Prop} [Decidable c] (hy : SamePlaces s y) (hz : SamePlaces s z) : SamePlaces s (if c then y else z) := by
  split
  · exact hy
  · exact hz

protected theorem foldl {α : Type} {f : State → α → State} (h : SamePlaces s y) (hf : ∀ x a, SamePlaces s x → SamePlaces s (f x a))
    (as : List α) : SamePlaces s (as.foldl f y) := List.foldlRecOn _ _ h fun x hx a _ => hf x a hx

protected theorem writePlace (h : SamePlaces s y) {k : Nat} {b : Byte} : SamePlaces s (writePlace y k b) := by
  unfold Machine.writePlace
  split
  · exact h
  · exact h.setSett rfl
  · exact h
  · exact h
  · exact h
  · split
    · exact h
    · exact h

protected theorem writePlaces (h : SamePlaces s y) {ks : List Nat} {bs : List Byte} : SamePlaces s (writePlaces y ks bs) := by
  induction ks generalizing y bs with
  | nil => exact h
  | cons k ks ih =>
    cases bs with
    | nil => exact h
    | cons b bs => exact ih h.writePlace

protected theorem useVia (h : SamePlaces s y) {t : Tid} {w : Via} {n : Nat} : SamePlaces s (useVia y t w n) := by
  rcases useVia_cases y t w n with e | ⟨i, r, p, e⟩
  · rw [e]
    exact h
  · rw [e]
    exact h.setSett rfl

protected theorem undoLog (h : SamePlaces s y) {v : OTask} {es : List (Nat × Word)} : SamePlaces s (undoLog y v es) := by
  induction es generalizing y with
  | nil => exact h
  | cons e es ih => exact ih h.writePlaces

protected theorem leaveTask (h : SamePlaces s y) {t : Tid} : SamePlaces s (leaveTask y t) := by
  refine SamePlaces.setThread ?_
  unfold forgetMiss
  split
  · exact h.setCore
  · exact h

protected theorem abortTasks (h : SamePlaces s y) {u : Nat} {roots : List (Nat × Nat)} : SamePlaces s (abortTasks y u roots) :=
  SamePlaces.setUnit <| h.foldl (fun _ _ hx =>
    have hv := (SamePlaces.ite hx.leaveTask hx).undoLog
    .ite hv hv.setCore) _

protected theorem logWords (h : SamePlaces s y) {t : Tid} {v : OTask} {ws : List Nat} : SamePlaces s (logWords y t v ws).1 := by
  induction ws with
  | nil => exact h
  | cons w ws ih =>
    unfold Machine.logWords
    dsimp only
    split
    · exact ih
    · exact ih.setCore

protected theorem trackTask (h : SamePlaces s y) {t : Tid} {kind : Nat} {ks : List Nat} {rd wr does : Bool} :
    Gives (SamePlaces s) (trackTask y t kind ks rd wr does) := by
  unfold Machine.trackTask
  split
  · exact h
  · split
    · exact h
    · have hz : ∀ {u ks}, SamePlaces s (if ks.isEmpty = true then y else abortTasks y u ks) := .ite h h.abortTasks
      exact .ite trivial (.ite hz (.ite trivial hz.logWords.setUnit))

protected theorem applyPosted (h : SamePlaces s y) {src : Tid} {entry x place size : Nat} {val : Word} {k6 : Bool} {dpa : Nat}
    {task : Option (Nat × Nat)} : SamePlaces s (applyPosted y src entry x place size val k6 dpa task) := by
  unfold Machine.applyPosted
  split
  · exact SamePlaces.setCore (SamePlaces.writePlaces (.ite h h.abortTasks))
  · exact .ite h.setCore.setThread h.setCore.setThread

protected theorem orderStores (h : SamePlaces s y) {t : Tid} : SamePlaces s (orderStores y t) := .ite h h.setThread

protected theorem passOn (h : SamePlaces s y) {t : Tid} : SamePlaces s (passOn y t) := .ite h h

protected theorem drainPosted (h : SamePlaces s y) {t : Tid} : SamePlaces s (drainPosted y t) := by
  refine SamePlaces.orderStores (SamePlaces.passOn (h.foldl (fun z f hz => ?_) _))
  split
  · exact .ite hz.applyPosted hz
  · exact hz

/-- A load by a thread moves no sett. -/
protected theorem loadAt (h : SamePlaces s y) {t : Tid} {via : Via} {ks : List Nat} : Gives (SamePlaces s ·.1) (loadAt y t via ks) := by
  have hz : SamePlaces s (settlePosted (useVia y t via ks.length) t ks) := .ite h.useVia.drainPosted h.useVia
  have ht : Gives (SamePlaces s) (track y t via ks true false) := SamePlaces.trackTask hz.orderStores
  exact ht.bind fun _ hx => hx

end SamePlaces

/-! ## RREAD (R282) -/

section Reads

variable {x : BitVec 32} {st : BitVec 3} {d a b : BitVec 5} {s z : State} {t : Tid} {w : Word} {loc : Bool} {kind : Via} {ks : List Nat} {o : Obj}

/-- How RREAD issues. -/
def objReadForm (a b : BitVec 5) : Form := { gForm [a, b] with home := true, keeps := true }

/-- What the frame of every instruction knows of RREAD. -/
def objReadOp (x : BitVec 32) (st : BitVec 3) (a b : BitVec 5) : Op :=
  { word := x, stall := st.toNat, reads := [(.g, a.toNat), (.g, b.toNat)], home := true, keeps := true }

theorem objReadOp_has : (objReadOp x st a b).Has (objReadForm a b) := ⟨rfl, rfl, rfl, rfl, rfl, rfl, rfl, rfl⟩

theorem exec_rread {i : Instr} (h : (i, loc) ∈ ([(.rread st d a b, false), (.rreadLocal st d a b, true)] : List (Instr × Bool))) (s : State) :
    ∃ x, exec i s = issue (objReadOp x st a b) s (rreadBody a.toNat b.toNat d.toNat loc) := by
  simp only [List.mem_cons, List.not_mem_nil, or_false, Prod.mk.injEq] at h
  obtain ⟨rfl, rfl⟩ | ⟨rfl, rfl⟩ := h
  · exact ⟨_, rfl⟩
  · exact ⟨_, rfl⟩

/-- An instruction that keeps what its thread's read has fixed finds the thread as it was. -/
theorem begun_thread_of_keeps {f : Form} (ht : s.cur.thr < 16) (hf : f.keeps = true) : (begun f s).thread s.cur = s.me := by
  have h := begun_me (f := f) ht
  rwa [State.me, begun_cur, if_pos hf] at h

/-- The read that a thread has admitted at this chain for the object and method that the selector `w` names. -/
def admittedRead (x : Thread) (w : Word) : Option KeptRead :=
  x.kept.filter fun r => r.chain == x.chainStart && r.obj == selObj w && r.method == selMethod w

/-- The read as its first issue fixes it: the target is the version asked for, or the tail if later, in local mode the version that
the reader's die has applied. -/
def firstRead (z : State) (t : Tid) (w : Word) (loc : Bool) (o : Obj) (args : List Byte) : KeptRead :=
  ⟨(z.thread t).chainStart, selObj w, selMethod w, max (selVersion w) (if loc then (o.copy (dieOf z t.core)).applied else o.tail), args, none⟩

/-- The state in which the thread has kept the read `k` and is parked until its method has run. -/
def parkForRead (y : State) (t : Tid) (k : KeptRead) : State :=
  park (y.setThread t ((dropKept (y.thread t)).setKept (some k))) t false .scribeRead

theorem parkForRead_run (ht : t.thr < 16) (y : State) (k : KeptRead) : ∃ n, ((parkForRead y t k).thread t).run = .parkedEngine .scribeRead n :=
  park_run ht (by decide)

theorem parkForRead_kept (ht : t.thr < 16) (y : State) (k : KeptRead) : ((parkForRead y t k).thread t).kept = some k := by
  unfold parkForRead
  rw [park_kept ht (by decide), setThread_thread _ _ _ ht, setKept_kept]

section Body

variable (hw : (z.thread t).readG a.toNat = w) (hk : ownBlock z t ((z.thread t).readG b.toNat) 128 32 3 = .ok (kind, ks))
include hw hk

theorem rreadBody_absent (ho : objOf z t (selObj w) true = none) :
    rreadBody a.toNat b.toNat d.toNat loc z t = .error (.trap cOBJ_ABSENT w) := by
  unfold rreadBody
  dsimp only
  rw [hw, objOf_gone ho]
  exact bind_of_ok hk rfl

variable (ho : objOf z t (selObj w) false = some o)
include ho

theorem rreadBody_wrongKind (hm : o.method (selMethod w) false = none) :
    rreadBody a.toNat b.toNat d.toNat loc z t = .error (.trap cOPERAND_RANGE w) := by
  unfold rreadBody
  dsimp only
  rw [hw, objOf_old ho]
  refine bind_of_ok hk ?_
  show (if (o.method (selMethod w) false).isNone then _ else _) = _
  exact if_pos (Option.isNone_iff_eq_none.mpr hm)

variable (hm : o.method (selMethod w) false ≠ none)
include hm

theorem rreadBody_beyond {y : State} {args : List Byte} (hr : admittedRead (z.thread t) w = none) (hv : o.tail < selVersion w)
    (hl : loadAt z t kind (ks.take 96) = .ok (y, args)) :
    rreadBody a.toNat b.toNat d.toNat loc z t = .error (.trap cVERSION_RANGE (BitVec.ofNat 64 (selVersion w))) := by
  unfold admittedRead at hr
  unfold rreadBody
  dsimp only
  rw [hw, objOf_old ho, hr]
  refine bind_of_ok hk ?_
  show (if (o.method (selMethod w) false).isNone then _ else _) = _
  refine (if_neg fun h => hm (Option.isNone_iff_eq_none.mp h)).trans (bind_of_ok hl ?_)
  dsimp only
  rw [if_pos hv]
  rfl

theorem rreadBody_parks {y : State} {args : List Byte} (hr : admittedRead (z.thread t) w = none) (hv : selVersion w ≤ o.tail)
    (hl : loadAt z t kind (ks.take 96) = .ok (y, args)) :
    rreadBody a.toNat b.toNat d.toNat loc z t = .ok (parkForRead y t (firstRead z t w loc o args), .placed) := by
  unfold admittedRead at hr
  unfold rreadBody
  dsimp only
  rw [hw, objOf_old ho, hr]
  refine bind_of_ok hk ?_
  show (if (o.method (selMethod w) false).isNone then _ else _) = _
  refine (if_neg fun h => hm (Option.isNone_iff_eq_none.mp h)).trans (bind_of_ok hl ?_)
  dsimp only
  have hplaces : SamePlaces z y := (SamePlaces.refl z).loadAt.fst_of_eq hl
  rw [if_neg (Nat.not_lt.mpr hv), hplaces.dieOf]
  rfl

theorem rreadBody_returns {y : State} {r : KeptRead} {n outcome cause : Nat} {bytes : List Byte} (ht : t.thr < 16)
    (hr : admittedRead (z.thread t) w = some r) (hd : r.done = some (n, outcome, cause, bytes))
    (hs : storeAt z t kind (ks.drop 96) bytes = .ok y) :
    rreadBody a.toNat b.toNat d.toNat loc z t =
      gives (y.setThread t ((y.thread t).setKept none)) t d (scribeStatus n outcome cause) := by
  unfold admittedRead at hr
  unfold rreadBody gives
  dsimp only
  rw [hw, objOf_old ho, hr, setThread_setThread, setThread_thread _ _ _ ht, Option.bind_some, hd]
  refine bind_of_ok hk ?_
  show (if (o.method (selMethod w) false).isNone then _ else _) = _
  exact (if_neg fun h => hm (Option.isNone_iff_eq_none.mp h)).trans (bind_of_ok hs rfl)

end Body

end Reads

end Sys2Proof

namespace Sys2Proof

open Machine

/-! ## RWAIT (R281) -/

section Waits

variable {x : BitVec 32} {st : BitVec 3} {d a b : BitVec 5} {s z y : State} {t : Tid} {w : Word} {kind : Via} {ks : List Nat} {o : Obj}

/-- Stores the result bytes of a version and gives its outcome. -/
def giveOutcome (z : State) (t : Tid) (d : BitVec 5) (kind : Via) (ks : List Nat) (bytes : List Byte) (x : Word) : Except Stop (State × Next) :=
  storeAt z t kind ks bytes >>= fun y => gives y t d x

/-- What a wait for a version of the object `o` does. -/
def waitObj (z : State) (t : Tid) (d : BitVec 5) (w : Word) (kind : Via) (ks : List Nat) (o : Obj) : Except Stop (State × Next) :=
  let v := selVersion w
  let c := o.copy (dieOf z t.core)
  if o.tail < v then .error (.trap cVERSION_RANGE (BitVec.ofNat 64 v))
  else if c.applied < v then .error (.park false (.version (selObj w)))
  else if v = 0 then giveOutcome z t d kind ks (List.replicate 32 0) (scribeStatus 0 0 0)
  else match c.ring.find? (fun r => r.version == v) with
    | some r => giveOutcome z t d kind ks r.bytes (scribeStatus v r.outcome r.cause)
    | none => gives z t d (scribeStatus v 2 0)

theorem waitObj_beyond (h : o.tail < selVersion w) :
    waitObj z t d w kind ks o = .error (.trap cVERSION_RANGE (BitVec.ofNat 64 (selVersion w))) := if_pos h

theorem waitObj_parks (ht : selVersion w ≤ o.tail) (ha : (o.copy (dieOf z t.core)).applied < selVersion w) :
    waitObj z t d w kind ks o = .error (.park false (.version (selObj w))) := (if_neg (Nat.not_lt.mpr ht)).trans (if_pos ha)

theorem waitObj_zero (h : selVersion w = 0) :
    waitObj z t d w kind ks o = giveOutcome z t d kind ks (List.replicate 32 0) (scribeStatus 0 0 0) := by
  unfold waitObj
  rw [h]
  rfl

section Applied

variable (h0 : 0 < selVersion w) (ha : selVersion w ≤ (o.copy (dieOf z t.core)).applied) (ht : selVersion w ≤ o.tail)
include h0 ha ht

theorem waitObj_applied : waitObj z t d w kind ks o =
    match (o.copy (dieOf z t.core)).ring.find? (fun r => r.version == selVersion w) with
    | some r => giveOutcome z t d kind ks r.bytes (scribeStatus (selVersion w) r.outcome r.cause)
    | none => gives z t d (scribeStatus (selVersion w) 2 0) :=
  (if_neg (Nat.not_lt.mpr ht)).trans ((if_neg (Nat.not_lt.mpr ha)).trans (if_neg h0.ne'))

theorem waitObj_inRing {r : Result} (hr : (o.copy (dieOf z t.core)).ring.find? (fun r => r.version == selVersion w) = some r) :
    waitObj z t d w kind ks o = giveOutcome z t d kind ks r.bytes (scribeStatus (selVersion w) r.outcome r.cause) := by
  rw [waitObj_applied h0 ha ht, hr]

/-- A version whose result has left the ring has outcome 2. -/
theorem waitObj_pastRing (hr : (o.copy (dieOf z t.core)).ring.find? (fun r => r.version == selVersion w) = none) :
    waitObj z t d w kind ks o = gives z t d (scribeStatus (selVersion w) 2 0) := by
  rw [waitObj_applied h0 ha ht, hr]

end Applied

theorem giveOutcome_stored {bytes : List Byte} {x : Word} (h : storeAt z t kind ks bytes = .ok y) :
    giveOutcome z t d kind ks bytes x = gives y t d x := bind_of_ok h rfl

/-- The body of RWAIT: its block, the object, then the wait. -/
theorem exec_rwait (hi : Issues (objCallForm a b) s)
    (hk : ownBlock (begun (objCallForm a b) s) s.cur (s.me.readG b.toNat) 32 32 rWR = .ok (kind, ks)) :
    let z := begun (objCallForm a b) s
    let w := s.me.readG a.toNat
    ∃ x body, exec (.rwait st d a b) s = issue (objCallOp x st a b) s body ∧
      (objOf z s.cur (selObj w) true = none → body z s.cur = .error (.trap cOBJ_ABSENT w)) ∧
      (∀ o, objOf z s.cur (selObj w) false = some o → body z s.cur = waitObj z s.cur d w kind ks o) := by
  refine ⟨_, _, rfl, fun h => ?_, fun o h => ?_⟩
  · simp only [begun_readG hi.context, objOf_gone h]
    exact bind_of_ok hk rfl
  · simp only [begun_readG hi.context, objOf_old h]
    refine bind_of_ok hk ?_
    generalize begun (objCallForm a b) s = z
    generalize s.me.readG a.toNat = w
    show (if o.tail < selVersion w then _ else _) = _
    by_cases ht : o.tail < selVersion w
    · exact (if_pos ht).trans (waitObj_beyond ht).symm
    · have ht' := Nat.not_lt.mp ht
      refine (if_neg ht).trans ?_
      by_cases ha : (o.copy (dieOf z s.cur.core)).applied < selVersion w
      · exact (if_pos ha).trans (waitObj_parks ht' ha).symm
      · refine (if_neg ha).trans ?_
        by_cases hv : selVersion w = 0
        · exact (if_pos hv).trans (waitObj_zero hv).symm
        · refine (if_neg hv).trans ?_
          have h0 := Nat.pos_of_ne_zero hv
          have ha' := Nat.not_lt.mp ha
          cases hr : (o.copy (dieOf z s.cur.core)).ring.find? (fun r => r.version == selVersion w) with
          | some r => exact (waitObj_inRing h0 ha' ht' hr).symm
          | none => exact (waitObj_pastRing h0 ha' ht' hr).symm

end Waits

end Sys2Proof

namespace Sys2Proof

open Machine

/-! ## OBJNEW and OBJDEL (R278, R279) -/

section Definition

variable {x : BitVec 32} {st : BitVec 3} {d a b : BitVec 5} {s z : State} {t : Tid} {w : Word} {hb blk init code : List Byte} {n : Nat} {o : Obj}

/-- How OBJNEW and OBJDEL issue. -/
def defineForm (a : BitVec 5) : Form := { gForm [a] with cls := .irrev }

/-- What the frame of every instruction knows of them. -/
def defineOp (x : BitVec 32) (st : BitVec 3) (a : BitVec 5) : Op := { word := x, stall := st.toNat, reads := [(.g, a.toNat)], cls := .irrev }

theorem defineOp_has : (defineOp x st a).Has (defineForm a) := ⟨rfl, rfl, rfl, rfl, rfl, rfl, rfl, rfl⟩

/-- The address of the initial state that a block names; 0 where the state starts as zeros. -/
def initAddr (blk : List Byte) : Word := BitVec.ofNat 64 (blkNat blk 8 8)

/-- The address of the code that a block names. -/
def codeAddr (blk : List Byte) : Word := BitVec.ofNat 64 (blkNat blk 16 8)

theorem initAddr_eq_zero : initAddr blk = 0 ↔ blkNat blk 8 8 % 2 ^ 64 = 0 := by
  unfold initAddr
  rw [← BitVec.toNat_inj, BitVec.toNat_ofNat]
  rfl

/-- The state with the object `n` of a block at `w`, once the blocks that were read have used their translations. -/
def withObject (z : State) (t : Tid) (w : Word) (blk init code : List Byte) (n : Nat) : State :=
  let read := [(w, blk.length)] ++ (if initAddr blk = 0 then [] else [(initAddr blk, init.length)]) ++ [(codeAddr blk, code.length)]
  takePool ((useBlocks z t read).setObj n (newObj (ctxOf z t) blk init code (objUse z blk))) (ctxOf z t) (objUse z blk)

/-- Reads the initial state and the code of a block that has passed the checks, and makes its object. -/
def placeObject (z : State) (t : Tid) (d : BitVec 5) (w : Word) (blk : List Byte) (n : Nat) : Except Stop (State × Next) :=
  (if initAddr blk = 0 then .ok [] else anyBlock z t (initAddr blk) (blkNat blk 0 8) 1) >>= fun init =>
  anyBlock z t (codeAddr blk) (blkNat blk 24 4) 1 >>= fun code =>
  gives (withObject z t w blk init code n) t d (BitVec.ofNat 64 n)

/-- OBJ_MALFORMED with its reason (Table 18.5). -/
def malformedObject (r : Nat) : Except Stop (State × Next) := .error (.trap cOBJ_MALFORMED (BitVec.ofNat 64 r))

/-- What OBJNEW does with a block: reasons 1 to 6 in their order, then the object. -/
def defineObject (z : State) (t : Tid) (d : BitVec 5) (w : Word) (hb blk : List Byte) : Except Stop (State × Next) :=
  match objHeaderReason z hb with
  | some r => malformedObject r
  | none =>
    if objMethodReason blk ((List.range (blkNat hb 30 1)).map (blockMethod blk)) then malformedObject 4
    else match lowestFree fun i => (z.objects.find? i).isSome with
      | none => malformedObject 5
      | some n => if poolFree z (ctxOf z t) < objUse z blk then malformedObject 6 else placeObject z t d w blk n

theorem defineObject_header {r : Nat} (h : objHeaderReason z hb = some r) : defineObject z t d w hb blk = malformedObject r := by
  unfold defineObject
  rw [h]

section Header

variable (hh : objHeaderReason z hb = none)
include hh

theorem defineObject_methods (hm : objMethodReason blk ((List.range (blkNat hb 30 1)).map (blockMethod blk)) = true) :
    defineObject z t d w hb blk = malformedObject 4 := by
  unfold defineObject
  rw [hh]
  exact if_pos hm

variable (hm : objMethodReason blk ((List.range (blkNat hb 30 1)).map (blockMethod blk)) = false)
include hm

theorem defineObject_noNumber (hn : lowestFree (fun i => (z.objects.find? i).isSome) = none) :
    defineObject z t d w hb blk = malformedObject 5 := by
  unfold defineObject
  rw [hh, hm, hn]
  rfl

variable (hn : lowestFree (fun i => (z.objects.find? i).isSome) = some n)
include hn

theorem defineObject_numbered : defineObject z t d w hb blk =
    if poolFree z (ctxOf z t) < objUse z blk then malformedObject 6 else placeObject z t d w blk n := by
  unfold defineObject
  rw [hh, hm, hn]
  rfl

theorem defineObject_noPool (hp : poolFree z (ctxOf z t) < objUse z blk) : defineObject z t d w hb blk = malformedObject 6 :=
  (defineObject_numbered hh hm hn).trans (if_pos hp)

theorem defineObject_places (hp : objUse z blk ≤ poolFree z (ctxOf z t)) : defineObject z t d w hb blk = placeObject z t d w blk n :=
  (defineObject_numbered hh hm hn).trans (if_neg (Nat.not_lt.mpr hp))

end Header

/-- The body of OBJNEW once both reads of its block have been answered. -/
theorem exec_objnew (hi : Issues (defineForm a) s) (hh : anyBlock (begun (defineForm a) s) s.cur (s.me.readG a.toNat) 64 64 = .ok hb)
    (hk : anyBlock (begun (defineForm a) s) s.cur (s.me.readG a.toNat) (64 + 16 * blkNat hb 30 1) 64 = .ok blk) :
    let z := begun (defineForm a) s
    ∃ x body, exec (.objnew st d a b) s = issue (defineOp x st a) s body ∧
      body z s.cur = defineObject z s.cur d (s.me.readG a.toNat) hb blk := by
  refine ⟨_, _, rfl, ?_⟩
  simp only [begun_readG hi.context]
  refine bind_of_ok hh (bind_of_ok hk ?_)
  generalize begun (defineForm a) s = z
  generalize s.me.readG a.toNat = w
  cases hr : objHeaderReason z hb with
  | some r => exact (defineObject_header hr).symm
  | none =>
    show (if objMethodReason blk _ then _ else _) = _
    by_cases hm : objMethodReason blk ((List.range (blkNat hb 30 1)).map (blockMethod blk)) = true
    · exact (if_pos hm).trans (defineObject_methods hr hm).symm
    · refine (if_neg hm).trans ?_
      have hm := Bool.eq_false_iff.mpr hm
      cases hn : lowestFree fun i => (z.objects.find? i).isSome with
      | none => exact (defineObject_noNumber hr hm hn).symm
      | some n =>
        show (if poolFree z (ctxOf z s.cur) < objUse z blk then _ else _) = _
        by_cases hp : poolFree z (ctxOf z s.cur) < objUse z blk
        · exact (if_pos hp).trans (defineObject_noPool hr hm hn hp).symm
        · refine (if_neg hp).trans (Eq.trans ?_ (defineObject_places hr hm hn (Nat.not_lt.mp hp)).symm)
          unfold placeObject
          by_cases h0 : initAddr blk = 0
          · rw [if_pos h0]
            exact if_pos h0
          · rw [if_neg h0]
            exact if_neg h0

theorem placeObject_gives (hz : initAddr blk = 0 → init = [])
    (hi : initAddr blk ≠ 0 → anyBlock z t (initAddr blk) (blkNat blk 0 8) 1 = .ok init)
    (hc : anyBlock z t (codeAddr blk) (blkNat blk 24 4) 1 = .ok code) :
    placeObject z t d w blk n = gives (withObject z t w blk init code n) t d (BitVec.ofNat 64 n) := by
  have hinit : (if initAddr blk = 0 then .ok [] else anyBlock z t (initAddr blk) (blkNat blk 0 8) 1) = .ok init := by
    split
    · rw [hz ‹_›]
    · exact hi ‹_›
  exact bind_of_ok hinit (bind_of_ok hc rfl)

/-- The state in which an object is being deleted and the thread waits for its end. -/
def deletingObject (z : State) (t : Tid) (id : Nat) (o : Obj) : State :=
  park (z.setObj id { o with closing := true }) t false (.deleting false id)

theorem deletingObject_find? (id : Nat) : (deletingObject z t id o).objects.find? id = some { o with closing := true } := by
  unfold deletingObject
  rw [park_objects (by simp)]
  exact KMap.find?_insert_self _ _ _

theorem exec_objdel (hi : Issues (defineForm a) s) :
    let z := begun (defineForm a) s
    let w := s.me.readG a.toNat
    let id := selObj w
    ∃ x body, exec (.objdel st d a b) s = issue (defineOp x st a) s body ∧
      (objOf z s.cur id true = none → body z s.cur = .error (.trap cOBJ_ABSENT w)) ∧
      (∀ o, objOf z s.cur id false = some o → objDone z id o = true → body z s.cur = .ok (freeObj z id o, .seq)) ∧
      (∀ o, objOf z s.cur id false = some o → objDone z id o = false → body z s.cur = .ok (deletingObject z s.cur id o, .placed)) := by
  unfold selObj
  refine ⟨_, _, rfl, fun h => ?_, fun o h hd => ?_, fun o h hd => ?_⟩
  · simp only [begun_readG hi.context, objOf_gone h]
  · simp only [begun_readG hi.context, objOf_old h, hd]
    rfl
  · simp only [begun_readG hi.context, objOf_old h, hd]
    rfl

end Definition

/-- Settles O48: each instruction by what its body does with the block, the object and the version that it finds. -/
theorem replayedObjects : Obligations.ReplayedObjects := by
  unfold Obligations.ReplayedObjects
  intro st d a b s f h away w blockAddr id v
  refine ⟨?call, ?read, ?wait, ?new, ?absent, ?del⟩
  case call =>
    intro i nb hmem kind ks hi z hk
    obtain ⟨x, hex⟩ := exec_rcall hmem s
    have hw : (z.thread s.cur).readG a.toNat = w := begun_readG hi.context _
    have hk : ownBlock z s.cur ((z.thread s.cur).readG b.toNat) 96 32 rRD = .ok (kind, ks) := by rwa [begun_readG hi.context]
    refine ⟨fun ho => raises_of hex objCallOp_has rfl hi (rcallBody_absent hw hk ho), fun o ho => ?_⟩
    have hb := rcallBody_calls (d := d) (nb := nb) hw hk ho
    refine ⟨fun hm => raises_of hex objCallOp_has rfl hi (hb.trans (callObj_refused (.inl hm))),
      fun _ ht => raises_of hex objCallOp_has rfl hi (hb.trans (callObj_refused (.inr ht))),
      fun hm ht => ⟨fun hf hnb => ?_, fun hf hnb => ?_, ?_⟩⟩
    · subst hnb
      exact yields_of hex objCallOp_has hi d.isLt (hb.trans (callObj_busy hm ht hf))
    · subst hnb
      exact stops_of hex objCallOp_has rfl hi (hb.trans (callObj_parks hm ht hf))
    · exact fun y args hf hl => sends_of hex objCallOp_has hi (hb.trans (callObj_sends hm ht hf hl))
  case read =>
    intro i loc hmem kind ks hi z again hk
    obtain ⟨x, hex⟩ := exec_rread hmem s
    have hth : z.thread s.cur = s.me := begun_thread_of_keeps hi.context rfl
    have hw : (z.thread s.cur).readG a.toNat = w := begun_readG hi.context _
    have hk : ownBlock z s.cur ((z.thread s.cur).readG b.toNat) 128 32 3 = .ok (kind, ks) := by rwa [begun_readG hi.context]
    have hagain : admittedRead (z.thread s.cur) w = again := by rw [hth]; rfl
    refine ⟨fun ho => raises_of hex objReadOp_has rfl hi (rreadBody_absent hw hk ho), fun o ho =>
      ⟨fun hm => raises_of hex objReadOp_has rfl hi (rreadBody_wrongKind hw hk ho hm), fun hm => ⟨?_, ?_, ?_⟩⟩⟩
    · exact fun hr hv y args hl => raises_of hex objReadOp_has rfl hi (rreadBody_beyond hw hk ho hm (hagain.trans hr) hv hl)
    · intro hr hv y args hl
      obtain ⟨s', he, -, hs'⟩ := settles_of hex objReadOp_has hi (rreadBody_parks hw hk ho hm (hagain.trans hr) hv hl)
      refine ⟨s', he, ?_, ?_⟩
      · rw [hs']
        exact parkForRead_run hi.context _ _
      · rw [hs', parkForRead_kept hi.context, firstRead, hth]
    · exact fun r n outcome cause bytes y hr hd hs =>
        yields_of hex objReadOp_has hi d.isLt (rreadBody_returns hw hk ho hm hi.context (hagain.trans hr) hd hs)
  case wait =>
    intro kind ks hi z hk
    obtain ⟨x, body, hex, hgone, hthere⟩ := exec_rwait (st := st) (d := d) hi hk
    refine ⟨fun ho => raises_of hex objCallOp_has rfl hi (hgone ho), fun o ho => ?_⟩
    have hb := hthere o ho
    refine ⟨fun ht => raises_of hex objCallOp_has rfl hi (hb.trans (waitObj_beyond ht)),
      fun ht ha => stops_of hex objCallOp_has rfl hi (hb.trans (waitObj_parks ht ha)),
      fun hv y hs => ?_, fun r h0 ha ht hr y hs => ?_, fun h0 ha ht hr => ?_⟩
    · exact yields_of hex objCallOp_has hi d.isLt (hb.trans ((waitObj_zero hv).trans (giveOutcome_stored hs)))
    · exact yields_of hex objCallOp_has hi d.isLt (hb.trans ((waitObj_inRing h0 ha ht hr).trans (giveOutcome_stored hs)))
    · exact yields_of hex objCallOp_has hi d.isLt (hb.trans (waitObj_pastRing h0 ha ht hr))
  case new =>
    intro hb blk init code n hi z x hh hk
    obtain ⟨x, body, hex, hbody⟩ := exec_objnew (st := st) (d := d) (b := b) hi hh hk
    have bad {r : Nat} (hr : defineObject z s.cur d w hb blk = malformedObject r) :
        Raises (.objnew st d a b) s cOBJ_MALFORMED (BitVec.ofNat 64 r) := raises_of hex defineOp_has rfl hi (hbody.trans hr)
    refine ⟨fun r hr => bad (defineObject_header hr), fun hr => ⟨fun hm => bad (defineObject_methods hr hm), fun hm =>
      ⟨fun hn => bad (defineObject_noNumber hr hm hn), fun hn hp => bad (defineObject_noPool hr hm hn hp), ?_⟩⟩⟩
    intro hn hp hz hinit hc
    exact yields_of hex defineOp_has hi d.isLt (hbody.trans ((defineObject_places hr hm hn hp).trans
      (placeObject_gives (fun h0 => hz (initAddr_eq_zero.mp h0)) (fun h0 => hinit fun h => h0 (initAddr_eq_zero.mpr h)) hc)))
  case absent =>
    intro hi ho
    obtain ⟨x, body, hex, hgone, -⟩ := exec_objdel (st := st) (d := d) (b := b) hi
    exact raises_of hex defineOp_has rfl hi (hgone ho)
  case del =>
    intro o hi z ho
    obtain ⟨x, body, hex, -, hends, hwaits⟩ := exec_objdel (st := st) (d := d) (b := b) hi
    refine ⟨fun hd => passes_of hex defineOp_has hi (hends o ho hd), fun hd => ?_⟩
    obtain ⟨s', he, honly, hs'⟩ := settles_of hex defineOp_has hi (hwaits o ho hd)
    refine ⟨s', he, ?_, ?_⟩
    · have hobjects : s'.objects = (deletingObject z s.cur id o).objects := by
        have h := congrArg State.objects honly.rest
        exact h
      rw [hobjects]
      exact deletingObject_find? id
    · rw [hs']
      exact park_run hi.context (by simp)

end Sys2Proof

namespace Sys2Proof

open Machine

/-! ## The machine after reset (chapters 06 and 26) -/

section Reset

theorem getD_toList_replicate {α : Type} (n i : Nat) (x : α) : (Vector.replicate n x).toList.getD i x = x := by
  rw [Vector.toList_replicate, List.getD_eq_getElem?_getD, List.getElem?_replicate]
  split
  · rfl
  · rfl

theorem reset_thread (t : Tid) : State.reset.thread t = .reset := getD_toList_replicate 16 t.thr _

/-- After reset a register with no stated value holds zero (log 1). -/
theorem reset_readG (n : Nat) : Thread.reset.readG n = 0 := by
  have hread : Thread.reset.read .g n = ((Vector.replicate 32 (0 : Word)).toList.getD n 0).setWidth 512 := rfl
  rw [Thread.readG, hread, getD_toList_replicate]
  simp

theorem reset_readV (n : Nat) : Thread.reset.readV n = 0 := getD_toList_replicate 32 n 0

theorem reset_readK {n : Nat} (hn : n < 8) : Thread.reset.readK n = if n = 0 then 0xFFFF else 0 := by
  interval_cases n <;> rfl

theorem memoryWf_reset : MemoryWf State.reset := ⟨rfl, rfl, rfl, fun _ => rfl, fun _ => rfl⟩

theorem root_setts : Context.root.setts = (List.range 576).map fun i => (i, i) := by rw [Context.root]

end Reset

/-- Settles O59: what reset gives a thread and a memory, field by field. -/
theorem resetState : Obligations.ResetState := by
  unfold Obligations.ResetState
  refine ⟨fun t _ => ?_, rfl, rfl, rfl, rfl, fun c => ⟨rfl, rfl⟩, ?_, rfl, memoryWf_reset⟩
  · intro th
    have hth : th = .reset := reset_thread t
    rw [hth]
    exact ⟨rfl, rfl, rfl, rfl, rfl, rfl, rfl, rfl, rfl, fun n _ => ⟨reset_readG n, reset_readV n⟩, fun n hn => reset_readK hn⟩
  · have hroot : State.reset.ctx 0 = Context.root := rfl
    rw [hroot, root_setts, List.length_map, List.length_range]

end Sys2Proof

namespace Sys2Proof

open Machine

/-! ## Starts of the package (R401, R402, R404) -/

section Start

variable {s : State} {cold : Bool}

/-- The channels that each die lacks at a start: found anew, or as the saved calibration says (R401). -/
def startLost (s : State) (cold : Bool) : List Nat :=
  match cold, s.calibration with
  | false, some l => l
  | _, _ => (List.range 4).map (Config.channelsLost s.freeCount)

theorem startLost_eq : startLost s cold = if cold then (List.range 4).map (Config.channelsLost s.freeCount)
    else s.calibration.getD ((List.range 4).map (Config.channelsLost s.freeCount)) := by
  unfold startLost
  cases cold with
  | true => rfl
  | false => cases s.calibration <;> rfl

/-- The dies as a start finds them. -/
def startDies (s : State) (cold : Bool) : Vector Die 4 := Vector.ofFn fun d => startDie s s.freeCount d ((startLost s cold).getD d 0)

/-- The dies that survive a start. -/
def startLive (s : State) (cold : Bool) : List Nat := (List.range 4).filter fun d => ((startDies s cold).toList.getD d Die.reset).enabled

theorem startDies_getD (d : Fin 4) :
    (startDies s cold).toList.getD d Die.reset = startDie s s.freeCount d ((startLost s cold).getD d 0) := by
  simp [startDies, List.getD_eq_getElem?_getD]

theorem startLive_eq_nil : startLive s cold = [] ↔ ¬ ∃ d : Fin 4, (startDie s s.freeCount d ((startLost s cold).getD d 0)).enabled = true := by
  unfold startLive
  rw [List.filter_eq_nil_iff, not_exists]
  constructor
  · intro h d
    rw [← startDies_getD]
    exact h d (List.mem_range.mpr d.isLt)
  · intro h d hd
    have hlive := h ⟨d, List.mem_range.mp hd⟩
    rwa [← startDies_getD] at hlive

theorem start_noDie (hd : startLive s cold = []) : start s cold = startFailed s cold (!Config.linkFails s.freeCount) 4 1 :=
  if_pos (List.isEmpty_iff.mpr hd)

variable (hd : startLive s cold ≠ [])
include hd

theorem start_unlinked (hl : Config.linkFails s.freeCount = true) : start s cold = startFailed s cold false 4 2 := by
  refine (if_neg fun h => hd (List.isEmpty_iff.mp h)).trans ?_
  rw [hl]
  rfl

variable (hl : Config.linkFails s.freeCount = false)
include hl

theorem start_badImage (hi : imageLoads 0 = false) : start s cold = startFailed s cold true 6 3 := by
  refine (if_neg fun h => hd (List.isEmpty_iff.mp h)).trans ?_
  rw [hl, hi]
  rfl

/-- A start that succeeds: the package as it is before the root takes its setts. -/
theorem start_succeeds (hi : imageLoads 0 = true) : ∃ z : State, start s cold = startSetts z ∧
    z.power = .running ∧ z.now = 0 ∧ z.slewPlus = 0 ∧ z.cores = [] ∧ z.flights = [] ∧ z.dram = s.dram ∧ z.outside = s.outside ∧
    z.dies = startDies s cold ∧ z.calibration = (if cold then some (startLost s cold) else s.calibration) ∧ (cold = true → z.coldNext = false) := by
  refine ⟨_, (if_neg fun h => hd (List.isEmpty_iff.mp h)).trans ((if_neg ?_).trans (if_neg ?_)),
    rfl, rfl, rfl, rfl, rfl, rfl, rfl, rfl, rfl, fun hc => if_pos hc⟩
  · rw [hl]
    nofun
  · rw [hi]
    nofun

end Start

/-- What the root's setts at a start change: the setts, and the root, whose setts are numbered densely over the places that survive
(R404). -/
theorem startSetts_eq (z : State) : ∃ setts c, startSetts z = { z with setts := setts, contexts := [(0, c)] } ∧
    c.setts.map (·.1) = List.range c.setts.length := by
  refine ⟨_, _, rfl, ?_⟩
  generalize enabledSetts z = ps
  show ((List.range ps.length).zip ps).map (·.1) = List.range ((List.range ps.length).zip ps).length
  rw [List.length_zip, List.length_range, min_self]
  exact List.map_fst_zip (List.length_range ..).le

/-- A reset of the package empties the key slots of every die (R402). -/
theorem packageReset_keysUsed (s : State) (cold : Bool) {d : Nat} (hd : d < 4) : ((packageReset s cold).die d).keysUsed = 0 := by
  unfold State.die packageReset
  simp [List.getD_eq_getElem?_getD, hd]

/-- Settles O58: a start by its tests in their order; a start of a running package and a host reset by what they do. -/
theorem startsAndResets : Obligations.StartsAndResets := by
  unfold Obligations.StartsAndResets
  refine ⟨fun s hp => ?stopped, fun s hp => ?running, ?start, fun s => ⟨⟨_, rfl, rfl⟩, ?reset⟩⟩
  case stopped =>
    refine ⟨⟨_, ?_, rfl⟩, ⟨_, ?_, rfl⟩⟩
    · show execColdStart s = _
      unfold execColdStart
      split
      · contradiction
      · rfl
    · show execWarmStart s = _
      unfold execWarmStart
      split
      · contradiction
      · rfl
  case running =>
    constructor
    · show execColdStart s = _
      rw [execColdStart, hp]
    · show execWarmStart s = _
      rw [execWarmStart, hp]
  case start =>
    intro cold s n z lost survives
    have hlost : startLost s cold = lost := startLost_eq
    have hlive : startLive s cold ≠ [] ↔ survives := by
      rw [Ne, startLive_eq_nil, not_not, hlost]
    refine ⟨fun hs hl hi => ?_, fun hs hl => ?_, fun hs hl hi => ?_, fun hs => ?_⟩
    · obtain ⟨y, hy, hpower, hnow, hplus, hcores, hflights, hdram, houtside, hdies, hcal, hnext⟩ := start_succeeds (hlive.mpr hs) hl hi
      obtain ⟨setts, c, hsetts, hdense⟩ := startSetts_eq y
      have hz : z = { y with setts := setts, contexts := [(0, c)] } := hy.trans hsetts
      have hgts : y.now / Config.tick + y.slewPlus - y.slewMinus = 0 := by
        rw [hnow, hplus, Nat.zero_div, Nat.zero_add, Nat.zero_sub]
      rw [hz]
      refine ⟨hpower, hnow, hgts, hcores, hflights, hdram, houtside, fun d => ?_, fun hc => ⟨hnext hc, ?_⟩, fun hc => ?_, rfl, hdense⟩
      · rw [State.die, hdies, startDies_getD, hlost]
      · rw [hcal, if_pos hc, hlost]
      · rw [hcal, if_neg (Bool.eq_false_iff.mp hc)]
    · have hz : z = startFailed s cold false 4 2 := start_unlinked (hlive.mpr hs) hl
      rw [hz]
      exact ⟨rfl, rfl, rfl⟩
    · have hz : z = startFailed s cold true 6 3 := start_badImage (hlive.mpr hs) hl hi
      rw [hz]
      exact ⟨rfl, rfl⟩
    · have hz : z = startFailed s cold (!Config.linkFails s.freeCount) 4 1 := start_noDie (not_not.mp (mt hlive.mp hs))
      rw [hz]
      refine ⟨rfl, rfl, fun d hd => packageReset_keysUsed s (!cold) hd, fun hc => ?_⟩
      subst hc
      exact Bool.or_true _
  case reset => exact ⟨rfl, rfl, rfl, rfl, rfl, rfl, rfl, Bool.or_false _⟩

end Sys2Proof

namespace Sys2Proof

open Machine

/-! ## Runs of bytes -/

section Span

variable {s : State} {k n : Nat} {bs : List Byte}

theorem length_span : (span k n).length = n := by rw [span, List.length_map, List.length_range]

theorem mem_span {q : Nat} : q ∈ span k n ↔ k ≤ q ∧ q < k + n := by
  simp only [span, List.mem_map, List.mem_range]
  constructor
  · rintro ⟨i, hi, rfl⟩
    omega
  · intro h
    exact ⟨q - k, by omega, by omega⟩

theorem nodup_span : (span k n).Nodup := List.nodup_range.map fun _ _ h => Nat.add_left_cancel h

/-- Bytes written at a run of places are read back. -/
theorem readPlaces_writePlaces_span (w : MemoryWf s) (hk : k + n ≤ ordinary) (hl : bs.length = n) :
    readPlaces (writePlaces s (span k n) bs) (span k n) = bs :=
  readPlaces_writePlaces w (fun _ hq => Nat.lt_of_lt_of_le (mem_span.mp hq).2 hk) nodup_span (hl.trans length_span.symm)

end Span

/-! ## Moves of the package -/

theorem moves_of {i : Instr} {s z : State} (h : exec i s = .next (lapse z)) : Moves i s z := ⟨_, h, rfl⟩

theorem setDie_die (s : State) (x : Die) {d : Nat} (hd : d < 4) : (s.setDie d x).die d = x := by
  simp [State.die, State.setDie, Vector.toList_setIfInBounds, List.getD_eq_getElem?_getD, hd]

/-! ## The root's settings (R374, R376, R378) -/

section Settings

variable {s : State} {ctx : Nat} (hp : isPartition s ctx = true)
include hp

theorem moves_egressSettingWrite {strength : Nat} {enable : Bool} (h1 : 1 ≤ strength) (h3 : strength ≤ 3) :
    Moves (.egressSettingWrite ctx strength enable) s
      (s.setCtx ctx { s.ctx ctx with egEnable := enable, egStrength := strength, keyGen := s.freeCount }) :=
  moves_of (if_pos (by simp [hp, h1, h3]))

theorem moves_msixWindowWrite {base count : Nat} (h : base + count ≤ 4096) :
    Moves (.msixWindowWrite ctx base count) s (s.setCtx ctx { s.ctx ctx with msixBase := base, msixCount := count }) :=
  moves_of (if_pos (by simp [hp, h]))

theorem moves_collectiveGroupDefine {group : Nat} {ranks : List (Nat × Nat × Nat)} (hg : group < 65536) (h2 : 2 ≤ ranks.length)
    (hr : ranks.length ≤ 1024) : Moves (.collectiveGroupDefine ctx group ranks) s
      { s with groups := (s.groups.filter fun g => !(g.part == ctx && g.group == group)) ++ [⟨ctx, group, ranks⟩] } :=
  moves_of (if_pos (by simp [hp, hg, h2, hr]))

end Settings

/-- A group that is defined again has the ranks of its last definition. -/
theorem groupOf_defined (s : State) (ctx group : Nat) (ranks : List (Nat × Nat × Nat)) :
    groupOf { s with groups := (s.groups.filter fun g => !(g.part == ctx && g.group == group)) ++ [⟨ctx, group, ranks⟩] } ctx group =
      some ⟨ctx, group, ranks⟩ := by
  have hold : (s.groups.filter fun g => !(g.part == ctx && g.group == group)).find? (fun g => g.part == ctx && g.group == group) = none := by
    rw [List.find?_eq_none]
    intro g hg hsame
    have hne := (List.mem_filter.mp hg).2
    rw [hsame] at hne
    nomatch hne
  rw [groupOf, List.find?_append, hold]
  simp

/-! ## The governor (R405) -/

section Governor

variable {s : State} {d dram junction power : Nat}

/-- The state in which the governor has a die's power. -/
def measured (s : State) (d power : Nat) : State := s.setDie d { s.die d with power := power }

/-- The last step of a die's cap lies 1 ms back. -/
def capPaced (s : State) (d : Nat) : Bool :=
  match (s.die d).capAt with
  | some c => c + milli ≤ gts s
  | none => true

theorem capPaced_of (h : ∀ c, (s.die d).capAt = some c → c + milli ≤ gts s) : capPaced s d = true := by
  unfold capPaced
  cases hc : (s.die d).capAt with
  | some c => exact decide_eq_true (h c hc)
  | none => rfl

/-- Above a limit the cap of the die goes one step lower, at most once in 1 ms. -/
theorem govern_lowers (hd : d < 4) (hot : 95 < dram ∨ 105 < junction ∨ (s.plim < partPower (measured s d power) ∧ highestPower (measured s d power) d = true))
    (hcap : (s.die d).cap < 3) (hpaced : ∀ c, (s.die d).capAt = some c → c + milli ≤ gts s) :
    govern s d dram junction power = applyPoint ((measured s d power).setDie d { (measured s d power).die d with
      coolSince := none, cap := (s.die d).cap + 1, capAt := some (gts s) }) d := by
  have hdie : (measured s d power).die d = { s.die d with power := power } := setDie_die s _ hd
  have hcap' : ((measured s d power).die d).cap = (s.die d).cap := by rw [hdie]
  have hpaced' : capPaced (measured s d power) d = true := capPaced_of (by rwa [hdie])
  rw [← hcap'] at hcap ⊢
  exact (if_pos hot).trans (if_pos ⟨hcap, hpaced'⟩)

/-- Between the limits below which a cap rises and those above which it falls nothing but the cooling time changes. -/
theorem govern_holds (hd : dram ≤ 95) (hj : junction ≤ 105) (hp : s.plim < partPower (measured s d power) → highestPower (measured s d power) d = false)
    (hc : 90 ≤ dram ∨ 100 ≤ junction ∨ s.plim ≤ partPower (measured s d power)) :
    govern s d dram junction power = (measured s d power).setDie d { (measured s d power).die d with coolSince := none } := by
  have hcool : ¬ (95 < dram ∨ 105 < junction ∨ (s.plim < partPower (measured s d power) ∧ highestPower (measured s d power) d = true)) := by
    rintro (h | h | ⟨h, h'⟩)
    · omega
    · omega
    · rw [hp h] at h'
      nomatch h'
  exact (if_neg hcool).trans (if_neg (by rintro ⟨h1, h2, h3⟩; change partPower (measured s d power) < s.plim at h3; omega))

end Governor

/-- A reading of a die's DRAM temperature leaves its refresh rate at `x` (R405). -/
theorem moves_refreshDoubling {s : State} {d temp : Nat} {x : Bool} (he : (s.die d).enabled = true)
    (hx : (if 85 < temp then true else if temp < 83 then false else (s.die d).refx2) = x) :
    Moves (.refreshDoubling d temp) s (s.setDie d { s.die d with refx2 := x }) := by
  subst hx
  exact moves_of (if_neg (by rw [he]; nofun))

/-! ## Clocks (R364, R366) -/

theorem endRelock_relocks {s : State} {d e p : Nat} (hd : d < 4) (h : (s.die d).relock = some (e, p)) :
    ((endRelock s d).die d).point = p ∧ e ≤ (endRelock s d).now ∧ ((s.die d).kept = none → ((endRelock s d).die d).relock = none) := by
  unfold endRelock
  dsimp only
  rw [h]
  dsimp only
  rw [setDie_die _ _ hd, setDie_now]
  refine ⟨rfl, le_max_right .., fun hk => ?_⟩
  rw [hk]
  rfl

section Alignment

variable {s : State}

theorem timeMasterAlignment_early {add : Bool} {g : Nat} (hs : s.lastSlew = some g) (hg : gts s < g + 1024) :
    exec (.timeMasterAlignment add) s = .next s := if_pos (by simp [hs, hg])

/-- A slew of one tick, at most once in 1,024 ticks. -/
theorem exec_timeMasterAlignment (h : ∀ g, s.lastSlew = some g → g + 1024 ≤ gts s) (add : Bool) :
    exec (.timeMasterAlignment add) s =
      let z := if add then { s with slewPlus := s.slewPlus + 1 } else
        { advanceGts s (gts s + 1) with slewMinus := (advanceGts s (gts s + 1)).slewMinus + 1 }
      .next (lapse { z with lastSlew := some (gts z) }) := by
  refine if_neg ?_
  cases hs : s.lastSlew with
  | none => nofun
  | some g => simpa using h g hs

end Alignment

/-! ## The host and the fabric (R371, R373, R375, R382) -/

section Host

variable {s : State} {addr : Nat} {data nonce : List Byte}

theorem moves_hostMemoryAccess (hl : s.linkUp = true) (ha : addr + data.length ≤ 2 ^ 39)
    (hv : ∀ a ∈ span addr data.length, a % 2 ^ 37 < dieDram (s.die (a / 2 ^ 37)) ∧ ∃ e ∈ s.hostVisible, e.1 ≤ a ∧ a < e.1 + e.2) :
    Moves (.hostMemoryAccess addr data) s (writePlaces s (span (dramKey addr) data.length) data) := by
  have hvisible : (span addr data.length).all (fun a => decide (a % 2 ^ 37 < dieDram (s.die (a / 2 ^ 37)))
      && s.hostVisible.any fun e => decide (e.1 ≤ a) && decide (a < e.1 + e.2)) = true := by
    rw [List.all_eq_true]
    intro a hspan
    obtain ⟨hdram, e, he, hlo, hhi⟩ := hv a hspan
    rw [decide_eq_true hdram, Bool.true_and, List.any_eq_true]
    exact ⟨e, he, by rw [decide_eq_true hlo, decide_eq_true hhi]; rfl⟩
  exact moves_of (if_pos (by rw [hl, decide_eq_true ha, hvisible]; rfl))

theorem dramKey_ordinary (h : addr + data.length ≤ 2 ^ 39) : dramKey addr + data.length ≤ ordinary := by
  unfold dramKey ordinary
  omega

/-- A report answers the nonce that was asked with (R382). -/
theorem attestation_take (h : nonce.length = 32) : (attestation s nonce).take 32 = nonce := by
  unfold attestation
  simp only [List.append_assoc]
  exact List.take_left' h

theorem moves_linkRetrain_down (hl : s.linkUp = true) : Moves .linkRetrain s { s with linkUp := false } := moves_of (if_pos hl)

theorem moves_linkRetrain_up (hl : s.linkUp = false) :
    Moves .linkRetrain s (s.hostWrites.foldl hostWrite { s with linkUp := true, hostWrites := [] }) :=
  moves_of (if_neg (Bool.eq_false_iff.mp hl))

/-- A port that has gone down is none of those that are up. -/
theorem portDown_getLsbD {x : BitVec 12} {port : Nat} (hp : port < 12) : (x &&& ~~~(BitVec.ofNat 12 (2 ^ port))).getLsbD port = false := by
  rw [BitVec.getLsbD_and, BitVec.getLsbD_not, BitVec.getLsbD_ofNat, Nat.testBit_two_pow_self]
  simp [hp]

end Host

/-- Settles O57: each act of the root, of the governor, of the clocks, of the host and of the fabric by its own rule. -/
theorem packageSteps : Obligations.PackageSteps := by
  unfold Obligations.PackageSteps
  refine ⟨?settings, ?dies, ?relock, fun add g s => timeMasterAlignment_early, ?align, fun watts s hf hlo hhi => moves_of (if_pos ⟨hf, hlo, hhi⟩),
    fun watts s h => ?plim, ?host, fun port s hp => ⟨moves_of (if_neg (by omega)), portDown_getLsbD hp⟩⟩
  case settings =>
    intro ctx strength base count group enable ranks s hp
    exact ⟨moves_egressSettingWrite hp, moves_msixWindowWrite hp, fun hg h2 hr =>
      ⟨moves_collectiveGroupDefine hp hg h2 hr, groupOf_defined s ctx group ranks⟩⟩
  case dies =>
    intro die point dram junction power temp s he
    refine ⟨fun hp => moves_of (if_pos ⟨hp, he⟩), moves_of (if_pos he), fun hot hcap hd hpaced => govern_lowers hd hot hcap hpaced,
      fun hd hj hp hc => govern_holds hd hj hp hc, fun ht => ?_, fun ht => ?_, fun hlo hhi => ?_, fun ht => moves_of (if_pos ⟨ht, he⟩)⟩
    · exact moves_refreshDoubling he (if_pos ht)
    · exact moves_refreshDoubling he ((if_neg (by omega)).trans (if_pos ht))
    · exact moves_refreshDoubling he ((if_neg (by omega)).trans (if_neg (by omega)))
  case relock => exact fun die e p s hd => ⟨⟨_, rfl, rfl⟩, endRelock_relocks hd⟩
  case align =>
    intro s h y z z'
    refine ⟨moves_of (exec_timeMasterAlignment h true), moves_of (exec_timeMasterAlignment h false), ?_⟩
    show s.now / Config.tick + s.slewPlus - s.slewMinus ≤ s.now / Config.tick + (s.slewPlus + 1) - s.slewMinus
    omega
  case plim => exact if_neg (by omega)
  case host =>
    intro addr data nonce s
    exact ⟨fun hl ha hv => ⟨moves_hostMemoryAccess hl ha hv, fun w => readPlaces_writePlaces_span w (dramKey_ordinary ha) rfl⟩,
      fun h => ⟨moves_of (if_pos h), attestation_take h⟩, moves_linkRetrain_down, moves_linkRetrain_up⟩

end Sys2Proof

namespace Sys2Proof

open Machine

/-! ## Reflection messages (R349 to R352) -/

section Reflection

variable {s : State} {n h code g x vc k l : Nat} {held : Tid} {async inh fwd : Bool} {epc eval : Word} {gs : List Word}

/-- The flight `f` is for the handler that context `h` has named for the child toward `x`, and of higher seniority (R351). -/
def reflectsBefore (s : State) (h x g : Nat) (held : Tid) (f : Flight) : Bool :=
  match f with
  | .reflection h' k _ _ _ _ _ _ g' _ x' _ =>
    reflectedTo s h' x' == reflectedTo s h x && (decide (g' < g) || (g' == g && decide (sourceOf s k < sourceOf s held)))
  | _ => false

/-- The core to which a message for the context `h` about its child toward `x` goes, where the handler's launch runs (R350). -/
def reflectCore (s : State) (h x : Nat) : Option Nat :=
  let child := s.ctx (childToward s 9 h x)
  match coreOfVc s h child.hvc with
  | none => none
  | some k =>
    let l := if child.hthr = 13 then (s.core k).resLaunch else (s.core k).launch
    match l.bind s.launches.find? with
    | some l => if l.ctx = h ∧ (s.sett (settOf k)).place.isSome then some k else none
    | none => none

theorem reflectsBefore_any_eq_false (hfirst : ∀ f ∈ s.flights, ∀ h' k c' a' i' f' e' v' g' gs' x' vc',
    f = .reflection h' k c' a' i' f' e' v' g' gs' x' vc' → reflectedTo s h' x' = reflectedTo s h x →
      ¬ (g' < g ∨ (g' = g ∧ sourceOf s k < sourceOf s held))) : s.flights.any (reflectsBefore s h x g held) = false := by
  rw [List.any_eq_false]
  intro f hf hb
  unfold reflectsBefore at hb
  split at hb
  · simp only [Bool.and_eq_true, beq_iff_eq, Bool.or_eq_true, decide_eq_true_eq] at hb
    exact hfirst _ hf _ _ _ _ _ _ _ _ _ _ _ _ rfl hb.1 hb.2
  · nomatch hb

theorem reflectCore_runs {launch : Launch} (hk : coreOfVc s h (s.ctx (childToward s 9 h x)).hvc = some k)
    (hl : (if (s.ctx (childToward s 9 h x)).hthr = 13 then (s.core k).resLaunch else (s.core k).launch) = some l)
    (hlaunch : s.launches.find? l = some launch) (hctx : launch.ctx = h) (hplace : (s.sett (settOf k)).place.isSome = true) :
    reflectCore s h x = some k := by
  unfold reflectCore
  dsimp only
  rw [hk]
  dsimp only
  rw [hl, Option.bind_some, hlaunch]
  exact if_pos ⟨hctx, hplace⟩

theorem reflectCore_none (hk : coreOfVc s h (s.ctx (childToward s 9 h x)).hvc = none) : reflectCore s h x = none := by
  unfold reflectCore
  dsimp only
  rw [hk]

theorem reflection_due (hfirst : s.flights.any (reflectsBefore s h x g held) = false) (hg : g < gts s) :
    ¬ (s.flights.any (reflectsBefore s h x g held) || decide (gts s ≤ g)) = true := by
  rw [hfirst, decide_eq_false (Nat.not_le.mpr hg)]
  nofun

variable (hf : s.flights[n]? = some (.reflection h held code async inh fwd epc eval g gs x vc))
  (hfirst : s.flights.any (reflectsBefore s h x g held) = false) (hg : g < gts s)
include hf hfirst hg

/-- A message that no other goes before is delivered, once its tick has passed, to the core of its handler. -/
theorem moves_reflectionMessage_delivered (hk : reflectCore s h x = some k) (hplaces : (s.core k).inbox.length < inboxPlaces)
    (hclock : settClock s (settOf k) = true) :
    let child := s.ctx (childToward s 9 h x)
    let z := { s with flights := s.flights.eraseIdx n }
    let y := z.setCore k { z.core k with
      inbox := (z.core k).inbox ++ [⟨reflectionBytes x vc held.thr code async inh fwd epc eval g gs,
        BitVec.ofNat 64 (vc + 65536 * held.thr + 2 ^ 24 * 0x81), child.hthr == 13⟩] }
    Moves (.reflectionMessage n) s (if child.hthr = 13 then wakeResident y k else y) := by
  intro child z y
  refine moves_of ?_
  show execReflectionMessage n s = _
  unfold execReflectionMessage
  rw [hf]
  refine (if_neg (reflection_due hfirst hg)).trans ?_
  split
  next k' hk' =>
    obtain rfl : k = k' := Option.some.inj (hk.symm.trans hk')
    refine if_neg ?_
    rintro (hfull | hstands)
    · exact Nat.not_le.mpr hplaces hfull
    · rw [hclock] at hstands
      nomatch hstands
  next hnone => cases hk.symm.trans hnone

/-- At the root a system call with no handler returns all ones (log 26); another message is reported, and its context torn down. -/
theorem exec_reflectionMessage_unhandled (hk : reflectCore s h x = none) (h0 : h = 0) :
    let z := { s with flights := s.flights.eraseIdx n }
    let q := beginTeardown { z with reports := z.reports ++ [reflectionBytes x vc held.thr code async inh fwd epc eval g gs] } x
    exec (.reflectionMessage n) s = if code = cSYSCALL then .next (lapse (resumeThread z held epc [(4, BitVec.allOnes 64)]))
      else .next (lapse (teardownStep ⟨x, none, none, none, none⟩ { q with teardowns := q.teardowns ++ [⟨x, none, none, none, none⟩] })) := by
  show execReflectionMessage n s = _
  unfold execReflectionMessage
  rw [hf]
  refine (if_neg (reflection_due hfirst hg)).trans ?_
  split
  next k' hk' => cases hk.symm.trans hk'
  next => exact if_neg (not_not.mpr h0)

end Reflection

/-! ## Budgets (R332) and host writes (R373) -/

theorem le_gts_advanceGts (s : State) (g : Nat) : g ≤ gts (advanceGts s g) := by
  unfold advanceGts
  split
  · assumption
  · have hnow : gts s < g := Nat.not_le.mp ‹_›
    have hgts : gts s = s.now / Config.tick + s.slewPlus - s.slewMinus := rfl
    show g ≤ (g + s.slewMinus - s.slewPlus) * Config.tick / Config.tick + s.slewPlus - s.slewMinus
    rw [Nat.mul_div_cancel _ (by decide)]
    omega

theorem outKey_ordinary {addr n : Nat} (h : addr % 64 + n ≤ 64) (ha : addr < Config.fabricBase) : outKey addr + n ≤ ordinary := by
  unfold outKey ordinary
  unfold Config.fabricBase at ha
  omega

theorem moves_cacheLineInvalidation {s : State} {addr : Nat} {data : List Byte} (hl : s.linkUp = true) (hlo : Config.hostBase ≤ addr)
    (hline : addr % 64 + data.length ≤ 64) (hhi : addr < Config.fabricBase) :
    Moves (.cacheLineInvalidation addr data) s (writePlaces s (span (outKey addr) data.length) data) := by
  refine moves_of ((if_pos (by simp [hlo, hline, hhi])).trans ?_)
  rw [hl]
  rfl

/-- Settles O53: a reflection message by where it goes; the period's start and the host's write by what they do. -/
theorem reflectionBudgetsAndHostWrites : Obligations.ReflectionBudgetsAndHostWrites := by
  unfold Obligations.ReflectionBudgetsAndHostWrites
  refine ⟨?message, fun s => ⟨⟨_, rfl, rfl⟩, le_gts_advanceGts s s.refillAt, by simp⟩, fun addr data s hl hlo hline hhi =>
    ⟨moves_cacheLineInvalidation hl hlo hline hhi, fun w => readPlaces_writePlaces_span w (outKey_ordinary hline hhi) rfl⟩⟩
  case message =>
    intro n h held code async inh fwd epc eval g gs x vc s hf hg hfirst child z body
    have hfirst := reflectsBefore_any_eq_false hfirst
    refine ⟨fun k l launch hk hl hlaunch hctx hclock hplaces => ?_, fun h0 hk hc => ?_, fun h0 hk hc => ?_⟩
    · have hplace : (s.sett (settOf k)).place.isSome = true := (Bool.and_eq_true_iff.mp hclock).1
      exact moves_reflectionMessage_delivered hf hfirst hg (reflectCore_runs hk hl hlaunch hctx hplace) hplaces hclock
    · exact moves_of ((exec_reflectionMessage_unhandled hf hfirst hg (reflectCore_none hk) h0).trans (if_pos hc))
    · exact moves_of ((exec_reflectionMessage_unhandled hf hfirst hg (reflectCore_none hk) h0).trans (if_neg hc))

end Sys2Proof

namespace Sys2Proof

open Machine

/-! ## The threads of a partition at a switch (R355, R41) -/

section Stop

/-- Completing what is pending writes the register files alone. -/
theorem complete_eq (th : Thread) : ∃ g v k, th.complete = { th with g := g, v := v, k := k, pend := [] } := by
  have hretire : ∀ (ps : List PendWrite) (t : Thread), ∃ g v k, ps.foldl Thread.retire t = { t with g := g, v := v, k := k } := by
    intro ps
    induction ps with
    | nil => exact fun t => ⟨_, _, _, rfl⟩
    | cons p ps ih =>
      intro t
      obtain ⟨g, v, k, h⟩ := ih (t.retire p)
      refine ⟨g, v, k, h.trans ?_⟩
      unfold Thread.retire
      split <;> rfl
  obtain ⟨g, v, k, h⟩ := hretire th.pend th
  exact ⟨g, v, k, by rw [Thread.complete, h]⟩

theorem stopThread_pc (th : Thread) : (stopThread th).pc = th.pc := by
  obtain ⟨g, v, k, h⟩ := complete_eq th
  show th.complete.pc = _
  rw [h]

theorem stopThread_keptSnap (th : Thread) : (stopThread th).keptSnap = th.keptSnap := by
  obtain ⟨g, v, k, h⟩ := complete_eq th
  show th.complete.keptSnap = _
  rw [h]
  rfl

/-- A thread that stops has every result that it is to have (R41). -/
theorem stopThread_finalG (th : Thread) {n : Nat} (hn : n < 32) : (stopThread th).finalG n = th.finalG n :=
  complete_readG th n hn

theorem stopAtInstant_thread {t : Tid} (s : State) (ht : t.thr < 16) : (stopAtInstant s t).thread t =
    if (s.thread t).chain.isSome || !dieRuns s (dieOf s t.core) then { s.thread t with stopped := (s.thread t).run != .dormant }
    else stopThread ((forgetMiss (drainPosted s t) t).thread t) := by
  unfold stopAtInstant stopHere
  dsimp only
  split
  · exact setThread_thread _ _ _ ht
  · exact setThread_thread _ _ _ ht

end Stop

/-! ## Slots (R354, R355) -/

section Slots

variable {s : State} {out : Nat} {w : Switch}

theorem gts_mapThreads (s : State) (ts : List Tid) (f : Thread → Thread) : gts (mapThreads s ts f) = gts s := by
  unfold mapThreads
  induction ts generalizing s with
  | nil => rfl
  | cons t ts ih =>
    rw [List.foldl_cons, ih]
    rw [gts, gts, setThread_now, setThread_slewPlus, setThread_slewMinus]

/-- The earliest armed slot is one of the armed slots. -/
theorem armedSwitch_mem (h : armedSwitch s out = some w) : w ∈ s.switches ∧ w.phase = 0 := by
  have hfold : ∀ (ws : List Switch) (best : Option Switch),
      ws.foldl (fun best w => match best with | none => some w | some b => if w.tick < b.tick then some w else some b) best = some w →
      w ∈ ws ∨ best = some w := by
    intro ws
    induction ws with
    | nil => exact fun best hb => .inr hb
    | cons v ws ih =>
      intro best hb
      obtain hw | hv := ih _ hb
      · exact .inl (List.mem_cons_of_mem _ hw)
      · cases best with
        | none => exact .inl (List.mem_cons.mpr (.inl (Option.some.inj hv).symm))
        | some b =>
          dsimp only at hv
          split at hv
          · exact .inl (List.mem_cons.mpr (.inl (Option.some.inj hv).symm))
          · exact .inr hv
  obtain hmem | hnone := hfold _ _ h
  · obtain ⟨hw, hp⟩ := List.mem_filter.mp hmem
    exact ⟨hw, eq_of_beq (Bool.and_eq_true_iff.mp hp).2⟩
  · nomatch hnone

end Slots

/-! ## Park buffers (R356) -/

section Park

theorem parkable_advanceGts (s : State) (g p : Nat) : parkable (advanceGts s g) p = parkable s p := by
  obtain ⟨n, h⟩ := advanceGts_eq s g
  rw [h]
  rfl

theorem advanceGts_flights (s : State) (g : Nat) : (advanceGts s g).flights = s.flights := by
  obtain ⟨n, h⟩ := advanceGts_eq s g
  rw [h]

/-- Every flight that can be parked is parked once. -/
theorem length_flushFlights (s : State) (p : Nat) : (flushFlights s p).2.length = (s.flights.filter (parkable s p)).length := by
  have hfold : ∀ (fs : List Flight) (r : State × List Flight),
      (fs.foldl (fun r f => let q := parkFlight r.1 f; (q.1, r.2 ++ [q.2])) r).2.length = r.2.length + fs.length := by
    intro fs
    induction fs with
    | nil => exact fun r => rfl
    | cons f fs ih =>
      intro r
      rw [List.foldl_cons, ih, List.length_append, List.length_singleton, List.length_cons]
      omega
  exact (hfold _ _).trans (Nat.zero_add _)

end Park

/-! ## Restoring (R359, R362) -/

section Restore

variable {s : State} {n : Nat} {d : Den} {places : List Nat}

theorem resumeIn_found {w : Switch} (h : s.dens.zipIdx.find? (fun e => e.1.bySwitch && e.1.root == w.inn) = some (d, n)) :
    resumeIn s w = tryRestore s n { d with fold := w.fold } (placementOf s w.place d) := by
  unfold resumeIn
  rw [h]

/-- The places of a restore are those that the slot's placement names, but where they do not hold the Den (log 87). -/
theorem placementOf_cases (s : State) (addr : Nat) (d : Den) :
    let named := (List.range (denSetts s d).length).map (Config.placement addr s.freeCount)
    named = placementOf s addr d ∨ placesBad s (s.ctx d.root).parent (denSetts s d) named = true := by
  intro named
  by_cases hbad : placesBad s (s.ctx d.root).parent (denSetts s d) named = true
  · exact .inr hbad
  · exact .inl (if_neg hbad).symm

theorem moves_denRestore (hd : s.dens[n]? = some d) : Moves (.denRestore n places) s (tryRestore s n d places) := by
  refine moves_of ?_
  show execDenRestore n places s = _
  rw [execDenRestore, hd]

theorem tryRestore_refused {r : Nat} (h : restoreReason s d places = some r) :
    tryRestore s n d places = { s with reports := s.reports ++ [leBytes 0x55 1 ++ leBytes r 1] } := by rw [tryRestore, h]

theorem tryRestore_whole (h : restoreReason s d places = none) : tryRestore s n d places = restoreDen s n d places := by rw [tryRestore, h]

end Restore

/-- Settles O54: each step of a switch from the slot that it finds, and what becomes of a thread, a flight and a Den. -/
theorem gangSwitches : Obligations.GangSwitches := by
  unfold Obligations.GangSwitches
  refine ⟨fun image s hl hp => ⟨moves_of (if_pos ⟨hl, hp⟩), rfl, rfl⟩, ?tick, ?stop, fun t s ht => stopAtInstant_thread s ht,
    fun th => ⟨rfl, rfl, stopThread_pc th, rfl, rfl, stopThread_keptSnap th, fun n hn => stopThread_finalG th hn⟩, ?flush,
    fun t k m s => rfl, ?report, ?resume, ?abort, ?restore⟩
  case tick =>
    intro out w s ha hn z y
    obtain ⟨hw, hphase⟩ := armedSwitch_mem ha
    refine ⟨(le_gts_advanceGts s w.tick).trans_eq (gts_mapThreads z _ _).symm, hw, hphase, fun ho => moves_of ?_, fun ho => moves_of ?_⟩
    · show execSwitchTick out s = _
      unfold execSwitchTick
      rw [ha, hn]
      exact if_neg (Bool.eq_false_iff.mp ho)
    · show execSwitchTick out s = _
      unfold execSwitchTick
      rw [ha, hn]
      exact if_pos ho
  case stop =>
    intro out w s ha hp
    refine moves_of ?_
    show execStopInstant out s = _
    unfold execStopInstant
    rw [ha]
    exact if_neg (not_not.mpr hp)
  case flush =>
    intro out w s ha hp hf r
    constructor
    · refine moves_of ?_
      show execParkBufferFlush out s = _
      unfold execParkBufferFlush
      rw [ha]
      exact if_neg (by rw [hp, hf]; simp)
    · rw [length_flushFlights, parkable_advanceGts, advanceGts_flights]
  case report =>
    intro out die w s ha hp hq hd hr hg hf
    refine moves_of ?_
    show execDenSaveReport out die s = _
    unfold execDenSaveReport
    rw [ha]
    exact if_neg (by rw [hp, hq, hd, hr, hf]; simpa using hg)
  case resume => exact fun w s d n h => ⟨_, resumeIn_found h, placementOf_cases s w.place d⟩
  case abort =>
    intro out w s ha hp
    refine moves_of ?_
    show execSwitchAbort out s = _
    unfold execSwitchAbort
    rw [ha]
    exact if_neg (not_not.mpr hp)
  case restore =>
    intro n places d s hd
    refine ⟨fun r hr => ?_, fun hr => ?_⟩
    · rw [← tryRestore_refused (n := n) hr]
      exact moves_denRestore hd
    · rw [← tryRestore_whole (n := n) hr]
      exact moves_denRestore hd

end Sys2Proof

namespace Sys2Proof

open Machine

/-! ## CTXNEW (R336) -/

section NewContext

variable {st : BitVec 3} {d a b : BitVec 5} {s z : State} {t : Tid} {x id : Nat} {blk : List Byte}

/-- The context that CTXNEW makes of a block. -/
def bornContext (z : State) (x : Nat) (blk : List Byte) : Context := { childContext z x blk with keyGen := z.freeCount }

/-- The context would take a key slot, and a die has none left (R226). -/
abbrev LacksKeys (z : State) (c : Context) : Prop := c.ownKey = true ∧ ((enabledDies z).any fun e => decide (keySlots ≤ (z.die e).keysUsed)) = true

/-- The state in which the context `c` lives under the number `id`. -/
def withChild (z : State) (id : Nat) (c : Context) : State :=
  let y := if c.ownKey then moveKeys z (· + 1) else z
  { y.setCtx id c with dead := (y.dead.erase id).filter fun e => e.2 != id }

/-- What CTXNEW does with a block that has passed the checks: the limits in their order, then the child. -/
def bearContext (z : State) (t : Tid) (x : Nat) (blk : List Byte) (d : BitVec 5) : Except Stop (State × Next) :=
  match freeContext z with
  | none => limited 1
  | some id =>
    if 8 ≤ (z.ctx x).depth then limited 2
    else if x = 0 ∧ 24 ≤ depthCount z 1 then limited 3
    else if LacksKeys z (bornContext z x blk) then limited 4
    else gives (withChild z id (bornContext z x blk)) t d (BitVec.ofNat 64 id)

theorem exec_ctxnew (hk : ctxBlock (begun (homeForm [a]) s) s.cur a.toNat 64 = .ok blk) :
    let z := begun (homeForm [a]) s
    ∃ w body, exec (.ctxnew st d a b) s = issue (homeOp w st [a]) s body ∧
      body z s.cur = rejectBad 2 (ctxnewChecks blk) >>= fun _ => bearContext z s.cur (ctxOf z s.cur) blk d := by
  refine ⟨_, _, rfl, bind_of_ok hk ?_⟩
  generalize begun (homeForm [a]) s = z
  refine congrArg (rejectBad 2 (ctxnewChecks blk) >>= ·) (funext fun _ => ?_)
  unfold bearContext
  cases freeContext z with
  | none => rfl
  | some id =>
    show (if 8 ≤ (z.ctx (ctxOf z s.cur)).depth then _ else _) = _
    refine if_congr Iff.rfl rfl (if_congr Iff.rfl rfl (if_congr Iff.rfl rfl ?_))
    rfl

theorem bearContext_full (h : freeContext z = none) : bearContext z t x blk d = limited 1 := by
  unfold bearContext
  rw [h]

section Numbered

variable (hid : freeContext z = some id)
include hid

theorem bearContext_deep (h : 8 ≤ (z.ctx x).depth) : bearContext z t x blk d = limited 2 := by
  unfold bearContext
  rw [hid]
  exact if_pos h

variable (hdepth : (z.ctx x).depth < 8)
include hdepth

theorem bearContext_partitions (hx : x = 0) (h : 24 ≤ depthCount z 1) : bearContext z t x blk d = limited 3 := by
  unfold bearContext
  rw [hid]
  exact (if_neg (Nat.not_le.mpr hdepth)).trans (if_pos ⟨hx, h⟩)

variable (hroot : x = 0 → depthCount z 1 < 24)
include hroot

theorem bearContext_keys : bearContext z t x blk d = if LacksKeys z (bornContext z x blk) then limited 4
    else gives (withChild z id (bornContext z x blk)) t d (BitVec.ofNat 64 id) := by
  unfold bearContext
  rw [hid]
  exact (if_neg (Nat.not_le.mpr hdepth)).trans (if_neg fun h => Nat.not_le.mpr (hroot h.1) h.2)

end Numbered

end NewContext

/-! ## CTXGRANT (R337) -/

section Grant

variable {st : BitVec 3} {d a b : BitVec 5} {s z : State} {t : Tid} {x y : Nat} {blk : List Byte}

/-- A live child of the context `x`. -/
def liveChild (z : State) (x y : Nat) : Bool := inSubtree z x y && y != x && (z.ctx y).parent == x && (z.ctx y).st == .live

theorem liveChild_iff : liveChild z x y = true ↔ inSubtree z x y = true ∧ y ≠ x ∧ (z.ctx y).parent = x ∧ (z.ctx y).st = .live := by
  simp [liveChild, and_assoc]

/-- What a grant of a kind gives. -/
def grantKind (n : Nat) : State → Nat → Nat → List Byte → Except Stop State :=
  match n with
  | 0 => grantKind0
  | 1 => grantKind1
  | 2 => grantKind2
  | 3 => grantKind3
  | 4 => grantKind4
  | _ => grantKind5

/-- What CTXGRANT does with a block that has passed the checks. -/
def grantTo (z : State) (t : Tid) (x y : Nat) (blk : List Byte) (d : BitVec 5) : Except Stop (State × Next) :=
  if !liveChild z x y then denied 1 y
  else grantKind (blkNat blk 2 1) (drainPosted z t) x y blk >>= fun r => gives r t d 0

theorem exec_ctxgrant (hk : ctxBlock (begun (homeForm [a]) s) s.cur a.toNat 64 = .ok blk) :
    let z := begun (homeForm [a]) s
    let x := ctxOf z s.cur
    let y := targetOf x (blkNat blk 0 2)
    ∃ w body, exec (.ctxgrant st d a b) s = issue (homeOp w st [a]) s body ∧ body z s.cur =
      rejectBad 3 (kindChecks blk 5 ++ grantChecks blk (liveChild z x y && !(z.ctx y).isRes)) >>= fun _ => grantTo z s.cur x y blk d := by
  refine ⟨_, _, rfl, bind_of_ok hk ?_⟩
  refine congrArg (rejectBad 3 _ >>= ·) (funext fun _ => ?_)
  refine if_congr Iff.rfl rfl ?_
  generalize blkNat blk 2 1 = n
  rcases n with _ | _ | _ | _ | _ | n <;> rfl

theorem grantTo_outside (h : liveChild z x y = false) : grantTo z t x y blk d = denied 1 y := if_pos (by rw [h]; rfl)

theorem grantTo_child (h : liveChild z x y = true) :
    grantTo z t x y blk d = grantKind (blkNat blk 2 1) (drainPosted z t) x y blk >>= fun r => gives r t d 0 := if_neg (by rw [h]; nofun)

end Grant

/-! ## CTXREVOKE (R338) -/

section Revoke

variable {st : BitVec 3} {d a b : BitVec 5} {s p q : State} {t : Tid} {x y : Nat} {blk : List Byte}

/-- Where a teardown's Den is to be written, if one is asked for. -/
def denPlace (p : State) (x y : Nat) (blk : List Byte) : Except Stop (Option Nat) :=
  if blkNat blk 8 1 = 0 then .ok none
  else match rangeAt (p.ctx x) (blkNat blk 16 8) with
    | some r => .ok (some (r.dpa + (blkNat blk 16 8 - r.cpa)))
    | none => denied 2 y

/-- A revocation of kind 0. -/
def tearDown (p : State) (t : Tid) (x y : Nat) (blk : List Byte) (d : BitVec 5) : Except Stop (State × Next) :=
  if deadUnder p 9 x y then gives p t d 0
  else if !(inSubtree p x y && y != x) then denied 1 y
  else denPlace p x y blk >>= fun den => .ok (revoke (beginTeardown p y) t d.toNat ⟨y, den, some t, none, none⟩)

/-- Whether a revocation of a kind but 0 may be of the context `y`: a flush is of the issuer. -/
def mayTake (p : State) (x y : Nat) (blk : List Byte) : Bool :=
  if blkNat blk 2 1 = 4 then blkNat blk 0 2 == 0 else inSubtree p x y && y != x

/-- The setts that a context holds, of its launches or of its resident launches. -/
def heldSetts (c : Context) : List (Nat × Nat) := if c.isRes then c.resSetts else c.setts

/-- A revocation of a kind but 0. -/
def takeBack (p : State) (t : Tid) (x y : Nat) (blk : List Byte) (d : BitVec 5) : Except Stop (State × Next) :=
  if !mayTake p x y blk then denied 1 y
  else if blkNat blk 2 1 = 2 then
    if (heldSetts (p.ctx y)).length < blkNat blk 8 2 then denied 2 y
    else .ok (revoke p t d.toNat ⟨y, none, some t, some ((lastN (heldSetts (p.ctx y)) (blkNat blk 8 2)).map (·.2)), none⟩)
  else revokeKind p y blk >>= fun r => gives r t d 0

theorem exec_ctxrevoke (hk : ctxBlock (begun (homeForm [a]) s) s.cur a.toNat 64 = .ok blk) :
    let z := begun (homeForm [a]) s
    let x := ctxOf z s.cur
    let y := targetOf x (blkNat blk 0 2)
    let p := drainPosted z s.cur
    ∃ w body, exec (.ctxrevoke st d a b) s = issue (homeOp w st [a]) s body ∧ body z s.cur =
      rejectBad 4 (kindChecks blk 4 ++ revokeChecks blk) >>= fun _ =>
        if blkNat blk 2 1 = 0 then tearDown p s.cur x y blk d else takeBack p s.cur x y blk d := by
  refine ⟨_, _, rfl, bind_of_ok hk ?_⟩
  refine congrArg (rejectBad 4 _ >>= ·) (funext fun _ => ?_)
  refine if_congr Iff.rfl (if_congr Iff.rfl rfl (if_congr Iff.rfl rfl ?den)) (if_congr Iff.rfl rfl (if_congr Iff.rfl ?setts rfl))
  case den =>
    generalize drainPosted (begun (homeForm [a]) s) s.cur = p
    generalize ctxOf (begun (homeForm [a]) s) s.cur = x
    show (if blkNat blk 8 1 = 0 then _ else _) = _
    unfold denPlace
    split
    · rfl
    · cases rangeAt (p.ctx x) (blkNat blk 16 8) <;> rfl
  case setts => exact if_congr Iff.rfl rfl rfl

theorem tearDown_dead (h : deadUnder p 9 x y = true) : tearDown p t x y blk d = gives p t d 0 := if_pos h

theorem tearDown_outside (hd : deadUnder p 9 x y = false) (h : inSubtree p x y = false ∨ y = x) : tearDown p t x y blk d = denied 1 y := by
  refine (if_neg (Bool.eq_false_iff.mp hd)).trans (if_pos ?_)
  rcases h with h | h
  · rw [h]
    rfl
  · simp [h]

section Inside

variable (hd : deadUnder p 9 x y = false) (hs : inSubtree p x y = true) (hy : y ≠ x)
include hd hs hy

theorem tearDown_inside : tearDown p t x y blk d =
    denPlace p x y blk >>= fun den => .ok (revoke (beginTeardown p y) t d.toNat ⟨y, den, some t, none, none⟩) :=
  (if_neg (Bool.eq_false_iff.mp hd)).trans (if_neg (by simp [hs, hy]))

theorem tearDown_plain (h : blkNat blk 8 1 = 0) :
    tearDown p t x y blk d = .ok (revoke (beginTeardown p y) t d.toNat ⟨y, none, some t, none, none⟩) :=
  (tearDown_inside hd hs hy).trans (bind_of_ok (if_pos h) rfl)

theorem tearDown_noRange (h : blkNat blk 8 1 ≠ 0) (hr : rangeAt (p.ctx x) (blkNat blk 16 8) = none) : tearDown p t x y blk d = denied 2 y :=
  (tearDown_inside hd hs hy).trans (bind_of_error ((if_neg h).trans (by rw [hr]; rfl)))

theorem tearDown_den {r : FRange} (h : blkNat blk 8 1 ≠ 0) (hr : rangeAt (p.ctx x) (blkNat blk 16 8) = some r) : tearDown p t x y blk d =
    .ok (revoke (beginTeardown p y) t d.toNat ⟨y, some (r.dpa + (blkNat blk 16 8 - r.cpa)), some t, none, none⟩) :=
  (tearDown_inside hd hs hy).trans (bind_of_ok ((if_neg h).trans (by rw [hr])) rfl)

end Inside

theorem mayTake_iff : mayTake p x y blk = true ↔ if blkNat blk 2 1 = 4 then blkNat blk 0 2 = 0 else inSubtree p x y = true ∧ y ≠ x := by
  unfold mayTake
  split <;> simp

theorem takeBack_outside (h : mayTake p x y blk = false) : takeBack p t x y blk d = denied 1 y := if_pos (by rw [h]; rfl)

section May

variable (hm : mayTake p x y blk = true)
include hm

theorem takeBack_setts (h2 : blkNat blk 2 1 = 2) : takeBack p t x y blk d =
    if (heldSetts (p.ctx y)).length < blkNat blk 8 2 then denied 2 y
    else .ok (revoke p t d.toNat ⟨y, none, some t, some ((lastN (heldSetts (p.ctx y)) (blkNat blk 8 2)).map (·.2)), none⟩) :=
  (if_neg (by rw [hm]; nofun)).trans (if_pos h2)

theorem takeBack_kind (h2 : blkNat blk 2 1 ≠ 2) : takeBack p t x y blk d = revokeKind p y blk >>= fun r => gives r t d 0 :=
  (if_neg (by rw [hm]; nofun)).trans (if_neg h2)

end May

/-- A revocation that is complete at once gives 0, and one that must wait is under way (R339). -/
theorem ends_of_revoke {i : Instr} {op : Op} {f : Form} {body : Body} {w : Teardown} (he : exec i s = issue op s body) (hf : op.Has f)
    (hi : Issues f s) (hb : body (begun f s) s.cur = .ok (revoke q s.cur d.toNat w)) :
    let r := revokeStep w { q with teardowns := q.teardowns ++ [w] }
    (r.2 = true → Yields i s r.1 d.toNat 0) ∧ (r.2 = false → Sends i s r.1 false d.toNat) :=
  ⟨fun h => yields_of he hf hi d.isLt (hb.trans (congrArg Except.ok (if_pos h))),
    fun h => sends_of he hf hi (hb.trans (congrArg Except.ok (if_neg (Bool.eq_false_iff.mp h))))⟩

end Revoke

/-! ## CTXSTAT (R340) -/

section Status

variable {st : BitVec 3} {d a b : BitVec 5} {s z : State} {t : Tid} {x y : Nat} {w : Word}

/-- How CTXSTAT issues. -/
def statForm (a b : BitVec 5) : Form := { gForm [a, b] with cls := .irrev }

/-- What the frame of every instruction knows of it. -/
def statOp (w : BitVec 32) (st : BitVec 3) (a b : BitVec 5) : Op :=
  { word := w, stall := st.toNat, reads := [(.g, a.toNat), (.g, b.toNat)], cls := .irrev }

theorem statOp_has (o : BitVec 32) : (statOp o st a b).Has (statForm a b) := ⟨rfl, rfl, rfl, rfl, rfl, rfl, rfl, rfl⟩

/-- A selector of CTXSTAT that names no value: a reserved class, or a budget beyond the last. -/
abbrev BadSelector (w : Word) : Prop := 5 < field w 3 0 ∨ (0 < field w 3 0 ∧ field w 3 0 < 4 ∧ 4 < field w 6 4)

/-- What CTXSTAT gives of the context `y` to one of `x`. -/
def readStatus (z : State) (t : Tid) (x y : Nat) (w : Word) (d : BitVec 5) : Except Stop (State × Next) :=
  if BadSelector w then .error (.trap cOPERAND_RANGE w)
  else if inSubtree z x y then gives z t d (statValue z y w)
  else if deadUnder z 9 x y then gives z t d (if field w 3 0 = 0 then 2 else 0)
  else denied 1 y

theorem exec_ctxstat (hi : Issues (statForm a b) s) :
    let z := begun (statForm a b) s
    let x := ctxOf z s.cur
    ∃ o body, exec (.ctxstat st d a b) s = issue (statOp o st a b) s body ∧
      body z s.cur = readStatus z s.cur x (targetOf x (field (s.me.readG a.toNat) 9 0)) (s.me.readG b.toNat) d := by
  refine ⟨_, _, rfl, ?_⟩
  simp only [begun_readG hi.context]
  rfl

variable (hw : ¬ BadSelector w)
include hw

theorem readStatus_inside (hs : inSubtree z x y = true) : readStatus z t x y w d = gives z t d (statValue z y w) :=
  (if_neg hw).trans (if_pos hs)

theorem readStatus_dead (hs : inSubtree z x y = false) (hd : deadUnder z 9 x y = true) :
    readStatus z t x y w d = gives z t d (if field w 3 0 = 0 then 2 else 0) :=
  (if_neg hw).trans ((if_neg (Bool.eq_false_iff.mp hs)).trans (if_pos hd))

theorem readStatus_outside (hs : inSubtree z x y = false) (hd : deadUnder z 9 x y = false) : readStatus z t x y w d = denied 1 y :=
  (if_neg hw).trans ((if_neg (Bool.eq_false_iff.mp hs)).trans (if_neg (Bool.eq_false_iff.mp hd)))

end Status

/-- Settles O51: each instruction by the checks of its block, then by what it does with the context that it names. -/
theorem contextTree : Obligations.ContextTree := by
  unfold Obligations.ContextTree
  intro st d a b s f g z x bad outside
  refine ⟨fun blk hi hk => ?new, fun blk hi hk => ?grant, fun blk hi hk => ?revoke, fun hi => ?status⟩
  case new =>
    obtain ⟨w, body, he, hb⟩ := exec_ctxnew (st := st) (d := d) (b := b) hk
    refine ⟨fun e hbad => raises_of he (homeOp_has w st [a]) rfl hi (hb.trans (bind_of_error (rejectBad_some hbad))), fun hgood => ?_⟩
    have hb := hb.trans (bind_of_ok (rejectBad_none hgood) rfl)
    refine ⟨fun hfull => raises_of he (homeOp_has w st [a]) rfl hi (hb.trans (bearContext_full hfull)), ?_⟩
    intro id hid child short
    refine ⟨fun hdeep => raises_of he (homeOp_has w st [a]) rfl hi (hb.trans (bearContext_deep hid hdeep)),
      fun hdepth hx hp => raises_of he (homeOp_has w st [a]) rfl hi (hb.trans (bearContext_partitions hid hdepth hx hp)),
      fun hdepth hroot => ?_⟩
    have hb := hb.trans (bearContext_keys hid hdepth hroot)
    exact ⟨fun hshort => raises_of he (homeOp_has w st [a]) rfl hi (hb.trans (if_pos hshort)), fun hkeys =>
      ⟨yields_of he (homeOp_has w st [a]) hi d.isLt (hb.trans (if_neg hkeys)), rfl, rfl, rfl, rfl, rfl, rfl, rfl, rfl⟩⟩
  case grant =>
    intro i y cs mine grants
    obtain ⟨w, body, he, hb⟩ := exec_ctxgrant (st := st) (d := d) (b := b) hk
    have hmine : liveChild z x y = true ↔ mine := liveChild_iff
    refine ⟨fun e hbad => raises_of he (homeOp_has w st [a]) rfl hi (hb.trans (bind_of_error (rejectBad_some hbad))), fun hgood => ?_⟩
    have hb := hb.trans (bind_of_ok (rejectBad_none hgood) rfl)
    refine ⟨fun hout => raises_of he (homeOp_has w st [a]) rfl hi
      (hb.trans (grantTo_outside (Bool.eq_false_iff.mpr (mt hmine.mp hout)))), fun hm => ?_⟩
    have hb := hb.trans (grantTo_child (hmine.mpr hm))
    have hgrants : ∀ {k : State → Nat → Nat → List Byte → Except Stop State}, grantKind (blkNat blk 2 1) = k → grants k := by
      intro k hkind
      rw [hkind] at hb
      exact ⟨fun r hr => yields_of he (homeOp_has w st [a]) hi d.isLt (hb.trans (bind_of_ok hr rfl)),
        fun code e hr => raises_of he (homeOp_has w st [a]) rfl hi (hb.trans (bind_of_error hr))⟩
    exact ⟨fun h => hgrants (congrArg grantKind h), fun h => hgrants (congrArg grantKind h), fun h => hgrants (congrArg grantKind h),
      fun h => hgrants (congrArg grantKind h), fun h => hgrants (congrArg grantKind h), fun h => hgrants (congrArg grantKind h)⟩
  case revoke =>
    intro i cs y p ends
    obtain ⟨w, body, he, hb⟩ := exec_ctxrevoke (st := st) (d := d) (b := b) hk
    have hends {q : State} {v : Teardown} (hq : body z s.cur = .ok (revoke q s.cur d.toNat v)) : ends q v :=
      ends_of_revoke he (homeOp_has w st [a]) hi hq
    refine ⟨fun e hbad => raises_of he (homeOp_has w st [a]) rfl hi (hb.trans (bind_of_error (rejectBad_some hbad))),
      fun hgood h0 => ?_, fun hgood h0 => ?_⟩
    · have hb := (hb.trans (bind_of_ok (rejectBad_none hgood) rfl)).trans (if_pos h0)
      refine ⟨fun hd => yields_of he (homeOp_has w st [a]) hi d.isLt (hb.trans (tearDown_dead hd)),
        fun hd hout => raises_of he (homeOp_has w st [a]) rfl hi (hb.trans (tearDown_outside hd hout)), fun hd hs hy => ?_⟩
      exact ⟨fun hden => hends (hb.trans (tearDown_plain hd hs hy hden)),
        fun hden hr => raises_of he (homeOp_has w st [a]) rfl hi (hb.trans (tearDown_noRange hd hs hy hden hr)),
        fun r hden hr => hends (hb.trans (tearDown_den hd hs hy hden hr))⟩
    · intro may held n
      have hb := (hb.trans (bind_of_ok (rejectBad_none hgood) rfl)).trans (if_neg h0)
      have hmay : mayTake p x y blk = true ↔ may := mayTake_iff
      refine ⟨fun hout => raises_of he (homeOp_has w st [a]) rfl hi
          (hb.trans (takeBack_outside (Bool.eq_false_iff.mpr (mt hmay.mp hout)))),
        fun hm h2 hn => raises_of he (homeOp_has w st [a]) rfl hi (hb.trans ((takeBack_setts (hmay.mpr hm) h2).trans (if_pos hn))),
        fun hm h2 hn => hends (hb.trans ((takeBack_setts (hmay.mpr hm) h2).trans (if_neg (Nat.not_lt.mpr hn)))),
        fun r hm h2 hr => ?_, fun code e hm h2 hr => ?_⟩
      · exact yields_of he (homeOp_has w st [a]) hi d.isLt (hb.trans ((takeBack_kind (hmay.mpr hm) h2).trans (bind_of_ok hr rfl)))
      · exact raises_of he (homeOp_has w st [a]) rfl hi (hb.trans ((takeBack_kind (hmay.mpr hm) h2).trans (bind_of_error hr)))
  case status =>
    intro z i w x y bad
    obtain ⟨o, body, he, hb⟩ := exec_ctxstat (st := st) (d := d) hi
    refine ⟨fun hbad => raises_of he (statOp_has o) rfl hi (hb.trans (if_pos hbad)), fun hgood => ⟨fun hs => ?_, fun hs hd => ?_, fun hs hd => ?_⟩⟩
    · exact yields_of he (statOp_has o) hi d.isLt (hb.trans (readStatus_inside hgood hs))
    · exact yields_of he (statOp_has o) hi d.isLt (hb.trans (readStatus_dead hgood hs hd))
    · exact raises_of he (statOp_has o) rfl hi (hb.trans (readStatus_outside hgood hs hd))

end Sys2Proof

namespace Sys2Proof

open Machine

/-! ## COLL (R376) -/

section Contribution

variable {st : BitVec 3} {d a b : BitVec 5} {s z : State} {t : Tid} {i : Instr} {form : Nat} {kind : Via} {ks : List Nat} {blk : List Byte}

/-- A word of a block. -/
def blkWord (blk : List Byte) (off : Nat) : Word := wordOf ((blk.drop off).take 8)

/-- A collective block names a handle, and a SIGNAL. -/
def namesHandle (blk : List Byte) : Bool := (blkNat blk 6 1).testBit 0
def namesSignal (blk : List Byte) : Bool := (blkNat blk 6 1).testBit 1

/-- The handle of a collective block as it stands. -/
def collHandle (z : State) (t : Tid) (blk : List Byte) : Word := (z.sett (settOf t.core)).handle (blkNat blk 7 1 + resHandles t)

/-- The state in which the handle of a collective block is filling, if it names one. -/
def fillHandle (z : State) (t : Tid) (blk : List Byte) : State :=
  if namesHandle blk then setHandleOf z (settOf t.core) (blkNat blk 7 1 + resHandles t)
    (BitVec.ofNat 64 (field (collHandle z t blk) 63 32 * 2 ^ 32 + hFilling)) else z

/-- The contribution of a thread, whose view was `v`, by a block in the state `y`. -/
def contribOf (y : State) (t : Tid) (v : View) (part form : Nat) (blk : List Byte) : Contrib :=
  let deadline := if blkNat blk 12 4 = 0 then none else some (gts y + 1024 * blkNat blk 12 4)
  let paused := if collHeld y part (blkNat blk 0 2) then some (gts y) else none
  ⟨part, blkNat blk 0 2, BitVec.ofNat 64 (blkNat blk 40 8), blkNat blk 2 2, form, blkNat blk 4 1, blkNat blk 5 1, blkNat blk 8 4,
    namesHandle blk, namesSignal blk, blkNat blk 7 1, deadline, blkWord blk 16, blkWord blk 24, blkWord blk 32, t, v.segBase, v.segLimit,
    paused, dieOf y t.core⟩

/-- The state with the contribution of a block. -/
def withContrib (z : State) (t : Tid) (form : Nat) (blk : List Byte) : State :=
  let y := fillHandle z t blk
  { y with contribs := y.contribs ++ [contribOf y t (viewOf z t) (partOf z 9 (ctxOf z t)) form blk] }

/-- What COLL does with a block that has passed the checks and whose extents may be reached. -/
def contribute (z : State) (t : Tid) (form : Nat) (blk : List Byte) (d : BitVec 5) : Except Stop (State × Next) :=
  if namesHandle blk && hState (collHandle z t blk) != hFree then
    .error (.trap cHANDLE_STATE (handleEval (blkNat blk 7 1 + vsettOf z t % 1024 * 65536) (hState (collHandle z t blk))))
  else gives (withContrib z t form blk) t d 0

theorem exec_coll (hm : (i, form) ∈ ([(.collAr st d a b, 0), (.collAg st d a b, 1), (.collRs st d a b, 2)] : List (Instr × Nat))) (s : State) :
    ∃ w, exec i s = collIssue w form st d a s := by
  simp only [List.mem_cons, List.not_mem_nil, or_false, Prod.mk.injEq] at hm
  obtain ⟨rfl, rfl⟩ | ⟨rfl, rfl⟩ | ⟨rfl, rfl⟩ := hm
  · exact ⟨_, rfl⟩
  · exact ⟨_, rfl⟩
  · exact ⟨_, rfl⟩

/-- The body of COLL once its block has been read. -/
theorem collIssue_body (w : BitVec 32) (hi : Issues (homeForm [a]) s)
    (hk : ownBlock (begun (homeForm [a]) s) s.cur (s.me.readG a.toNat) 64 64 rRD = .ok (kind, ks)) :
    let z := settlePosted (begun (homeForm [a]) s) s.cur ks
    let blk := readPlaces z ks
    let v := viewOf z s.cur
    ∃ body, collIssue w form st d a s = issue (homeOp w st [a]) s body ∧
      (collMalformed z s.cur v form blk ≠ 0 →
        body (begun (homeForm [a]) s) s.cur = .error (.trap cCOLL_MALFORMED (BitVec.ofNat 64 (collMalformed z s.cur v form blk)))) ∧
      (∀ g, collMalformed z s.cur v form blk = 0 → groupOf z (partOf z 9 (ctxOf z s.cur)) (blkNat blk 0 2) = some g →
        extentCheck z v (blkWord blk 16) (0, srcBytes form (blkNat blk 4 1) (blkNat blk 8 4) g.ranks.length) rRD = .ok () →
        extentCheck z v (blkWord blk 24) (0, dstBytes form (blkNat blk 4 1) (blkNat blk 8 4) g.ranks.length) rWR = .ok () →
        (namesSignal blk = true → ∃ k, objectCheck z v (blkWord blk 32) 16 rAMO = .ok k) →
        body (begun (homeForm [a]) s) s.cur = contribute z s.cur form blk d) := by
  intro z blk v
  refine ⟨_, rfl, fun hbad => ?_, fun g hgood hg hsrc hdst hsig => ?_⟩
  · simp only [begun_readG hi.context]
    exact bind_of_ok hk (if_pos hbad)
  · simp only [begun_readG hi.context]
    refine bind_of_ok hk ((if_neg (not_not.mpr hgood)).trans ?_)
    show (extentCheck z v (blkWord blk 16) (0, srcBytes form (blkNat blk 4 1) (blkNat blk 8 4)
      (match groupOf z (partOf z 9 (ctxOf z s.cur)) (blkNat blk 0 2) with | some g => g.ranks.length | none => 0)) rRD >>= _) = _
    rw [hg]
    refine bind_of_ok hsrc (bind_of_ok hdst ?_)
    show (if namesSignal blk = true then _ else _) = _
    split
    · obtain ⟨k, hobject⟩ := hsig ‹_›
      exact bind_of_ok hobject rfl
    · rfl

end Contribution

/-! ## EGRS and EGFIN (R378, R379) -/

section Egress

variable {st : BitVec 3} {d a b : BitVec 5} {s z : State} {t : Tid} {kind : Via} {ks dst : List Nat} {blk : List Byte}
  {c : Context} {y : Clip} {clip : Option Clip} {host : Except Stop (Option (List Nat))} {check : Except Stop Unit} {r : Except Stop (State × Next)}

/-- The partition to which a thread's frames belong. -/
def framePart (z : State) (t : Tid) : Nat := partOf z 9 (ctxOf z t)

/-- The open clip that an egress block names. -/
def namedClip (z : State) (t : Tid) (blk : List Byte) : Option Clip := clipOf (z.ctx (framePart z t)) (egClip blk)

/-- The places of the DST of an egress block, `size` bytes in host memory. -/
def frameDst (z : State) (t : Tid) (blk : List Byte) (size : Nat) : Except Stop (Option (List Nat)) :=
  hostPlaces z (viewOf z t) (egAddr blk 48) size

/-- The last checks of an egress block, reasons 5 to 7 of Table 23.11, before the marker has what it asks for. -/
def toMarker (c : Context) (clip : Option Clip) (host : Except Stop (Option (List Nat))) (check : Except Stop Unit)
    (r : Except Stop (State × Next)) : Except Stop (State × Next) :=
  if (match host with | .ok none => true | _ => false) then egressState 5
  else if !c.egEnable then egressState 6
  else if clip.any fun y => y.failed then egressState 7
  else host >>= fun _ => check >>= fun _ => r

theorem toMarker_notHost (h : host = .ok none) : toMarker c clip host check r = egressState 5 := by
  subst h
  rfl

section Host

variable (h : host = .ok (some dst))
include h

theorem toMarker_disabled (he : c.egEnable = false) : toMarker c clip host check r = egressState 6 := by
  subst h
  exact if_pos (by rw [he]; rfl)

variable (he : c.egEnable = true)
include he

theorem toMarker_failed (hy : ∃ y, clip = some y ∧ y.failed = true) : toMarker c clip host check r = egressState 7 := by
  subst h
  obtain ⟨y, rfl, hfailed⟩ := hy
  exact (if_neg (by rw [he]; nofun)).trans (if_pos hfailed)

theorem toMarker_accepts {k : Unit} (hy : ∀ y, clip = some y → y.failed = false) (hk : check = .ok k) : toMarker c clip host check r = r := by
  subst h hk
  refine (if_neg (by rw [he]; nofun)).trans (if_neg ?_)
  cases clip with
  | none => nofun
  | some y => exact Bool.eq_false_iff.mp (hy y rfl)

end Host

/-- An open clip that the block's frame does not continue (Table 23.11, reason 2). -/
def breaksClip (blk : List Byte) (y : Clip) : Bool := egFrame blk < y.last || y.fw != egFW blk || y.fh != egFH blk

theorem any_breaksClip : clip.any (breaksClip blk) = true ↔
    ∃ y, clip = some y ∧ (egFrame blk < y.last ∨ y.fw ≠ egFW blk ∨ y.fh ≠ egFH blk) := by
  simp [Option.any_eq_true, breaksClip, or_assoc]

/-- The partition's clips once the block's frame is of one. -/
def openClip (p : State) (part : Nat) (blk : List Byte) (clip : Option Clip) : Context :=
  match clip with
  | some y => setClip (p.ctx part) { y with last := egFrame blk }
  | none => { p.ctx part with clips := (p.ctx part).clips ++ [⟨egClip blk, egFW blk, egFH blk, egFrame blk, 0, gts p, [], false⟩] }

/-- The state in which the marker reads the planes of a tile, which follows the thread's earlier posted stores to them. -/
def readingPlanes (z : State) (t : Tid) (blk : List Byte) (planes : List Nat × List Nat × List Nat) : State :=
  let v := viewOf z t
  let p := settlePosted z t (planes.1 ++ planes.2.1 ++ planes.2.2)
  { p.setCtx (framePart z t) (openClip p (framePart z t) blk (namedClip z t blk)) with
    flights := p.flights ++ [.planes t (ctxOf z t) blk planes.1 planes.2.1 planes.2.2 (egAddr blk 48).toNat (egAddr blk 56) v.segBase v.segLimit] }

/-- What EGRS does with its block: Table 23.11's conditions in their order, then the tile. -/
def sendTile (z : State) (t : Tid) (blk : List Byte) (d : BitVec 5) : Except Stop (State × Next) :=
  let c := z.ctx (framePart z t)
  if (namedClip z t blk).isNone && 16 ≤ c.clips.length then egressState 1
  else if (namedClip z t blk).any (breaksClip blk) then egressState 2
  else match egPlanes z (viewOf z t) blk with
    | none => egressState 3
    | some planes =>
      if !egGeometry blk then egressState 4
      else toMarker c (namedClip z t blk) (frameDst z t blk (egTW blk * egTH blk * 3 / 2)) (egSignalCheck z (viewOf z t) (egAddr blk 56))
        (.ok (readingPlanes z t blk planes, .sent false d.toNat))

theorem exec_egrs (hi : Issues (homeForm [a]) s)
    (hk : ownBlock (begun (homeForm [a]) s) s.cur (s.me.readG a.toNat) 64 64 rRD = .ok (kind, ks)) :
    let z := settlePosted (begun (homeForm [a]) s) s.cur ks
    ∃ w body, exec (.egrs st d a b) s = issue (homeOp w st [a]) s body ∧
      body (begun (homeForm [a]) s) s.cur = sendTile z s.cur (readPlaces z ks) d := by
  intro z
  refine ⟨_, _, rfl, ?_⟩
  simp only [begun_readG hi.context]
  refine bind_of_ok hk (if_congr Iff.rfl rfl (if_congr Iff.rfl rfl ?_))
  show (if (egPlanes z (viewOf z s.cur) (readPlaces z ks)).isNone = true then _ else _) = _
  cases egPlanes z (viewOf z s.cur) (readPlaces z ks) with
  | none => rfl
  | some planes =>
    refine (if_neg nofun).trans (if_congr Iff.rfl rfl ?_)
    exact if_congr Iff.rfl rfl (if_congr Iff.rfl rfl (if_congr Iff.rfl rfl rfl))

theorem sendTile_noClip (h : namedClip z t blk = none) (hc : 16 ≤ (z.ctx (framePart z t)).clips.length) :
    sendTile z t blk d = egressState 1 := if_pos (by rw [h]; simpa using hc)

section Room

variable (h1 : ¬ ((namedClip z t blk).isNone = true ∧ 16 ≤ (z.ctx (framePart z t)).clips.length))
include h1

theorem sendTile_breaks (h : (namedClip z t blk).any (breaksClip blk) = true) : sendTile z t blk d = egressState 2 :=
  (if_neg (by simpa using h1)).trans (if_pos h)

variable (h2 : ¬ (namedClip z t blk).any (breaksClip blk) = true)
include h2

theorem sendTile_noPlanes (h : egPlanes z (viewOf z t) blk = none) : sendTile z t blk d = egressState 3 :=
  (if_neg (by simpa using h1)).trans ((if_neg h2).trans (by rw [h]))

variable {planes : List Nat × List Nat × List Nat} (h : egPlanes z (viewOf z t) blk = some planes)
include h

theorem sendTile_planes : sendTile z t blk d = if !egGeometry blk then egressState 4
    else toMarker (z.ctx (framePart z t)) (namedClip z t blk) (frameDst z t blk (egTW blk * egTH blk * 3 / 2))
      (egSignalCheck z (viewOf z t) (egAddr blk 56)) (.ok (readingPlanes z t blk planes, .sent false d.toNat)) :=
  (if_neg (by simpa using h1)).trans ((if_neg h2).trans (by rw [h]))

theorem sendTile_badGeometry (hg : egGeometry blk = false) : sendTile z t blk d = egressState 4 :=
  (sendTile_planes h1 h2 h).trans (if_pos (by rw [hg]; rfl))

theorem sendTile_toMarker (hg : egGeometry blk = true) : sendTile z t blk d =
    toMarker (z.ctx (framePart z t)) (namedClip z t blk) (frameDst z t blk (egTW blk * egTH blk * 3 / 2))
      (egSignalCheck z (viewOf z t) (egAddr blk 56)) (.ok (readingPlanes z t blk planes, .sent false d.toNat)) :=
  (sendTile_planes h1 h2 h).trans (if_neg (by rw [hg]; nofun))

end Room

/-- The state in which a clip's record has been asked for. -/
def askingRecord (z : State) (t : Tid) (blk : List Byte) : State :=
  let v := viewOf z t
  { z with flights := z.flights ++ [.egfin t (ctxOf z t) (egClip blk) (egAddr blk 48).toNat (egAddr blk 56) v.segBase v.segLimit (gts z)] }

/-- What EGFIN does with its block. -/
def endClip (z : State) (t : Tid) (blk : List Byte) (d : BitVec 5) : Except Stop (State × Next) :=
  if (namedClip z t blk).isNone || closing z (framePart z t) (egClip blk) then egressState 1
  else toMarker (z.ctx (framePart z t)) (namedClip z t blk) (frameDst z t blk 3520) (egSignalCheck z (viewOf z t) (egAddr blk 56))
    (gives (askingRecord z t blk) t d 0)

theorem exec_egfin (hi : Issues (homeForm [a]) s)
    (hk : ownBlock (begun (homeForm [a]) s) s.cur (s.me.readG a.toNat) 64 64 rRD = .ok (kind, ks)) :
    let z := settlePosted (begun (homeForm [a]) s) s.cur ks
    ∃ w body, exec (.egfin st d a b) s = issue (homeOp w st [a]) s body ∧
      body (begun (homeForm [a]) s) s.cur = endClip z s.cur (readPlaces z ks) d := by
  intro z
  refine ⟨_, _, rfl, ?_⟩
  simp only [begun_readG hi.context]
  exact bind_of_ok hk (if_congr Iff.rfl rfl (if_congr Iff.rfl rfl (if_congr Iff.rfl rfl (if_congr Iff.rfl rfl rfl))))

theorem endClip_absent (h : namedClip z t blk = none ∨ closing z (framePart z t) (egClip blk) = true) : endClip z t blk d = egressState 1 :=
  if_pos (by rcases h with h | h <;> simp [h])

theorem endClip_toMarker (h : namedClip z t blk = some y) (hc : closing z (framePart z t) (egClip blk) = false) : endClip z t blk d =
    toMarker (z.ctx (framePart z t)) (namedClip z t blk) (frameDst z t blk 3520) (egSignalCheck z (viewOf z t) (egAddr blk 56))
      (gives (askingRecord z t blk) t d 0) := if_neg (by rw [h, hc]; nofun)

end Egress

/-! ## The marker (R378, R379) -/

section Marker

variable {s : State} {n x dst : Nat} {t : Tid} {b : List Byte} {ys cbs crs : List Nat} {signal : Word} {sb sl : Vector Word 8}

/-- Once the marker has read the planes of a tile, while its die's clock runs, it holds the tile and the thread goes on. -/
theorem planeRead_planes (h : s.flights[n]? = some (.planes t x b ys cbs crs dst signal sb sl)) :
    planeRead n s = if settClock s (settOf t.core) then reply { s with flights := s.flights.eraseIdx n ++
      [.egress t x b (readPlaces s ys) (readPlaces s cbs) (readPlaces s crs) dst signal sb sl] } t 0 else s := by
  unfold planeRead
  rw [h]
  dsimp only
  cases settClock s (settOf t.core) <;> rfl

end Marker

/-! ## Running a collective (R376, R377) -/

section Collective

variable {s : State} {part group rank : Nat} {seq : BitVec 64} {g : Group}

theorem moves_collectiveCompletion (hg : groupOf s part group = some g) : Moves (.collectiveCompletion part group seq) s (runCollective s g seq) := by
  refine moves_of ?_
  show execCollectiveCompletion part group seq s = _
  rw [execCollectiveCompletion, hg]

/-- A contribution whose deadline has passed, where not every rank has contributed, fails the collective (R377). -/
theorem moves_collectiveTimeout {c : Contrib} {e : Nat} (hg : groupOf s part group = some g) (hn : (gathered s g seq).length < g.ranks.length)
    (hc : c ∈ gathered s g seq) (hr : c.rank = rank) (hp : c.pausedAt = none) (hd : c.deadline = some e) (he : e ≤ gts s) :
    Moves (.collectiveTimeout part group rank seq) s (failColl s g seq 1 fun _ => 1) := by
  refine moves_of ?_
  show execCollectiveTimeout part group rank seq s = _
  unfold execCollectiveTimeout
  rw [hg]
  refine if_pos ?_
  rw [Bool.and_eq_true, decide_eq_true_eq, List.any_eq_true]
  exact ⟨hn, c, hc, by simp [hr, hp, hd, he]⟩

variable (hf : s.collFails = [])
include hf

/-- No rank of a collective that has failed already waits to be told: the engine looks at what has been contributed. -/
theorem runCollective_disagrees (hd : disagree (gathered s g seq) = true) : runCollective s g seq = failColl s g seq 2 fun _ => 2 := by
  unfold runCollective
  rw [hf]
  exact if_pos hd

variable (hd : disagree (gathered s g seq) = false)
include hd

theorem runCollective_gone (hr : g.ranks.any (rankGone s) = true) : runCollective s g seq = failColl s g seq 3 fun _ => 3 := by
  unfold runCollective
  rw [hf]
  exact (if_neg (Bool.eq_false_iff.mp hd)).trans (if_pos hr)

theorem runCollective_completes {srcs : List (List Byte)} {dsts : List (List Nat)} {y : State} (hr : g.ranks.any (rankGone s) = false)
    (h0 : g.ranks.length ≠ 0) (hn : (gathered s g seq).length = g.ranks.length) (hc : collClocks s (gathered s g seq) = true)
    (ha : ∀ c ∈ gathered s g seq, asked s c.issuer.core c.miss = false) (hreach : collReach s g.ranks.length (gathered s g seq) = .ok (srcs, dsts))
    (ht : collTokens s g (gathered s g seq) = some y) :
    runCollective s g seq = ((gathered s g seq).zip dsts).foldl (fun s e => completeRank s srcs e) y := by
  have hany : ((gathered s g seq).any fun c => asked s c.issuer.core c.miss) = false := by
    rw [List.any_eq_false]
    exact fun c hmem => Bool.eq_false_iff.mp (ha c hmem)
  unfold runCollective
  rw [hf]
  refine (if_neg (Bool.eq_false_iff.mp hd)).trans ((if_neg (Bool.eq_false_iff.mp hr)).trans ((if_neg ?_).trans
    ((if_neg (Bool.eq_false_iff.mp hany)).trans ?_)))
  · rw [hn, hc]
    simp [h0]
  · rw [hreach]
    dsimp only
    rw [ht]

end Collective

/-- Settles O56: a block by its checks in their order; a collective by what its engine finds; a tile and a record at the marker. -/
theorem collectivesAndEgress : Obligations.CollectivesAndEgress := by
  unfold Obligations.CollectivesAndEgress
  refine ⟨?coll, ?egress, ?run, ?planes, ?marker⟩
  case coll =>
    intro st d a b s i form hm f z kind ks hi hk z' blk v part bad word hv sv h n old
    obtain ⟨w, hex⟩ := exec_coll hm s
    obtain ⟨body, he, hbad, hgood⟩ := collIssue_body (st := st) (d := d) (form := form) w hi hk
    have he := hex.trans he
    refine ⟨fun hb => raises_of he (homeOp_has w st [a]) rfl hi (hbad hb), fun g hb hg hsrc hdst hsig => ?_⟩
    have hb := hgood g hb hg hsrc hdst hsig
    refine ⟨fun hh hs => ?_, fun hs => ?_⟩
    · exact raises_of he (homeOp_has w st [a]) rfl hi (hb.trans (if_pos (by
        rw [Bool.and_eq_true, bne_iff_ne]
        exact ⟨hh, hs⟩)))
    · exact yields_of he (homeOp_has w st [a]) hi d.isLt (hb.trans (if_neg (by
        rw [Bool.and_eq_true, bne_iff_ne]
        exact fun hused => hused.2 (hs hused.1))))
  case egress =>
    intro st d a b s f kind ks hi hk z v x part c blk open_
    obtain ⟨w, body, he, hb⟩ := exec_egrs (st := st) (d := d) (b := b) hi hk
    obtain ⟨w', body', he', hb'⟩ := exec_egfin (st := st) (d := d) (b := b) hi hk
    have hraises {n : Nat} (h : sendTile z s.cur blk d = egressState n) : Raises (.egrs st d a b) s cEGRESS_STATE (BitVec.ofNat 64 n) :=
      raises_of he (homeOp_has w st [a]) rfl hi (hb.trans h)
    have hraises' {n : Nat} (h : endClip z s.cur blk d = egressState n) : Raises (.egfin st d a b) s cEGRESS_STATE (BitVec.ofNat 64 n) :=
      raises_of he' (homeOp_has w' st [a]) rfl hi (hb'.trans h)
    refine ⟨fun planes dst k => ?_, fun dst k y => ?_⟩
    · intro one two
      have hone : (namedClip z s.cur blk).isNone = true ∧ 16 ≤ (z.ctx (framePart z s.cur)).clips.length ↔ one := Iff.rfl
      have htwo : (namedClip z s.cur blk).any (breaksClip blk) = true ↔ two := any_breaksClip
      refine ⟨?_, ?_, ?_, ?_, ?_, ?_, ?_⟩
      · exact fun h => hraises (sendTile_noClip (Option.isNone_iff_eq_none.mp h.1) h.2)
      · exact fun h1 h2 => hraises (sendTile_breaks h1 (htwo.mpr h2))
      · exact fun h1 h2 h => hraises (sendTile_noPlanes h1 (mt htwo.mp h2) h)
      · exact fun h1 h2 h hg => hraises (sendTile_badGeometry h1 (mt htwo.mp h2) h hg)
      · exact fun h1 h2 h hg hh => hraises ((sendTile_toMarker h1 (mt htwo.mp h2) h hg).trans (toMarker_notHost hh))
      · intro h1 h2 h hg hh
        have hsend := sendTile_toMarker (d := d) h1 (mt htwo.mp h2) h hg
        exact ⟨fun hen => hraises (hsend.trans (toMarker_disabled hh hen)),
          fun hen hy => hraises (hsend.trans (toMarker_failed hh hen hy))⟩
      · intro h1 h2 h hg hh hen hy hk p c c'
        exact sends_of he (homeOp_has w st [a]) hi (hb.trans
          ((sendTile_toMarker h1 (mt htwo.mp h2) h hg).trans (toMarker_accepts hh hen hy hk)))
    · refine ⟨fun h => hraises' (endClip_absent h), fun hy hc hh => hraises' ((endClip_toMarker hy hc).trans (toMarker_notHost hh)),
        fun hy hc hh => ?_⟩
      have hend := endClip_toMarker (d := d) hy hc
      refine ⟨fun hen => hraises' (hend.trans (toMarker_disabled hh hen)),
        fun hen hf => hraises' (hend.trans (toMarker_failed hh hen ⟨y, hy, hf⟩)), fun hen hf hk => ?_⟩
      refine yields_of he' (homeOp_has w' st [a]) hi d.isLt (hb'.trans (hend.trans (toMarker_accepts hh hen ?_ hk)))
      intro y' hy'
      obtain rfl : y = y' := Option.some.inj (hy.symm.trans hy')
      exact hf
  case run =>
    intro part group rank seq g s hg cs n
    exact ⟨moves_collectiveCompletion hg, runCollective_disagrees, runCollective_gone,
      fun srcs dsts y hf hd hr h0 hn hc ha hreach ht => runCollective_completes hf hd hr h0 hn hc ha hreach ht,
      fun c e hn hc hr hp hd he => moves_collectiveTimeout hg hn hc hr hp hd he⟩
  case planes =>
    intro n x dst t b ys cbs crs signal sb sl s h
    exact ⟨fun hc => (planeRead_planes h).trans (if_pos hc), fun hc => (planeRead_planes h).trans (if_neg (Bool.eq_false_iff.mp hc))⟩
  case marker =>
    intro f s hm
    refine ⟨fun hf => moves_of ?_, fun hf => moves_of ?_⟩
    · show execEgressTileMark s = _
      unfold execEgressTileMark
      split
      next f' hf' =>
        obtain rfl : f = f' := Option.some.inj (hf.symm.trans hf')
        exact if_pos hm
      next hnone => cases hf.symm.trans hnone
    · show execClipRecord s = _
      unfold execClipRecord
      split
      next f' hf' =>
        obtain rfl : f = f' := Option.some.inj (hf.symm.trans hf')
        exact if_pos hm
      next hnone => cases hf.symm.trans hnone

end Sys2Proof

namespace Sys2Proof

open Machine

/-! ## A block of the own scratchpad and a shorter one at its address (R101, R407) -/

section OwnBlock

variable {s : State} {t : Tid} {v : View} {addr : Word} {n m align need : Nat} {r : Reach}

/-- The checks of a block of the own scratchpad, in their order. -/
theorem ownBlock_eq : ownBlock s t addr n align need =
    if (s.thread t).homeOf.isSome then .error .goHome
    else segCheck s (viewOf s t) addr n need >>= fun r =>
      if segKind (viewOf s t) addr ≠ 2 ∧ segKind (viewOf s t) addr ≠ 7 then .error (.trap cSEG_RIGHTS addr)
      else if addr.toNat % align ≠ 0 then .error (.trap cMISALIGN addr)
      else xlate s (viewOf s t) addr n need none r >>= fun ks => .ok (r.via, ks) := rfl

/-- A method's segment is a window of one of its buffers. -/
theorem methCheck_window (x : Meth) : ∃ buf lo len rights, ∀ n, methCheck x addr n need =
    if field addr 60 0 < lo ∨ len < field addr 60 0 + n then .error (.trap cSEG_LIMIT addr)
    else if hasRights rights need then .ok (.places 2 (span (methKey buf (field addr 60 0 - lo)) n))
    else .error (.trap cSEG_RIGHTS addr) := ⟨_, _, _, _, fun _ => rfl⟩

/-- A segment of the own scratchpad is a window that ends at its limit and at the scratchpad's bound. -/
theorem segCheck_ownSpad (hm : s.meth = none) (hk : segKind v addr = 2 ∨ segKind v addr = 7) :
    ∃ limit base rights, ∀ n, segCheck s v addr n need =
      if limit < field addr 60 0 + n ∨ spadBound (s.core v.core) < base + field addr 60 0 + n then .error (.trap cSEG_LIMIT addr)
      else if hasRights rights need then .ok (.places (segKind v addr) (span (spadKey v.core (base + field addr 60 0)) n))
      else .error (.trap cSEG_RIGHTS addr) := by
  refine ⟨field (v.segLimit.toList.getD (field addr 63 61) 0) 47 0, field (segBaseOf v addr) 47 0, segRights (segBaseOf v addr), fun n => ?_⟩
  unfold segCheck
  rw [hm]
  unfold segKind at hk ⊢
  dsimp only
  obtain hk | hk := hk
  · simp only [hk]
    grind
  · simp only [hk]
    grind

theorem methCheck_shorter {x : Meth} (hmn : m ≤ n) (h : methCheck x addr n need = .ok r) :
    ∃ k a, r = .places k (span a n) ∧ methCheck x addr m need = .ok (.places k (span a m)) := by
  obtain ⟨buf, lo, len, rights, hw⟩ := methCheck_window (addr := addr) (need := need) x
  rw [hw] at h ⊢
  split at h
  · cases h
  · split at h
    · exact ⟨_, _, (Except.ok.inj h).symm, by rw [if_neg (by omega), if_pos ‹_›]⟩
    · cases h

theorem segCheck_shorter (hmn : m ≤ n) (hk : segKind v addr = 2 ∨ segKind v addr = 7) (h : segCheck s v addr n need = .ok r) :
    ∃ k a, r = .places k (span a n) ∧ segCheck s v addr m need = .ok (.places k (span a m)) := by
  cases hm : s.meth with
  | some x =>
    unfold segCheck at h ⊢
    rw [hm] at h ⊢
    exact methCheck_shorter hmn h
  | none =>
    obtain ⟨limit, base, rights, hw⟩ := segCheck_ownSpad (need := need) hm hk
    rw [hw] at h ⊢
    split at h
    · cases h
    · split at h
      · exact ⟨_, _, (Except.ok.inj h).symm, by rw [if_neg (by omega), if_pos ‹_›]⟩
      · cases h

theorem any_contains_of_subset {as ks ls : List Nat} (hs : ∀ k ∈ ks, k ∈ ls) (h : as.any ls.contains = false) : as.any ks.contains = false := by
  simp only [List.any_eq_false, List.contains_iff_mem] at h ⊢
  exact fun a ha hk => h a ha (hs a hk)

/-- Of places that are sound every part is sound. -/
theorem soundPlaces_part {ks ls ls' : List Nat} (hs : ∀ k ∈ ks, k ∈ ls) (h : soundPlaces s addr need ls = .ok ls') :
    soundPlaces s addr need ks = .ok ks := by
  unfold soundPlaces at h ⊢
  split at h
  · cases h
  · next hp =>
    split at h
    · cases h
    · next hq =>
      rw [if_neg (Bool.eq_false_iff.mp (any_contains_of_subset hs (Bool.eq_false_iff.mpr hp))), if_neg]
      intro hc
      obtain ⟨hn, hc⟩ := Bool.and_eq_true_iff.mp hc
      exact hq (Bool.and_eq_true_iff.mpr ⟨hn, by
        by_contra hf
        exact absurd hc (Bool.eq_false_iff.mp (any_contains_of_subset hs (Bool.eq_false_iff.mpr hf)))⟩)

/-- Where a block of the own scratchpad can be reached, a shorter one at its address can. -/
theorem ownBlock_shorter {p : Via × List Nat} (hmn : m ≤ n) (h : ownBlock s t addr n align need = .ok p) :
    ∃ q, ownBlock s t addr m align need = .ok q := by
  rw [ownBlock_eq] at h ⊢
  split at h
  · cases h
  · next hhome =>
    rw [if_neg hhome]
    cases hr : segCheck s (viewOf s t) addr n need with
    | error e =>
      rw [bind_of_error hr] at h
      cases h
    | ok r =>
      rw [bind_of_ok hr rfl] at h
      split at h
      · cases h
      · next hkind =>
        split at h
        · cases h
        · next halign =>
          obtain ⟨k, a, rfl, hm⟩ := segCheck_shorter hmn (by omega) hr
          cases hx : xlate s (viewOf s t) addr n need none (.places k (span a n)) with
          | error e =>
            rw [bind_of_error hx] at h
            cases h
          | ok ks =>
            have hx : soundPlaces s addr need (span a m) = .ok (span a m) :=
              soundPlaces_part (fun i hi => by rw [mem_span] at hi ⊢; omega) hx
            exact ⟨_, bind_of_ok hm ((if_neg hkind).trans ((if_neg halign).trans (bind_of_ok hx rfl)))⟩

end OwnBlock
end Sys2Proof

namespace Sys2Proof

open Machine

/-! ## Catalogues by their number (R306) -/

section NamedCat

variable {z : State} {t : Tid} {id : Nat} {c : Cat}

/-- A Catalogue that a thread may call it may also name while it goes on waiting. -/
theorem catOf_old (h : catOf z t id false = some c) (old : Bool) : catOf z t id old = some c := by
  unfold catOf at h ⊢
  split at h
  · cases h
  · obtain ⟨hopen, heq⟩ := Option.ite_none_right_eq_some.mp h
    rw [← heq]
    simp only [Bool.and_eq_true, Bool.false_or] at hopen
    exact if_pos (by simp [hopen.1, hopen.2])

theorem catOf_gone (h : catOf z t id true = none) (old : Bool) : catOf z t id old = none := by
  cases old with
  | true => exact h
  | false =>
    by_contra hne
    obtain ⟨c, hc⟩ := Option.ne_none_iff_exists'.mp hne
    rw [catOf_old hc true] at h
    cases h

end NamedCat

/-! ## CNEAR (R310) -/

section Near

variable {st : BitVec 3} {d a b : BitVec 5} {s z y : State} {t : Tid} {w key : Word} {loc : Bool} {kind : Via} {hk : Via} {ks bs : List Nat}
  {c : Cat} {q : Search} {bytes : List Byte}

theorem exec_cnear {i : Instr} (h : (i, loc) ∈ ([(.cnear st d a b, false), (.cnearLocal st d a b, true)] : List (Instr × Bool))) (s : State) :
    ∃ x, exec i s = issue (objReadOp x st a b) s (cnearBody a.toNat b.toNat d.toNat loc) := by
  simp only [List.mem_cons, List.not_mem_nil, or_false, Prod.mk.injEq] at h
  obtain ⟨rfl, rfl⟩ | ⟨rfl, rfl⟩ := h
  · exact ⟨_, rfl⟩
  · exact ⟨_, rfl⟩

/-- The header of a search block at the places `ks`, as it is read at issue. -/
def searchHeader (z : State) (t : Tid) (ks : List Nat) : List Byte := readPlaces (settlePosted z t ks) ks

/-- The search as its first issue fixes it. -/
def firstSearch (hb : List Byte) (key : Word) (loc : Bool) (query : List Nat) : Search :=
  ⟨blkNat hb 0 1, key.toNat, loc, none, blkNat hb 1 1, blkNat hb 2 2, blkNat hb 4 1 % 2 == 1, query, false, [], [], false, false⟩

/-- The state in which the thread holds the search `q` and is parked until it is done. -/
def parkForSearch (y : State) (t : Tid) (q : Search) : State :=
  park (y.setThread t { (dropKept (y.thread t)).setKeptSnap none with search := some q }) t false .search

theorem parkForSearch_run (ht : t.thr < 16) : ∃ n, ((parkForSearch y t q).thread t).run = .parkedEngine .search n :=
  park_run ht (by decide)

theorem park_search {x : Wait} (ht : t.thr < 16) (hx : x ≠ .protect) : ((park z t false x).thread t).search = (z.thread t).search := by
  obtain ⟨n, h⟩ := park_thread (z := z) ht hx
  rw [h]
  unfold Thread.rewind
  split
  · rfl
  · rfl

theorem parkForSearch_search (ht : t.thr < 16) : ((parkForSearch y t q).thread t).search = some q := by
  unfold parkForSearch
  rw [park_search ht (by decide), setThread_thread _ _ _ ht]

/-- What a first issue does once it has read its query: the elements and the version in their order, then the search. -/
def beginSearch (y : State) (t : Tid) (c : Cat) (hb : List Byte) (key : Word) (loc : Bool) (query : List Nat) : Except Stop (State × Next) :=
  match badElement query with
  | some n => .error (.trap cVECTOR_VALUE (BitVec.ofNat 64 n))
  | none =>
    if c.tail < key.toNat then .error (.trap cVERSION_RANGE key)
    else .ok (parkForSearch y t (firstSearch hb key loc query), .placed)

section Begin

variable {hb : List Byte} {query : List Nat}

theorem beginSearch_badElement {n : Nat} (h : badElement query = some n) :
    beginSearch y t c hb key loc query = .error (.trap cVECTOR_VALUE (BitVec.ofNat 64 n)) := by
  unfold beginSearch
  rw [h]

theorem beginSearch_beyond (h : badElement query = none) (hv : c.tail < key.toNat) :
    beginSearch y t c hb key loc query = .error (.trap cVERSION_RANGE key) := by
  unfold beginSearch
  rw [h]
  exact if_pos hv

theorem beginSearch_parks (h : badElement query = none) (hv : key.toNat ≤ c.tail) :
    beginSearch y t c hb key loc query = .ok (parkForSearch y t (firstSearch hb key loc query), .placed) := by
  unfold beginSearch
  rw [h]
  exact if_neg (Nat.not_lt.mpr hv)

end Begin

/-- The state in which the thread's search is over. -/
def endSearch (y : State) (t : Tid) : State := y.setThread t { (y.thread t).setKeptSnap none with search := none }

section Body

variable (hw : (z.thread t).readG a.toNat = w) (hblk : ownBlock z t w 64 64 3 = .ok (hk, ks))
include hw hblk

section First

variable (hs : (z.thread t).search = none)
include hs

theorem cnearBody_absent (hc : catOf z t (blkNat (searchHeader z t ks) 0 1) true = none) :
    cnearBody a.toNat b.toNat d.toNat loc z t = .error (.trap cCAT_ABSENT w) := by
  unfold searchHeader at hc
  unfold cnearBody
  dsimp only
  rw [hw, hs]
  refine bind_of_ok hblk ?_
  dsimp only
  rw [catOf_gone hc]
  rfl

variable (hc : catOf z t (blkNat (searchHeader z t ks) 0 1) false = some c)
include hc

theorem cnearBody_badHeader {o v : Nat} (hq : (ownBlock z t w (64 + 4 * c.dim) 64 3).isOk = true)
    (hbad : searchBlockBad (searchHeader z t ks) = some (o, v)) :
    cnearBody a.toNat b.toNat d.toNat loc z t = .error (.trap cOPERAND_RANGE (BitVec.ofNat 64 (o + 65536 * v))) := by
  unfold searchHeader at hc hbad
  unfold cnearBody
  dsimp only
  rw [hw, hs]
  refine bind_of_ok hblk ?_
  dsimp only
  rw [catOf_old hc]
  cases hp : ownBlock z t w (64 + 4 * c.dim) 64 3 with
  | error e =>
    rw [hp] at hq
    cases hq
  | ok p =>
    refine bind_of_ok rfl (bind_of_ok hp ?_)
    rw [hbad]
    rfl

theorem cnearBody_begins (hb : (z.thread t).readG b.toNat = key) (hkept : (z.thread t).keptSnap = none)
    (hgood : searchBlockBad (searchHeader z t ks) = none)
    (hp : ownBlock z t w (64 + 4 * c.dim + 16 * blkNat (searchHeader z t ks) 1 1) 64 3 = .ok (kind, bs))
    (hl : loadAt z t kind (bs.take (64 + 4 * c.dim)) = .ok (y, bytes)) :
    cnearBody a.toNat b.toNat d.toNat loc z t = beginSearch y t c (searchHeader z t ks) key loc (blockVector bytes c.dim) := by
  obtain ⟨p, hshort⟩ := ownBlock_shorter (Nat.le_add_right _ _) hp
  unfold searchHeader at hc hgood hp
  unfold cnearBody
  dsimp only
  rw [hw, hb, hs, hkept]
  refine bind_of_ok hblk ?_
  dsimp only
  rw [Option.filter_none, catOf_old hc]
  refine bind_of_ok rfl (bind_of_ok hshort ?_)
  rw [hgood]
  refine bind_of_ok hp (bind_of_ok hl ?_)
  unfold beginSearch
  cases badElement (blockVector bytes c.dim) with
  | some n => rfl
  | none => exact if_congr Iff.rfl rfl rfl

end First

theorem cnearBody_ends (ht : t.thr < 16) (hs : (z.thread t).search = some q) (hd : q.done = true) (hc : catOf z t q.cat false = some c)
    (hp : ownBlock z t w (64 + 4 * c.dim + 16 * q.k) 64 3 = .ok (kind, bs))
    (hstore : storeAt z t kind ((bs.drop (64 + 4 * c.dim)).take (16 * q.k)) (resultBytes (c.copy (dieOf z t.core)).entries
      (found (c.copy (dieOf z t.core)).entries q (q.snap.getD 0)) q.k) = .ok y) :
    cnearBody a.toNat b.toNat d.toNat loc z t = gives (endSearch y t) t d
      (searchStatus (q.snap.getD 0) (found (c.copy (dieOf z t.core)).entries q (q.snap.getD 0)).length q.drift) := by
  obtain ⟨p, hshort⟩ := ownBlock_shorter (Nat.le_add_right _ _) hp
  unfold gives endSearch
  rw [setThread_setThread, setThread_thread _ _ _ ht]
  unfold cnearBody
  dsimp only
  rw [hw, hs]
  refine bind_of_ok hblk ?_
  dsimp only
  rw [catOf_old hc]
  refine bind_of_ok rfl (bind_of_ok hshort ?_)
  refine bind_of_ok hp ?_
  rw [hd]
  exact bind_of_ok hstore rfl

end Body

end Near
end Sys2Proof

namespace Sys2Proof

open Machine

/-! ## CSTV and CDEL: calls to a Catalogue's log (R308, R309) -/

section CatCalls

variable {st : BitVec 3} {d a b : BitVec 5} {s z y : State} {t : Tid} {w key : Word} {kind hk : Via} {ks bs : List Nat} {id scale : Nat}
  {c : Cat} {bytes : List Byte} {store : Bool} {codes : List Nat}

/-- The state in which a thread's call to a Catalogue is on its way to the log. -/
def sentCatCall (y : State) (t : Tid) (w : Word) (id : Nat) (store : Bool) (key : Word) (codes : List Nat) (scale : Nat) : State :=
  let y := drainPosted y t
  { y with flights := y.flights ++ [.append t true id (catCall y t store key codes scale) w] }

/-- What becomes of a call that has passed the checks of its own: the last version, the room of the log, then it leaves. -/
def appendCall (y : State) (t : Tid) (d : BitVec 5) (w : Word) (id : Nat) (c : Cat) (store : Bool) (key : Word) (codes : List Nat)
    (scale : Nat) : Except Stop (State × Next) :=
  if lastVersion ≤ c.tail then .error (.trap cOPERAND_RANGE w)
  else if c.full y then .error (.park false .reissue)
  else .ok (sentCatCall y t w id store key codes scale, .sent false d.toNat)

theorem appendCall_last (h : lastVersion ≤ c.tail) : appendCall y t d w id c store key codes scale = .error (.trap cOPERAND_RANGE w) :=
  if_pos h

theorem appendCall_parks (h : c.tail < lastVersion) (hf : c.full y = true) :
    appendCall y t d w id c store key codes scale = .error (.park false .reissue) :=
  (if_neg (Nat.not_le.mpr h)).trans (if_pos hf)

theorem appendCall_sends (h : c.tail < lastVersion) (hf : c.full y = false) :
    appendCall y t d w id c store key codes scale = .ok (sentCatCall y t w id store key codes scale, .sent false d.toNat) :=
  (if_neg (Nat.not_le.mpr h)).trans (if_neg (Bool.eq_false_iff.mp hf))

/-- The key that the block of a store names. -/
def storedKey (bytes : List Byte) : Word := BitVec.ofNat 64 (blkNat bytes 8 8)

/-- What CSTV does with the block that it has read. -/
def storeVector (y : State) (t : Tid) (d : BitVec 5) (w : Word) (id : Nat) (c : Cat) (bytes : List Byte) : Except Stop (State × Next) :=
  if storedKey bytes = BitVec.allOnes 64 then .error (.trap cOPERAND_RANGE (storedKey bytes))
  else match encodeVector c.fmt c.metric (blockVector bytes c.dim) with
    | .error n => .error (.trap cVECTOR_VALUE (BitVec.ofNat 64 n))
    | .ok e =>
      if c.cap ≤ c.stored then .error (.trap cCAT_FULL (BitVec.ofNat 64 c.cap))
      else appendCall y t d w id c true (storedKey bytes) e.1 e.2

theorem storeVector_badKey (h : storedKey bytes = BitVec.allOnes 64) :
    storeVector y t d w id c bytes = .error (.trap cOPERAND_RANGE (storedKey bytes)) := if_pos h

section GoodKey

variable (hkey : storedKey bytes ≠ BitVec.allOnes 64)
include hkey

theorem storeVector_badElement {n : Nat} (h : encodeVector c.fmt c.metric (blockVector bytes c.dim) = .error n) :
    storeVector y t d w id c bytes = .error (.trap cVECTOR_VALUE (BitVec.ofNat 64 n)) := by
  unfold storeVector
  rw [if_neg hkey, h]

variable {e : List Nat × Nat} (he : encodeVector c.fmt c.metric (blockVector bytes c.dim) = .ok e)
include he

theorem storeVector_full (h : c.cap ≤ c.stored) : storeVector y t d w id c bytes = .error (.trap cCAT_FULL (BitVec.ofNat 64 c.cap)) := by
  unfold storeVector
  rw [if_neg hkey, he]
  exact if_pos h

theorem storeVector_appends (h : c.stored < c.cap) :
    storeVector y t d w id c bytes = appendCall y t d w id c true (storedKey bytes) e.1 e.2 := by
  unfold storeVector
  rw [if_neg hkey, he]
  exact if_neg (Nat.not_le.mpr h)

end GoodKey

/-- The body of CSTV once the header of its block can be read: the Catalogue, then what becomes of the vector. -/
theorem exec_cstv (hi : Issues (homeForm [a]) s)
    (hblk : ownBlock (begun (homeForm [a]) s) s.cur (s.me.readG a.toNat) 64 64 rRD = .ok (hk, ks)) :
    let w := s.me.readG a.toNat
    let z := settlePosted (begun (homeForm [a]) s) s.cur ks
    let id := blkNat (readPlaces z ks) 0 1
    ∃ x body, exec (.cstv st d a b) s = issue (homeOp x st [a]) s body ∧
      (catOf z s.cur id true = none → body (begun (homeForm [a]) s) s.cur = .error (.trap cCAT_ABSENT w)) ∧
      (∀ c kind bs y bytes, catOf z s.cur id false = some c → ownBlock z s.cur w (64 + 4 * c.dim) 64 rRD = .ok (kind, bs) →
        loadAt (settlePosted z s.cur bs) s.cur kind bs = .ok (y, bytes) →
        body (begun (homeForm [a]) s) s.cur = storeVector y s.cur d w id c bytes) := by
  refine ⟨_, _, rfl, fun h => ?_, fun c kind bs y bytes hc hp hl => ?_⟩
  · simp only [begun_readG hi.context]
    refine bind_of_ok hblk ?_
    dsimp only
    rw [catOf_gone h]
    rfl
  · simp only [begun_readG hi.context]
    refine bind_of_ok hblk ?_
    dsimp only
    rw [hc]
    refine bind_of_ok rfl (bind_of_ok hp (bind_of_ok hl ?_))
    refine if_congr Iff.rfl rfl ?_
    cases encodeVector c.fmt c.metric (blockVector bytes c.dim) with
    | error n => rfl
    | ok e => exact if_congr Iff.rfl rfl (if_congr Iff.rfl rfl (if_congr Iff.rfl rfl rfl))

/-- What CDEL does to the Catalogue `c`. -/
def deleteKey (z : State) (t : Tid) (d : BitVec 5) (w key : Word) (c : Cat) : Except Stop (State × Next) :=
  if key = BitVec.allOnes 64 then .error (.trap cOPERAND_RANGE key)
  else appendCall z t d w (field w 7 0) c false key [] 0

theorem exec_cdel (hi : Issues (statForm a b) s) :
    let z := begun (statForm a b) s
    let w := s.me.readG a.toNat
    ∃ x body, exec (.cdel st d a b) s = issue (statOp x st a b) s body ∧
      (catOf z s.cur (field w 7 0) true = none → body z s.cur = .error (.trap cCAT_ABSENT w)) ∧
      (∀ c, catOf z s.cur (field w 7 0) false = some c → body z s.cur = deleteKey z s.cur d w (s.me.readG b.toNat) c) := by
  refine ⟨_, _, rfl, fun h => ?_, fun c h => ?_⟩
  · simp only [begun_readG hi.context, catOf_gone h]
  · simp only [begun_readG hi.context, h]
    rfl

end CatCalls

/-! ## CVER (R311) -/

section Versions

variable {st : BitVec 3} {d a b : BitVec 5} {s z : State} {t : Tid} {w : Word} {id : Nat} {c : Cat}

/-- How CVER issues. -/
def readForm (a b : BitVec 5) : Form := gForm [a, b]

/-- What the frame of every instruction knows of CVER. -/
def readOp (x : BitVec 32) (st : BitVec 3) (a b : BitVec 5) : Op :=
  { word := x, stall := st.toNat, reads := [(.g, a.toNat), (.g, b.toNat)], cls := .spec }

theorem readOp_has (x : BitVec 32) : (readOp x st a b).Has (readForm a b) := ⟨rfl, rfl, rfl, rfl, rfl, rfl, rfl, rfl⟩

/-- What CVER gives of the Catalogue `c` for a selector. -/
def catVersion (z : State) (t : Tid) (id : Nat) (c : Cat) (sel : Nat) : Nat :=
  match sel with
  | 0 => c.tail
  | 1 => (c.copy (dieOf z (homeTid z t).core)).applied
  | 2 => oldestPinned z id c.tail
  | _ => c.cap - c.stored

/-- A thread that reads the tail has been told it. -/
def toldTail (z : State) (t : Tid) (id : Nat) (c : Cat) (sel : Nat) : State :=
  if sel = 0 then z.setCat id (c.tell (homeTid z t) c.tail) else z

theorem toldTail_thread (sel : Nat) : (toldTail z t id c sel).thread t = z.thread t := by
  unfold toldTail
  split
  · rfl
  · rfl

theorem exec_cver (hi : Issues (readForm a b) s) :
    let z := begun (readForm a b) s
    let w := s.me.readG a.toNat
    let id := field w 7 0
    let sel := field (s.me.readG b.toNat) 1 0
    ∃ x body, exec (.cver st d a b) s = issue (readOp x st a b) s body ∧
      (catOf z s.cur id false = none → body z s.cur = .error (.trap cCAT_ABSENT w)) ∧
      (∀ c, catOf z s.cur id false = some c →
        body z s.cur = gives (toldTail z s.cur id c sel) s.cur d (BitVec.ofNat 64 (catVersion z s.cur id c sel))) := by
  refine ⟨_, _, rfl, fun h => ?_, fun c h => ?_⟩
  · simp only [begun_readG hi.context, h]
  · unfold gives
    rw [toldTail_thread]
    simp only [begun_readG hi.context, h]
    rfl

end Versions

/-! ## CATNEW and CATDEL (R307) -/

section Lifetime

variable {st : BitVec 3} {d a b : BitVec 5} {s z : State} {t : Tid} {w : Word} {blk : List Byte} {n cap : Nat} {c : Cat}

/-- CAT_MALFORMED with its reason (Table 19.5). -/
def malformedCat (r : Nat) : Except Stop (State × Next) := .error (.trap cCAT_MALFORMED (BitVec.ofNat 64 r))

/-- The bytes of the pool that each entry of a block's Catalogue uses. -/
def catEntryUse (z : State) (blk : List Byte) : Nat := entryUse z (blkNat blk 0 2) (blkNat blk 2 1) (blkNat blk 4 1)

/-- The bytes of the pool that a Catalogue of `cap` entries uses. -/
def catUse (z : State) (blk : List Byte) (cap : Nat) : Nat := Config.poolFixed + cap * catEntryUse z blk

/-- The state with the empty Catalogue `n` of a block at `w`. -/
def withCat (z : State) (t : Tid) (w : Word) (blk : List Byte) (n cap : Nat) : State :=
  let c := newCat (ctxOf z t) (dieOf z (homeTid z t).core) blk cap (catUse z blk cap)
  takePool ((useBlocks z t [(w, 64)]).setCat n c) (ctxOf z t) (catUse z blk cap)

/-- Using the translations of a block moves no thread and no sett. -/
theorem homeDie_useBlocks : dieOf (useBlocks z t [(w, 64)]) (homeTid (useBlocks z t [(w, 64)]) t).core = dieOf z (homeTid z t).core := by
  have hplaces : SamePlaces z (useAt z (viewOf z t) w 64) := by
    obtain h | ⟨i, r, p, h⟩ := useAt_cases z (viewOf z t) w 64
    · rw [h]
      exact SamePlaces.refl z
    · rw [h]
      exact (SamePlaces.refl z).setSett rfl
  have hhome : homeTid (useBlocks z t [(w, 64)]) t = homeTid z t := by
    unfold homeTid
    exact congrArg (fun x : Thread => x.homeOf.getD t) (useAt_thread _ _ _ _ _)
  rw [hhome]
  exact hplaces.dieOf _

/-- What CATNEW does with a block: reasons 1 to 7 in their order, then the Catalogue. -/
def defineCat (z : State) (t : Tid) (d : BitVec 5) (w : Word) (blk : List Byte) : Except Stop (State × Next) :=
  match catReason z blk with
  | some r => malformedCat r
  | none => match lowestFree fun i => (z.cats.find? i).isSome with
    | none => malformedCat 6
    | some n => match catCapacity (poolFree z (ctxOf z t)) (catEntryUse z blk) (blkNat blk 12 4) with
      | none => malformedCat 7
      | some cap => gives (withCat z t w blk n cap) t d (BitVec.ofNat 64 n)

theorem defineCat_reason {r : Nat} (h : catReason z blk = some r) : defineCat z t d w blk = malformedCat r := by
  unfold defineCat
  rw [h]

section Sound

variable (hr : catReason z blk = none)
include hr

theorem defineCat_noNumber (hn : lowestFree (fun i => (z.cats.find? i).isSome) = none) : defineCat z t d w blk = malformedCat 6 := by
  unfold defineCat
  rw [hr, hn]

variable (hn : lowestFree (fun i => (z.cats.find? i).isSome) = some n)
include hn

theorem defineCat_noRoom (hc : catCapacity (poolFree z (ctxOf z t)) (catEntryUse z blk) (blkNat blk 12 4) = none) :
    defineCat z t d w blk = malformedCat 7 := by
  unfold defineCat
  rw [hr, hn, hc]

theorem defineCat_gives (hc : catCapacity (poolFree z (ctxOf z t)) (catEntryUse z blk) (blkNat blk 12 4) = some cap) :
    defineCat z t d w blk = gives (withCat z t w blk n cap) t d (BitVec.ofNat 64 n) := by
  unfold defineCat
  rw [hr, hn, hc]

end Sound

theorem exec_catnew (hi : Issues (defineForm a) s) (hblk : anyBlock (begun (defineForm a) s) s.cur (s.me.readG a.toNat) 64 64 = .ok blk) :
    let z := begun (defineForm a) s
    ∃ x body, exec (.catnew st d a b) s = issue (defineOp x st a) s body ∧ body z s.cur = defineCat z s.cur d (s.me.readG a.toNat) blk := by
  refine ⟨_, _, rfl, ?_⟩
  simp only [begun_readG hi.context]
  refine bind_of_ok hblk ?_
  generalize begun (defineForm a) s = z
  generalize s.me.readG a.toNat = w
  cases hr : catReason z blk with
  | some r => exact (defineCat_reason hr).symm
  | none =>
    cases hn : lowestFree fun i => (z.cats.find? i).isSome with
    | none => exact (defineCat_noNumber hr hn).symm
    | some n =>
      cases hc : catCapacity (poolFree z (ctxOf z s.cur)) (catEntryUse z blk) (blkNat blk 12 4) with
      | none =>
        refine Eq.trans ?_ (defineCat_noRoom hr hn hc).symm
        unfold catEntryUse at hc
        refine bind_of_ok rfl ?_
        rw [hc]
        rfl
      | some cap =>
        refine Eq.trans ?_ (defineCat_gives hr hn hc).symm
        unfold catEntryUse at hc
        refine bind_of_ok rfl ?_
        rw [hc, homeDie_useBlocks]
        rfl

theorem park_cats {x : Wait} (hx : x ≠ .protect) : (park z t false x).cats = z.cats := by
  obtain ⟨n, h⟩ := park_eq (z := z) (t := t) hx
  rw [h]
  unfold State.setThread
  split
  · rfl
  · rfl

/-- The state in which a Catalogue is being deleted and the thread waits for its end. -/
def deletingCat (z : State) (t : Tid) (id : Nat) (c : Cat) : State :=
  park (z.setCat id { c with closing := true }) t false (.deleting true id)

theorem deletingCat_find? (id : Nat) : (deletingCat z t id c).cats.find? id = some { c with closing := true } := by
  unfold deletingCat
  rw [park_cats (by simp)]
  exact KMap.find?_insert_self _ _ _

theorem exec_catdel (hi : Issues (defineForm a) s) :
    let z := begun (defineForm a) s
    let w := s.me.readG a.toNat
    let id := field w 7 0
    ∃ x body, exec (.catdel st d a b) s = issue (defineOp x st a) s body ∧
      (catOf z s.cur id true = none → body z s.cur = .error (.trap cCAT_ABSENT w)) ∧
      (∀ c, catOf z s.cur id false = some c → catDone z id c = true → body z s.cur = .ok (freeCat z id c, .seq)) ∧
      (∀ c, catOf z s.cur id false = some c → catDone z id c = false → body z s.cur = .ok (deletingCat z s.cur id c, .placed)) := by
  refine ⟨_, _, rfl, fun h => ?_, fun c h hd => ?_, fun c h hd => ?_⟩
  · simp only [begun_readG hi.context, catOf_gone h]
  · simp only [begun_readG hi.context, catOf_old h, hd]
    rfl
  · simp only [begun_readG hi.context, catOf_old h, hd]
    rfl

end Lifetime

end Sys2Proof

namespace Sys2Proof

open Machine

/-- Settles O49: each instruction by what its body does with the block, the Catalogue and the version that it finds. -/
theorem catalogues : Obligations.Catalogues := by
  unfold Obligations.Catalogues
  intro st d a b s g h r c1 c2 w key named sends
  refine ⟨?near, ?storeAbsent, ?store, ?deleteAbsent, ?delete, ?version, ?versionAbsent, ?new, ?dropAbsent, ?drop⟩
  case near =>
    intro i loc hmem hk ks hi z hb k hblk
    obtain ⟨x, hex⟩ := exec_cnear hmem s
    have hth : z.thread s.cur = s.me := begun_thread_of_keeps hi.context rfl
    have hw : (z.thread s.cur).readG a.toNat = w := begun_readG hi.context _
    have hkey : (z.thread s.cur).readG b.toNat = key := begun_readG hi.context _
    rw [← hth]
    refine ⟨fun hs hc => ?_, fun c o v hs hc hq hbad => ?_, ?_, ?_⟩
    · exact raises_of hex objReadOp_has rfl hi (cnearBody_absent hw hblk hs hc)
    · exact raises_of hex objReadOp_has rfl hi (cnearBody_badHeader hw hblk hs hc hq hbad)
    · intro c kind bs y bytes hs hkept hc hgood hp hl query
      have hbody := cnearBody_begins (d := d) (loc := loc) hw hblk hs hc hkey hkept hgood hp hl
      refine ⟨fun n hn => ?_, fun hq hv => ?_, fun hq hv => ?_⟩
      · exact raises_of hex objReadOp_has rfl hi (hbody.trans (beginSearch_badElement hn))
      · exact raises_of hex objReadOp_has rfl hi (hbody.trans (beginSearch_beyond hq hv))
      · obtain ⟨s', he, -, hs'⟩ := settles_of hex objReadOp_has hi (hbody.trans (beginSearch_parks hq hv))
        refine ⟨s', he, ?_, ?_⟩
        · rw [hs']
          exact parkForSearch_run hi.context
        · rw [hs']
          exact parkForSearch_search hi.context
    · intro q c kind bs y hs hd hc hp es ms hstore
      exact yields_of hex objReadOp_has hi d.isLt (cnearBody_ends hw hblk hi.context hs hd hc hp hstore)
  case storeAbsent =>
    intro hk ks hi hblk z hc
    obtain ⟨x, body, hex, hgone, -⟩ := exec_cstv (st := st) (d := d) (b := b) hi hblk
    exact raises_of hex (homeOp_has _ _ _) rfl hi (hgone hc)
  case store =>
    intro hk ks kind bs c y bytes hi z id i key hblk hc hp hl
    obtain ⟨x, body, hex, -, hthere⟩ := exec_cstv (st := st) (d := d) (b := b) hi hblk
    have hbody := hthere c kind bs y bytes hc hp hl
    refine ⟨fun hkey => ?_, fun n hkey he => ?_, fun e hkey he =>
      ⟨fun hfull => ?_, fun hroom ht => ?_, fun hroom ht hf => ?_, fun hroom ht hf => ?_⟩⟩
    · exact raises_of hex (homeOp_has _ _ _) rfl hi (hbody.trans (storeVector_badKey hkey))
    · exact raises_of hex (homeOp_has _ _ _) rfl hi (hbody.trans (storeVector_badElement hkey he))
    · exact raises_of hex (homeOp_has _ _ _) rfl hi (hbody.trans (storeVector_full hkey he hfull))
    · exact raises_of hex (homeOp_has _ _ _) rfl hi (hbody.trans ((storeVector_appends hkey he hroom).trans (appendCall_last ht)))
    · exact stops_of hex (homeOp_has _ _ _) rfl hi (hbody.trans ((storeVector_appends hkey he hroom).trans (appendCall_parks ht hf)))
    · exact sends_of hex (homeOp_has _ _ _) hi (hbody.trans ((storeVector_appends hkey he hroom).trans (appendCall_sends ht hf)))
  case deleteAbsent =>
    intro hi hc
    obtain ⟨x, body, hex, hgone, -⟩ := exec_cdel (st := st) (d := d) (a := a) (b := b) hi
    exact raises_of hex (statOp_has _) rfl hi (hgone hc)
  case delete =>
    intro c hi hc
    obtain ⟨x, body, hex, -, hthere⟩ := exec_cdel (st := st) (d := d) (a := a) (b := b) hi
    have hbody := hthere c hc
    refine ⟨fun hkey => ?_, fun hkey ht => ?_, fun hkey ht hf => ?_, fun hkey ht hf => ?_⟩
    · exact raises_of hex (statOp_has _) rfl hi (hbody.trans (if_pos hkey))
    · exact raises_of hex (statOp_has _) rfl hi (hbody.trans ((if_neg hkey).trans (appendCall_last ht)))
    · exact stops_of hex (statOp_has _) rfl hi (hbody.trans ((if_neg hkey).trans (appendCall_parks ht hf)))
    · exact sends_of hex (statOp_has _) hi (hbody.trans ((if_neg hkey).trans (appendCall_sends ht hf)))
  case version =>
    intro c hi hc gives
    obtain ⟨x, body, hex, -, hthere⟩ := exec_cver (st := st) (d := d) (a := a) (b := b) hi
    have hyields := yields_of hex (readOp_has _) hi d.isLt (hthere c hc)
    refine ⟨fun hsel => ?_, fun hsel => ?_, fun hsel => ?_, fun hsel => ?_⟩
    · rw [hsel] at hyields
      exact hyields
    · rw [hsel] at hyields
      exact hyields
    · rw [hsel] at hyields
      exact hyields
    · rw [hsel] at hyields
      exact hyields
  case versionAbsent =>
    intro hi hc
    obtain ⟨x, body, hex, hgone, -⟩ := exec_cver (st := st) (d := d) (a := a) (b := b) hi
    exact raises_of hex (readOp_has _) rfl hi (hgone hc)
  case new =>
    intro blk n cap hi z x per hblk
    obtain ⟨o, body, hex, hbody⟩ := exec_catnew (st := st) (d := d) (b := b) hi hblk
    have bad {r : Nat} (hr : defineCat z s.cur d w blk = malformedCat r) :
        Raises (.catnew st d a b) s cCAT_MALFORMED (BitVec.ofNat 64 r) := raises_of hex defineOp_has rfl hi (hbody.trans hr)
    refine ⟨fun e he => bad (defineCat_reason he), fun hr hn => bad (defineCat_noNumber hr hn),
      fun hr hn hc => bad (defineCat_noRoom hr hn hc), fun hr hn hc => ?_⟩
    intro use
    exact yields_of hex defineOp_has hi d.isLt (hbody.trans (defineCat_gives hr hn hc))
  case dropAbsent =>
    intro hi hc
    obtain ⟨x, body, hex, hgone, -⟩ := exec_catdel (st := st) (d := d) (a := a) (b := b) hi
    exact raises_of hex defineOp_has rfl hi (hgone hc)
  case drop =>
    intro c hi hc z
    obtain ⟨x, body, hex, -, hends, hwaits⟩ := exec_catdel (st := st) (d := d) (a := a) (b := b) hi
    refine ⟨fun hd => passes_of hex defineOp_has hi (hends c hc hd), fun hd => ?_⟩
    obtain ⟨s', he, honly, hs'⟩ := settles_of hex defineOp_has hi (hwaits c hc hd)
    refine ⟨s', he, ?_, ?_⟩
    · have hcats : s'.cats = (deletingCat z s.cur (field w 7 0) c).cats := by
        have h := congrArg State.cats honly.rest
        exact h
      rw [hcats]
      exact deletingCat_find? _
    · rw [hs']
      exact park_run hi.context (by simp)

end Sys2Proof
